-- ==== Sys2Proof/Word.lean ====
section
/-!
DEFINITION. The word types of the model and the type of its sparse tables. Register contents are bit vectors; counts,
indices, addresses and fields already taken out of a word are natural numbers.
-/

namespace Sys2Proof

/-- A 32-bit register or data word (R11, "Registers are 32 bits wide"). -/
abbrev Word := BitVec 32

/-- One byte of a memory. -/
abbrev Byte := BitVec 8

/-- A 72-bit accumulator (R113). -/
abbrev Acc72 := BitVec 72

/-- A sparse table: the entries that differ from a default, by rising key. The canonical form and the operations are in
Machine/Ops.lean. -/
abbrev Tab (α : Type) := List (Nat × α)

end Sys2Proof
end

