-- ==== Sys2Proof/Syntax.lean ====
section
/-!
DEFINITION. The commands of the block: one constructor for each row of spec/opcode_table.json, in the table's order, with the
operands the row's rule gives it, and the data types those operands are made of. A command is one event at the block: a
register access of a function or the Millhouse, a syllable a stone issues, an event of a bus, a pin, a timer or the fabric, or
a Vorak command taken from a ring. What the outside decides (the data a host memory read returns, a level, a measured
reading, the outcome of a random draw or of a code's decoder) is an operand.
-/

namespace Sys2Proof

/-- A classifier key (R295): VLAN, IP version, destination address and bits 15:1 of the destination port. -/
structure ClsKey where
  vlan : Nat
  ipv : Nat
  addr : List Byte
  port : Nat
  deriving DecidableEq, Repr

/-- A slot of one copy of the table (R300): its state (0 EMPTY, 1 INACTIVE, 2 ACTIVE), key, polder, stream, PORTMODE and second-key
flag, and whether it reads uncorrectable. -/
structure Slot where
  st : Nat
  key : ClsKey
  polder : Nat
  stream : Nat
  portmode : Nat
  isAlias : Bool
  bad : Bool := false
  deriving DecidableEq, Repr

/-- An uncorrectable error that a lookup meets (R304): the position, and whether it lies in the tag array. -/
structure ClsUpset where
  pos : Nat
  tag : Bool
  deriving DecidableEq, Repr

/-- What a comparison finds in one copy in place of what was written to it (R305): the copy, the slot and the tag (0 for unoccupied). -/
structure ClsDiff where
  copy : Nat
  slot : Slot
  tag : Nat
  deriving DecidableEq, Repr

/-- A Tide time as a stamp holds it (R296): seconds, nanoseconds and 2⁻¹⁶ ns. -/
structure Stamp where
  sec : Nat
  ns : Nat
  frac : Nat
  deriving DecidableEq, Repr

/-- Where a self-timed stage stands (R45 to R48, R65, R70). -/
inductive Place where
  /-- Inside mill m. -/
  | mill (m : Nat)
  /-- In the canal router of a row, at one of its ports (R65), in the virtual lane (2 × polder + class, R67) whose word it carries. -/
  | router (row port vl : Nat)
  /-- In a millpond bank. -/
  | bank (b : Nat)
  /-- In lock n of a half (R70). -/
  | lock (half n : Nat)
  /-- In the die-to-die link of a half. -/
  | link (half : Nat)
  deriving DecidableEq, Repr

/-- The two rails of one data bit (R45): T and F. -/
structure Rail where
  t : Bool
  f : Bool
  deriving DecidableEq, Repr

/-- Where a canal flit goes (R65, R66): die 0 or 1 with a row and a port of its router, or die 2, the I/O die. -/
structure FlitDst where
  die : Nat
  row : Nat
  port : Nat
  deriving DecidableEq, Repr

/-- Who waits for a canal credit, a lock or another resource (R596): a stone, a hopper for one of its stones, a Vorak command of
a polder, a Millhouse operation, or a unit with no effect named for its abort. -/
inductive Requester where
  | stone (n : Nat) | hopper (stone : Nat) | vorak (polder ring tag : Nat) | millhouse | unit (n : Nat)
  deriving DecidableEq, Repr

/-- A canal flit: its polder and message class (0 request, 1 response) name its virtual lane (R67); with its requester, its tag and its 64 bytes of
payload. -/
structure Flit where
  polder : Nat
  cls : Nat
  dst : FlitDst
  tag : Nat
  who : Requester
  payload : BitVec 512 := 0
  deriving DecidableEq, Repr

/-- What a word in a lock FIFO is (R69, R72): a request, the response to one that crossed the other way, or any other word. -/
inductive LKind where
  | request | response | other
  deriving DecidableEq, Repr

/-- A word in a lock FIFO (R69): its kind, its tag (a response carries that of its request), its requester, and the canal flit it
carries, where it carries one. -/
structure LWord where
  kind : LKind
  tag : Nat
  who : Requester
  flit : Option Flit
  deriving DecidableEq, Repr

/-- What a requester waits for (R62, R73): credit of its flit's lane at an input port of a router, a lock, or another resource of the
order of R595, of which 0 is the host ring, 1 the Millhouse, 2 the Miller, 3 a mill and 4 memory. -/
inductive WaitOn where
  | lane (row port : Nat) (f : Flit)
  | lock (half n : Nat) (w : LWord)
  | resource (level tag : Nat)
  deriving DecidableEq, Repr

/-- A waiting requester with the ticks its wait watchdog has counted (R62), on the half whose VANE_WD holds its limit. -/
structure Waiter where
  half : Nat
  on : WaitOn
  who : Requester
  ticks : Nat
  deriving DecidableEq, Repr

/-- A wait watchdog that fires (R62): its half. -/
structure StallEvent where
  half : Nat
  deriving DecidableEq, Repr

/-- What happens at a lock's FIFO in one crossing (R69): a word is put in or taken out, in either direction. -/
inductive LockOp where
  | pushTx (w : LWord) | popTx | pushRx (w : LWord) | popRx
  deriving DecidableEq, Repr

/-- Where a syllable issues: the mill, the stone in it, the slot, whether it is the last syllable of its instruction bundle,
and what the codes and the residue checks of its unit find (R116, R138): 0 nothing, 1 a corrected error, 2 an uncorrectable
error or a residue mismatch. -/
structure Issue where
  mill : Nat
  stone : Nat
  slot : Nat
  last : Bool
  check : Nat
  deriving DecidableEq, Repr

/-- The addressing fields of the MEM format (R117, R139): address register, mode, pair, and the 11-bit off field. -/
structure Amode where
  an : Nat
  mode : Nat
  cp : Nat
  off : Nat
  deriving DecidableEq, Repr

/-- The near and far accesses that share the MEM format (R141). -/
inductive MemOp where
  | ldW | ldH | ldHU | ldD | stW | stH | stD | ldfW | ldfD | stfW | stfD | lea | lsave | lrest
  deriving DecidableEq, Repr

/-- The functions of an AMO (R137). -/
inductive AmoFn where
  | add | swap | cas | max | or
  deriving DecidableEq, Repr

/-- The MAC-slot products (R111, R112). -/
inductive MacOp where
  | mac4 | mul4 | mac32 | mul32
  deriving DecidableEq, Repr

/-- The operations of the ALU by fn (R143). -/
inductive AluOp where
  | add | sub | and | or | xor | shl | shr | sar | min | max | minu | maxu | abs | adds | subs | add2s | sub2s | clz
  | cmpeq | cmplt | cmpltu | sel | pack
  deriving DecidableEq, Repr

/-- One decoded syllable (R139 to R143); `bad` stands for a word that decodes to nothing. -/
inductive Syl where
  | nop
  | bad
  | mem (op : MemOp) (rd : Nat) (am : Amode)
  | amo (fn : AmoFn) (rd an : Nat)
  | mova (ra rs : Nat)
  | movd (rd ra : Nat)
  | movc (len : Bool) (k rs : Nat)
  | fence
  | mac (op : MacOp) (n da db sub : Nat) (frac neg : Bool)
  | accrd (n rd sh rnd : Nat) (w : Bool)
  | accclr (mask : Nat)
  | accmov (n m : Nat)
  | accsh (n sh : Nat)
  | accld (n rs sh : Nat)
  | alu (fn : AluOp) (rd rs rt : Nat)
  | addi (rd rs imm : Nat)
  | movi (rd imm : Nat)
  | movhi (rd imm : Nat)
  | andi (rd rs imm : Nat)
  | br (cond rs disp : Nat)
  | call (disp : Nat)
  | ret
  | loop (lvl : Nat) (byReg : Bool) (rs count len : Nat)
  | mfsr (rd idx : Nat)
  | mtsr (rs idx : Nat)
  | dbell (rs : Nat)
  | endU
  | endf (rs : Nat)
  | reti
  deriving DecidableEq, Repr

/-- A signal that the detectors' front ends find in the audio received on a side, up to the end of a release's frame (R238, R225): the event code it
would be (R242), its frequencies in 0.1 Hz and their levels in 0.1 dBm0, how long it has lasted in ms, whether its phase has reversed, its
amplitude modulation in 0.01 Hz and 0.1 %, the HDLC flags counted, the on and off times of a cadence in ms, and whether it is found where the
spec guarantees neither that it is nor that it is not. -/
structure Signal where
  code : Nat
  freqs : List Nat := []
  levels : List Int := []
  ms : Nat := 0
  reversal : Bool := false
  amHz : Nat := 0
  amDepth : Nat := 0
  flags : Nat := 0
  cadence : List (Nat × Nat) := []
  found : Bool := false
  deriving DecidableEq, Repr

/-- What a library kernel measures on the audio of one side of its channel in one release: the echo return loss and its enhancement and whether
the canceller has converged (R219), the signals its front ends find, silence below -50 dBm0 for 100 ms (R238), and both directions below -36 dBm0
(R225). -/
structure SideMeas where
  erl : Nat := 0
  erle : Nat := 0
  converged : Bool := false
  signals : List Signal := []
  silent : Bool := false
  quiet : Bool := false
  deriving DecidableEq, Repr

/-- What takes a link down (R360): lock lost at the PCS, a local fault or a remote fault. -/
inductive LinkCause where
  | lock | localFault | remoteFault
  deriving DecidableEq, Repr

/-- What the code of a memory finds on a read (R428, R431): good data, a corrected error (with the core die it restored, for HBM),
or an uncorrectable error. -/
inductive Chk where
  | ok
  | corrected (die : Nat)
  | bad
  deriving DecidableEq, Repr

/-- What a read of an HBM line meets (R428, R429): the symbols that are wrong, each with what is XORed into it (0 to 63 the data bytes, 64 to 87 the
check symbols), the line of the stack it is served from where a decoder or addressing fault gives another one, and the core die of the line's group
(0 to 3) that is lost from here on. -/
structure HbmUpset where
  errs : List (Nat × Nat) := []
  elsewhere : Option Nat := none
  lost : Option Nat := none
  deriving DecidableEq, Repr

/-- What a read of a SEC-DED word meets (R431): the bits that are wrong (0 to 63 of the data, 64 to 71 of the check), and the address of the word it
is served from where that is another one. -/
structure WordUpset where
  flips : List Nat := []
  elsewhere : Option Nat := none
  deriving DecidableEq, Repr

/-- What the read of a dirty line of a mill's millpond cache meets in one of its words (R430, R442). -/
structure CacheUpset where
  mill : Nat
  line : Nat
  word : Nat
  up : WordUpset
  deriving DecidableEq, Repr

/-- The reads of an HBM write that covers its first and its last line in part (R432). -/
structure HbmEdges where
  first : HbmUpset := {}
  last : HbmUpset := {}
  deriving DecidableEq, Repr

/-- The read of a millpond word; or those of a write that covers its first and its last word in part (R432). -/
structure PondEdges where
  first : WordUpset := {}
  last : WordUpset := {}
  deriving DecidableEq, Repr

/-- What a request of the directory reads (R430, R431, R443): the entry, the words of the line at its bank, by their place in it, and dirty lines of caches. -/
structure DirReads where
  entry : WordUpset := {}
  fill : List (Nat × WordUpset) := []
  dirty : List CacheUpset := []
  deriving DecidableEq, Repr

/-- The tag of the snoop that a mill answers (R440, R441), and what the read of its dirty line meets. -/
structure SnoopTag where
  tag : Nat
  dirty : List CacheUpset := []
  deriving DecidableEq, Repr

/-- What a read of the scrubber meets (R445): the HBM line, or the millpond word or directory entry with the dirty lines that a recall reads. -/
structure ScrubUpset where
  line : HbmUpset := {}
  word : WordUpset := {}
  dirty : List CacheUpset := []
  deriving DecidableEq, Repr

/-- The page to retire (R447), and what the copy of its lines to the spare meets (R448), by the line's place in the page. -/
structure RetirePage where
  page : Nat
  copies : List (Nat × HbmUpset) := []
  deriving DecidableEq, Repr

/-- A take of a bank of a stone's data memory (R134, R275): the bank, and whether the hopper and the Bolter wait for it. -/
structure BankTake where
  bank : Nat
  hopper : Bool
  bolter : Bool
  deriving DecidableEq, Repr

/-- What reads poisoned as a work unit is staged (R190): input items by their numbers in their queues, and jitter-buffer packets by port and place. -/
structure BadInputs where
  items : List Nat
  packets : List (Nat × Nat)
  deriving DecidableEq, Repr

/-- The start of a deferrable work unit (R180): the stone, and what its staging reads poisoned. -/
structure DeferStart where
  stone : Nat
  poisoned : BadInputs
  deriving DecidableEq, Repr

/-- The end of a Bolter job (R274): the stone, and what the code of the storage met on the way finds (R279). -/
structure JobEnd where
  stone : Nat
  chk : Chk
  deriving DecidableEq, Repr

/-- What the scrubber reads (R444, R445): the next line of the HBM walk, or the next word or directory entry of the millpond walk. -/
inductive ScrubWhat where
  | hbm | pond
  deriving DecidableEq, Repr

/-- What a mill asks of the directory (R439), or the start of an eviction (R440). -/
inductive DirReq where
  | load | store | amo | evict
  deriving DecidableEq, Repr

/-- A configuration request other than a function-level reset (R489): one with no effect here, VF Enable with NumVFs, the completion
timeout range, or the power state. -/
inductive CfgReq where
  | other | vfEnable (on : Bool) (numVfs : Nat) | timeoutRange (code : Nat) | powerState (d3 : Bool)
  deriving DecidableEq, Repr

/-- A DMA_WRITE in transfer that a function-level reset cuts (R522): its ring and tag, and the data that has arrived. -/
structure DmaCut where
  ring : Nat
  tag : Nat
  data : List Byte
  deriving DecidableEq, Repr

/-- The SPDM requests (R565, R566): the supported ones, with the two vendor-defined requests, and any other. -/
inductive SpdmReq where
  | getVersion | getCapabilities | negotiateAlgorithms | getDigests | getCertificate (slot : Nat) | challenge (slot : Nat) (nonce : List Byte)
  | getMeasurements (index : Nat) (signed : Bool) | vendorReport (nonce : List Byte) | vendorChains | other (code : Nat)
  deriving DecidableEq, Repr

/-- A message of the SMBus target (R578): the MCTP control commands, SPDM, or another type. -/
inductive MctpMsg where
  | setEid (eid : Nat) | getEid | getUuid | getVersions | getTypes | spdm (r : SpdmReq) | other (typ : Nat)
  deriving DecidableEq, Repr

/-- An instruction of the TAP (R568); an internal one may carry a debug token. -/
inductive TapInstr where
  | bypass | idcode | sample | extest | clamp | highz | internal (token : Option (List Byte))
  deriving DecidableEq, Repr

/-- Who reads an item of a queue, by its number, and whether the item reads poisoned: bad parity, or a millpond word that its code reports
uncorrectable (R338). -/
structure QRead where
  n : Nat
  bad : Bool := false
  deriving DecidableEq, Repr

/-- The commands (spec/opcode_table.json). Each constructor's docstring gives its row's mnemonic and rule. -/
inductive Instr where
  /-- REGISTER_WRITE (R11). -/
  | registerWrite (fn addr size data : Nat) (poisoned : Bool)
  /-- READ_CLEAR (R11). -/
  | readClear (fn addr size : Nat)
  /-- LATCHED_PAIR_READ (R14). -/
  | latchedPairRead (fn addr : Nat)
  /-- BLK_LOCK (R498). -/
  | blkLock (fn typ inst : Nat)
  /-- ERRLOG_CLR (R498). -/
  | errlogClr (fn typ inst : Nat)
  /-- BLK_IFORCE (R498). -/
  | blkIforce (fn typ inst data : Nat)
  /-- HANDSHAKE_TRANSFER (R46). -/
  | handshakeTransfer (pl : Place) (stage : Nat) (rails : List Rail) (completes : Bool)
  /-- STAGE_STALL (R61). -/
  | stageStall (pl : Place) (stage : Nat)
  /-- WAIT_STALL (R62). -/
  | waitStall (event : StallEvent)
  /-- TICK (R60). -/
  | tick
  /-- TICK_LOSS (R63). -/
  | tickLoss (half : Nat)
  /-- VANE_SAMPLE (R50). -/
  | vaneSample (half : Nat) (samples : List (Nat × List Nat))
  /-- AVS_UPDATE (R56). -/
  | avsUpdate
  /-- AVS_MODE_SET (R577). -/
  | avsModeSet (fn : Nat) (data : Nat)
  /-- PACE_LOG_RECORD (R59). -/
  | paceLogRecord
  /-- CANAL_FLIT (R66). -/
  | canalFlit (row port : Nat) (inject : Option (Nat × Flit))
  /-- LOCK_WORD_CROSS (R69). -/
  | lockWordCross (half n : Nat) (op : LockOp) (badPointer : Bool)
  /-- LOCK_STOP_REQUEST (R72). -/
  | lockStopRequest (half n : Nat) (winner : Option LWord)
  /-- LOCK_STOPPED (R72). -/
  | lockStopped (half n : Nat)
  /-- LOCK_WAKE (R73). -/
  | lockWake (half n : Nat) (w : LWord)
  /-- LOCK_RUN (R73). -/
  | lockRun (half n : Nat)
  /-- LOCK_WAKE_TIMEOUT (R73). -/
  | lockWakeTimeout (half n : Nat)
  /-- CLOCKED_SIDE_RESET (R74). -/
  | clockedSideReset (half n : Nat) (torn : Option (Nat × Nat))
  /-- CLOCKED_SIDE_RESET_RELEASE (R74). -/
  | clockedSideResetRelease (half n : Nat)
  /-- NOP (R104). -/
  | nop (iss : Issue) (word : Nat)
  /-- LD_W (R141). -/
  | ldW (iss : Issue) (rd : Nat) (am : Amode)
  /-- LD_H (R141). -/
  | ldH (iss : Issue) (rd : Nat) (am : Amode)
  /-- LD_HU (R141). -/
  | ldHu (iss : Issue) (rd : Nat) (am : Amode)
  /-- LD_D (R141). -/
  | ldD (iss : Issue) (rd : Nat) (am : Amode)
  /-- ST_W (R141). -/
  | stW (iss : Issue) (rd : Nat) (am : Amode)
  /-- ST_H (R133). -/
  | stH (iss : Issue) (rd : Nat) (am : Amode)
  /-- ST_D (R141). -/
  | stD (iss : Issue) (rd : Nat) (am : Amode)
  /-- LDF_W (R141). -/
  | ldfW (iss : Issue) (rd : Nat) (am : Amode)
  /-- LDF_D (R141). -/
  | ldfD (iss : Issue) (rd : Nat) (am : Amode)
  /-- STF_W (R141). -/
  | stfW (iss : Issue) (rd : Nat) (am : Amode)
  /-- STF_D (R141). -/
  | stfD (iss : Issue) (rd : Nat) (am : Amode)
  /-- AMO_ADD (R137). -/
  | amoAdd (iss : Issue) (rd an : Nat)
  /-- AMO_SWAP (R137). -/
  | amoSwap (iss : Issue) (rd an : Nat)
  /-- AMO_CAS (R137). -/
  | amoCas (iss : Issue) (rd an : Nat)
  /-- AMO_MAX (R137). -/
  | amoMax (iss : Issue) (rd an : Nat)
  /-- AMO_OR (R137). -/
  | amoOr (iss : Issue) (rd an : Nat)
  /-- LEA (R141). -/
  | lea (iss : Issue) (am : Amode)
  /-- MOVA (R141). -/
  | mova (iss : Issue) (ra rs : Nat)
  /-- MOVD (R141). -/
  | movd (iss : Issue) (rd ra : Nat)
  /-- MOVC (R141). -/
  | movc (iss : Issue) (len : Bool) (k rs : Nat)
  /-- LSAVE (R123). -/
  | lsave (iss : Issue) (am : Amode)
  /-- LREST (R123). -/
  | lrest (iss : Issue) (am : Amode)
  /-- FENCE (R136). -/
  | fence (iss : Issue)
  /-- MAC4 (R111). -/
  | mac4 (iss : Issue) (n da db sub : Nat) (frac neg : Bool)
  /-- MUL4 (R111). -/
  | mul4 (iss : Issue) (n da db sub : Nat) (frac neg : Bool)
  /-- MAC32 (R112). -/
  | mac32 (iss : Issue) (n da db sub : Nat) (frac neg : Bool)
  /-- MUL32 (R112). -/
  | mul32 (iss : Issue) (n da db sub : Nat) (frac neg : Bool)
  /-- ACCRD (R114). -/
  | accrd (iss : Issue) (n rd sh rnd : Nat) (w : Bool)
  /-- ACCCLR (R142). -/
  | accclr (iss : Issue) (mask : Nat)
  /-- ACCMOV (R142). -/
  | accmov (iss : Issue) (n m : Nat)
  /-- ACCSH (R114). -/
  | accsh (iss : Issue) (n sh : Nat)
  /-- ACCLD (R114). -/
  | accld (iss : Issue) (n rs sh : Nat)
  /-- ADD (R143). -/
  | add (iss : Issue) (rd rs rt : Nat)
  /-- SUB (R143). -/
  | sub (iss : Issue) (rd rs rt : Nat)
  /-- AND (R143). -/
  | andR (iss : Issue) (rd rs rt : Nat)
  /-- OR (R143). -/
  | orR (iss : Issue) (rd rs rt : Nat)
  /-- XOR (R143). -/
  | xor (iss : Issue) (rd rs rt : Nat)
  /-- SHL (R115). -/
  | shl (iss : Issue) (rd rs rt : Nat)
  /-- SHR (R115). -/
  | shr (iss : Issue) (rd rs rt : Nat)
  /-- SAR (R115). -/
  | sar (iss : Issue) (rd rs rt : Nat)
  /-- MIN (R143). -/
  | minR (iss : Issue) (rd rs rt : Nat)
  /-- MAX (R143). -/
  | maxR (iss : Issue) (rd rs rt : Nat)
  /-- MINU (R143). -/
  | minu (iss : Issue) (rd rs rt : Nat)
  /-- MAXU (R143). -/
  | maxu (iss : Issue) (rd rs rt : Nat)
  /-- ABS (R115). -/
  | absR (iss : Issue) (rd rs : Nat)
  /-- ADDS (R115). -/
  | adds (iss : Issue) (rd rs rt : Nat)
  /-- SUBS (R115). -/
  | subs (iss : Issue) (rd rs rt : Nat)
  /-- ADD2S (R115). -/
  | add2s (iss : Issue) (rd rs rt : Nat)
  /-- SUB2S (R115). -/
  | sub2s (iss : Issue) (rd rs rt : Nat)
  /-- CLZ (R143). -/
  | clz (iss : Issue) (rd rs : Nat)
  /-- CMPEQ (R143). -/
  | cmpeq (iss : Issue) (rd rs rt : Nat)
  /-- CMPLT (R143). -/
  | cmplt (iss : Issue) (rd rs rt : Nat)
  /-- CMPLTU (R143). -/
  | cmpltu (iss : Issue) (rd rs rt : Nat)
  /-- SEL (R143). -/
  | sel (iss : Issue) (rd rs rt : Nat)
  /-- PACK (R143). -/
  | pack (iss : Issue) (rd rs rt : Nat)
  /-- ADDI (R143). -/
  | addi (iss : Issue) (rd rs imm : Nat)
  /-- MOVI (R143). -/
  | movi (iss : Issue) (rd imm : Nat)
  /-- MOVHI (R143). -/
  | movhi (iss : Issue) (rd imm : Nat)
  /-- ANDI (R143). -/
  | andi (iss : Issue) (rd rs imm : Nat)
  /-- BR (R140). -/
  | br (iss : Issue) (cond rs disp : Nat)
  /-- CALL (R143). -/
  | call (iss : Issue) (disp : Nat)
  /-- RET (R143). -/
  | ret (iss : Issue)
  /-- LOOP (R121). -/
  | loop (iss : Issue) (lvl : Nat) (byReg : Bool) (rs count len : Nat)
  /-- MFSR (R144). -/
  | mfsr (iss : Issue) (rd idx : Nat)
  /-- MTSR (R144). -/
  | mtsr (iss : Issue) (rs idx : Nat)
  /-- DBELL (R131). -/
  | dbell (iss : Issue) (rs : Nat)
  /-- END (R125). -/
  | endU (iss : Issue)
  /-- ENDF (R125). -/
  | endf (iss : Issue) (rs : Nat)
  /-- RETI (R128). -/
  | reti (iss : Issue)
  /-- FAR_ACCESS_COMPLETE (R136). -/
  | farAccessComplete (stone k : Nat) (up : WordUpset)
  /-- ICACHE_FILL (R135). -/
  | icacheFill (stone line : Nat) (victim : Nat) (uncorrectable : Bool)
  /-- INTERRUPT_ENTRY (R127). -/
  | interruptEntry (stone : Nat)
  /-- DOORBELL_MESSAGE (R131). -/
  | doorbellMessage (sender mill stone bits epoch : Nat)
  /-- HOPPER_BANK_TAKE (R134). -/
  | hopperBankTake (stone : Nat) (take : BankTake)
  /-- WORK_UNIT_OVERRUN (R170). -/
  | workUnitOverrun (stone : Nat)
  /-- STONE_HALT (R158). -/
  | stoneHalt (fn mill stone : Nat)
  /-- STONE_STEP (R158). -/
  | stoneStep (fn mill stone : Nat)
  /-- STONE_RESUME (R158). -/
  | stoneResume (fn mill stone : Nat)
  /-- ICINV (R147). -/
  | icinv (fn mill data : Nat)
  /-- BIN_SPLIT_WRITE (R150). -/
  | binSplitWrite (fn mill data : Nat)
  /-- WINDOW_READ (R153). -/
  | windowRead (fn mill : Nat)
  /-- WINDOW_WRITE (R153). -/
  | windowWrite (fn mill data : Nat)
  /-- TIDE_TURN_MARK (R397). -/
  | tideTurnMark
  /-- TURN_BOUNDARY (R160). -/
  | turnBoundary (half : Nat) (early : Bool)
  /-- MARK_LOSS (R163). -/
  | markLoss (half : Nat)
  /-- SUBSTITUTE_BOUNDARY (R163). -/
  | substituteBoundary (half : Nat)
  /-- CONTEXT_PREFETCH (R182). -/
  | contextPrefetch (stone : Nat)
  /-- PREFETCH_COMPLETE (R182). -/
  | prefetchComplete (stone slot : Nat) (poison : Bool)
  /-- WORK_UNIT_STAGE (R183). -/
  | workUnitStage (stone : Nat) (poisoned : BadInputs)
  /-- WORK_UNIT_SEALED (R185). -/
  | workUnitSealed (stone : Nat) (meas : List SideMeas) (levels : List (Nat × Nat))
  /-- FLUME_WRITEBACK_DONE (R184). -/
  | flumeWritebackDone (role slot : Nat) (poison : Bool)
  /-- DEFERRABLE_START (R180). -/
  | deferrableStart (start : DeferStart)
  /-- RESERVE_WRITE (R176). -/
  | reserveWrite (fn half data : Nat)
  /-- BOLTER_JOB_DONE (R274). -/
  | bolterJobDone (done : JobEnd)
  /-- CHAIN_CONFIG_WRITE (R265). -/
  | chainConfigWrite (fn mill data : Nat)
  /-- BANK_SWAP (R263). -/
  | bankSwap (fn mill data : Nat)
  /-- COEF_ACCESS (R289). -/
  | coefAccess (fn mill : Nat) (data : Option Nat)
  /-- FRAME_RECEIVE (R361). -/
  | frameReceive (port : Nat) (data : List Byte) (fcsBad codeErr : Bool) (sfd now : Nat)
  /-- LOOKUP (R298). -/
  | lookup (half : Nat) (upset : Option ClsUpset) (both ctxBad : Bool)
  /-- CLASSIFIER_SLOT_REWRITE (R304). -/
  | classifierSlotRewrite (pos : Nat)
  /-- CLASSIFIER_COMPARE (R305). -/
  | classifierCompare (pos : Nat) (diff : Option ClsDiff) (clean : Option Nat)
  /-- RTCP_SEND (R322). -/
  | rtcpSend (stream next : Nat)
  /-- QUEUE_WIN_READ (R335). -/
  | queueWinRead (fn : QRead)
  /-- QUEUE_MARK (R336). -/
  | queueMark (fn : Nat)
  /-- QUEUE_REWIND (R336). -/
  | queueRewind (fn : Nat)
  /-- QUEUE_RELEASE (R336). -/
  | queueRelease (fn : Nat)
  /-- FRAME_TRANSMIT_START (R365). -/
  | frameTransmitStart (port : QRead) (sfd now : Nat)
  /-- TRANSMIT_UNDERRUN (R365). -/
  | transmitUnderrun (port : Nat)
  /-- FRAME_TRANSMIT_END (R364). -/
  | frameTransmitEnd (port now : Nat)
  /-- TAILRACE_LINK_DISCARD (R341). -/
  | tailraceLinkDiscard (port polder prio : Nat)
  /-- PMODE_WRITE (R357). -/
  | pmodeWrite (fn mac data : Nat)
  /-- LINK_DOWN (R360). -/
  | linkDown (port : Nat) (cause : LinkCause)
  /-- LINK_UP (R360). -/
  | linkUp (port : Nat)
  /-- AN_DONE (R389). -/
  | anDone (lane : Nat)
  /-- LT_FAIL (R389). -/
  | ltFail (lane : Nat)
  /-- PFC_FRAME_RECEIVE (R367). -/
  | pfcFrameReceive (port classes : Nat) (quanta : List Nat) (now : Nat)
  /-- PFC_PAUSE_EXPIRE (R367). -/
  | pfcPauseExpire (port prio now : Nat)
  /-- PFC_TX_REQUEST (R368). -/
  | pfcTxRequest (fn port quanta classes : Nat)
  /-- GATE_WINDOW_START (R370). -/
  | gateWindowStart (port now : Nat)
  /-- SLUICE_SWAP_REQUEST (R372). -/
  | sluiceSwapRequest (fn port : Nat)
  /-- SLUICE_MODE_WRITE (R372). -/
  | sluiceModeWrite (fn port : Nat) (mode : Bool)
  /-- GCL_DATA_ACCESS (R392). -/
  | gclDataAccess (fn port : Nat) (data : Option Nat)
  /-- MG_TX_TAIL_WRITE (R381). -/
  | mgTxTailWrite (fn tail : Nat)
  /-- MG_TX_COMPLETE (R381). -/
  | mgTxComplete (desc frame : Option (List Byte))
  /-- MG_FRAME_RECEIVE (R378). -/
  | mgFrameReceive (data : List Byte) (fcsBad : Bool) (desc : Option (List Byte)) (written : Bool)
  /-- MG_COLLISION (R379). -/
  | mgCollision (late : Bool) (draw : Nat)
  /-- MG_BACKOFF_EXPIRE (R379). -/
  | mgBackoffExpire
  /-- MG_PLCA_BEACON (R380). -/
  | mgPlcaBeacon
  /-- MG_PLCA_TIMEOUT (R380). -/
  | mgPlcaTimeout
  /-- MDIO_START (R394). -/
  | mdioStart (fn data : Nat)
  /-- MDIO_DONE (R394). -/
  | mdioDone (data : Nat)
  /-- REF_WINDOW_END (R400). -/
  | refWindowEnd (ref : Nat) (good : Bool)
  /-- REF_LOSS (R400). -/
  | refLoss (ref now : Nat)
  /-- REFSEL_WRITE (R400). -/
  | refselWrite (fn sel : Nat)
  /-- OFFSET_SAMPLE_WRITE (R407). -/
  | offsetSampleWrite (fn ns now : Nat)
  /-- CAPTURE_EDGE (R406). -/
  | captureEdge (input : Nat) (falling : Bool) (now : Nat)
  /-- SOURCE_LOSS (R407). -/
  | sourceLoss (src now : Nat)
  /-- STEP_AUTH (R411). -/
  | stepAuth (fn now : Nat)
  /-- TIME_STEP (R411). -/
  | timeStep
  /-- HOLDOVER_BUDGET_EXPIRE (R413). -/
  | holdoverBudgetExpire (now : Nat)
  /-- PULSE_EDGE (R415). -/
  | pulseEdge (output now : Nat)
  /-- PULSE_END (R415). -/
  | pulseEnd (output now : Nat)
  /-- TS_POP (R405). -/
  | tsPop (fn : Nat)
  /-- TIDE_NOW_READ (R422). -/
  | tideNowRead (fn now : Nat)
  /-- HBM_READ (R428). -/
  | hbmRead (req polder addr : Nat) (up : HbmUpset)
  /-- HBM_WRITE (R432). -/
  | hbmWrite (req polder addr : Nat) (data : List Byte) (torn : Option Nat) (up : HbmEdges)
  /-- POND_ACCESS (R432). -/
  | pondAccess (req off : Nat) (data : Option (List Byte)) (torn : Option Nat) (up : PondEdges)
  /-- DIRECTORY_REQUEST (R439). -/
  | directoryRequest (mill line : Nat) (kind : DirReq) (way : Nat) (reads : DirReads)
  /-- SNOOP_ANSWER (R440). -/
  | snoopAnswer (mill : Nat) (snoop : SnoopTag)
  /-- EVICT_NOTICE (R441). -/
  | evictNotice (mill line : Nat)
  /-- EVICT_ACK (R440). -/
  | evictAck (mill line : Nat)
  /-- SCRUB_READ (R445). -/
  | scrubRead (h : Nat) (what : ScrubWhat) (up : ScrubUpset)
  /-- LOG_CLEAR (R460). -/
  | logClear (fn typ inst : Nat)
  /-- PAGE_RETIRE (R447). -/
  | pageRetire (fn slice : Nat) (page : RetirePage)
  /-- RETIRE_DONE (R448). -/
  | retireDone (slice : Nat)
  /-- LEDGER_RECORD_WRITE (R453). -/
  | ledgerRecordWrite (own : Option (Nat × Nat × List Byte))
  /-- LEDGER_COMMIT (R453). -/
  | ledgerCommit
  /-- LEDGER_RECOVERY (R454). -/
  | ledgerRecovery (words : List (Nat × WordUpset)) (unreadable : Bool)
  /-- LEDGER_RD_ACCESS (R463). -/
  | ledgerRdAccess (fn : Nat) (up : WordUpset)
  /-- CREATE (R471). -/
  | create (p ring tag : Nat)
  /-- ENABLE (R471). -/
  | enable (p ring tag : Nat)
  /-- GRANT_MILL (R471). -/
  | grantMill (p ring tag : Nat)
  /-- REVOKE_MILL (R471). -/
  | revokeMill (p ring tag : Nat)
  /-- GRANT_PARCELS (R471). -/
  | grantParcels (p ring tag : Nat)
  /-- REVOKE_PARCELS (R471). -/
  | revokeParcels (p ring tag : Nat)
  /-- SET_STREAMS (R471). -/
  | setStreams (p ring tag : Nat)
  /-- SET_PWIN (R481). -/
  | setPwin (p ring tag : Nat)
  /-- KEY_ENROL (R484). -/
  | keyEnrol (p ring tag : Nat) (keys : Option (List Byte))
  /-- KEY_REMOVE (R484). -/
  | keyRemove (p ring tag : Nat) (id : Option (List Byte))
  /-- RESET (R472). -/
  | reset (p ring tag : Nat)
  /-- DESTROY (R473). -/
  | destroy (p ring tag : Nat)
  /-- ROLE_CHANGE_COMPLETE (R482). -/
  | roleChangeComplete (mill : Nat) (badReadBack : Bool)
  /-- ZERO_DONE (R477). -/
  | zeroDone (polder : Nat)
  /-- SQ_DOORBELL (R502). -/
  | sqDoorbell (fn ring tail : Nat)
  /-- COMMAND_TAKE (R502). -/
  | commandTake (polder : Nat) (read : Option (List Byte))
  /-- COAL_TIMER (R503). -/
  | coalTimer (polder ring : Nat)
  /-- CQ_HEAD_WRITE (R528). -/
  | cqHeadWrite (fn ring head : Nat)
  /-- RING_ENABLE (R528). -/
  | ringEnable (fn ring data : Nat)
  /-- RX_DELIVER (R504). -/
  | rxDeliver (polder : Nat) (k : QRead)
  /-- NOTICE_DELIVER (R505). -/
  | noticeDeliver (polder : QRead)
  /-- RX_CONS_WRITE (R528). -/
  | rxConsWrite (fn k cons : Nat)
  /-- NOP_COMMAND (R516). -/
  | nopCommand (p ring tag : Nat)
  /-- ABORT (R518). -/
  | abort (p ring tag : Nat)
  /-- QUERY (R516). -/
  | query (p ring tag : Nat)
  /-- BIND_STREAM (R312). -/
  | bindStream (p ring tag : Nat) (desc : Option (List Byte))
  /-- BIND_CHANNEL (R515). -/
  | bindChannel (p ring tag : Nat) (params : Option (List Byte))
  /-- BIND_BUNDLE (R516). -/
  | bindBundle (p ring tag : Nat)
  /-- ACTIVATE (R514). -/
  | activate (p ring tag : Nat)
  /-- MODIFY (R217). -/
  | modify (p ring tag : Nat) (data : Option (List Byte))
  /-- DRAIN (R514). -/
  | drain (p ring tag : Nat)
  /-- STATUS (R517). -/
  | status (p ring tag : Nat)
  /-- JOIN (R243). -/
  | join (p ring tag : Nat)
  /-- LEAVE (R246). -/
  | leave (p ring tag : Nat)
  /-- TONE (R240). -/
  | tone (p ring tag : Nat)
  /-- CONTROL (R516). -/
  | control (p ring tag : Nat) (item : Option (List Byte))
  /-- ALIAS_ADD (R302). -/
  | aliasAdd (p ring tag : Nat) (key : Option (List Byte))
  /-- ALIAS_REMOVE (R516). -/
  | aliasRemove (p ring tag : Nat)
  /-- CP_DEFINE (R241). -/
  | cpDefine (p ring tag : Nat) (defn : Option (List Byte))
  /-- LOAD_KERNEL (R250). -/
  | loadKernel (p ring tag : Nat) (image : Option (List Byte))
  /-- UNLOAD_KERNEL (R253). -/
  | unloadKernel (p ring tag : Nat)
  /-- CREATE_TYPE (R633). -/
  | createType (p ring tag : Nat) (entries : Option (List Byte))
  /-- DELETE_TYPE (R516). -/
  | deleteType (p ring tag : Nat)
  /-- SNAPSHOT (R521). -/
  | snapshot (p ring tag : Nat)
  /-- BULK_SEND (R376). -/
  | bulkSend (polder ring tag : Nat) (template payload : Option (List Byte))
  /-- DMA_WRITE (R516). -/
  | dmaWrite (p ring tag : Nat) (data : Option (List Byte)) (badTable : Option Nat)
  /-- DMA_READ (R516). -/
  | dmaRead (p ring tag : Nat) (badTable : Option Nat)
  /-- MAP (R475). -/
  | map (p ring tag : Nat)
  /-- UNMAP (R475). -/
  | unmap (p ring tag : Nat)
  /-- COUNTER_WRITE (R516). -/
  | counterWrite (p ring tag : Nat) (payload : Option (List Byte))
  /-- COUNTER_READ (R516). -/
  | counterRead (p ring tag : Nat)
  /-- FW_STAGE (R561). -/
  | fwStage (p ring tag : Nat) (image : Option (List Byte))
  /-- FW_ACTIVATE (R561). -/
  | fwActivate (p ring tag : Nat)
  /-- FW_COMMIT_SVN (R561). -/
  | fwCommitSvn (p ring tag : Nat)
  /-- REPORT (R566). -/
  | report (p ring tag : Nat)
  /-- LOG_READ (R563). -/
  | logRead (p ring tag : Nat)
  /-- MR_EXTEND (R562). -/
  | mrExtend (p ring tag : Nat) (value : Option (List Byte))
  /-- DEBUG_CHALLENGE (R567). -/
  | debugChallenge (p ring tag : Nat)
  /-- DEBUG_UNLOCK (R567). -/
  | debugUnlock (p ring tag : Nat) (token : Option (List Byte))
  /-- STANDBY (R573). -/
  | standby (p ring tag : Nat)
  /-- DEVICE_RESET (R579). -/
  | deviceReset (p ring tag : Nat)
  /-- FLR_INITIATE (R522). -/
  | flrInitiate (fn : Nat) (cut : List DmaCut)
  /-- FLR_DONE (R522). -/
  | flrDone (fn : Nat)
  /-- COMPLETION_TIMEOUT (R489). -/
  | completionTimeout (late : Bool)
  /-- PCIE_LINK_DOWN (R525). -/
  | pcieLinkDown
  /-- SPDM_REQUEST (R565). -/
  | spdmRequest (who : Nat) (req : SpdmReq)
  /-- MCTP_PACKET (R578). -/
  | mctpPacket (badPec noBuffer : Bool) (msg : MctpMsg)
  /-- PRESS_RING_WRITE (R548). -/
  | pressRingWrite (fn polder data : Nat)
  /-- PRESS_SLOT_START (R539). -/
  | pressSlotStart (slot : Nat)
  /-- PRESS_JOB_START (R539). -/
  | pressJobStart
  /-- PRESS_JOB_DONE (R536). -/
  | pressJobDone (badTable torn : Option Nat)
  /-- PRESS_SUSPEND (R540). -/
  | pressSuspend
  /-- MIRROR_JOB (R544). -/
  | mirrorJob (polder : Nat)
  /-- MIRROR_COPY_DONE (R600). -/
  | mirrorCopyDone (polder : Nat)
  /-- POWER_ON_RESET (R549). -/
  | powerOnReset
  /-- SYS_RST_N_ASSERT (R618). -/
  | sysRstNAssert
  /-- SYS_RST_N_RELEASE (R553). -/
  | sysRstNRelease (rngOk : Bool)
  /-- BOOT_FIRMWARE_START (R555). -/
  | bootFirmwareStart (xspi0 xspi1 : Option (List Byte))
  /-- HBM_INIT_DONE (R553). -/
  | hbmInitDone
  /-- BOOT_DONE (R553). -/
  | bootDone
  /-- PERST_N_ASSERT (R549). -/
  | perstNAssert
  /-- PERST_N_RELEASE (R552). -/
  | perstNRelease
  /-- WATCHDOG_EXPIRE (R551). -/
  | watchdogExpire
  /-- RECOVERY_GO (R559). -/
  | recoveryGo (fn data : Nat) (image : Option (List Byte))
  /-- TAP_INSTRUCTION (R568). -/
  | tapInstruction (op : TapInstr)
  /-- DOMAIN_SHUTDOWN (R570). -/
  | domainShutdown (dom : Nat)
  /-- DOMAIN_OFF (R570). -/
  | domainOff (dom : Nat)
  /-- DOMAIN_WAKE (R571). -/
  | domainWake (dom : Nat)
  /-- DOMAIN_ON (R570). -/
  | domainOn (dom : Nat)
  /-- DOM_FAULT (R570). -/
  | domFault (dom : Nat)
  /-- PWRFAIL_FALL (R572). -/
  | pwrfailFall
  /-- PWRFAIL_GLITCH (R572). -/
  | pwrfailGlitch
  /-- WAKE (R573). -/
  | wake
  /-- THERMTRIP (R625). -/
  | thermtrip
  /-- I2C_GO (R575). -/
  | i2cGo (fn inst data : Nat)
  /-- I2C_TRANSACTION_DONE (R575). -/
  | i2cTransactionDone (inst status : Nat) (rx : List Byte)
  /-- I2C_RETRY (R575). -/
  | i2cRetry (inst : Nat)
  /-- I2C_BUS_CLEAR (R576). -/
  | i2cBusClear (inst : Nat) (released : Option Bool)
  /-- BUS_CLEAR_RETRY (R576). -/
  | busClearRetry (inst : Nat) (released : Bool)
  /-- I2C_TIMEOUT (R576). -/
  | i2cTimeout (inst : Nat)
  /-- MILL_FAULT (R588). -/
  | millFault (mill kind : Nat) (badLines : List Nat)
  /-- SPARE_CLAIM (R589). -/
  | spareClaim (row : Nat)
  /-- TAKEOVER_COMPLETE (R589). -/
  | takeoverComplete (row c : Nat)
  /-- CHANNEL_PLACEMENT_DONE (R594). -/
  | channelPlacementDone (role : Nat)
  /-- SELF_TEST_DONE (R592). -/
  | selfTestDone (mill : Nat) (passes : Bool)
  /-- DEVICE_FAULT (R598). -/
  | deviceFault (kind typ inst detail : Nat)
  /-- BARRIER (R597). -/
  | barrier (fn data : Nat)
  /-- BARRIER_DONE (R597). -/
  | barrierDone
  /-- RESUME_WALK (R602). -/
  | resumeWalk (fn polder data : Nat)
  /-- RESUME_DONE (R602). -/
  | resumeDone (polder : Nat) (badTable : Option Nat)
  /-- FAULT_LOG_CLEAR (R607). -/
  | faultLogClear (fn : Nat)
  /-- TRUST_MR_READ (R582). -/
  | trustMrRead (fn : Nat)
  /-- CONFIGURATION_REQUEST (R489). -/
  | configurationRequest (fn : Nat) (req : CfgReq)
  /-- PCIE_LINK_UP (R552). -/
  | pcieLinkUp (speed width : Nat)
  /-- PCS_LOCK (R360). -/
  | pcsLock (lane : Nat)
  /-- LINK_TRAINING_DONE (R389). -/
  | linkTrainingDone (lane pre post : Nat)
  /-- SUPPLY_COLLAPSE (R615). -/
  | supplyCollapse
  /-- RNG_FAIL (R581). -/
  | rngFail (passes : Bool)
  /-- SMBUS_TARGET_TIMEOUT (R585). -/
  | smbusTargetTimeout
  deriving DecidableEq, Repr

end Sys2Proof
end

