-- ==== Sys2Proof/WellFormed.lean ====
section
/-!
DEFINITION. The well-formed commands: the operands an event of the interface can have. Each check is named; a term that a
check refuses is in Sys2Proof/Tests/Slice0.lean.
-/

namespace Sys2Proof

/-- A function: 0 the PF, 1 to 15 a VF, 16 the Millhouse (R490, R500). -/
def fnOk (fn : Nat) : Bool := decide (fn ≤ 16)

/-- A block type code of a BAR0 address, 6 bits (R493). -/
def typOk (typ : Nat) : Bool := decide (typ < 64)

/-- An instance of a BAR0 address, 7 bits (R493). -/
def instOk (inst : Nat) : Bool := decide (inst < 128)

/-- The size of an access in bytes and its place (R15): one word, a part of one, or two words at ascending addresses. -/
def accessSizeOk (addr size : Nat) : Bool := decide (1 ≤ size) && decide (addr % 4 + size ≤ 8)

/-- Write data fits its access. -/
def sizedOk (size data : Nat) : Bool := decide (data < 2 ^ (8 * size))

/-- A 32-bit word. -/
def wordOk (data : Nat) : Bool := decide (data < 2 ^ 32)

/-- A half, or another of two units (R19). -/
def halfOk (half : Nat) : Bool := decide (half < 2)

/-- One of four units. -/
def quadOk (input : Nat) : Bool := decide (input < 4)

/-- A row (R19). -/
def rowOk (row : Nat) : Bool := decide (row < 16)

/-- A physical mill (R19). -/
def millOk (mill : Nat) : Bool := decide (mill < 80)

/-- A role: four in each row (R20). -/
def roleOk (role : Nat) : Bool := decide (role < 64)

/-- A physical stone (R19). -/
def stoneOk (stone : Nat) : Bool := decide (stone < 1280)

/-- A stone within its mill (R97). -/
def stoneInMillOk (stone : Nat) : Bool := decide (stone < 16)

/-- A port of a canal router (R65). -/
def routerPortOk (port : Nat) : Bool := decide (port < 14)

/-- A lock of a half (R70). -/
def lockOk (n : Nat) : Bool := decide (n < 19)

/-- An Ethernet port, MAC or SerDes lane (R17). -/
def portOk (port : Nat) : Bool := decide (port < 16)

/-- A priority, or a receive ring (R367, R501). -/
def prioOk (prio : Nat) : Bool := decide (prio < 8)

/-- A receive ring, or the notice ring 8 (R501). -/
def noticeOk (k : Nat) : Bool := decide (k < 9)

/-- An HBM slice (R426). -/
def sliceOk (slice : Nat) : Bool := decide (slice < 32)

/-- A polder (R464), or another of sixteen. -/
def polderOk (polder : Nat) : Bool := decide (polder < 16)

/-- A command ring (R501). -/
def ringOk (ring : Nat) : Bool := decide (ring < 16)

/-- A command's TAG (R507). -/
def tagOk (tag : Nat) : Bool := decide (tag < 65536)

/-- A stream: at most 262,144 (R41). -/
def streamOk (stream : Nat) : Bool := decide (stream < 262144)

/-- A power domain (R570, R583). -/
def domOk (dom : Nat) : Bool := decide (dom < 184)

/-- Eight bits. -/
def bitsOk (bits : Nat) : Bool := decide (bits < 256)

/-- Pause quanta (R367): sixteen bits for each of eight classes. -/
def quantaOk (quanta : List Nat) : Bool := quanta.length == 8 && quanta.all fun q => decide (q < 65536)

/-- Where a flit enters a router (R65). -/
def injectOk (inject : Option (Nat × Flit)) : Bool :=
  match inject with
  | none => true
  | some (port, f) => decide (port < 14) && decide (f.polder < 16) && decide (f.cls < 2)

/-- A place of a self-timed stage. -/
def placeOk (pl : Place) : Bool :=
  match pl with
  | .mill m => millOk m
  | .router row port vl => rowOk row && routerPortOk port && decide (vl < 32)
  | .bank b => sliceOk b
  | .lock half n => halfOk half && lockOk n
  | .link half => halfOk half

/-- Where a syllable issues (R97, R104). -/
def issueOk (iss : Issue) : Bool := millOk iss.mill && stoneInMillOk iss.stone && decide (iss.slot < 4) && decide (iss.check < 3)

/-- A data register (R101). -/
def dregOk (rd : Nat) : Bool := decide (rd < 32)

/-- An address register (R101). -/
def aregOk (an : Nat) : Bool := decide (an < 16)

/-- An accumulator (R101). -/
def accOk (n : Nat) : Bool := decide (n < 4)

/-- A circular pair (R101). -/
def pairOk (k : Nat) : Bool := decide (k < 8)

/-- The fields of the MEM format (R139). -/
def amodeOk (am : Amode) : Bool := aregOk am.an && decide (am.mode < 8) && pairOk am.cp && decide (am.off < 2048)

/-- A two-bit field: a sub-mode, a rounding, a loop level (R139). -/
def subOk (sub : Nat) : Bool := decide (sub < 4)

/-- A shift field of six bits (R139). -/
def shiftOk (sh : Nat) : Bool := decide (sh < 64)

/-- The mask of ACCCLR (R139). -/
def maskOk (mask : Nat) : Bool := decide (mask < 16)

/-- A branch condition field (R140). -/
def condOk (cond : Nat) : Bool := decide (cond < 8)

/-- A 16-bit immediate (R139). -/
def immOk (imm : Nat) : Bool := decide (imm < 65536)

/-- A displacement of 18 bits (R139). -/
def dispOk (disp : Nat) : Bool := decide (disp < 262144)

/-- The count of a LOOP (R121): 16 bits where it is an immediate, absent where it is a register. -/
def countOk (byReg : Bool) (count : Nat) : Bool := if byReg then count == 0 else decide (count < 65536)

/-- The register of a LOOP (R121): absent where the count is an immediate. -/
def loopRegOk (byReg : Bool) (rs : Nat) : Bool := if byReg then dregOk rs else rs == 0

/-- The length of a LOOP (R121). -/
def lenOk (len : Nat) : Bool := decide (1 ≤ len) && decide (len ≤ 128)

/-- What a read of an HBM line meets (R428, R429): byte symbols of the codeword, and one of the four core dies. -/
def symsOk (up : HbmUpset) : Bool :=
  up.errs.all (fun e => decide (e.1 < 88 ∧ 0 < e.2 ∧ e.2 < 256)) && (match up.lost with | some d => decide (d < 4) | none => true)

/-- What a read of a SEC-DED word meets (R431): bits of the codeword. -/
def flipsOk (up : WordUpset) : Bool := up.flips.all fun b => decide (b < 72)

/-- A dirty line of a mill's cache that reads wrong (R430): one of its eight words. -/
def dirtyOk (l : List CacheUpset) : Bool := l.all fun d => millOk d.mill && decide (d.word < 8) && flipsOk d.up

/-- The well-formed commands: every operand in its range. Marks: DESIGN CHOICE safe (log entry 7). -/
def Instr.wf : Instr → Bool
  | .registerWrite fn addr size data _ => fnOk fn && accessSizeOk addr size && sizedOk size data
  | .readClear fn addr size => fnOk fn && accessSizeOk addr size
  | .latchedPairRead fn addr => fnOk fn && addr % 4 == 0
  | .blkLock fn typ inst => fnOk fn && typOk typ && instOk inst
  | .errlogClr fn typ inst => fnOk fn && typOk typ && instOk inst
  | .blkIforce fn typ inst data => fnOk fn && typOk typ && instOk inst && wordOk data
  | .handshakeTransfer pl _ _ _ => placeOk pl
  | .stageStall pl _ => placeOk pl
  | .waitStall e => halfOk e.half
  | .tick => true
  | .tickLoss half => halfOk half
  | .vaneSample half _ => halfOk half
  | .avsUpdate => true
  | .avsModeSet fn data => fnOk fn && wordOk data
  | .paceLogRecord => true
  | .canalFlit row port inject => rowOk row && routerPortOk port && injectOk inject
  | .lockWordCross half n _ _ => halfOk half && lockOk n
  | .lockStopRequest half n _ => halfOk half && lockOk n
  | .lockStopped half n => halfOk half && lockOk n
  | .lockWake half n _ => halfOk half && lockOk n
  | .lockRun half n => halfOk half && lockOk n
  | .lockWakeTimeout half n => halfOk half && lockOk n
  | .clockedSideReset half n _ => halfOk half && lockOk n
  | .clockedSideResetRelease half n => halfOk half && lockOk n
  | .nop iss word => issueOk iss && wordOk word
  | .ldW iss rd am => issueOk iss && dregOk rd && amodeOk am
  | .ldH iss rd am => issueOk iss && dregOk rd && amodeOk am
  | .ldHu iss rd am => issueOk iss && dregOk rd && amodeOk am
  | .ldD iss rd am => issueOk iss && dregOk rd && amodeOk am
  | .stW iss rd am => issueOk iss && dregOk rd && amodeOk am
  | .stH iss rd am => issueOk iss && dregOk rd && amodeOk am
  | .stD iss rd am => issueOk iss && dregOk rd && amodeOk am
  | .ldfW iss rd am => issueOk iss && dregOk rd && amodeOk am
  | .ldfD iss rd am => issueOk iss && dregOk rd && amodeOk am
  | .stfW iss rd am => issueOk iss && dregOk rd && amodeOk am
  | .stfD iss rd am => issueOk iss && dregOk rd && amodeOk am
  | .amoAdd iss rd an => issueOk iss && dregOk rd && aregOk an
  | .amoSwap iss rd an => issueOk iss && dregOk rd && aregOk an
  | .amoCas iss rd an => issueOk iss && dregOk rd && aregOk an
  | .amoMax iss rd an => issueOk iss && dregOk rd && aregOk an
  | .amoOr iss rd an => issueOk iss && dregOk rd && aregOk an
  | .lea iss am => issueOk iss && amodeOk am
  | .mova iss ra rs => issueOk iss && aregOk ra && dregOk rs
  | .movd iss rd ra => issueOk iss && dregOk rd && aregOk ra
  | .movc iss _ k rs => issueOk iss && pairOk k && dregOk rs
  | .lsave iss am => issueOk iss && amodeOk am
  | .lrest iss am => issueOk iss && amodeOk am
  | .fence iss => issueOk iss
  | .mac4 iss n da db sb _ _ => issueOk iss && accOk n && dregOk da && dregOk db && subOk sb
  | .mul4 iss n da db sb _ _ => issueOk iss && accOk n && dregOk da && dregOk db && subOk sb
  | .mac32 iss n da db sb _ _ => issueOk iss && accOk n && dregOk da && dregOk db && subOk sb
  | .mul32 iss n da db sb _ _ => issueOk iss && accOk n && dregOk da && dregOk db && subOk sb
  | .accrd iss n rd sh rnd _ => issueOk iss && accOk n && dregOk rd && shiftOk sh && subOk rnd
  | .accclr iss mask => issueOk iss && maskOk mask
  | .accmov iss n m => issueOk iss && accOk n && accOk m
  | .accsh iss n sh => issueOk iss && accOk n && shiftOk sh
  | .accld iss n rs sh => issueOk iss && accOk n && dregOk rs && shiftOk sh
  | .add iss rd rs rt => issueOk iss && dregOk rd && dregOk rs && dregOk rt
  | .sub iss rd rs rt => issueOk iss && dregOk rd && dregOk rs && dregOk rt
  | .andR iss rd rs rt => issueOk iss && dregOk rd && dregOk rs && dregOk rt
  | .orR iss rd rs rt => issueOk iss && dregOk rd && dregOk rs && dregOk rt
  | .xor iss rd rs rt => issueOk iss && dregOk rd && dregOk rs && dregOk rt
  | .shl iss rd rs rt => issueOk iss && dregOk rd && dregOk rs && dregOk rt
  | .shr iss rd rs rt => issueOk iss && dregOk rd && dregOk rs && dregOk rt
  | .sar iss rd rs rt => issueOk iss && dregOk rd && dregOk rs && dregOk rt
  | .minR iss rd rs rt => issueOk iss && dregOk rd && dregOk rs && dregOk rt
  | .maxR iss rd rs rt => issueOk iss && dregOk rd && dregOk rs && dregOk rt
  | .minu iss rd rs rt => issueOk iss && dregOk rd && dregOk rs && dregOk rt
  | .maxu iss rd rs rt => issueOk iss && dregOk rd && dregOk rs && dregOk rt
  | .absR iss rd rs => issueOk iss && dregOk rd && dregOk rs
  | .adds iss rd rs rt => issueOk iss && dregOk rd && dregOk rs && dregOk rt
  | .subs iss rd rs rt => issueOk iss && dregOk rd && dregOk rs && dregOk rt
  | .add2s iss rd rs rt => issueOk iss && dregOk rd && dregOk rs && dregOk rt
  | .sub2s iss rd rs rt => issueOk iss && dregOk rd && dregOk rs && dregOk rt
  | .clz iss rd rs => issueOk iss && dregOk rd && dregOk rs
  | .cmpeq iss rd rs rt => issueOk iss && dregOk rd && dregOk rs && dregOk rt
  | .cmplt iss rd rs rt => issueOk iss && dregOk rd && dregOk rs && dregOk rt
  | .cmpltu iss rd rs rt => issueOk iss && dregOk rd && dregOk rs && dregOk rt
  | .sel iss rd rs rt => issueOk iss && dregOk rd && dregOk rs && dregOk rt
  | .pack iss rd rs rt => issueOk iss && dregOk rd && dregOk rs && dregOk rt
  | .addi iss rd rs imm => issueOk iss && dregOk rd && dregOk rs && immOk imm
  | .movi iss rd imm => issueOk iss && dregOk rd && immOk imm
  | .movhi iss rd imm => issueOk iss && dregOk rd && immOk imm
  | .andi iss rd rs imm => issueOk iss && dregOk rd && dregOk rs && immOk imm
  | .br iss cond rs disp => issueOk iss && condOk cond && dregOk rs && dispOk disp
  | .call iss disp => issueOk iss && dispOk disp
  | .ret iss => issueOk iss
  | .loop iss lvl byReg rs count len => issueOk iss && subOk lvl && loopRegOk byReg rs && countOk byReg count && lenOk len
  | .mfsr iss rd idx => issueOk iss && dregOk rd && immOk idx
  | .mtsr iss rs idx => issueOk iss && dregOk rs && immOk idx
  | .dbell iss rs => issueOk iss && dregOk rs
  | .endU iss => issueOk iss
  | .endf iss rs => issueOk iss && dregOk rs
  | .reti iss => issueOk iss
  | .farAccessComplete stone _ up => stoneOk stone && flipsOk up
  | .icacheFill stone _ _ _ => stoneOk stone
  | .interruptEntry stone => stoneOk stone
  | .doorbellMessage sender mill stone bits _ => polderOk sender && millOk mill && stoneInMillOk stone && bitsOk bits
  | .hopperBankTake stone take => stoneOk stone && halfOk take.bank
  | .workUnitOverrun stone => stoneOk stone
  | .stoneHalt fn mill stone => fnOk fn && millOk mill && stoneInMillOk stone
  | .stoneStep fn mill stone => fnOk fn && millOk mill && stoneInMillOk stone
  | .stoneResume fn mill stone => fnOk fn && millOk mill && stoneInMillOk stone
  | .icinv fn mill data => fnOk fn && millOk mill && wordOk data
  | .binSplitWrite fn mill data => fnOk fn && millOk mill && wordOk data
  | .windowRead fn mill => fnOk fn && millOk mill
  | .windowWrite fn mill data => fnOk fn && millOk mill && wordOk data
  | .tideTurnMark => true
  | .turnBoundary half _ => halfOk half
  | .markLoss half => halfOk half
  | .substituteBoundary half => halfOk half
  | .contextPrefetch stone => stoneOk stone
  | .prefetchComplete stone _ _ => stoneOk stone
  | .workUnitStage stone _ => stoneOk stone
  | .workUnitSealed stone _ _ => stoneOk stone
  | .flumeWritebackDone role _ _ => roleOk role
  | .deferrableStart start => stoneOk start.stone
  | .reserveWrite fn half data => fnOk fn && halfOk half && wordOk data
  | .bolterJobDone done => stoneOk done.stone
  | .chainConfigWrite fn mill data => fnOk fn && millOk mill && wordOk data
  | .bankSwap fn mill data => fnOk fn && millOk mill && wordOk data
  | .coefAccess fn mill _ => fnOk fn && millOk mill
  | .frameReceive port _ _ _ _ _ => portOk port
  | .lookup half _ _ _ => halfOk half
  | .classifierSlotRewrite _ => true
  | .classifierCompare _ _ _ => true
  | .rtcpSend stream _ => streamOk stream
  | .queueWinRead rd => fnOk rd.n
  | .queueMark fn => fnOk fn
  | .queueRewind fn => fnOk fn
  | .queueRelease fn => fnOk fn
  | .frameTransmitStart rd _ _ => portOk rd.n
  | .transmitUnderrun port => portOk port
  | .frameTransmitEnd port _ => portOk port
  | .tailraceLinkDiscard port polder prio => portOk port && polderOk polder && prioOk prio
  | .pmodeWrite fn mac data => fnOk fn && portOk mac && wordOk data
  | .linkDown port _ => portOk port
  | .linkUp port => portOk port
  | .anDone lane => portOk lane
  | .ltFail lane => portOk lane
  | .pfcFrameReceive port classes quanta _ => portOk port && bitsOk classes && quantaOk quanta
  | .pfcPauseExpire port prio _ => portOk port && prioOk prio
  | .pfcTxRequest fn port quanta classes => fnOk fn && portOk port && immOk quanta && bitsOk classes
  | .gateWindowStart port _ => portOk port
  | .sluiceSwapRequest fn port => fnOk fn && portOk port
  | .sluiceModeWrite fn port _ => fnOk fn && portOk port
  | .gclDataAccess fn port _ => fnOk fn && portOk port
  | .mgTxTailWrite fn _ => fnOk fn
  | .mgTxComplete _ _ => true
  | .mgFrameReceive _ _ _ _ => true
  | .mgCollision _ _ => true
  | .mgBackoffExpire => true
  | .mgPlcaBeacon => true
  | .mgPlcaTimeout => true
  | .mdioStart fn data => fnOk fn && wordOk data
  | .mdioDone data => wordOk data
  | .refWindowEnd ref _ => halfOk ref
  | .refLoss ref _ => halfOk ref
  | .refselWrite fn _ => fnOk fn
  | .offsetSampleWrite fn _ _ => fnOk fn
  | .captureEdge input _ _ => quadOk input
  | .sourceLoss _ _ => true
  | .stepAuth fn _ => fnOk fn
  | .timeStep => true
  | .holdoverBudgetExpire _ => true
  | .pulseEdge output _ => quadOk output
  | .pulseEnd output _ => quadOk output
  | .tsPop fn => fnOk fn
  | .tideNowRead fn _ => fnOk fn
  | .hbmRead _ polder _ up => polderOk polder && symsOk up
  | .hbmWrite _ polder _ _ _ up => polderOk polder && symsOk up.first && symsOk up.last
  | .pondAccess _ _ _ _ up => flipsOk up.first && flipsOk up.last
  | .directoryRequest mill _ _ _ reads => millOk mill && flipsOk reads.entry && reads.fill.all (fun w => decide (w.1 < 8) && flipsOk w.2) && dirtyOk reads.dirty
  | .snoopAnswer mill snoop => millOk mill && tagOk snoop.tag && dirtyOk snoop.dirty
  | .evictNotice mill _ => millOk mill
  | .evictAck mill _ => millOk mill
  | .scrubRead h _ up => halfOk h && symsOk up.line && flipsOk up.word && dirtyOk up.dirty
  | .logClear fn typ inst => fnOk fn && typOk typ && instOk inst
  | .pageRetire fn slice page => fnOk fn && sliceOk slice && page.copies.all fun c => symsOk c.2
  | .retireDone slice => sliceOk slice
  | .ledgerRecordWrite _ => true
  | .ledgerCommit => true
  | .ledgerRecovery words _ => words.all fun w => flipsOk w.2
  | .ledgerRdAccess fn up => fnOk fn && flipsOk up
  | .create p ring tag => polderOk p && ringOk ring && tagOk tag
  | .enable p ring tag => polderOk p && ringOk ring && tagOk tag
  | .grantMill p ring tag => polderOk p && ringOk ring && tagOk tag
  | .revokeMill p ring tag => polderOk p && ringOk ring && tagOk tag
  | .grantParcels p ring tag => polderOk p && ringOk ring && tagOk tag
  | .revokeParcels p ring tag => polderOk p && ringOk ring && tagOk tag
  | .setStreams p ring tag => polderOk p && ringOk ring && tagOk tag
  | .setPwin p ring tag => polderOk p && ringOk ring && tagOk tag
  | .keyEnrol p ring tag _ => polderOk p && ringOk ring && tagOk tag
  | .keyRemove p ring tag _ => polderOk p && ringOk ring && tagOk tag
  | .reset p ring tag => polderOk p && ringOk ring && tagOk tag
  | .destroy p ring tag => polderOk p && ringOk ring && tagOk tag
  | .roleChangeComplete mill _ => millOk mill
  | .zeroDone polder => polderOk polder
  | .sqDoorbell fn ring _ => fnOk fn && ringOk ring
  | .commandTake polder _ => polderOk polder
  | .coalTimer polder ring => polderOk polder && ringOk ring
  | .cqHeadWrite fn ring _ => fnOk fn && ringOk ring
  | .ringEnable fn ring data => fnOk fn && ringOk ring && wordOk data
  | .rxDeliver polder rd => polderOk polder && prioOk rd.n
  | .noticeDeliver rd => polderOk rd.n
  | .rxConsWrite fn k _ => fnOk fn && noticeOk k
  | .nopCommand p ring tag => polderOk p && ringOk ring && tagOk tag
  | .abort p ring tag => polderOk p && ringOk ring && tagOk tag
  | .query p ring tag => polderOk p && ringOk ring && tagOk tag
  | .bindStream p ring tag _ => polderOk p && ringOk ring && tagOk tag
  | .bindChannel p ring tag _ => polderOk p && ringOk ring && tagOk tag
  | .bindBundle p ring tag => polderOk p && ringOk ring && tagOk tag
  | .activate p ring tag => polderOk p && ringOk ring && tagOk tag
  | .modify p ring tag _ => polderOk p && ringOk ring && tagOk tag
  | .drain p ring tag => polderOk p && ringOk ring && tagOk tag
  | .status p ring tag => polderOk p && ringOk ring && tagOk tag
  | .join p ring tag => polderOk p && ringOk ring && tagOk tag
  | .leave p ring tag => polderOk p && ringOk ring && tagOk tag
  | .tone p ring tag => polderOk p && ringOk ring && tagOk tag
  | .control p ring tag _ => polderOk p && ringOk ring && tagOk tag
  | .aliasAdd p ring tag _ => polderOk p && ringOk ring && tagOk tag
  | .aliasRemove p ring tag => polderOk p && ringOk ring && tagOk tag
  | .cpDefine p ring tag _ => polderOk p && ringOk ring && tagOk tag
  | .loadKernel p ring tag _ => polderOk p && ringOk ring && tagOk tag
  | .unloadKernel p ring tag => polderOk p && ringOk ring && tagOk tag
  | .createType p ring tag _ => polderOk p && ringOk ring && tagOk tag
  | .deleteType p ring tag => polderOk p && ringOk ring && tagOk tag
  | .snapshot p ring tag => polderOk p && ringOk ring && tagOk tag
  | .bulkSend polder ring tag _ _ => polderOk polder && ringOk ring && tagOk tag
  | .dmaWrite p ring tag _ _ => polderOk p && ringOk ring && tagOk tag
  | .dmaRead p ring tag _ => polderOk p && ringOk ring && tagOk tag
  | .map p ring tag => polderOk p && ringOk ring && tagOk tag
  | .unmap p ring tag => polderOk p && ringOk ring && tagOk tag
  | .counterWrite p ring tag _ => polderOk p && ringOk ring && tagOk tag
  | .counterRead p ring tag => polderOk p && ringOk ring && tagOk tag
  | .fwStage p ring tag _ => polderOk p && ringOk ring && tagOk tag
  | .fwActivate p ring tag => polderOk p && ringOk ring && tagOk tag
  | .fwCommitSvn p ring tag => polderOk p && ringOk ring && tagOk tag
  | .report p ring tag => polderOk p && ringOk ring && tagOk tag
  | .logRead p ring tag => polderOk p && ringOk ring && tagOk tag
  | .mrExtend p ring tag _ => polderOk p && ringOk ring && tagOk tag
  | .debugChallenge p ring tag => polderOk p && ringOk ring && tagOk tag
  | .debugUnlock p ring tag _ => polderOk p && ringOk ring && tagOk tag
  | .standby p ring tag => polderOk p && ringOk ring && tagOk tag
  | .deviceReset p ring tag => polderOk p && ringOk ring && tagOk tag
  | .flrInitiate fn _ => fnOk fn
  | .flrDone fn => fnOk fn
  | .completionTimeout _ => true
  | .pcieLinkDown => true
  | .spdmRequest who _ => fnOk who
  | .mctpPacket _ _ _ => true
  | .pressRingWrite fn polder data => fnOk fn && polderOk polder && wordOk data
  | .pressSlotStart slot => polderOk slot
  | .pressJobStart => true
  | .pressJobDone _ _ => true
  | .pressSuspend => true
  | .mirrorJob polder => polderOk polder
  | .mirrorCopyDone polder => polderOk polder
  | .powerOnReset => true
  | .sysRstNAssert => true
  | .sysRstNRelease _ => true
  | .bootFirmwareStart _ _ => true
  | .hbmInitDone => true
  | .bootDone => true
  | .perstNAssert => true
  | .perstNRelease => true
  | .watchdogExpire => true
  | .recoveryGo fn data _ => fnOk fn && wordOk data
  | .tapInstruction _ => true
  | .domainShutdown dom => domOk dom
  | .domainOff dom => domOk dom
  | .domainWake dom => domOk dom
  | .domainOn dom => domOk dom
  | .domFault dom => domOk dom
  | .pwrfailFall => true
  | .pwrfailGlitch => true
  | .wake => true
  | .thermtrip => true
  | .i2cGo fn inst data => fnOk fn && halfOk inst && wordOk data
  | .i2cTransactionDone inst _ _ => halfOk inst
  | .i2cRetry inst => halfOk inst
  | .i2cBusClear inst _ => halfOk inst
  | .busClearRetry inst _ => halfOk inst
  | .i2cTimeout inst => halfOk inst
  | .millFault mill _ _ => millOk mill
  | .spareClaim row => rowOk row
  | .takeoverComplete row _ => rowOk row
  | .channelPlacementDone role => roleOk role
  | .selfTestDone mill _ => millOk mill
  | .deviceFault _ typ inst _ => typOk typ && instOk inst
  | .barrier fn data => fnOk fn && wordOk data
  | .barrierDone => true
  | .resumeWalk fn polder data => fnOk fn && polderOk polder && wordOk data
  | .resumeDone polder _ => polderOk polder
  | .faultLogClear fn => fnOk fn
  | .trustMrRead fn => fnOk fn
  | .configurationRequest fn _ => fnOk fn
  | .pcieLinkUp _ _ => true
  | .pcsLock lane => portOk lane
  | .linkTrainingDone lane _ _ => portOk lane
  | .supplyCollapse => true
  | .rngFail _ => true
  | .smbusTargetTimeout => true

end Sys2Proof
end

