-- ==== Sys2Proof/Decode.lean ====
section
/-!
DEFINITION. The words of the opcode table. The commands are register accesses, syllables, pins, timers and messages: the table
gives no row any bits (every row's "fields" is empty and no row has "fixed"), so no word spells a command.
-/

namespace Sys2Proof

/-- The command that a word of the opcode table spells: none, as the table gives no row bits. Marks: DESIGN CHOICE safe (log entry 3). -/
def decodeTableWord (_nbits _w : Nat) : Option Instr := none

end Sys2Proof
end

