-- ==== Sys2Proof/Config.lean ====
section
/-!
DEFINITION. What the spec leaves to the implementation or leaves open: constants with no body, so that no proof can rest on
a value of theirs. Each is named in an assumption log entry.
-/

namespace Sys2Proof.Config

/-- The value the hardware produces where the spec states none: a fresh one for each number (log entry 2). -/
opaque freeValue : Nat → BitVec 64

/-- The coefficient (section, bank, index) of a library section of the Bolter, of which the spec gives the response and not
the value (R277). -/
opaque libCoef : Nat → Nat → Nat → BitVec 32

/-- The PC offset of a library class's entry point, and of the library's fault (1000) and doorbell (1001) vectors, in the library
image, of which the spec gives the behaviour and not the layout (log entry 13). -/
opaque libEntry : Nat → BitVec 32

/-- Byte i of what a cryptographic function of a named standard gives for its inputs (R317, R474, R536): the standard fixes it and the
spec does not restate it (log entry 12). -/
opaque crypt : List Nat → Nat → BitVec 8

/-- The classifier's keyed hashes (R297): 1 for h1, 2 for h2 and 3 for the tag, then the secret key and the lookup key (log entry 179). -/
opaque clsHash : List Nat → Nat

/-- Byte k of the address pattern of a line, which Mbaide fixes for each stepping (R428), and symbol k of the fixed pattern of the poison signature (R436, log entry 382). -/
opaque addrPattern : Nat → Nat → BitVec 8
opaque poisonPattern : Nat → BitVec 8

/-- What a lost core die delivers for a symbol of a line (R429, log entry 382). -/
opaque lostSymbol : Nat → Nat → BitVec 8

/-- The outcome and the data of a SEC-DED word with wrong bits for which R431 states none, by its address and the bits (log entry 384). -/
opaque wildCode : Nat → List Nat → Nat
opaque wildData : Nat → List Nat → BitVec 64

/-- The word of its bank in which a directory entry of a line lies (R443, log entry 385). -/
opaque dirWord : Nat → Nat

/-- The key of the counter record in which fault records beyond the limit are counted (R457), which the spec does not name (log entry 359). -/
opaque faultKey : Nat

/-- Whether an authentication or a signature of a named standard verifies for its inputs (R316, R250, log entry 12). -/
opaque verify : List Nat → Bool

/-- The DEFLATE body of the Press's compression for its level, history, input and end (R531): the spec fixes the format and the bounds and not the
match search (log entry 30). -/
opaque deflate : List Nat → List (BitVec 8)

/-- The state on an engine that a Press image carries, 4,032 bytes that only the Press interprets (R538), by the number of the image (log entry 30). -/
opaque engineByte : Nat → Nat → BitVec 8

/-- Byte i of the SHA-384 fused for key slot k: 0 to 3 for firmware, 4 and 5 for debug tokens (R557, R567). The spec does not state the values. -/
opaque fusedKey : Nat → Nat → BitVec 8

/-- Byte i of the fused 384-bit Unique Device Secret (R564), which the spec does not state (log entry 395). -/
opaque uds : Nat → BitVec 8

/-- Mbaide's JEDEC manufacturer identity, bits 11:1 of IDCODE (R568), which the spec does not state. -/
opaque jedec : BitVec 11

/-- BLK_VER (MAJOR and MINOR, bits 15:0) of the blocks of a type: "per block design" (R498). The spec does not state the values. -/
opaque blkVer : Nat → BitVec 16

/-- The signal processing of the library kernels that named standards or the hardware fix and the spec does not restate (R221, R225 to R229, R238 to R240, log
entries 12 and 379): decoding of a payload and concealment, in-band FEC, overlap-adding, comfort noise and tones; gain; resampling by 2; the
echo estimate, the adaptation and the non-linear processor of a canceller, and those of a tail partition; G.711 codes of a law; the analysis,
activity decision and encoding of a codec; the random start of a timestamp, and the volume of an event. -/
inductive Dsp where
  | decode | conceal | hasFec | fec | overlap | comfort | noise | tone | gain | up | down
  | echo | adapt | suppress | residualNoise | tailEcho | tailAdapt | law
  | analyse | activity | encode | start | volume
  deriving DecidableEq, Repr

/-- What such a function gives for its state and inputs, and the state after it. Marks: DESIGN CHOICE safe (log entry 379). -/
opaque dsp : Dsp → List (List Int) → List Int
opaque dspState : Dsp → List (List Int) → List Int

/-- The 5 ms frames that a payload of AMR-WB (2), Opus (3) or EVS (4) holds, and whether it is comfort noise: the payload formats are those of the
standards that R226 names, which the spec does not restate (log entry 12). -/
opaque mediaFrames : List Nat → Nat
opaque isComfort : List Nat → Bool

/-- The G.107 rating of a side, from its codec, jitter-buffer delay, measured loss and round-trip time (R214): the standard fixes the formula and
the spec does not restate it (log entry 12). -/
opaque rating : List Nat → Nat

/-- The RTP clock in Hz that the stream engine takes for a payload type of a relay stream, whose descriptor names none (R315, log entry 377). -/
opaque relayClock : Nat → Nat

/-- Whether the hardware rounds an inexact quotient of two numbers up, where the spec states no rounding (log entry 60). -/
opaque roundUp : Int → Int → Bool

end Sys2Proof.Config
end

