-- ==== Sys2Proof/Machine/State.lean ====
section
/-!
DEFINITION. The state of the block as plain data: everything the spec gives the machine (INVENTORY.md, State), the queue of
waiting commands, the outputs and the counter of free values. Every structure's default values are its reset values; a
register that a page's field table gives is held in `regs` under its unicast BAR0 offset and reads as its table's reset
value (Machine/RegMap.lean) until something changes it.
-/

namespace Sys2Proof.Machine

/-- The values fixed at manufacture (R4, R6, R16 "Fused"): which part, its temperature grade, its stepping and its unique
identifier. No command changes them, but that FW_COMMIT_SVN revokes key slots (R561). Marks: DESIGN CHOICE unsafe (log entry 6). -/
structure Fuse where
  is6480 : Bool := true
  grade : Nat := 0
  stepLetter : Nat := 2
  stepDigit : Nat := 1
  uid : List Nat := [0, 0, 0, 0]
  stepIndex : Nat := 0
  svnFloor : Nat := 0
  revoked : List Nat := []
  deriving DecidableEq, Repr

/-- One entry of the RAS fault log (R607). -/
structure FLog where
  kind : Nat
  cls : Nat
  typ : Nat
  inst : Nat
  turn : Nat
  detail : Nat
  deriving DecidableEq, Repr

/-- One self-timed stage (R46, R61): whether a handshake has started and not finished, the acknowledge, the ticks its
watchdog has counted, and the word last captured. -/
structure StageSt where
  started : Bool := false
  ack : Bool := false
  ticks : Nat := 0
  word : List Bool := []
  deriving DecidableEq, Repr

/-- The states of LOCK_STAT.STATE (R94). -/
inductive LockState where
  | run | drain | stopped | waking | flush | held
  deriving DecidableEq, Repr

/-- One lock (R69 to R75): its state, the words held in each direction (tx towards the clocked side), the tags of the requests that
have crossed to the clocked side and have no response yet, those of the clocked side's own requests that wait for one, the words waiting
for it to run or for room, whether a wake has been raised and the ticks since. Every lock is HELD at reset. -/
structure LockSt where
  st : LockState := .held
  tx : List LWord := []
  rx : List LWord := []
  outstanding : List Nat := []
  inbound : List Nat := []
  waiting : List LWord := []
  wake : Bool := false
  wakeTicks : Nat := 0
  deriving DecidableEq, Repr

/-- The self-timed fabric (02): stages, waiting requesters, locks (key 32 × half + n), canal lane buffers (key
((16 × row + port) × 2 + class) × 16 + polder), the lane each output port served last and its fixed-slot position (key
16 × row + port), the lowest sample of the running turn, the PACE used for this turn's surplus (0 where none), the lowest
sample of the day, each by mill, the tick status of each die, and the voltage in mV that the VRM accepted last (R58; 0 for none). -/
structure Fabric where
  stages : Tab StageSt := []
  waiters : List Waiter := []
  locks : Tab LockSt := []
  lanes : Tab (List Flit) := []
  served : Tab Nat := []
  slot : Tab Nat := []
  turnMin : Tab (Option Nat) := []
  paceUsed : Tab Nat := []
  dayMin : Tab (Option Nat) := []
  tickLost0 : Bool := false
  tickLost1 : Bool := false
  rail : Nat := 0
  deriving DecidableEq, Repr

/-- The states of a stone's context (R124, R157). -/
inductive CtxState where
  | free | staged | running | draining
  deriving DecidableEq, Repr

/-- One register context of a stone (R101): d0 to d31, a0 to a15, cb and cl, the accumulators as ACCRD, ACCMOV and ACCSH read
them (`acc`) and as a following accumulation reads them (`accF`, R108), PC, SR, and the work unit the Miller staged in it:
WUID, the serial number of its record, its window and the vectors of its class's image (R252). -/
structure Ctx where
  st : CtxState := .free
  d : Tab Word := []
  a : Tab Word := []
  cb : Tab Word := []
  cl : Tab Word := []
  acc : Tab Acc72 := []
  accF : Tab Acc72 := []
  pc : Nat := 0
  sr : Nat := 0x100
  wuid : Nat := 0
  wu : Nat := 0
  win : Nat := 0
  fvec : Nat := 0
  bvec : Nat := 0
  deriving DecidableEq, Repr

/-- Where a result in flight lands. -/
inductive PDst where
  | d (r : Nat) | a (r : Nat) | cb (r : Nat) | cl (r : Nat) | acc (n : Nat) | sr | epc | dbmask | dbclear
  deriving DecidableEq, Repr

/-- A result in flight (R108): the bundle count from which it is readable, its context, where it lands and its value. -/
structure Pend where
  due : Nat
  ctx : Nat
  dst : PDst
  val : Nat
  deriving DecidableEq, Repr

/-- What an outstanding far access does when it completes (R136, R137). -/
inductive FarKind where
  | load (pair : Bool) | store (n : Nat) (v : Nat) | amo (fn : AmoFn) (cmp operand : Nat)
  deriving DecidableEq, Repr

/-- An outstanding far access of a stone, in program order (R109, R136), with the ticks its wait watchdog has counted (R62). -/
structure FarAcc where
  ctx : Nat
  rd : Nat
  ea : Nat
  kind : FarKind
  wait : Nat := 0
  deriving DecidableEq, Repr

/-- A program fault or BUS_ERROR raised and not yet taken (R127, R130), and whether SR.INH was 1 as it was raised (R129). -/
structure PFault where
  cause : Nat
  eaddr : Nat
  epc : Nat
  inh : Bool := false
  deriving DecidableEq, Repr

/-- A work unit that has ended and is not yet sealed (R184, R185): its serial number, context and window, the status it ended with (none for
END), and whether its drain has waited for a seal slot (R207). -/
structure EndedWU where
  wu : Nat
  ctx : Nat
  win : Nat
  status : Option Nat
  waited : Bool := false
  deriving DecidableEq, Repr

/-- One stone (R97, R101): data memory, contexts 0 to 3, the shared loop and doorbell registers, the doorbell bits that have arrived since the last
bundle (R131), the registers of context 3,
what is in flight, the syllables of the bundle being issued and whether it waits, the banks the bundle before keeps busy, those taken from
the next bundle and those whose last take was the Bolter's (R133, R134, R275), the halt state, the vectors of the last class that ran (R252),
the instruction cache, and the ticks the running work unit has run (R170). -/
structure Stone where
  dm : Tab Byte := []
  ctx : Tab Ctx := []
  running : Option Nat := none
  handler : Bool := false
  halted : Bool := false
  stepping : Bool := false
  epc : Nat := 0
  ecause : Nat := 0
  eaddr : Nat := 0
  lc : Tab Nat := []
  ls : Tab Nat := []
  le : Tab Nat := []
  ldepth : Nat := 0
  dbpend : Nat := 0
  dbmask : Nat := 0
  dbNew : Nat := 0
  now : Nat := 0
  inflight : List Pend := []
  far : List FarAcc := []
  bundle : List (Nat × Syl) := []
  held : Bool := false
  macPass : Bool := false
  halfBank : List Nat := []
  takenBank : List Nat := []
  bolterTook : List Nat := []
  faults : List PFault := []
  staged : List Nat := []
  ended : List EndedWU := []
  nextWin : Nat := 0
  lastBvec : Option Nat := none
  lastFvec : Nat := 0
  ic : Tab (List Byte) := []
  ticks : Nat := 0
  deriving DecidableEq, Repr

/-- One chain of a Bolter (R257, R285 to R287): the CFG0 word, SETTLE, CFGGEN, SWAPGEN and the active bank. -/
structure Chain where
  cfg0 : Nat
  settle : Nat
  cfggen : Nat
  swapgen : Nat
  active : Nat
  deriving DecidableEq, Repr

/-- One entry of an accepted Bolter job: the chain, the bank it uses (R263), its flags, SWAPGEN and SETTLE of the chain as the job starts
(R265, R266), and its state and output areas. -/
structure JobEntry where
  chain : Nat
  bank : Nat
  flags : Nat
  swapgen : Nat
  settle : Nat
  state : Nat
  out : Nat
  deriving DecidableEq, Repr

/-- An accepted Bolter job (R267, R268). -/
structure Job where
  stone : Nat
  win : Nat
  desc : Nat
  nsamp : Nat
  ifmt : Nat
  inp : Nat
  entries : List JobEntry
  beforeSwap : List Nat
  deriving DecidableEq, Repr

/-- One mill: whether a hardware fault has stopped its stones (R126), its bin, its Bolter's chains, coefficients (key
((bank × 256) + section) × 8 + index), whether the library chains are loaded (R258), outstanding jobs, and the stone each bin bank served last
(R135). The Bolter image of a role (R278) equals the chains and coefficients its window has accepted. -/
structure MillSt where
  stopped : Bool := false
  bin : Tab Byte := []
  chains : Tab Chain := []
  coef : Tab Nat := []
  library : Bool := false
  jobs : List Job := []
  binTurn : Tab Nat := []
  deriving DecidableEq, Repr

/-- An item of a queue, or a gap marker at its place (R330, R334): its serial number, the gap count, its descriptor fields and
data, the half whose pool its cells come from and how many, whether it is visible and in which order it became so, the work
unit that stages it until its commit, the work unit that has taken it, and whether that is committed or no unit will take it (R188), the release
time of a media frame (R470; 0 for none), the deadline turn whose boundary will give that time (R164), and whether all of it is written, which an
unfinished packet of a privileged queue is not (R332). -/
structure QItem where
  id : Nat
  gap : Bool := false
  gaps : Nat := 0
  poison : Bool := false
  mark : Bool := false
  cls : Nat := 0
  stream : Nat := 0
  port : Nat := 0
  polder : Nat := 0
  tag : Nat := 0
  data : List Byte := []
  half : Nat := 0
  cells : Nat := 0
  seen : Option Nat := none
  stagedBy : Option Nat := none
  taken : Option Nat := none
  committed : Bool := false
  release : Nat := 0
  dep : Option Nat := none
  done : Bool := true
  deriving DecidableEq, Repr

/-- One queue (R328 to R337): its items from HEAD on, the visible ones first in the order in which they became so and then the staged ones, MARK and READ as item counts from HEAD, the words already read of the item
at READ, GAP_PENDING with the class and port of the item dropped last, and the LIMIT and NOTICE_EN fields of its QUEUE_CFG. -/
structure Queue where
  items : List QItem := []
  mark : Nat := 0
  read : Nat := 0
  word : Nat := 0
  gapPend : Nat := 0
  gapCls : Nat := 0
  gapPort : Nat := 0
  limit : Nat := 0
  notice : Bool := false
  deriving DecidableEq, Repr

/-- The queue system (R328 to R343): the queues by id, the cells in use (key 2 × polder + half; the privileged pools at 32 and 33),
the jitter-buffer cells in use by polder, the next item number and the next order of visibility, and the window's last word. -/
structure Queues where
  q : Tab Queue := []
  used : Tab Nat := []
  jbUsed : Tab Nat := []
  nextId : Nat := 0
  nextSeen : Nat := 0
  lastWord : Nat := 0
  lastEnd : Bool := false
  deriving DecidableEq, Repr

/-- A bucket of tokens with the time up to which it is filled, both in units of 2⁻¹⁶ ns: a packet or a byte costs
10⁹ × 65536 ÷ rate of them in tokens scaled by the rate (R306). -/
structure Bucket where
  level : Nat
  stamp : Nat
  deriving DecidableEq, Repr

/-- A frame waiting for lookup (R299): the port, its bytes without FCS, its MAC error flags (R363; 0 for none), and
its ingress stamp. -/
structure RxFrame where
  port : Nat
  data : List Byte
  flags : Nat
  stamp : Nat
  deriving DecidableEq, Repr

/-- One classifier (R294, R297, R299): the copy of the table by position (4 × bucket + slot below 327,680, then the stash), the tag array (0
where unoccupied) with the positions whose tag entry reads uncorrectable, the VLAN map (VALID × 16 + POLDER), the weir buckets by polder, and
the lookup queue in arrival order. -/
structure Classifier where
  slots : Tab Slot := []
  tags : Tab Nat := []
  badTags : List Nat := []
  vmap : Tab Nat := []
  pkts : Tab Bucket := []
  bytes : Tab Bucket := []
  exc : Tab Bucket := []
  waiting : List RxFrame := []
  deriving DecidableEq, Repr

/-- The states of a stream, channel or bundle (R514). -/
inductive ObjSt where
  | idle | bound | active | draining
  deriving DecidableEq, Repr

/-- A packet in the jitter buffer or on probation (R232, R235): the packet record, its payload, its cells and the half whose HBM stack they lie in
(R33), its stamp, whether it read poisoned (R190), the work unit that has taken it, whether it is delivered to it, and whether it is dropped as
late because its slot has been consumed already (R237). -/
structure JPkt where
  seq : Nat
  ts : Nat
  pt : Nat
  marker : Bool
  stamp : Nat
  payload : List Byte
  cells : Nat
  half : Nat := 0
  poison : Bool := false
  taken : Option Nat := none
  deliver : Bool := false
  late : Bool := false
  deriving DecidableEq, Repr

/-- A replay window (R318): the highest index and the indexes accepted within 128 of it. -/
structure Replay where
  top : Option Nat := none
  got : List Nat := []
  deriving DecidableEq, Repr

/-- What a modify of a stream replaces or starts anew (R314, R319): the descriptor, the SRTCP receive window and transmit index, and whether their end
has been told (R320). -/
structure StreamGen where
  desc : List Byte := []
  rtcp : Replay := {}
  rtcpTx : Nat := 0
  expiring : Bool := false
  exhausted : Bool := false
  deriving DecidableEq, Repr

/-- A stream context (R311): the descriptor, the owner, the stream weir, the latched source, the SSRC last accepted and the one
locked to, the SRTP and SRTCP receive windows and transmit indexes, what a resume added to transmit timestamps (R602), the RTCP figures (R321), the packets
expected and lost at the last report sent (R322), the last SR received with its stamp, the jitter buffer (R230 to R237: h,
O and how often the engine has set it, the committed target and the current delay in ms, the packets, the extended sequence numbers of those
consumed that are within 100 of h, the one on probation, the last arrival), the RFC 3550
jitter figures, the counters (R315), and the turn of the next RTCP packet. -/
structure Stream where
  st : ObjSt := .idle
  polder : Nat := 0
  desc : List Byte := []
  akey : Option ClsKey := none
  chan : Option Nat := none
  weir : Bucket := ⟨0, 0⟩
  latchAddr : Option (List Byte) := none
  latchPort : Nat := 0
  ssrc : Option Nat := none
  rtp : Replay := {}
  rtcp : Replay := {}
  txIndex : Nat := 0
  tsAdd : Nat := 0
  rtcpTx : Nat := 0
  expiring : Bool := false
  exhausted : Bool := false
  rtt : Nat := 0
  remFrac : Nat := 0
  remLost : Nat := 0
  remJitter : Nat := 0
  h : Option Nat := none
  h0 : Nat := 0
  accepted : Nat := 0
  rrBase : Nat × Nat := (0, 0)
  lsr : Option (Nat × Nat) := none
  o : Option Nat := none
  oSets : Nat := 0
  target : Option Nat := none
  delay : Nat := 0
  buf : List JPkt := []
  consumed : List Nat := []
  probation : Option JPkt := none
  lastStamp : Option Nat := none
  transit : Option Int := none
  devs : List Int := []
  jit16 : Nat := 0
  ctr : List Nat := []
  rtcpTurn : Option Nat := none
  poison : Bool := false
  prev : Option (Nat × StreamGen) := none
  next : Option StreamGen := none
  deriving DecidableEq, Repr

/-- Who owns a class or is a bundle's member: a channel or a bundle (R173, R243). -/
inductive Owner where
  | chan (c : Nat) | bundle (b : Nat)
  deriving DecidableEq, Repr

/-- One entry of a half's class table (R164 to R167), keyed half × 65536 + index: its owner and position in it, the kernel (none
for the library) and class, its placed entry point and vectors, cost, period, phase, write-back length and I/O bytes, its stone
and polder, the releases counted, those of them passed over, and the count of the last one made. -/
structure Klass where
  owner : Owner
  pos : Nat
  kern : Option Nat := none
  lib : Nat := 0
  entry : Nat := 0
  fvec : Nat := 0
  bvec : Nat := 0
  cost : Nat
  period : Nat
  phase : Nat := 0
  w : Nat
  io : Nat
  defer : Bool := false
  freeArea : Bool := false
  stone : Nat
  polder : Nat
  count : Nat := 0
  skipped : Nat := 0
  last : Nat := 0
  deriving DecidableEq, Repr

/-- How far a work unit has got before its stone runs it: released, its context being fetched into or lying in a bin slot, or
staged (R165 to R183). Running and draining units stand in their stone, sealed ones in the seal log. -/
inductive WuSt where
  | released | fetching (slot : Nat) | inBin (slot : Nat) | staged
  deriving DecidableEq, Repr

/-- A tone a channel side plays (R240): its kind, digit or definition, level, repeat, on and off times, and the turn at which it ends (none for one
that plays until it is stopped). -/
structure Tone where
  kind : Nat
  digit : Nat
  level : Nat
  repeats : Bool
  on : Nat
  off : Nat
  ends : Option Nat := none
  deriving DecidableEq, Repr

/-- A work unit (R164, R169), keyed by its serial number: its class, stone and WUID, its deadline turn, whether it is deferrable, the queue items
it has taken, whether a deferrable one has started, the release it is, whether its prefetch has waited (R207), whether an early prefetch of it
found poison (R190), the parameter block in force at its release where a later one has replaced it (R217), the order of visibility at its
release (R211), the departure of its packets once its deadline has passed (R164), for streams AB and BA the O and how often the engine had
set it when it was staged (R237), the ticks the wait watchdog of its prefetch has counted (R62), the Tide time of its release (R242), the tones its
channel's sides play from its release on (R240), and the memberships through which audio flows at its release (R246): bundle, slot and member. -/
structure WU where
  cls : Nat
  stone : Nat
  wuid : Nat
  deadline : Nat
  defer : Bool
  st : WuSt := .released
  taken : List (Nat × Nat) := []
  started : Bool := false
  n : Nat := 0
  held : Bool := false
  bad : Bool := false
  params : Option (List Byte) := none
  seen : Nat := 0
  depart : Option Nat := none
  os : List (Option Nat × Nat) := []
  wait : Nat := 0
  start : Nat := 0
  tones : List (Option Tone) := []
  flows : List (Nat × Nat × Owner) := []
  deriving DecidableEq, Repr

/-- What a library kernel seals for one side (R219, R236, R237): its STATUS figures, the target delay, the steps of K it moves O by with how often
the engine had set O when it read its state, the frames concealed and those with an unconfigured payload type, what disables (0 nothing, 1 a
tone, 2 a tone with phase reversals), whether both directions are quiet (R225), and whether voiceband data mode begins (R236). -/
structure SideSeal where
  erl : Nat
  erle : Nat
  ecState : Nat
  tone : Nat
  target : Nat
  adjust : Int
  oSets : Nat
  concealed : Nat
  badPt : Nat
  disables : Nat
  quiet : Bool
  vbd : Bool
  deriving DecidableEq, Repr

/-- What the timestamps of a packet hold for a side (R228, R239). -/
inductive SpanKind where
  | media | comfort | event (code : Nat) | bad
  deriving DecidableEq, Repr

/-- A range of RTP timestamps that a packet covers: its first, its length, what it holds and its payload. -/
structure Span where
  ts : Nat
  len : Nat
  kind : SpanKind
  data : List Byte := []
  deriving DecidableEq, Repr

/-- A 5 ms frame a kernel plays (R228, R229, R239): decoded media, overlap-added after a loss or not; decoded comfort noise; a received event; a
concealed frame at num/den of full level; comfort noise at the level last measured; silence in voiceband data mode; or comfort noise in place of
a digit that RELAY removes. -/
inductive Frame5 where
  | media (overlap : Bool) | comfort | event (code : Nat) | repeated (num den : Nat) | noise | silence | removed
  deriving DecidableEq, Repr

/-- What a library kernel keeps for a side: the timestamps its packets cover, the run of lost frames, the frame played last, whether received
comfort noise goes on, the codec word in effect (R227), the slots since O was last lowered and raised (R236), the slots for which DTMF detection
is suppressed, the events reported with the time each began (R242), the digits sent as events (R239), whether the canceller adapts and the NLP
mode in effect (R224, R225), the timestamp transmitted next (R218), and the tone it plays (R240). Of its audio, in samples of 16 bits: the
states of the decoder and the encoder, the frame played last, the canceller's 1,024 taps (none for zeros) with what adapts them, and its reference (R220,
R221); the frames that wait for a packet and whether a talkspurt goes on (R325); the mode that a CMR asks for (R226); and the event being sent,
its first timestamp and its duration so far (R239). -/
structure KSide where
  spans : List Span := []
  run : Nat := 0
  last : Option Frame5 := none
  dtx : Bool := false
  codec : Option Nat := none
  low : Nat := 4
  high : Nat := 20
  suppress : Nat := 0
  events : List (Nat × Nat) := []
  relayed : List Nat := []
  adapts : Bool := false
  nlp : Nat := 0
  ts : Nat := 0
  plays : Option Tone := none
  dec : List Int := []
  enc : List Int := []
  audio : List Int := []
  taps : List Int := []
  ecs : List Int := []
  ref : List Int := []
  frames : List (List Int) := []
  talk : Bool := false
  cmr : Option Nat := none
  tev : Option (Nat × Nat × Nat) := none
  deriving DecidableEq, Repr

/-- The state of a library kernel's class (R215, R218, R224): the release count it stored, the EPOCH and STONEID that stamp the tail ring with the
releases it has held reference for, and the sides. It stands for the kernel state of the context, whose layout is private. -/
structure KState where
  count : Nat := 0
  stamp : Option (Nat × Nat) := none
  ring : Nat := 0
  sides : List KSide := []
  deriving DecidableEq, Repr

/-- An entry of a mill's seal log (R185), kept by role: the turn it belongs to, the work unit, class and status (none for OK), its seal slot, the
items it took, what a library kernel sealed for each side, the results of QOS_EVAL with the counts they start from (R214), and the levels of a
mixer's members (R245). -/
structure SealEntry where
  turn : Nat
  wu : Nat
  wuid : Nat
  cls : Nat
  status : Option Nat
  slot : Option Nat
  taken : List (Nat × Nat)
  sides : List (Option SideSeal) := []
  eval : List Nat := []
  evalBase : List (Nat × Nat) := []
  levels : List (Nat × Nat) := []
  deriving DecidableEq, Repr

/-- A seal slot of 20 KiB (R182, R184), keyed 4 × role + i: the work unit and class whose write-back it holds, its bytes, the lines of outputs from
the I/O area by their offset, and the kernel state that the write-back carries. -/
structure SealSlot where
  wu : Nat
  cls : Nat
  data : List Byte
  outs : List (Nat × List Byte) := []
  kst : KState := {}
  deriving DecidableEq, Repr

/-- The figures STATUS reports of one side of a channel (R219), as the latest turn commit left them, and the output entries dropped since. -/
structure SideStat where
  erl : Nat := 0
  erle : Nat := 0
  ecState : Nat := 0
  tone : Nat := 0
  delay : Nat := 0
  target : Nat := 0
  concealed : Nat := 0
  badPt : Nat := 0
  badOut : Nat := 0
  late : Nat := 0
  overflow : Nat := 0
  badNext : Nat := 0
  deriving DecidableEq, Repr

/-- A channel (R209, R216): its state and parameter block, stone, classes by position (131,072 where a class with P = 0 has left, R164), the class of
QOS_EVAL, the bundle slot it is a member in, the figures of each side, the tones playing, the last QOS_EVAL results with their turn and the counts
of each stream they start from (R214), and for each side whether its canceller is disabled (1 the NLP, 2 the canceller), the quiet releases
counted towards its return (R225), and voiceband data mode (R236). -/
structure Chan where
  st : ObjSt := .idle
  polder : Nat := 0
  params : List Byte := []
  stone : Nat := 0
  classes : List Nat := []
  qos : Option Nat := none
  slot : Nat := 0xFF
  member : Option (Nat × Nat) := none
  sides : List SideStat := []
  tones : List (Option Tone) := [none, none]
  eval : Option (Nat × List Nat) := none
  evalBase : List (Nat × Nat) := []
  disabled : List Nat := []
  quiet : List Nat := []
  vbd : List Bool := []
  commitTurn : Nat := 0
  resumed : Bool := false
  deriving DecidableEq, Repr

/-- A bundle (R243 to R246): its state, SPEAKERS, stone, members by slot with the turn each one's join takes effect in, mixer classes, the slots
that speak, and the releases for which a slot has been louder by 3 dB than the quietest of them (R245). -/
structure Bundle where
  st : ObjSt := .idle
  polder : Nat := 0
  speakers : Nat := 3
  stone : Nat := 0
  members : Tab Owner := []
  from' : Tab Nat := []
  speak : List Nat := []
  louder : Tab Nat := []
  classes : List Nat := []
  member : Option (Nat × Nat) := none
  commitTurn : Nat := 0
  deriving DecidableEq, Repr

/-- A class descriptor of a kernel image (R248). -/
structure ClassDesc where
  entry : Nat
  cost : Nat
  w : Nat
  io : Nat
  pmin : Nat
  defer : Bool
  deriving DecidableEq, Repr

/-- A loaded kernel (R247, R250), keyed 64 × polder + k: the header and code it keeps, and what its header says. -/
structure Kern where
  image : List Byte
  freeArea : Bool
  fvec : Nat
  bvec : Nat
  classes : List ClassDesc
  deriving DecidableEq, Repr

/-- A customer type (R253, R633), keyed 256 × polder + code: (kernel, class, P) by position, the per-stone limit, the RTP clock
codes of the sides and the positions that consume AB and BA. -/
structure CType where
  entries : List (Nat × Nat × Nat)
  limit : Nat
  clockA : Nat
  clockB : Nat
  consAB : Nat
  consBA : Nat
  deriving DecidableEq, Repr

/-- An image placed in a mill's kernel area (R251): the library (none) or a kernel, its offset and its length. -/
structure Placed where
  kern : Option Nat
  off : Nat
  len : Nat
  deriving DecidableEq, Repr

/-- What takes effect at a turn boundary (R217, R240, R241, R246, R314, R481, R512). -/
inductive TurnFx where
  | streamDesc (i : Nat) (desc : List Byte)
  | streamIdle (i : Nat)
  | chanParams (c : Nat) (params : List Byte)
  | chanActive (c : Nat)
  | tone (c side : Nat) (t : Option Tone)
  | cpDefine (p idx : Nat) (d : List Byte)
  | qosDrop (c : Nat)
  | leave (m : Owner)
  | resume (c age : Nat)
  | pwin (p half w word : Nat)
  deriving DecidableEq, Repr

/-- The Miller of one half (R160 to R163, R180, R187): whether TURN is loaded, the Tide time of the last boundary, the
deferrable cost started in the running turn, the marks Tide has sent that have not arrived (bits 15:0 of its turn count, and their Tide times),
and the highest count a boundary was made for, which is above MILLER_TURN while the half waits for the marks' count (R163). -/
structure Miller where
  loaded : Bool := false
  lastB : Nat := 0
  defer : Nat := 0
  marks : List (Nat × Nat) := []
  made : Nat := 0
  deriving DecidableEq, Repr

/-- The work of the Millers and the objects they serve. `early` holds, by class, the unit of the next release whose context is prefetched already
(R182), `kst` the kernel state of each library class, and `cpFrom` the Tide time from which a call-progress definition has been in effect (R241). -/
structure Sched where
  miller : Tab Miller := []
  classes : Tab Klass := []
  wus : Tab WU := []
  nextWu : Nat := 0
  early : Tab WU := []
  kst : Tab KState := []
  accounts : Tab Nat := []
  slots : Tab SealSlot := []
  logs : Tab (List SealEntry) := []
  heldTurns : Tab (List Nat) := []
  ctxMem : Tab (Tab Byte) := []
  ctxPoison : List Nat := []
  chans : Tab Chan := []
  bundles : Tab Bundle := []
  kerns : Tab Kern := []
  types : Tab CType := []
  placed : Tab (List Placed) := []
  cpDefs : Tab (List Byte) := []
  cpFrom : Tab Nat := []
  fx : List (Nat × TurnFx) := []
  takeover : List Nat := []
  deriving DecidableEq, Repr

/-- A frame in transmission (R364, R365, R404): its queue and item, whether all of it was in the FIFO when it started, and the corrected
stamp of its time-stamp point. -/
structure TxFrame where
  qid : Nat
  item : Nat
  whole : Bool
  stamp : Nat
  deriving DecidableEq, Repr

/-- What a port's settings were before a write, with the Tide time of the write (R363, R402): KEEP_BAD and RX_ADJ. -/
structure PortPast where
  at' : Nat
  keepBad : Bool
  rxAdj : Nat
  deriving DecidableEq, Repr

/-- One port (R356 to R373): the frame in transmission, whether a PFC frame is, the frame to be sent again after an under-run, the PFC frame
written to MAC_PFC_TX and not yet sent (QUANTA, CLASSES), the end of each running pause timer by priority, the deficits (key 16 × priority +
polder) and the polder each priority serves (2 × polder + whether its quantum of this round is given), the items whose deferral in this
window is counted, the gate control lists (key (bank × 256 + entry) × 2 + word), the swap second, the time of the MODE = 1 write that
waits for a cycle start, and the settings that a frame in flight may have begun under, newest first. -/
structure Port where
  tx : Option TxFrame := none
  pfcNow : Bool := false
  retry : Option (Nat × Nat) := none
  pfc : Option (Nat × Nat) := none
  pause : Tab Nat := []
  deficit : Tab Nat := []
  serving : Tab Nat := []
  deferred : List Nat := []
  gcl : Tab Nat := []
  swapSec : Nat := 0
  modeAt : Nat := 0
  past : List PortPast := []
  deriving DecidableEq, Repr

/-- The management MAC beyond its registers (R379): the attempt the frame at HEAD is in and the slot times its backoff waits. -/
structure MgMac where
  attempt : Nat := 0
  backoff : Option Nat := none
  deriving DecidableEq, Repr

/-- A time-stamp entry (R404 to R406): the identifier, or the edge of a capture, and the stamp in units of 2⁻¹⁶ ns. -/
structure TsEnt where
  id : Nat
  units : Nat
  deriving DecidableEq, Repr

/-- A pulse output (R412, R415): the second boundary from which it is enabled, whether it is active, the Tide time of its last active edge and its
width, and the time it last went inactive (the times move with a step). -/
structure Pulse where
  from' : Nat := 0
  active : Bool := false
  edge : Int := 0
  width : Nat := 0
  off : Option Int := none
  deriving DecidableEq, Repr

/-- Tide beyond its registers (R395 to R417). The time at the last tick in units of 2⁻⁴⁸ ns; adj in units of 2⁻¹⁶ ppb and the integrator in units of
2⁻²⁴ ppb; the mean that HOFREQ kept when LOCKED was last left, none where it was never reached, with the time LOCKED began and what adj was
since (time and value); the consecutive samples within LOCK; the source codes that have given a sample within SRC_TIMEOUT, with the time of the
last; the last edge used of each TS_IN; the end of the pending step's wait, S; when the holdover began; the second boundaries from which outputs
are squelched and from which they resume; the times of the last and next turn mark, Tide's turn count and whether it is loaded; whether the PLL
follows the selected reference; the time-stamp entries by source with OVF and COUNT of each; and the latches of each function. -/
structure TideSt where
  tick : Nat := 0
  adj : Int := 0
  integ : Int := 0
  hofreq : Option Int := none
  lockedAt : Nat := 0
  history : List (Nat × Int) := []
  inLock : Nat := 0
  alive : List (Nat × Nat) := []
  lastEdge : Tab (Option Int) := []
  stepAt : Nat := 0
  hoStart : Nat := 0
  squelchAt : Option Nat := none
  resumeAt : Nat := 0
  lastMark : Int := 0
  nextMark : Nat := 65536000000
  turns : Nat := 0
  loaded : Bool := false
  follows : Bool := true
  ts : Tab (List TsEnt) := []
  tsOvf : Tab Nat := []
  tsDrops : Tab Nat := []
  tsLatch : Tab (List Nat) := []
  nowLatch : Tab Nat := []
  pulses : Tab Pulse := []
  deriving DecidableEq, Repr

/-- An entry of an error log (R434): the line or word it is keyed by, the count, the core die of the latest correction, and
whether it is a directory entry (R443). -/
structure MemLogEnt where
  key : Nat
  count : Nat
  die : Nat
  dir : Bool
  deriving DecidableEq, Repr

/-- A directory entry (R438): the owner of a line in M, or the rows (a bit each) that may hold it in S. The default is I. -/
structure DirEnt where
  owner : Option Nat := none
  rows : Nat := 0
  deriving DecidableEq, Repr

/-- The state of a line in a mill's cache (R438): I, S, or M, which this model takes as dirty. -/
inductive CacheSt where
  | i | s | m
  deriving DecidableEq, Repr

/-- A line in an eviction buffer (R440): dirty, and whether its notice has reached the directory. -/
structure Evicted where
  line : Nat
  dirty : Bool
  noticed : Bool
  deriving DecidableEq, Repr

/-- A request the directory is serving (R439): its tag, line and requester, and the mills whose answers it waits for. -/
structure CohTxn where
  tag : Nat
  line : Nat
  mill : Nat
  kind : DirReq
  wait : List Nat
  deriving DecidableEq, Repr

/-- Millpond coherence (R438 to R441): the directory by line (millpond offset ÷ 64), each mill's cached lines (key mill × 2²⁰ + line) and
eviction buffer, the requests in progress, the answers that will be discarded (mill, tag, line), the EVICT_ACKs on their way, and the lines in the
order of their last use in the directory, oldest first. The data of
a line is the millpond's: it stands for the newest copy (log entry 20). -/
structure Coherence where
  dir : Tab DirEnt := []
  cache : Tab CacheSt := []
  evict : Tab (List Evicted) := []
  txns : List CohTxn := []
  nextTag : Nat := 0
  late : List (Nat × Nat × Nat) := []
  acks : List (Nat × Nat) := []
  lru : List Nat := []
  deriving DecidableEq, Repr

/-- HBM (R426 to R449): its bytes by device HBM address, the poisoned lines (address ÷ 64), the error logs (HBMC slices 0 to 31, POND
banks from 32), the core dies that are lost (12 × stack + die), the retired pages (stack × 2²³ + page) in the order retired and those of them whose
Ledger record could not be written, the page a slice is retiring and what has become of its Ledger record (none while it waits), and the scrubbers'
next millpond words. -/
structure Mem where
  hbm : Tab Byte := []
  poison : List Nat := []
  logs : Tab (List MemLogEnt) := []
  lostDies : List Nat := []
  retired : List Nat := []
  unlisted : List Nat := []
  retiring : Tab (Option Nat) := []
  retireRec : Tab (Option Bool) := []
  pondPos : Tab Nat := []
  coh : Coherence := {}
  deriving DecidableEq, Repr

/-- Who waits for a Ledger record: a Vorak command by its order, the retirement of a slice, or no one. -/
inductive LWho where
  | none | cmd (order : Nat) | retire (slice : Nat)
  deriving DecidableEq, Repr

/-- A record to be written to the Ledger (R452, R453): the TYPE and INDEX of its key and its payload. -/
structure LReq where
  typ : Nat
  index : Nat
  payload : List Byte
  who : LWho := .none
  deriving DecidableEq, Repr

/-- The Ledger (R451 to R457): its slots as bytes (256 each; a slot not listed is all zero), the records waiting, the one in
progress with its slot, the slot + 1 of the current record of each key (key TYPE × 2²⁴ + INDEX), the next place of each circular
region, the times of the latest writes that the limits count, the fault records beyond their limit, and whether recovery has run since power-up. MRAM: no reset clears the slots. Marks: DEDUCED unsafe (log entry 244). -/
structure LedgerSt where
  slots : Tab (List Byte) := []
  reqs : List LReq := []
  writing : Option (Nat × LReq) := none
  current : Tab Nat := []
  next : Tab Nat := []
  times : Tab (List Nat) := []
  faultsOver : Nat := 0
  recovered : Bool := false
  deriving DecidableEq, Repr

/-- A message to a role held at its row router during a role change or take-over (R482, R589): the sender's polder, the role, the
epoch the sender knew, either the doorbell bits for a stone of the role or the queue item of a control message, and the order of the
Vorak command that sent it. -/
structure HeldMsg where
  polder : Nat
  role : Nat
  epoch : Nat
  stone : Nat
  bits : Nat
  item : Option QItem
  order : Option Nat
  deriving DecidableEq, Repr

/-- Why a mill changes role (R482): a grant or return, the reset of a polder, the two passes of a DESTROY, or a role given up (R593). -/
inductive ChangeWhy where
  | grant | reset | destroy | leave | giveUp
  deriving DecidableEq, Repr

/-- A role change in progress (R482): the mill, its polder before and after, the order of the command that caused it, and why. -/
structure RoleChange where
  mill : Nat
  old : Nat
  polder : Nat
  order : Nat
  why : ChangeWhy
  deriving DecidableEq, Repr

/-- A parcel waiting for zeroisation (R477): its global index, the polder whose key is used, and whether it is freed after. -/
structure ZeroJob where
  parcel : Nat
  polder : Nat
  free : Bool
  deriving DecidableEq, Repr

/-- The polders (R464 to R484): parcel owners (owner + 1, by global index), the zeroisation order, the page tables (key 32768 ×
polder + PA bits 35:21; parcel and WRITE), the enrolled key pairs, the draw that filled each key slot (0 for none), the role changes in
progress and the messages held for them, the commands that complete when a polder's zeroisation does (polder, order, DESTROY), the
polders whose role change has faulted, whether the random source fails its test, and the resets and teardowns whose key draw waits for it (polder,
order, why, R581). -/
structure Polders where
  owner : Tab Nat := []
  zero : List ZeroJob := []
  pages : Tab (Option (Nat × Bool)) := []
  keys : List (Nat × List Byte) := []
  slotKey : Tab Nat := []
  draws : Nat := 0
  changes : List RoleChange := []
  held : List HeldMsg := []
  waits : List (Nat × Nat × Bool) := []
  faulted : List Nat := []
  rngFail : Bool := false
  keyWaits : List (Nat × Nat × ChangeWhy) := []
  deriving DecidableEq, Repr

/-- A record of the measurement log (R563): the MR, the polder concerned, a type code and the value. -/
structure MRec where
  mr : Nat
  polder : Nat
  typ : Nat
  v : List Byte
  deriving DecidableEq, Repr

/-- The measurements (R562, R563): the MRs (none for all zeros), the log, and the log digests of the polders. -/
structure Measures where
  mr : Tab (List Byte) := []
  log : List MRec := []
  plog : Tab (List Byte) := []
  full : Bool := false
  deriving DecidableEq, Repr

/-- A command Vorak has taken and not completed (R507, R510): where it came from, its fields, the count of takes at which it was
taken, the number of the SQ_TAIL write that covers it (R518), whether it has started, its progress, whether it is aborted and runs to
its end (R519), and whether a function-level reset took its completion away (R522). -/
structure VCmd where
  polder : Nat
  ring : Nat
  tag : Nat
  opcode : Nat
  flags : Nat
  zero : Nat
  handle : Nat
  addr : Nat
  len : Nat
  a : List Nat
  sqHead : Nat
  order : Nat
  started : Bool := false
  progress : Nat := 0
  silent : Bool := false
  bell : Nat := 0
  aborted : Bool := false
  deriving DecidableEq, Repr

/-- What a ring's registers do not hold (R501 to R505): the CQ entry written next (the receive and notice rings use PROD), the
PHASE of the next entry, the unsignalled entries, and the SQ_TAIL writes that cover commands not yet taken, each with its tail and
its number (R518). Command rings are keyed 32 × polder + r,
receive rings 32 × polder + 16 + k and the notice ring 32 × polder + 24. -/
structure RingSt where
  cqTail : Nat := 0
  phase : Bool := true
  unsig : Nat := 0
  bells : List (Nat × Nat) := []
  deriving DecidableEq, Repr

/-- Vorak (R501 to R513): the rings, the commands taken, the ring each polder took from last, the counts of takes and
of SQ_TAIL writes, the generations of the object indices and the boundary until which a freed index is in quarantine (keys: see `objKey`). -/
structure Vorak where
  rings : Tab RingSt := []
  cmds : List VCmd := []
  last : Tab Nat := []
  takes : Nat := 0
  bells : Nat := 0
  gens : Tab Nat := []
  quar : Tab Nat := []
  deriving DecidableEq, Repr

/-- The engine state of a Press job that its state image keeps (R537, R538). For decompression: the place in the stream (0 header, 1 block header, 2
stored block, 3 coded block, 4 trailer), whether the block is the final one, the bits held, the bits already used of the next input byte, the
bytes left of a stored block, the codes of a coded block (length, code, symbol) and a copy in progress. For compression: the output not yet
delivered and the input, with LAST, that the stopped job had still to take. For both: the running check and the length. -/
structure Eng where
  op : Nat
  fmt : Nat
  level : Nat
  mode : Nat := 0
  fin : Bool := false
  bits : List Bool := []
  skip : Nat := 0
  stored : Nat := 0
  lit : List (Nat × Nat × Nat) := []
  dist : List (Nat × Nat × Nat) := []
  copyLen : Nat := 0
  copyDist : Nat := 0
  check : Nat := 0
  total : Nat := 0
  rest : List Byte := []
  pend : Option (List Byte × Bool) := none
  deriving DecidableEq, Repr

/-- A Press job that has started (R534, R544): a ring job with the index and the bytes of its descriptor, or a mirror job (no descriptor) with
the records it compresses, their number and the turn of their state. -/
structure PJob where
  polder : Nat
  mirror : Bool
  idx : Nat
  desc : List Byte
  records : List Byte
  count : Nat
  turn : Nat
  deriving DecidableEq, Repr

/-- A mirror output in a buffer of the device area (R544, R600): the compressed bytes, the records, their turn and the check. -/
structure MirOut where
  data : List Byte
  count : Nat
  turn : Nat
  check : Nat
  deriving DecidableEq, Repr

/-- The Press (R529 to R545): the settings in effect since the last turn boundary, its copies of CONS, the running job, the suspended jobs, the
mirror jobs that are due, the copies of mirror output in progress, SEQ of each area, whether the holder's time
has ended, and the engine states of saved images by the mark in the image. -/
structure PressSt where
  mode : Bool := false
  sloten : Nat := 0xFFFF
  slotmap : Nat := 0
  cons : Tab Nat := []
  running : Option PJob := none
  suspended : List PJob := []
  due : List PJob := []
  copies : Tab (Option MirOut) := []
  seq : Tab Nat := []
  timeUp : Bool := false
  saved : List (Nat × Eng) := []
  deriving DecidableEq, Repr

/-- The power controller (R569 to R573) and the pins of the standby domain: the state of each switched domain (R583), the domains with a queued
wake, those with a shutdown request that waits until they are ON, deep standby, and THERMTRIP_N (true while low). -/
structure PowerSt where
  dom : Tab Nat := []
  queued : List Nat := []
  later : List Nat := []
  standby : Bool := false
  trip : Bool := false
  deriving DecidableEq, Repr

/-- What an I²C master does on its bus (R575, R577): a host transaction, the read of VOUT_MODE, or a VOUT_COMMAND of a voltage in mV. -/
inductive I2cWho where
  | host | voutMode | voutCommand (mv : Nat)
  deriving DecidableEq, Repr

/-- An I²C master (R574 to R577): the transaction in progress, its attempts, whether it waits for the next attempt, a GO and an
adaptive-voltage transaction that wait, the bus-clear retries left, whether VOUT_MODE has been read since MODE was set, and the turn in which an
adaptive-voltage transaction has last ended. -/
structure I2cSt where
  cur : Option I2cWho := none
  tries : Nat := 0
  again : Bool := false
  goWaits : Bool := false
  avsWaits : Option I2cWho := none
  clrLeft : Nat := 0
  ready : Bool := false
  slot : Option Nat := none
  deriving DecidableEq, Repr

/-- How far a device reset has come towards carrying traffic (R553): in reset, in the boot ROM, with firmware running, with HBM and the fabric
up, or booted. RECOVERY and FAILED stand in TRUST_STAT.STATE. -/
inductive BootStage where
  | held | rom | firmware | memory | done
  deriving DecidableEq, Repr

/-- Boot and trust beyond their registers (R551 to R568): the classifiers' hash key (R297), the boot stage, whether the watchdog's reset is still to be recorded, whether PERST_N is
low, the digest of the running image, the nonce of the latest DEBUG_CHALLENGE while unused, and the TAP's instruction. -/
structure TrustSt where
  hashKey : Nat := 0
  boot : BootStage := .held
  watchdog : Bool := false
  perst : Bool := false
  digest : List Byte := []
  nonce : Option (List Byte) := none
  tap : TapInstr := .idcode
  deriving DecidableEq, Repr

/-- The PCIe endpoint beyond its page (R489): the functions in D3hot and the completion timeout range of each function's Device Control 2. -/
structure PcieSt where
  d3 : List Nat := []
  timeout : Tab Nat := []
  deriving DecidableEq, Repr

/-- A take-over in progress (R588 to R590): the role, the mill it has lost, the spare that claims it, and whether the spare has claimed it. -/
structure Claim where
  role : Nat
  old : Nat
  spare : Nat
  claimed : Bool := false
  deriving DecidableEq, Repr

/-- A lost role whose channels and bundles wait for placement (R593, R594): the role, its polder, its class entries, channels and bundles, and the quarantined mills
whose self-test begins when that is done. -/
structure LostRole where
  role : Nat
  polder : Nat
  keys : List Nat
  chans : List Nat
  buns : List Nat
  mills : List Nat
  deriving DecidableEq, Repr

/-- A mill given up to a role (R593): the mill, the role it passes to, and the faulted mill that held the role. -/
structure Given where
  mill : Nat
  role : Nat
  old : Nat
  deriving DecidableEq, Repr

/-- The RAS block beyond its registers (R586 to R602): the take-overs, the lost roles and the mills given up, the mills that have an earlier
quarantine record, those whose self-test runs, the mills in role 0x3 with the turn in which step 8 fell, whether FAIL_STOP stops the
MACs, and the tags of Millhouse requests that have been retried (R596). -/
structure RasSt where
  claims : List Claim := []
  lost : List LostRole := []
  given : List Given := []
  again : List Nat := []
  testing : List Nat := []
  claimedAt : List (Nat × Nat) := []
  stopping : Bool := false
  retried : List Nat := []
  deriving DecidableEq, Repr

/-- What the block sends out, in order. It only grows: the outside reads it, and no rule of the block depends on it (log
entry 5). Marks: DESIGN CHOICE safe (log entry 5). -/
inductive Out where
  /-- Read data returned to a function (R496). -/
  | readData (fn addr data : Nat)
  /-- An MSI-X message of a function (R491). -/
  | msi (fn vec : Nat)
  /-- A fabric detection reported to the RAS block (R64). -/
  | detection (kind : Nat) (place : Place)
  /-- An error response to a waiting requester (R596). -/
  | errorResponse (who : Requester) (tag : Nat)
  /-- An error response of a lock to a request (R74). -/
  | lockError (half n tag : Nat)
  /-- A word delivered by a lock: towards the clocked side, or towards the self-timed side. -/
  | lockDelivered (half n : Nat) (toClocked : Bool) (tag : Nat)
  /-- A refused stop (R73). -/
  | stopRefused (half n : Nat)
  /-- A wake raised to the power controller (R73). -/
  | lockWake (half n : Nat)
  /-- A flit leaving a router through a port that leads to no other router (R65). -/
  | flitOut (row port : Nat) (f : Flit)
  /-- A NACK to the sender of a message with a stale epoch (R483). -/
  | nack (polder : Nat)
  /-- A notice of a queue with NOTICE_EN: one for each visible item (R337). -/
  | queueNotice (qid : Nat)
  /-- Bytes written to the host memory of a function (R503 to R505, R516). -/
  | dmaWrite (fn addr : Nat) (data : List Byte)
  /-- A fault reported to the RAS block by a block (its type and instance), which DEVICE_FAULT or MILL_FAULT then records. -/
  | fault (typ inst : Nat)
  /-- The answer to a memory access of a requester (R434 to R437): the data, and whether it is poison. -/
  | memData (req addr : Nat) (data : List Byte) (poison : Bool)
  /-- An error response to a memory access of a requester (R435). -/
  | memError (req addr : Nat)
  /-- A snoop sent to a mill (R438). -/
  | snoop (mill line tag : Nat)
  /-- A line granted to a mill: 1 in S, 2 in M, 0 an AMO done at the bank (R439). -/
  | dirGrant (mill line st : Nat)
  /-- A completer abort to a function (R435). -/
  | completerAbort (fn addr : Nat)
  /-- An Unsupported Request answer to a function (R489, R522). -/
  | unsupported (fn addr : Nat)
  /-- A frame a port has sent, padded and with its FCS (R364). -/
  | frameOut (port : Nat) (data : List Byte)
  /-- A frame ended with the inverted FCS after an under-run (R365). -/
  | frameCut (port : Nat)
  /-- A frame the management MAC has sent (R379). -/
  | mgFrameOut (data : List Byte)
  /-- A BEACON sent by the management MAC as PLCA coordinator (R380). -/
  | mgBeacon
  /-- A pulse output becomes active or inactive (R415): its level, high or low, and the Tide time at which the edge is at the ball, in units of 2⁻¹⁶ ns. -/
  | pulse (output : Nat) (high : Bool) (ball : Int)
  /-- A configuration request completed with Retry Status (R553). -/
  | cfgRetry (fn : Nat)
  /-- A configuration request completed (R489). -/
  | cfgDone (fn : Nat)
  /-- An SPDM response to a mailbox (0 to 15) or the SMBus target (16): the request, the measurements it returns by index, and its signatures
  (R565, R566). -/
  | spdm (who : Nat) (req : SpdmReq) (measurements : List (Nat × List Byte)) (signatures : List (List Byte))
  /-- A response of the SMBus target to an MCTP control command, with the endpoint ID (R578). -/
  | mctp (msg : MctpMsg) (eid : Nat)
  /-- The IDCODE of the TAP (R568). -/
  | idcode (v : Nat)
  /-- An attempt on an I²C bus (R575, R577): the bus, its speed, the address, the bytes written and the count read. -/
  | i2cAttempt (inst speed addr : Nat) (bytes : List Byte) (rlen : Nat)
  /-- What a MAC sends in place of frames from now on: remote fault ordered sets while it sees a local fault, else idle while it receives a remote
  fault (R360). -/
  | faultSignal (port : Nat) (remoteFault : Bool)
  /-- A MAC that sends only local fault ordered sets from now on (R598). -/
  | localFault (port : Nat)
  /-- THERMTRIP_N goes low (R625). -/
  | thermtrip
  deriving DecidableEq, Repr

/-- Why the machine stops with a fault. -/
inductive Fault where
  /-- Raised by no meaning: every command answers a next state. It is kept so that the type names the one thing that could stop the machine,
  a command that is no event of the interface. Safe: nothing the hardware does is replaced by it. -/
  | malformed
  deriving DecidableEq, Repr

/-- Why a command is refused. -/
inductive Refusal where
  /-- Answered by an arm of `exec` for a command that has no meaning yet. Safe: nothing is claimed of it. -/
  | notModelled (mnemonic : String)
  deriving DecidableEq, Repr

/-- The state of the block. -/
structure State where
  fuse : Fuse := {}
  regs : Tab Word := []
  ctrs : Tab (BitVec 64) := []
  latch : Tab Word := []
  shadow : Tab Word := []
  flog : List FLog := []
  fab : Fabric := {}
  stones : Tab Stone := []
  mills : Tab MillSt := []
  image : Tab MillSt := []
  pond : Tab Byte := []
  pondPoison : List Nat := []
  qs : Queues := {}
  cls : Tab Classifier := []
  streams : Tab Stream := []
  ipId : Tab Nat := []
  sch : Sched := {}
  ports : Tab Port := []
  mg : MgMac := {}
  tideNow : Nat := 0
  tide : TideSt := {}
  mem : Mem := {}
  led : LedgerSt := {}
  pol : Polders := {}
  meas : Measures := {}
  vk : Vorak := {}
  press : PressSt := {}
  pcie : PcieSt := {}
  power : PowerSt := {}
  i2c : Tab I2cSt := []
  trust : TrustSt := {}
  ras : RasSt := {}
  out : List Out := []
  fresh : Nat := 0
  pending : List Instr := []
  deriving DecidableEq, Repr

/-- The state right after reset: every field at its reset value, the queue of commands empty. Marks: DESIGN CHOICE unsafe (log entry 6), PRESUMED unsafe (log entry 209). -/
def State.reset : State := {}

/-- What a meaning answers. -/
abbrev Res := Host.Outcome State Fault Refusal

end Sys2Proof.Machine
end

