-- ==== Sys2Proof/Machine/RegMap.lean ====
section
/-!
DEFINITION. The register pages of the block as the spec lays them out: one `Fld` for each field of each register (its block
type code of R17, its offset in the page, the number and stride of its copies, its bits, its access type of R11 and its
reset value), the same for the 64-bit pairs of R14, and the defined interrupt-cause bits of each page. A field whose
reset value differs from copy to copy is given by `specialReset` in Machine/Ops.lean.
-/

namespace Sys2Proof.Machine

/-- The access types of R11. `rsv` has no field here: a bit no field names is reserved. -/
inductive Acc where
  | rw | ro | rc | w1c | w1s | wo | rwl
  deriving DecidableEq, Repr

/-- One field of a register: `t` the block type code (R17; 31 stands for the common header of every page, R498),
`off` its register's offset, `n` copies `stride` bytes apart, the field's lowest bit `lo` and width `w`, its access
type and its reset value. -/
structure Fld where
  t : Nat
  off : Nat
  n : Nat
  stride : Nat
  lo : Nat
  w : Nat
  acc : Acc
  rst : Nat
  deriving DecidableEq, Repr

/-- A 64-bit quantity read as a _LO and _HI pair (R14): block type, offset of _LO, and whether it is RC. -/
structure Ctr where
  t : Nat
  off : Nat
  rc : Bool
  deriving DecidableEq, Repr

/-! ## DEVICE -/

/-- DEVICE_ID (R6), offset 0x040. -/
def F.DEVICE_ID_PART : Fld := ⟨0, 0x040, 1, 4, 20, 12, .ro, 0x0⟩
/-- DEVICE_ID.GRADE (R6). -/
def F.DEVICE_ID_GRADE : Fld := ⟨0, 0x040, 1, 4, 16, 4, .ro, 0x0⟩
/-- DEVICE_ID.STEP_LETTER (R6). -/
def F.DEVICE_ID_STEP_LETTER : Fld := ⟨0, 0x040, 1, 4, 12, 4, .ro, 0x0⟩
/-- DEVICE_ID.STEP_DIGIT (R6). -/
def F.DEVICE_ID_STEP_DIGIT : Fld := ⟨0, 0x040, 1, 4, 8, 4, .ro, 0x0⟩
/-- DEVICE_ID.PHYS_MILLS (R6). -/
def F.DEVICE_ID_PHYS_MILLS : Fld := ⟨0, 0x040, 1, 4, 0, 8, .ro, 0x0⟩

/-- Every field of the DEVICE page beyond the common header. -/
def fields_device : List Fld :=
  [F.DEVICE_ID_PART, F.DEVICE_ID_GRADE, F.DEVICE_ID_STEP_LETTER, F.DEVICE_ID_STEP_DIGIT, F.DEVICE_ID_PHYS_MILLS]

/-! ## ROW -/

/-- ROW_MAP (R26), offset 0xC00. -/
def F.ROW_MAP_SPARES : Fld := ⟨2, 0xC00, 1, 4, 20, 4, .ro, 0x0⟩
/-- ROW_MAP.POS4 (R26). -/
def F.ROW_MAP_POS4 : Fld := ⟨2, 0xC00, 1, 4, 16, 4, .ro, 0x0⟩
/-- ROW_MAP.POS3 (R26). -/
def F.ROW_MAP_POS3 : Fld := ⟨2, 0xC00, 1, 4, 12, 4, .ro, 0x0⟩
/-- ROW_MAP.POS2 (R26). -/
def F.ROW_MAP_POS2 : Fld := ⟨2, 0xC00, 1, 4, 8, 4, .ro, 0x0⟩
/-- ROW_MAP.POS1 (R26). -/
def F.ROW_MAP_POS1 : Fld := ⟨2, 0xC00, 1, 4, 4, 4, .ro, 0x0⟩
/-- ROW_MAP.POS0 (R26). -/
def F.ROW_MAP_POS0 : Fld := ⟨2, 0xC00, 1, 4, 0, 4, .ro, 0x0⟩
/-- ROW_GRAINS (R27), offset 0xC04. -/
def F.ROW_GRAINS_GRAINS : Fld := ⟨2, 0xC04, 1, 4, 0, 24, .ro, 0x0⟩
/-- ROW_ROLES (R28), offset 0xC08. -/
def F.ROW_ROLES_VALID3 : Fld := ⟨2, 0xC08, 1, 4, 15, 1, .ro, 0x0⟩
/-- ROW_ROLES.POS3 (R28). -/
def F.ROW_ROLES_POS3 : Fld := ⟨2, 0xC08, 1, 4, 12, 3, .ro, 0x0⟩
/-- ROW_ROLES.VALID2 (R28). -/
def F.ROW_ROLES_VALID2 : Fld := ⟨2, 0xC08, 1, 4, 11, 1, .ro, 0x0⟩
/-- ROW_ROLES.POS2 (R28). -/
def F.ROW_ROLES_POS2 : Fld := ⟨2, 0xC08, 1, 4, 8, 3, .ro, 0x0⟩
/-- ROW_ROLES.VALID1 (R28). -/
def F.ROW_ROLES_VALID1 : Fld := ⟨2, 0xC08, 1, 4, 7, 1, .ro, 0x0⟩
/-- ROW_ROLES.POS1 (R28). -/
def F.ROW_ROLES_POS1 : Fld := ⟨2, 0xC08, 1, 4, 4, 3, .ro, 0x0⟩
/-- ROW_ROLES.VALID0 (R28). -/
def F.ROW_ROLES_VALID0 : Fld := ⟨2, 0xC08, 1, 4, 3, 1, .ro, 0x0⟩
/-- ROW_ROLES.POS0 (R28). -/
def F.ROW_ROLES_POS0 : Fld := ⟨2, 0xC08, 1, 4, 0, 3, .ro, 0x0⟩
/-- CANAL_CTRL (R88), offset 0xC40. -/
def F.CANAL_CTRL_ARB : Fld := ⟨2, 0xC40, 1, 4, 0, 1, .rwl, 0x0⟩
/-- CANAL_PORTS (R89), offset 0xC44. -/
def F.CANAL_PORTS_PRESENT : Fld := ⟨2, 0xC44, 1, 4, 0, 14, .ro, 0x0⟩
/-- CANAL_FAULT (R90), offset 0xC48. -/
def F.CANAL_FAULT_VALID : Fld := ⟨2, 0xC48, 1, 4, 31, 1, .w1c, 0x0⟩
/-- CANAL_FAULT.VL (R90). -/
def F.CANAL_FAULT_VL : Fld := ⟨2, 0xC48, 1, 4, 16, 5, .ro, 0x0⟩
/-- CANAL_FAULT.PORT (R90). -/
def F.CANAL_FAULT_PORT : Fld := ⟨2, 0xC48, 1, 4, 8, 4, .ro, 0x0⟩
/-- CANAL_FAULT.KIND (R90). -/
def F.CANAL_FAULT_KIND : Fld := ⟨2, 0xC48, 1, 4, 0, 4, .ro, 0x0⟩
/-- CANAL_VLCRED (R92), offset 0xC80. -/
def F.CANAL_VLCRED_RSP : Fld := ⟨2, 0xC80, 16, 4, 8, 8, .rwl, 0x0⟩
/-- CANAL_VLCRED.REQ (R92). -/
def F.CANAL_VLCRED_REQ : Fld := ⟨2, 0xC80, 16, 4, 0, 8, .rwl, 0x0⟩

/-- Every field of the ROW page beyond the common header. -/
def fields_row : List Fld :=
  [F.ROW_MAP_SPARES, F.ROW_MAP_POS4, F.ROW_MAP_POS3, F.ROW_MAP_POS2, F.ROW_MAP_POS1, F.ROW_MAP_POS0, F.ROW_GRAINS_GRAINS, F.ROW_ROLES_VALID3, F.ROW_ROLES_POS3, F.ROW_ROLES_VALID2, F.ROW_ROLES_POS2, F.ROW_ROLES_VALID1] ++
  [F.ROW_ROLES_POS1, F.ROW_ROLES_VALID0, F.ROW_ROLES_POS0, F.CANAL_CTRL_ARB, F.CANAL_PORTS_PRESENT, F.CANAL_FAULT_VALID, F.CANAL_FAULT_VL, F.CANAL_FAULT_PORT, F.CANAL_FAULT_KIND, F.CANAL_VLCRED_RSP, F.CANAL_VLCRED_REQ]

/-! ## HALF -/

/-- HALF_ROWS (R29), offset 0xC00. -/
def F.HALF_ROWS_DEGRADED : Fld := ⟨3, 0xC00, 1, 4, 16, 8, .ro, 0x0⟩
/-- HALF_ROWS.NO_SPARE (R29). -/
def F.HALF_ROWS_NO_SPARE : Fld := ⟨3, 0xC00, 1, 4, 8, 8, .ro, 0x0⟩
/-- HALF_ROWS.ROWS_PRESENT (R29). -/
def F.HALF_ROWS_ROWS_PRESENT : Fld := ⟨3, 0xC00, 1, 4, 0, 8, .ro, 0x0⟩
/-- HALF_GRAINS (R30), offset 0xC04. -/
def F.HALF_GRAINS_GRAINS : Fld := ⟨3, 0xC04, 1, 4, 0, 24, .ro, 0x0⟩
/-- LOCK_STAT (R94), offset 0xC40. -/
def F.LOCK_STAT_PERR : Fld := ⟨3, 0xC40, 19, 4, 31, 1, .w1c, 0x0⟩
/-- LOCK_STAT.FILL_RX (R94). -/
def F.LOCK_STAT_FILL_RX : Fld := ⟨3, 0xC40, 19, 4, 24, 6, .ro, 0x0⟩
/-- LOCK_STAT.FILL_TX (R94). -/
def F.LOCK_STAT_FILL_TX : Fld := ⟨3, 0xC40, 19, 4, 16, 6, .ro, 0x0⟩
/-- LOCK_STAT.STAGES (R94). -/
def F.LOCK_STAT_STAGES : Fld := ⟨3, 0xC40, 19, 4, 8, 2, .ro, 0x0⟩
/-- LOCK_STAT.STATE (R94). -/
def F.LOCK_STAT_STATE : Fld := ⟨3, 0xC40, 19, 4, 0, 3, .ro, 0x5⟩
/-- LOCK_WAKE_LIMIT (R95), offset 0xC90. -/
def F.LOCK_WAKE_LIMIT_LIMIT : Fld := ⟨3, 0xC90, 1, 4, 0, 8, .rwl, 0x32⟩
/-- LOCK_ERRCNT (R96), offset 0xC94. -/
def F.LOCK_ERRCNT_COUNT : Fld := ⟨3, 0xC94, 1, 4, 0, 16, .rc, 0x0⟩

/-- Every field of the HALF page beyond the common header. -/
def fields_half : List Fld :=
  [F.HALF_ROWS_DEGRADED, F.HALF_ROWS_NO_SPARE, F.HALF_ROWS_ROWS_PRESENT, F.HALF_GRAINS_GRAINS, F.LOCK_STAT_PERR, F.LOCK_STAT_FILL_RX, F.LOCK_STAT_FILL_TX, F.LOCK_STAT_STAGES, F.LOCK_STAT_STATE, F.LOCK_WAKE_LIMIT_LIMIT, F.LOCK_ERRCNT_COUNT]

/-! ## VANE -/

/-- VANE_CTRL (R78), offset 0x040. -/
def F.VANE_CTRL_SURPLUS_EN : Fld := ⟨24, 0x040, 1, 4, 0, 1, .rw, 0x1⟩
/-- VANE_HALF_MIN (R79), offset 0x044. -/
def F.VANE_HALF_MIN_VALID : Fld := ⟨24, 0x044, 1, 4, 31, 1, .ro, 0x0⟩
/-- VANE_HALF_MIN.MILL (R79). -/
def F.VANE_HALF_MIN_MILL : Fld := ⟨24, 0x044, 1, 4, 16, 7, .ro, 0x0⟩
/-- VANE_HALF_MIN.PACE (R79). -/
def F.VANE_HALF_MIN_PACE : Fld := ⟨24, 0x044, 1, 4, 0, 12, .ro, 0x0⟩
/-- VANE_SURPLUS (R80), offset 0x048. -/
def F.VANE_SURPLUS_GRAINS : Fld := ⟨24, 0x048, 1, 4, 0, 24, .ro, 0x0⟩
/-- VANE_THRESH (R81), offset 0x04C. -/
def F.VANE_THRESH_LOW : Fld := ⟨24, 0x04C, 1, 4, 0, 12, .rwl, 0x5BE⟩
/-- VANE_WD (R82), offset 0x050. -/
def F.VANE_WD_WAIT : Fld := ⟨24, 0x050, 1, 4, 8, 8, .rwl, 0x14⟩
/-- VANE_WD.STAGE (R82). -/
def F.VANE_WD_STAGE : Fld := ⟨24, 0x050, 1, 4, 0, 8, .rwl, 0x14⟩
/-- VANE_AVS_CTRL (R83), offset 0x060. -/
def F.VANE_AVS_CTRL_HYST : Fld := ⟨24, 0x060, 1, 4, 16, 8, .rw, 0x28⟩
/-- VANE_AVS_CTRL.TARGET (R83). -/
def F.VANE_AVS_CTRL_TARGET : Fld := ⟨24, 0x060, 1, 4, 4, 12, .rw, 0x5BE⟩
/-- VANE_AVS_CTRL.MODE (R83). -/
def F.VANE_AVS_CTRL_MODE : Fld := ⟨24, 0x060, 1, 4, 0, 1, .rw, 0x0⟩
/-- VANE_AVS_VLIM (R84), offset 0x064. -/
def F.VANE_AVS_VLIM_VMAX : Fld := ⟨24, 0x064, 1, 4, 16, 10, .rwl, 0x320⟩
/-- VANE_AVS_VLIM.VMIN (R84). -/
def F.VANE_AVS_VLIM_VMIN : Fld := ⟨24, 0x064, 1, 4, 0, 10, .rwl, 0x2D0⟩
/-- VANE_AVS_STAT (R85), offset 0x068. -/
def F.VANE_AVS_STAT_AVS_FAULT : Fld := ⟨24, 0x068, 1, 4, 18, 1, .ro, 0x0⟩
/-- VANE_AVS_STAT.AT_VMIN (R85). -/
def F.VANE_AVS_STAT_AT_VMIN : Fld := ⟨24, 0x068, 1, 4, 17, 1, .ro, 0x0⟩
/-- VANE_AVS_STAT.AT_VMAX (R85). -/
def F.VANE_AVS_STAT_AT_VMAX : Fld := ⟨24, 0x068, 1, 4, 16, 1, .ro, 0x0⟩
/-- VANE_AVS_STAT.VCMD (R85). -/
def F.VANE_AVS_STAT_VCMD : Fld := ⟨24, 0x068, 1, 4, 0, 10, .ro, 0x0⟩
/-- VANE_MILL_PACE (R86), offset 0x100. -/
def F.VANE_MILL_PACE_VALID : Fld := ⟨24, 0x100, 40, 4, 31, 1, .ro, 0x0⟩
/-- VANE_MILL_PACE.NOW (R86). -/
def F.VANE_MILL_PACE_NOW : Fld := ⟨24, 0x100, 40, 4, 16, 12, .ro, 0x0⟩
/-- VANE_MILL_PACE.PACE (R86). -/
def F.VANE_MILL_PACE_PACE : Fld := ⟨24, 0x100, 40, 4, 0, 12, .ro, 0x0⟩

/-- Every field of the VANE page beyond the common header. -/
def fields_vane : List Fld :=
  [F.VANE_CTRL_SURPLUS_EN, F.VANE_HALF_MIN_VALID, F.VANE_HALF_MIN_MILL, F.VANE_HALF_MIN_PACE, F.VANE_SURPLUS_GRAINS, F.VANE_THRESH_LOW, F.VANE_WD_WAIT, F.VANE_WD_STAGE, F.VANE_AVS_CTRL_HYST, F.VANE_AVS_CTRL_TARGET, F.VANE_AVS_CTRL_MODE, F.VANE_AVS_VLIM_VMAX] ++
  [F.VANE_AVS_VLIM_VMIN, F.VANE_AVS_STAT_AVS_FAULT, F.VANE_AVS_STAT_AT_VMIN, F.VANE_AVS_STAT_AT_VMAX, F.VANE_AVS_STAT_VCMD, F.VANE_MILL_PACE_VALID, F.VANE_MILL_PACE_NOW, F.VANE_MILL_PACE_PACE]

/-! ## MILL -/

/-- MILL_CTRL (R147), offset 0x040. -/
def F.MILL_CTRL_ICINV : Fld := ⟨1, 0x040, 1, 4, 8, 1, .wo, 0x0⟩
/-- MILL_CTRL.CNT_EN (R147). -/
def F.MILL_CTRL_CNT_EN : Fld := ⟨1, 0x040, 1, 4, 0, 1, .rw, 0x1⟩
/-- MILL_STAT (R148), offset 0x044. -/
def F.MILL_STAT_HALTED_ANY : Fld := ⟨1, 0x044, 1, 4, 16, 1, .ro, 0x0⟩
/-- MILL_STAT.BUSY (R148). -/
def F.MILL_STAT_BUSY : Fld := ⟨1, 0x044, 1, 4, 0, 16, .ro, 0x0⟩
/-- MILL_ROLE (R149), offset 0x048. -/
def F.MILL_ROLE_EPOCH : Fld := ⟨1, 0x048, 1, 4, 16, 16, .ro, 0x0⟩
/-- MILL_ROLE.POLDER (R149). -/
def F.MILL_ROLE_POLDER : Fld := ⟨1, 0x048, 1, 4, 8, 4, .ro, 0x0⟩
/-- MILL_ROLE.ROLE (R149). -/
def F.MILL_ROLE_ROLE : Fld := ⟨1, 0x048, 1, 4, 0, 4, .ro, 0x0⟩
/-- MILL_BIN_SPLIT (R150), offset 0x04C. -/
def F.MILL_BIN_SPLIT_KAREA : Fld := ⟨1, 0x04C, 1, 4, 0, 4, .rwl, 0x4⟩
/-- MILL_ECC (R152), offset 0x070. -/
def F.MILL_ECC_IC_REFILL : Fld := ⟨1, 0x070, 1, 4, 16, 16, .rc, 0x0⟩
/-- MILL_ECC.CE (R152). -/
def F.MILL_ECC_CE : Fld := ⟨1, 0x070, 1, 4, 0, 16, .rc, 0x0⟩
/-- MILL_PFAULT (R156), offset 0x074. -/
def F.MILL_PFAULT_VALID : Fld := ⟨1, 0x074, 1, 4, 31, 1, .w1c, 0x0⟩
/-- MILL_PFAULT.STONE (R156). -/
def F.MILL_PFAULT_STONE : Fld := ⟨1, 0x074, 1, 4, 16, 4, .ro, 0x0⟩
/-- MILL_PFAULT.CAUSE (R156). -/
def F.MILL_PFAULT_CAUSE : Fld := ⟨1, 0x074, 1, 4, 0, 8, .ro, 0x0⟩
/-- MILL_WIN_SEL (R154), offset 0x080. -/
def F.MILL_WIN_SEL_REG : Fld := ⟨1, 0x080, 1, 4, 8, 7, .rw, 0x0⟩
/-- MILL_WIN_SEL.CTX (R154). -/
def F.MILL_WIN_SEL_CTX : Fld := ⟨1, 0x080, 1, 4, 4, 2, .rw, 0x0⟩
/-- MILL_WIN_SEL.STONE (R154). -/
def F.MILL_WIN_SEL_STONE : Fld := ⟨1, 0x080, 1, 4, 0, 4, .rw, 0x0⟩
/-- MILL_WIN_DATA (R155), offset 0x084. -/
def F.MILL_WIN_DATA_DATA : Fld := ⟨1, 0x084, 1, 4, 0, 32, .rw, 0x0⟩
/-- MILL_WIN_STAT (R155), offset 0x088. -/
def F.MILL_WIN_STAT_BUSY : Fld := ⟨1, 0x088, 1, 4, 1, 1, .w1c, 0x0⟩
/-- MILL_WIN_STAT.DENIED (R155). -/
def F.MILL_WIN_STAT_DENIED : Fld := ⟨1, 0x088, 1, 4, 0, 1, .w1c, 0x0⟩
/-- STONE_STAT (R157), offset 0x100. -/
def F.STONE_STAT_DBPEND : Fld := ⟨1, 0x100, 16, 16, 16, 8, .ro, 0x0⟩
/-- STONE_STAT.CTX2 (R157). -/
def F.STONE_STAT_CTX2 : Fld := ⟨1, 0x100, 16, 16, 6, 2, .ro, 0x0⟩
/-- STONE_STAT.CTX1 (R157). -/
def F.STONE_STAT_CTX1 : Fld := ⟨1, 0x100, 16, 16, 4, 2, .ro, 0x0⟩
/-- STONE_STAT.CTX0 (R157). -/
def F.STONE_STAT_CTX0 : Fld := ⟨1, 0x100, 16, 16, 2, 2, .ro, 0x0⟩
/-- STONE_STAT.STATE (R157). -/
def F.STONE_STAT_STATE : Fld := ⟨1, 0x100, 16, 16, 0, 2, .ro, 0x0⟩
/-- STONE_CTRL (R158), offset 0x104. -/
def F.STONE_CTRL_RESUME : Fld := ⟨1, 0x104, 16, 16, 2, 1, .wo, 0x0⟩
/-- STONE_CTRL.STEP (R158). -/
def F.STONE_CTRL_STEP : Fld := ⟨1, 0x104, 16, 16, 1, 1, .wo, 0x0⟩
/-- STONE_CTRL.HALT (R158). -/
def F.STONE_CTRL_HALT : Fld := ⟨1, 0x104, 16, 16, 0, 1, .wo, 0x0⟩
/-- STONE_PC (R159), offset 0x108. -/
def F.STONE_PC_PC : Fld := ⟨1, 0x108, 16, 16, 0, 32, .ro, 0x0⟩
/-- STONE_FAULT (R159), offset 0x10C. -/
def F.STONE_FAULT_VALID : Fld := ⟨1, 0x10C, 16, 16, 31, 1, .w1c, 0x0⟩
/-- STONE_FAULT.WUID (R159). -/
def F.STONE_FAULT_WUID : Fld := ⟨1, 0x10C, 16, 16, 8, 16, .ro, 0x0⟩
/-- STONE_FAULT.CAUSE (R159). -/
def F.STONE_FAULT_CAUSE : Fld := ⟨1, 0x10C, 16, 16, 0, 8, .ro, 0x0⟩
/-- BOLT_CTRL (R282), offset 0x200. -/
def F.BOLT_CTRL_CNT_EN : Fld := ⟨1, 0x200, 1, 4, 0, 1, .rw, 0x1⟩
/-- BOLT_STAT (R283), offset 0x204. -/
def F.BOLT_STAT_LANES : Fld := ⟨1, 0x204, 1, 4, 16, 4, .ro, 0x0⟩
/-- BOLT_STAT.OUTSTANDING (R283). -/
def F.BOLT_STAT_OUTSTANDING : Fld := ⟨1, 0x204, 1, 4, 0, 16, .ro, 0x0⟩
/-- BOLT_CHAIN_SEL (R284), offset 0x208. -/
def F.BOLT_CHAIN_SEL_CHAIN : Fld := ⟨1, 0x208, 1, 4, 0, 5, .rw, 0x0⟩
/-- BOLT_CHAIN_CFG0 (R285), offset 0x20C. -/
def F.BOLT_CHAIN_CFG0_EN : Fld := ⟨1, 0x20C, 1, 4, 31, 1, .rw, 0x0⟩
/-- BOLT_CHAIN_CFG0.NSEC (R285). -/
def F.BOLT_CHAIN_CFG0_NSEC : Fld := ⟨1, 0x20C, 1, 4, 24, 5, .rw, 0x0⟩
/-- BOLT_CHAIN_CFG0.FIRST (R285). -/
def F.BOLT_CHAIN_CFG0_FIRST : Fld := ⟨1, 0x20C, 1, 4, 16, 8, .rw, 0x0⟩
/-- BOLT_CHAIN_CFG0.FACTOR (R285). -/
def F.BOLT_CHAIN_CFG0_FACTOR : Fld := ⟨1, 0x20C, 1, 4, 12, 2, .rw, 0x0⟩
/-- BOLT_CHAIN_CFG0.DIR (R285). -/
def F.BOLT_CHAIN_CFG0_DIR : Fld := ⟨1, 0x20C, 1, 4, 11, 1, .rw, 0x0⟩
/-- BOLT_CHAIN_CFG0.OFMT (R285). -/
def F.BOLT_CHAIN_CFG0_OFMT : Fld := ⟨1, 0x20C, 1, 4, 10, 1, .rw, 0x0⟩
/-- BOLT_CHAIN_CFG0.OSHIFT (R285). -/
def F.BOLT_CHAIN_CFG0_OSHIFT : Fld := ⟨1, 0x20C, 1, 4, 8, 2, .rw, 0x0⟩
/-- BOLT_CHAIN_CFG0.DCK (R285). -/
def F.BOLT_CHAIN_CFG0_DCK : Fld := ⟨1, 0x20C, 1, 4, 0, 4, .rw, 0x0⟩
/-- BOLT_CHAIN_CFG1 (R286), offset 0x210. -/
def F.BOLT_CHAIN_CFG1_CFGGEN : Fld := ⟨1, 0x210, 1, 4, 16, 16, .ro, 0x0⟩
/-- BOLT_CHAIN_CFG1.SETTLE (R286). -/
def F.BOLT_CHAIN_CFG1_SETTLE : Fld := ⟨1, 0x210, 1, 4, 0, 12, .rw, 0x0⟩
/-- BOLT_CHAIN_CTRL (R287), offset 0x214. -/
def F.BOLT_CHAIN_CTRL_SWAPGEN : Fld := ⟨1, 0x214, 1, 4, 16, 8, .ro, 0x0⟩
/-- BOLT_CHAIN_CTRL.INUSE (R287). -/
def F.BOLT_CHAIN_CTRL_INUSE : Fld := ⟨1, 0x214, 1, 4, 10, 1, .ro, 0x0⟩
/-- BOLT_CHAIN_CTRL.SWAP_PEND (R287). -/
def F.BOLT_CHAIN_CTRL_SWAP_PEND : Fld := ⟨1, 0x214, 1, 4, 9, 1, .ro, 0x0⟩
/-- BOLT_CHAIN_CTRL.ACTIVE (R287). -/
def F.BOLT_CHAIN_CTRL_ACTIVE : Fld := ⟨1, 0x214, 1, 4, 8, 1, .ro, 0x0⟩
/-- BOLT_CHAIN_CTRL.SWAP (R287). -/
def F.BOLT_CHAIN_CTRL_SWAP : Fld := ⟨1, 0x214, 1, 4, 0, 1, .wo, 0x0⟩
/-- BOLT_COEF_SEL (R288), offset 0x218. -/
def F.BOLT_COEF_SEL_SECTION : Fld := ⟨1, 0x218, 1, 4, 4, 8, .rw, 0x0⟩
/-- BOLT_COEF_SEL.BANK (R288). -/
def F.BOLT_COEF_SEL_BANK : Fld := ⟨1, 0x218, 1, 4, 3, 1, .rw, 0x0⟩
/-- BOLT_COEF_SEL.COEF (R288). -/
def F.BOLT_COEF_SEL_COEF : Fld := ⟨1, 0x218, 1, 4, 0, 3, .rw, 0x0⟩
/-- BOLT_COEF_DATA (R289), offset 0x21C. -/
def F.BOLT_COEF_DATA_VALUE : Fld := ⟨1, 0x21C, 1, 4, 0, 32, .rw, 0x0⟩
/-- BOLT_SAT (R291), offset 0x230. -/
def F.BOLT_SAT_OUT_SAT : Fld := ⟨1, 0x230, 1, 4, 16, 16, .rc, 0x0⟩
/-- BOLT_SAT.SEC_SAT (R291). -/
def F.BOLT_SAT_SEC_SAT : Fld := ⟨1, 0x230, 1, 4, 0, 16, .rc, 0x0⟩
/-- BOLT_ERR (R292), offset 0x234. -/
def F.BOLT_ERR_VALID : Fld := ⟨1, 0x234, 1, 4, 31, 1, .w1c, 0x0⟩
/-- BOLT_ERR.STONE (R292). -/
def F.BOLT_ERR_STONE : Fld := ⟨1, 0x234, 1, 4, 16, 4, .ro, 0x0⟩
/-- BOLT_ERR.CODE (R292). -/
def F.BOLT_ERR_CODE : Fld := ⟨1, 0x234, 1, 4, 0, 8, .ro, 0x0⟩
/-- BOLT_ERRCNT (R292), offset 0x238. -/
def F.BOLT_ERRCNT_COUNT : Fld := ⟨1, 0x238, 1, 4, 0, 16, .rc, 0x0⟩
/-- HOPPER_STAT (R204), offset 0x400. -/
def F.HOPPER_STAT_SEAL_USED : Fld := ⟨1, 0x400, 1, 4, 20, 3, .ro, 0x0⟩
/-- HOPPER_STAT.BIN_FULL (R204). -/
def F.HOPPER_STAT_BIN_FULL : Fld := ⟨1, 0x400, 1, 4, 0, 6, .ro, 0x0⟩
/-- HOPPER_CTRL (R205), offset 0x404. -/
def F.HOPPER_CTRL_CNT_EN : Fld := ⟨1, 0x404, 1, 4, 0, 1, .rw, 0x1⟩
/-- HOPPER_WAITS (R207), offset 0x418. -/
def F.HOPPER_WAITS_SEAL_FULL : Fld := ⟨1, 0x418, 1, 4, 16, 16, .rc, 0x0⟩
/-- HOPPER_WAITS.FLUME_HOLD (R207). -/
def F.HOPPER_WAITS_FLUME_HOLD : Fld := ⟨1, 0x418, 1, 4, 0, 16, .rc, 0x0⟩
/-- HOPPER_ERR (R208), offset 0x41C. -/
def F.HOPPER_ERR_VALID : Fld := ⟨1, 0x41C, 1, 4, 31, 1, .w1c, 0x0⟩
/-- HOPPER_ERR.CLASS (R208). -/
def F.HOPPER_ERR_CLASS : Fld := ⟨1, 0x41C, 1, 4, 8, 16, .ro, 0x0⟩
/-- HOPPER_ERR.KIND (R208). -/
def F.HOPPER_ERR_KIND : Fld := ⟨1, 0x41C, 1, 4, 0, 2, .ro, 0x0⟩

/-- Every field of the MILL page beyond the common header. -/
def fields_mill : List Fld :=
  [F.MILL_CTRL_ICINV, F.MILL_CTRL_CNT_EN, F.MILL_STAT_HALTED_ANY, F.MILL_STAT_BUSY, F.MILL_ROLE_EPOCH, F.MILL_ROLE_POLDER, F.MILL_ROLE_ROLE, F.MILL_BIN_SPLIT_KAREA, F.MILL_ECC_IC_REFILL, F.MILL_ECC_CE, F.MILL_PFAULT_VALID, F.MILL_PFAULT_STONE] ++
  [F.MILL_PFAULT_CAUSE, F.MILL_WIN_SEL_REG, F.MILL_WIN_SEL_CTX, F.MILL_WIN_SEL_STONE, F.MILL_WIN_DATA_DATA, F.MILL_WIN_STAT_BUSY, F.MILL_WIN_STAT_DENIED, F.STONE_STAT_DBPEND, F.STONE_STAT_CTX2, F.STONE_STAT_CTX1, F.STONE_STAT_CTX0, F.STONE_STAT_STATE] ++
  [F.STONE_CTRL_RESUME, F.STONE_CTRL_STEP, F.STONE_CTRL_HALT, F.STONE_PC_PC, F.STONE_FAULT_VALID, F.STONE_FAULT_WUID, F.STONE_FAULT_CAUSE, F.BOLT_CTRL_CNT_EN, F.BOLT_STAT_LANES, F.BOLT_STAT_OUTSTANDING, F.BOLT_CHAIN_SEL_CHAIN, F.BOLT_CHAIN_CFG0_EN] ++
  [F.BOLT_CHAIN_CFG0_NSEC, F.BOLT_CHAIN_CFG0_FIRST, F.BOLT_CHAIN_CFG0_FACTOR, F.BOLT_CHAIN_CFG0_DIR, F.BOLT_CHAIN_CFG0_OFMT, F.BOLT_CHAIN_CFG0_OSHIFT, F.BOLT_CHAIN_CFG0_DCK, F.BOLT_CHAIN_CFG1_CFGGEN, F.BOLT_CHAIN_CFG1_SETTLE, F.BOLT_CHAIN_CTRL_SWAPGEN, F.BOLT_CHAIN_CTRL_INUSE, F.BOLT_CHAIN_CTRL_SWAP_PEND] ++
  [F.BOLT_CHAIN_CTRL_ACTIVE, F.BOLT_CHAIN_CTRL_SWAP, F.BOLT_COEF_SEL_SECTION, F.BOLT_COEF_SEL_BANK, F.BOLT_COEF_SEL_COEF, F.BOLT_COEF_DATA_VALUE, F.BOLT_SAT_OUT_SAT, F.BOLT_SAT_SEC_SAT, F.BOLT_ERR_VALID, F.BOLT_ERR_STONE, F.BOLT_ERR_CODE, F.BOLT_ERRCNT_COUNT] ++
  [F.HOPPER_STAT_SEAL_USED, F.HOPPER_STAT_BIN_FULL, F.HOPPER_CTRL_CNT_EN, F.HOPPER_WAITS_SEAL_FULL, F.HOPPER_WAITS_FLUME_HOLD, F.HOPPER_ERR_VALID, F.HOPPER_ERR_CLASS, F.HOPPER_ERR_KIND]

/-! ## MILLER -/

/-- MILLER_CTRL (R193), offset 0x040. -/
def F.MILLER_CTRL_RESERVE : Fld := ⟨4, 0x040, 1, 4, 8, 8, .rw, 0xA⟩
/-- MILLER_CTRL.DEFER_EN (R193). -/
def F.MILLER_CTRL_DEFER_EN : Fld := ⟨4, 0x040, 1, 4, 1, 1, .rw, 0x1⟩
/-- MILLER_CTRL.ADMIT_EN (R193). -/
def F.MILLER_CTRL_ADMIT_EN : Fld := ⟨4, 0x040, 1, 4, 0, 1, .rw, 0x1⟩
/-- MILLER_STAT (R194), offset 0x044. -/
def F.MILLER_STAT_MARK_LOSS : Fld := ⟨4, 0x044, 1, 4, 31, 1, .ro, 0x0⟩
/-- MILLER_STAT.HELD (R194). -/
def F.MILLER_STAT_HELD : Fld := ⟨4, 0x044, 1, 4, 16, 8, .ro, 0x0⟩
/-- MILLER_BUDGET (R196), offset 0x050. -/
def F.MILLER_BUDGET_GRAINS : Fld := ⟨4, 0x050, 1, 4, 0, 11, .ro, 0x4C0⟩
/-- MILLER_ADMITTED (R197), offset 0x054. -/
def F.MILLER_ADMITTED_GRAINS : Fld := ⟨4, 0x054, 1, 4, 0, 24, .ro, 0x0⟩
/-- MILLER_SURPLUS (R197), offset 0x058. -/
def F.MILLER_SURPLUS_GRAINS : Fld := ⟨4, 0x058, 1, 4, 0, 24, .ro, 0x0⟩
/-- MILLER_DEFER (R197), offset 0x05C. -/
def F.MILLER_DEFER_GRAINS : Fld := ⟨4, 0x05C, 1, 4, 0, 24, .ro, 0x0⟩
/-- MILLER_FAILED (R199), offset 0x070. -/
def F.MILLER_FAILED_OVERRUN : Fld := ⟨4, 0x070, 1, 4, 16, 16, .rc, 0x0⟩
/-- MILLER_FAILED.FAILED (R199). -/
def F.MILLER_FAILED_FAILED : Fld := ⟨4, 0x070, 1, 4, 0, 16, .rc, 0x0⟩
/-- MILLER_LASTFAIL (R200), offset 0x074. -/
def F.MILLER_LASTFAIL_VALID : Fld := ⟨4, 0x074, 1, 4, 31, 1, .w1c, 0x0⟩
/-- MILLER_LASTFAIL.CLASS (R200). -/
def F.MILLER_LASTFAIL_CLASS : Fld := ⟨4, 0x074, 1, 4, 8, 16, .ro, 0x0⟩
/-- MILLER_LASTFAIL.STATUS (R200). -/
def F.MILLER_LASTFAIL_STATUS : Fld := ⟨4, 0x074, 1, 4, 0, 8, .ro, 0x0⟩
/-- MILLER_CLASSES (R201), offset 0x078. -/
def F.MILLER_CLASSES_USED : Fld := ⟨4, 0x078, 1, 4, 0, 17, .ro, 0x0⟩
/-- MILLER_STONE_SEL (R202), offset 0x080. -/
def F.MILLER_STONE_SEL_STONE : Fld := ⟨4, 0x080, 1, 4, 0, 10, .rw, 0x0⟩
/-- MILLER_STONE_LOAD (R202), offset 0x084. -/
def F.MILLER_STONE_LOAD_VOLUME : Fld := ⟨4, 0x084, 1, 4, 18, 10, .ro, 0x0⟩
/-- MILLER_STONE_LOAD.RELEASES (R202). -/
def F.MILLER_STONE_LOAD_RELEASES : Fld := ⟨4, 0x084, 1, 4, 11, 7, .ro, 0x0⟩
/-- MILLER_STONE_LOAD.GRAINS (R202). -/
def F.MILLER_STONE_LOAD_GRAINS : Fld := ⟨4, 0x084, 1, 4, 0, 11, .ro, 0x0⟩

/-- Every field of the MILLER page beyond the common header. -/
def fields_miller : List Fld :=
  [F.MILLER_CTRL_RESERVE, F.MILLER_CTRL_DEFER_EN, F.MILLER_CTRL_ADMIT_EN, F.MILLER_STAT_MARK_LOSS, F.MILLER_STAT_HELD, F.MILLER_BUDGET_GRAINS, F.MILLER_ADMITTED_GRAINS, F.MILLER_SURPLUS_GRAINS, F.MILLER_DEFER_GRAINS, F.MILLER_FAILED_OVERRUN, F.MILLER_FAILED_FAILED, F.MILLER_LASTFAIL_VALID] ++
  [F.MILLER_LASTFAIL_CLASS, F.MILLER_LASTFAIL_STATUS, F.MILLER_CLASSES_USED, F.MILLER_STONE_SEL_STONE, F.MILLER_STONE_LOAD_VOLUME, F.MILLER_STONE_LOAD_RELEASES, F.MILLER_STONE_LOAD_GRAINS]

/-! ## CLASSIFIER -/

/-- CLS_CTRL (R346), offset 0x040. -/
def F.CLS_CTRL_EN : Fld := ⟨8, 0x040, 1, 4, 0, 1, .rw, 0x0⟩
/-- CLS_STAT (R346), offset 0x044. -/
def F.CLS_STAT_STASH : Fld := ⟨8, 0x044, 1, 4, 20, 11, .ro, 0x0⟩
/-- CLS_STAT.ENTRIES (R346). -/
def F.CLS_STAT_ENTRIES : Fld := ⟨8, 0x044, 1, 4, 0, 19, .ro, 0x0⟩
/-- CLS_VMAP_SEL (R346), offset 0x048. -/
def F.CLS_VMAP_SEL_VLAN : Fld := ⟨8, 0x048, 1, 4, 0, 12, .rw, 0x0⟩
/-- CLS_VMAP_DATA (R346), offset 0x04C. -/
def F.CLS_VMAP_DATA_VALID : Fld := ⟨8, 0x04C, 1, 4, 4, 1, .rw, 0x0⟩
/-- CLS_VMAP_DATA.POLDER (R346). -/
def F.CLS_VMAP_DATA_POLDER : Fld := ⟨8, 0x04C, 1, 4, 0, 4, .rw, 0x0⟩
/-- CLS_DIVERGE (R347), offset 0x050. -/
def F.CLS_DIVERGE_MAJOR : Fld := ⟨8, 0x050, 1, 4, 16, 16, .rc, 0x0⟩
/-- CLS_DIVERGE.BENIGN (R347). -/
def F.CLS_DIVERGE_BENIGN : Fld := ⟨8, 0x050, 1, 4, 0, 16, .rc, 0x0⟩
/-- CLS_EVENTS (R347), offset 0x054. -/
def F.CLS_EVENTS_BUSY : Fld := ⟨8, 0x054, 1, 4, 16, 16, .rc, 0x0⟩
/-- CLS_EVENTS.PSLOT (R347). -/
def F.CLS_EVENTS_PSLOT : Fld := ⟨8, 0x054, 1, 4, 0, 16, .rc, 0x0⟩
/-- CLS_PW_PPS (R348), offset 0x100. -/
def F.CLS_PW_PPS_PPS : Fld := ⟨8, 0x100, 16, 32, 0, 25, .rw, 0x0⟩
/-- CLS_PW_PBURST (R348), offset 0x104. -/
def F.CLS_PW_PBURST_BURST : Fld := ⟨8, 0x104, 16, 32, 0, 16, .rw, 0x0⟩
/-- CLS_PW_MBPS (R348), offset 0x108. -/
def F.CLS_PW_MBPS_MBPS : Fld := ⟨8, 0x108, 16, 32, 0, 18, .rw, 0x0⟩
/-- CLS_PW_KBURST (R348), offset 0x10C. -/
def F.CLS_PW_KBURST_KBURST : Fld := ⟨8, 0x10C, 16, 32, 0, 16, .rw, 0x0⟩
/-- CLS_EW (R348), offset 0x110. -/
def F.CLS_EW_BURST : Fld := ⟨8, 0x110, 16, 32, 20, 12, .rw, 0x100⟩
/-- CLS_EW.PPS (R348). -/
def F.CLS_EW_PPS : Fld := ⟨8, 0x110, 16, 32, 0, 20, .rw, 0x2710⟩

/-- Every field of the CLASSIFIER page beyond the common header. -/
def fields_classifier : List Fld :=
  [F.CLS_CTRL_EN, F.CLS_STAT_STASH, F.CLS_STAT_ENTRIES, F.CLS_VMAP_SEL_VLAN, F.CLS_VMAP_DATA_VALID, F.CLS_VMAP_DATA_POLDER, F.CLS_DIVERGE_MAJOR, F.CLS_DIVERGE_BENIGN, F.CLS_EVENTS_BUSY, F.CLS_EVENTS_PSLOT, F.CLS_PW_PPS_PPS, F.CLS_PW_PBURST_BURST] ++
  [F.CLS_PW_MBPS_MBPS, F.CLS_PW_KBURST_KBURST, F.CLS_EW_BURST, F.CLS_EW_PPS]

/-! ## STREAM -/

/-- STREAM_CTRL (R350), offset 0x040. -/
def F.STREAM_CTRL_RTCP_EN : Fld := ⟨9, 0x040, 1, 4, 1, 1, .rw, 0x1⟩
/-- STREAM_CTRL.EN (R350). -/
def F.STREAM_CTRL_EN : Fld := ⟨9, 0x040, 1, 4, 0, 1, .rw, 0x0⟩
/-- STREAM_AUTH (R350), offset 0x058. -/
def F.STREAM_AUTH_REPLAY : Fld := ⟨9, 0x058, 1, 4, 16, 16, .rc, 0x0⟩
/-- STREAM_AUTH.AUTH_FAIL (R350). -/
def F.STREAM_AUTH_AUTH_FAIL : Fld := ⟨9, 0x058, 1, 4, 0, 16, .rc, 0x0⟩
/-- STREAM_LASTERR (R350), offset 0x05C. -/
def F.STREAM_LASTERR_VALID : Fld := ⟨9, 0x05C, 1, 4, 31, 1, .w1c, 0x0⟩
/-- STREAM_LASTERR.KIND (R350). -/
def F.STREAM_LASTERR_KIND : Fld := ⟨9, 0x05C, 1, 4, 20, 8, .ro, 0x0⟩
/-- STREAM_LASTERR.STREAM (R350). -/
def F.STREAM_LASTERR_STREAM : Fld := ⟨9, 0x05C, 1, 4, 0, 18, .ro, 0x0⟩

/-- Every field of the STREAM page beyond the common header. -/
def fields_stream : List Fld :=
  [F.STREAM_CTRL_RTCP_EN, F.STREAM_CTRL_EN, F.STREAM_AUTH_REPLAY, F.STREAM_AUTH_AUTH_FAIL, F.STREAM_LASTERR_VALID, F.STREAM_LASTERR_KIND, F.STREAM_LASTERR_STREAM]

/-! ## QUEUE -/

/-- QUEUE_SEL (R353), offset 0x044. -/
def F.QUEUE_SEL_QID : Fld := ⟨10, 0x044, 1, 4, 0, 12, .rw, 0x0⟩
/-- QUEUE_CFG (R353), offset 0x048. -/
def F.QUEUE_CFG_NOTICE_EN : Fld := ⟨10, 0x048, 1, 4, 31, 1, .rw, 0x0⟩
/-- QUEUE_CFG.POLDER (R353). -/
def F.QUEUE_CFG_POLDER : Fld := ⟨10, 0x048, 1, 4, 24, 4, .ro, 0x0⟩
/-- QUEUE_CFG.KIND (R353). -/
def F.QUEUE_CFG_KIND : Fld := ⟨10, 0x048, 1, 4, 21, 3, .ro, 0x0⟩
/-- QUEUE_CFG.LIMIT (R353). -/
def F.QUEUE_CFG_LIMIT : Fld := ⟨10, 0x048, 1, 4, 0, 17, .rw, 0x0⟩
/-- QUEUE_QSTAT (R353), offset 0x04C. -/
def F.QUEUE_QSTAT_GAP_PENDING : Fld := ⟨10, 0x04C, 1, 4, 24, 8, .ro, 0x0⟩
/-- QUEUE_QSTAT.CELLS (R353). -/
def F.QUEUE_QSTAT_CELLS : Fld := ⟨10, 0x04C, 1, 4, 0, 17, .ro, 0x0⟩
/-- QUEUE_QPKTS (R353), offset 0x050. -/
def F.QUEUE_QPKTS_PKTS : Fld := ⟨10, 0x050, 1, 4, 0, 17, .ro, 0x0⟩
/-- QUEUE_WIN_DATA (R353), offset 0x054. -/
def F.QUEUE_WIN_DATA_DATA : Fld := ⟨10, 0x054, 1, 4, 0, 32, .ro, 0x0⟩
/-- QUEUE_WIN_STAT (R353), offset 0x058. -/
def F.QUEUE_WIN_STAT_END : Fld := ⟨10, 0x058, 1, 4, 3, 1, .ro, 0x0⟩
/-- QUEUE_WIN_STAT.POISON (R353). -/
def F.QUEUE_WIN_STAT_POISON : Fld := ⟨10, 0x058, 1, 4, 2, 1, .w1c, 0x0⟩
/-- QUEUE_WIN_STAT.UNDERRUN (R353). -/
def F.QUEUE_WIN_STAT_UNDERRUN : Fld := ⟨10, 0x058, 1, 4, 1, 1, .w1c, 0x0⟩
/-- QUEUE_WIN_STAT.EMPTY (R353). -/
def F.QUEUE_WIN_STAT_EMPTY : Fld := ⟨10, 0x058, 1, 4, 0, 1, .ro, 0x1⟩
/-- QUEUE_WIN_CTRL (R353), offset 0x05C. -/
def F.QUEUE_WIN_CTRL_RELEASE : Fld := ⟨10, 0x05C, 1, 4, 2, 1, .wo, 0x0⟩
/-- QUEUE_WIN_CTRL.REWIND (R353). -/
def F.QUEUE_WIN_CTRL_REWIND : Fld := ⟨10, 0x05C, 1, 4, 1, 1, .wo, 0x0⟩
/-- QUEUE_WIN_CTRL.MARK (R353). -/
def F.QUEUE_WIN_CTRL_MARK : Fld := ⟨10, 0x05C, 1, 4, 0, 1, .wo, 0x0⟩
/-- QUEUE_QUOTA (R354), offset 0x080. -/
def F.QUEUE_QUOTA_QUOTA : Fld := ⟨10, 0x080, 32, 4, 0, 17, .rw, 0x0⟩
/-- QUEUE_USED (R354), offset 0x100. -/
def F.QUEUE_USED_USED : Fld := ⟨10, 0x100, 32, 4, 0, 17, .ro, 0x0⟩
/-- QUEUE_JBQUOTA (R354), offset 0x180. -/
def F.QUEUE_JBQUOTA_CELLS : Fld := ⟨10, 0x180, 16, 4, 0, 25, .rw, 0x0⟩
/-- QUEUE_JBUSED (R354), offset 0x1C0. -/
def F.QUEUE_JBUSED_USED : Fld := ⟨10, 0x1C0, 16, 4, 0, 25, .ro, 0x0⟩
/-- SPILL_SEL (R352), offset 0x200. -/
def F.SPILL_SEL_POLDER : Fld := ⟨10, 0x200, 1, 4, 0, 4, .rw, 0x0⟩

/-- Every field of the QUEUE page beyond the common header. -/
def fields_queue : List Fld :=
  [F.QUEUE_SEL_QID, F.QUEUE_CFG_NOTICE_EN, F.QUEUE_CFG_POLDER, F.QUEUE_CFG_KIND, F.QUEUE_CFG_LIMIT, F.QUEUE_QSTAT_GAP_PENDING, F.QUEUE_QSTAT_CELLS, F.QUEUE_QPKTS_PKTS, F.QUEUE_WIN_DATA_DATA, F.QUEUE_WIN_STAT_END, F.QUEUE_WIN_STAT_POISON, F.QUEUE_WIN_STAT_UNDERRUN] ++
  [F.QUEUE_WIN_STAT_EMPTY, F.QUEUE_WIN_CTRL_RELEASE, F.QUEUE_WIN_CTRL_REWIND, F.QUEUE_WIN_CTRL_MARK, F.QUEUE_QUOTA_QUOTA, F.QUEUE_USED_USED, F.QUEUE_JBQUOTA_CELLS, F.QUEUE_JBUSED_USED, F.SPILL_SEL_POLDER]

/-! ## MAC -/

/-- MAC_CTRL (R385), offset 0x040. -/
def F.MAC_CTRL_PMODE : Fld := ⟨11, 0x040, 1, 4, 8, 2, .rw, 0x0⟩
/-- MAC_CTRL.PFC_RX_EN (R385). -/
def F.MAC_CTRL_PFC_RX_EN : Fld := ⟨11, 0x040, 1, 4, 4, 1, .rw, 0x1⟩
/-- MAC_CTRL.KEEP_BAD (R385). -/
def F.MAC_CTRL_KEEP_BAD : Fld := ⟨11, 0x040, 1, 4, 2, 1, .rw, 0x0⟩
/-- MAC_CTRL.RX_EN (R385). -/
def F.MAC_CTRL_RX_EN : Fld := ⟨11, 0x040, 1, 4, 1, 1, .rw, 0x0⟩
/-- MAC_CTRL.TX_EN (R385). -/
def F.MAC_CTRL_TX_EN : Fld := ⟨11, 0x040, 1, 4, 0, 1, .rw, 0x0⟩
/-- MAC_STAT (R386), offset 0x044. -/
def F.MAC_STAT_PAUSED : Fld := ⟨11, 0x044, 1, 4, 8, 8, .ro, 0x0⟩
/-- MAC_STAT.PFC_TX_PEND (R386). -/
def F.MAC_STAT_PFC_TX_PEND : Fld := ⟨11, 0x044, 1, 4, 5, 1, .ro, 0x0⟩
/-- MAC_STAT.ABSORBED (R386). -/
def F.MAC_STAT_ABSORBED : Fld := ⟨11, 0x044, 1, 4, 4, 1, .ro, 0x0⟩
/-- MAC_STAT.SAF (R386). -/
def F.MAC_STAT_SAF : Fld := ⟨11, 0x044, 1, 4, 3, 1, .ro, 0x0⟩
/-- MAC_STAT.RFAULT (R386). -/
def F.MAC_STAT_RFAULT : Fld := ⟨11, 0x044, 1, 4, 2, 1, .ro, 0x0⟩
/-- MAC_STAT.LFAULT (R386). -/
def F.MAC_STAT_LFAULT : Fld := ⟨11, 0x044, 1, 4, 1, 1, .ro, 0x0⟩
/-- MAC_STAT.LINK (R386). -/
def F.MAC_STAT_LINK : Fld := ⟨11, 0x044, 1, 4, 0, 1, .ro, 0x0⟩
/-- MAC_MAXFRAME (R387), offset 0x048. -/
def F.MAC_MAXFRAME_MAX : Fld := ⟨11, 0x048, 1, 4, 0, 11, .rw, 0x5F2⟩
/-- MAC_CT (R387), offset 0x04C. -/
def F.MAC_CT_THRESH : Fld := ⟨11, 0x04C, 1, 4, 0, 3, .rw, 0x2⟩
/-- MAC_ADDR_LO (R387), offset 0x050. -/
def F.MAC_ADDR_LO_OCTETS2_5 : Fld := ⟨11, 0x050, 1, 4, 0, 32, .rw, 0x0⟩
/-- MAC_ADDR_HI (R387), offset 0x054. -/
def F.MAC_ADDR_HI_OCTETS0_1 : Fld := ⟨11, 0x054, 1, 4, 0, 16, .rw, 0x0⟩
/-- MAC_PFC_TX (R387), offset 0x058. -/
def F.MAC_PFC_TX_QUANTA : Fld := ⟨11, 0x058, 1, 4, 16, 16, .wo, 0x0⟩
/-- MAC_PFC_TX.CLASSES (R387). -/
def F.MAC_PFC_TX_CLASSES : Fld := ⟨11, 0x058, 1, 4, 0, 8, .wo, 0x0⟩
/-- MAC_BULK (R387), offset 0x05C. -/
def F.MAC_BULK_PRIO : Fld := ⟨11, 0x05C, 1, 4, 0, 3, .rw, 0x0⟩
/-- MAC_BULK_RULE (R387), offset 0x060. -/
def F.MAC_BULK_RULE_EN : Fld := ⟨11, 0x060, 4, 4, 31, 1, .rw, 0x0⟩
/-- MAC_BULK_RULE.PROTO (R387). -/
def F.MAC_BULK_RULE_PROTO : Fld := ⟨11, 0x060, 4, 4, 16, 1, .rw, 0x0⟩
/-- MAC_BULK_RULE.DPORT (R387). -/
def F.MAC_BULK_RULE_DPORT : Fld := ⟨11, 0x060, 4, 4, 0, 16, .rw, 0x0⟩
/-- RX_FCS_ERR (R388), offset 0x0A0. -/
def F.RX_FCS_ERR_COUNT : Fld := ⟨11, 0x0A0, 1, 4, 0, 32, .rc, 0x0⟩
/-- RX_RUNT (R388), offset 0x0A4. -/
def F.RX_RUNT_COUNT : Fld := ⟨11, 0x0A4, 1, 4, 0, 32, .rc, 0x0⟩
/-- RX_OVERSIZE (R388), offset 0x0A8. -/
def F.RX_OVERSIZE_COUNT : Fld := ⟨11, 0x0A8, 1, 4, 0, 32, .rc, 0x0⟩
/-- RX_PAUSE (R388), offset 0x0AC. -/
def F.RX_PAUSE_COUNT : Fld := ⟨11, 0x0AC, 1, 4, 0, 32, .rc, 0x0⟩
/-- RX_CTRL_OTHER (R388), offset 0x0B0. -/
def F.RX_CTRL_OTHER_COUNT : Fld := ⟨11, 0x0B0, 1, 4, 0, 32, .rc, 0x0⟩
/-- TX_PAUSE (R388), offset 0x0B4. -/
def F.TX_PAUSE_COUNT : Fld := ⟨11, 0x0B4, 1, 4, 0, 32, .rc, 0x0⟩
/-- TX_UNDERRUN (R388), offset 0x0B8. -/
def F.TX_UNDERRUN_COUNT : Fld := ⟨11, 0x0B8, 1, 4, 0, 32, .rc, 0x0⟩

/-- Every field of the MAC page beyond the common header. -/
def fields_mac : List Fld :=
  [F.MAC_CTRL_PMODE, F.MAC_CTRL_PFC_RX_EN, F.MAC_CTRL_KEEP_BAD, F.MAC_CTRL_RX_EN, F.MAC_CTRL_TX_EN, F.MAC_STAT_PAUSED, F.MAC_STAT_PFC_TX_PEND, F.MAC_STAT_ABSORBED, F.MAC_STAT_SAF, F.MAC_STAT_RFAULT, F.MAC_STAT_LFAULT, F.MAC_STAT_LINK] ++
  [F.MAC_MAXFRAME_MAX, F.MAC_CT_THRESH, F.MAC_ADDR_LO_OCTETS2_5, F.MAC_ADDR_HI_OCTETS0_1, F.MAC_PFC_TX_QUANTA, F.MAC_PFC_TX_CLASSES, F.MAC_BULK_PRIO, F.MAC_BULK_RULE_EN, F.MAC_BULK_RULE_PROTO, F.MAC_BULK_RULE_DPORT, F.RX_FCS_ERR_COUNT, F.RX_RUNT_COUNT] ++
  [F.RX_OVERSIZE_COUNT, F.RX_PAUSE_COUNT, F.RX_CTRL_OTHER_COUNT, F.TX_PAUSE_COUNT, F.TX_UNDERRUN_COUNT]

/-! ## SERDES -/

/-- SERDES_CTRL (R390), offset 0x040. -/
def F.SERDES_CTRL_TEST_RATE : Fld := ⟨13, 0x040, 1, 4, 20, 4, .rw, 0x0⟩
/-- SERDES_CTRL.PRBS (R390). -/
def F.SERDES_CTRL_PRBS : Fld := ⟨13, 0x040, 1, 4, 16, 3, .rw, 0x0⟩
/-- SERDES_CTRL.LOOPBACK (R390). -/
def F.SERDES_CTRL_LOOPBACK : Fld := ⟨13, 0x040, 1, 4, 12, 2, .rw, 0x0⟩
/-- SERDES_CTRL.LT_EN (R390). -/
def F.SERDES_CTRL_LT_EN : Fld := ⟨13, 0x040, 1, 4, 9, 1, .rw, 0x1⟩
/-- SERDES_CTRL.AN_EN (R390). -/
def F.SERDES_CTRL_AN_EN : Fld := ⟨13, 0x040, 1, 4, 8, 1, .rw, 0x1⟩
/-- SERDES_CTRL.FEC (R390). -/
def F.SERDES_CTRL_FEC : Fld := ⟨13, 0x040, 1, 4, 4, 2, .rw, 0x0⟩
/-- SERDES_CTRL.EN (R390). -/
def F.SERDES_CTRL_EN : Fld := ⟨13, 0x040, 1, 4, 0, 1, .rw, 0x0⟩
/-- SERDES_STAT (R390), offset 0x044. -/
def F.SERDES_STAT_PAM4 : Fld := ⟨13, 0x044, 1, 4, 8, 1, .ro, 0x0⟩
/-- SERDES_STAT.PRBS_LOCK (R390). -/
def F.SERDES_STAT_PRBS_LOCK : Fld := ⟨13, 0x044, 1, 4, 7, 1, .ro, 0x0⟩
/-- SERDES_STAT.LT_DONE (R390). -/
def F.SERDES_STAT_LT_DONE : Fld := ⟨13, 0x044, 1, 4, 6, 1, .ro, 0x0⟩
/-- SERDES_STAT.AN_DONE (R390). -/
def F.SERDES_STAT_AN_DONE : Fld := ⟨13, 0x044, 1, 4, 5, 1, .ro, 0x0⟩
/-- SERDES_STAT.FEC_LOCK (R390). -/
def F.SERDES_STAT_FEC_LOCK : Fld := ⟨13, 0x044, 1, 4, 4, 1, .ro, 0x0⟩
/-- SERDES_STAT.AM_LOCK (R390). -/
def F.SERDES_STAT_AM_LOCK : Fld := ⟨13, 0x044, 1, 4, 3, 1, .ro, 0x0⟩
/-- SERDES_STAT.BLOCK_LOCK (R390). -/
def F.SERDES_STAT_BLOCK_LOCK : Fld := ⟨13, 0x044, 1, 4, 2, 1, .ro, 0x0⟩
/-- SERDES_STAT.CDR_LOCK (R390). -/
def F.SERDES_STAT_CDR_LOCK : Fld := ⟨13, 0x044, 1, 4, 1, 1, .ro, 0x0⟩
/-- SERDES_STAT.SIGNAL (R390). -/
def F.SERDES_STAT_SIGNAL : Fld := ⟨13, 0x044, 1, 4, 0, 1, .ro, 0x0⟩
/-- SERDES_TXEQ (R390), offset 0x048. -/
def F.SERDES_TXEQ_MAIN : Fld := ⟨13, 0x048, 1, 4, 16, 6, .ro, 0x30⟩
/-- SERDES_TXEQ.POST (R390). -/
def F.SERDES_TXEQ_POST : Fld := ⟨13, 0x048, 1, 4, 8, 5, .rw, 0x0⟩
/-- SERDES_TXEQ.PRE (R390). -/
def F.SERDES_TXEQ_PRE : Fld := ⟨13, 0x048, 1, 4, 0, 5, .rw, 0x0⟩
/-- SERDES_FEC_CORR (R390), offset 0x04C. -/
def F.SERDES_FEC_CORR_COUNT : Fld := ⟨13, 0x04C, 1, 4, 0, 32, .rc, 0x0⟩
/-- SERDES_FEC_UNCORR (R390), offset 0x050. -/
def F.SERDES_FEC_UNCORR_COUNT : Fld := ⟨13, 0x050, 1, 4, 0, 32, .rc, 0x0⟩
/-- SERDES_PRBS_ERR (R390), offset 0x054. -/
def F.SERDES_PRBS_ERR_COUNT : Fld := ⟨13, 0x054, 1, 4, 0, 32, .rc, 0x0⟩

/-- Every field of the SERDES page beyond the common header. -/
def fields_serdes : List Fld :=
  [F.SERDES_CTRL_TEST_RATE, F.SERDES_CTRL_PRBS, F.SERDES_CTRL_LOOPBACK, F.SERDES_CTRL_LT_EN, F.SERDES_CTRL_AN_EN, F.SERDES_CTRL_FEC, F.SERDES_CTRL_EN, F.SERDES_STAT_PAM4, F.SERDES_STAT_PRBS_LOCK, F.SERDES_STAT_LT_DONE, F.SERDES_STAT_AN_DONE, F.SERDES_STAT_FEC_LOCK] ++
  [F.SERDES_STAT_AM_LOCK, F.SERDES_STAT_BLOCK_LOCK, F.SERDES_STAT_CDR_LOCK, F.SERDES_STAT_SIGNAL, F.SERDES_TXEQ_MAIN, F.SERDES_TXEQ_POST, F.SERDES_TXEQ_PRE, F.SERDES_FEC_CORR_COUNT, F.SERDES_FEC_UNCORR_COUNT, F.SERDES_PRBS_ERR_COUNT]

/-! ## SLUICE -/

/-- SLUICE_CTRL (R392), offset 0x040. -/
def F.SLUICE_CTRL_SWAP_PEND : Fld := ⟨14, 0x040, 1, 4, 17, 1, .ro, 0x0⟩
/-- SLUICE_CTRL.ACTIVE (R392). -/
def F.SLUICE_CTRL_ACTIVE : Fld := ⟨14, 0x040, 1, 4, 16, 1, .ro, 0x0⟩
/-- SLUICE_CTRL.SWAP (R392). -/
def F.SLUICE_CTRL_SWAP : Fld := ⟨14, 0x040, 1, 4, 8, 1, .wo, 0x0⟩
/-- SLUICE_CTRL.MODE (R392). -/
def F.SLUICE_CTRL_MODE : Fld := ⟨14, 0x040, 1, 4, 0, 1, .rw, 0x0⟩
/-- SLUICE_SWAP_TIME (R392), offset 0x044. -/
def F.SLUICE_SWAP_TIME_SEC : Fld := ⟨14, 0x044, 1, 4, 0, 32, .rw, 0x0⟩
/-- SLUICE_CYCLE (R392), offset 0x050. -/
def F.SLUICE_CYCLE_NS : Fld := ⟨14, 0x050, 2, 8, 0, 30, .rw, 0xF4240⟩
/-- SLUICE_GCL_BASE (R392), offset 0x054. -/
def F.SLUICE_GCL_BASE_NS : Fld := ⟨14, 0x054, 2, 8, 0, 30, .rw, 0x0⟩
/-- SLUICE_NENT (R392), offset 0x060. -/
def F.SLUICE_NENT_NENT : Fld := ⟨14, 0x060, 2, 4, 0, 9, .rw, 0x0⟩
/-- SLUICE_GCL_SEL (R392), offset 0x070. -/
def F.SLUICE_GCL_SEL_BANK : Fld := ⟨14, 0x070, 1, 4, 12, 1, .rw, 0x0⟩
/-- SLUICE_GCL_SEL.ENTRY (R392). -/
def F.SLUICE_GCL_SEL_ENTRY : Fld := ⟨14, 0x070, 1, 4, 4, 8, .rw, 0x0⟩
/-- SLUICE_GCL_SEL.WORD (R392). -/
def F.SLUICE_GCL_SEL_WORD : Fld := ⟨14, 0x070, 1, 4, 0, 1, .rw, 0x0⟩
/-- SLUICE_GCL_DATA (R392), offset 0x074. -/
def F.SLUICE_GCL_DATA_DATA : Fld := ⟨14, 0x074, 1, 4, 0, 32, .rw, 0x0⟩
/-- SLUICE_STAT (R392), offset 0x078. -/
def F.SLUICE_STAT_IN_GCL : Fld := ⟨14, 0x078, 1, 4, 8, 1, .ro, 0x0⟩
/-- SLUICE_STAT.ENTRY (R392). -/
def F.SLUICE_STAT_ENTRY : Fld := ⟨14, 0x078, 1, 4, 0, 8, .ro, 0x0⟩
/-- SLUICE_DEFER (R392), offset 0x07C. -/
def F.SLUICE_DEFER_COUNT : Fld := ⟨14, 0x07C, 1, 4, 0, 32, .rc, 0x0⟩

/-- Every field of the SLUICE page beyond the common header. -/
def fields_sluice : List Fld :=
  [F.SLUICE_CTRL_SWAP_PEND, F.SLUICE_CTRL_ACTIVE, F.SLUICE_CTRL_SWAP, F.SLUICE_CTRL_MODE, F.SLUICE_SWAP_TIME_SEC, F.SLUICE_CYCLE_NS, F.SLUICE_GCL_BASE_NS, F.SLUICE_NENT_NENT, F.SLUICE_GCL_SEL_BANK, F.SLUICE_GCL_SEL_ENTRY, F.SLUICE_GCL_SEL_WORD, F.SLUICE_GCL_DATA_DATA] ++
  [F.SLUICE_STAT_IN_GCL, F.SLUICE_STAT_ENTRY, F.SLUICE_DEFER_COUNT]

/-! ## MGMAC -/

/-- MG_CTRL (R394), offset 0x040. -/
def F.MG_CTRL_RX_EN : Fld := ⟨12, 0x040, 1, 4, 17, 1, .rw, 0x0⟩
/-- MG_CTRL.TX_EN (R394). -/
def F.MG_CTRL_TX_EN : Fld := ⟨12, 0x040, 1, 4, 16, 1, .rw, 0x0⟩
/-- MG_CTRL.PLCA_EN (R394). -/
def F.MG_CTRL_PLCA_EN : Fld := ⟨12, 0x040, 1, 4, 12, 1, .rw, 0x0⟩
/-- MG_CTRL.PROMISC (R394). -/
def F.MG_CTRL_PROMISC : Fld := ⟨12, 0x040, 1, 4, 9, 1, .rw, 0x0⟩
/-- MG_CTRL.FD (R394). -/
def F.MG_CTRL_FD : Fld := ⟨12, 0x040, 1, 4, 8, 1, .rw, 0x1⟩
/-- MG_CTRL.SPEED (R394). -/
def F.MG_CTRL_SPEED : Fld := ⟨12, 0x040, 1, 4, 4, 2, .rw, 0x2⟩
/-- MG_CTRL.IF (R394). -/
def F.MG_CTRL_IF : Fld := ⟨12, 0x040, 1, 4, 0, 2, .rw, 0x0⟩
/-- MG_STAT (R394), offset 0x044. -/
def F.MG_STAT_PLCA_ACTIVE : Fld := ⟨12, 0x044, 1, 4, 2, 1, .ro, 0x0⟩
/-- MG_STAT.CRS (R394). -/
def F.MG_STAT_CRS : Fld := ⟨12, 0x044, 1, 4, 1, 1, .ro, 0x0⟩
/-- MG_STAT.TX_BUSY (R394). -/
def F.MG_STAT_TX_BUSY : Fld := ⟨12, 0x044, 1, 4, 0, 1, .ro, 0x0⟩
/-- MG_PLCA (R394), offset 0x048. -/
def F.MG_PLCA_MAX_BC : Fld := ⟨12, 0x048, 1, 4, 24, 8, .rw, 0x0⟩
/-- MG_PLCA.TO_TIMER (R394). -/
def F.MG_PLCA_TO_TIMER : Fld := ⟨12, 0x048, 1, 4, 16, 8, .rw, 0x20⟩
/-- MG_PLCA.NODE_CNT (R394). -/
def F.MG_PLCA_NODE_CNT : Fld := ⟨12, 0x048, 1, 4, 8, 8, .rw, 0x8⟩
/-- MG_PLCA.NODE_ID (R394). -/
def F.MG_PLCA_NODE_ID : Fld := ⟨12, 0x048, 1, 4, 0, 8, .rw, 0xFF⟩
/-- MG_PLCA_BURST (R394), offset 0x04C. -/
def F.MG_PLCA_BURST_BURST_TIMER : Fld := ⟨12, 0x04C, 1, 4, 0, 8, .rw, 0x80⟩
/-- MG_TXR_LO (R394), offset 0x050. -/
def F.MG_TXR_LO_BASE_LO : Fld := ⟨12, 0x050, 1, 4, 12, 20, .rw, 0x0⟩
/-- MG_TXR_HI (R394), offset 0x054. -/
def F.MG_TXR_HI_BASE_HI : Fld := ⟨12, 0x054, 1, 4, 0, 32, .rw, 0x0⟩
/-- MG_TXR_SIZE (R394), offset 0x058. -/
def F.MG_TXR_SIZE_SIZE : Fld := ⟨12, 0x058, 1, 4, 0, 13, .rw, 0x10⟩
/-- MG_TX_TAIL (R394), offset 0x05C. -/
def F.MG_TX_TAIL_TAIL : Fld := ⟨12, 0x05C, 1, 4, 0, 12, .rw, 0x0⟩
/-- MG_TX_HEAD (R394), offset 0x060. -/
def F.MG_TX_HEAD_HEAD : Fld := ⟨12, 0x060, 1, 4, 0, 12, .ro, 0x0⟩
/-- MG_RXR_LO (R394), offset 0x070. -/
def F.MG_RXR_LO_BASE_LO : Fld := ⟨12, 0x070, 1, 4, 12, 20, .rw, 0x0⟩
/-- MG_RXR_HI (R394), offset 0x074. -/
def F.MG_RXR_HI_BASE_HI : Fld := ⟨12, 0x074, 1, 4, 0, 32, .rw, 0x0⟩
/-- MG_RXR_SIZE (R394), offset 0x078. -/
def F.MG_RXR_SIZE_SIZE : Fld := ⟨12, 0x078, 1, 4, 0, 13, .rw, 0x10⟩
/-- MG_RX_TAIL (R394), offset 0x07C. -/
def F.MG_RX_TAIL_TAIL : Fld := ⟨12, 0x07C, 1, 4, 0, 12, .rw, 0x0⟩
/-- MG_RX_HEAD (R394), offset 0x080. -/
def F.MG_RX_HEAD_HEAD : Fld := ⟨12, 0x080, 1, 4, 0, 12, .ro, 0x0⟩
/-- MG_ADDR_LO (R393), offset 0x088. -/
def F.MG_ADDR_LO_OCTETS2_5 : Fld := ⟨12, 0x088, 1, 4, 0, 32, .rw, 0x0⟩
/-- MG_ADDR_HI (R393), offset 0x08C. -/
def F.MG_ADDR_HI_OCTETS0_1 : Fld := ⟨12, 0x08C, 1, 4, 0, 16, .rw, 0x0⟩
/-- MG_MDIO (R394), offset 0x090. -/
def F.MG_MDIO_GO : Fld := ⟨12, 0x090, 1, 4, 31, 1, .w1s, 0x0⟩
/-- MG_MDIO.OP (R394). -/
def F.MG_MDIO_OP : Fld := ⟨12, 0x090, 1, 4, 26, 2, .rw, 0x2⟩
/-- MG_MDIO.PHY (R394). -/
def F.MG_MDIO_PHY : Fld := ⟨12, 0x090, 1, 4, 21, 5, .rw, 0x0⟩
/-- MG_MDIO.REG (R394). -/
def F.MG_MDIO_REG : Fld := ⟨12, 0x090, 1, 4, 16, 5, .rw, 0x0⟩
/-- MG_MDIO.DATA (R394). -/
def F.MG_MDIO_DATA : Fld := ⟨12, 0x090, 1, 4, 0, 16, .rw, 0x0⟩
/-- MG_TX_FRAMES (R394), offset 0x0A0. -/
def F.MG_TX_FRAMES_COUNT : Fld := ⟨12, 0x0A0, 1, 4, 0, 32, .rc, 0x0⟩
/-- MG_RX_FRAMES (R394), offset 0x0A4. -/
def F.MG_RX_FRAMES_COUNT : Fld := ⟨12, 0x0A4, 1, 4, 0, 32, .rc, 0x0⟩
/-- MG_COLL (R394), offset 0x0A8. -/
def F.MG_COLL_COUNT : Fld := ⟨12, 0x0A8, 1, 4, 0, 32, .rc, 0x0⟩
/-- MG_EXCESS (R394), offset 0x0AC. -/
def F.MG_EXCESS_COUNT : Fld := ⟨12, 0x0AC, 1, 4, 0, 32, .rc, 0x0⟩
/-- MG_LATE (R394), offset 0x0B0. -/
def F.MG_LATE_COUNT : Fld := ⟨12, 0x0B0, 1, 4, 0, 32, .rc, 0x0⟩
/-- MG_RX_ERR (R394), offset 0x0B4. -/
def F.MG_RX_ERR_COUNT : Fld := ⟨12, 0x0B4, 1, 4, 0, 32, .rc, 0x0⟩

/-- Every field of the MGMAC page beyond the common header. -/
def fields_mgmac : List Fld :=
  [F.MG_CTRL_RX_EN, F.MG_CTRL_TX_EN, F.MG_CTRL_PLCA_EN, F.MG_CTRL_PROMISC, F.MG_CTRL_FD, F.MG_CTRL_SPEED, F.MG_CTRL_IF, F.MG_STAT_PLCA_ACTIVE, F.MG_STAT_CRS, F.MG_STAT_TX_BUSY, F.MG_PLCA_MAX_BC, F.MG_PLCA_TO_TIMER] ++
  [F.MG_PLCA_NODE_CNT, F.MG_PLCA_NODE_ID, F.MG_PLCA_BURST_BURST_TIMER, F.MG_TXR_LO_BASE_LO, F.MG_TXR_HI_BASE_HI, F.MG_TXR_SIZE_SIZE, F.MG_TX_TAIL_TAIL, F.MG_TX_HEAD_HEAD, F.MG_RXR_LO_BASE_LO, F.MG_RXR_HI_BASE_HI, F.MG_RXR_SIZE_SIZE, F.MG_RX_TAIL_TAIL] ++
  [F.MG_RX_HEAD_HEAD, F.MG_ADDR_LO_OCTETS2_5, F.MG_ADDR_HI_OCTETS0_1, F.MG_MDIO_GO, F.MG_MDIO_OP, F.MG_MDIO_PHY, F.MG_MDIO_REG, F.MG_MDIO_DATA, F.MG_TX_FRAMES_COUNT, F.MG_RX_FRAMES_COUNT, F.MG_COLL_COUNT, F.MG_EXCESS_COUNT] ++
  [F.MG_LATE_COUNT, F.MG_RX_ERR_COUNT]

/-! ## TIDE -/

/-- TIDE_CTRL (R420), offset 0x040. -/
def F.TIDE_CTRL_SRC_TIMEOUT : Fld := ⟨15, 0x040, 1, 4, 16, 8, .rw, 0x1E⟩
/-- TIDE_CTRL.FREQ_B (R420). -/
def F.TIDE_CTRL_FREQ_B : Fld := ⟨15, 0x040, 1, 4, 14, 2, .rwl, 0x3⟩
/-- TIDE_CTRL.FREQ_A (R420). -/
def F.TIDE_CTRL_FREQ_A : Fld := ⟨15, 0x040, 1, 4, 12, 2, .rwl, 0x3⟩
/-- TIDE_CTRL.REF_AUTO (R420). -/
def F.TIDE_CTRL_REF_AUTO : Fld := ⟨15, 0x040, 1, 4, 9, 1, .rw, 0x1⟩
/-- TIDE_CTRL.REFSEL (R420). -/
def F.TIDE_CTRL_REFSEL : Fld := ⟨15, 0x040, 1, 4, 8, 1, .rw, 0x0⟩
/-- TIDE_CTRL.SRC2 (R420). -/
def F.TIDE_CTRL_SRC2 : Fld := ⟨15, 0x040, 1, 4, 4, 3, .rw, 0x0⟩
/-- TIDE_CTRL.SRC (R420). -/
def F.TIDE_CTRL_SRC : Fld := ⟨15, 0x040, 1, 4, 1, 3, .rw, 0x0⟩
/-- TIDE_CTRL.SERVO_EN (R420). -/
def F.TIDE_CTRL_SERVO_EN : Fld := ⟨15, 0x040, 1, 4, 0, 1, .rw, 0x0⟩
/-- TIDE_STAT (R421), offset 0x044. -/
def F.TIDE_STAT_TIME_VALID : Fld := ⟨15, 0x044, 1, 4, 31, 1, .ro, 0x0⟩
/-- TIDE_STAT.STEP_PEND (R421). -/
def F.TIDE_STAT_STEP_PEND : Fld := ⟨15, 0x044, 1, 4, 19, 1, .ro, 0x0⟩
/-- TIDE_STAT.JUMP_PEND (R421). -/
def F.TIDE_STAT_JUMP_PEND : Fld := ⟨15, 0x044, 1, 4, 18, 1, .ro, 0x0⟩
/-- TIDE_STAT.REF_B_OK (R421). -/
def F.TIDE_STAT_REF_B_OK : Fld := ⟨15, 0x044, 1, 4, 17, 1, .ro, 0x0⟩
/-- TIDE_STAT.REF_A_OK (R421). -/
def F.TIDE_STAT_REF_A_OK : Fld := ⟨15, 0x044, 1, 4, 16, 1, .ro, 0x0⟩
/-- TIDE_STAT.HO_EXPIRED (R421). -/
def F.TIDE_STAT_HO_EXPIRED : Fld := ⟨15, 0x044, 1, 4, 11, 1, .ro, 0x0⟩
/-- TIDE_STAT.SRC_USED (R421). -/
def F.TIDE_STAT_SRC_USED : Fld := ⟨15, 0x044, 1, 4, 8, 3, .ro, 0x0⟩
/-- TIDE_STAT.STATE (R421). -/
def F.TIDE_STAT_STATE : Fld := ⟨15, 0x044, 1, 4, 0, 2, .ro, 0x0⟩
/-- TIDE_NOW_NS (R422), offset 0x048. -/
def F.TIDE_NOW_NS_NS : Fld := ⟨15, 0x048, 1, 4, 0, 32, .ro, 0x0⟩
/-- TIDE_NOW_SEC_LO (R422), offset 0x04C. -/
def F.TIDE_NOW_SEC_LO_SEC : Fld := ⟨15, 0x04C, 1, 4, 0, 32, .ro, 0x0⟩
/-- TIDE_NOW_SEC_HI (R422), offset 0x050. -/
def F.TIDE_NOW_SEC_HI_SEC : Fld := ⟨15, 0x050, 1, 4, 0, 16, .ro, 0x0⟩
/-- TIDE_NOW_FRAC (R422), offset 0x054. -/
def F.TIDE_NOW_FRAC_FRAC : Fld := ⟨15, 0x054, 1, 4, 0, 16, .ro, 0x0⟩
/-- TIDE_FREQ (R422), offset 0x058. -/
def F.TIDE_FREQ_ADJ : Fld := ⟨15, 0x058, 1, 4, 0, 32, .ro, 0x0⟩
/-- TIDE_HOFREQ (R422), offset 0x05C. -/
def F.TIDE_HOFREQ_ADJ : Fld := ⟨15, 0x05C, 1, 4, 0, 32, .ro, 0x0⟩
/-- TIDE_OFS_FRAC (R422), offset 0x060. -/
def F.TIDE_OFS_FRAC_FRAC : Fld := ⟨15, 0x060, 1, 4, 0, 16, .wo, 0x0⟩
/-- TIDE_OFS_NS (R422), offset 0x064. -/
def F.TIDE_OFS_NS_NS : Fld := ⟨15, 0x064, 1, 4, 0, 32, .wo, 0x0⟩
/-- TIDE_SERVO (R423), offset 0x068. -/
def F.TIDE_SERVO_KP : Fld := ⟨15, 0x068, 1, 4, 16, 16, .rw, 0x100⟩
/-- TIDE_SERVO.KI (R423). -/
def F.TIDE_SERVO_KI : Fld := ⟨15, 0x068, 1, 4, 0, 16, .rw, 0x4⟩
/-- TIDE_MAXADJ (R423), offset 0x06C. -/
def F.TIDE_MAXADJ_MAXADJ : Fld := ⟨15, 0x06C, 1, 4, 0, 18, .rw, 0x186A0⟩
/-- TIDE_THRESH (R423), offset 0x070. -/
def F.TIDE_THRESH_JUMP : Fld := ⟨15, 0x070, 1, 4, 16, 16, .rw, 0x64⟩
/-- TIDE_THRESH.LOCK (R423). -/
def F.TIDE_THRESH_LOCK : Fld := ⟨15, 0x070, 1, 4, 0, 16, .rw, 0x32⟩
/-- TIDE_JUMP (R423), offset 0x074. -/
def F.TIDE_JUMP_THETA : Fld := ⟨15, 0x074, 1, 4, 0, 32, .ro, 0x0⟩
/-- TIDE_STEP_SEC (R423), offset 0x078. -/
def F.TIDE_STEP_SEC_SEC : Fld := ⟨15, 0x078, 1, 4, 0, 32, .rw, 0x0⟩
/-- TIDE_STEP_NS (R423), offset 0x07C. -/
def F.TIDE_STEP_NS_NS : Fld := ⟨15, 0x07C, 1, 4, 0, 32, .rw, 0x0⟩
/-- TIDE_STEP_CTRL (R423), offset 0x080. -/
def F.TIDE_STEP_CTRL_AUTH : Fld := ⟨15, 0x080, 1, 4, 0, 1, .wo, 0x0⟩
/-- TIDE_HOLDOVER (R423), offset 0x084. -/
def F.TIDE_HOLDOVER_BUDGET : Fld := ⟨15, 0x084, 1, 4, 0, 24, .rw, 0x0⟩
/-- TIDE_HO_TIME (R423), offset 0x088. -/
def F.TIDE_HO_TIME_SEC : Fld := ⟨15, 0x088, 1, 4, 0, 24, .ro, 0x0⟩
/-- TIDE_COUNTS (R423), offset 0x08C. -/
def F.TIDE_COUNTS_REFUSED : Fld := ⟨15, 0x08C, 1, 4, 16, 16, .rc, 0x0⟩
/-- TIDE_COUNTS.SUPPRESSED (R423). -/
def F.TIDE_COUNTS_SUPPRESSED : Fld := ⟨15, 0x08C, 1, 4, 0, 16, .rc, 0x0⟩
/-- TIDE_TS_SEL (R424), offset 0x0A0. -/
def F.TIDE_TS_SEL_SRC : Fld := ⟨15, 0x0A0, 1, 4, 0, 5, .rw, 0x0⟩
/-- TIDE_TS_W0 (R424), offset 0x0A4. -/
def F.TIDE_TS_W0_W : Fld := ⟨15, 0x0A4, 1, 4, 0, 32, .ro, 0x0⟩
/-- TIDE_TS_W1 (R424), offset 0x0A8. -/
def F.TIDE_TS_W1_W : Fld := ⟨15, 0x0A8, 1, 4, 0, 32, .ro, 0x0⟩
/-- TIDE_TS_W2 (R424), offset 0x0AC. -/
def F.TIDE_TS_W2_W : Fld := ⟨15, 0x0AC, 1, 4, 0, 32, .ro, 0x0⟩
/-- TIDE_TS_W3 (R424), offset 0x0B0. -/
def F.TIDE_TS_W3_W : Fld := ⟨15, 0x0B0, 1, 4, 0, 32, .ro, 0x0⟩
/-- TIDE_TS_STAT (R424), offset 0x0B4. -/
def F.TIDE_TS_STAT_OVF : Fld := ⟨15, 0x0B4, 1, 4, 31, 1, .w1c, 0x0⟩
/-- TIDE_TS_STAT.FILL (R424). -/
def F.TIDE_TS_STAT_FILL : Fld := ⟨15, 0x0B4, 1, 4, 16, 7, .ro, 0x0⟩
/-- TIDE_TS_STAT.COUNT (R424). -/
def F.TIDE_TS_STAT_COUNT : Fld := ⟨15, 0x0B4, 1, 4, 0, 16, .rc, 0x0⟩
/-- TIDE_PORT_ADJ (R425), offset 0x100. -/
def F.TIDE_PORT_ADJ_RX_ADJ : Fld := ⟨15, 0x100, 16, 4, 16, 16, .rw, 0x0⟩
/-- TIDE_PORT_ADJ.TX_ADJ (R425). -/
def F.TIDE_PORT_ADJ_TX_ADJ : Fld := ⟨15, 0x100, 16, 4, 0, 16, .rw, 0x0⟩
/-- TIDE_PULSE_CTRL (R425), offset 0x140. -/
def F.TIDE_PULSE_CTRL_OUT_ADJ : Fld := ⟨15, 0x140, 4, 16, 16, 16, .rw, 0x0⟩
/-- TIDE_PULSE_CTRL.SQ_EN (R425). -/
def F.TIDE_PULSE_CTRL_SQ_EN : Fld := ⟨15, 0x140, 4, 16, 2, 1, .rw, 0x0⟩
/-- TIDE_PULSE_CTRL.POL (R425). -/
def F.TIDE_PULSE_CTRL_POL : Fld := ⟨15, 0x140, 4, 16, 1, 1, .rw, 0x0⟩
/-- TIDE_PULSE_CTRL.EN (R425). -/
def F.TIDE_PULSE_CTRL_EN : Fld := ⟨15, 0x140, 4, 16, 0, 1, .rw, 0x0⟩
/-- TIDE_PULSE_PERIOD (R425), offset 0x144. -/
def F.TIDE_PULSE_PERIOD_NS : Fld := ⟨15, 0x144, 4, 16, 0, 30, .rw, 0x3B9ACA00⟩
/-- TIDE_PULSE_PHASE (R425), offset 0x148. -/
def F.TIDE_PULSE_PHASE_NS : Fld := ⟨15, 0x148, 4, 16, 0, 30, .rw, 0x0⟩
/-- TIDE_PULSE_WIDTH (R425), offset 0x14C. -/
def F.TIDE_PULSE_WIDTH_NS : Fld := ⟨15, 0x14C, 4, 16, 0, 30, .rw, 0x5F5E100⟩
/-- TIDE_CAP (R425), offset 0x180. -/
def F.TIDE_CAP_ADJ : Fld := ⟨15, 0x180, 4, 4, 16, 16, .rw, 0x0⟩
/-- TIDE_CAP.EDGE (R425). -/
def F.TIDE_CAP_EDGE : Fld := ⟨15, 0x180, 4, 4, 1, 2, .rw, 0x0⟩
/-- TIDE_CAP.EN (R425). -/
def F.TIDE_CAP_EN : Fld := ⟨15, 0x180, 4, 4, 0, 1, .rw, 0x0⟩
/-- TIDE_SYNCE (R425), offset 0x1C0. -/
def F.TIDE_SYNCE_SQUELCHED : Fld := ⟨15, 0x1C0, 2, 4, 31, 1, .ro, 0x1⟩
/-- TIDE_SYNCE.SQ_LINK (R425). -/
def F.TIDE_SYNCE_SQ_LINK : Fld := ⟨15, 0x1C0, 2, 4, 11, 1, .rw, 0x1⟩
/-- TIDE_SYNCE.FREQ (R425). -/
def F.TIDE_SYNCE_FREQ : Fld := ⟨15, 0x1C0, 2, 4, 8, 3, .rw, 0x3⟩
/-- TIDE_SYNCE.LANE (R425). -/
def F.TIDE_SYNCE_LANE : Fld := ⟨15, 0x1C0, 2, 4, 4, 4, .rw, 0x0⟩
/-- TIDE_SYNCE.EN (R425). -/
def F.TIDE_SYNCE_EN : Fld := ⟨15, 0x1C0, 2, 4, 0, 1, .rw, 0x0⟩

/-- Every field of the TIDE page beyond the common header. -/
def fields_tide : List Fld :=
  [F.TIDE_CTRL_SRC_TIMEOUT, F.TIDE_CTRL_FREQ_B, F.TIDE_CTRL_FREQ_A, F.TIDE_CTRL_REF_AUTO, F.TIDE_CTRL_REFSEL, F.TIDE_CTRL_SRC2, F.TIDE_CTRL_SRC, F.TIDE_CTRL_SERVO_EN, F.TIDE_STAT_TIME_VALID, F.TIDE_STAT_STEP_PEND, F.TIDE_STAT_JUMP_PEND, F.TIDE_STAT_REF_B_OK] ++
  [F.TIDE_STAT_REF_A_OK, F.TIDE_STAT_HO_EXPIRED, F.TIDE_STAT_SRC_USED, F.TIDE_STAT_STATE, F.TIDE_NOW_NS_NS, F.TIDE_NOW_SEC_LO_SEC, F.TIDE_NOW_SEC_HI_SEC, F.TIDE_NOW_FRAC_FRAC, F.TIDE_FREQ_ADJ, F.TIDE_HOFREQ_ADJ, F.TIDE_OFS_FRAC_FRAC, F.TIDE_OFS_NS_NS] ++
  [F.TIDE_SERVO_KP, F.TIDE_SERVO_KI, F.TIDE_MAXADJ_MAXADJ, F.TIDE_THRESH_JUMP, F.TIDE_THRESH_LOCK, F.TIDE_JUMP_THETA, F.TIDE_STEP_SEC_SEC, F.TIDE_STEP_NS_NS, F.TIDE_STEP_CTRL_AUTH, F.TIDE_HOLDOVER_BUDGET, F.TIDE_HO_TIME_SEC, F.TIDE_COUNTS_REFUSED] ++
  [F.TIDE_COUNTS_SUPPRESSED, F.TIDE_TS_SEL_SRC, F.TIDE_TS_W0_W, F.TIDE_TS_W1_W, F.TIDE_TS_W2_W, F.TIDE_TS_W3_W, F.TIDE_TS_STAT_OVF, F.TIDE_TS_STAT_FILL, F.TIDE_TS_STAT_COUNT, F.TIDE_PORT_ADJ_RX_ADJ, F.TIDE_PORT_ADJ_TX_ADJ, F.TIDE_PULSE_CTRL_OUT_ADJ] ++
  [F.TIDE_PULSE_CTRL_SQ_EN, F.TIDE_PULSE_CTRL_POL, F.TIDE_PULSE_CTRL_EN, F.TIDE_PULSE_PERIOD_NS, F.TIDE_PULSE_PHASE_NS, F.TIDE_PULSE_WIDTH_NS, F.TIDE_CAP_ADJ, F.TIDE_CAP_EDGE, F.TIDE_CAP_EN, F.TIDE_SYNCE_SQUELCHED, F.TIDE_SYNCE_SQ_LINK, F.TIDE_SYNCE_FREQ] ++
  [F.TIDE_SYNCE_LANE, F.TIDE_SYNCE_EN]

/-! ## HBMC -/

/-- HBMC_CTRL (R460), offset 0x040. -/
def F.HBMC_CTRL_LOG_EN : Fld := ⟨6, 0x040, 1, 4, 1, 1, .rw, 0x1⟩
/-- HBMC_CTRL.EN (R460). -/
def F.HBMC_CTRL_EN : Fld := ⟨6, 0x040, 1, 4, 0, 1, .rwl, 0x0⟩
/-- HBMC_STAT (R460), offset 0x044. -/
def F.HBMC_STAT_SPARES_USED : Fld := ⟨6, 0x044, 1, 4, 16, 12, .ro, 0x0⟩
/-- HBMC_STAT.DIE_ERR (R460). -/
def F.HBMC_STAT_DIE_ERR : Fld := ⟨6, 0x044, 1, 4, 0, 12, .w1c, 0x0⟩
/-- HBMC_ERRCNT (R460), offset 0x048. -/
def F.HBMC_ERRCNT_UE : Fld := ⟨6, 0x048, 1, 4, 16, 16, .rc, 0x0⟩
/-- HBMC_ERRCNT.CE (R460). -/
def F.HBMC_ERRCNT_CE : Fld := ⟨6, 0x048, 1, 4, 0, 16, .rc, 0x0⟩
/-- HBMC_LOG_SEL (R460), offset 0x04C. -/
def F.HBMC_LOG_SEL_ENTRY : Fld := ⟨6, 0x04C, 1, 4, 0, 5, .rw, 0x0⟩
/-- HBMC_LOG_ADDR (R460), offset 0x050. -/
def F.HBMC_LOG_ADDR_VALID : Fld := ⟨6, 0x050, 1, 4, 31, 1, .ro, 0x0⟩
/-- HBMC_LOG_ADDR.LINE (R460). -/
def F.HBMC_LOG_ADDR_LINE : Fld := ⟨6, 0x050, 1, 4, 0, 29, .ro, 0x0⟩
/-- HBMC_LOG_INFO (R460), offset 0x054. -/
def F.HBMC_LOG_INFO_COUNT : Fld := ⟨6, 0x054, 1, 4, 24, 8, .ro, 0x0⟩
/-- HBMC_LOG_INFO.DIE (R460). -/
def F.HBMC_LOG_INFO_DIE : Fld := ⟨6, 0x054, 1, 4, 20, 4, .ro, 0x0⟩
/-- HBMC_LOG_CTRL (R460), offset 0x058. -/
def F.HBMC_LOG_CTRL_OVF : Fld := ⟨6, 0x058, 1, 4, 16, 16, .rc, 0x0⟩
/-- HBMC_LOG_CTRL.FILL (R460). -/
def F.HBMC_LOG_CTRL_FILL : Fld := ⟨6, 0x058, 1, 4, 8, 8, .ro, 0x0⟩
/-- HBMC_LOG_CTRL.CLEAR (R460). -/
def F.HBMC_LOG_CTRL_CLEAR : Fld := ⟨6, 0x058, 1, 4, 0, 1, .wo, 0x0⟩
/-- HBMC_RETIRE (R460), offset 0x060. -/
def F.HBMC_RETIRE_PAGE : Fld := ⟨6, 0x060, 1, 4, 0, 23, .wo, 0x0⟩
/-- HBMC_RETIRE_STAT (R460), offset 0x064. -/
def F.HBMC_RETIRE_STAT_BUSY : Fld := ⟨6, 0x064, 1, 4, 31, 1, .ro, 0x0⟩
/-- HBMC_RETIRE_STAT.RESULT (R460). -/
def F.HBMC_RETIRE_STAT_RESULT : Fld := ⟨6, 0x064, 1, 4, 24, 4, .ro, 0x0⟩
/-- HBMC_RETIRE_STAT.PAGE (R460). -/
def F.HBMC_RETIRE_STAT_PAGE : Fld := ⟨6, 0x064, 1, 4, 0, 23, .ro, 0x0⟩
/-- HBMC_TORN_ADDR (R460), offset 0x068. -/
def F.HBMC_TORN_ADDR_VALID : Fld := ⟨6, 0x068, 1, 4, 31, 1, .w1c, 0x0⟩
/-- HBMC_TORN_ADDR.LINE (R460). -/
def F.HBMC_TORN_ADDR_LINE : Fld := ⟨6, 0x068, 1, 4, 0, 29, .ro, 0x0⟩
/-- HBMC_TORN_INFO (R460), offset 0x06C. -/
def F.HBMC_TORN_INFO_COUNT : Fld := ⟨6, 0x06C, 1, 4, 16, 16, .rc, 0x0⟩
/-- HBMC_TORN_INFO.REQ (R460). -/
def F.HBMC_TORN_INFO_REQ : Fld := ⟨6, 0x06C, 1, 4, 0, 8, .ro, 0x0⟩

/-- Every field of the HBMC page beyond the common header. -/
def fields_hbmc : List Fld :=
  [F.HBMC_CTRL_LOG_EN, F.HBMC_CTRL_EN, F.HBMC_STAT_SPARES_USED, F.HBMC_STAT_DIE_ERR, F.HBMC_ERRCNT_UE, F.HBMC_ERRCNT_CE, F.HBMC_LOG_SEL_ENTRY, F.HBMC_LOG_ADDR_VALID, F.HBMC_LOG_ADDR_LINE, F.HBMC_LOG_INFO_COUNT, F.HBMC_LOG_INFO_DIE, F.HBMC_LOG_CTRL_OVF] ++
  [F.HBMC_LOG_CTRL_FILL, F.HBMC_LOG_CTRL_CLEAR, F.HBMC_RETIRE_PAGE, F.HBMC_RETIRE_STAT_BUSY, F.HBMC_RETIRE_STAT_RESULT, F.HBMC_RETIRE_STAT_PAGE, F.HBMC_TORN_ADDR_VALID, F.HBMC_TORN_ADDR_LINE, F.HBMC_TORN_INFO_COUNT, F.HBMC_TORN_INFO_REQ]

/-! ## POND -/

/-- POND_ERRCNT (R461), offset 0x040. -/
def F.POND_ERRCNT_UE : Fld := ⟨5, 0x040, 1, 4, 16, 16, .rc, 0x0⟩
/-- POND_ERRCNT.CE (R461). -/
def F.POND_ERRCNT_CE : Fld := ⟨5, 0x040, 1, 4, 0, 16, .rc, 0x0⟩
/-- POND_LOG_SEL (R461), offset 0x044. -/
def F.POND_LOG_SEL_ENTRY : Fld := ⟨5, 0x044, 1, 4, 0, 5, .rw, 0x0⟩
/-- POND_LOG_DATA (R461), offset 0x048. -/
def F.POND_LOG_DATA_VALID : Fld := ⟨5, 0x048, 1, 4, 31, 1, .ro, 0x0⟩
/-- POND_LOG_DATA.COUNT (R461). -/
def F.POND_LOG_DATA_COUNT : Fld := ⟨5, 0x048, 1, 4, 23, 8, .ro, 0x0⟩
/-- POND_LOG_DATA.DIR (R461). -/
def F.POND_LOG_DATA_DIR : Fld := ⟨5, 0x048, 1, 4, 22, 1, .ro, 0x0⟩
/-- POND_LOG_DATA.WORD (R461). -/
def F.POND_LOG_DATA_WORD : Fld := ⟨5, 0x048, 1, 4, 0, 18, .ro, 0x0⟩
/-- POND_LOG_CTRL (R461), offset 0x04C. -/
def F.POND_LOG_CTRL_OVF : Fld := ⟨5, 0x04C, 1, 4, 16, 16, .rc, 0x0⟩
/-- POND_LOG_CTRL.FILL (R461). -/
def F.POND_LOG_CTRL_FILL : Fld := ⟨5, 0x04C, 1, 4, 8, 8, .ro, 0x0⟩
/-- POND_LOG_CTRL.CLEAR (R461). -/
def F.POND_LOG_CTRL_CLEAR : Fld := ⟨5, 0x04C, 1, 4, 0, 1, .wo, 0x0⟩
/-- POND_DIR (R461), offset 0x050. -/
def F.POND_DIR_CROSS : Fld := ⟨5, 0x050, 1, 4, 16, 16, .rc, 0x0⟩
/-- POND_DIR.RECALL (R461). -/
def F.POND_DIR_RECALL : Fld := ⟨5, 0x050, 1, 4, 0, 16, .rc, 0x0⟩
/-- POND_TORN (R461), offset 0x054. -/
def F.POND_TORN_VALID : Fld := ⟨5, 0x054, 1, 4, 31, 1, .w1c, 0x0⟩
/-- POND_TORN.REQ (R461). -/
def F.POND_TORN_REQ : Fld := ⟨5, 0x054, 1, 4, 16, 8, .ro, 0x0⟩
/-- POND_TORN.LINE (R461). -/
def F.POND_TORN_LINE : Fld := ⟨5, 0x054, 1, 4, 0, 15, .ro, 0x0⟩

/-- Every field of the POND page beyond the common header. -/
def fields_pond : List Fld :=
  [F.POND_ERRCNT_UE, F.POND_ERRCNT_CE, F.POND_LOG_SEL_ENTRY, F.POND_LOG_DATA_VALID, F.POND_LOG_DATA_COUNT, F.POND_LOG_DATA_DIR, F.POND_LOG_DATA_WORD, F.POND_LOG_CTRL_OVF, F.POND_LOG_CTRL_FILL, F.POND_LOG_CTRL_CLEAR, F.POND_DIR_CROSS, F.POND_DIR_RECALL] ++
  [F.POND_TORN_VALID, F.POND_TORN_REQ, F.POND_TORN_LINE]

/-! ## SCRUB -/

/-- SCRUB_CTRL (R462), offset 0x040. -/
def F.SCRUB_CTRL_CMP_EN : Fld := ⟨18, 0x040, 1, 4, 1, 1, .rw, 0x0⟩
/-- SCRUB_CTRL.EN (R462). -/
def F.SCRUB_CTRL_EN : Fld := ⟨18, 0x040, 1, 4, 0, 1, .rw, 0x1⟩
/-- SCRUB_RATE (R462), offset 0x044. -/
def F.SCRUB_RATE_MBPS : Fld := ⟨18, 0x044, 1, 4, 0, 13, .rw, 0x3E8⟩
/-- SCRUB_POS (R462), offset 0x048. -/
def F.SCRUB_POS_LINE : Fld := ⟨18, 0x048, 1, 4, 0, 29, .ro, 0x0⟩
/-- SCRUB_PASSES (R462), offset 0x04C. -/
def F.SCRUB_PASSES_POND : Fld := ⟨18, 0x04C, 1, 4, 16, 16, .ro, 0x0⟩
/-- SCRUB_PASSES.HBM (R462). -/
def F.SCRUB_PASSES_HBM : Fld := ⟨18, 0x04C, 1, 4, 0, 16, .ro, 0x0⟩
/-- SCRUB_COUNTS (R462), offset 0x050. -/
def F.SCRUB_COUNTS_UE : Fld := ⟨18, 0x050, 1, 4, 16, 16, .rc, 0x0⟩
/-- SCRUB_COUNTS.CE (R462). -/
def F.SCRUB_COUNTS_CE : Fld := ⟨18, 0x050, 1, 4, 0, 16, .rc, 0x0⟩
/-- SCRUB_POISON (R462), offset 0x054. -/
def F.SCRUB_POISON_COUNT : Fld := ⟨18, 0x054, 1, 4, 0, 32, .rc, 0x0⟩

/-- Every field of the SCRUB page beyond the common header. -/
def fields_scrub : List Fld :=
  [F.SCRUB_CTRL_CMP_EN, F.SCRUB_CTRL_EN, F.SCRUB_RATE_MBPS, F.SCRUB_POS_LINE, F.SCRUB_PASSES_POND, F.SCRUB_PASSES_HBM, F.SCRUB_COUNTS_UE, F.SCRUB_COUNTS_CE, F.SCRUB_POISON_COUNT]

/-! ## LEDGER -/

/-- LEDGER_STAT (R463), offset 0x040. -/
def F.LEDGER_STAT_STATE : Fld := ⟨17, 0x040, 1, 4, 30, 2, .ro, 0x0⟩
/-- LEDGER_STAT.LOST (R463). -/
def F.LEDGER_STAT_LOST : Fld := ⟨17, 0x040, 1, 4, 0, 16, .ro, 0x0⟩
/-- LEDGER_RECOV (R463), offset 0x044. -/
def F.LEDGER_RECOV_INVALID : Fld := ⟨17, 0x044, 1, 4, 16, 16, .ro, 0x0⟩
/-- LEDGER_RECOV.CRC_FAIL (R463). -/
def F.LEDGER_RECOV_CRC_FAIL : Fld := ⟨17, 0x044, 1, 4, 0, 16, .ro, 0x0⟩
/-- LEDGER_RD_SEL (R463), offset 0x050. -/
def F.LEDGER_RD_SEL_SLOT : Fld := ⟨17, 0x050, 1, 4, 6, 15, .rw, 0x0⟩
/-- LEDGER_RD_SEL.WORD (R463). -/
def F.LEDGER_RD_SEL_WORD : Fld := ⟨17, 0x050, 1, 4, 0, 6, .rw, 0x0⟩
/-- LEDGER_RD_DATA (R463), offset 0x054. -/
def F.LEDGER_RD_DATA_DATA : Fld := ⟨17, 0x054, 1, 4, 0, 32, .ro, 0x0⟩
/-- LEDGER_COUNTS (R463), offset 0x058. -/
def F.LEDGER_COUNTS_REFUSED : Fld := ⟨17, 0x058, 1, 4, 16, 16, .rc, 0x0⟩
/-- LEDGER_COUNTS.CE (R463). -/
def F.LEDGER_COUNTS_CE : Fld := ⟨17, 0x058, 1, 4, 0, 16, .rc, 0x0⟩
/-- LEDGER_UE (R463), offset 0x05C. -/
def F.LEDGER_UE_UE : Fld := ⟨17, 0x05C, 1, 4, 0, 16, .rc, 0x0⟩

/-- Every field of the LEDGER page beyond the common header. -/
def fields_ledger : List Fld :=
  [F.LEDGER_STAT_STATE, F.LEDGER_STAT_LOST, F.LEDGER_RECOV_INVALID, F.LEDGER_RECOV_CRC_FAIL, F.LEDGER_RD_SEL_SLOT, F.LEDGER_RD_SEL_WORD, F.LEDGER_RD_DATA_DATA, F.LEDGER_COUNTS_REFUSED, F.LEDGER_COUNTS_CE, F.LEDGER_UE_UE]

/-! ## DIKE -/

/-- DIKE_CTRL (R488), offset 0x040. -/
def F.DIKE_CTRL_PRIO : Fld := ⟨7, 0x040, 1, 4, 0, 3, .rw, 0x0⟩
/-- DIKE_STAT (R488), offset 0x044. -/
def F.DIKE_STAT_ZEROISING : Fld := ⟨7, 0x044, 1, 4, 31, 1, .ro, 0x0⟩
/-- DIKE_STAT.STATE (R488). -/
def F.DIKE_STAT_STATE : Fld := ⟨7, 0x044, 1, 4, 16, 3, .ro, 0x0⟩
/-- DIKE_STAT.MILLS (R488). -/
def F.DIKE_STAT_MILLS : Fld := ⟨7, 0x044, 1, 4, 0, 7, .ro, 0x0⟩
/-- DIKE_STREAM_BASE (R488), offset 0x048. -/
def F.DIKE_STREAM_BASE_BASE : Fld := ⟨7, 0x048, 1, 4, 0, 18, .ro, 0x0⟩
/-- DIKE_STREAM_COUNT (R488), offset 0x04C. -/
def F.DIKE_STREAM_COUNT_COUNT : Fld := ⟨7, 0x04C, 1, 4, 0, 19, .ro, 0x0⟩
/-- DIKE_REGION0 (R488), offset 0x050. -/
def F.DIKE_REGION0_MAPPED : Fld := ⟨7, 0x050, 1, 4, 16, 14, .ro, 0x0⟩
/-- DIKE_REGION0.PARCELS (R488). -/
def F.DIKE_REGION0_PARCELS : Fld := ⟨7, 0x050, 1, 4, 0, 14, .ro, 0x0⟩
/-- DIKE_REGION1 (R488), offset 0x054. -/
def F.DIKE_REGION1_MAPPED : Fld := ⟨7, 0x054, 1, 4, 16, 14, .ro, 0x0⟩
/-- DIKE_REGION1.PARCELS (R488). -/
def F.DIKE_REGION1_PARCELS : Fld := ⟨7, 0x054, 1, 4, 0, 14, .ro, 0x0⟩
/-- DIKE_CLASSES0 (R488), offset 0x058. -/
def F.DIKE_CLASSES0_QUOTA : Fld := ⟨7, 0x058, 1, 4, 0, 17, .rw, 0x0⟩
/-- DIKE_CLASSES1 (R488), offset 0x05C. -/
def F.DIKE_CLASSES1_QUOTA : Fld := ⟨7, 0x05C, 1, 4, 0, 17, .rw, 0x0⟩
/-- DIKE_ENTRIES (R488), offset 0x060. -/
def F.DIKE_ENTRIES_QUOTA : Fld := ⟨7, 0x060, 1, 4, 0, 19, .rw, 0x0⟩
/-- DIKE_OBJQ (R488), offset 0x064. -/
def F.DIKE_OBJQ_KSTORE : Fld := ⟨7, 0x064, 1, 4, 24, 7, .rw, 0x0⟩
/-- DIKE_OBJQ.BUNDLES (R488). -/
def F.DIKE_OBJQ_BUNDLES : Fld := ⟨7, 0x064, 1, 4, 0, 15, .rw, 0x0⟩
/-- DIKE_DMA_RATE (R488), offset 0x068. -/
def F.DIKE_DMA_RATE_MBPS : Fld := ⟨7, 0x068, 1, 4, 0, 16, .rw, 0x0⟩
/-- DIKE_PWIN (R488), offset 0x070. -/
def F.DIKE_PWIN_VALID : Fld := ⟨7, 0x070, 4, 4, 31, 1, .ro, 0x0⟩
/-- DIKE_PWIN.HALF (R488). -/
def F.DIKE_PWIN_HALF : Fld := ⟨7, 0x070, 4, 4, 8, 1, .ro, 0x0⟩
/-- DIKE_PWIN.FIRST (R488). -/
def F.DIKE_PWIN_FIRST : Fld := ⟨7, 0x070, 4, 4, 4, 4, .ro, 0x0⟩
/-- DIKE_PWIN.LAST (R488). -/
def F.DIKE_PWIN_LAST : Fld := ⟨7, 0x070, 4, 4, 0, 4, .ro, 0x0⟩
/-- DIKE_WALK (R488), offset 0x080. -/
def F.DIKE_WALK_VALID : Fld := ⟨7, 0x080, 1, 4, 31, 1, .w1c, 0x0⟩
/-- DIKE_WALK.REQ (R488). -/
def F.DIKE_WALK_REQ : Fld := ⟨7, 0x080, 1, 4, 8, 4, .ro, 0x0⟩
/-- DIKE_WALK.KIND (R488). -/
def F.DIKE_WALK_KIND : Fld := ⟨7, 0x080, 1, 4, 0, 4, .ro, 0x0⟩
/-- DIKE_WALK_PA_LO (R488), offset 0x084. -/
def F.DIKE_WALK_PA_LO_PA : Fld := ⟨7, 0x084, 1, 4, 0, 32, .ro, 0x0⟩
/-- DIKE_WALK_PA_HI (R488), offset 0x088. -/
def F.DIKE_WALK_PA_HI_PA : Fld := ⟨7, 0x088, 1, 4, 0, 4, .ro, 0x0⟩
/-- DIKE_COUNTS (R488), offset 0x08C. -/
def F.DIKE_COUNTS_WALK : Fld := ⟨7, 0x08C, 1, 4, 16, 16, .rc, 0x0⟩
/-- DIKE_COUNTS.STALE (R488). -/
def F.DIKE_COUNTS_STALE : Fld := ⟨7, 0x08C, 1, 4, 0, 16, .rc, 0x0⟩
/-- DIKE_MILLS0 (R488), offset 0x090. -/
def F.DIKE_MILLS0_MILLS : Fld := ⟨7, 0x090, 1, 4, 0, 32, .ro, 0x0⟩
/-- DIKE_MILLS1 (R488), offset 0x094. -/
def F.DIKE_MILLS1_MILLS : Fld := ⟨7, 0x094, 1, 4, 0, 32, .ro, 0x0⟩
/-- DIKE_MILLS2 (R488), offset 0x098. -/
def F.DIKE_MILLS2_MILLS : Fld := ⟨7, 0x098, 1, 4, 0, 16, .ro, 0x0⟩
/-- DIKE_KEYS (R488), offset 0x09C. -/
def F.DIKE_KEYS_ENROLLED : Fld := ⟨7, 0x09C, 1, 4, 0, 3, .ro, 0x0⟩
/-- DIKE_ISO (R488), offset 0x0A0. -/
def F.DIKE_ISO_STRICT_OK : Fld := ⟨7, 0x0A0, 1, 4, 1, 1, .ro, 0x0⟩
/-- DIKE_ISO.STRICT (R488). -/
def F.DIKE_ISO_STRICT : Fld := ⟨7, 0x0A0, 1, 4, 0, 1, .rw, 0x0⟩
/-- DIKE_PARCEL_SEL (R488), offset 0x0A4. -/
def F.DIKE_PARCEL_SEL_PARCEL : Fld := ⟨7, 0x0A4, 1, 4, 0, 15, .rw, 0x0⟩
/-- DIKE_PARCEL_DATA (R488), offset 0x0A8. -/
def F.DIKE_PARCEL_DATA_TYPE : Fld := ⟨7, 0x0A8, 1, 4, 30, 2, .ro, 0x0⟩
/-- DIKE_PARCEL_DATA.OWNER (R488). -/
def F.DIKE_PARCEL_DATA_OWNER : Fld := ⟨7, 0x0A8, 1, 4, 0, 4, .ro, 0x0⟩

/-- Every field of the DIKE page beyond the common header. -/
def fields_dike : List Fld :=
  [F.DIKE_CTRL_PRIO, F.DIKE_STAT_ZEROISING, F.DIKE_STAT_STATE, F.DIKE_STAT_MILLS, F.DIKE_STREAM_BASE_BASE, F.DIKE_STREAM_COUNT_COUNT, F.DIKE_REGION0_MAPPED, F.DIKE_REGION0_PARCELS, F.DIKE_REGION1_MAPPED, F.DIKE_REGION1_PARCELS, F.DIKE_CLASSES0_QUOTA, F.DIKE_CLASSES1_QUOTA] ++
  [F.DIKE_ENTRIES_QUOTA, F.DIKE_OBJQ_KSTORE, F.DIKE_OBJQ_BUNDLES, F.DIKE_DMA_RATE_MBPS, F.DIKE_PWIN_VALID, F.DIKE_PWIN_HALF, F.DIKE_PWIN_FIRST, F.DIKE_PWIN_LAST, F.DIKE_WALK_VALID, F.DIKE_WALK_REQ, F.DIKE_WALK_KIND, F.DIKE_WALK_PA_LO_PA] ++
  [F.DIKE_WALK_PA_HI_PA, F.DIKE_COUNTS_WALK, F.DIKE_COUNTS_STALE, F.DIKE_MILLS0_MILLS, F.DIKE_MILLS1_MILLS, F.DIKE_MILLS2_MILLS, F.DIKE_KEYS_ENROLLED, F.DIKE_ISO_STRICT_OK, F.DIKE_ISO_STRICT, F.DIKE_PARCEL_SEL_PARCEL, F.DIKE_PARCEL_DATA_TYPE, F.DIKE_PARCEL_DATA_OWNER]

/-! ## PCIE -/

/-- PCIE_ID (R525), offset 0x040. -/
def F.PCIE_ID_PF_DEVID : Fld := ⟨25, 0x040, 1, 4, 16, 16, .ro, 0x0⟩
/-- PCIE_ID.VF_DEVID (R525). -/
def F.PCIE_ID_VF_DEVID : Fld := ⟨25, 0x040, 1, 4, 0, 16, .ro, 0x0⟩
/-- PCIE_STAT (R525), offset 0x044. -/
def F.PCIE_STAT_NUMVFS : Fld := ⟨25, 0x044, 1, 4, 16, 5, .ro, 0x0⟩
/-- PCIE_STAT.VF_EN (R525). -/
def F.PCIE_STAT_VF_EN : Fld := ⟨25, 0x044, 1, 4, 15, 1, .ro, 0x0⟩
/-- PCIE_STAT.WIDTH (R525). -/
def F.PCIE_STAT_WIDTH : Fld := ⟨25, 0x044, 1, 4, 4, 5, .ro, 0x0⟩
/-- PCIE_STAT.LINK (R525). -/
def F.PCIE_STAT_LINK : Fld := ⟨25, 0x044, 1, 4, 3, 1, .ro, 0x0⟩
/-- PCIE_STAT.SPEED (R525). -/
def F.PCIE_STAT_SPEED : Fld := ⟨25, 0x044, 1, 4, 0, 3, .ro, 0x0⟩
/-- PCIE_FLR (R525), offset 0x048. -/
def F.PCIE_FLR_IN_FLR : Fld := ⟨25, 0x048, 1, 4, 0, 16, .ro, 0x0⟩
/-- PCIE_ERRCNT (R525), offset 0x04C. -/
def F.PCIE_ERRCNT_UR : Fld := ⟨25, 0x04C, 1, 4, 24, 8, .rc, 0x0⟩
/-- PCIE_ERRCNT.CA (R525). -/
def F.PCIE_ERRCNT_CA : Fld := ⟨25, 0x04C, 1, 4, 16, 8, .rc, 0x0⟩
/-- PCIE_ERRCNT.POISONED (R525). -/
def F.PCIE_ERRCNT_POISONED : Fld := ⟨25, 0x04C, 1, 4, 8, 8, .rc, 0x0⟩
/-- PCIE_ERRCNT.CTO (R525). -/
def F.PCIE_ERRCNT_CTO : Fld := ⟨25, 0x04C, 1, 4, 0, 8, .rc, 0x0⟩
/-- PCIE_IROUTE (R525), offset 0x100. -/
def F.PCIE_IROUTE_EN : Fld := ⟨25, 0x100, 27, 4, 31, 1, .rw, 0x0⟩
/-- PCIE_IROUTE.VEC (R525). -/
def F.PCIE_IROUTE_VEC : Fld := ⟨25, 0x100, 27, 4, 0, 11, .rw, 0x0⟩

/-- Every field of the PCIE page beyond the common header. -/
def fields_pcie : List Fld :=
  [F.PCIE_ID_PF_DEVID, F.PCIE_ID_VF_DEVID, F.PCIE_STAT_NUMVFS, F.PCIE_STAT_VF_EN, F.PCIE_STAT_WIDTH, F.PCIE_STAT_LINK, F.PCIE_STAT_SPEED, F.PCIE_FLR_IN_FLR, F.PCIE_ERRCNT_UR, F.PCIE_ERRCNT_CA, F.PCIE_ERRCNT_POISONED, F.PCIE_ERRCNT_CTO] ++
  [F.PCIE_IROUTE_EN, F.PCIE_IROUTE_VEC]

/-! ## VORAK -/

/-- VORAK_CTRL (R527), offset 0x040. -/
def F.VORAK_CTRL_EN : Fld := ⟨23, 0x040, 1, 4, 16, 1, .rw, 0x1⟩
/-- VORAK_CTRL.BLK_VEC (R527). -/
def F.VORAK_CTRL_BLK_VEC : Fld := ⟨23, 0x040, 1, 4, 0, 11, .rw, 0x0⟩
/-- VORAK_STAT (R527), offset 0x044. -/
def F.VORAK_STAT_INFLIGHT : Fld := ⟨23, 0x044, 1, 4, 16, 9, .ro, 0x0⟩
/-- VORAK_STAT.WAITING (R527). -/
def F.VORAK_STAT_WAITING : Fld := ⟨23, 0x044, 1, 4, 0, 16, .ro, 0x0⟩
/-- VORAK_COAL (R527), offset 0x048. -/
def F.VORAK_COAL_TIME : Fld := ⟨23, 0x048, 1, 4, 16, 16, .rw, 0x0⟩
/-- VORAK_COAL.COUNT (R527). -/
def F.VORAK_COAL_COUNT : Fld := ⟨23, 0x048, 1, 4, 0, 16, .rw, 0x1⟩
/-- VORAK_ERR (R527), offset 0x04C. -/
def F.VORAK_ERR_VALID : Fld := ⟨23, 0x04C, 1, 4, 31, 1, .w1c, 0x0⟩
/-- VORAK_ERR.RING (R527). -/
def F.VORAK_ERR_RING : Fld := ⟨23, 0x04C, 1, 4, 16, 5, .ro, 0x0⟩
/-- VORAK_ERR.KIND (R527). -/
def F.VORAK_ERR_KIND : Fld := ⟨23, 0x04C, 1, 4, 0, 4, .ro, 0x0⟩
/-- SQ_BASE_LO (R527), offset 0x100. -/
def F.SQ_BASE_LO_BASE : Fld := ⟨23, 0x100, 16, 32, 12, 20, .rw, 0x0⟩
/-- SQ_BASE_HI (R527), offset 0x104. -/
def F.SQ_BASE_HI_BASE : Fld := ⟨23, 0x104, 16, 32, 0, 32, .rw, 0x0⟩
/-- CQ_BASE_LO (R527), offset 0x108. -/
def F.CQ_BASE_LO_BASE : Fld := ⟨23, 0x108, 16, 32, 12, 20, .rw, 0x0⟩
/-- CQ_BASE_HI (R527), offset 0x10C. -/
def F.CQ_BASE_HI_BASE : Fld := ⟨23, 0x10C, 16, 32, 0, 32, .rw, 0x0⟩
/-- RING_CFG (R527), offset 0x110. -/
def F.RING_CFG_EN : Fld := ⟨23, 0x110, 16, 32, 31, 1, .rw, 0x0⟩
/-- RING_CFG.LOG2SIZE (R527). -/
def F.RING_CFG_LOG2SIZE : Fld := ⟨23, 0x110, 16, 32, 20, 5, .rw, 0x4⟩
/-- RING_CFG.VEC (R527). -/
def F.RING_CFG_VEC : Fld := ⟨23, 0x110, 16, 32, 0, 11, .rw, 0x0⟩
/-- SQ_TAIL (R527), offset 0x114. -/
def F.SQ_TAIL_TAIL : Fld := ⟨23, 0x114, 16, 32, 0, 16, .rw, 0x0⟩
/-- SQ_HEAD (R527), offset 0x118. -/
def F.SQ_HEAD_HEAD : Fld := ⟨23, 0x118, 16, 32, 0, 16, .ro, 0x0⟩
/-- CQ_HEAD (R527), offset 0x11C. -/
def F.CQ_HEAD_HEAD : Fld := ⟨23, 0x11C, 16, 32, 0, 16, .rw, 0x0⟩
/-- RX_BASE_LO (R527), offset 0x300. -/
def F.RX_BASE_LO_BASE : Fld := ⟨23, 0x300, 9, 16, 12, 20, .rw, 0x0⟩
/-- RX_BASE_HI (R527), offset 0x304. -/
def F.RX_BASE_HI_BASE : Fld := ⟨23, 0x304, 9, 16, 0, 32, .rw, 0x0⟩
/-- RX_CFG (R527), offset 0x308. -/
def F.RX_CFG_EN : Fld := ⟨23, 0x308, 9, 16, 31, 1, .rw, 0x0⟩
/-- RX_CFG.LOG2SIZE (R527). -/
def F.RX_CFG_LOG2SIZE : Fld := ⟨23, 0x308, 9, 16, 20, 5, .rw, 0x4⟩
/-- RX_CFG.VEC (R527). -/
def F.RX_CFG_VEC : Fld := ⟨23, 0x308, 9, 16, 0, 11, .rw, 0x0⟩
/-- RX_IDX (R527), offset 0x30C. -/
def F.RX_IDX_PROD : Fld := ⟨23, 0x30C, 9, 16, 16, 16, .ro, 0x0⟩
/-- RX_IDX.CONS (R527). -/
def F.RX_IDX_CONS : Fld := ⟨23, 0x30C, 9, 16, 0, 16, .rw, 0x0⟩

/-- Every field of the VORAK page beyond the common header. -/
def fields_vorak : List Fld :=
  [F.VORAK_CTRL_EN, F.VORAK_CTRL_BLK_VEC, F.VORAK_STAT_INFLIGHT, F.VORAK_STAT_WAITING, F.VORAK_COAL_TIME, F.VORAK_COAL_COUNT, F.VORAK_ERR_VALID, F.VORAK_ERR_RING, F.VORAK_ERR_KIND, F.SQ_BASE_LO_BASE, F.SQ_BASE_HI_BASE, F.CQ_BASE_LO_BASE] ++
  [F.CQ_BASE_HI_BASE, F.RING_CFG_EN, F.RING_CFG_LOG2SIZE, F.RING_CFG_VEC, F.SQ_TAIL_TAIL, F.SQ_HEAD_HEAD, F.CQ_HEAD_HEAD, F.RX_BASE_LO_BASE, F.RX_BASE_HI_BASE, F.RX_CFG_EN, F.RX_CFG_LOG2SIZE, F.RX_CFG_VEC] ++
  [F.RX_IDX_PROD, F.RX_IDX_CONS]

/-! ## PRESS -/

/-- PRESS_CTRL (R548), offset 0x040. -/
def F.PRESS_CTRL_MODE : Fld := ⟨16, 0x040, 1, 4, 1, 1, .rw, 0x0⟩
/-- PRESS_CTRL.EN (R548). -/
def F.PRESS_CTRL_EN : Fld := ⟨16, 0x040, 1, 4, 0, 1, .rw, 0x0⟩
/-- PRESS_STAT (R548), offset 0x044. -/
def F.PRESS_STAT_MIRROR : Fld := ⟨16, 0x044, 1, 4, 12, 1, .ro, 0x0⟩
/-- PRESS_STAT.SLOT (R548). -/
def F.PRESS_STAT_SLOT : Fld := ⟨16, 0x044, 1, 4, 8, 4, .ro, 0x0⟩
/-- PRESS_STAT.BUSY (R548). -/
def F.PRESS_STAT_BUSY : Fld := ⟨16, 0x044, 1, 4, 4, 1, .ro, 0x0⟩
/-- PRESS_STAT.POLDER (R548). -/
def F.PRESS_STAT_POLDER : Fld := ⟨16, 0x044, 1, 4, 0, 4, .ro, 0x0⟩
/-- PRESS_SLOTEN (R548), offset 0x048. -/
def F.PRESS_SLOTEN_EN : Fld := ⟨16, 0x048, 1, 4, 0, 16, .rw, 0xFFFF⟩
/-- PRESS_SLOTMAP0 (R548), offset 0x04C. -/
def F.PRESS_SLOTMAP0_OWNER : Fld := ⟨16, 0x04C, 1, 4, 0, 32, .rw, 0x0⟩
/-- PRESS_SLOTMAP1 (R548), offset 0x050. -/
def F.PRESS_SLOTMAP1_OWNER : Fld := ⟨16, 0x050, 1, 4, 0, 32, .rw, 0x0⟩
/-- PRESS_ERRCNT (R548), offset 0x060. -/
def F.PRESS_ERRCNT_MEM : Fld := ⟨16, 0x060, 1, 4, 16, 16, .rc, 0x0⟩
/-- PRESS_ERRCNT.JOB (R548). -/
def F.PRESS_ERRCNT_JOB : Fld := ⟨16, 0x060, 1, 4, 0, 16, .rc, 0x0⟩
/-- PRESS_LASTERR (R548), offset 0x064. -/
def F.PRESS_LASTERR_VALID : Fld := ⟨16, 0x064, 1, 4, 31, 1, .w1c, 0x0⟩
/-- PRESS_LASTERR.RING (R548). -/
def F.PRESS_LASTERR_RING : Fld := ⟨16, 0x064, 1, 4, 12, 1, .ro, 0x0⟩
/-- PRESS_LASTERR.POLDER (R548). -/
def F.PRESS_LASTERR_POLDER : Fld := ⟨16, 0x064, 1, 4, 8, 4, .ro, 0x0⟩
/-- PRESS_LASTERR.STATUS (R548). -/
def F.PRESS_LASTERR_STATUS : Fld := ⟨16, 0x064, 1, 4, 0, 8, .ro, 0x0⟩
/-- PRESS_RING (R548), offset 0x080. -/
def F.PRESS_RING_EN : Fld := ⟨16, 0x080, 16, 4, 31, 1, .rw, 0x0⟩
/-- PRESS_RING.LOG2SIZE (R548). -/
def F.PRESS_RING_LOG2SIZE : Fld := ⟨16, 0x080, 16, 4, 0, 4, .rw, 0x4⟩

/-- Every field of the PRESS page beyond the common header. -/
def fields_press : List Fld :=
  [F.PRESS_CTRL_MODE, F.PRESS_CTRL_EN, F.PRESS_STAT_MIRROR, F.PRESS_STAT_SLOT, F.PRESS_STAT_BUSY, F.PRESS_STAT_POLDER, F.PRESS_SLOTEN_EN, F.PRESS_SLOTMAP0_OWNER, F.PRESS_SLOTMAP1_OWNER, F.PRESS_ERRCNT_MEM, F.PRESS_ERRCNT_JOB, F.PRESS_LASTERR_VALID] ++
  [F.PRESS_LASTERR_RING, F.PRESS_LASTERR_POLDER, F.PRESS_LASTERR_STATUS, F.PRESS_RING_EN, F.PRESS_RING_LOG2SIZE]

/-! ## TRUST -/

/-- TRUST_STAT (R582), offset 0x040. -/
def F.TRUST_STAT_DEBUG : Fld := ⟨20, 0x040, 1, 4, 31, 1, .ro, 0x0⟩
/-- TRUST_STAT.SCOPE (R582). -/
def F.TRUST_STAT_SCOPE : Fld := ⟨20, 0x040, 1, 4, 29, 2, .ro, 0x0⟩
/-- TRUST_STAT.LOG_FULL (R582). -/
def F.TRUST_STAT_LOG_FULL : Fld := ⟨20, 0x040, 1, 4, 28, 1, .ro, 0x0⟩
/-- TRUST_STAT.KEYSLOT (R582). -/
def F.TRUST_STAT_KEYSLOT : Fld := ⟨20, 0x040, 1, 4, 18, 2, .ro, 0x0⟩
/-- TRUST_STAT.SRC (R582). -/
def F.TRUST_STAT_SRC : Fld := ⟨20, 0x040, 1, 4, 8, 4, .ro, 0x0⟩
/-- TRUST_STAT.STATE (R582). -/
def F.TRUST_STAT_STATE : Fld := ⟨20, 0x040, 1, 4, 0, 3, .ro, 0x0⟩
/-- TRUST_SVN (R582), offset 0x044. -/
def F.TRUST_SVN_MIN : Fld := ⟨20, 0x044, 1, 4, 16, 16, .ro, 0x0⟩
/-- TRUST_SVN.SVN (R582). -/
def F.TRUST_SVN_SVN : Fld := ⟨20, 0x044, 1, 4, 0, 16, .ro, 0x0⟩
/-- TRUST_FWVER_LO (R582), offset 0x048. -/
def F.TRUST_FWVER_LO_VERSION : Fld := ⟨20, 0x048, 1, 4, 0, 32, .ro, 0x0⟩
/-- TRUST_FWVER_HI (R582), offset 0x04C. -/
def F.TRUST_FWVER_HI_VERSION : Fld := ⟨20, 0x04C, 1, 4, 0, 32, .ro, 0x0⟩
/-- TRUST_MR_SEL (R582), offset 0x050. -/
def F.TRUST_MR_SEL_WORD : Fld := ⟨20, 0x050, 1, 4, 8, 4, .rw, 0x0⟩
/-- TRUST_MR_SEL.MR (R582). -/
def F.TRUST_MR_SEL_MR : Fld := ⟨20, 0x050, 1, 4, 0, 4, .rw, 0x0⟩
/-- TRUST_MR_DATA (R582), offset 0x054. -/
def F.TRUST_MR_DATA_DATA : Fld := ⟨20, 0x054, 1, 4, 0, 32, .ro, 0x0⟩
/-- TRUST_UID (R582), offset 0x060. -/
def F.TRUST_UID_UID : Fld := ⟨20, 0x060, 4, 4, 0, 32, .ro, 0x0⟩
/-- TRUST_RECOV_LO (R582), offset 0x070. -/
def F.TRUST_RECOV_LO_ADDR : Fld := ⟨20, 0x070, 1, 4, 6, 26, .rw, 0x0⟩
/-- TRUST_RECOV_HI (R582), offset 0x074. -/
def F.TRUST_RECOV_HI_ADDR : Fld := ⟨20, 0x074, 1, 4, 0, 32, .rw, 0x0⟩
/-- TRUST_RECOV_CTRL (R582), offset 0x078. -/
def F.TRUST_RECOV_CTRL_GO : Fld := ⟨20, 0x078, 1, 4, 31, 1, .w1s, 0x0⟩
/-- TRUST_RECOV_CTRL.RESULT (R582). -/
def F.TRUST_RECOV_CTRL_RESULT : Fld := ⟨20, 0x078, 1, 4, 24, 4, .ro, 0x0⟩
/-- TRUST_RECOV_CTRL.LEN (R582). -/
def F.TRUST_RECOV_CTRL_LEN : Fld := ⟨20, 0x078, 1, 4, 0, 21, .rw, 0x0⟩

/-- Every field of the TRUST page beyond the common header. -/
def fields_trust : List Fld :=
  [F.TRUST_STAT_DEBUG, F.TRUST_STAT_SCOPE, F.TRUST_STAT_LOG_FULL, F.TRUST_STAT_KEYSLOT, F.TRUST_STAT_SRC, F.TRUST_STAT_STATE, F.TRUST_SVN_MIN, F.TRUST_SVN_SVN, F.TRUST_FWVER_LO_VERSION, F.TRUST_FWVER_HI_VERSION, F.TRUST_MR_SEL_WORD, F.TRUST_MR_SEL_MR] ++
  [F.TRUST_MR_DATA_DATA, F.TRUST_UID_UID, F.TRUST_RECOV_LO_ADDR, F.TRUST_RECOV_HI_ADDR, F.TRUST_RECOV_CTRL_GO, F.TRUST_RECOV_CTRL_RESULT, F.TRUST_RECOV_CTRL_LEN]

/-! ## POWER -/

/-- POWER_CTRL (R583), offset 0x040. -/
def F.POWER_CTRL_PERST_FULL : Fld := ⟨19, 0x040, 1, 4, 0, 1, .rwl, 0x0⟩
/-- POWER_STAT (R583), offset 0x044. -/
def F.POWER_STAT_RST_CAUSE : Fld := ⟨19, 0x044, 1, 4, 8, 4, .ro, 0x0⟩
/-- POWER_STAT.PWRFAIL (R583). -/
def F.POWER_STAT_PWRFAIL : Fld := ⟨19, 0x044, 1, 4, 1, 1, .ro, 0x0⟩
/-- POWER_STAT.PWRFAIL_N (R583). -/
def F.POWER_STAT_PWRFAIL_N : Fld := ⟨19, 0x044, 1, 4, 0, 1, .ro, 0x0⟩
/-- POWER_DOM_SEL (R583), offset 0x048. -/
def F.POWER_DOM_SEL_DOM : Fld := ⟨19, 0x048, 1, 4, 0, 8, .rw, 0x0⟩
/-- POWER_DOM_STAT (R583), offset 0x04C. -/
def F.POWER_DOM_STAT_FIXED : Fld := ⟨19, 0x04C, 1, 4, 5, 1, .ro, 0x0⟩
/-- POWER_DOM_STAT.WAKE_QUEUED (R583). -/
def F.POWER_DOM_STAT_WAKE_QUEUED : Fld := ⟨19, 0x04C, 1, 4, 4, 1, .ro, 0x0⟩
/-- POWER_DOM_STAT.STATE (R583). -/
def F.POWER_DOM_STAT_STATE : Fld := ⟨19, 0x04C, 1, 4, 0, 3, .ro, 0x0⟩
/-- POWER_RACE (R583), offset 0x050. -/
def F.POWER_RACE_CANCELLED : Fld := ⟨19, 0x050, 1, 4, 16, 16, .rc, 0x0⟩
/-- POWER_RACE.QUEUED (R583). -/
def F.POWER_RACE_QUEUED : Fld := ⟨19, 0x050, 1, 4, 0, 16, .rc, 0x0⟩
/-- POWER_STBY_CAUSE (R583), offset 0x054. -/
def F.POWER_STBY_CAUSE_STBY : Fld := ⟨19, 0x054, 1, 4, 2, 1, .w1c, 0x0⟩
/-- POWER_STBY_CAUSE.PWRFAIL (R583). -/
def F.POWER_STBY_CAUSE_PWRFAIL : Fld := ⟨19, 0x054, 1, 4, 1, 1, .w1c, 0x0⟩
/-- POWER_STBY_CAUSE.WAKE (R583). -/
def F.POWER_STBY_CAUSE_WAKE : Fld := ⟨19, 0x054, 1, 4, 0, 1, .w1c, 0x0⟩
/-- POWER_ON (R583), offset 0x060. -/
def F.POWER_ON_ON : Fld := ⟨19, 0x060, 6, 4, 0, 32, .ro, 0x0⟩

/-- Every field of the POWER page beyond the common header. -/
def fields_power : List Fld :=
  [F.POWER_CTRL_PERST_FULL, F.POWER_STAT_RST_CAUSE, F.POWER_STAT_PWRFAIL, F.POWER_STAT_PWRFAIL_N, F.POWER_DOM_SEL_DOM, F.POWER_DOM_STAT_FIXED, F.POWER_DOM_STAT_WAKE_QUEUED, F.POWER_DOM_STAT_STATE, F.POWER_RACE_CANCELLED, F.POWER_RACE_QUEUED, F.POWER_STBY_CAUSE_STBY, F.POWER_STBY_CAUSE_PWRFAIL] ++
  [F.POWER_STBY_CAUSE_WAKE, F.POWER_ON_ON]

/-! ## I2CM -/

/-- I2CM_CTRL (R584), offset 0x040. -/
def F.I2CM_CTRL_CLR_TRIES : Fld := ⟨21, 0x040, 1, 4, 16, 8, .rw, 0xA⟩
/-- I2CM_CTRL.RETRY (R584). -/
def F.I2CM_CTRL_RETRY : Fld := ⟨21, 0x040, 1, 4, 8, 4, .rw, 0x3⟩
/-- I2CM_CTRL.PEC (R584). -/
def F.I2CM_CTRL_PEC : Fld := ⟨21, 0x040, 1, 4, 3, 1, .rw, 0x0⟩
/-- I2CM_CTRL.SPEED (R584). -/
def F.I2CM_CTRL_SPEED : Fld := ⟨21, 0x040, 1, 4, 1, 2, .rw, 0x0⟩
/-- I2CM_CTRL.EN (R584). -/
def F.I2CM_CTRL_EN : Fld := ⟨21, 0x040, 1, 4, 0, 1, .rw, 0x0⟩
/-- I2CM_STAT (R584), offset 0x044. -/
def F.I2CM_STAT_SCL : Fld := ⟨21, 0x044, 1, 4, 4, 1, .ro, 0x0⟩
/-- I2CM_STAT.SDA (R584). -/
def F.I2CM_STAT_SDA : Fld := ⟨21, 0x044, 1, 4, 3, 1, .ro, 0x0⟩
/-- I2CM_STAT.BUS_STUCK (R584). -/
def F.I2CM_STAT_BUS_STUCK : Fld := ⟨21, 0x044, 1, 4, 2, 1, .ro, 0x0⟩
/-- I2CM_STAT.CLEARING (R584). -/
def F.I2CM_STAT_CLEARING : Fld := ⟨21, 0x044, 1, 4, 1, 1, .ro, 0x0⟩
/-- I2CM_STAT.BUSY (R584). -/
def F.I2CM_STAT_BUSY : Fld := ⟨21, 0x044, 1, 4, 0, 1, .ro, 0x0⟩
/-- I2CM_XFER (R584), offset 0x048. -/
def F.I2CM_XFER_GO : Fld := ⟨21, 0x048, 1, 4, 31, 1, .w1s, 0x0⟩
/-- I2CM_XFER.RLEN (R584). -/
def F.I2CM_XFER_RLEN : Fld := ⟨21, 0x048, 1, 4, 16, 6, .rw, 0x0⟩
/-- I2CM_XFER.WLEN (R584). -/
def F.I2CM_XFER_WLEN : Fld := ⟨21, 0x048, 1, 4, 8, 6, .rw, 0x0⟩
/-- I2CM_XFER.ADDR (R584). -/
def F.I2CM_XFER_ADDR : Fld := ⟨21, 0x048, 1, 4, 0, 7, .rw, 0x0⟩
/-- I2CM_RESULT (R584), offset 0x04C. -/
def F.I2CM_RESULT_RCOUNT : Fld := ⟨21, 0x04C, 1, 4, 8, 6, .ro, 0x0⟩
/-- I2CM_RESULT.TRIES (R584). -/
def F.I2CM_RESULT_TRIES : Fld := ⟨21, 0x04C, 1, 4, 4, 4, .ro, 0x0⟩
/-- I2CM_RESULT.STATUS (R584). -/
def F.I2CM_RESULT_STATUS : Fld := ⟨21, 0x04C, 1, 4, 0, 4, .ro, 0x0⟩
/-- I2CM_COUNTS (R584), offset 0x050. -/
def F.I2CM_COUNTS_ERR : Fld := ⟨21, 0x050, 1, 4, 16, 16, .rc, 0x0⟩
/-- I2CM_COUNTS.CLEARS (R584). -/
def F.I2CM_COUNTS_CLEARS : Fld := ⟨21, 0x050, 1, 4, 0, 16, .rc, 0x0⟩
/-- I2CM_AVS (R584), offset 0x054. -/
def F.I2CM_AVS_VOUT_EXP : Fld := ⟨21, 0x054, 1, 4, 24, 5, .ro, 0x0⟩
/-- I2CM_AVS.PAGE_EN (R584). -/
def F.I2CM_AVS_PAGE_EN : Fld := ⟨21, 0x054, 1, 4, 16, 1, .rw, 0x0⟩
/-- I2CM_AVS.PAGE (R584). -/
def F.I2CM_AVS_PAGE : Fld := ⟨21, 0x054, 1, 4, 8, 8, .rw, 0x0⟩
/-- I2CM_AVS.ADDR (R584). -/
def F.I2CM_AVS_ADDR : Fld := ⟨21, 0x054, 1, 4, 0, 7, .rw, 0x0⟩
/-- I2CM_TXBUF (R584), offset 0x080. -/
def F.I2CM_TXBUF_DATA : Fld := ⟨21, 0x080, 8, 4, 0, 32, .rw, 0x0⟩
/-- I2CM_RXBUF (R584), offset 0x0A0. -/
def F.I2CM_RXBUF_DATA : Fld := ⟨21, 0x0A0, 8, 4, 0, 32, .ro, 0x0⟩

/-- Every field of the I2CM page beyond the common header. -/
def fields_i2cm : List Fld :=
  [F.I2CM_CTRL_CLR_TRIES, F.I2CM_CTRL_RETRY, F.I2CM_CTRL_PEC, F.I2CM_CTRL_SPEED, F.I2CM_CTRL_EN, F.I2CM_STAT_SCL, F.I2CM_STAT_SDA, F.I2CM_STAT_BUS_STUCK, F.I2CM_STAT_CLEARING, F.I2CM_STAT_BUSY, F.I2CM_XFER_GO, F.I2CM_XFER_RLEN] ++
  [F.I2CM_XFER_WLEN, F.I2CM_XFER_ADDR, F.I2CM_RESULT_RCOUNT, F.I2CM_RESULT_TRIES, F.I2CM_RESULT_STATUS, F.I2CM_COUNTS_ERR, F.I2CM_COUNTS_CLEARS, F.I2CM_AVS_VOUT_EXP, F.I2CM_AVS_PAGE_EN, F.I2CM_AVS_PAGE, F.I2CM_AVS_ADDR, F.I2CM_TXBUF_DATA] ++
  [F.I2CM_RXBUF_DATA]

/-! ## SMBT -/

/-- SMBT_CTRL (R585), offset 0x040. -/
def F.SMBT_CTRL_ADDR : Fld := ⟨22, 0x040, 1, 4, 8, 7, .rwl, 0x1D⟩
/-- SMBT_CTRL.EN (R585). -/
def F.SMBT_CTRL_EN : Fld := ⟨22, 0x040, 1, 4, 0, 1, .rw, 0x1⟩
/-- SMBT_STAT (R585), offset 0x044. -/
def F.SMBT_STAT_BUSY : Fld := ⟨22, 0x044, 1, 4, 8, 1, .ro, 0x0⟩
/-- SMBT_STAT.EID (R585). -/
def F.SMBT_STAT_EID : Fld := ⟨22, 0x044, 1, 4, 0, 8, .ro, 0x0⟩
/-- SMBT_COUNTS (R585), offset 0x048. -/
def F.SMBT_COUNTS_PEC_ERR : Fld := ⟨22, 0x048, 1, 4, 16, 16, .rc, 0x0⟩
/-- SMBT_COUNTS.DROPPED (R585). -/
def F.SMBT_COUNTS_DROPPED : Fld := ⟨22, 0x048, 1, 4, 0, 16, .rc, 0x0⟩

/-- Every field of the SMBT page beyond the common header. -/
def fields_smbt : List Fld :=
  [F.SMBT_CTRL_ADDR, F.SMBT_CTRL_EN, F.SMBT_STAT_BUSY, F.SMBT_STAT_EID, F.SMBT_COUNTS_PEC_ERR, F.SMBT_COUNTS_DROPPED]

/-! ## RAS -/

/-- RAS_CTRL (R607), offset 0x040. -/
def F.RAS_CTRL_DIAG_EN : Fld := ⟨26, 0x040, 1, 4, 1, 1, .rw, 0x1⟩
/-- RAS_CTRL.FAIL_STOP (R607). -/
def F.RAS_CTRL_FAIL_STOP : Fld := ⟨26, 0x040, 1, 4, 0, 1, .rwl, 0x1⟩
/-- RAS_STAT (R607), offset 0x044. -/
def F.RAS_STAT_FAIL_STOPPED : Fld := ⟨26, 0x044, 1, 4, 17, 1, .ro, 0x0⟩
/-- RAS_STAT.DEVICE_FAULT (R607). -/
def F.RAS_STAT_DEVICE_FAULT : Fld := ⟨26, 0x044, 1, 4, 16, 1, .ro, 0x0⟩
/-- RAS_STAT.TAKEOVER (R607). -/
def F.RAS_STAT_TAKEOVER : Fld := ⟨26, 0x044, 1, 4, 0, 16, .ro, 0x0⟩
/-- RAS_FLOG_SEL (R607), offset 0x048. -/
def F.RAS_FLOG_SEL_ENTRY : Fld := ⟨26, 0x048, 1, 4, 0, 4, .rw, 0x0⟩
/-- RAS_FLOG0 (R607), offset 0x04C. -/
def F.RAS_FLOG0_VALID : Fld := ⟨26, 0x04C, 1, 4, 31, 1, .ro, 0x0⟩
/-- RAS_FLOG0.KIND (R607). -/
def F.RAS_FLOG0_KIND : Fld := ⟨26, 0x04C, 1, 4, 16, 8, .ro, 0x0⟩
/-- RAS_FLOG0.CLASS (R607). -/
def F.RAS_FLOG0_CLASS : Fld := ⟨26, 0x04C, 1, 4, 14, 2, .ro, 0x0⟩
/-- RAS_FLOG0.TYPE (R607). -/
def F.RAS_FLOG0_TYPE : Fld := ⟨26, 0x04C, 1, 4, 8, 6, .ro, 0x0⟩
/-- RAS_FLOG0.INSTANCE (R607). -/
def F.RAS_FLOG0_INSTANCE : Fld := ⟨26, 0x04C, 1, 4, 0, 7, .ro, 0x0⟩
/-- RAS_FLOG1 (R607), offset 0x050. -/
def F.RAS_FLOG1_TURN : Fld := ⟨26, 0x050, 1, 4, 0, 32, .ro, 0x0⟩
/-- RAS_FLOG2 (R607), offset 0x054. -/
def F.RAS_FLOG2_DETAIL : Fld := ⟨26, 0x054, 1, 4, 0, 32, .ro, 0x0⟩
/-- RAS_FLOG_CTRL (R607), offset 0x058. -/
def F.RAS_FLOG_CTRL_OVF : Fld := ⟨26, 0x058, 1, 4, 16, 16, .rc, 0x0⟩
/-- RAS_FLOG_CTRL.FILL (R607). -/
def F.RAS_FLOG_CTRL_FILL : Fld := ⟨26, 0x058, 1, 4, 8, 8, .ro, 0x0⟩
/-- RAS_FLOG_CTRL.CLEAR (R607). -/
def F.RAS_FLOG_CTRL_CLEAR : Fld := ⟨26, 0x058, 1, 4, 0, 1, .wo, 0x0⟩
/-- RAS_COUNTS (R607), offset 0x05C. -/
def F.RAS_COUNTS_TAKEOVER : Fld := ⟨26, 0x05C, 1, 4, 24, 8, .rc, 0x0⟩
/-- RAS_COUNTS.DEGRADED (R607). -/
def F.RAS_COUNTS_DEGRADED : Fld := ⟨26, 0x05C, 1, 4, 16, 8, .rc, 0x0⟩
/-- RAS_COUNTS.WAIT_ABORT (R607). -/
def F.RAS_COUNTS_WAIT_ABORT : Fld := ⟨26, 0x05C, 1, 4, 8, 8, .rc, 0x0⟩
/-- RAS_COUNTS.DEVICE (R607). -/
def F.RAS_COUNTS_DEVICE : Fld := ⟨26, 0x05C, 1, 4, 0, 8, .rc, 0x0⟩
/-- RAS_SHED (R607), offset 0x060. -/
def F.RAS_SHED_SHED : Fld := ⟨26, 0x060, 1, 4, 16, 16, .rc, 0x0⟩
/-- RAS_SHED.PLACED (R607). -/
def F.RAS_SHED_PLACED : Fld := ⟨26, 0x060, 1, 4, 0, 16, .rc, 0x0⟩
/-- RAS_TO_TIME (R607), offset 0x064. -/
def F.RAS_TO_TIME_MAX : Fld := ⟨26, 0x064, 1, 4, 16, 16, .rc, 0x0⟩
/-- RAS_TO_TIME.LAST (R607). -/
def F.RAS_TO_TIME_LAST : Fld := ⟨26, 0x064, 1, 4, 0, 16, .ro, 0x0⟩
/-- RAS_BARRIER (R607), offset 0x070. -/
def F.RAS_BARRIER_GO : Fld := ⟨26, 0x070, 1, 4, 31, 1, .w1s, 0x0⟩
/-- RAS_MIR (R607), offset 0x100. -/
def F.RAS_MIR_EN : Fld := ⟨26, 0x100, 16, 16, 31, 1, .rw, 0x0⟩
/-- RAS_MIR.PA (R607). -/
def F.RAS_MIR_PA : Fld := ⟨26, 0x100, 16, 16, 0, 20, .rw, 0x0⟩
/-- RAS_RES_PA (R607), offset 0x104. -/
def F.RAS_RES_PA_PA : Fld := ⟨26, 0x104, 16, 16, 0, 20, .rw, 0x0⟩
/-- RAS_RES_CTRL (R607), offset 0x108. -/
def F.RAS_RES_CTRL_GO : Fld := ⟨26, 0x108, 16, 16, 31, 1, .w1s, 0x0⟩
/-- RAS_RES_CTRL.BUSY (R607). -/
def F.RAS_RES_CTRL_BUSY : Fld := ⟨26, 0x108, 16, 16, 30, 1, .ro, 0x0⟩
/-- RAS_RES_CTRL.COUNT (R607). -/
def F.RAS_RES_CTRL_COUNT : Fld := ⟨26, 0x108, 16, 16, 0, 17, .rw, 0x0⟩
/-- RAS_RES_STAT (R607), offset 0x10C. -/
def F.RAS_RES_STAT_FAILED : Fld := ⟨26, 0x10C, 16, 16, 17, 15, .ro, 0x0⟩
/-- RAS_RES_STAT.APPLIED (R607). -/
def F.RAS_RES_STAT_APPLIED : Fld := ⟨26, 0x10C, 16, 16, 0, 17, .ro, 0x0⟩

/-- Every field of the RAS page beyond the common header. -/
def fields_ras : List Fld :=
  [F.RAS_CTRL_DIAG_EN, F.RAS_CTRL_FAIL_STOP, F.RAS_STAT_FAIL_STOPPED, F.RAS_STAT_DEVICE_FAULT, F.RAS_STAT_TAKEOVER, F.RAS_FLOG_SEL_ENTRY, F.RAS_FLOG0_VALID, F.RAS_FLOG0_KIND, F.RAS_FLOG0_CLASS, F.RAS_FLOG0_TYPE, F.RAS_FLOG0_INSTANCE, F.RAS_FLOG1_TURN] ++
  [F.RAS_FLOG2_DETAIL, F.RAS_FLOG_CTRL_OVF, F.RAS_FLOG_CTRL_FILL, F.RAS_FLOG_CTRL_CLEAR, F.RAS_COUNTS_TAKEOVER, F.RAS_COUNTS_DEGRADED, F.RAS_COUNTS_WAIT_ABORT, F.RAS_COUNTS_DEVICE, F.RAS_SHED_SHED, F.RAS_SHED_PLACED, F.RAS_TO_TIME_MAX, F.RAS_TO_TIME_LAST] ++
  [F.RAS_BARRIER_GO, F.RAS_MIR_EN, F.RAS_MIR_PA, F.RAS_RES_PA_PA, F.RAS_RES_CTRL_GO, F.RAS_RES_CTRL_BUSY, F.RAS_RES_CTRL_COUNT, F.RAS_RES_STAT_FAILED, F.RAS_RES_STAT_APPLIED]

/-! ## HDR -/

/-- BLK_GROUP (R498), offset 0x00C. -/
def F.BLK_GROUP_G : Fld := ⟨31, 0x00C, 1, 4, 0, 32, .rw, 0x0⟩
/-- BLK_CTRL (R498), offset 0x010. -/
def F.BLK_CTRL_LOCK : Fld := ⟨31, 0x010, 1, 4, 31, 1, .w1s, 0x0⟩
/-- BLK_CTRL.ERRLOG_CLR (R498). -/
def F.BLK_CTRL_ERRLOG_CLR : Fld := ⟨31, 0x010, 1, 4, 0, 1, .wo, 0x0⟩
/-- BLK_ICAUSE (R350), offset 0x018. -/
def F.BLK_ICAUSE_CAUSE : Fld := ⟨31, 0x018, 1, 4, 0, 32, .w1c, 0x0⟩
/-- BLK_IMASK (R498), offset 0x01C. -/
def F.BLK_IMASK_MASK : Fld := ⟨31, 0x01C, 1, 4, 0, 32, .rw, 0x0⟩
/-- BLK_IFORCE (R498), offset 0x020. -/
def F.BLK_IFORCE_FORCE : Fld := ⟨31, 0x020, 1, 4, 0, 32, .wo, 0x0⟩
/-- BLK_ERRLOG0 (R498), offset 0x028. -/
def F.BLK_ERRLOG0_VALID : Fld := ⟨31, 0x028, 1, 4, 31, 1, .w1c, 0x0⟩
/-- BLK_ERRLOG0.KIND (R498). -/
def F.BLK_ERRLOG0_KIND : Fld := ⟨31, 0x028, 1, 4, 16, 4, .ro, 0x0⟩
/-- BLK_ERRLOG0.FUNC (R498). -/
def F.BLK_ERRLOG0_FUNC : Fld := ⟨31, 0x028, 1, 4, 8, 8, .ro, 0x0⟩
/-- BLK_ERRLOG1 (R498), offset 0x02C. -/
def F.BLK_ERRLOG1_ADDR : Fld := ⟨31, 0x02C, 1, 4, 0, 27, .ro, 0x0⟩
/-- BLK_ERRLOG2 (R498), offset 0x030. -/
def F.BLK_ERRLOG2_DATA : Fld := ⟨31, 0x030, 1, 4, 0, 32, .ro, 0x0⟩
/-- BLK_ERRLOG3 (R498), offset 0x034. -/
def F.BLK_ERRLOG3_COUNT : Fld := ⟨31, 0x034, 1, 4, 0, 16, .rc, 0x0⟩

/-- Every field of the HDR page that the page holds itself (the common header, R498). -/
def fields_hdr : List Fld :=
  [F.BLK_GROUP_G, F.BLK_CTRL_LOCK, F.BLK_CTRL_ERRLOG_CLR, F.BLK_ICAUSE_CAUSE, F.BLK_IMASK_MASK, F.BLK_IFORCE_FORCE, F.BLK_ERRLOG0_VALID, F.BLK_ERRLOG0_KIND, F.BLK_ERRLOG0_FUNC, F.BLK_ERRLOG1_ADDR, F.BLK_ERRLOG2_DATA, F.BLK_ERRLOG3_COUNT]

/-! ## 64-bit pairs (R14) -/

/-- CANAL_FLITS (R91). -/
def C.CANAL_FLITS : Ctr := ⟨2, 0xC50, true⟩
/-- MILL_IBUNDLES (R151). -/
def C.MILL_IBUNDLES : Ctr := ⟨1, 0x060, true⟩
/-- MILL_WAITS (R151). -/
def C.MILL_WAITS : Ctr := ⟨1, 0x068, true⟩
/-- BOLT_SS (R290). -/
def C.BOLT_SS : Ctr := ⟨1, 0x220, true⟩
/-- BOLT_JOBS (R290). -/
def C.BOLT_JOBS : Ctr := ⟨1, 0x228, true⟩
/-- HOPPER_IN (R206). -/
def C.HOPPER_IN : Ctr := ⟨1, 0x408, true⟩
/-- HOPPER_OUT (R206). -/
def C.HOPPER_OUT : Ctr := ⟨1, 0x410, true⟩
/-- MILLER_TURN (R195). -/
def C.MILLER_TURN : Ctr := ⟨4, 0x048, false⟩
/-- MILLER_MISS (R198). -/
def C.MILLER_MISS : Ctr := ⟨4, 0x060, true⟩
/-- MILLER_REEXEC (R198). -/
def C.MILLER_REEXEC : Ctr := ⟨4, 0x068, true⟩
/-- CLS_LOOKUPS (R347). -/
def C.CLS_LOOKUPS : Ctr := ⟨8, 0x058, true⟩
/-- CLS_NOMATCH (R347). -/
def C.CLS_NOMATCH : Ctr := ⟨8, 0x060, true⟩
/-- STREAM_RX (R349). -/
def C.STREAM_RX : Ctr := ⟨9, 0x048, true⟩
/-- STREAM_TX (R349). -/
def C.STREAM_TX : Ctr := ⟨9, 0x050, true⟩
/-- SPILL_SWEIR (R352). -/
def C.SPILL_SWEIR : Ctr := ⟨10, 0x208, true⟩
/-- SPILL_PWEIR (R352). -/
def C.SPILL_PWEIR : Ctr := ⟨10, 0x210, true⟩
/-- SPILL_EWEIR (R352). -/
def C.SPILL_EWEIR : Ctr := ⟨10, 0x218, true⟩
/-- SPILL_QFULL (R352). -/
def C.SPILL_QFULL : Ctr := ⟨10, 0x220, true⟩
/-- SPILL_POISON (R352). -/
def C.SPILL_POISON : Ctr := ⟨10, 0x228, true⟩
/-- SPILL_LINK (R352). -/
def C.SPILL_LINK : Ctr := ⟨10, 0x230, true⟩
/-- SPILL_RESET (R352). -/
def C.SPILL_RESET : Ctr := ⟨10, 0x238, true⟩
/-- RX_FRAMES (R388). -/
def C.RX_FRAMES : Ctr := ⟨11, 0x080, true⟩
/-- RX_OCTETS (R388). -/
def C.RX_OCTETS : Ctr := ⟨11, 0x088, true⟩
/-- TX_FRAMES (R388). -/
def C.TX_FRAMES : Ctr := ⟨11, 0x090, true⟩
/-- TX_OCTETS (R388). -/
def C.TX_OCTETS : Ctr := ⟨11, 0x098, true⟩
/-- LEDGER_SEQ (R463). -/
def C.LEDGER_SEQ : Ctr := ⟨17, 0x048, false⟩
/-- VORAK_CMDS (R527). -/
def C.VORAK_CMDS : Ctr := ⟨23, 0x050, true⟩
/-- PRESS_JOBS (R548). -/
def C.PRESS_JOBS : Ctr := ⟨16, 0x058, true⟩

/-- The pairs of a block type. -/
def ctrsOf (t : Nat) : List Ctr :=
  match t with
  | 2 => [C.CANAL_FLITS]
  | 1 => [C.MILL_IBUNDLES, C.MILL_WAITS, C.BOLT_SS, C.BOLT_JOBS, C.HOPPER_IN, C.HOPPER_OUT]
  | 4 => [C.MILLER_TURN, C.MILLER_MISS, C.MILLER_REEXEC]
  | 8 => [C.CLS_LOOKUPS, C.CLS_NOMATCH]
  | 9 => [C.STREAM_RX, C.STREAM_TX]
  | 10 => [C.SPILL_SWEIR, C.SPILL_PWEIR, C.SPILL_EWEIR, C.SPILL_QFULL, C.SPILL_POISON, C.SPILL_LINK, C.SPILL_RESET]
  | 11 => [C.RX_FRAMES, C.RX_OCTETS, C.TX_FRAMES, C.TX_OCTETS]
  | 17 => [C.LEDGER_SEQ]
  | 23 => [C.VORAK_CMDS]
  | 16 => [C.PRESS_JOBS]
  | _ => []

/-- The fields of a block type beyond the common header. -/
def fieldsOf (t : Nat) : List Fld :=
  match t with
  | 0 => fields_device
  | 1 => fields_mill
  | 2 => fields_row
  | 3 => fields_half
  | 4 => fields_miller
  | 5 => fields_pond
  | 6 => fields_hbmc
  | 7 => fields_dike
  | 8 => fields_classifier
  | 9 => fields_stream
  | 10 => fields_queue
  | 11 => fields_mac
  | 12 => fields_mgmac
  | 13 => fields_serdes
  | 14 => fields_sluice
  | 15 => fields_tide
  | 16 => fields_press
  | 17 => fields_ledger
  | 18 => fields_scrub
  | 19 => fields_power
  | 20 => fields_trust
  | 21 => fields_i2cm
  | 22 => fields_smbt
  | 23 => fields_vorak
  | 24 => fields_vane
  | 25 => fields_pcie
  | 26 => fields_ras
  | _ => []

/-- How many instances a block type has (R17): zero for the codes not used. -/
def instances (t : Nat) : Nat :=
  match t with
  | 0 => 1
  | 1 => 80
  | 2 => 16
  | 3 => 2
  | 4 => 2
  | 5 => 32
  | 6 => 32
  | 7 => 16
  | 8 => 2
  | 9 => 2
  | 10 => 1
  | 11 => 16
  | 12 => 1
  | 13 => 16
  | 14 => 16
  | 15 => 1
  | 16 => 1
  | 17 => 1
  | 18 => 2
  | 19 => 1
  | 20 => 1
  | 21 => 2
  | 22 => 1
  | 23 => 16
  | 24 => 2
  | 25 => 1
  | 26 => 1
  | _ => 0

/-! ## Interrupt causes: the bit numbers of BLK_ICAUSE -/

/-- STREAM BLK_ICAUSE.KEY_EXPIRING (R350). -/
def I.STREAM_KEY_EXPIRING : Nat := 0
/-- STREAM BLK_ICAUSE.KEY_EXHAUSTED (R350). -/
def I.STREAM_KEY_EXHAUSTED : Nat := 1
/-- STREAM BLK_ICAUSE.CTX_POISON (R350). -/
def I.STREAM_CTX_POISON : Nat := 2
/-- QUEUE BLK_ICAUSE.UNDERRUN (R352). -/
def I.QUEUE_UNDERRUN : Nat := 0
/-- QUEUE BLK_ICAUSE.POOL_EMPTY (R352). -/
def I.QUEUE_POOL_EMPTY : Nat := 1
/-- QUEUE BLK_ICAUSE.POISON (R352). -/
def I.QUEUE_POISON : Nat := 2
/-- SERDES BLK_ICAUSE.LOCK_LOSS (R389). -/
def I.SERDES_LOCK_LOSS : Nat := 0
/-- SERDES BLK_ICAUSE.AN_DONE (R389). -/
def I.SERDES_AN_DONE : Nat := 1
/-- SERDES BLK_ICAUSE.LT_FAIL (R389). -/
def I.SERDES_LT_FAIL : Nat := 2
/-- SLUICE BLK_ICAUSE.SWAP_DONE (R392). -/
def I.SLUICE_SWAP_DONE : Nat := 0
/-- SLUICE BLK_ICAUSE.SWAP_REFUSED (R392). -/
def I.SLUICE_SWAP_REFUSED : Nat := 1
/-- SLUICE BLK_ICAUSE.STEP_REALIGN (R392). -/
def I.SLUICE_STEP_REALIGN : Nat := 2
/-- MGMAC BLK_ICAUSE.TX_DONE (R394). -/
def I.MGMAC_TX_DONE : Nat := 0
/-- MGMAC BLK_ICAUSE.RX_DONE (R394). -/
def I.MGMAC_RX_DONE : Nat := 1
/-- MGMAC BLK_ICAUSE.ERR (R394). -/
def I.MGMAC_ERR : Nat := 2
/-- MGMAC BLK_ICAUSE.MDIO_DONE (R394). -/
def I.MGMAC_MDIO_DONE : Nat := 3
/-- HBMC BLK_ICAUSE.CE (R460). -/
def I.HBMC_CE : Nat := 0
/-- HBMC BLK_ICAUSE.UE (R460). -/
def I.HBMC_UE : Nat := 1
/-- HBMC BLK_ICAUSE.LOG_OVF (R460). -/
def I.HBMC_LOG_OVF : Nat := 2
/-- HBMC BLK_ICAUSE.RETIRE_DONE (R460). -/
def I.HBMC_RETIRE_DONE : Nat := 3
/-- HBMC BLK_ICAUSE.TORN (R460). -/
def I.HBMC_TORN : Nat := 4
/-- POND BLK_ICAUSE.CE (R461). -/
def I.POND_CE : Nat := 0
/-- POND BLK_ICAUSE.UE (R461). -/
def I.POND_UE : Nat := 1
/-- POND BLK_ICAUSE.LOG_OVF (R461). -/
def I.POND_LOG_OVF : Nat := 2
/-- POND BLK_ICAUSE.TORN (R461). -/
def I.POND_TORN : Nat := 3
/-- SCRUB BLK_ICAUSE.PASS_DONE (R462). -/
def I.SCRUB_PASS_DONE : Nat := 0
/-- SCRUB BLK_ICAUSE.UE (R462). -/
def I.SCRUB_UE : Nat := 1
/-- LEDGER BLK_ICAUSE.READY (R463). -/
def I.LEDGER_READY : Nat := 0
/-- LEDGER BLK_ICAUSE.PWRFAIL (R463). -/
def I.LEDGER_PWRFAIL : Nat := 1
/-- LEDGER BLK_ICAUSE.REFUSED (R463). -/
def I.LEDGER_REFUSED : Nat := 2
/-- LEDGER BLK_ICAUSE.UE (R463). -/
def I.LEDGER_UE : Nat := 3
/-- PCIE BLK_ICAUSE.FLR_DONE (R525). -/
def I.PCIE_FLR_DONE : Nat := 0
/-- PCIE BLK_ICAUSE.LINK_DOWN (R525). -/
def I.PCIE_LINK_DOWN : Nat := 1
/-- PCIE BLK_ICAUSE.POISONED (R525). -/
def I.PCIE_POISONED : Nat := 2
/-- PCIE BLK_ICAUSE.CTO (R525). -/
def I.PCIE_CTO : Nat := 3
/-- VORAK BLK_ICAUSE.RING_ERR (R527). -/
def I.VORAK_RING_ERR : Nat := 0
/-- VORAK BLK_ICAUSE.NOTICE_LOST (R527). -/
def I.VORAK_NOTICE_LOST : Nat := 1
/-- TRUST BLK_ICAUSE.BOOT_DONE (R581). -/
def I.TRUST_BOOT_DONE : Nat := 0
/-- TRUST BLK_ICAUSE.BOOT_FALLBACK (R581). -/
def I.TRUST_BOOT_FALLBACK : Nat := 1
/-- TRUST BLK_ICAUSE.RECOVERY (R581). -/
def I.TRUST_RECOVERY : Nat := 2
/-- TRUST BLK_ICAUSE.DEBUG_UNLOCKED (R581). -/
def I.TRUST_DEBUG_UNLOCKED : Nat := 3
/-- TRUST BLK_ICAUSE.RNG_FAIL (R581). -/
def I.TRUST_RNG_FAIL : Nat := 4
/-- TRUST BLK_ICAUSE.FW_STAGED (R581). -/
def I.TRUST_FW_STAGED : Nat := 5
/-- POWER BLK_ICAUSE.PWRFAIL (R583). -/
def I.POWER_PWRFAIL : Nat := 0
/-- POWER BLK_ICAUSE.PWRFAIL_GLITCH (R583). -/
def I.POWER_PWRFAIL_GLITCH : Nat := 1
/-- POWER BLK_ICAUSE.WAKE_QUEUED (R583). -/
def I.POWER_WAKE_QUEUED : Nat := 2
/-- POWER BLK_ICAUSE.DOM_FAULT (R583). -/
def I.POWER_DOM_FAULT : Nat := 3
/-- I2CM BLK_ICAUSE.DONE (R584). -/
def I.I2CM_DONE : Nat := 0
/-- I2CM BLK_ICAUSE.ERR (R584). -/
def I.I2CM_ERR : Nat := 1
/-- I2CM BLK_ICAUSE.BUS_STUCK (R584). -/
def I.I2CM_BUS_STUCK : Nat := 2
/-- I2CM BLK_ICAUSE.TIMEOUT (R584). -/
def I.I2CM_TIMEOUT : Nat := 3
/-- SMBT BLK_ICAUSE.EID_SET (R585). -/
def I.SMBT_EID_SET : Nat := 0
/-- SMBT BLK_ICAUSE.PEC_ERR (R585). -/
def I.SMBT_PEC_ERR : Nat := 1
/-- SMBT BLK_ICAUSE.TIMEOUT (R585). -/
def I.SMBT_TIMEOUT : Nat := 2
/-- VANE BLK_ICAUSE.TICK_LOSS (R77). -/
def I.VANE_TICK_LOSS : Nat := 5
/-- VANE BLK_ICAUSE.AVS_FAULT (R77). -/
def I.VANE_AVS_FAULT : Nat := 4
/-- VANE BLK_ICAUSE.AVS_LIMIT (R77). -/
def I.VANE_AVS_LIMIT : Nat := 3
/-- VANE BLK_ICAUSE.PACE_DROP (R77). -/
def I.VANE_PACE_DROP : Nat := 2
/-- VANE BLK_ICAUSE.PACE_FLOOR (R77). -/
def I.VANE_PACE_FLOOR : Nat := 1
/-- VANE BLK_ICAUSE.PACE_LOW (R77). -/
def I.VANE_PACE_LOW : Nat := 0
/-- MILL BLK_ICAUSE.WIN_DENIED (R146). -/
def I.MILL_WIN_DENIED : Nat := 3
/-- MILL BLK_ICAUSE.IC_REFILL (R146). -/
def I.MILL_IC_REFILL : Nat := 2
/-- MILL BLK_ICAUSE.HALTED (R146). -/
def I.MILL_HALTED : Nat := 1
/-- MILL BLK_ICAUSE.PFAULT (R146). -/
def I.MILL_PFAULT : Nat := 0
/-- MILLER BLK_ICAUSE.RESERVE_REFUSED (R192). -/
def I.MILLER_RESERVE_REFUSED : Nat := 4
/-- MILLER BLK_ICAUSE.MARK_LOSS (R192). -/
def I.MILLER_MARK_LOSS : Nat := 3
/-- MILLER BLK_ICAUSE.OVERRUN (R192). -/
def I.MILLER_OVERRUN : Nat := 2
/-- MILLER BLK_ICAUSE.WU_FAILED (R192). -/
def I.MILLER_WU_FAILED : Nat := 1
/-- MILLER BLK_ICAUSE.DEADLINE_MISS (R192). -/
def I.MILLER_DEADLINE_MISS : Nat := 0
/-- CLASSIFIER BLK_ICAUSE.STASH_HIGH (R345). -/
def I.CLASSIFIER_STASH_HIGH : Nat := 3
/-- CLASSIFIER BLK_ICAUSE.PSLOT (R345). -/
def I.CLASSIFIER_PSLOT : Nat := 2
/-- CLASSIFIER BLK_ICAUSE.LOOKUP_BUSY (R345). -/
def I.CLASSIFIER_LOOKUP_BUSY : Nat := 1
/-- CLASSIFIER BLK_ICAUSE.DIVERGE_MAJOR (R345). -/
def I.CLASSIFIER_DIVERGE_MAJOR : Nat := 0
/-- MAC BLK_ICAUSE.SAF_REACHED (R384). -/
def I.MAC_SAF_REACHED : Nat := 3
/-- MAC BLK_ICAUSE.UNDERRUN (R384). -/
def I.MAC_UNDERRUN : Nat := 2
/-- MAC BLK_ICAUSE.FAULT (R384). -/
def I.MAC_FAULT : Nat := 1
/-- MAC BLK_ICAUSE.LINK_CHANGE (R384). -/
def I.MAC_LINK_CHANGE : Nat := 0
/-- TIDE BLK_ICAUSE.PULSE_SUPPRESSED (R419). -/
def I.TIDE_PULSE_SUPPRESSED : Nat := 8
/-- TIDE BLK_ICAUSE.TS_OVF (R419). -/
def I.TIDE_TS_OVF : Nat := 7
/-- TIDE BLK_ICAUSE.REF_LOSS (R419). -/
def I.TIDE_REF_LOSS : Nat := 6
/-- TIDE BLK_ICAUSE.SRC_SWITCH (R419). -/
def I.TIDE_SRC_SWITCH : Nat := 5
/-- TIDE BLK_ICAUSE.LOCKED (R419). -/
def I.TIDE_LOCKED : Nat := 4
/-- TIDE BLK_ICAUSE.HO_EXPIRED (R419). -/
def I.TIDE_HO_EXPIRED : Nat := 3
/-- TIDE BLK_ICAUSE.HOLDOVER (R419). -/
def I.TIDE_HOLDOVER : Nat := 2
/-- TIDE BLK_ICAUSE.STEP_DONE (R419). -/
def I.TIDE_STEP_DONE : Nat := 1
/-- TIDE BLK_ICAUSE.JUMP_REFUSED (R419). -/
def I.TIDE_JUMP_REFUSED : Nat := 0
/-- DIKE BLK_ICAUSE.STRICT_LOST (R487). -/
def I.DIKE_STRICT_LOST : Nat := 4
/-- DIKE BLK_ICAUSE.STATE_CHANGE (R487). -/
def I.DIKE_STATE_CHANGE : Nat := 3
/-- DIKE BLK_ICAUSE.ZERO_DONE (R487). -/
def I.DIKE_ZERO_DONE : Nat := 2
/-- DIKE BLK_ICAUSE.STALE (R487). -/
def I.DIKE_STALE : Nat := 1
/-- DIKE BLK_ICAUSE.WALK_FAULT (R487). -/
def I.DIKE_WALK_FAULT : Nat := 0
/-- PRESS BLK_ICAUSE.MIRROR_LATE (R547). -/
def I.PRESS_MIRROR_LATE : Nat := 3
/-- PRESS BLK_ICAUSE.MEM_ERR (R547). -/
def I.PRESS_MEM_ERR : Nat := 2
/-- PRESS BLK_ICAUSE.RING_ERR (R547). -/
def I.PRESS_RING_ERR : Nat := 1
/-- PRESS BLK_ICAUSE.JOB_ERR (R547). -/
def I.PRESS_JOB_ERR : Nat := 0
/-- RAS BLK_ICAUSE.MIRROR_SKIP (R606). -/
def I.RAS_MIRROR_SKIP : Nat := 7
/-- RAS BLK_ICAUSE.RESUME_DONE (R606). -/
def I.RAS_RESUME_DONE : Nat := 6
/-- RAS BLK_ICAUSE.DIAG_DONE (R606). -/
def I.RAS_DIAG_DONE : Nat := 5
/-- RAS BLK_ICAUSE.WAIT_ABORT (R606). -/
def I.RAS_WAIT_ABORT : Nat := 4
/-- RAS BLK_ICAUSE.DEVICE_FAULT (R606). -/
def I.RAS_DEVICE_FAULT : Nat := 3
/-- RAS BLK_ICAUSE.DEGRADED (R606). -/
def I.RAS_DEGRADED : Nat := 2
/-- RAS BLK_ICAUSE.TAKEOVER_DONE (R606). -/
def I.RAS_TAKEOVER_DONE : Nat := 1
/-- RAS BLK_ICAUSE.MILL_FAULT (R606). -/
def I.RAS_MILL_FAULT : Nat := 0

/-- The defined bits of BLK_ICAUSE of a block type. -/
def causeMask (t : Nat) : Nat :=
  match t with
  | 9 => 0x7
  | 10 => 0x7
  | 13 => 0x7
  | 14 => 0x7
  | 12 => 0xF
  | 6 => 0x1F
  | 5 => 0xF
  | 18 => 0x3
  | 17 => 0xF
  | 25 => 0xF
  | 23 => 0x3
  | 20 => 0x3F
  | 19 => 0xF
  | 21 => 0xF
  | 22 => 0x7
  | 24 => 0x3F
  | 1 => 0xF
  | 4 => 0x1F
  | 8 => 0xF
  | 11 => 0xF
  | 15 => 0x1FF
  | 7 => 0x1F
  | 16 => 0xF
  | 26 => 0xFF
  | _ => 0

/-! ## Block type codes (R17) -/

/-- Block type code of DEVICE (R17). -/
def T.device : Nat := 0
/-- Block type code of MILL (R17). -/
def T.mill : Nat := 1
/-- Block type code of ROW (R17). -/
def T.row : Nat := 2
/-- Block type code of HALF (R17). -/
def T.half : Nat := 3
/-- Block type code of MILLER (R17). -/
def T.miller : Nat := 4
/-- Block type code of POND (R17). -/
def T.pond : Nat := 5
/-- Block type code of HBMC (R17). -/
def T.hbmc : Nat := 6
/-- Block type code of DIKE (R17). -/
def T.dike : Nat := 7
/-- Block type code of CLASSIFIER (R17). -/
def T.classifier : Nat := 8
/-- Block type code of STREAM (R17). -/
def T.stream : Nat := 9
/-- Block type code of QUEUE (R17). -/
def T.queue : Nat := 10
/-- Block type code of MAC (R17). -/
def T.mac : Nat := 11
/-- Block type code of MGMAC (R17). -/
def T.mgmac : Nat := 12
/-- Block type code of SERDES (R17). -/
def T.serdes : Nat := 13
/-- Block type code of SLUICE (R17). -/
def T.sluice : Nat := 14
/-- Block type code of TIDE (R17). -/
def T.tide : Nat := 15
/-- Block type code of PRESS (R17). -/
def T.press : Nat := 16
/-- Block type code of LEDGER (R17). -/
def T.ledger : Nat := 17
/-- Block type code of SCRUB (R17). -/
def T.scrub : Nat := 18
/-- Block type code of POWER (R17). -/
def T.power : Nat := 19
/-- Block type code of TRUST (R17). -/
def T.trust : Nat := 20
/-- Block type code of I2CM (R17). -/
def T.i2cm : Nat := 21
/-- Block type code of SMBT (R17). -/
def T.smbt : Nat := 22
/-- Block type code of VORAK (R17). -/
def T.vorak : Nat := 23
/-- Block type code of VANE (R17). -/
def T.vane : Nat := 24
/-- Block type code of PCIE (R17). -/
def T.pcie : Nat := 25
/-- Block type code of RAS (R17). -/
def T.ras : Nat := 26

end Sys2Proof.Machine
end

