-- ==== Sys2Proof/Machine/Ops.lean ====
section
/-!
DEFINITION. The named operations every meaning is written over: bit fields, sparse tables and byte memories in their
canonical form, the registers of the pages with their reset values, saturating and 64-bit counters, the common page header
(R498) with its error log and interrupt causes, the RAS fault log, and the outputs of a command.
-/

namespace Sys2Proof.Machine

/-! ## Bit fields and words -/

/-- Bits lo + w − 1 to lo of a value. -/
def bitField (v lo w : Nat) : Nat := v / 2 ^ lo % 2 ^ w

/-- The value with bits lo + w − 1 to lo replaced by the low bits of x. -/
def setField (v lo w x : Nat) : Nat :=
  v - bitField v lo w * 2 ^ lo + x % 2 ^ w * 2 ^ lo

/-- One bit of a value. -/
def bitAt (v i : Nat) : Bool := v / 2 ^ i % 2 == 1

/-- A truth value as a bit. -/
def b2n (b : Bool) : Nat := if b then 1 else 0

/-- The value with bit i set. -/
def setBitN (v i : Nat) : Nat := if bitAt v i then v else v + 2 ^ i

/-- The value with bit i clear. -/
def clrBitN (v i : Nat) : Nat := if bitAt v i then v - 2 ^ i else v

/-- The two's complement reading of the low w bits of a value. -/
def signedOf (w v : Nat) : Int :=
  let x := v % 2 ^ w
  if x < 2 ^ (w - 1) then Int.ofNat x else Int.ofNat x - Int.ofNat (2 ^ w)

/-- The low w bits that hold an integer in two's complement. -/
def toBits (w : Nat) (x : Int) : Nat := (x % Int.ofNat (2 ^ w)).toNat

/-- The smallest whole number not below a / b. -/
def ceilDiv (a b : Nat) : Nat := (a + b - 1) / b

/-- A quotient held to a whole number where the spec states no rounding: one of its two neighbours (DESIGN CHOICE, log entry 60). -/
def roundDiv (a n : Int) : Int := a.fdiv n + (if a.emod n = 0 then 0 else if Config.roundUp a n then 1 else 0)

/-- A quotient rounded to the nearest whole number; which of two equally near is left open (DESIGN CHOICE, log entry 60). -/
def roundNear (a n : Int) : Int :=
  if 2 * (a.emod n) = n then a.fdiv n + (if Config.roundUp a n then 1 else 0) else (2 * a + n).fdiv (2 * n)

/-- Little-endian bytes of a value, n of them. -/
def leBytes (n v : Nat) : List Byte :=
  match n with
  | 0 => []
  | n + 1 => BitVec.ofNat 8 v :: leBytes n (v / 256)

/-- The value of little-endian bytes. -/
def ofLeBytes : List Byte → Nat
  | [] => 0
  | b :: bs => b.toNat + 256 * ofLeBytes bs

/-- The value of big-endian bytes. -/
def ofBeBytes (bs : List Byte) : Nat := ofLeBytes bs.reverse

/-- Bytes given as numbers. -/
def bytesOf (l : List Nat) : List Byte := l.map (BitVec.ofNat 8)

/-- Replaces element i of a list; the list is unchanged where it has no such element. -/
def setAt {α : Type} : List α → Nat → α → List α
  | [], _, _ => []
  | _ :: xs, 0, v => v :: xs
  | x :: xs, i + 1, v => x :: setAt xs i v

/-! ## Sparse tables -/

/-- The value at a key: the listed one, or the default of the key. -/
def Tab.get {α : Type} (d : Nat → α) : Tab α → Nat → α
  | [], k => d k
  | (a, v) :: m, k => if a = k then v else Tab.get d m k

/-- Puts an entry at its place. -/
def Tab.insert {α : Type} : Tab α → Nat → α → Tab α
  | [], k, v => [(k, v)]
  | (a, w) :: m, k, v =>
    if a = k then (k, v) :: m else if k < a then (k, v) :: (a, w) :: m else (a, w) :: Tab.insert m k v

/-- Takes the entry of a key out. -/
def Tab.erase {α : Type} : Tab α → Nat → Tab α
  | [], _ => []
  | (a, w) :: m, k => if a = k then Tab.erase m k else (a, w) :: Tab.erase m k

/-- Sets the value at a key and keeps the canonical form: a value equal to the default is not listed. -/
def Tab.set {α : Type} [DecidableEq α] (d : Nat → α) (m : Tab α) (k : Nat) (v : α) : Tab α :=
  if v = d k then Tab.erase m k else Tab.insert m k v

/-- Takes out every entry with lo ≤ key < hi: those keys hold their defaults again. -/
def Tab.clearRange {α : Type} (m : Tab α) (lo hi : Nat) : Tab α :=
  m.filter fun e => !(decide (lo ≤ e.1) && decide (e.1 < hi))

/-- Keys at least lo, strictly rising, and no entry equal to the default. -/
def Tab.wfFrom {α : Type} [DecidableEq α] (d : Nat → α) (lo : Nat) : Tab α → Bool
  | [] => true
  | (a, v) :: m => decide (lo ≤ a) && !decide (v = d a) && Tab.wfFrom d (a + 1) m

/-- The canonical form of a table. -/
def Tab.wf {α : Type} [DecidableEq α] (d : Nat → α) (m : Tab α) : Bool := Tab.wfFrom d 0 m

/-! ## Byte memories: unlisted addresses read as zero (log entry 4) -/

/-- The value an unlisted address of a memory reads as. Marks: DESIGN CHOICE unsafe (log entry 4). -/
def memDefault (_ : Nat) : Byte := 0

/-- One byte of a memory. Marks: DESIGN CHOICE unsafe (log entry 4). -/
def memByte (m : Tab Byte) (a : Nat) : Byte := Tab.get memDefault m a

/-- Writes one byte. -/
def memSet (m : Tab Byte) (a : Nat) (b : Byte) : Tab Byte := Tab.set memDefault m a b

/-- n bytes from an address upwards. -/
def memBytes (m : Tab Byte) (a : Nat) : Nat → List Byte
  | 0 => []
  | n + 1 => memByte m a :: memBytes m (a + 1) n

/-- Writes a list of bytes from an address upwards. -/
def memPut (m : Tab Byte) (a : Nat) : List Byte → Tab Byte
  | [] => m
  | b :: bs => memPut (memSet m a b) (a + 1) bs

/-- The n bytes at an address as a little-endian value. -/
def memRead (m : Tab Byte) (a n : Nat) : Nat := ofLeBytes (memBytes m a n)

/-- Writes a value as n little-endian bytes. -/
def memWrite (m : Tab Byte) (a n v : Nat) : Tab Byte := memPut m a (leBytes n v)

/-- Zeroes the n bytes at an address. -/
def memZero (m : Tab Byte) (a n : Nat) : Tab Byte := Tab.clearRange m a (a + n)

/-- Writes bytes to a memory of code words of `unit` bytes, some of them poisoned (R432, R436): a write that covers all of a word makes
it good, a partial write to a poisoned word is dropped. Answers the memory, the poisoned words and whether nothing was dropped. The
first argument bounds the words touched. Marks: DEDUCED unsafe (log entry 240). -/
def codeWrite (unit : Nat) : Nat → Tab Byte → List Nat → Nat → List Byte → Tab Byte × List Nat × Bool
  | 0, m, bad, _, _ => (m, bad, true)
  | n + 1, m, bad, a, l =>
    if l.isEmpty then (m, bad, true)
    else
      let k := min l.length (unit - a % unit)
      let w := a / unit
      let whole := decide (k = unit)
      if bad.contains w && !whole then
        let r := codeWrite unit n m bad (a + k) (l.drop k)
        (r.1, r.2.1, false)
      else codeWrite unit n (memPut m a (l.take k)) (if whole then bad.filter fun x => !(x == w) else bad) (a + k) (l.drop k)

/-- Is a byte range of a memory in a poisoned code word? -/
def rangePoisoned (unit : Nat) (bad : List Nat) (a n : Nat) : Bool := bad.any fun w => decide (w * unit < a + n) && decide (a < w * unit + unit)

/-! ## Registers -/

/-- The unicast BAR0 offset of a register (R493): block type, instance, offset in the page. -/
def regAddr (t inst off : Nat) : Nat := t * 524288 + inst * 4096 + off

/-- Is an offset one of the copies of a field's register? -/
def Fld.at (f : Fld) (off : Nat) : Bool :=
  decide (f.off ≤ off) && decide ((off - f.off) % f.stride = 0) && decide ((off - f.off) / f.stride < f.n)

/-- The defined bits of BLK_ICAUSE of a page (R498): STRICT_LOST exists on DIKE 0 only (R487), AVS_FAULT and AVS_LIMIT on VANE 0 only (R77). -/
def causesAt (t inst : Nat) : Nat :=
  if t = T.dike ∧ inst ≠ 0 then 0xF else if t = T.vane ∧ inst ≠ 0 then 0x27 else causeMask t

/-- The fields of the register at an offset of a page. The adaptive-voltage registers exist on VANE 0 only (R76), I2CM_AVS on I2CM 0 only
(R584), DIKE_ISO and the parcel window on DIKE 0 only (R486), the comparison enable on SCRUB 0 only (R462) and BLK_VEC on every VORAK page but
page 0 (R527). -/
def fieldsAt (t inst off : Nat) : List Fld :=
  if off < 0x40 then fields_hdr.filter fun f => f.at off
  else if (t = T.vane ∧ inst ≠ 0 ∧ 0x60 ≤ off ∧ off < 0x6C) ∨ (t = T.i2cm ∧ inst ≠ 0 ∧ off = 0x54) ∨ (t = T.dike ∧ inst ≠ 0 ∧ 0xA0 ≤ off ∧ off < 0xAC)
  then []
  else (fieldsOf t).filter fun f =>
    f.at off && !(f == F.SCRUB_CTRL_CMP_EN && inst != 0) && !(f == F.VORAK_CTRL_BLK_VEC && inst == 0)

/-- The access type of a field in one instance: MAC_CTRL.PMODE is RO on odd MACs (R385). -/
def Fld.accAt (f : Fld) (inst : Nat) : Acc :=
  if f = F.MAC_CTRL_PMODE ∧ inst % 2 = 1 then .ro else f.acc

/-- How many rows have mills (R4, R7). -/
def Fuse.rows (z : Fuse) : Nat := if z.is6480 then 16 else 8

/-- How many physical mills the part has (R4). -/
def Fuse.mills (z : Fuse) : Nat := if z.is6480 then 80 else 40

/-- CANAL_PORTS.PRESENT of row r (R65, R89): the mesh neighbours the router has, its mills where the row has them, its
banks and HBM slices, and the link lock at rows 8h and 8h + 3. -/
def canalPorts (z : Fuse) (r : Nat) : Nat :=
  let x := r % 4
  let y := r / 4 % 2
  b2n (x < 3) + 2 * b2n (0 < x) + 4 * b2n (y = 0) + 8 * b2n (y = 1)
    + (if r < z.rows then 0x1F0 else 0) + 0x1E00 + (if r % 8 = 0 ∨ r % 8 = 3 then 0x2000 else 0)

/-- The reset values that differ from instance to instance or copy to copy, field by field of the spec's tables; `none`
where the field table's own value holds everywhere. Marks: DEDUCED unsafe (log entry 11), PRESUMED unsafe (log entry 209). -/
def specialReset (z : Fuse) (t inst off : Nat) : Option Nat :=
  if off = 0x1C then some (causesAt t inst)
  else match t with
  | 0 => if off = 0x40 then
      some ((if z.is6480 then 0x64800000 else 0x64400000) + z.grade * 65536 + z.stepLetter * 4096 + z.stepDigit * 256
        + z.mills)
    else none
  | 1 => if off = 0x48 then some (if inst % 5 = 4 then 2 else 1) else none
  | 2 =>
    if off = 0xC08 then some (if inst < z.rows then 0xBA98 else 0)
    else if off = 0xC44 then some (canalPorts z inst)
    else if 0xC80 ≤ off ∧ off < 0xCC0 then some (if off = 0xC80 then 0x4040 else 0)
    else none
  | 3 =>
    if 0xC40 ≤ off ∧ off < 0xC8C then some (if off = 0xC88 then 0x205 else 0x305) else none
  | 7 =>
    if off = 0x40 ∧ inst = 0 then some (F.DIKE_CTRL_PRIO.rst + 7)
    else if off = 0x44 ∧ inst = 0 then some (0x20000 + (if z.is6480 then 0x40 else 0x20))
    else if off = 0x4C ∧ inst = 0 then some 0x40000
    else if off = 0x58 ∧ inst = 0 then some 0x10000
    else if off = 0x5C ∧ inst = 0 then some (if z.is6480 then 0x10000 else 0)
    else if off = 0x60 ∧ inst = 0 then some 0x40000
    else if off = 0x64 ∧ inst = 0 then some (0x40 * 2 ^ 24 + 0x4000)
    else if off = 0x68 ∧ inst = 0 then some 0x9C40
    else if off = 0x90 ∧ inst = 0 then some 0xDEF7BDEF
    else if off = 0x94 ∧ inst = 0 then some (if z.is6480 then 0xF7BDEF7B else 0x7B)
    else if off = 0x98 ∧ inst = 0 then some (if z.is6480 then 0x7BDE else 0)
    else none
  | 8 =>
    if off = 0x100 then some 0x16E3600 else if off = 0x104 then some 0xFFFF
    else if off = 0x108 then some 0x27100 else if off = 0x10C then some 0x400 else none
  | 10 =>
    if off = 0x80 ∨ off = 0x84 then some 0xFC00 else if off = 0x180 then some 0x1000000 else none
  | 19 => if off = 0x44 then some 0x101 else none
  | 21 => if off = 0x44 then some 0x18 else none
  | 18 => if off = 0x40 ∧ inst = 0 then some (F.SCRUB_CTRL_EN.rst + 2) else none
  | 20 => if 0x60 ≤ off ∧ off < 0x70 then some (z.uid.getD ((off - 0x60) / 4) 0) else none
  | 25 => if off = 0x40 then some (if z.is6480 then 0x64806481 else 0x64406441) else none
  | _ => none

/-- The reset value of the register at a unicast address. Marks: DEDUCED unsafe (log entry 11). -/
def regReset (z : Fuse) (a : Nat) : Word :=
  let t := a / 524288 % 64
  let inst := a / 4096 % 128
  let off := a % 4096
  BitVec.ofNat 32 <|
    match specialReset z t inst off with
    | some v => v
    | none => (fieldsAt t inst off).foldl (fun acc f => acc + f.rst * 2 ^ f.lo) 0

/-- The value a register holds. -/
def State.rd (s : State) (t inst off : Nat) : Nat := (Tab.get (regReset s.fuse) s.regs (regAddr t inst off)).toNat

/-- Sets the value a register holds. -/
def State.wr (s : State) (t inst off v : Nat) : State :=
  { s with regs := Tab.set (regReset s.fuse) s.regs (regAddr t inst off) (BitVec.ofNat 32 v) }

/-- A field of copy idx of a register of an instance. -/
def State.fget (s : State) (f : Fld) (inst : Nat) (idx : Nat := 0) : Nat :=
  bitField (s.rd f.t inst (f.off + idx * f.stride)) f.lo f.w

/-- Sets a field of copy idx of a register of an instance. -/
def State.fset (s : State) (f : Fld) (inst : Nat) (v : Nat) (idx : Nat := 0) : State :=
  let off := f.off + idx * f.stride
  s.wr f.t inst off (setField (s.rd f.t inst off) f.lo f.w v)

/-- A one-bit field as a truth value. -/
def State.fbit (s : State) (f : Fld) (inst : Nat) (idx : Nat := 0) : Bool := s.fget f inst idx == 1

/-- Adds to a counting field, stopping at its largest value (the RC counters "saturate"). -/
def State.finc (s : State) (f : Fld) (inst : Nat) (n : Nat := 1) (idx : Nat := 0) : State :=
  s.fset f inst (min (s.fget f inst idx + n) (2 ^ f.w - 1)) idx

/-- Adds to a counting field that wraps. -/
def State.fwrap (s : State) (f : Fld) (inst : Nat) (n : Nat := 1) (idx : Nat := 0) : State :=
  s.fset f inst ((s.fget f inst idx + n) % 2 ^ f.w) idx

/-- The value of a 64-bit pair (R14). -/
def State.cget (s : State) (c : Ctr) (inst : Nat) (idx : Nat := 0) : Nat :=
  (Tab.get (fun _ => (0 : BitVec 64)) s.ctrs (regAddr c.t inst (c.off + 2048 * idx))).toNat

/-- Sets a 64-bit pair. -/
def State.cset (s : State) (c : Ctr) (inst v : Nat) (idx : Nat := 0) : State :=
  { s with ctrs := Tab.set (fun _ => (0 : BitVec 64)) s.ctrs (regAddr c.t inst (c.off + 2048 * idx)) (BitVec.ofNat 64 v) }

/-- Adds to a 64-bit counter. -/
def State.cinc (s : State) (c : Ctr) (inst : Nat) (n : Nat := 1) (idx : Nat := 0) : State :=
  s.cset c inst ((s.cget c inst idx + n) % 2 ^ 64) idx

/-- The key of the latched upper half of a pair (R14): each of the sixteen functions and the Millhouse (16) has its own latch. -/
def latchKey (fn t inst off : Nat) : Nat := fn * 2 ^ 27 + regAddr t inst off

/-- Resets a page: every register and pair of the instance holds its reset value again (R16), and its latches are zero (R14). -/
def State.resetPage (s : State) (t inst : Nat) : State :=
  { s with regs := Tab.clearRange s.regs (regAddr t inst 0) (regAddr t (inst + 1) 0),
           ctrs := Tab.clearRange s.ctrs (regAddr t inst 0) (regAddr t (inst + 1) 0),
           latch := (List.range 17).foldl (fun l fn => Tab.clearRange l (latchKey fn t inst 0) (latchKey fn t (inst + 1) 0)) s.latch }

/-- A field of the common header of a page (R498). -/
def State.hget (s : State) (f : Fld) (t inst : Nat) : Nat := bitField (s.rd t inst f.off) f.lo f.w

/-- Sets a field of the common header of a page. -/
def State.hset (s : State) (f : Fld) (t inst v : Nat) : State :=
  s.wr t inst f.off (setField (s.rd t inst f.off) f.lo f.w v)

/-! ## Outputs -/

/-- Records something the block sends out. Marks: DESIGN CHOICE safe (log entry 5). -/
def State.emit (s : State) (o : Out) : State := { s with out := s.out ++ [o] }

/-- Records several outputs in order. -/
def State.emits (s : State) (os : List Out) : State := { s with out := s.out ++ os }

/-- Writes bytes to the millpond (R432, R436); false where a partial write to a poisoned word was dropped. -/
def State.pondPut (s : State) (a : Nat) (l : List Byte) : State × Bool :=
  let r := codeWrite 8 (l.length + 1) s.pond s.pondPoison a l
  ({ s with pond := r.1, pondPoison := r.2.1 }, r.2.2)

/-- Is a byte range of the millpond poisoned? -/
def State.pondBad (s : State) (a n : Nat) : Bool := rangePoisoned 8 s.pondPoison a n

/-- Zeroes a range of the millpond, whole words of it. -/
def State.pondZero (s : State) (a n : Nat) : State :=
  { s with pond := memZero s.pond a n, pondPoison := s.pondPoison.filter fun w => !(decide (a ≤ w * 8) && decide (w * 8 < a + n)) }

/-! ## Present instances -/

/-- The mill's position in its row, and its row (R19). -/
def rowOf (m : Nat) : Nat := m / 5

/-- The half of a row, or of a mill by its row (R19). -/
def halfOfRow (r : Nat) : Nat := r / 8

/-- The half of a mill (R19). -/
def halfOf (m : Nat) : Nat := m / 40

/-- Does the part have the instance (R8, R17)? -/
def present (z : Fuse) (t inst : Nat) : Bool :=
  if t = T.mill then decide (inst < z.mills) else decide (inst < instances t)

/-- The role code of a mill (R20): absent mills have role 0. -/
def State.role (s : State) (m : Nat) : Nat :=
  if m < s.fuse.mills then s.fget F.MILL_ROLE_ROLE m else 0

/-- Is a mill a member of its row and half, role 0x1 or 0x3 (R22)? -/
def State.member (s : State) (m : Nat) : Bool := s.role m == 1 || s.role m == 3

/-- The mills of a row that are members (R22). -/
def State.rowMembers (s : State) (r : Nat) : List Nat := ((List.range 5).map (5 * r + ·)).filter s.member

/-- The mills of a half that are members (R22). -/
def State.halfMembers (s : State) (h : Nat) : List Nat := ((List.range 40).map (40 * h + ·)).filter s.member

/-! ## Interrupts (R498, R499) -/

/-- BLK_IPEND of a page. -/
def State.ipend (s : State) (t inst : Nat) : Nat :=
  (s.rd t inst 0x18) &&& ((s.rd t inst 0x1C) ^^^ 0xFFFFFFFF)

/-- Is BLK_IPEND of some present instance of the type non-zero? -/
def State.typePend (s : State) (t : Nat) : Bool :=
  (List.range (instances t)).any fun i => present s.fuse t i && s.ipend t i != 0

/-- The polder of a mill, and whether its page is in the view of VF p (R495). -/
def State.millInView (s : State) (p m : Nat) : Bool := s.member m && s.fget F.MILL_ROLE_POLDER m == p

/-- Is BLK_IPEND non-zero on some page of the view of VF p (R491, R495)? -/
def State.vfPend (s : State) (p : Nat) : Bool :=
  ((List.range s.fuse.mills).any fun m => s.millInView p m && s.ipend T.mill m != 0)
    || s.ipend T.dike p != 0 || s.ipend T.vorak p != 0

/-- Is a page in the view of VF p, for its block interrupts? -/
def State.inVfView (s : State) (p t inst : Nat) : Bool :=
  (t == T.mill && s.millInView p inst) || (t == T.dike && inst == p) || (t == T.vorak && inst == p)

/-- Sends an MSI-X message of a function, unless the function is in a function-level reset (step 2 of R522). Marks: DESIGN CHOICE safe (log entry 333). -/
def State.msi (s : State) (fn vec : Nat) : State :=
  if bitAt (s.fget F.PCIE_FLR_IN_FLR 0) fn then s else s.emit (.msi fn vec)

/-- The message of the PF's source for block type t (R499, R525): sent when the route is enabled. -/
def State.pfBlockMsg (s : State) (t : Nat) : State :=
  if s.fbit F.PCIE_IROUTE_EN 0 t then s.msi 0 (s.fget F.PCIE_IROUTE_VEC 0 t) else s

/-- The message of VF p's block interrupt source (R491). -/
def State.vfBlockMsg (s : State) (p : Nat) : State := s.msi p (s.fget F.VORAK_CTRL_BLK_VEC p)

/-- The block interrupt messages that follow a change of the pending bits of page (t, inst), from the state before it
(R499): a source whose OR became non-zero sends one, and after a write of BLK_ICAUSE or BLK_IMASK (`again`) a source
still non-zero sends a further one. -/
def State.irqMessages (before s : State) (t inst : Nat) (again : Bool) : State :=
  let s1 := if s.typePend t && (again || !before.typePend t) then s.pfBlockMsg t else s
  (List.range 16).foldl
    (fun st p =>
      if p != 0 && s.inVfView p t inst && s.vfPend p && (again || !before.vfPend p) then st.vfBlockMsg p else st) s1

/-- Hardware sets cause bits of a page (R498), with the messages of R499. -/
def State.raiseBits (s : State) (t inst bits : Nat) : State :=
  let s' := s.wr t inst 0x18 ((s.rd t inst 0x18) ||| (bits &&& causesAt t inst))
  s.irqMessages s' t inst false

/-- Hardware sets one cause bit of a page. -/
def State.raise (s : State) (t inst bit : Nat) : State := s.raiseBits t inst (2 ^ bit)

/-! ## Error logs (R498, R500) -/

/-- Records an error in the log of a page: the first one while VALID is clear, and every one in COUNT. -/
def State.logErr (s : State) (t inst kind fn addr data : Nat) : State :=
  let s1 :=
    if bitAt (s.rd t inst 0x28) 31 then s
    else ((s.wr t inst 0x28 (2 ^ 31 + kind % 16 * 65536 + fn % 256 * 256)).wr t inst 0x2C (addr % 2 ^ 27)).wr t inst 0x30
      data
  s1.wr t inst 0x34 (min (s1.rd t inst 0x34 % 65536 + 1) 0xFFFF)

/-- Records an error in the DEVICE page log (R497). -/
def State.logDevice (s : State) (kind fn addr data : Nat) : State := s.logErr T.device 0 kind fn addr data

/-! ## The RAS fault log (R607) -/

/-- MILLER_TURN (R160): both halves count the same marks; half 0 is read where a device-wide turn is meant. -/
def State.turn (s : State) (h : Nat := 0) : Nat := s.cget C.MILLER_TURN h

/-- Enters a fault in the RAS fault log: the first 16 since CLEAR, and a count of the rest. -/
def State.rasLog (s : State) (kind cls typ inst detail : Nat) : State :=
  if s.flog.length < 16 then
    { s with flog := s.flog ++ [⟨kind, cls, typ, inst, s.turn % 2 ^ 32, detail⟩] }
  else s.finc F.RAS_FLOG_CTRL_OVF 0

/-! ## Free values -/

/-- Takes the next free value: one the spec leaves open and the hardware produces. Marks: DESIGN CHOICE safe (log entry 2). -/
def State.takeFree (s : State) : BitVec 64 × State := (Config.freeValue s.fresh, { s with fresh := s.fresh + 1 })

end Sys2Proof.Machine
end

