-- ==== Sys2Proof/Machine/Ecc.lean ====
section
/-!
DEFINITION. The codes of the memories: the die-loss code of HBM (R427 to R429) as RS(88, 64) over GF(2⁸), its fragments and the decode with four erasures; and
the SEC-DED codes of SRAM and MRAM with the address folded in (R431).
-/

namespace Sys2Proof.Machine

/-! ## GF(2⁸) with x⁸ + x⁴ + x³ + x² + 1 (R428) -/

/-- A product by α. -/
def gfTwice (r : Nat) : Nat := if r < 128 then 2 * r else (2 * r) ^^^ 0x11D

/-- A product. -/
def gfMul (a b : Nat) : Nat := (List.range 8).foldl (fun r i => if b.testBit (7 - i) then gfTwice r ^^^ a else gfTwice r) 0

/-- A power of α. -/
def gfExp (n : Nat) : Nat := (List.range (n % 255)).foldl (fun r _ => gfTwice r) 1

/-- The inverse of an element that is not zero: its power 254. -/
def gfInv (a : Nat) : Nat := (List.range 254).foldl (fun r _ => gfMul r a) 1

/-- The value at x of a polynomial, lowest coefficient first. -/
def gfEval (p : List Nat) (x : Nat) : Nat := p.foldr (fun c r => gfMul r x ^^^ c) 0

/-- Coefficient k of a product of polynomials. -/
def gfConv (p q : List Nat) (k : Nat) : Nat := (List.range (k + 1)).foldl (fun r i => r ^^^ gfMul (p.getD i 0) (q.getD (k - i) 0)) 0

/-- The polynomial with the roots given, monic, lowest coefficient first. -/
def gfRoots (l : List Nat) : List Nat := l.foldl (fun p a => (List.range (p.length + 1)).map fun k => gfMul a (p.getD k 0) ^^^ (if k = 0 then 0 else p.getD (k - 1) 0)) [1]

/-! ## The line of HBM and its fragments (R427, R428) -/

/-- The core die of a group that holds a symbol: 16 of the 64 data symbols and 6 of the 24 check symbols each. Marks: DESIGN CHOICE safe (log entry 382). -/
def dieOf (sym : Nat) : Nat := if sym < 64 then sym / 16 else (sym - 64) / 6

/-- The locator of a symbol: data symbol 0 is the coefficient of x⁸⁷ and the last check symbol that of x⁰. Marks: DESIGN CHOICE safe (log entry 382). -/
def symLocator (sym : Nat) : Nat := gfExp (87 - sym)

/-- The 22 symbols of a die. -/
def dieSyms (d : Nat) : List Nat := (List.range 88).filter fun k => dieOf k == d

/-- The 24 check symbols of 64 data symbols: the remainder by the generator, whose roots are α⁰ to α²³ (R428). -/
def rsCheck (data : List Nat) : List Nat :=
  let g := gfRoots ((List.range 24).map gfExp)
  (data.foldl (fun r d =>
    let f := d ^^^ r.getD 0 0
    (List.range 24).map fun k => r.getD (k + 1) 0 ^^^ gfMul f (g.getD (23 - k) 0)) (List.replicate 24 0))

/-- The 88 symbols stored for a line (R427, R428, R436): its data, and the check symbols over the data XOR the address pattern, XORed with the poison
pattern where the line is poisoned. -/
def lineSymbols (ln : Nat) (data : List Byte) (poisoned : Bool) : List Nat :=
  let d := data.map fun b => b.toNat
  let check := rsCheck ((List.range 64).map fun k => d.getD k 0 ^^^ (Config.addrPattern ln k).toNat)
  d ++ (List.range 24).map fun k => check.getD k 0 ^^^ (if poisoned then (Config.poisonPattern k).toNat else 0)

/-- The fragment of a line on one of its dies: 20 symbols on the data pins and 2 on the ECC pins (R427). -/
def lineFragment (ln : Nat) (data : List Byte) (poisoned : Bool) (d : Nat) : List Nat := (dieSyms d).map fun k => (lineSymbols ln data poisoned).getD k 0

/-! ## The decode of R428 -/

/-- The 24 syndromes of symbols that are wrong. The code is linear, so those of the line read are those of its errors. -/
def syndromes (errs : List (Nat × Nat)) : List Nat :=
  (List.range 24).map fun j => errs.foldl (fun r e => r ^^^ gfMul e.2 (gfExp ((87 - e.1) * j))) 0

/-- The locator polynomial of a die's symbols, as erased: the product of 1 + Xx. -/
def erasure (d : Nat) : List Nat := (gfRoots ((dieSyms d).map symLocator)).reverse

/-- Does treating a die's 22 symbols as erased leave a consistent codeword? -/
def dieFits (syn : List Nat) (d : Nat) : Bool := gfConv syn (erasure d) 22 == 0 && gfConv syn (erasure d) 23 == 0

/-- What the decode that takes a die as erased adds to its symbols. -/
def dieFix (syn : List Nat) (d : Nat) : List (Nat × Nat) :=
  let om := (List.range 22).map (gfConv syn (erasure d))
  (dieSyms d).map fun k =>
    let xi := gfInv (symLocator k)
    let den := ((dieSyms d).filter (· != k)).foldl (fun r j => gfMul r (1 ^^^ gfMul (symLocator j) xi)) 1
    (k, gfMul (gfEval om xi) (gfInv den))

/-- The decode of a line with wrong symbols (R428, R429): its outcome, and what is left wrong in the symbols it delivers. Marks: DEDUCED unsafe (log entry 383). -/
def rsDecode (errs : List (Nat × Nat)) : Chk × List (Nat × Nat) :=
  let e := errs.filter fun x => x.1 < 88 && x.2 % 256 != 0
  match e with
  | [] => (.ok, [])
  | x :: _ =>
    if e.all fun y => dieOf y.1 == dieOf x.1 then (.corrected (dieOf x.1), [])
    else
      let syn := syndromes e
      if syn.all (· == 0) then (.ok, e)
      else match (List.range 4).filter (dieFits syn) with
        | [d] => (.corrected d, e ++ dieFix syn d)
        | _ => (.bad, [])

/-- Data bytes with some symbols changed. -/
def patchSyms (data : List Byte) (errs : List (Nat × Nat)) : List Byte :=
  errs.foldl (fun l e => l.set e.1 (l.getD e.1 0 ^^^ BitVec.ofNat 8 e.2)) data

/-! ## SEC-DED with the word address (R431) -/

/-- The number of ones among the low 32 bits of a number. -/
def onesOf (x : Nat) : Nat := ((List.range 32).filter x.testBit).length

/-- The number of bits in which the address of the word read differs from the address asked for. -/
def addrOff (u : WordUpset) (w : Nat) : Nat := match u.elsewhere with | some b => onesOf (w ^^^ b) | none => 0

/-- The wrong bits of a word, each once. -/
def wrongBits (u : WordUpset) : List Nat := (u.flips.filter (· < 72)).eraseDups

/-- The outcome of a read at a word address (R431): one wrong bit is corrected, two are uncorrectable, and so is a word of an address that differs in one or two
bits. What the code makes of more is the hardware's. Marks: DESIGN CHOICE safe (log entry 384). -/
def wordCode (u : WordUpset) (w : Nat) : Chk :=
  match addrOff u w, (wrongBits u).length with
  | 0, 0 => .ok
  | 0, 1 => .corrected 0
  | 0, 2 => .bad
  | 1, _ => .bad
  | 2, _ => .bad
  | _, _ => if Config.wildCode w (wrongBits u) % 3 = 0 then .ok else if Config.wildCode w (wrongBits u) % 3 = 1 then .corrected 0 else .bad

/-- Does a read deliver the word that was written: no wrong bit, or one that is corrected? -/
def wordRight (u : WordUpset) (w : Nat) : Bool := addrOff u w == 0 && decide ((wrongBits u).length ≤ 1)

/-- A memory of 8-byte words in which the word at an address is as a read delivers it: as written, or a value of the hardware's. Marks: DESIGN CHOICE safe (log entry 384). -/
def wordView (u : WordUpset) (m : Tab Byte) (w : Nat) : Tab Byte :=
  if wordRight u w || wordCode u w == .bad then m else memPut m (8 * w) (leBytes 8 (Config.wildData w (wrongBits u)).toNat)

/-- Does the read of a dirty line of a mill's cache find one of its words uncorrectable? -/
def cacheBad (l : List CacheUpset) (mill ln : Nat) : Bool :=
  l.any fun x => x.mill == mill && x.line == ln && wordCode x.up (8 * ln + x.word % 8) == .bad

end Sys2Proof.Machine
end

