-- ==== Sys2Proof/Machine/Fabric.lean ====
section
/-!
DEFINITION. The self-timed fabric (spec file 02): handshakes and their watchdogs, ticks, the canal routers and the locks.
-/

namespace Sys2Proof.Machine

/-! ## Stages and their detections -/

/-- The number of a place and stage in the table of stages. -/
def stageKey (p : Place) (n : Nat) : Nat :=
  match p with
  | .mill m => m * 65536 + n
  | .router r q _ => (256 + r * 16 + q) * 65536 + n
  | .bank b => (512 + b) * 65536 + n
  | .lock h l => (768 + h * 32 + l) * 65536 + n
  | .link h => (1024 + h) * 65536 + n

/-- The compute die a place is on (R19, R31). -/
def placeHalf : Place → Nat
  | .mill m => m / 40
  | .router r _ _ => r / 8
  | .bank b => b / 16
  | .lock h _ => h
  | .link h => h

/-- The half a stage key belongs to. -/
def stageHalf (k : Nat) : Nat :=
  let u := k / 65536
  if u < 256 then u / 40 else if u < 512 then (u - 256) / 16 / 8 else if u < 768 then (u - 512) / 16
  else if u < 1024 then (u - 768) / 32 else u - 1024

/-- A stage as it stands. -/
def State.stage (s : State) (p : Place) (n : Nat) : StageSt := Tab.get (fun _ => {}) s.fab.stages (stageKey p n)

/-- Sets a stage. -/
def State.setStage (s : State) (p : Place) (n : Nat) (x : StageSt) : State :=
  { s with fab := { s.fab with stages := Tab.set (fun _ => {}) s.fab.stages (stageKey p n) x } }

/-- Records a fabric fault in a router's CANAL_FAULT, which holds the first one until VALID is cleared (R90). A detection that concerns no single lane
leaves VL open. Marks: DESIGN CHOICE safe (log entry 371). -/
def State.canalFault (s : State) (row port : Nat) (vl : Option Nat) (kind : Nat) : State :=
  if s.fbit F.CANAL_FAULT_VALID row then s
  else
    let v : Nat × State := match vl with | some v => (v, s) | none => (s.takeFree.1.toNat, s.takeFree.2)
    v.2.wr T.row row 0xC48 (2 ^ 31 + v.1 % 32 * 65536 + port % 16 * 256 + kind % 16)

/-- The router and port at which a lock stands (R65, R70); the tick lock stands at none. -/
def lockRouter (h n : Nat) : Option (Nat × Nat) :=
  if n < 16 then some (8 * h + n / 2, 11 + n % 2) else if n = 16 then some (8 * h + 3, 13) else if n = 17 then some (8 * h, 13) else none

/-- Stops the stones of a mill (R126). -/
def State.stopMill (s : State) (m : Nat) : State :=
  { s with mills := Tab.set (fun _ => ({} : MillSt)) s.mills m { Tab.get (fun _ => ({} : MillSt)) s.mills m with stopped := true } }

/-- Reports a fabric detection to the RAS block (R64), and in CANAL_FAULT where a router or a lock at one of its ports saw it. A detection
in a mill stops it (R126), and in a mill in role 0x4 it is not a new fault (R592). At a lock `vl` is the lane of the word concerned, if there is
one. What follows a report is a command of its own (MILL_FAULT, DEVICE_FAULT). -/
def State.detect (s : State) (kind : Nat) (p : Place) (vl : Option Nat := none) : State :=
  match p with
  | .mill m => if s.role m = 4 then s else (s.stopMill m).emit (.detection kind p)
  | .router r q v => (s.canalFault r q (some v) kind).emit (.detection kind p)
  | .lock h n => (match lockRouter h n with | some (r, q) => s.canalFault r q vl kind | none => s).emit (.detection kind p)
  | _ => s.emit (.detection kind p)

/-- R46 and R47: one four-phase handshake at a stage. An acknowledge still high, or both rails of a bit high, is reported
as INVALID_CODE and nothing is captured; a bit that stays at spacer leaves the handshake started; a word whose bits are
all valid is captured, and the handshake ends where the acknowledge and the spacers return. Marks: DESIGN CHOICE safe (log entry 40). -/
def handshake (pl : Place) (n : Nat) (rails : List Rail) (completes : Bool) (s : State) : State :=
  let x := s.stage pl n
  if x.ack then s.detect 1 pl
  else if rails.any (fun r => r.t && r.f) then (s.setStage pl n { x with started := true }).detect 1 pl
  else if rails.any (fun r => !r.t && !r.f) then s.setStage pl n { x with started := true }
  else if completes then s.setStage pl n { started := false, ack := false, ticks := 0, word := rails.map (·.t) }
  else s.setStage pl n { x with started := true, ack := true, word := rails.map (·.t) }

/-- HANDSHAKE_TRANSFER (R46, R47). Marks: DESIGN CHOICE safe (log entry 40). -/
def execHandshakeTransfer (pl : Place) (n : Nat) (rails : List Rail) (completes : Bool) (s : State) : Res :=
  .next (handshake pl n rails completes s)

/-- Has the tick failed on a die (R63)? -/
def State.tickLost (s : State) (h : Nat) : Bool := if h = 0 then s.fab.tickLost0 else s.fab.tickLost1

/-- STAGE_STALL (R61): the watchdog of a started handshake has counted VANE_WD.STAGE ticks, or counts on the local
oscillator after TICK_LOSS (R63). Marks: DEDUCED safe (log entry 44). -/
def execStageStall (pl : Place) (n : Nat) (s : State) : Res :=
  let x := s.stage pl n
  if x.started && (decide (s.fget F.VANE_WD_STAGE (placeHalf pl) ≤ x.ticks) || s.tickLost (placeHalf pl)) then .next (s.detect 2 pl)
  else .next s

/-! ## Waits (R62, R596) -/

/-- A lock as it stands. -/
def State.lock (s : State) (h n : Nat) : LockSt := Tab.get (fun _ => {}) s.fab.locks (32 * h + n)

/-- Sets a lock. -/
def State.setLock (s : State) (h n : Nat) (x : LockSt) : State :=
  { s with fab := { s.fab with locks := Tab.set (fun _ => {}) s.fab.locks (32 * h + n) x } }

/-- The code of LOCK_STAT.STATE (R94). -/
def LockState.code : LockState → Nat
  | .run => 0 | .drain => 1 | .stopped => 2 | .waking => 3 | .flush => 4 | .held => 5

/-- Is a wait timed by its wait watchdog: not one on a lock in STOPPED or WAKING, which LOCK_WAKE_LIMIT times (R62)? -/
def State.timed (s : State) (w : Waiter) : Bool :=
  match w.on with
  | .lock h n _ => !((s.lock h n).st == .stopped || (s.lock h n).st == .waking)
  | _ => true

/-- A requester begins to wait. -/
def State.beginWait (s : State) (half : Nat) (on : WaitOn) (who : Requester) : State :=
  { s with fab := { s.fab with waiters := s.fab.waiters ++ [⟨half, on, who, 0⟩] } }

/-- The tag of the request that waits. -/
def waitTag (w : Waiter) : Nat :=
  match w.on with
  | .lane _ _ f => f.tag
  | .lock _ _ x => x.tag
  | .resource _ t => t

/-- The virtual lane of a flit: 2 × polder + class (R67, R90). -/
def flitVl (f : Flit) : Nat := 2 * f.polder + f.cls

/-- The lane of the flit whose wait has stalled, where it carries one (R90). -/
def waitLane (w : Waiter) : Option Nat :=
  match w.on with
  | .lane _ _ f => some (flitVl f)
  | .lock _ _ x => x.flit.map flitVl
  | .resource _ _ => none

/-- Where a wait has stalled, as a fabric detection names it (R64, R90): the lane or the lock. -/
def waitPlace (w : Waiter) : Option Place :=
  match w.on with
  | .lane r q f => some (.router r q (flitVl f))
  | .lock h n _ => some (.lock h n)
  | .resource _ _ => none

/-- A wait ends; a Millhouse request is not the retry of another from then on (R596). -/
def State.endWait (s : State) (w : Waiter) : State :=
  { s with fab := { s.fab with waiters := s.fab.waiters.erase w },
           ras := if w.who = .millhouse then { s.ras with retried := s.ras.retried.filter fun t => t != waitTag w } else s.ras }

/-- The wait of a word on a lock ends. -/
def State.endLockWait (s : State) (h n : Nat) (w : LWord) : State :=
  match s.fab.waiters.find? fun x => x.on == .lock h n w with
  | some x => s.endWait x
  | none => s

/-- The number that breaks a tie between two waits that began together (R596): the physical unit number. -/
def unitNo : Requester → Nat
  | .stone n => n
  | .hopper n => n
  | .vorak p _ _ => p
  | .millhouse => 0
  | .unit n => n

/-- Of two waiters, the one R596 aborts: the wait that began last, and at equal times the lower unit number. Marks: DEDUCED unsafe (log entry 45). -/
def laterWaiter (a b : Waiter) : Waiter :=
  if b.ticks < a.ticks then b
  else if a.ticks < b.ticks then a
  else if unitNo b.who < unitNo a.who then b else a

/-- The waiter R596 chooses among those of a list whose watchdog has counted at least half of VANE_WD.WAIT. Marks: DEDUCED unsafe (log entry 45). -/
def State.abortChoice (s : State) (l : List Waiter) : Option Waiter :=
  let c := l.filter fun w => decide (s.fget F.VANE_WD_WAIT w.half ≤ 2 * w.ticks) || s.tickLost w.half
  match c with
  | [] => none
  | w :: ws => some (ws.foldl laterWaiter w)

/-- The requesters that wait for memory (R62, R595): the outstanding far accesses of the stones, each tagged by its place among its stone's, and the
prefetches of the hoppers, tagged by their bin slots. Marks: DEDUCED unsafe (log entry 350). -/
def State.memoryWaiters (s : State) : List Waiter :=
  (s.stones.flatMap fun e => e.2.far.zipIdx.map fun f => (⟨e.1 / 640, .resource 4 f.2, .stone e.1, f.1.wait⟩ : Waiter))
    ++ ((s.sch.wus ++ s.sch.early).filterMap fun e => match e.2.st with
      | .fetching j => some (⟨e.2.stone / 640, .resource 4 j, .hopper e.2.stone, e.2.wait⟩ : Waiter)
      | _ => none)

/-- The requesters whose waits are timed (R62): those for canal credit and locks, and those for memory. Marks: DEDUCED unsafe (log entry 350). -/
def State.timedWaiters (s : State) : List Waiter := s.fab.waiters.filter s.timed ++ s.memoryWaiters

/-! ## Lanes of the canal (R65, R67) -/

/-- The buffered flits of a lane at a router's input port. Marks: DEDUCED safe (log entry 42). -/
def laneKey (row port cls polder : Nat) : Nat := ((16 * row + port) * 2 + cls) * 16 + polder

/-- A lane buffer as it stands. -/
def State.lane (s : State) (row port cls polder : Nat) : List Flit :=
  Tab.get (fun _ => []) s.fab.lanes (laneKey row port cls polder)

/-- Sets a lane buffer. -/
def State.setLane (s : State) (row port cls polder : Nat) (l : List Flit) : State :=
  { s with fab := { s.fab with lanes := Tab.set (fun _ => []) s.fab.lanes (laneKey row port cls polder) l } }

/-- The flits a lane may hold at each input port of a router (R67, R92). -/
def State.laneCredit (s : State) (row cls polder : Nat) : Nat :=
  if cls = 0 then s.fget F.CANAL_VLCRED_REQ row polder else s.fget F.CANAL_VLCRED_RSP row polder

/-- The flits of a class that an input port's buffer of 64 holds (R67). -/
def State.portUsed (s : State) (row port cls : Nat) : Nat :=
  (List.range 16).foldl (fun a p => a + (s.lane row port cls p).length) 0

/-- Is there credit for a flit of a lane at an input port: room in its allocation and in the buffer (R67)? -/
def State.laneRoom (s : State) (row port cls polder : Nat) : Bool :=
  decide ((s.lane row port cls polder).length < s.laneCredit row cls polder) && decide (s.portUsed row port cls < 64)

/-- A flit enters its lane at an input port. -/
def State.enterLane (s : State) (row port : Nat) (f : Flit) : State :=
  s.setLane row port f.cls f.polder (s.lane row port f.cls f.polder ++ [f])

/-- A sender offers a flit at an input port: it enters the lane with credit, and without credit its requester waits
(R62, R67). -/
def State.offerFlit (s : State) (row port : Nat) (f : Flit) : State :=
  if s.laneRoom row port f.cls f.polder then s.enterLane row port f else s.beginWait (row / 8) (.lane row port f) f.who

/-- The requesters that wait for credit at an input port are served in the order their waits began, as far as there is credit. -/
def State.serveWaits (s : State) (row port : Nat) : State :=
  s.fab.waiters.foldl
    (fun u w =>
      match w.on with
      | .lane r q f => if r = row ∧ q = port ∧ u.laneRoom row port f.cls f.polder then (u.enterLane row port f).endWait w else u
      | _ => u) s

/-- Credits of a router have changed: its waiting requesters are served (R67, R92). -/
def State.serveRow (s : State) (row : Nat) : State := (List.range 14).foldl (fun u q => u.serveWaits row q) s

/-! ## Locks (R69 to R75) -/

/-- A Gray pointer with more than one bit changed (R64): reported, kept in PERR and counted. -/
def State.lockProtocol (s : State) (h n : Nat) : State :=
  ((s.fset F.LOCK_STAT_PERR h 1 n).finc F.LOCK_ERRCNT_COUNT h).detect 5 (.lock h n)

/-- A lock raises a wake to the power controller (R73): a stopped lock goes to WAKING, and the wake limit runs from the first wake. -/
def State.raiseWake (s : State) (h n : Nat) : State :=
  let l := s.lock h n
  (s.setLock h n { l with st := if l.st = .stopped then .waking else l.st, wake := true,
                          wakeTicks := if l.wake then l.wakeTicks else 0 }).emit (.lockWake h n)

/-- A word waits before a lock. -/
def State.lockHold (s : State) (h n : Nat) (w : LWord) : State :=
  let l := s.lock h n
  (s.setLock h n { l with waiting := l.waiting ++ [w] }).beginWait h (.lock h n w) w.who

/-- A word of the self-timed side arrives at a lock (R69, R72 to R74): in RUN it enters the FIFO, or waits for room; in DRAIN, STOPPED
or WAKING it waits and raises a wake, but that DRAIN still takes a response that the clocked side waits for; in FLUSH or HELD a request
gets an error response. Marks: DEDUCED safe (log entry 46). -/
def State.lockPush (s : State) (h n : Nat) (w : LWord) : State :=
  let l := s.lock h n
  let enter := decide (l.tx.length < 32) && l.waiting.isEmpty
  match l.st with
  | .run => if enter then s.setLock h n { l with tx := l.tx ++ [w] } else s.lockHold h n w
  | .drain => if w.kind = .response ∧ l.tx.length < 32 then s.setLock h n { l with tx := l.tx ++ [w] } else (s.lockHold h n w).raiseWake h n
  | .flush => if w.kind = .request then s.emit (.lockError h n w.tag) else s
  | .held => if w.kind = .request then s.emit (.lockError h n w.tag) else s
  | _ => (s.lockHold h n w).raiseWake h n

/-- The words that wait before a running lock enter its FIFO in order, as many as it has room for (R69, R73). -/
def State.lockRefill (s : State) (h n : Nat) : State :=
  let l := s.lock h n
  if l.st = .run then
    let room := 32 - l.tx.length
    (l.waiting.take room).foldl (fun u w => u.endLockWait h n w)
      (s.setLock h n { l with tx := l.tx ++ l.waiting.take room, waiting := l.waiting.drop room })
  else s

/-- Does a lock take a word of its clocked side: room, in RUN, or a response in DRAIN (R69, R72)? -/
def State.lockTakes (s : State) (h n : Nat) (w : LWord) : Bool :=
  let l := s.lock h n
  decide (l.rx.length < 32) && (l.st == .run || (l.st == .drain && w.kind == .response))

/-- A word of the clocked side enters a lock; a request of that side waits for its response. -/
def State.lockIn (s : State) (h n : Nat) (w : LWord) : State :=
  let l := s.lock h n
  s.setLock h n { l with rx := l.rx ++ [w], inbound := if w.kind = .request then l.inbound ++ [w.tag] else l.inbound }

/-- A word leaves a lock towards the clocked side: a request waits for its response, a response ends a wait of the clocked side. -/
def State.lockOut (s : State) (h n : Nat) (w : LWord) (ws : List LWord) : State :=
  let l := s.lock h n
  ((s.setLock h n
    { l with tx := ws, outstanding := if w.kind = .request then l.outstanding ++ [w.tag] else l.outstanding,
             inbound := if w.kind = .response then l.inbound.erase w.tag else l.inbound }).emit (.lockDelivered h n true w.tag)).lockRefill h n

/-- A word has been delivered towards the self-timed side; a flit goes on at the lock's router. -/
def State.lockArrive (s : State) (h n : Nat) (w : LWord) : State :=
  let s1 := s.emit (.lockDelivered h n false w.tag)
  match w.flit, lockRouter h n with
  | some f, some (r, q) => s1.offerFlit r q f
  | _, _ => s1

/-- May a word leave a lock towards the self-timed side: is there credit for its flit at the lock's router (R67)? -/
def State.lockMayArrive (s : State) (h n : Nat) (w : LWord) : Bool :=
  match w.flit, lockRouter h n with
  | some f, some (r, q) => s.laneRoom r q f.cls f.polder
  | _, _ => true

/-- One crossing of a word at a lock's FIFO of 32 words each way (R69, R72 to R74). A word that leaves link lock 16 crosses the link to the other
die's link lock (R66), so it leaves only where that takes it. Marks: DEDUCED safe (log entry 46). -/
def lockCross (h n : Nat) (op : LockOp) (s : State) : State :=
  let l := s.lock h n
  match op with
  | .pushTx w => s.lockPush h n w
  | .popTx =>
    match l.tx with
    | [] => s
    | w :: ws =>
      if n = 16 then (if s.lockTakes (1 - h) 16 w then (s.lockOut h n w ws).lockIn (1 - h) 16 w else s) else s.lockOut h n w ws
  | .pushRx w => if s.lockTakes h n w then s.lockIn h n w else s
  | .popRx =>
    match l.rx with
    | [] => s
    | w :: ws =>
      if s.lockMayArrive h n w then
        (s.setLock h n { l with rx := ws, outstanding := if w.kind = .response then l.outstanding.erase w.tag else l.outstanding }).lockArrive h n w
      else s

/-- LOCK_WORD_CROSS (R69); a pointer with more than one bit changed is a LOCK_PROTOCOL detection and moves no word. -/
def execLockWordCross (h n : Nat) (op : LockOp) (badPointer : Bool) (s : State) : Res :=
  if h < 2 ∧ n < 19 then
    if badPointer then .next (s.lockProtocol h n) else .next (lockCross h n op s)
  else .next s

/-- LOCK_STOP_REQUEST (R72, R73): the lock enters DRAIN; where a word arriving together wins the mutual exclusion, it is
accepted, the lock stays in RUN and the stop is refused. Words that wait for room as the stop is taken raise a wake. -/
def execLockStopRequest (h n : Nat) (winner : Option LWord) (s : State) : Res :=
  let l := s.lock h n
  if l.st = .run then
    match winner with
    | none =>
      let s1 := s.setLock h n { l with st := .drain }
      .next (if l.waiting.isEmpty then s1 else s1.raiseWake h n)
    | some w => .next ((s.lockPush h n w).emit (.stopRefused h n))
  else .next s

/-- LOCK_STOPPED (R72): a draining lock whose words are delivered and whose requests are answered, in both directions, enters STOPPED. -/
def execLockStopped (h n : Nat) (s : State) : Res :=
  let l := s.lock h n
  if l.st = .drain ∧ l.tx = [] ∧ l.rx = [] ∧ l.outstanding = [] ∧ l.inbound = [] then .next (s.setLock h n { l with st := .stopped })
  else .next s

/-- LOCK_WAKE (R73): a word arrives at a lock that does not run: it waits and raises a wake. -/
def execLockWake (h n : Nat) (w : LWord) (s : State) : Res :=
  let l := s.lock h n
  if l.st = .drain ∨ l.st = .stopped ∨ l.st = .waking then .next (s.lockPush h n w) else .next s

/-- LOCK_RUN (R73): the clocked side runs; the words that waited are accepted in order, as many as the FIFO takes, the rest as room frees. A
stopped lock passes through WAKING. Marks: DEDUCED safe (log entry 46). -/
def execLockRun (h n : Nat) (s : State) : Res :=
  let l := s.lock h n
  if l.st = .drain ∨ l.st = .waking ∨ l.st = .stopped then
    .next ((s.setLock h n { l with st := .run, wake := false, wakeTicks := 0 }).lockRefill h n)
  else .next s

/-- LOCK_WAKE_TIMEOUT (R73, R95): a woken lock has not reached RUN within LOCK_WAKE_LIMIT, in µs of ten ticks (R60); on the local oscillator
after TICK_LOSS (R63). Marks: DEDUCED safe (log entry 44). -/
def execLockWakeTimeout (h n : Nat) (s : State) : Res :=
  let l := s.lock h n
  if l.wake && l.st != .run && (decide (10 * s.fget F.LOCK_WAKE_LIMIT_LIMIT h ≤ l.wakeTicks) || s.tickLost h) then .next (s.detect 4 (.lock h n))
  else .next s

/-- The flush of a lock (R74): each request among the discarded words gets an error response, the words towards the
self-timed side are delivered, both pointers read zero and the lock is HELD. A lock stopped beforehand is not flushed. A request that had
crossed gets no answer from the flush. Marks: DEDUCED safe (log entry 46). -/
def lockFlush (h n : Nat) (s : State) : State :=
  let l := s.lock h n
  if l.st = .stopped then s
  else
    let s1 := (l.waiting.foldl (fun u w => u.endLockWait h n w) s).setLock h n { st := .held }
    l.rx.foldl (fun u w => u.lockArrive h n w)
      (s1.emits (((l.tx ++ l.waiting).filter (·.kind == .request)).map fun w => Out.lockError h n w.tag))

/-- The torn-burst record of a slice (R449, R460): the line and requester of the latest one, a count of all, the cause, and an entry in
the RAS log. -/
def State.hbmTorn (s : State) (slice line req : Nat) : State :=
  let s1 := ((s.fset F.HBMC_TORN_ADDR_LINE slice line).fset F.HBMC_TORN_ADDR_VALID slice 1).fset F.HBMC_TORN_INFO_REQ slice req
  ((s1.finc F.HBMC_TORN_INFO_COUNT slice).rasLog 0x22 1 T.hbmc slice line).raise T.hbmc slice I.HBMC_TORN

/-- CLOCKED_SIDE_RESET (R74): the flush, and the torn burst of a write cut short in an HBM lock. -/
def execClockedSideReset (h n : Nat) (torn : Option (Nat × Nat)) (s : State) : Res :=
  let s1 := lockFlush h n s
  match torn with
  | some (line, req) =>
    if n < 16 ∧ (s.lock h n).st ≠ .stopped then .next (s1.hbmTorn (16 * h + n) line req) else .next s1
  | none => .next s1

/-- CLOCKED_SIDE_RESET_RELEASE (R74): a HELD lock returns to RUN. -/
def execClockedSideResetRelease (h n : Nat) (s : State) : Res :=
  let l := s.lock h n
  if l.st = .held then .next (s.setLock h n { l with st := .run }) else .next s

/-- The error responses of a die's fabric reset (R75): to the requests in its locks and to the clocked side's requests that wait. -/
def State.resetErrors (s : State) (h : Nat) : List Out :=
  ((List.range 19).map fun n => (n, s.lock h n)).flatMap fun e =>
    (e.2.tx.filter (·.kind == .request)).map (fun w => Out.lockError h e.1 w.tag) ++ e.2.inbound.map fun t => Out.lockError h e.1 t

/-- The reset of a compute die's fabric (R75): every stage at spacer, every lock HELD, the words towards the self-timed
side discarded, and an error response to a clocked-side requester that waits; the routers' buffers and waits are empty. -/
def State.fabricReset (s : State) (h : Nat) : State :=
  ({ s with fab :=
      { s.fab with
        stages := s.fab.stages.filter (fun e => stageHalf e.1 != h),
        waiters := s.fab.waiters.filter (fun w => w.half != h),
        locks := Tab.clearRange s.fab.locks (32 * h) (32 * h + 32),
        lanes := Tab.clearRange s.fab.lanes (h * 8 * 512) ((h + 1) * 8 * 512),
        served := Tab.clearRange s.fab.served (h * 128) (h * 128 + 128),
        slot := Tab.clearRange s.fab.slot (h * 128) (h * 128 + 128) } } : State).emits (s.resetErrors h)

/-- The release of a die's fabric reset (R75): its locks return to RUN. -/
def State.fabricRelease (s : State) (h : Nat) : State :=
  (List.range 19).foldl
    (fun st n => if (st.lock h n).st = .held then st.setLock h n { st.lock h n with st := .run } else st) s

/-- Do ticks and turn marks reach a compute die: does its tick lock run (R60, R70)? -/
def State.tickRuns (s : State) (h : Nat) : Bool := (s.lock h 18).st == .run

/-! ## The canal (R65 to R68) -/

/-- The output port a flit takes at router r (R66): first along x, then along y; towards another die, to the router of
that die's link lock and across it; on its own router, its local port. -/
def routePort (r : Nat) (d : FlitDst) : Nat :=
  let h := r / 8
  let target := if d.die = h then d.row else if d.die = 2 then 8 * h else 8 * h + 3
  let out := if d.die = h then d.port else 13
  if r % 4 < target % 4 then 0
  else if target % 4 < r % 4 then 1
  else if r / 4 % 2 < target / 4 % 2 then 2
  else if target / 4 % 2 < r / 4 % 2 then 3
  else out

/-- The router and input port on the far side of an output port, where the port leads to another router of the half. Marks: DEDUCED safe (log entry 43). -/
def portPeer (r port : Nat) : Option (Nat × Nat) :=
  match port with
  | 0 => some (r + 1, 1)
  | 1 => some (r - 1, 0)
  | 2 => some (r + 4, 3)
  | 3 => some (r - 4, 2)
  | _ => none

/-- The half and lock behind an output port (R65, R70): an HBM lock, or a link lock. -/
def portLock (r port : Nat) : Option (Nat × Nat) :=
  match port with
  | 11 => some (r / 8, 2 * (r % 8))
  | 12 => some (r / 8, 2 * (r % 8) + 1)
  | 13 => if r % 8 = 3 then some (r / 8, 16) else if r % 8 = 0 then some (r / 8, 17) else none
  | _ => none

/-- A flit as a lock's word. -/
def flitWord (f : Flit) : LWord := ⟨if f.cls = 0 then .request else .response, f.tag, f.who, some f⟩

/-- The lowest input port of a router whose lane holds, at its front, a flit for an output port. Marks: DESIGN CHOICE unsafe (log entry 41). -/
def State.laneHead (s : State) (r port cls polder : Nat) : Option (Nat × Flit) :=
  (List.range 14).findSome? fun q =>
    match s.lane r q cls polder with
    | f :: _ => if routePort r f.dst = port then some (q, f) else none
    | [] => none

/-- May a lane's flit leave: is there credit for it behind the output port (R67), or does the lock there take it or answer it (R69, R72, R74)? -/
def State.peerRoom (s : State) (r port cls polder : Nat) : Bool :=
  match portPeer r port, portLock r port with
  | some (r', q), _ => s.laneRoom r' q cls polder
  | none, some (h, n) =>
    let l := s.lock h n
    match l.st with
    | .run => decide (l.tx.length < 32) && l.waiting.isEmpty
    | .drain => decide (l.tx.length < 32) && cls != 0
    | .flush => true
    | .held => true
    | _ => false
  | none, none => true

/-- The flit lane v (2 × polder + class) may send from an output port. -/
def State.laneReady (s : State) (r port v : Nat) : Option (Nat × Flit) :=
  if s.peerRoom r port (v % 2) (v / 2) then s.laneHead r port (v % 2) (v / 2) else none

/-- The first ready lane after the one served last, in round robin (R68). Marks: DEDUCED safe (log entry 42). -/
def State.roundRobin (s : State) (r port last : Nat) : Option (Nat × Nat × Flit) :=
  (List.range 32).findSome? fun i =>
    let v := (last + 1 + i) % 32
    (s.laneReady r port v).map fun e => (v, e.1, e.2)

/-- Flits at the front of a lane that find the lock behind their port in DRAIN, STOPPED or WAKING wait and raise a wake (R73). -/
def State.wakePort (s : State) (r port : Nat) : State :=
  match portLock r port with
  | none => s
  | some (h, n) =>
    (List.range 32).foldl
      (fun u v =>
        let l := u.lock h n
        if (l.st = .drain ∧ v % 2 = 0) ∨ l.st = .stopped ∨ l.st = .waking then
          match u.laneHead r port (v % 2) (v / 2) with
          | some (_, f) =>
            if u.fab.waiters.any fun w => w.on == .lock h n (flitWord f) then u else (u.beginWait h (.lock h n (flitWord f)) f.who).raiseWake h n
          | none => u
        else u) s

/-- A request that is aborted waits no longer (R596): the word before its lock, or the flit at the front of its lane, is gone. -/
def State.dropWait (s : State) (w : Waiter) : State :=
  let s1 := s.endWait w
  match w.on with
  | .lock h n x =>
    let l := s1.lock h n
    if l.waiting.contains x then s1.setLock h n { l with waiting := l.waiting.erase x }
    else (match x.flit, lockRouter h n with
      | some f, some (r, port) => (match s1.laneHead r port f.cls f.polder with
        | some (q, g) => if g = f then (s1.setLane r q f.cls f.polder (s1.lane r q f.cls f.polder).tail).serveWaits r q else s1
        | none => s1)
      | _, _ => s1)
  | _ => s1

/-- A flit leaves an input lane through an output port: to the next router's lane, to the lock or to the unit on the port; it is
counted in CANAL_FLITS (R91), and the place it leaves is credit for who waits there. Marks: DEDUCED safe (log entry 43). -/
def State.forward (s : State) (r port q : Nat) (f : Flit) : State :=
  let s1 := (s.setLane r q f.cls f.polder (s.lane r q f.cls f.polder).tail).cinc C.CANAL_FLITS r
  let s2 := match portPeer r port, portLock r port with
    | some (r', q'), _ => s1.enterLane r' q' f
    | none, some (h, n) => (s1.endLockWait h n (flitWord f)).lockPush h n (flitWord f)
    | none, none => s1.emit (.flitOut r port f)
  s2.serveWaits r q

/-- One transfer at an output port: round robin over the lanes, or the next of 32 fixed slots (R68). -/
def State.serveport (s : State) (r port : Nat) : State :=
  let k := 16 * r + port
  if s.fbit F.CANAL_CTRL_ARB r then
    let v := Tab.get (fun _ => 0) s.fab.slot k
    let s1 := { s with fab := { s.fab with slot := Tab.set (fun _ => 0) s.fab.slot k ((v + 1) % 32) } }
    match s.laneReady r port v with
    | some (q, f) => s1.forward r port q f
    | none => s1
  else
    match s.roundRobin r port (Tab.get (fun _ => 31) s.fab.served k) with
    | some (v, q, f) =>
      ({ s with fab := { s.fab with served := Tab.set (fun _ => 31) s.fab.served k v } }).forward r port q f
    | none => s

/-- CANAL_FLIT (R66 to R68): a flit may be offered at an input port, and the output port passes one flit on. -/
def execCanalFlit (row port : Nat) (inject : Option (Nat × Flit)) (s : State) : Res :=
  let s1 := match inject with
    | some (q, f) => s.offerFlit row q f
    | none => s
  .next ((s1.wakePort row port).serveport row port)

/-! ## Pace (R50 to R54) -/

/-- A reading as its register holds it: above 4,095 it saturates (R86). -/
def paceSat (n : Nat) : Nat := min n 0xFFF

/-- The samples of a mill in the running turn are forgotten (R54). -/
def State.forgetPace (s : State) (m : Nat) : State :=
  { s with fab := { s.fab with turnMin := Tab.set (fun _ => none) s.fab.turnMin m none } }

/-- The lowest valid PACE of both halves, invalid halves skipped (R56). -/
def State.avsPace (s : State) : Option Nat :=
  let l := ([0, 1].filter fun h => s.fbit F.VANE_HALF_MIN_VALID h).map fun h => s.fget F.VANE_HALF_MIN_PACE h
  match l with
  | [] => none
  | a :: r => some (r.foldl min a)

/-- A master as it stands. -/
def State.i2cm (s : State) (k : Nat) : I2cSt := Tab.get (fun _ => ({} : I2cSt)) s.i2c k

/-- The setting v of R56: that of the command in progress or waiting, else the voltage the VRM accepted last (R58); 0 where there is none. Marks: DESIGN CHOICE safe (log entry 204). -/
def State.avsV (s : State) : Nat :=
  match (s.i2cm 0).avsWaits, (s.i2cm 0).cur with
  | some (.voutCommand mv), _ => mv
  | _, some (.voutCommand mv) => mv
  | _, _ => s.fab.rail

/-- AT_VMAX (R56): in PACE mode, v = VMAX and p < TARGET. -/
def State.atVmax (s : State) : Bool :=
  s.fbit F.VANE_AVS_CTRL_MODE 0 && s.avsV == s.fget F.VANE_AVS_VLIM_VMAX 0 &&
    match s.avsPace with | some p => decide (p < s.fget F.VANE_AVS_CTRL_TARGET 0) | none => false

/-- AT_VMIN (R56): in PACE mode, v = VMIN. -/
def State.atVmin (s : State) : Bool := s.fbit F.VANE_AVS_CTRL_MODE 0 && s.avsV == s.fget F.VANE_AVS_VLIM_VMIN 0

/-- AVS_LIMIT is raised where the condition of AT_VMAX holds (R56). -/
def State.avsCheck (s : State) : State := if s.atVmax then s.raise T.vane 0 I.VANE_AVS_LIMIT else s

/-- The lowest of a list of vane readings. -/
def lowest : List Nat → Nat
  | [] => 0
  | x :: xs => xs.foldl min x

end Sys2Proof.Machine
end

