-- ==== Sys2Proof/Machine/Flags.lean ====
section
/-!
DEFINITION. The stones' arithmetic with its clamps and status bits (R110 to R115): saturation to a width, the roundings, the
products of the MAC slot, and the ALU. Each operation answers its value and whether it clamped, which sets SR.SAT or SR.AOVF.
-/

namespace Sys2Proof.Machine

/-- The largest value of a signed width. -/
def smax (w : Nat) : Int := 2 ^ (w - 1) - 1

/-- The smallest value of a signed width. -/
def smin (w : Nat) : Int := -(2 ^ (w - 1))

/-- Clamps to the signed range of a width; the second part tells whether it clamped. -/
def clampS (w : Nat) (x : Int) : Int × Bool :=
  if smax w < x then (smax w, true) else if x < smin w then (smin w, true) else (x, false)

/-- x ÷ 2^k rounded towards −∞. -/
def floorShift (x : Int) (k : Nat) : Int := x / 2 ^ k

/-- x ÷ 2^k rounded half towards +∞. -/
def halfUp (x : Int) (k : Nat) : Int := if k = 0 then x else (x + 2 ^ (k - 1)) / 2 ^ k

/-- x ÷ 2^k rounded half to even. -/
def halfEven (x : Int) (k : Nat) : Int :=
  let q := x / 2 ^ k
  let r := x % 2 ^ k
  if 2 ^ k < 2 * r ∨ (2 * r = 2 ^ k ∧ q % 2 = 1) then q + 1 else q

/-- The rounding of ACCRD (R114). -/
def roundBy (rnd : Nat) (x : Int) (k : Nat) : Int :=
  match rnd with
  | 0 => floorShift x k
  | 1 => halfUp x k
  | _ => halfEven x k

/-- The signed low half of a data word (R110). -/
def lowHalf (w : Word) : Int := signedOf 16 w.toNat

/-- The signed high half of a data word (R110). -/
def highHalf (w : Word) : Int := signedOf 16 (w.toNat / 65536)

/-- An accumulator as an integer. -/
def accInt (a : Acc72) : Int := a.toInt

/-- The accumulator that holds an integer of its range. -/
def accOf (x : Int) : Acc72 := BitVec.ofInt 72 x

/-- One 16 × 16 product (R111): with FRAC it is doubled, and the one product out of range gives 0x7FFF_FFFF and SAT. -/
def prod16 (frac : Bool) (a b : Int) : Int × Bool := if frac then clampS 32 (2 * (a * b)) else (a * b, false)

/-- An operand of a 32 × 32 product (R112): signed or unsigned. -/
def op32 (signed : Bool) (w : Word) : Int := if signed then w.toInt else Int.ofNat w.toNat

/-- One 32 × 32 product (R112): with FRAC it is doubled and clamped to the signed 64-bit range. -/
def prod32 (frac : Bool) (a b : Int) : Int × Bool := if frac then clampS 64 (2 * (a * b)) else (a * b, false)

/-- The sum an accumulator takes from the products of one instruction: the accumulator, and the contribution. -/
structure AccAdd where
  acc : Nat
  val : Int
  deriving DecidableEq, Repr

/-- The contributions of MAC4 and MUL4 by sub-mode (R111), and whether a product clamped. Marks: DEDUCED unsafe (log entry 104). -/
def mac4Terms (n sub : Nat) (frac neg : Bool) (da db : Word) : List AccAdd × Bool :=
  let a0 := lowHalf da
  let a1 := highHalf da
  let b0 := lowHalf db
  let b1 := highHalf db
  let p00 := prod16 frac a0 b0
  let p10 := prod16 frac a1 b0
  let p01 := prod16 frac a0 b1
  let p11 := prod16 frac a1 b1
  let g : Int := if neg then -1 else 1
  match sub with
  | 0 => ([⟨0, g * p00.1⟩, ⟨1, g * p10.1⟩, ⟨2, g * p01.1⟩, ⟨3, g * p11.1⟩], p00.2 || p10.2 || p01.2 || p11.2)
  | 1 => ([⟨n, g * (p00.1 + p11.1)⟩], p00.2 || p11.2)
  | 2 => ([⟨n, g * (p00.1 - p11.1)⟩, ⟨n + 1, g * (p01.1 + p10.1)⟩], p00.2 || p10.2 || p01.2 || p11.2)
  | _ => ([⟨n, g * p00.1⟩, ⟨n + 1, g * p11.1⟩], p00.2 || p11.2)

/-- The contributions of MAC32 and MUL32 (R112): the pairs' low words to acc n, their high words to acc n + 1. -/
def mac32Terms (n sub : Nat) (frac neg : Bool) (al ah bl bh : Word) : List AccAdd × Bool :=
  let sa := sub == 0 || sub == 2
  let sb := sub == 0
  let p := prod32 frac (op32 sa al) (op32 sb bl)
  let q := prod32 frac (op32 sa ah) (op32 sb bh)
  let g : Int := if neg then -1 else 1
  ([⟨n, g * p.1⟩, ⟨n + 1, g * q.1⟩], p.2 || q.2)

/-- The value ACCRD writes (R114): rounded, clamped to 16 or 32 bits and sign-extended. -/
def accrdVal (a : Acc72) (sh rnd : Nat) (w : Bool) : Int × Bool :=
  clampS (if w then 32 else 16) (roundBy rnd (accInt a) sh)

/-- The value ACCSH writes (R114): sh is read as signed −32 to +31, to the left when positive. -/
def accshVal (a : Acc72) (sh : Nat) : Int × Bool :=
  let k := signedOf 6 sh
  if 0 ≤ k then clampS 72 (accInt a * 2 ^ k.toNat) else (floorShift (accInt a) (-k).toNat, false)

/-- The value ACCLD writes (R114). -/
def accldVal (d : Word) (sh : Nat) : Int × Bool := clampS 72 (d.toInt * 2 ^ sh)

/-- Leading zeros of the low n bits of a value. -/
def leadingZeros : Nat → Nat → Nat
  | 0, _ => 0
  | n + 1, v => if bitAt v n then 0 else 1 + leadingZeros n v

/-- A saturating operation on both signed 16-bit halves (R115). -/
def halves (f : Int → Int → Int) (a b : Word) : Word × Bool :=
  let lo := clampS 16 (f (lowHalf a) (lowHalf b))
  let hi := clampS 16 (f (highHalf a) (highHalf b))
  (BitVec.ofNat 32 (toBits 16 hi.1 * 65536 + toBits 16 lo.1), lo.2 || hi.2)

/-- A clamped 32-bit result as a word. -/
def sat32 (x : Int) : Word × Bool := (BitVec.ofInt 32 (clampS 32 x).1, (clampS 32 x).2)

/-- The ALU (R115, R143): the value from d(rd), d(rs) and d(rt), and whether it clamped. -/
def aluVal (f : AluOp) (d a b : Word) : Word × Bool :=
  match f with
  | .add => (a + b, false)
  | .sub => (a - b, false)
  | .and => (a &&& b, false)
  | .or => (a ||| b, false)
  | .xor => (a ^^^ b, false)
  | .shl => (a <<< (b.toNat % 64), false)
  | .shr => (a >>> (b.toNat % 64), false)
  | .sar => (a.sshiftRight (b.toNat % 64), false)
  | .min => (if a.toInt ≤ b.toInt then a else b, false)
  | .max => (if a.toInt ≤ b.toInt then b else a, false)
  | .minu => (if a.toNat ≤ b.toNat then a else b, false)
  | .maxu => (if a.toNat ≤ b.toNat then b else a, false)
  | .abs => sat32 (if a.toInt < 0 then -a.toInt else a.toInt)
  | .adds => sat32 (a.toInt + b.toInt)
  | .subs => sat32 (a.toInt - b.toInt)
  | .add2s => halves (· + ·) a b
  | .sub2s => halves (· - ·) a b
  | .clz => (BitVec.ofNat 32 (leadingZeros 32 a.toNat), false)
  | .cmpeq => (if a = b then 1 else 0, false)
  | .cmplt => (if a.toInt < b.toInt then 1 else 0, false)
  | .cmpltu => (if a.toNat < b.toNat then 1 else 0, false)
  | .sel => (if d ≠ 0 then a else b, false)
  | .pack => (BitVec.ofNat 32 (a.toNat % 65536 * 65536 + b.toNat % 65536), false)

/-- SR with SAT set where an operation clamped (R103). -/
def srSat (sr : Nat) (clamped : Bool) : Nat := if clamped then setBitN sr 0 else sr

/-- SR with AOVF set where an accumulator saturated (R103). -/
def srAovf (sr : Nat) (clamped : Bool) : Nat := if clamped then setBitN sr 1 else sr

end Sys2Proof.Machine
end

