-- ==== Sys2Proof/Machine/Operands.lean ====
section
/-!
DEFINITION. The operand forms of the stones: reading registers of a context, the addressing modes of R117 to R120, the address
map of R99, what each syllable reads and writes, which syllables are illegal (R105), and the encoding of syllables (R139 to
R143) with its decoder.
-/

namespace Sys2Proof.Machine

/-- A register of a file that reads zero until it is written. -/
def regGet (t : Tab Word) (r : Nat) : Word := Tab.get (fun _ => (0 : Word)) t r

/-- A register file with one register set. -/
def regSet (t : Tab Word) (r : Nat) (v : Word) : Tab Word := Tab.set (fun _ => (0 : Word)) t r v

/-- An accumulator of a file. -/
def accGet (t : Tab Acc72) (n : Nat) : Acc72 := Tab.get (fun _ => (0 : Acc72)) t n

/-- An accumulator file with one accumulator set. -/
def accSet (t : Tab Acc72) (n : Nat) (v : Acc72) : Tab Acc72 := Tab.set (fun _ => (0 : Acc72)) t n v

/-- d(r) of a context. -/
def Ctx.dr (c : Ctx) (r : Nat) : Word := regGet c.d (r % 32)

/-- a(r) of a context. -/
def Ctx.ar (c : Ctx) (r : Nat) : Word := regGet c.a (r % 16)

/-- The pair dp of two data registers as a 64-bit value (R101). -/
def Ctx.pair (c : Ctx) (r : Nat) : Nat := (c.dr r).toNat + (c.dr (r + 1)).toNat * 2 ^ 32

/-! ## Addressing (R117 to R120) -/

/-- The signed off field. -/
def offInt (m : Amode) : Int := signedOf 11 m.off

/-- The effective address (R117). -/
def effAddr (c : Ctx) (m : Amode) : Nat :=
  let a := (c.ar m.an).toNat
  match m.mode with
  | 0 => toBits 32 (Int.ofNat a + offInt m)
  | 2 => (a + (c.dr (m.off % 32)).toNat) % 2 ^ 32
  | _ => a

/-- A mode or field the MEM format reserves (R117): ILLEGAL_OP. -/
def modeIllegal (m : Amode) : Bool := decide (4 < m.mode) || (m.mode == 2 && decide (32 ≤ m.off % 2048))

/-- The reversal of the low k bits of a value (R119). -/
def revBits : Nat → Nat → Nat
  | 0, _ => 0
  | k + 1, x => x % 2 * 2 ^ k + revBits k (x / 2)

/-- k where L = 2^k with k = 1 to 16 (R119). -/
def log2Len (l : Nat) : Option Nat := (List.range 17).find? fun k => 0 < k && 2 ^ k == l

/-- The circular update (R118). -/
def circUpdate (a b l : Nat) (off : Int) : Nat :=
  toBits 32 (Int.ofNat b + (Int.ofNat a - Int.ofNat b + off) % Int.ofNat l)

/-- The reverse-carry update (R119). -/
def revUpdate (a b k : Nat) (off : Int) : Nat :=
  let x := revBits k (toBits 32 (Int.ofNat a - Int.ofNat b))
  let y := revBits k (toBits 32 off)
  (b + revBits k ((x + y) % 2 ^ k)) % 2 ^ 32

/-- Does a use of the pair end with CIRC: L = 0 or above 65,536, or no power of two in bit-reversed mode? -/
def circFault (c : Ctx) (m : Amode) : Bool :=
  let l := (regGet c.cl (m.cp % 8)).toNat
  (m.mode == 3 && (l == 0 || decide (65536 < l))) || (m.mode == 4 && (log2Len l).isNone)

/-- The value the mode writes to its address register, where it updates it. -/
def addrUpdate (c : Ctx) (m : Amode) : Option Nat :=
  let a := (c.ar m.an).toNat
  let b := (regGet c.cb (m.cp % 8)).toNat
  let l := (regGet c.cl (m.cp % 8)).toNat
  match m.mode with
  | 1 => some (toBits 32 (Int.ofNat a + offInt m))
  | 3 => some (circUpdate a b l (offInt m))
  | 4 => (log2Len l).map fun k => revUpdate a b k (offInt m)
  | _ => none

/-! ## Accesses -/

/-- The bytes of an access (R120). -/
def memSize : MemOp → Nat
  | .ldW | .stW | .ldfW | .stfW => 4
  | .ldH | .ldHU | .stH => 2
  | .ldD | .stD | .ldfD | .stfD => 8
  | .lsave | .lrest => 8
  | .lea => 1

/-- The bytes an access reaches from its effective address: the loop image is 40 bytes (R123). -/
def memReach : MemOp → Nat
  | .lsave | .lrest => 40
  | op => memSize op

/-- A near access, to the stone's own data memory (R99). -/
def isNear : MemOp → Bool
  | .ldW | .ldH | .ldHU | .ldD | .stW | .stH | .stD | .lsave | .lrest => true
  | _ => false

/-- A far access, to bin or millpond (R99). -/
def isFar : MemOp → Bool
  | .ldfW | .ldfD | .stfW | .stfD => true
  | _ => false

/-- Operations that name a pair: rd must be even (R105, R141). -/
def pairOp : MemOp → Bool
  | .ldD | .stD | .ldfD | .stfD => true
  | _ => false

/-- The bin part of a far address (R99). -/
def binOffset (ea : Nat) : Option Nat := if 0x100000 ≤ ea ∧ ea < 0x200000 then some (ea - 0x100000) else none

/-- The bin bank of a far address: bits 9:6 of its offset (R97). -/
def binBank (ea : Nat) : Option Nat := (binOffset ea).map fun b => b / 64 % 16

/-- The millpond part of a far address (R99). -/
def pondOffset (ea : Nat) : Option Nat := if 0x10000000 ≤ ea ∧ ea < 0x14000000 then some (ea - 0x10000000) else none

/-- Is a millpond offset inside a window of polder p (R478, R488)? -/
def State.inWindow (s : State) (p off : Nat) : Bool :=
  (List.range 4).any fun w =>
    let h := s.fget F.DIKE_PWIN_HALF p w
    let base := h * 2 ^ 25 + 31 * 2 ^ 20
    s.fbit F.DIKE_PWIN_VALID p w && decide (base + s.fget F.DIKE_PWIN_FIRST p w * 65536 ≤ off)
      && decide (off < base + (s.fget F.DIKE_PWIN_LAST p w + 1) * 65536)

/-- The kernel area of a mill in bytes (R150). -/
def State.karea (s : State) (m : Nat) : Nat := s.fget F.MILL_BIN_SPLIT_KAREA m * 65536

/-- The fault of a far address (R99, R130), in the order of the cause codes: ADDR_RANGE, ALIGN, ACCESS. -/
def State.farFault (s : State) (m ea size : Nat) (writes : Bool) : Option (Nat × Nat) :=
  match binOffset ea, pondOffset ea with
  | none, none => some (2, ea)
  | some b, _ =>
    if ea % size ≠ 0 then some (3, ea)
    else if writes ∧ b < s.karea m then some (6, ea) else none
  | none, some o =>
    if ea % size ≠ 0 then some (3, ea)
    else if s.inWindow (s.fget F.MILL_ROLE_POLDER m) o then none else some (6, ea)

/-! ## Legality (R105, R111, R112, R114, R121, R137, R144) -/

/-- A special register an MTSR may write (R144): SR, EPC in context 3, DBPEND and DBMASK. -/
def mtsrOk (ctx idx : Nat) : Bool := idx == 0 || (idx == 1 && ctx == 3) || idx == 7 || idx == 8

/-- Does a syllable end with ILLEGAL_OP in a slot and context, by its own fields? The reserved sub 0b11 of MAC32 and MUL32 and the reserved rnd 0b11
of ACCRD do. Marks: DEDUCED unsafe (log entry 108). -/
def sylIllegal (slot ctx : Nat) : Syl → Bool
  | .nop => false
  | .bad => true
  | .mem op rd m =>
    decide (1 < slot) || modeIllegal m || (pairOp op && rd % 2 == 1)
      || ((op == .lsave || op == .lrest) && (slot != 0 || m.mode != 0 || rd != 0)) || (op == .lea && rd != 0)
  | .amo _ rd _ => decide (1 < slot) || rd % 2 == 1
  | .mova .. | .movd .. | .movc .. | .fence => decide (1 < slot)
  | .mac op n da db sub .. =>
    slot != 2 ||
      match op with
      | .mac4 | .mul4 =>
        match sub with
        | 0 => n != 0
        | 1 => false
        | _ => n % 2 == 1
      | .mac32 | .mul32 => n % 2 == 1 || da % 2 == 1 || db % 2 == 1 || decide (2 < sub)
  | .accrd _ _ _ rnd _ => slot != 2 || rnd == 3
  | .accclr .. | .accmov .. | .accsh .. | .accld .. => slot != 2
  | .br cond .. => slot != 3 || cond == 7
  | .mfsr _ idx => slot != 3 || decide (9 < idx % 256)
  | .mtsr _ idx => slot != 3 || !mtsrOk ctx (idx % 256)
  | .reti => slot != 3 || ctx != 3
  | .loop .. => slot != 3
  | .alu .. | .addi .. | .movi .. | .movhi .. | .andi .. | .call .. | .ret | .dbell .. | .endU | .endf .. => slot != 3

/-- The address register a syllable writes, where it writes one (R105). -/
def addrReg (c : Ctx) : Syl → Option Nat
  | .mem _ _ m => if (addrUpdate c m).isSome then some (m.an % 16) else none
  | .mova ra _ => some (ra % 16)
  | .call _ => some 15
  | _ => none

/-- Does an ALU operation read rt (R143)? -/
def readsRt : AluOp → Bool
  | .abs | .clz => false
  | _ => true

/-- The data registers a syllable reads or writes, which its scoreboard wait looks at (R109). -/
def sylRegs : Syl → List Nat
  | .mem op rd m =>
    (if pairOp op then [rd, rd + 1] else match op with
      | .lea | .lsave | .lrest => []
      | _ => [rd]) ++ (if m.mode = 2 then [m.off % 32] else [])
  | .amo _ rd _ => [rd, rd + 1]
  | .mova _ rs => [rs]
  | .movd rd _ => [rd]
  | .movc _ _ rs => [rs]
  | .mac op _ da db .. =>
    match op with
    | .mac4 | .mul4 => [da, db]
    | _ => [da, da + 1, db, db + 1]
  | .accrd _ rd .. => [rd]
  | .accld _ rs _ => [rs]
  | .alu f rd rs rt => if readsRt f then [rd, rs, rt] else [rd, rs]
  | .addi rd rs _ | .andi rd rs _ => [rd, rs]
  | .movi rd _ | .movhi rd _ => [rd]
  | .br cond rs _ => if cond = 0 then [] else [rs]
  | .loop _ byReg rs .. => if byReg then [rs] else []
  | .mfsr rd _ => [rd]
  | .mtsr rs _ => [rs]
  | .dbell rs => [rs]
  | .endf rs => [rs]
  | _ => []

/-- Is the branch taken (R140)? -/
def condTaken (cond : Nat) (v : Word) : Bool :=
  match cond with
  | 0 => true
  | 1 => v == 0
  | 2 => v != 0
  | 3 => decide (v.toInt < 0)
  | 4 => decide (0 ≤ v.toInt)
  | 5 => decide (0 < v.toInt)
  | 6 => decide (v.toInt ≤ 0)
  | _ => false

/-- The target of a displacement counted in instruction bundles from the one that holds the branch (R139). -/
def brTarget (pc disp : Nat) : Nat := toBits 32 (Int.ofNat pc + 16 * signedOf 18 disp)

/-! ## Encodings (R139 to R143) -/

/-- The opcode of a MEM-format operation (R141). -/
def memCode : MemOp → Nat
  | .ldW => 1 | .ldH => 2 | .ldHU => 3 | .ldD => 4 | .stW => 5 | .stH => 6 | .stD => 7
  | .ldfW => 8 | .ldfD => 9 | .stfW => 10 | .stfD => 11 | .lea => 13 | .lsave => 17 | .lrest => 18

/-- The MEM-format operation of an opcode. -/
def memOpOf : Nat → Option MemOp
  | 1 => some .ldW | 2 => some .ldH | 3 => some .ldHU | 4 => some .ldD | 5 => some .stW | 6 => some .stH | 7 => some .stD
  | 8 => some .ldfW | 9 => some .ldfD | 10 => some .stfW | 11 => some .stfD | 13 => some .lea | 17 => some .lsave
  | 18 => some .lrest
  | _ => none

/-- The function code of an AMO (R137). -/
def amoCode : AmoFn → Nat
  | .add => 0 | .swap => 1 | .cas => 2 | .max => 3 | .or => 4

/-- The AMO function of a code. -/
def amoFnOf : Nat → Option AmoFn
  | 0 => some .add | 1 => some .swap | 2 => some .cas | 3 => some .max | 4 => some .or | _ => none

/-- The opcode of a MAC-slot product (R142). -/
def macCode : MacOp → Nat
  | .mac4 => 1 | .mul4 => 2 | .mac32 => 3 | .mul32 => 4

/-- The MAC-slot product of an opcode. -/
def macOpOf : Nat → Option MacOp
  | 1 => some .mac4 | 2 => some .mul4 | 3 => some .mac32 | 4 => some .mul32 | _ => none

/-- The fn of an ALU operation (R143). -/
def aluCode : AluOp → Nat
  | .add => 0 | .sub => 1 | .and => 2 | .or => 3 | .xor => 4 | .shl => 5 | .shr => 6 | .sar => 7 | .min => 8 | .max => 9
  | .minu => 10 | .maxu => 11 | .abs => 12 | .adds => 13 | .subs => 14 | .add2s => 15 | .sub2s => 16 | .clz => 17
  | .cmpeq => 18 | .cmplt => 19 | .cmpltu => 20 | .sel => 21 | .pack => 22

/-- The ALU operation of an fn. -/
def aluOpOf : Nat → Option AluOp
  | 0 => some .add | 1 => some .sub | 2 => some .and | 3 => some .or | 4 => some .xor | 5 => some .shl | 6 => some .shr
  | 7 => some .sar | 8 => some .min | 9 => some .max | 10 => some .minu | 11 => some .maxu | 12 => some .abs
  | 13 => some .adds | 14 => some .subs | 15 => some .add2s | 16 => some .sub2s | 17 => some .clz | 18 => some .cmpeq
  | 19 => some .cmplt | 20 => some .cmpltu | 21 => some .sel | 22 => some .pack | _ => none

/-- The word of a syllable in the slot that has it (R139 to R143). -/
def encodeSyl : Syl → Nat
  | .nop => 0
  | .bad => 0xFFFFFFFF
  | .mem op rd m => memCode op * 2 ^ 26 + rd * 2 ^ 21 + m.an * 2 ^ 17 + m.mode * 2 ^ 14 + m.cp * 2 ^ 11 + m.off
  | .amo f rd an => 12 * 2 ^ 26 + rd * 2 ^ 21 + an * 2 ^ 17 + amoCode f * 2 ^ 11
  | .mova ra rs => 14 * 2 ^ 26 + ra * 2 ^ 21 + rs * 2 ^ 16
  | .movd rd ra => 15 * 2 ^ 26 + rd * 2 ^ 21 + ra * 2 ^ 16
  | .movc len k rs => 16 * 2 ^ 26 + (k + 8 * b2n len) * 2 ^ 21 + rs * 2 ^ 16
  | .fence => 19 * 2 ^ 26
  | .mac op n da db sub frac neg =>
    macCode op * 2 ^ 26 + n * 2 ^ 24 + da * 2 ^ 19 + db * 2 ^ 14 + sub * 2 ^ 12 + b2n frac * 2 ^ 11 + b2n neg * 2 ^ 10
  | .accrd n rd sh rnd w => 5 * 2 ^ 26 + n * 2 ^ 24 + rd * 2 ^ 19 + sh * 2 ^ 13 + rnd * 2 ^ 11 + b2n w * 2 ^ 10
  | .accclr mask => 6 * 2 ^ 26 + mask * 2 ^ 20
  | .accmov n m => 7 * 2 ^ 26 + n * 2 ^ 24 + m * 2 ^ 22
  | .accsh n sh => 8 * 2 ^ 26 + n * 2 ^ 24 + sh * 2 ^ 13
  | .accld n rs sh => 9 * 2 ^ 26 + n * 2 ^ 24 + rs * 2 ^ 19 + sh * 2 ^ 13
  | .alu f rd rs rt => 1 * 2 ^ 26 + rd * 2 ^ 21 + rs * 2 ^ 16 + rt * 2 ^ 11 + aluCode f
  | .addi rd rs imm => 2 * 2 ^ 26 + rd * 2 ^ 21 + rs * 2 ^ 16 + imm
  | .movi rd imm => 3 * 2 ^ 26 + rd * 2 ^ 21 + imm
  | .movhi rd imm => 4 * 2 ^ 26 + rd * 2 ^ 21 + imm
  | .andi rd rs imm => 5 * 2 ^ 26 + rd * 2 ^ 21 + rs * 2 ^ 16 + imm
  | .br cond rs disp => 8 * 2 ^ 26 + cond * 2 ^ 23 + rs * 2 ^ 18 + disp
  | .call disp => 9 * 2 ^ 26 + disp
  | .ret => 10 * 2 ^ 26
  | .loop lvl byReg rs count len =>
    11 * 2 ^ 26 + lvl * 2 ^ 24 + b2n byReg * 2 ^ 23 + (if byReg then rs * 2 ^ 18 else count * 2 ^ 7) + (len - 1)
  | .mfsr rd idx => 12 * 2 ^ 26 + rd * 2 ^ 21 + idx
  | .mtsr rs idx => 13 * 2 ^ 26 + rs * 2 ^ 16 + idx
  | .dbell rs => 14 * 2 ^ 26 + rs * 2 ^ 16
  | .endU => 15 * 2 ^ 26
  | .endf rs => 16 * 2 ^ 26 + rs * 2 ^ 16
  | .reti => 17 * 2 ^ 26

/-- The syllable, where a field the format marks as zero is zero; else `bad` (R105). Marks: DEDUCED unsafe (log entry 108). -/
def zeroed (v lo w : Nat) (y : Syl) : Syl := if bitField v lo w = 0 then y else .bad

/-- The MEM fields of a word. -/
def amodeOf (v : Nat) : Amode := ⟨bitField v 17 4, bitField v 14 3, bitField v 11 3, bitField v 0 11⟩

/-- The decoder of slots 0 and 1 (R141). Of opcode 0 only the all-zero word is an operation, in every slot. Marks: DEDUCED unsafe (log entry 108). -/
def decodeLs (slot v : Nat) : Syl :=
  let op := bitField v 26 6
  let rd := bitField v 21 5
  match memOpOf op with
  | some o =>
    if (o = .lsave ∨ o = .lrest) ∧ (slot ≠ 0 ∨ rd ≠ 0 ∨ bitField v 14 3 ≠ 0) then .bad
    else if o = .lea ∧ rd ≠ 0 then .bad
    else .mem o rd (amodeOf v)
  | none =>
    match op with
    | 0 => if v = 0 then .nop else .bad
    | 12 =>
      if bitField v 14 3 ≠ 0 ∨ bitField v 0 11 ≠ 0 then .bad
      else match amoFnOf (bitField v 11 3) with
        | some f => .amo f rd (bitField v 17 4)
        | none => .bad
    | 14 => if 16 ≤ rd then .bad else zeroed v 0 16 (.mova rd (bitField v 16 5))
    | 15 => if 16 ≤ bitField v 16 5 then .bad else zeroed v 0 16 (.movd rd (bitField v 16 5))
    | 16 => if 16 ≤ rd then .bad else .movc (decide (8 ≤ rd)) (rd % 8) (bitField v 16 5)
    | 19 => zeroed v 0 26 .fence
    | _ => .bad

/-- The decoder of slot 2 (R142). -/
def decodeMac (v : Nat) : Syl :=
  let op := bitField v 26 6
  let n := bitField v 24 2
  match macOpOf op with
  | some o =>
    zeroed v 0 10 (.mac o n (bitField v 19 5) (bitField v 14 5) (bitField v 12 2) (bitAt v 11) (bitAt v 10))
  | none =>
    match op with
    | 0 => if v = 0 then .nop else .bad
    | 5 => zeroed v 0 10 (.accrd n (bitField v 19 5) (bitField v 13 6) (bitField v 11 2) (bitAt v 10))
    | 6 => zeroed v 19 1 (zeroed v 0 10 (.accclr (bitField v 20 4)))
    | 7 => zeroed v 19 3 (zeroed v 0 10 (.accmov n (bitField v 22 2)))
    | 8 => zeroed v 0 10 (.accsh n (bitField v 13 6))
    | 9 => zeroed v 0 10 (.accld n (bitField v 19 5) (bitField v 13 6))
    | _ => .bad

/-- The decoder of slot 3 (R143). -/
def decodeAlu (v : Nat) : Syl :=
  let rd := bitField v 21 5
  let rs := bitField v 16 5
  let imm := bitField v 0 16
  match bitField v 26 6 with
  | 0 => if v = 0 then .nop else .bad
  | 1 =>
    match aluOpOf (bitField v 0 11) with
    | some f => .alu f rd rs (bitField v 11 5)
    | none => .bad
  | 2 => .addi rd rs imm
  | 3 => zeroed v 16 5 (.movi rd imm)
  | 4 => zeroed v 16 5 (.movhi rd imm)
  | 5 => .andi rd rs imm
  | 8 => .br (bitField v 23 3) (bitField v 18 5) (bitField v 0 18)
  | 9 => zeroed v 18 8 (.call (bitField v 0 18))
  | 10 => zeroed v 0 26 .ret
  | 11 =>
    if bitAt v 23 then
      zeroed v 7 11 (.loop (bitField v 24 2) true (bitField v 18 5) 0 (bitField v 0 7 + 1))
    else .loop (bitField v 24 2) false 0 (bitField v 7 16) (bitField v 0 7 + 1)
  | 12 => .mfsr rd imm
  | 13 => .mtsr rs imm
  | 14 => .dbell rs
  | 15 => zeroed v 0 26 .endU
  | 16 => .endf rs
  | 17 => zeroed v 0 26 .reti
  | _ => .bad

/-- The decoder of a syllable word in its slot (R104). -/
def decodeSyl (slot v : Nat) : Syl :=
  match slot with
  | 0 | 1 => decodeLs slot v
  | 2 => decodeMac v
  | _ => decodeAlu v

end Sys2Proof.Machine
end

