-- ==== Sys2Proof/Machine/Queue.lean ====
section
/-!
DEFINITION. The queues (R328 to R343, R351 to R354): their ids and kinds, cells and pools, appending with LIMIT, quota and gap
markers, visibility, marks, rewinds and releases, the spillway counters, and the host-visible window.
-/

namespace Sys2Proof.Machine

/-! ## Ids -/

/-- The stage queue of stone k of role q (R328). -/
def qStage (q k : Nat) : Nat := 16 * q + k

/-- The headrace queue of role q (R328). -/
def qHeadrace (q : Nat) : Nat := 1024 + q

/-- Privileged queue j of polder p (R328). -/
def qPriv (p j : Nat) : Nat := 1088 + 4 * p + j

/-- Host queue k of polder p (R328). -/
def qHost (p k : Nat) : Nat := 1152 + 32 * p + k

/-- The tailrace queue of a port, polder and priority (R328). -/
def qTail (port p prio : Nat) : Nat := 2048 + 128 * port + 8 * p + prio

/-- KIND of a queue id (R328, R353): 0 stage, 1 headrace, 2 privileged, 3 host, 4 tailrace, 7 not used. -/
def qKind (z : Fuse) (id : Nat) : Nat :=
  if id < 1024 then (if z.is6480 ∨ id / 16 < 32 then 0 else 7)
  else if id < 1088 then (if z.is6480 ∨ id - 1024 < 32 then 1 else 7)
  else if id < 1152 then 2
  else if id < 1664 then (if (id - 1152) % 32 < 8 then 3 else 7)
  else if id < 2048 then 7
  else if id < 4096 then 4 else 7

/-- The role of a stage or headrace queue. Marks: DEDUCED safe (log entry 134). -/
def qRole (id : Nat) : Nat := if id < 1024 then id / 16 else id - 1024

/-- The mill that holds role q, by its row's ROW_ROLES (R23, R28). -/
def State.millOfRole (s : State) (q : Nat) : Option Nat :=
  let w := s.rd T.row (q / 4) 0xC08 / 2 ^ (4 * (q % 4)) % 16
  if w ≥ 8 then some (5 * (q / 4) + w % 8) else none

/-- The role that a mill holds. -/
def State.roleOfMill (s : State) (m : Nat) : Option Nat :=
  ((List.range 4).map (4 * (m / 5) + ·)).find? fun q => s.millOfRole q == some m

/-- QUEUE_CFG.POLDER (R328). -/
def State.qPolder (s : State) (id : Nat) : Nat :=
  match qKind s.fuse id with
  | 0 => match s.millOfRole (qRole id) with | some m => s.fget F.MILL_ROLE_POLDER m | none => 0
  | 1 => match s.millOfRole (qRole id) with | some m => s.fget F.MILL_ROLE_POLDER m | none => 0
  | 2 => (id - 1088) / 4
  | 3 => (id - 1152) / 32
  | 4 => (id - 2048) / 8 % 16
  | _ => 0

/-- The state of a queue. -/
def State.queue (s : State) (id : Nat) : Queue := Tab.get (fun _ => ({} : Queue)) s.qs.q id

/-- Sets the state of a queue. -/
def State.setQueue (s : State) (id : Nat) (q : Queue) : State :=
  { s with qs := { s.qs with q := Tab.set (fun _ => ({} : Queue)) s.qs.q id q } }

/-! ## Pools (R339, R340) -/

/-- The pool that serves a queue in a half: the polder's, or the privileged pool of the half. Marks: DEDUCED unsafe (log entry 184). -/
def State.poolKey (s : State) (id half : Nat) : Nat :=
  if qKind s.fuse id = 2 then 32 + half else 2 * s.qPolder id + half

/-- The cells a pool holds in use. -/
def State.poolUsed (s : State) (key : Nat) : Nat := Tab.get (fun _ => 0) s.qs.used key

/-- Sets the cells in use of a pool. -/
def State.setPoolUsed (s : State) (key v : Nat) : State :=
  { s with qs := { s.qs with used := Tab.set (fun _ => 0) s.qs.used key v } }

/-- The size of a pool: the polder's quota of the half, or the 1,024 privileged cells. -/
def State.poolSize (s : State) (key : Nat) : Nat :=
  if 32 ≤ key then 1024 else s.fget F.QUEUE_QUOTA_QUOTA 0 key

/-- The jitter-buffer cells of a polder in use. -/
def State.jbUsed (s : State) (p : Nat) : Nat := Tab.get (fun _ => 0) s.qs.jbUsed p

/-- Changes the jitter-buffer cells of a polder in use. -/
def State.setJbUsed (s : State) (p v : Nat) : State :=
  { s with qs := { s.qs with jbUsed := Tab.set (fun _ => 0) s.qs.jbUsed p v } }

/-- The cells an item takes (R329): 240 data bytes a cell with the 16-byte descriptor, 232 in privileged queues. -/
def cellsOf (kind len : Nat) : Nat := if kind = 2 then ceilDiv (16 + len) 232 else ceilDiv (16 + len) 240

/-- The cells a queue holds. -/
def Queue.cells (q : Queue) : Nat := q.items.foldl (fun n i => n + i.cells) 0

/-! ## Spillway (R343) -/

/-- Adds to a spillway counter of a polder. -/
def State.spill (s : State) (c : Ctr) (p : Nat) (n : Nat := 1) : State := s.cinc c 0 n p

/-! ## Appending (R331, R334) -/

/-- One visible item makes one notice where NOTICE_EN is set (R337). -/
def State.qNotice (s : State) (id n : Nat) : State :=
  if (s.queue id).notice && (qKind s.fuse id == 2 || qKind s.fuse id == 3)
  then s.emits (List.replicate n (.queueNotice id)) else s

/-- The next order of visibility. -/
def State.nextSeen (s : State) : State × Nat :=
  ({ s with qs := { s.qs with nextSeen := s.qs.nextSeen + 1 } }, s.qs.nextSeen)

/-- The next item number. -/
def State.nextItem (s : State) : State × Nat :=
  ({ s with qs := { s.qs with nextId := s.qs.nextId + 1 } }, s.qs.nextId)

/-- The gap marker of the drops of a queue of a polder, with the class and port of the item dropped last, whose hopper places it as a gap item (R190,
R330, R334). Marks: DEDUCED safe (log entry 342). -/
def Queue.gapItem (q : Queue) (id half polder : Nat) (seen stagedBy : Option Nat) : QItem :=
  { id := id, gap := true, gaps := q.gapPend, cls := q.gapCls, port := q.gapPort, half := half, polder := polder, seen := seen, stagedBy := stagedBy }

/-- The consumer has reached the tail of a queue with drops pending: the marker is placed there (R334). -/
def State.qTailGap (s : State) (id : Nat) : State :=
  let q := s.queue id
  if q.gapPend ≠ 0 && q.items.all (fun i => i.seen.isSome) then
    let (s1, gapId) := s.nextItem
    let (s2, seen) := s1.nextSeen
    (s2.setQueue id { q with items := q.items ++ [q.gapItem gapId 0 (s.qPolder id) (some seen) none], gapPend := 0 }).qNotice id 1
  else s

/-- A host or Vorak that has read a queue up to its tail finds the marker of its drops there (R334, R335). -/
def State.qReach (s : State) (id : Nat) : State :=
  let k := qKind s.fuse id
  let q := s.queue id
  if (k = 2 ∨ k = 3) ∧ q.items.length ≤ q.read then s.qTailGap id else s

/-- The cells that the privileged pool of a half holds reserved for completions (R339, R506): one for each command taken. -/
def State.reserved (s : State) (key : Nat) : Nat := if key = 32 then s.vk.cmds.length else 0

/-- The cells that an item of at most 1,664 bytes takes in a queue (R329). -/
def State.itemCells (s : State) (id : Nat) (it : QItem) : Nat := cellsOf (qKind s.fuse id) (it.data.take 1664).length

/-- Puts an item whose cells are there at the end of a queue, from the producer in a half, visible at once or staged by a work unit until its commit,
with the gap marker of the drops before it (R334). A visible one stands behind the visible ones, before those that are still staged (R333). -/
def State.qPut (s : State) (id half : Nat) (it : QItem) (stagedBy : Option Nat) : State :=
  let q := s.queue id
  let key := s.poolKey id half
  let (s1, gapId) := s.nextItem
  let (s2, itemId) := s1.nextItem
  let (s3, seen) := if stagedBy.isSome then (s2, none) else ((s2.nextSeen).1, some (s2.nextSeen).2)
  let gaps := if q.gapPend = 0 then [] else [q.gapItem gapId half (s.qPolder id) seen stagedBy]
  let it' := { it with id := itemId, data := it.data.take 1664, half := half, cells := s.itemCells id it, polder := s.qPolder id, seen := seen, stagedBy := stagedBy }
  let ahead := if seen.isSome then q.items.filter (fun i => i.seen.isSome) else q.items
  let behind := if seen.isSome then q.items.filter (fun i => i.seen.isNone) else []
  let s4 := s3.setQueue id { q with items := ahead ++ gaps ++ [it'] ++ behind, gapPend := 0 }
  let s5 := s4.setPoolUsed key (s.poolUsed key + s.itemCells id it)
  if seen.isSome then s5.qNotice id (b2n it.done + gaps.length) else s5

/-- Does LIMIT take an item's cells (R334)? -/
def State.limitTakes (s : State) (id : Nat) (it : QItem) : Bool :=
  decide ((s.queue id).limit = 0 ∨ (s.queue id).cells + s.itemCells id it ≤ (s.queue id).limit)

/-- Appends an item, or drops it, counted in SPILL_QFULL and GAP_PENDING, when LIMIT or the pool does not take its cells (R334). Answers whether it was
appended. -/
def State.qAppend (s : State) (id half : Nat) (it : QItem) (stagedBy : Option Nat) : State × Bool :=
  let q := s.queue id
  let key := s.poolKey id half
  let empty := decide (s.poolSize key < s.poolUsed key + s.reserved key + s.itemCells id it)
  if !s.limitTakes id it || empty then
    let s1 := ((s.setQueue id { q with gapPend := min (q.gapPend + 1) 255, gapCls := it.cls, gapPort := it.port }).spill C.SPILL_QFULL (s.qPolder id)).qReach id
    (if empty then s1.raise T.queue 0 I.QUEUE_POOL_EMPTY else s1, false)
  else (s.qPut id half it stagedBy, true)

/-- Frees the cells of items to their pools. -/
def State.freeCells (s : State) (id : Nat) (l : List QItem) : State :=
  l.foldl (fun st i => st.setPoolUsed (st.poolKey id i.half) (st.poolUsed (st.poolKey id i.half) - i.cells)) s

/-- Takes the items that a test names out of a queue and frees their cells. -/
def State.qRemove (s : State) (id : Nat) (p : QItem → Bool) : State :=
  let q := s.queue id
  let gone := q.items.filter p
  let before (n : Nat) := ((q.items.take n).filter p).length
  ((s.freeCells id gone).setQueue id
    { q with items := q.items.filter (fun i => !p i), mark := q.mark - before q.mark, read := q.read - before q.read,
             word := if ((q.items.drop q.read).head?.map p).getD false then 0 else q.word }).qReach id

/-- The items a work unit staged become visible at the commit of its turn (R187, R324). -/
def State.qCommit (s : State) (id wu : Nat) : State :=
  let q := s.queue id
  let n := (q.items.filter fun i => i.stagedBy == some wu).length
  let mine := (q.items.filter fun i => i.stagedBy == some wu).mapIdx fun k i => { i with seen := some (s.qs.nextSeen + k), stagedBy := none }
  let rest := q.items.filter fun i => !(i.stagedBy == some wu)
  let s1 := s.setQueue id { q with items := rest.filter (fun i => i.seen.isSome) ++ mine ++ rest.filter (fun i => i.seen.isNone) }
  if n = 0 then s
  else ({ s1 with qs := { s1.qs with nextSeen := s.qs.nextSeen + n } }).qNotice id n

/-- Every queue that lists an item staged by the work unit is committed. -/
def State.qCommitAll (s : State) (wu : Nat) : State :=
  s.qs.q.foldl (fun st e => if e.2.items.any (fun i => i.stagedBy == some wu) then st.qCommit e.1 wu else st) s

/-! ## The host window (R335, R336, R353) -/

/-- The descriptor words of an item (R330). -/
def descWords (i : QItem) : List Nat :=
  [i.data.length + i.gaps * 2 ^ 16 + b2n i.gap * 2 ^ 24 + b2n i.poison * 2 ^ 25 + b2n i.mark * 2 ^ 26,
   i.cls, i.stream + i.port * 2 ^ 18 + i.polder * 2 ^ 22, i.tag]

/-- Little-endian words of bytes, the last one filled with zeros. -/
def wordsOf (fuel : Nat) (l : List Byte) : List Nat :=
  match fuel, l with
  | 0, _ => []
  | _, [] => []
  | n + 1, l => ofLeBytes (l.take 4) :: wordsOf n (l.drop 4)

/-- A cell as it stands in millpond (R329): whether another cell follows, the data bytes it holds, the parity bit of each of its 60 data words, and in
a privileged queue the end marks, a bit for each word. Where the next cell lies is the allocator's. -/
structure Cell where
  more : Bool
  fill : Nat
  words : List Nat
  parity : List Bool
  ends : List Bool
  deriving DecidableEq, Repr

/-- The parity bit of a data word, as its producer writes it (R329, R338). Marks: DESIGN CHOICE safe (log entry 374). -/
def parityOf (w : Nat) : Bool := (List.range 32).foldl (fun b i => b ^^ bitAt w i) false

/-- The bytes of an item as its cells hold them: descriptor and data. -/
def QItem.bytes (i : QItem) : List Byte := (descWords i).flatMap (leBytes 4) ++ i.data

/-- The cells of an item (R329): 240 bytes each, or 232 in a privileged queue, where the last word of a finished packet carries the end mark (R332). -/
def QItem.cellList (i : QItem) (kind : Nat) : List Cell :=
  let size := if kind = 2 then 232 else 240
  let n := if i.gap then 0 else cellsOf kind i.data.length
  (List.range n).map fun k =>
    let b := (i.bytes.drop (size * k)).take size
    let w := wordsOf b.length b
    let all := w ++ List.replicate (60 - w.length) 0
    { more := decide (k + 1 < n), fill := b.length, words := all, parity := all.map parityOf,
      ends := if kind = 2 then (List.range (size / 4)).map fun j => i.done && k + 1 == n && j + 1 == w.length else [] }

/-- The words the window returns for an item (R335): on a privileged queue the words as they were written. -/
def itemWords (kind : Nat) (i : QItem) : List Nat :=
  if kind = 2 ∧ ¬ i.gap then wordsOf i.data.length i.data
  else descWords i ++ (if i.gap then [] else wordsOf i.data.length i.data)

/-- The items a window can see, in queue order: those before the first that is not visible. -/
def Queue.visible (q : Queue) : List QItem := q.items.takeWhile fun i => i.seen.isSome

/-- EMPTY of the window (R332, R335): no visible word lies beyond READ, which may stand at the last written word of an unfinished packet. -/
def Queue.winEmpty (q : Queue) : Bool :=
  match (q.visible.drop q.read).head? with
  | none => true
  | some i => !i.done && decide ((wordsOf i.data.length i.data).length ≤ q.word)

/-- Whole visible packets beyond READ that no work unit has taken (R332, R353). -/
def Queue.pkts (q : Queue) : Nat :=
  ((q.visible.drop q.read).filter fun i => i.done && i.taken.isNone && !i.committed).length - (if q.word = 0 then 0 else 1)

/-- QUEUE_WIN_STAT as it reads. -/
def State.winStat (s : State) : Nat :=
  let id := s.fget F.QUEUE_SEL_QID 0
  let k := qKind s.fuse id
  let e := if k = 2 ∨ k = 3 then (s.queue id).winEmpty else true
  s.fget F.QUEUE_WIN_STAT_POISON 0 * 4 + s.fget F.QUEUE_WIN_STAT_UNDERRUN 0 * 2 + b2n e + b2n s.qs.lastEnd * 8

/-- The consumer of a queue finds an item poisoned (R338, R352). -/
def State.poisonItem (s : State) (id item : Nat) : State :=
  let q := s.queue id
  (s.setQueue id { q with items := q.items.map fun i => if i.id = item then { i with poison := true } else i }).raise T.queue 0 I.QUEUE_POISON

/-- A unicast read of QUEUE_WIN_DATA: the word at READ, with READ advanced (R335, R353), and what it returns. -/
def State.winDataRead (s : State) (fn addr : Nat) : State × Nat :=
  let id := s.fget F.QUEUE_SEL_QID 0
  let k := qKind s.fuse id
  if k ≠ 2 ∧ k ≠ 3 then (s.logErr T.queue 0 5 fn addr 0, 0)
  else
    let under := ((s.fset F.QUEUE_WIN_STAT_UNDERRUN 0 1).raise T.queue 0 I.QUEUE_UNDERRUN, s.qs.lastWord)
    match (s.queue id).items.drop (s.queue id).read with
    | [] => under
    | i :: _ =>
      if (s.queue id).winEmpty then under
      else
        let q := s.queue id
        let ws := itemWords k i
        let v := ws.getD q.word 0
        let isLast := i.done && decide (ws.length ≤ q.word + 1)
        let q' := if isLast then { q with read := q.read + 1, word := 0 } else { q with word := q.word + 1 }
        let s1 := s.setQueue id q'
        let s2 : State := { s1 with qs := { s1.qs with lastWord := v, lastEnd := k == 2 && isLast } }
        let s3 := if isLast then s2.qReach id else s2
        (if i.poison then (s3.fset F.QUEUE_WIN_STAT_POISON 0 1).raise T.queue 0 I.QUEUE_POISON else s3, v)

/-- A window read that has moved READ finds the item it read from poisoned (R338). -/
def State.winPoison (before after : State) : State :=
  let id := before.fget F.QUEUE_SEL_QID 0
  let q := before.queue id
  match q.items.drop q.read with
  | i :: _ => if ((after.queue id).read, (after.queue id).word) = (q.read, q.word) then after else (after.poisonItem id i.id).fset F.QUEUE_WIN_STAT_POISON 0 1
  | [] => after

/-- MARK of a queue: at the item boundary at or before READ. -/
def Queue.doMark (q : Queue) : Queue := { q with mark := q.read }

/-- REWIND of a queue: READ goes back to MARK. Marks: DEDUCED unsafe (log entry 185). -/
def Queue.doRewind (q : Queue) : Queue := { q with read := q.mark, word := 0 }

/-- RELEASE of a queue: the cells from HEAD to MARK are freed and HEAD is MARK. -/
def State.qRelease (s : State) (id : Nat) : State :=
  let q := s.queue id
  (s.freeCells id (q.items.take q.mark)).setQueue id
    { q with items := q.items.drop q.mark, read := q.read - q.mark, mark := 0 }

/-- A write of QUEUE_WIN_CTRL (R336, R353): the actions whose bits are set, MARK first, then REWIND, then RELEASE, on a queue
of KIND 2 or 3. Marks: DEDUCED unsafe (log entry 184), DEDUCED unsafe (log entry 185). -/
def State.winCtrl (s : State) (fn addr bits : Nat) : State :=
  let id := s.fget F.QUEUE_SEL_QID 0
  let k := qKind s.fuse id
  if k ≠ 2 ∧ k ≠ 3 then s.logErr T.queue 0 5 fn addr bits
  else
    let s1 := if bitAt bits 0 then s.setQueue id (s.queue id).doMark else s
    let s2 := if bitAt bits 1 then s1.setQueue id (s1.queue id).doRewind else s1
    if bitAt bits 2 then s2.qRelease id else s2

/-- The address of a QUEUE register in PF BAR0. -/
def qAddr (off : Nat) : Nat := regAddr T.queue 0 off

end Sys2Proof.Machine
end

