-- ==== Sys2Proof/Machine/Memory.lean ====
section
/-!
DEFINITION. HBM, millpond and their codes (R426 to R450): reads, writes, error logs, poison, torn bursts, the millpond directory and
the mills' caches, the scrubbers and page retirement.
-/

namespace Sys2Proof.Machine

/-- Changes the memory part of the state. -/
def State.upMem (s : State) (f : Mem → Mem) : State := { s with mem := f s.mem }

/-- Lines of the data space of a stack (R426): 19 GiB. -/
def hbmLines : Nat := 19 * 2 ^ 24

/-- The HBMC slice that serves a device HBM address (R426): the stack in bit 35, the slice in bits 15:12. -/
def sliceOf (addr : Nat) : Nat := 16 * (addr / 2 ^ 35 % 2) + bitField addr 12 4

/-! ## Error logs (R434, R443) -/

/-- The log of an HBMC slice or POND bank. -/
def State.memLog (s : State) (t inst : Nat) : List MemLogEnt := Tab.get (fun _ => []) s.mem.logs (if t = T.hbmc then inst else 32 + inst)

/-- Sets a log. -/
def State.setMemLog (s : State) (t inst : Nat) (l : List MemLogEnt) : State :=
  s.upMem fun m => { m with logs := Tab.set (fun _ => []) m.logs (if t = T.hbmc then inst else 32 + inst) l }

/-- Enters a correction in a log: it counts at its entry, takes a free one, or is dropped with OVF and LOG_OVF. -/
def State.logCorrected (s : State) (t inst key die : Nat) (dir : Bool) : State :=
  let l := s.memLog t inst
  if l.any fun e => e.key == key && e.dir == dir then
    s.setMemLog t inst (l.map fun e => if e.key == key && e.dir == dir then { e with count := min (e.count + 1) 255, die := die } else e)
  else if l.length < 32 then s.setMemLog t inst (l ++ [⟨key, 1, die, dir⟩])
  else if t = T.hbmc then (s.finc F.HBMC_LOG_CTRL_OVF inst).raise T.hbmc inst I.HBMC_LOG_OVF
  else (s.finc F.POND_LOG_CTRL_OVF inst).raise T.pond inst I.POND_LOG_OVF

/-- A corrected HBM line (R434): counted, raised, reported, and logged with its die where LOG_EN is set. -/
def State.hbmCorrected (s : State) (slice line die : Nat) : State :=
  let s1 := ((s.finc F.HBMC_ERRCNT_CE slice).fset F.HBMC_STAT_DIE_ERR slice (setBitN (s.fget F.HBMC_STAT_DIE_ERR slice) die)).raise T.hbmc slice I.HBMC_CE
  let s2 := s1.emit (.fault T.hbmc slice)
  if s.fbit F.HBMC_CTRL_LOG_EN slice then s2.logCorrected T.hbmc slice line die false else s2

/-- An uncorrectable HBM line (R436): it is rewritten poisoned, counted, raised and recorded (R586 class P, R607). -/
def State.hbmUncorrectable (s : State) (slice ln : Nat) : State :=
  let s1 := s.upMem fun m => { m with poison := m.poison ++ [ln] }
  ((s1.finc F.HBMC_ERRCNT_UE slice).rasLog 0x20 1 T.hbmc slice (ln % 2 ^ 29)).raise T.hbmc slice I.HBMC_UE

/-- A corrected millpond word (R434). -/
def State.pondCorrected (s : State) (bank word : Nat) : State :=
  (((s.finc F.POND_ERRCNT_CE bank).raise T.pond bank I.POND_CE).emit (.fault T.pond bank)).logCorrected T.pond bank (word % 2 ^ 18) 0 false

/-- An uncorrectable millpond word (R436). -/
def State.pondUncorrectable (s : State) (bank word : Nat) : State :=
  let s1 : State := { s with pondPoison := s.pondPoison ++ [word] }
  ((s1.finc F.POND_ERRCNT_UE bank).rasLog 0x21 1 T.pond bank (word % 2 ^ 18)).raise T.pond bank I.POND_UE

/-! ## HBM reads and writes (R426 to R437, R474) -/

/-- Is a data address of a stack in its data space? -/
def hbmInSpace (addr : Nat) : Bool := decide (addr < 2 ^ 36) && decide (addr % 2 ^ 35 / 64 < hbmLines)

/-- The global parcel index of a device HBM address (R474). -/
def parcelOf (addr : Nat) : Nat := 9728 * (addr / 2 ^ 35 % 2) + addr % 2 ^ 35 / 2 ^ 21

/-- Is a global parcel index a region parcel's (R474)? -/
def isRegion (g : Nat) : Bool := decide (g < 19456) && decide (1440 ≤ g % 9728)

/-- The owner of a region parcel, or none where it is free. -/
def State.parcelOwner (s : State) (g : Nat) : Option Nat :=
  let v := Tab.get (fun _ => 0) s.pol.owner g
  if v = 0 then none else some (v - 1)

/-- A walk fault of polder p (R475): recorded, counted and raised; kinds 0x3 to 0x5 are also reported to the RAS block. Marks: DEDUCED unsafe (log entry 267). -/
def State.walkFault (s : State) (p req kind pa : Nat) : State :=
  let s1 := (((s.fset F.DIKE_WALK_VALID p 1).fset F.DIKE_WALK_REQ p req).fset F.DIKE_WALK_KIND p kind).fset F.DIKE_WALK_PA_LO_PA p (pa % 2 ^ 32)
  let s2 := ((s1.fset F.DIKE_WALK_PA_HI_PA p (pa / 2 ^ 32 % 16)).finc F.DIKE_COUNTS_WALK p).raise T.dike p I.DIKE_WALK_FAULT
  if 3 ≤ kind ∧ kind ≤ 5 then s2.rasLog 0x24 1 T.dike p (pa % 2 ^ 32) else s2

/-- The slice check of a region access (R474): the parcel's owner is the access's polder. -/
def State.sliceDenies (s : State) (polder addr : Nat) : Bool :=
  isRegion (parcelOf addr) && s.parcelOwner (parcelOf addr) != some polder

/-- A denied slice check: an error response, and FOREIGN recorded under REQ 0x3 with a PA the slice does not know. Marks: DESIGN CHOICE safe (log entry 241). -/
def State.sliceForeign (s : State) (req polder addr : Nat) : State :=
  let v := s.takeFree
  (v.2.walkFault (polder % 16) 3 5 (v.1.toNat % 2 ^ 36)).emit (.memError req addr)

/-- The group of core dies of a line (R427): dies 4g to 4g + 3 with g = (a div 64) mod 3. -/
def groupOf (ln : Nat) : Nat := ln % 2 ^ 29 % 3

/-- A core die of a line's group is lost, or none. -/
def State.loseDie (s : State) (ln : Nat) (d : Option Nat) : State :=
  match d with
  | none => s
  | some d =>
    let k := 12 * (ln / 2 ^ 29 % 2) + 4 * groupOf ln + d % 4
    if s.mem.lostDies.contains k then s else s.upMem fun m => { m with lostDies := m.lostDies ++ [k] }

/-- The dies of a line's group that are lost. -/
def State.lostOf (s : State) (ln : Nat) : List Nat :=
  (List.range 4).filter fun d => s.mem.lostDies.contains (12 * (ln / 2 ^ 29 % 2) + 4 * groupOf ln + d)

/-- The line of HBM that a read is served from. -/
def servedFrom (ln : Nat) (up : HbmUpset) : Nat := match up.elsewhere with | some b => ln / 2 ^ 29 * 2 ^ 29 + b % 2 ^ 29 | none => ln

/-- The symbols wrong in a read of a line: its errors, what the lost dies deliver, and where another line is served the difference of the address
patterns (R428, R429). -/
def State.lineErrors (s : State) (ln : Nat) (up : HbmUpset) : List (Nat × Nat) :=
  let lost := s.lostOf ln
  let mine := up.errs.filter fun e => !lost.contains (dieOf e.1)
  let gone := lost.flatMap fun d => (dieSyms d).map fun k => (k, (Config.lostSymbol ln k).toNat)
  let off := if servedFrom ln up = ln then [] else (List.range 64).map fun k => (k, (Config.addrPattern ln k ^^^ Config.addrPattern (servedFrom ln up) k).toNat)
  mine ++ gone ++ off

/-- What the code makes of a read of a line (R428, R429): its outcome and the data it delivers. While one die of the group is lost and nothing else is wrong, the
line is corrected. -/
def State.hbmSee (s : State) (ln : Nat) (up : HbmUpset) : Chk × List Byte :=
  let u := s.loseDie ln up.lost
  let d := memBytes s.mem.hbm (servedFrom ln up * 64) 64
  match u.lostOf ln with
  | [k] =>
    if (up.errs.all fun e => dieOf e.1 == k) ∧ servedFrom ln up = ln then (.corrected k, d)
    else let r := rsDecode (u.lineErrors ln up); (r.1, patchSyms d (r.2.filter fun e => decide (e.1 < 64)))
  | _ => let r := rsDecode (u.lineErrors ln up); (r.1, patchSyms d (r.2.filter fun e => decide (e.1 < 64)))

/-- What a read leaves of a line that is not poisoned (R434, R436): a corrected one is written back, counted and logged with the die of the stack, an uncorrectable
one is rewritten poisoned. -/
def State.hbmAfter (s : State) (ln : Nat) (up : HbmUpset) : State :=
  let v := s.hbmSee ln up
  let s0 := s.loseDie ln up.lost
  let sl := sliceOf (64 * ln)
  let s1 := if v.1 = .bad ∨ servedFrom ln up ≠ ln ∨ v.2 = memBytes s.mem.hbm (ln * 64) 64 then s0 else s0.upMem fun m => { m with hbm := memPut m.hbm (64 * ln) v.2 }
  match v.1 with
  | .ok => s1
  | .corrected die => s1.hbmCorrected sl (ln % 2 ^ 29) (4 * groupOf ln + die % 4)
  | .bad => s1.hbmUncorrectable sl ln

/-- HBM_READ (R428, R434 to R436): the line at an address is returned good, corrected or poisoned, or becomes poisoned with an error
response. -/
def execHbmRead (req polder addr : Nat) (up : HbmUpset) (s : State) : Res :=
  let ln := addr / 64
  let sl := sliceOf addr
  if ¬ hbmInSpace addr then .next (s.emit (.memError req addr))
  else if ¬ s.fbit F.HBMC_CTRL_EN sl then .next s
  else if s.sliceDenies polder addr then .next (s.sliceForeign req polder addr)
  else if s.mem.poison.contains ln then .next (s.emit (.memData req addr (memBytes s.mem.hbm (ln * 64) 64) true))
  else
    let v := s.hbmSee ln up
    .next ((s.hbmAfter ln up).emit (if v.1 = .bad then .memError req addr else .memData req addr v.2 false))

/-- Writes bytes to HBM (R432, R436); false where a partial write to a poisoned line was dropped. -/
def State.hbmPut (s : State) (a : Nat) (l : List Byte) : State × Bool :=
  let r := codeWrite 64 (l.length + 1) s.mem.hbm s.mem.poison a l
  (s.upMem fun m => { m with hbm := r.1, poison := r.2.1 }, r.2.2)

/-- Zeroes whole lines of HBM. -/
def State.hbmZero (s : State) (a n : Nat) : State :=
  s.upMem fun m => { m with hbm := memZero m.hbm a n, poison := m.poison.filter fun w => !(decide (a ≤ w * 64) && decide (w * 64 < a + n)) }

/-- The read of a read, merge and write of a line that a write covers in part (R432): what the code delivers is what the rest of the line is written from. Marks:
DEDUCED unsafe (log entry 240). -/
def State.hbmMerge (s : State) (ln : Nat) (up : HbmUpset) : State :=
  if s.mem.poison.contains ln then s
  else
    let s1 := s.hbmAfter ln up
    if servedFrom ln up = ln ∨ (s.hbmSee ln up).1 = .bad then s1 else s1.upMem fun m => { m with hbm := memPut m.hbm (64 * ln) (s.hbmSee ln up).2 }

/-- The reads of a write of n bytes that covers its first line, its last line or both in part (R432). -/
def State.hbmMerges (s : State) (addr n : Nat) (up : HbmEdges) : State :=
  let last := (addr + n - 1) / 64
  let s1 := if addr % 64 ≠ 0 ∨ (n < 64 ∧ last = addr / 64) then s.hbmMerge (addr / 64) up.first else s
  if (addr + n) % 64 ≠ 0 ∧ last ≠ addr / 64 then s1.hbmMerge last up.last else s1

/-- HBM_WRITE (R432, R436, R449): a burst of bytes at an address. A burst cut after k whole lines is torn: the lines received stay
written and the first line not written is recorded. -/
def execHbmWrite (req polder addr : Nat) (data : List Byte) (torn : Option Nat) (up : HbmEdges) (s : State) : Res :=
  let sl := sliceOf addr
  if ¬ hbmInSpace addr ∨ ¬ hbmInSpace (addr + (data.length - 1)) then .next (s.emit (.memError req addr))
  else if ¬ s.fbit F.HBMC_CTRL_EN sl then .next s
  else if s.sliceDenies polder addr ∨ s.sliceDenies polder (addr + (data.length - 1)) then .next (s.sliceForeign req polder addr)
  else
    let got := match torn with
      | some k => data.take (64 * k - addr % 64)
      | none => data
    let r := (if got.isEmpty then s else s.hbmMerges addr got.length up).hbmPut addr got
    let s1 := match torn with
      | some k => if got.length < data.length then r.1.hbmTorn (sliceOf (addr + 64 * k)) ((addr / 64 + k) % 2 ^ 29) req else r.1
      | none => r.1
    .next (if r.2 then s1 else s1.emit (.memError req addr))

/-! ## Millpond banks (R432, R434, R436, R461) -/

/-- What a read leaves of a millpond word (R434, R436): a poisoned one stays, a corrected one is counted and logged, an uncorrectable one is rewritten poisoned. -/
def State.pondAfter (s : State) (w : Nat) (up : WordUpset) : State :=
  if s.pondPoison.contains w then s
  else match wordCode up w with
    | .ok => s
    | .corrected _ => s.pondCorrected (w / 2 ^ 18) w
    | .bad => s.pondUncorrectable (w / 2 ^ 18) w

/-- The read of a read, merge and write of a word that a write covers in part (R432). -/
def State.pondMerge (s : State) (w : Nat) (up : WordUpset) : State :=
  let s1 := s.pondAfter w up
  if s.pondPoison.contains w then s1 else { s1 with pond := wordView up s.pond w }

/-- The reads of a write of n bytes that covers its first word, its last word or both in part (R432). -/
def State.pondMerges (s : State) (off n : Nat) (up : PondEdges) : State :=
  let last := (off + n - 1) / 8
  let s1 := if off % 8 ≠ 0 ∨ (n < 8 ∧ last = off / 8) then s.pondMerge (off / 8) up.first else s
  if (off + n) % 8 ≠ 0 ∧ last ≠ off / 8 then s1.pondMerge last up.last else s1

/-- POND_ACCESS (R432): one read of a word, or a write of bytes, with what its reads meet; a torn burst is recorded in POND_TORN. -/
def execPondAccess (req off : Nat) (data : Option (List Byte)) (torn : Option Nat) (up : PondEdges) (s : State) : Res :=
  let w := off / 8
  if 2 ^ 26 ≤ off then .next s
  else match data with
    | none =>
      let t := s.pondAfter w up.first
      if s.pondPoison.contains w then .next (t.emit (.memData req off (memBytes s.pond (w * 8) 8) true))
      else if wordCode up.first w = .bad then .next (t.emit (.memError req off))
      else .next (t.emit (.memData req off (memBytes (wordView up.first s.pond w) (w * 8) 8) false))
    | some d =>
      if 2 ^ 26 < off + d.length then .next s
      else
        let got := match torn with
          | some k => d.take (64 * k - off % 64)
          | none => d
        let r := (if got.isEmpty then s else s.pondMerges off got.length up).pondPut off got
        let s1 := match torn with
          | some k => if got.length < d.length then
              let ln := off / 64 + k
              let t1 := ((r.1.fset F.POND_TORN_VALID (ln / 32768) 1).fset F.POND_TORN_REQ (ln / 32768) req).fset F.POND_TORN_LINE (ln / 32768) (ln % 32768)
              (t1.rasLog 0x22 1 T.pond (ln / 32768) (ln % 32768)).raise T.pond (ln / 32768) I.POND_TORN
              else r.1
          | none => r.1
        .next (if r.2 then s1 else s1.emit (.memError req off))

/-! ## The directory and the caches (R438 to R443) -/

/-- Changes the coherence part of the state. -/
def State.upCoh (s : State) (f : Coherence → Coherence) : State := s.upMem fun m => { m with coh := f m.coh }

/-- The directory entry of a line. -/
def State.dirEnt (s : State) (ln : Nat) : DirEnt := Tab.get (fun _ => ({} : DirEnt)) s.mem.coh.dir ln

/-- Sets a directory entry. -/
def State.setDir (s : State) (ln : Nat) (e : DirEnt) : State := s.upCoh fun c => { c with dir := Tab.set (fun _ => ({} : DirEnt)) c.dir ln e }

/-- The state of a line in a mill's cache. -/
def State.cached (s : State) (m ln : Nat) : CacheSt := Tab.get (fun _ => CacheSt.i) s.mem.coh.cache (m * 2 ^ 20 + ln)

/-- Sets the state of a line in a mill's cache. -/
def State.setCached (s : State) (m ln : Nat) (x : CacheSt) : State :=
  s.upCoh fun c => { c with cache := Tab.set (fun _ => CacheSt.i) c.cache (m * 2 ^ 20 + ln) x }

/-- The eviction buffer of a mill. -/
def State.evictBuf (s : State) (m : Nat) : List Evicted := Tab.get (fun _ => []) s.mem.coh.evict m

/-- Sets an eviction buffer. -/
def State.setEvictBuf (s : State) (m : Nat) (l : List Evicted) : State :=
  s.upCoh fun c => { c with evict := Tab.set (fun _ => []) c.evict m l }

/-- The mills a snoop for a line goes to: the owner in M, or the members of the polder in the rows of the vector (R438). -/
def State.snoopMills (s : State) (m ln : Nat) : List Nat :=
  let e := s.dirEnt ln
  let p := s.fget F.MILL_ROLE_POLDER m
  match e.owner with
  | some o => [o].filter fun x => x != m
  | none => (List.range s.fuse.mills).filter fun x => x != m && bitAt e.rows (x / 5) && s.member x && s.fget F.MILL_ROLE_POLDER x == p

/-- The directory grants a request whose answers are all in (R439). -/
def State.dirGrant (s : State) (t : CohTxn) : State :=
  let e := s.dirEnt t.line
  let s1 := s.upCoh fun c => { c with txns := c.txns.filter fun x => x.tag != t.tag }
  match t.kind with
  | .load =>
    let kept := match e.owner with
      | some o => if s.cached o t.line = .s then 2 ^ (o / 5) else 0
      | none => e.rows
    ((s1.setDir t.line ⟨none, kept ||| 2 ^ (t.mill / 5)⟩).setCached t.mill t.line .s).emit (.dirGrant t.mill t.line 1)
  | .store => ((s1.setDir t.line ⟨some t.mill, 0⟩).setCached t.mill t.line .m).emit (.dirGrant t.mill t.line 2)
  | _ => ((s1.setDir t.line {}).setCached t.mill t.line .i).emit (.dirGrant t.mill t.line 0)

/-- The words of a line become poisoned, each once. -/
def State.poisonWords (s : State) (ln : Nat) : State :=
  { s with pondPoison := s.pondPoison ++ ((List.range 8).map (8 * ln + ·)).filter fun w => !s.pondPoison.contains w }

/-- A dirty line of a mill's cache is written back: poisoned where it reads uncorrectable (R430). -/
def State.writeBack (s : State) (m ln : Nat) (dirty : List CacheUpset) : State :=
  if s.cached m ln = .m ∧ cacheBad dirty m ln then s.poisonWords ln else s

/-- Removes every copy of a line: its recall from all holders, a dirty one written back, counted in RECALL. -/
def State.recallAll (s : State) (ln : Nat) (dirty : List CacheUpset) : State :=
  let s0 := match (s.dirEnt ln).owner with
    | some o => s.writeBack o ln dirty
    | none => s
  let s1 := s0.upCoh fun c => { c with cache := c.cache.filter fun e => e.1 % 2 ^ 20 != ln }
  (s1.setDir ln {}).finc F.POND_DIR_RECALL (ln / 32768)

/-- The lines of a mill's cache in the set of a line, that line apart (R97, R438): 512 sets of 8 ways, by the low bits of the line. Marks: DEDUCED safe (log entry 358). -/
def State.cacheSet (s : State) (m ln : Nat) : List Nat :=
  (s.mem.coh.cache.filter fun e => e.1 / 2 ^ 20 == m && e.1 % 512 == ln % 512 && e.1 % 2 ^ 20 != ln).map fun e => e.1 % 2 ^ 20

/-- Does a mill wait for a line it will hold: does a request of it for the line await answers? -/
def State.awaits (s : State) (m ln : Nat) : Bool := s.mem.coh.txns.any fun t => t.mill == m && t.line == ln && (t.kind == .load || t.kind == .store)

/-- The ways of a mill's set that are kept for lines it waits for and does not hold yet. Marks: DEDUCED safe (log entry 358). -/
def State.cacheKept (s : State) (m ln : Nat) : List Nat :=
  ((s.mem.coh.txns.filter fun t => t.mill == m && (t.kind == .load || t.kind == .store) && t.line % 512 == ln % 512 && t.line != ln).map (·.line)).filter
    fun x => s.cached m x == .i

/-- A line leaves a mill's cache for its eviction buffer (R440); one that reads uncorrectable is written back poisoned where it is dirty (R430). -/
def State.evictLine (s : State) (m ln : Nat) (dirty : List CacheUpset) : State :=
  let x := s.cached m ln
  ((s.writeBack m ln dirty).setCached m ln .i).setEvictBuf m (s.evictBuf m ++ [⟨ln, x == .m, false⟩])

/-- A mill makes room in its cache for a line it will hold (R97, R438, R440): where its lines and the ways kept fill the set, a line no request of the mill waits on is
evicted, by the way named; none while there is no such line or the eviction buffer is full. -/
def State.cacheRoom (s : State) (m ln way : Nat) (dirty : List CacheUpset) : Option State :=
  let set := s.cacheSet m ln
  if s.cached m ln ≠ .i ∨ set.length + (s.cacheKept m ln).length < 8 then some s
  else if 8 ≤ (s.evictBuf m).length then none
  else
    let free := set.filter fun x => !s.awaits m x
    (free[way % free.length]?).map fun v => s.evictLine m v dirty

/-- The directory entries in the set of a line, that line apart: 16,384 sets of 16 ways in each half (R438). Marks: DEDUCED safe (log entry 358). -/
def State.dirSet (s : State) (ln : Nat) : List Nat :=
  (s.mem.coh.dir.filter fun e => e.1 / 2 ^ 19 == ln / 2 ^ 19 && e.1 % 16384 == ln % 16384 && e.1 != ln).map (·.1)

/-- The lines of a set of the directory that requests wait on and that have no entry yet: a way is kept for each. Marks: DEDUCED safe (log entry 358). -/
def State.dirKept (s : State) (ln : Nat) : List Nat :=
  ((s.mem.coh.txns.filter fun t => t.line / 2 ^ 19 == ln / 2 ^ 19 && t.line % 16384 == ln % 16384 && t.line != ln).map (·.line)).filter fun x => s.dirEnt x == {}

/-- The directory makes room for an entry (R438, R439): in a full set the least recently used line, of those no request is on, is recalled from every holder; none
while a request is on every one. -/
def State.dirRoom (s : State) (ln : Nat) (dirty : List CacheUpset) : Option State :=
  let set := s.dirSet ln
  if s.dirEnt ln ≠ {} ∨ set.length + (s.dirKept ln).length < 16 then some s
  else (s.mem.coh.lru.find? fun x => set.contains x && !s.mem.coh.txns.any fun t => t.line == x).map fun v => s.recallAll v dirty

/-- A line has been used in the directory. -/
def State.dirUsed (s : State) (ln : Nat) : State := s.upCoh fun c => { c with lru := (c.lru.filter fun x => x != ln) ++ [ln] }

/-- The copies a request must recall before it is granted (R439): an owner's for a load, every other one for a store or an AMO. -/
def State.recallsOf (s : State) (mill ln : Nat) (kind : DirReq) : List Nat :=
  match kind with
  | .load => (match (s.dirEnt ln).owner with
    | some o => if o = mill then [] else [o]
    | none => [])
  | _ => s.snoopMills mill ln

/-- The directory takes a request: it is granted at once, or waits for the answers of the mills it snoops. -/
def State.dirServe (s : State) (mill ln : Nat) (kind : DirReq) : State :=
  let ask := s.recallsOf mill ln kind
  let t : CohTxn := ⟨s.mem.coh.nextTag, ln, mill, kind, ask⟩
  let s1 := s.upCoh fun c => { c with nextTag := c.nextTag + 1 }
  if ask.isEmpty then s1.dirGrant t else (s1.upCoh fun c => { c with txns := c.txns ++ [t] }).emits (ask.map fun m => Out.snoop m ln t.tag)

/-- What a read of the directory entry of a line leaves (R434, R443): a corrected entry is counted, raised, reported and logged with DIR; an uncorrectable one is
recalled, rewritten as I and logged with DIR. Marks: DESIGN CHOICE safe (log entry 385). -/
def State.dirAfter (s : State) (ln : Nat) (up : WordUpset) (dirty : List CacheUpset) : State :=
  let b := ln / 32768
  let word := Config.dirWord ln % 2 ^ 18
  match wordCode up word with
  | .ok => s
  | .corrected _ => (((s.finc F.POND_ERRCNT_CE b).raise T.pond b I.POND_CE).emit (.fault T.pond b)).logCorrected T.pond b word 0 true
  | .bad => (s.recallAll ln dirty).logCorrected T.pond b word 0 true

/-- DIRECTORY_REQUEST (R430, R438 to R440, R443): a miss, an upgrade or an AMO is granted once every copy it must recall has answered. A line
that a mill is to hold takes a way of its set, where one is evicted if all 8 are taken, and an entry of the directory, where the least
recently used is recalled; it waits while neither can be. An uncorrectable entry is recalled and rewritten as I, and the request waits. An eviction moves the
line to the mill's eviction buffer of 8 entries, and waits while that is full. -/
def execDirectoryRequest (mill line : Nat) (kind : DirReq) (way : Nat) (reads : DirReads) (s : State) : Res :=
  let p := s.fget F.MILL_ROLE_POLDER mill
  if ¬ s.member mill ∨ 2 ^ 20 ≤ line then .next s
  else if kind = .evict then
    (if s.cached mill line = .i ∨ 8 ≤ (s.evictBuf mill).length then .next s else .next (s.evictLine mill line reads.dirty))
  else if ¬ s.inWindow p (line * 64) ∨ s.mem.coh.txns.any (fun t => t.line == line) then .next s
  else
    let s0 := s.dirAfter line reads.entry reads.dirty
    if wordCode reads.entry (Config.dirWord line % 2 ^ 18) = .bad then .next s0
    else if kind = .amo then .next (s0.dirServe mill line .amo)
    else match s0.dirRoom line reads.dirty with
      | none => .next s0
      | some s1 => match s1.cacheRoom mill line way reads.dirty with
        | none => .next s0
        | some s2 => .next (((reads.fill.foldl (fun t w => t.pondAfter (8 * line + w.1 % 8) w.2) s2).dirUsed line).dirServe mill line kind)

/-- A mill's answer to a snoop is in: the request goes on. Marks: DEDUCED safe (log entry 248). -/
def State.snoopDone (s : State) (mill : Nat) (t : CohTxn) : State :=
  let t' := { t with wait := t.wait.filter fun x => x != mill }
  if t'.wait.isEmpty then s.dirGrant t'
  else s.upCoh fun c => { c with txns := c.txns.map fun x => if x.tag = t.tag then t' else x }

/-- SNOOP_ANSWER (R440, R441): the mill gives up its copy (to S where a load asked) and answers from its cache, its eviction buffer or
without data. A dirty line that reads uncorrectable is written back poisoned (R430). An answer whose eviction notice came first is discarded and counted in
CROSS. -/
def execSnoopAnswer (mill : Nat) (snoop : SnoopTag) (s : State) : Res :=
  match s.mem.coh.txns.find? fun t => t.tag == snoop.tag && t.wait.contains mill with
  | some t =>
    let s0 := s.writeBack mill t.line snoop.dirty
    let s1 := if s.cached mill t.line = .i then s0 else s0.setCached mill t.line (if t.kind = .load then .s else .i)
    let e := s1.dirEnt t.line
    let s2 := if s.cached mill t.line = .i ∧ e.owner = some mill then s1.setDir t.line ⟨none, e.rows⟩ else s1
    .next (s2.snoopDone mill t)
  | none =>
    match s.mem.coh.late.find? fun e => e.1 == mill && e.2.1 == snoop.tag with
    | some e => .next ((s.upCoh fun c => { c with late := c.late.erase e }).finc F.POND_DIR_CROSS (e.2.2 / 32768))
    | none => .next s

/-- A mill is no longer a holder of a line. -/
def State.dropHolder (s : State) (mill ln : Nat) : State :=
  let e := s.dirEnt ln
  let others := (List.range 5).any fun k => 5 * (mill / 5) + k != mill && s.cached (5 * (mill / 5) + k) ln != .i
  if e.owner = some mill then s.setDir ln {}
  else if bitAt e.rows (mill / 5) && !others then s.setDir ln { e with rows := clrBitN e.rows (mill / 5) } else s

/-- The oldest eviction of a line in a buffer whose notice has not been sent is noticed. -/
def noticeFirst (line : Nat) : List Evicted → List Evicted
  | [] => []
  | e :: l => if e.line = line ∧ ¬ e.noticed then { e with noticed := true } :: l else e :: noticeFirst line l

/-- The oldest noticed eviction of a line leaves a buffer. -/
def ackFirst (line : Nat) : List Evicted → List Evicted
  | [] => []
  | e :: l => if e.line = line ∧ e.noticed then l else e :: ackFirst line l

/-- Does the directory record the mill as a holder of the line it evicted (R441): as its owner where the line was dirty, else by its row's bit? -/
def DirEnt.holds (d : DirEnt) (mill : Nat) (e : Evicted) : Bool :=
  if e.dirty then d.owner == some mill else d.owner == none && bitAt d.rows (mill / 5)

/-- EVICT_NOTICE (R440, R441): the directory settles an eviction against a snoop that crosses it, and acknowledges it. -/
def execEvictNotice (mill line : Nat) (s : State) : Res :=
  let l := s.evictBuf mill
  match l.find? fun e => e.line == line && !e.noticed with
  | none => .next s
  | some ev =>
    let s1 := s.setEvictBuf mill (noticeFirst line l)
    let s2 := (s1.upCoh fun c => { c with acks := c.acks ++ [(mill, line)] })
    let e := s.dirEnt line
    match s.mem.coh.txns.find? fun t => t.line == line && t.wait.contains mill with
    | some t =>
      let s3 := (s2.upCoh fun c => { c with late := c.late ++ [(mill, t.tag, line)] }).dropHolder mill line
      .next (s3.snoopDone mill t)
    | none =>
      if e.holds mill ev then .next (s2.dropHolder mill line)
      else .next (s2.finc F.POND_DIR_CROSS (line / 32768))

/-- EVICT_ACK (R440): the acknowledged entry leaves the mill's eviction buffer. -/
def execEvictAck (mill line : Nat) (s : State) : Res :=
  if s.mem.coh.acks.contains (mill, line) then
    .next ((s.upCoh fun c => { c with acks := c.acks.erase (mill, line) }).setEvictBuf mill (ackFirst line (s.evictBuf mill)))
  else .next s

/-- The drain of a mill's cache and eviction buffer (R442): dirty lines are written back, or poisoned where they cannot be read, copies and eviction entries are
gone, and requests that waited for the mill go on. Marks: DEDUCED safe (log entry 248). -/
def State.drainCache (s : State) (mill : Nat) (badLines : List Nat) : State :=
  let mine := s.mem.coh.cache.filter fun e => e.1 / 2 ^ 20 == mill
  let gone := (s.evictBuf mill).filter fun e => !e.noticed
  let dirty := ((mine.filter fun e => e.2 == .m).map fun e => e.1 % 2 ^ 20) ++ (gone.filter (·.dirty)).map (·.line)
  let s1 := (dirty.filter badLines.contains).foldl State.poisonWords s
  let s2 := s1.upCoh fun c => { c with cache := c.cache.filter (fun e => e.1 / 2 ^ 20 != mill), evict := Tab.erase c.evict mill, acks := c.acks.filter fun a => a.1 != mill,
                                       late := c.late.filter fun a => a.1 != mill }
  let held : List Nat := mine.map fun e => e.1 % 2 ^ 20
  let s3 := (held ++ gone.map fun e => e.line).foldl (fun (t : State) ln => t.dropHolder mill ln) s2
  let s4 := s3.upCoh fun c => { c with txns := c.txns.filter fun t => t.mill != mill }
  (s4.mem.coh.txns.filter fun t => t.wait.contains mill).foldl (fun u t => u.snoopDone mill t) s4

/-! ## Scrubbers (R444 to R446) -/

/-- Is the page of a line of a stack retired? -/
def State.lineRetired (s : State) (h ln : Nat) : Bool := s.mem.retired.contains (h * 2 ^ 23 + ln / 64)

/-- The retired pages of a stack, in the order of their spares. -/
def State.sparesOf (s : State) (h : Nat) : List Nat := (s.mem.retired.filter fun k => k / 2 ^ 23 == h).map fun k => k % 2 ^ 23

/-- The places of the HBM walk (R444): the lines of the data space, then those of the spares in use. -/
def State.walkEnd (s : State) (h : Nat) : Nat := hbmLines + 64 * (s.sparesOf h).length

/-- The line that a place of the walk holds, by its data address: its own, or that of the retired page which a spare stands for. -/
def State.walkLine (s : State) (h pos : Nat) : Nat :=
  if pos < hbmLines then pos else 64 * (s.sparesOf h).getD ((pos - hbmLines) / 64) 0 + pos % 64

/-- The next place that the scrubber reads in a stack, at or after one, past retired pages. Marks: DEDUCED unsafe (log entry 247). -/
def State.scrubNext (s : State) (h : Nat) : Nat → Nat → Nat
  | 0, pos => pos
  | n + 1, pos => if hbmLines ≤ pos then pos else if s.lineRetired h pos then s.scrubNext h n ((pos / 64 + 1) * 64) else pos

/-- A code word the scrubber found corrected or uncorrectable (R446). -/
def State.scrubCount (s : State) (h : Nat) (chk : Chk) : State :=
  match chk with
  | .ok => s
  | .corrected _ => s.finc F.SCRUB_COUNTS_CE h
  | .bad => (s.finc F.SCRUB_COUNTS_UE h).raise T.scrub h I.SCRUB_UE

/-- An HBM pass has ended: the walk starts again (R444, R462). -/
def State.walkDone (s : State) (h : Nat) : State := ((s.fset F.SCRUB_POS_LINE h 0).fwrap F.SCRUB_PASSES_HBM h).raise T.scrub h I.SCRUB_PASS_DONE

/-- The scrubber reads the line of a place of the HBM walk (R446); one already poisoned is only counted. -/
def State.scrubLine (s : State) (h pos : Nat) (up : HbmUpset) : State :=
  let key := h * 2 ^ 29 + s.walkLine h pos
  if s.mem.poison.contains key then s.finc F.SCRUB_POISON_COUNT h
  else (s.hbmAfter key up).scrubCount h (s.hbmSee key up).1

/-- The directory entry at a place of the walk (R444): way i mod 16 of set i div 16 of the half. -/
def State.dirAt (s : State) (h i : Nat) : Option Nat :=
  ((s.mem.coh.dir.filter fun e => e.1 / 2 ^ 19 == h && e.1 % 16384 == i / 16 % 16384)[i % 16]?).map (·.1)

/-- The scrubber reads a place of the millpond walk (R443, R444, R446): a word of banks 16h to 16h + 15, then the directory's entries. An entry not in use holds no
line to recall. -/
def State.scrubPond (s : State) (h off : Nat) (up : ScrubUpset) : State :=
  let w := h * 2 ^ 22 + off
  if off < 2 ^ 22 then
    (if s.pondPoison.contains w then s.finc F.SCRUB_POISON_COUNT h else (s.pondAfter w up.word).scrubCount h (wordCode up.word w))
  else match s.dirAt h (off - 2 ^ 22) with
    | none => s
    | some ln =>
      let t := s.dirAfter ln up.word up.dirty
      match wordCode up.word (Config.dirWord ln % 2 ^ 18) with
      | .corrected d => t.scrubCount h (.corrected d)
      | _ => t

/-- The places of the millpond walk: the words of a half's banks, and the directory's 262,144 entries. -/
def pondPlaces : Nat := 2 ^ 22 + 2 ^ 18

/-- SCRUB_READ (R444 to R446): the next code word of the HBM walk or the millpond walk is read; a corrected one is logged, an uncorrectable
one poisoned, and one already poisoned only counted. -/
def execScrubRead (h : Nat) (what : ScrubWhat) (up : ScrubUpset) (s : State) : Res :=
  if 2 ≤ h ∨ ¬ s.fbit F.SCRUB_CTRL_EN h ∨ (what = .hbm ∧ s.fget F.SCRUB_RATE_MBPS h = 0) then .next s
  else match what with
  | .hbm =>
    let pos := s.scrubNext h (s.mem.retired.length + 1) (s.fget F.SCRUB_POS_LINE h)
    if s.walkEnd h ≤ pos then .next (s.walkDone h)
    else
      let s1 := s.scrubLine h pos up.line
      let nx := s1.scrubNext h (s1.mem.retired.length + 1) (pos + 1)
      .next (if s1.walkEnd h ≤ nx then s1.walkDone h else s1.fset F.SCRUB_POS_LINE h nx)
  | .pond =>
    let off := Tab.get (fun _ => 0) s.mem.pondPos h
    let nx := (off + 1) % pondPlaces
    let s1 := (s.scrubPond h off up).upMem fun m => { m with pondPos := Tab.set (fun _ => 0) m.pondPos h nx }
    .next (if nx = 0 then s1.fwrap F.SCRUB_PASSES_POND h else s1)

/-! ## Page retirement (R447, R448) -/

/-- Changes the Ledger. -/
def State.upLed (s : State) (f : LedgerSt → LedgerSt) : State := { s with led := f s.led }

/-- Asks for a Ledger record. Marks: DEDUCED unsafe (log entry 242). -/
def State.ledgerAsk (s : State) (r : LReq) : State := s.upLed fun l => { l with reqs := l.reqs ++ [r] }

/-- A retired-page entry of the Ledger (R457): bit 31 the stack, bits 22:0 the page. -/
def retiredWord (k : Nat) : Nat := k / 2 ^ 23 * 2 ^ 31 + k % 2 ^ 23

/-- The payload of pair j of the retired-page list (R457): entries 56j to 56j + 55; places not in use hold all ones. Marks: DESIGN CHOICE safe (log entry 315). -/
def retiredPayload (l : List Nat) (j : Nat) : List Byte :=
  let b := (((l.drop (56 * j)).take 56).map fun k => leBytes 4 (retiredWord k)).flatten
  b ++ List.replicate (224 - b.length) 0xFF ++ List.replicate 16 0

/-- The retired pages that the Ledger lists or has been asked to list (R448): not those whose record could not be written. -/
def State.listed (s : State) : List Nat := s.mem.retired.filter fun k => !s.mem.unlisted.contains k

/-- PAGE_RETIRE (R447, R448): a write to HBMC_RETIRE of a slice. While BUSY is 1 it is dropped and logged; a page of another slice, one
already retired and a slice with no spare are refused with RESULT; else the page is remapped and its Ledger record asked for. Marks: DEDUCED unsafe (log entry 249). -/
def State.pageRetire (s : State) (fn addr slice page : Nat) : State :=
  let key := slice / 16 * 2 ^ 23 + page
  let s0 := s.fset F.HBMC_RETIRE_STAT_PAGE slice page
  if s.fbit F.HBMC_RETIRE_STAT_BUSY slice then s.logErr T.hbmc slice 5 fn addr page
  else if page % 16 ≠ slice % 16 ∨ hbmLines / 64 ≤ page then s0.fset F.HBMC_RETIRE_STAT_RESULT slice 3
  else if s.mem.retired.contains key then s0.fset F.HBMC_RETIRE_STAT_RESULT slice 4
  else if 3200 ≤ s.fget F.HBMC_STAT_SPARES_USED slice then s0.fset F.HBMC_RETIRE_STAT_RESULT slice 2
  else
    let s1 := (s0.fset F.HBMC_RETIRE_STAT_BUSY slice 1).finc F.HBMC_STAT_SPARES_USED slice
    let s2 := s1.upMem fun m => { m with retired := m.retired ++ [key], retiring := Tab.set (fun _ => none) m.retiring slice (some key),
                                         retireRec := Tab.set (fun _ => none) m.retireRec slice none }
    let j := s.listed.length / 56
    s2.ledgerAsk ⟨3, j, retiredPayload s2.listed j, .retire slice⟩

/-- Step 3 of a retirement (R448): the lines of the page are copied to the spare, each decoded and encoded again; an uncorrectable one is copied poisoned. -/
def State.copyPage (s : State) (key : Nat) (copies : List (Nat × HbmUpset)) : State :=
  copies.foldl (fun t c =>
    let ln := key / 2 ^ 23 * 2 ^ 29 + 64 * (key % 2 ^ 23) + c.1 % 64
    if t.mem.poison.contains ln then t else t.hbmAfter ln c.2) s

/-- RETIRE_DONE (R448): the record has committed, or could not be written (RESULT 5, the remap stays in effect). -/
def execRetireDone (slice : Nat) (s : State) : Res :=
  match Tab.get (fun _ => none) s.mem.retiring slice, Tab.get (fun _ => none) s.mem.retireRec slice with
  | some _, some done =>
    let s1 := (s.upMem fun m => { m with retiring := Tab.erase m.retiring slice, retireRec := Tab.erase m.retireRec slice }).fset F.HBMC_RETIRE_STAT_BUSY slice 0
    if done then .next ((s1.fset F.HBMC_RETIRE_STAT_RESULT slice 1).raise T.hbmc slice I.HBMC_RETIRE_DONE)
    else .next (s1.fset F.HBMC_RETIRE_STAT_RESULT slice 5)
  | _, _ => .next s

end Sys2Proof.Machine
end

