-- ==== Sys2Proof/Machine/Rings.lean ====
section
/-!
DEFINITION. Vorak's rings (R501 to R508, R526 to R528): taking commands, writing completions, receive rings and the notice
ring, their index registers and interrupt messages.
-/

namespace Sys2Proof.Machine

/-- The state of a ring beside its registers. -/
def State.ring (s : State) (p r : Nat) : RingSt := Tab.get (fun _ => ({} : RingSt)) s.vk.rings (32 * p + r)

/-- Sets the state of a ring. -/
def State.setRing (s : State) (p r : Nat) (x : RingSt) : State :=
  { s with vk := { s.vk with rings := Tab.set (fun _ => ({} : RingSt)) s.vk.rings (32 * p + r) x } }

/-- Sets the commands taken. -/
def State.setCmds (s : State) (l : List VCmd) : State := { s with vk := { s.vk with cmds := l } }

/-- SIZE of a command ring. -/
def State.ringSize (s : State) (p r : Nat) : Nat := 2 ^ s.fget F.RING_CFG_LOG2SIZE p r

/-- SIZE of a receive or notice ring. -/
def State.rxSize (s : State) (p k : Nat) : Nat := 2 ^ s.fget F.RX_CFG_LOG2SIZE p k

/-- Records a ring error: the first in VORAK_ERR, and RING_ERR (R527). Marks: DESIGN CHOICE safe (log entry 360). -/
def State.ringErr (s : State) (p ring kind : Nat) : State :=
  let s1 := if s.fbit F.VORAK_ERR_VALID p then s
    else ((s.fset F.VORAK_ERR_VALID p 1).fset F.VORAK_ERR_RING p ring).fset F.VORAK_ERR_KIND p kind
  s1.raise T.vorak p I.VORAK_RING_ERR

/-! ## Commands and completions -/

/-- The command of 64 bytes (R507). -/
def parseCmd (p ring sqHead order : Nat) (b : List Byte) : VCmd :=
  let at' (o n : Nat) := ofLeBytes ((b.drop o).take n)
  { polder := p, ring := ring, tag := at' 2 2, opcode := at' 0 1, flags := at' 1 1, zero := at' 4 4, handle := at' 8 8,
    addr := at' 0x10 8, len := at' 0x18 4, a := (List.range 9).map fun i => at' (0x1C + 4 * i) 4, sqHead := sqHead,
    order := order }

/-- Is the opcode one of the command set (R516, R579)? Marks: DEDUCED unsafe (log entry 280). -/
def knownOpcode (o : Nat) : Bool :=
  o == 0 || o == 1 || o == 8 || (decide (0x10 ≤ o) && decide (o ≤ 0x1D)) || (decide (0x20 ≤ o) && decide (o ≤ 0x23))
    || o == 0x28 || o == 0x29 || (decide (0x30 ≤ o) && decide (o ≤ 0x33)) || o == 0x38 || o == 0x39
    || (decide (0x40 ≤ o) && decide (o ≤ 0x4B)) || (decide (0x70 ≤ o) && decide (o ≤ 0x79))

/-- Sends a ring's interrupt message (R491). -/
def State.ringMsg (s : State) (p r : Nat) : State :=
  if r < 16 then s.msi p (s.fget F.RING_CFG_VEC p r) else s.msi p (s.fget F.RX_CFG_VEC p (r - 16))

/-- The bytes of a completion (R508). -/
def completionBytes (c : VCmd) (phase : Bool) (status result eff progress detail : Nat) : List Byte :=
  leBytes 2 c.tag ++ leBytes 1 status ++ leBytes 1 (b2n phase) ++ leBytes 2 c.sqHead ++ leBytes 1 c.opcode
    ++ leBytes 1 0 ++ leBytes 8 result ++ leBytes 8 eff ++ leBytes 4 progress ++ leBytes 4 detail

/-- Commits a completion (R503, R508): the entry is written with its PHASE, counted, and signalled under VORAK_COAL. -/
def State.writeCompletion (s : State) (c : VCmd) (status result eff progress detail : Nat) : State :=
  let x := s.ring c.polder c.ring
  let base := s.fget F.CQ_BASE_HI_BASE c.polder c.ring * 2 ^ 32 + s.fget F.CQ_BASE_LO_BASE c.polder c.ring * 2 ^ 12
  let bytes := completionBytes c x.phase status result eff progress detail
  let wraps := decide (s.ringSize c.polder c.ring ≤ x.cqTail + 1)
  let x1 : RingSt := { x with cqTail := if wraps then 0 else x.cqTail + 1, phase := x.phase ^^ wraps, unsig := x.unsig + 1 }
  let s1 := ((s.emit (.dmaWrite c.polder (base + 32 * x.cqTail) bytes)).cinc C.VORAK_CMDS c.polder)
  if s.fget F.VORAK_COAL_COUNT c.polder ≤ x1.unsig
  then (s1.setRing c.polder c.ring { x1 with unsig := 0 }).ringMsg c.polder c.ring
  else s1.setRing c.polder c.ring x1

/-- The number of the item of privileged queue 0 or 1 that stands for a command (R506). -/
def cmdTag (c : VCmd) : Nat := c.ring * 65536 + c.tag

/-- The commands that cannot be stopped: their effect runs to its end and APPLIED is 1 (R519): DRAIN and the polder commands. -/
def appliedAnyway (opcode : Nat) : Bool := opcode == 0x15 || (decide (0x40 ≤ opcode) && decide (opcode ≤ 0x4B))

/-- A packet passes through a privileged queue from the Millhouse to Vorak, or the other way, into the cells it has reserved, with its notice, and is
released (R337, R339, R506). -/
def State.passPacket (s : State) (p j tag : Nat) (data : List Byte) : State :=
  let id := qPriv p j
  let n := s.qs.nextId
  (s.qPut id 0 { id := 0, tag := tag, data := data } none).qRemove id fun i => decide (n ≤ i.id) && i.tag == tag && !i.gap

/-- Completes a taken command: it leaves execution, its cells in privileged queue 0 are freed, its completion comes through queue 1, whose cell it has
reserved (R339, R506), and is written, unless a function-level reset has taken it away (R522). An aborted command that ran to its end completes ABORTED (R519): APPLIED says whether
its effect took place, and RESULT and EFFECTIVE_TURN are those of OK where it did. -/
def State.complete (s : State) (c : VCmd) (status : Nat) (result : Nat := 0) (eff : Nat := 0) (progress : Nat := 0)
    (detail : Nat := 0) : State :=
  let x := (s.vk.cmds.find? fun y => y.order == c.order).getD c
  let ab := x.aborted && status != 8
  let applied := status == 0 || appliedAnyway c.opcode
  let s1 := s.setCmds (s.vk.cmds.filter fun x => !(x.order == c.order))
  let s2 := (s1.qRemove (qPriv c.polder 0) fun i => i.tag == cmdTag c && i.done && !i.gap).passPacket c.polder 1 (cmdTag c)
    (completionBytes c false status result eff progress detail)
  if x.silent then s2
  else if ab then s2.writeCompletion c 8 (if applied then result else 0) (if applied then eff else 0)
    ((if applied then 2 ^ 31 else 0) + progress) detail
  else s2.writeCompletion c status result eff progress detail

/-- The taken command of a ring with a tag. -/
def State.findCmd (s : State) (p ring tag : Nat) : Option VCmd :=
  s.vk.cmds.find? fun c => c.polder == p && c.ring == ring && c.tag == tag

/-- Has a ring an outstanding command with a tag (R510), one that a function-level reset has not taken from the host (R522)? -/
def State.tagHeld (s : State) (p ring tag : Nat) : Bool :=
  s.vk.cmds.any fun c => c.polder == p && c.ring == ring && c.tag == tag && !c.silent

/-- Marks commands aborted: they complete ABORTED when they end (R519). Marks: DEDUCED unsafe (log entry 281). -/
def State.markAborted (s : State) (f : VCmd → Bool) : State :=
  s.setCmds (s.vk.cmds.map fun x => if f x then { x with aborted := true } else x)

/-- Stops a command that an abort has reached (R518, R519): one not started completes ABORTED with no effect, BULK_SEND, SNAPSHOT and DMA_WRITE stop
where they are, and any other runs to its end. Marks: DEDUCED unsafe (log entry 281). -/
def State.stopCmd (s : State) (x : VCmd) : State :=
  if x.started && !(x.opcode == 0x28 || x.opcode == 0x29 || x.opcode == 0x30) then s.markAborted fun y => y.order == x.order
  else s.complete x 8 0 0 x.progress

/-- Marks a command started. -/
def State.markStarted (s : State) (c : VCmd) : State :=
  s.setCmds (s.vk.cmds.map fun x => if x.order = c.order then { x with started := true } else x)

/-- Commands of a polder in execution (R502). Marks: DEDUCED unsafe (log entry 282). -/
def State.inFlight (s : State) (p : Nat) : Nat := (s.vk.cmds.filter fun c => c.polder == p).length

/-- Is the ring enabled with commands not yet taken (VORAK_STAT.WAITING)? -/
def State.ringWaiting (s : State) (p r : Nat) : Bool :=
  s.fbit F.RING_CFG_EN p r && s.fget F.SQ_HEAD_HEAD p r != s.fget F.SQ_TAIL_TAIL p r

/-- Does Vorak hold a CQ entry for one more command of the ring (R501)? -/
def State.cqRoom (s : State) (p r : Nat) : Bool :=
  let n := s.ringSize p r
  let open' := (s.vk.cmds.filter fun c => c.polder == p && c.ring == r).length
  let unfreed := ((s.ring p r).cqTail + n - s.fget F.CQ_HEAD_HEAD p r) % n
  decide (open' + unfreed + 1 < n)

/-- The ring a polder's Vorak takes from next: round robin after the last one (R502). -/
def State.nextRing (s : State) (p : Nat) : Option Nat :=
  let last := Tab.get (fun _ => 15) s.vk.last p
  ((List.range 16).map fun i => (last + 1 + i) % 16).find? fun r => s.ringWaiting p r && s.cqRoom p r

/-- Is a function in a function-level reset (R522)? -/
def State.inFlr (s : State) (p : Nat) : Bool := bitAt (s.fget F.PCIE_FLR_IN_FLR 0) p

/-- Has the privileged pool room for a packet of n cells that Vorak appends to privileged queue j, and for its completion (R339, R506)? LIMIT of the queue
holds it back in the same way. Marks: DEDUCED unsafe (log entry 184). -/
def State.privRoom (s : State) (p j n : Nat) : Bool :=
  decide (s.poolUsed 32 + s.reserved 32 + n ≤ s.poolSize 32) && s.limitTakes (qPriv p j) { id := 0 }

/-- Has the privileged pool room for a command and its completion (R339, R506)? Marks: DEDUCED unsafe (log entry 184). -/
def State.takeRoom (s : State) (p : Nat) : Bool := s.privRoom p 0 2

/-- Fields of a handle (R511). -/
def hTyp (h : Nat) : Nat := h / 2 ^ 60 % 16
def hPol (h : Nat) : Nat := h / 2 ^ 56 % 16
def hGen (h : Nat) : Nat := h / 2 ^ 32 % 2 ^ 24
def hIdx (h : Nat) : Nat := h % 2 ^ 32

/-- The object a handle names: its TYPE and index, zero for none. -/
def objName (h : Nat) : Nat := if h = 0 then 0 else hTyp h * 2 ^ 32 + hIdx h

/-- May a taken command start (R510), where `obj` is the object it names? The earlier commands of its ring have started, under FENCE
they have completed, and the earlier ones of the polder that name the object have completed. Marks: DEDUCED unsafe (log entry 282). -/
def State.ready (s : State) (c : VCmd) (obj : Nat) : Bool :=
  !c.started && !(s.vk.cmds.any fun x => x.polder == c.polder && decide (x.order < c.order) &&
    ((x.ring == c.ring && (c.flags % 2 == 1 || !x.started)) || (obj != 0 && objName x.handle == obj)))

/-- The commands of a polder with a reserved opcode, for which no row starts them: each that may start does so and completes BAD_PARAM (R510).
Marks: DEDUCED unsafe (log entry 280). -/
def State.endReserved (s : State) (p : Nat) : State :=
  s.vk.cmds.foldl (fun t c => if c.polder = p ∧ ¬ knownOpcode c.opcode ∧ t.ready c (objName c.handle) then t.complete c 6 else t) s

/-- The command that a polder's Vorak is writing to privileged queue 0: a packet of which not every word is there (R332). Its TAG names the ring. -/
def State.writing (s : State) (p : Nat) : Option QItem := (s.queue (qPriv p 0)).items.find? fun i => !i.done

/-- The unfinished packet of a polder's queue 0 is abandoned and its cells return (R331), where it comes from one of some rings. -/
def State.rewindTake (s : State) (p : Nat) (ring : Nat → Bool) : State :=
  match s.writing p with
  | some i => if ring (i.tag / 65536) then s.qRemove (qPriv p 0) fun x => !x.done else s
  | none => s

/-- Some words of a command reach privileged queue 0 (R332): `b` is all of it so far. -/
def State.writePart (s : State) (p r : Nat) (b : List Byte) : State :=
  let id := qPriv p 0
  if (s.writing p).isSome then s.setQueue id { s.queue id with items := (s.queue id).items.map fun i => if i.done then i else { i with data := b } }
  else if s.takeRoom p then s.qPut id 0 { id := 0, tag := r * 65536, data := b, done := false } none else s

/-- Vorak takes the command at SQ_HEAD of the next ring (R502), with its cells and its completion's cells reserved in the privileged pool (R339, R506). A
tag that is outstanding completes BAD_PARAM at once (R510). Where only some of the 64 bytes have come, those stand in queue 0 as an unfinished packet (R332),
and the row goes on. A failed read disables the ring, and the packet is rewound (R331). -/
def State.takeCommand (s : State) (p : Nat) (read : Option (List Byte)) : State :=
  if ¬ s.fbit F.VORAK_CTRL_EN p ∨ 256 ≤ s.inFlight p ∨ s.inFlr p then s
  else match ((s.writing p).map fun i => i.tag / 65536) <|> s.nextRing p with
  | none => s
  | some r =>
    let part := ((s.writing p).map (·.data)).getD []
    let clean := s.rewindTake p fun _ => true
    let s0 : State := { clean with vk := { clean.vk with last := Tab.set (fun _ => 15) s.vk.last p r } }
    match read with
    | none => (s0.fset F.RING_CFG_EN p 0 r).ringErr p r 2
    | some more =>
      let b := (part ++ more).take 64
      if b.length < 64 then s.writePart p r b else
      let h := (s.fget F.SQ_HEAD_HEAD p r + 1) % s.ringSize p r
      let x := s.ring p r
      let c := { parseCmd p r h s.vk.takes b with bell := (x.bells.head?.map (·.2)).getD s.vk.bells }
      let s1 : State := (s0.setRing p r { x with bells := if x.bells.head?.map (·.1) = some h then x.bells.drop 1 else x.bells }).fset F.SQ_HEAD_HEAD p h r
      let s2 : State := { s1 with vk := { s1.vk with takes := s1.vk.takes + 1 } }
      if s.tagHeld p r c.tag then s2.writeCompletion c 6 0 0 0 0
      else if ¬ clean.takeRoom p then s
      else (s2.qPut (qPriv p 0) 0 { id := 0, tag := cmdTag c, data := b } none).setCmds (s2.vk.cmds ++ [c])

/-- COMMAND_TAKE (R502, R510). -/
def execCommandTake (p : Nat) (read : Option (List Byte)) (s : State) : Res := .next ((s.takeCommand p read).endReserved p)

/-- COAL_TIMER (R503): TIME µs after the first unsignalled entry a message is sent. -/
def execCoalTimer (p r : Nat) (s : State) : Res :=
  if s.fget F.VORAK_COAL_TIME p ≠ 0 ∧ (s.ring p r).unsig ≠ 0 ∧ r < 16
  then .next ((s.setRing p r { s.ring p r with unsig := 0 }).ringMsg p r)
  else .next s

/-! ## Index registers (R528) -/

/-- A refused index write. -/
def State.badIndex (s : State) (fn addr p ring v : Nat) : State := (s.logErr T.vorak p 5 fn addr v).ringErr p ring 1

/-- A write of SQ_TAIL (R502, R518, R528): the doorbell that covers the commands up to the new tail is numbered. -/
def State.sqTailWrite (s : State) (fn addr p r v : Nat) : State :=
  let t := v % 65536
  if s.ringSize p r ≤ t then s.badIndex fn addr p r v
  else if t = s.fget F.SQ_TAIL_TAIL p r then s
  else
    let x := s.ring p r
    let s1 := s.setRing p r { x with bells := x.bells ++ [(t, s.vk.bells)] }
    ({ s1 with vk := { s1.vk with bells := s1.vk.bells + 1 } } : State).fset F.SQ_TAIL_TAIL p t r

/-- A write of CQ_HEAD (R503, R528): it may not pass the entries written. -/
def State.cqHeadWrite (s : State) (fn addr p r v : Nat) : State :=
  let n := s.ringSize p r
  let old := s.fget F.CQ_HEAD_HEAD p r
  let x := v % 65536
  if n ≤ x ∨ ((s.ring p r).cqTail + n - old) % n < (x + n - old) % n then s.badIndex fn addr p r v
  else s.fset F.CQ_HEAD_HEAD p x r

/-- A write of CONS in RX_IDX (R504, R528). -/
def State.rxConsWrite (s : State) (fn addr p k v : Nat) : State :=
  let n := s.rxSize p k
  let old := s.fget F.RX_IDX_CONS p k
  let x := v % 65536
  if n ≤ x ∨ (s.fget F.RX_IDX_PROD p k + n - old) % n < (x + n - old) % n then s.badIndex fn addr p (16 + k) v
  else s.fset F.RX_IDX_CONS p x k

/-- A write of RING_CFG or RX_CFG (R527, R528): `f` are the EN, LOG2SIZE and VEC fields and `idx` the copy; `ring` is the ring's
number in VORAK_ERR. A VEC of 128 or more through a VF page is
refused (R491), and LOG2SIZE and VEC while EN is 1; setting EN resets the ring's indices and PHASE. Marks: DEDUCED safe (log entry 84). -/
def State.ringCfg (s : State) (fn addr p ring : Nat) (en sz vec : Fld) (idx v : Nat) : State :=
  let newEn := bitAt v 31
  let newSz := bitField v 20 5
  let newVec := bitField v 0 11
  let top := if ring < 16 then 16 else 12
  let cur := s.fbit en p idx
  if p ≠ 0 ∧ 128 ≤ newVec then s.logErr T.vorak p 5 fn addr v
  else if cur then
    if newSz ≠ s.fget sz p idx ∨ newVec ≠ s.fget vec p idx then s.logErr T.vorak p 5 fn addr v
    else (if newEn then s else s.rewindTake p (· == ring)).fset en p (b2n newEn) idx
  else if newSz < 4 ∨ top < newSz then s.logErr T.vorak p 5 fn addr v
  else
    let s1 := ((s.fset sz p newSz idx).fset vec p newVec idx).fset en p (b2n newEn) idx
    if newEn then
      let s2 := s1.setRing p ring {}
      if ring < 16
      then ((s2.fset F.SQ_TAIL_TAIL p 0 idx).fset F.SQ_HEAD_HEAD p 0 idx).fset F.CQ_HEAD_HEAD p 0 idx
      else (s2.fset F.RX_IDX_PROD p 0 idx).fset F.RX_IDX_CONS p 0 idx
    else s1

/-- The address of a register of VORAK p. -/
def vorakAddr (p off : Nat) : Nat := regAddr T.vorak p off

/-! ## Receive and notice rings (R504, R505) -/

/-- Can Vorak write one more entry into receive ring k? -/
def State.rxRoom (s : State) (p k : Nat) : Bool :=
  s.fbit F.RX_CFG_EN p k && !s.inFlr p &&
    decide ((s.fget F.RX_IDX_PROD p k + s.rxSize p k - s.fget F.RX_IDX_CONS p k) % s.rxSize p k + 1 < s.rxSize p k)

/-- Advances PROD, with PHASE changed at the wrap. Marks: DEDUCED safe (log entry 84). -/
def State.rxAdvance (s : State) (p k : Nat) : State :=
  let n := s.rxSize p k
  let prod := s.fget F.RX_IDX_PROD p k
  let x := s.ring p (16 + k)
  let s1 := s.fset F.RX_IDX_PROD p ((prod + 1) % n) k
  if prod + 1 = n then s1.setRing p (16 + k) { x with phase := !x.phase } else s1

/-- The base of receive ring k. -/
def State.rxBase (s : State) (p k : Nat) : Nat :=
  s.fget F.RX_BASE_HI_BASE p k * 2 ^ 32 + s.fget F.RX_BASE_LO_BASE p k * 2 ^ 12

/-- The message of a receive or notice ring is sent for an item delivered while NOTICE_EN of its queue is set (R337, R491). Marks: DEDUCED unsafe
(log entry 375). -/
def State.rxMsg (s : State) (p k id : Nat) : State := if (s.queue id).notice then s.ringMsg p (16 + k) else s

/-- RX_DELIVER (R504): the first visible item of host queue k goes into the slot at PROD, then its PHASE word; it is released. Of an item that reads
poisoned no data is written, and its descriptor says so (R338, R437). Marks: DEDUCED safe (log entry 390). -/
def execRxDeliver (p : Nat) (rd : QRead) (s : State) : Res :=
  let k := rd.n
  if ¬ s.rxRoom p k ∨ 8 ≤ k then .next s
  else
    let s0 := s.qTailGap (qHost p k)
    match (s0.queue (qHost p k)).items with
    | [] => .next s0
    | i :: _ =>
      if i.seen = none then .next s0
      else
        let at' := s0.rxBase p k + 2048 * s0.fget F.RX_IDX_PROD p k
        let bad := i.poison || (rd.bad && !i.gap)
        let body := (descWords { i with poison := bad }).foldl (fun l w => l ++ leBytes 4 w) [] ++ (if i.gap || bad then [] else i.data)
        let s1 := (s0.emit (.dmaWrite p at' body)).emit
          (.dmaWrite p (at' + 0x7FC) (leBytes 4 (b2n (s0.ring p (16 + k)).phase)))
        let s2 := if bad then (s1.poisonItem (qHost p k) i.id).spill C.SPILL_POISON p else s1
        .next (((s2.qRemove (qHost p k) fun x => x.id == i.id).rxAdvance p k).rxMsg p k (qHost p k))

/-- Records a notice of the Millhouse in privileged queue 2 (R505, R506): CODE, the handle, the turn and DETAIL. A notice that
finds the queue full is dropped (R334) and raises NOTICE_LOST. Marks: DESIGN CHOICE safe (log entry 264), DEDUCED safe (log entry 285). -/
def State.notice (s : State) (p code handle detail : Nat) : State :=
  let body := leBytes 1 code ++ leBytes 7 0 ++ leBytes 8 handle ++ leBytes 8 s.turn ++ leBytes 8 detail
  let r := s.qAppend (qPriv p 2) 0 { id := 0, data := body } none
  if r.2 then r.1 else r.1.raise T.vorak p I.VORAK_NOTICE_LOST

/-- NOTICE_DELIVER (R505): the first notice goes into the notice ring with its PHASE; a gap marker goes as a LOST notice, and so does a notice that reads
poisoned, of which no byte is written (R338, R437). Marks: DEDUCED safe (log entry 390). -/
def execNoticeDeliver (rd : QRead) (s : State) : Res :=
  let p := rd.n
  if ¬ s.rxRoom p 8 then .next s
  else
    let s0 := s.qTailGap (qPriv p 2)
    match (s0.queue (qPriv p 2)).items with
    | [] => .next s0
    | i :: _ =>
      let ph := b2n (s0.ring p 24).phase
      let bad := i.poison || (rd.bad && !i.gap)
      let body := if i.gap || bad
        then leBytes 1 0x0F ++ leBytes 1 ph ++ leBytes 2 (if i.gap then i.gaps else 1) ++ leBytes 12 0 ++ leBytes 8 s0.turn ++ leBytes 8 0
        else i.data.take 1 ++ leBytes 1 ph ++ i.data.drop 2
      let s1 := s0.emit (.dmaWrite p (s0.rxBase p 8 + 32 * s0.fget F.RX_IDX_PROD p 8) body)
      let s2 := if bad then (s1.poisonItem (qPriv p 2) i.id).spill C.SPILL_POISON p else s1
      .next (((s2.qRemove (qPriv p 2) fun x => x.id == i.id).rxAdvance p 8).rxMsg p 8 (qPriv p 2))

end Sys2Proof.Machine
end

