-- ==== Sys2Proof/Machine/Measure.lean ====
section
/-!
DEFINITION. Measurements (R562, R563): SHA-384, the measurement registers, the measurement log and the polder log digests.
-/

namespace Sys2Proof.Machine

/-- SHA-384 (R562), byte by byte. -/
def sha384 (l : List Byte) : List Byte := (List.range 48).map (Config.crypt (384 :: l.map (·.toNat)))

/-- The value of a measurement register: 48 bytes, zero after a device reset. -/
def State.mrValue (s : State) (mr : Nat) : List Byte := Tab.get (fun _ => List.replicate 48 0) s.meas.mr mr

/-- The log digest of a polder. Marks: DESIGN CHOICE safe (log entry 334). -/
def State.plogValue (s : State) (p : Nat) : List Byte := Tab.get (fun _ => List.replicate 48 0) s.meas.plog p

/-- Extends a measurement register with a 48-byte value and appends its record to the log (R562, R563). -/
def State.extendMr (s : State) (mr p typ : Nat) (v : List Byte) : State :=
  let m := s.meas
  let full := decide (262144 ≤ m.log.length)
  let own := decide (5 ≤ mr ∧ mr ≤ 7)
  { s with meas :=
    { mr := Tab.set (fun _ => List.replicate 48 0) m.mr mr (sha384 (s.mrValue mr ++ v)),
      log := if full then m.log else m.log ++ [⟨mr, p, typ, v⟩],
      plog := if own then Tab.set (fun _ => List.replicate 48 0) m.plog p (sha384 (s.plogValue p ++ v)) else m.plog,
      full := m.full || full } }

end Sys2Proof.Machine
end

