-- ==== Sys2Proof/Machine/Stream.lean ====
section
/-!
DEFINITION. The packet path (R293 to R327): parsing and polder assignment, the classifier copies, the weirs, ingress of a
stream with SRTP, replay windows and the jitter buffer (R230 to R237), RTCP, and building frames on egress.
-/

namespace Sys2Proof.Machine

/-! ## Bytes -/

/-- Big-endian bytes of a value. -/
def beBytes (n v : Nat) : List Byte := (leBytes n v).reverse

/-- The big-endian value of n bytes at an offset. -/
def beAt (l : List Byte) (o n : Nat) : Nat := ofBeBytes ((l.drop o).take n)

/-- The little-endian value of n bytes at an offset. -/
def leAt (l : List Byte) (o n : Nat) : Nat := ofLeBytes ((l.drop o).take n)

/-- n bytes at an offset. -/
def sub (l : List Byte) (o n : Nat) : List Byte := (l.drop o).take n

/-- The sum of big-endian 16-bit words, the last byte filled with a zero. -/
def sum16 : List Byte → Nat
  | [] => 0
  | [a] => a.toNat * 256
  | a :: b :: l => a.toNat * 256 + b.toNat + sum16 l

/-- A one's complement sum folded to 16 bits. -/
def fold16 (n : Nat) : Nat := if n = 0 then 0 else if n % 65535 = 0 then 65535 else n % 65535

/-- The Internet checksum of a sum. Marks: PRESUMED safe (log entry 186). -/
def csum (n : Nat) : Nat := 65535 - fold16 n

/-- A stamp in units of 2⁻¹⁶ ns. -/
def Stamp.units (t : Stamp) : Nat := (t.sec * 1000000000 + t.ns) * 65536 + t.frac

/-- One nanosecond and one second in those units. -/
def unitNs : Nat := 65536
def unitSec : Nat := 65536000000000

/-! ## Port modes (R355, R356) -/

/-- The mode of a port's pair. -/
def State.pmode (s : State) (n : Nat) : Nat := s.fget F.MAC_CTRL_PMODE (n / 2 * 2)

/-- The rate of a port in Gb/s. -/
def State.portRate (s : State) (n : Nat) : Nat := [10, 25, 50, 100].getD (s.pmode n) 10

/-- The time n bits take at the rate of a port, in units of 2⁻¹⁶ ns. -/
def State.bitTime (s : State) (port n : Nat) : Nat := n * unitNs / s.portRate port

/-- The release time of a relay frame (R470). -/
def State.relayRelease (s : State) (f : RxFrame) : Nat := f.stamp + 4000 * unitNs + s.bitTime f.port ((f.data.length + 4) * 8)

/-! ## Streams as records -/

/-- The record of a stream. -/
def State.strm (s : State) (i : Nat) : Stream := Tab.get (fun _ => ({} : Stream)) s.streams i

/-- Sets the record of a stream. -/
def State.setStrm (s : State) (i : Nat) (x : Stream) : State :=
  { s with streams := Tab.set (fun _ => ({} : Stream)) s.streams i x }

/-- Changes the record of a stream. -/
def State.upStrm (s : State) (i : Nat) (f : Stream → Stream) : State := s.setStrm i (f (s.strm i))

/-- Fields of the descriptor (R312). -/
def Stream.kind (x : Stream) : Nat := leAt x.desc 4 1
def Stream.portmode (x : Stream) : Nat := leAt x.desc 5 1
def Stream.srcchk (x : Stream) : Nat := leAt x.desc 6 1
def Stream.ssrcmode (x : Stream) : Nat := leAt x.desc 7 1
def Stream.txflags (x : Stream) : Nat := leAt x.desc 0x74 1
def Stream.rxSuite (x : Stream) : Nat := leAt x.desc 0x80 1
def Stream.txSuite (x : Stream) : Nat := leAt x.desc 0x81 1
def Stream.mkiLen (x : Stream) : Nat := leAt x.desc 0x82 1

/-- Counter word k of a stream (R315). -/
def Stream.cnt (x : Stream) (k : Nat) : Nat := x.ctr.getD k 0

/-- Sets counter word k. -/
def Stream.setCnt (x : Stream) (k v : Nat) : Stream :=
  { x with ctr := setAt (x.ctr ++ List.replicate (16 - x.ctr.length) 0) k (v % 2 ^ 32) }

/-- Adds to counter word k, which wraps. -/
def State.scnt (s : State) (i k : Nat) (n : Nat := 1) : State := s.upStrm i fun x => x.setCnt k (x.cnt k + n)

/-- The key of an object's index in the generation and quarantine tables: handle TYPE and, within a polder for kernels and types,
the polder (R511, R513). -/
def objKey (typ p idx : Nat) : Nat := typ * 2 ^ 32 + (if typ = 4 ∨ typ = 5 then p * 2 ^ 16 else 0) + idx

/-- The current generation of an index (R512). -/
def State.gen (s : State) (typ p idx : Nat) : Nat := Tab.get (fun _ => 0) s.vk.gens (objKey typ p idx)

/-- The handle of an object (R511). -/
def State.handleOf (s : State) (typ p idx : Nat) : Nat :=
  typ * 2 ^ 60 + p * 2 ^ 56 + s.gen typ p idx % 2 ^ 24 * 2 ^ 32 + idx

/-- A notice about a stream (R328): its handle and a code, in host queue 3 of its polder. Marks: DESIGN CHOICE safe (log entry 183). -/
def State.streamNotice (s : State) (half i code : Nat) : State :=
  let p := (s.strm i).polder
  (s.qAppend (qHost p 3) half { id := 0, stream := i, data := leBytes 8 (s.handleOf 1 p i) ++ leBytes 1 code } none).1

/-- Records an event in STREAM_LASTERR (R350). -/
def State.streamErr (s : State) (half kind i : Nat) : State :=
  ((s.fset F.STREAM_LASTERR_VALID half 1).fset F.STREAM_LASTERR_KIND half kind).fset F.STREAM_LASTERR_STREAM half i

/-! ## Weirs (R306 to R309) -/

/-- The tokens one packet or byte costs. -/
def tokenUnit : Nat := unitSec

/-- A bucket nothing has drawn from is full. Marks: DEDUCED unsafe (log entry 178). -/
def fullBucket (_ : Nat) : Bucket := ⟨2 ^ 128, 0⟩

/-- A bucket refilled at a rate up to a stamp and to a burst. Marks: DEDUCED unsafe (log entry 178). -/
def Bucket.refill (b : Bucket) (rate burst stamp : Nat) : Bucket :=
  ⟨min (b.level + (stamp - b.stamp) * rate) (burst * tokenUnit), max b.stamp stamp⟩

/-- Does a bucket hold n tokens? -/
def Bucket.holds (b : Bucket) (n : Nat) : Bool := decide (n * tokenUnit ≤ b.level)

/-- A bucket after paying n tokens. -/
def Bucket.pay (b : Bucket) (n : Nat) : Bucket := { b with level := b.level - n * tokenUnit }

/-- The classifier of a half. -/
def State.clsf (s : State) (h : Nat) : Classifier := Tab.get (fun _ => ({} : Classifier)) s.cls h

/-- Sets the classifier of a half. -/
def State.setCls (s : State) (h : Nat) (c : Classifier) : State :=
  { s with cls := Tab.set (fun _ => ({} : Classifier)) s.cls h c }

/-- An entry of the VLAN map (R294, R346): VALID × 16 + POLDER; only entry 0 is valid at reset. -/
def vmapReset (v : Nat) : Nat := if v = 0 then 16 else 0

/-- The polder of a VLAN, where the map has one. -/
def State.vlanPolder (s : State) (h vlan : Nat) : Option Nat :=
  let e := Tab.get vmapReset (s.clsf h).vmap vlan
  if 16 ≤ e then some (e % 16) else none

/-- The exception weir of a polder: refilled, and paid if it conforms (R308); it passes nothing of a polder in RESETTING (R467). -/
def State.excWeir (s : State) (h p stamp : Nat) : State × Bool :=
  let c := s.clsf h
  let b := (Tab.get fullBucket c.exc p).refill (s.fget F.CLS_EW_PPS h p) (s.fget F.CLS_EW_BURST h p) stamp
  let ok := b.holds 1 && s.fget F.DIKE_STAT_STATE p != 3
  (s.setCls h { c with exc := Tab.set fullBucket c.exc p (if ok then b.pay 1 else b) }, ok)

/-- The stream weir, then the polder weir (R309): a refused frame pays neither. -/
def State.weirs (s : State) (h i len stamp : Nat) : State × Bool :=
  let x := s.strm i
  let p := x.polder
  let c := s.clsf h
  let sw := x.weir.refill (leAt x.desc 0x32 2) (leAt x.desc 0x34 1) stamp
  let pk := (Tab.get fullBucket c.pkts p).refill (s.fget F.CLS_PW_PPS_PPS h p) (s.fget F.CLS_PW_PBURST_BURST h p) stamp
  let by' := (Tab.get fullBucket c.bytes p).refill (s.fget F.CLS_PW_MBPS_MBPS h p * 125000)
    (s.fget F.CLS_PW_KBURST_KBURST h p * 1024) stamp
  let okS := sw.holds 1
  let okP := pk.holds 1 && by'.holds len
  let pay := okS && okP
  let s1 := s.upStrm i fun y => { y with weir := if pay then sw.pay 1 else sw }
  let s2 := if okS then s1.setCls h { c with pkts := Tab.set fullBucket c.pkts p (if pay then pk.pay 1 else pk), bytes := Tab.set fullBucket c.bytes p (if pay then by'.pay len else by') } else s1
  if pay then (s2, true)
  else ((s2.spill (if okS then C.SPILL_PWEIR else C.SPILL_SWEIR) p).scnt i 6, false)

/-! ## Exceptions (R296) -/

/-- The 16-byte prefix of an exception or bulk receive item. -/
def itemPrefix (reason : Nat) (f : RxFrame) : List Byte :=
  leBytes 6 (f.stamp / unitSec) ++ leBytes 4 (f.stamp % unitSec / unitNs) ++ leBytes 2 (f.stamp % unitNs) ++ leBytes 1 f.port
    ++ leBytes 1 reason ++ leBytes 2 0

/-- A frame that is not delivered to a stream: it passes the exception weir of its polder and goes to the exception queue with its
prefix and reason, truncated to 1,648 bytes. Marks: DEDUCED unsafe (log entry 182). -/
def State.exception (s : State) (h p reason stream : Nat) (f : RxFrame) : State :=
  let s0 := if reason = 1 then s.cinc C.CLS_NOMATCH h else if reason = 0x0C then (s.finc F.CLS_EVENTS_BUSY h).raise T.classifier h I.CLASSIFIER_LOOKUP_BUSY else s
  let r := s0.excWeir h p f.stamp
  if ¬ r.2 then r.1.spill C.SPILL_EWEIR p
  else
    let pre := itemPrefix reason f
    (r.1.qAppend (qHost p 0) h { id := 0, stream := stream, tag := if reason = 7 then f.flags else 0, data := pre ++ f.data.take 1648 } none).1

/-- The same for a frame of a stream, which counts it (R315). -/
def State.streamExc (s : State) (h i reason : Nat) (f : RxFrame) : State :=
  (s.scnt i 7).exception h (s.strm i).polder reason i f

/-! ## Parsing (R293, R295) -/

/-- A parsed frame: its VLAN, and either the exception reason of its form or the IP version, addresses, ports and UDP payload. -/
structure Parsed where
  vlan : Nat
  bad : Nat
  ipv : Nat
  src : List Byte
  dst : List Byte
  sport : Nat
  dport : Nat
  payload : List Byte

/-- The UDP checksum of a datagram holds (R293): over the pseudo-header, the UDP header and the data. -/
def udpOk (src dst udp : List Byte) (v4 : Bool) : Bool :=
  let field := beAt udp 6 2
  if field = 0 then v4 else fold16 (sum16 src + sum16 dst + 17 + beAt udp 4 2 + sum16 (udp.take (beAt udp 4 2))) == 65535

/-- Parses a frame without its FCS (R293, R294, R296). Marks: DEDUCED unsafe (log entry 180), PRESUMED safe (log entry 186). -/
def parseFrame (d : List Byte) : Parsed :=
  let none' (v r : Nat) : Parsed := ⟨v, r, 0, [], [], 0, 0, []⟩
  let et0 := beAt d 12 2
  let tagged := et0 == 0x8100
  let vlan := if tagged then beAt d 14 2 % 4096 else 0
  let et := if tagged then beAt d 16 2 else et0
  let ip := d.drop (if tagged then 18 else 14)
  if et = 0x8100 then none' vlan 3
  else if et = 0x0800 ∧ leAt ip 0 1 / 16 = 4 then
    let ihl := leAt ip 0 1 % 16
    if ihl ≠ 5 ∨ beAt ip 6 2 % 0x4000 ≠ 0 ∨ leAt ip 9 1 ≠ 17 then none' vlan 4
    else if fold16 (sum16 (ip.take 20)) ≠ 65535 then none' vlan 6
    else
      let udp := (ip.take (beAt ip 2 2)).drop 20
      let src := sub ip 12 4
      let dst := sub ip 16 4
      if udp.length < 8 ∨ ¬ udpOk src dst udp true then none' vlan 6
      else ⟨vlan, 0, 4, src ++ List.replicate 12 0, dst ++ List.replicate 12 0, beAt udp 0 2, beAt udp 2 2,
            (udp.take (beAt udp 4 2)).drop 8⟩
  else if et = 0x86DD ∧ leAt ip 0 1 / 16 = 6 then
    if leAt ip 6 1 ≠ 17 then none' vlan 4
    else
      let udp := (ip.drop 40).take (beAt ip 4 2)
      let src := sub ip 8 16
      let dst := sub ip 24 16
      if udp.length < 8 ∨ ¬ udpOk src dst udp false then none' vlan 6
      else ⟨vlan, 0, 6, src, dst, beAt udp 0 2, beAt udp 2 2, (udp.take (beAt udp 4 2)).drop 8⟩
  else none' vlan 3

/-- The lookup key of a parsed frame (R295). -/
def Parsed.key (q : Parsed) : ClsKey := ⟨q.vlan, q.ipv, q.dst, q.dport / 2⟩

/-! ## The table (R297 to R305) -/

/-- An empty slot. -/
def emptySlot (_ : Nat) : Slot := ⟨0, ⟨0, 0, [], 0⟩, 0, 0, 0, false, false⟩

/-- The slots of the buckets; the stash's positions follow them (R297). -/
def clsSlots : Nat := 327680

/-- What the classifier's keyed hashes take: which of them, the secret key and the lookup key (R295, R297). -/
def State.clsHash (s : State) (fn : Nat) (k : ClsKey) : Nat :=
  Config.clsHash (fn :: s.trust.hashKey :: k.vlan :: k.ipv :: k.port :: k.addr.map (·.toNat))

/-- The first bucket of a key, the second, which is another one, and the tag, which is never 0 (R297). -/
def State.bucket1 (s : State) (k : ClsKey) : Nat := s.clsHash 1 k % 81920
def State.bucket2 (s : State) (k : ClsKey) : Nat :=
  let a := s.clsHash 2 k % 81920
  if a = s.bucket1 k then (a + 1) % 81920 else a
def State.clsTag (s : State) (k : ClsKey) : Nat := 1 + s.clsHash 3 k % (2 ^ 32 - 1)

/-- The four positions of a bucket, and the positions of a key's buckets in ascending order (R298). -/
def bucketPos (b : Nat) : List Nat := [4 * b, 4 * b + 1, 4 * b + 2, 4 * b + 3]
def State.candidates (s : State) (k : ClsKey) : List Nat :=
  let a := s.bucket1 k
  let b := s.bucket2 k
  if a < b then bucketPos a ++ bucketPos b else bucketPos b ++ bucketPos a

/-- The slot and the tag entry of one copy at a position. -/
def State.slot (s : State) (h pos : Nat) : Slot := Tab.get emptySlot (s.clsf h).slots pos
def State.tagAt (s : State) (h pos : Nat) : Nat := Tab.get (fun _ => 0) (s.clsf h).tags pos

/-- Sets a slot of one copy. -/
def State.setSlot (s : State) (h pos : Nat) (x : Slot) : State :=
  s.setCls h { s.clsf h with slots := Tab.set emptySlot (s.clsf h).slots pos x }

/-- Sets a tag entry of one copy, which then reads well. -/
def State.setTag (s : State) (h pos tag : Nat) : State :=
  s.setCls h { s.clsf h with tags := Tab.set (fun _ => 0) (s.clsf h).tags pos tag, badTags := (s.clsf h).badTags.filter (· != pos) }

/-- Marks a slot, or a tag entry, of one copy as reading uncorrectable. -/
def State.upsetAt (s : State) (h pos : Nat) (tag : Bool) : State :=
  if tag then s.setCls h { s.clsf h with badTags := pos :: (s.clsf h).badTags.filter (· != pos) }
  else s.setSlot h pos { s.slot h pos with bad := true }

/-- Does a position of one copy read uncorrectable, in its slot or its tag entry? -/
def State.posBad (s : State) (h pos : Nat) : Bool := (s.slot h pos).bad || (s.clsf h).badTags.contains pos

/-- Writes a slot and its tag entry in both copies (R303); the stash has no tags. -/
def State.setBoth (s : State) (pos : Nat) (x : Slot) : State :=
  let tag := if x.st = 0 ∨ clsSlots ≤ pos then 0 else s.clsTag x.key
  (((s.setSlot 0 pos x).setTag 0 pos tag).setSlot 1 pos x).setTag 1 pos tag

/-- What a lookup of one copy comes to: a slot, no entry, or a slot or tag entry that reads uncorrectable. -/
inductive Look where
  | hit (x : Slot) | miss | bad
  deriving DecidableEq, Repr

/-- Goes through the candidate positions: the tag first, then the slot it makes the classifier fetch (R298); the first hit ends it. -/
def State.scan (s : State) (h : Nat) (k : ClsKey) : List Nat → Look
  | [] => .miss
  | pos :: l =>
    if s.tagAt h pos ≠ s.clsTag k then s.scan h k l
    else
      let x := s.slot h pos
      if x.bad then .bad else if x.st ≠ 0 ∧ x.key = k then .hit x else s.scan h k l

/-- A lookup of one copy (R298): a stash entry with the full key ends it without a fetch; else the tag entries of both buckets are read, and one that
reads uncorrectable makes the lookup bad (R304). -/
def State.look (s : State) (h : Nat) (k : ClsKey) : Look :=
  match (s.clsf h).slots.find? fun e => decide (clsSlots ≤ e.1) && e.2.st != 0 && e.2.key == k with
  | some e => .hit e.2
  | none => if (s.candidates k).any fun pos => (s.clsf h).badTags.contains pos then .bad else s.scan h k (s.candidates k)

/-- Entries of one copy, and those in its stash (CLS_STAT). -/
def State.entries (s : State) (h : Nat) : Nat := ((s.clsf h).slots.filter fun e => e.2.st != 0).length
def State.stashed (s : State) (h : Nat) : Nat := ((s.clsf h).slots.filter fun e => decide (clsSlots ≤ e.1) && e.2.st != 0).length

/-- The lowest free position of some. -/
def State.freePos (s : State) (l : List Nat) : Option Nat := l.find? fun pos => (s.slot 0 pos).st == 0

/-- Puts an entry into a bucket of its key: into its lowest free slot; else into a slot that a free value chooses, whose entry is put into its own
other bucket in turn; into the lowest free stash entry after the last displacement (R302). Marks: DESIGN CHOICE safe (log entry 179). -/
def State.place (fuel : Nat) (x : Slot) (b : Nat) (s : State) : State :=
  match s.freePos (bucketPos b) with
  | some pos => s.setBoth pos x
  | none =>
    match fuel with
    | 0 =>
      let n := s.stashed 0
      s.setBoth ((s.freePos ((List.range (n + 1)).map (clsSlots + ·))).getD (clsSlots + n)) x
    | f + 1 =>
      let (v, s1) := s.takeFree
      let pos := 4 * b + v.toNat % 4
      let y := s1.slot 0 pos
      State.place f y (if s1.bucket1 y.key = b then s1.bucket2 y.key else s1.bucket1 y.key) (s1.setBoth pos x)

/-- Inserts an entry in both copies (R302): the first bucket if it has a free slot, else the second, else by at most 500 displacements. -/
def State.insertSlot (s : State) (x : Slot) : State :=
  let b := s.bucket1 x.key
  let s1 := if (s.freePos (bucketPos b)).isNone ∧ (s.freePos (bucketPos (s.bucket2 x.key))).isSome
    then State.place 0 x (s.bucket2 x.key) s else State.place 500 x b s
  let up (t : State) (h : Nat) := if 512 ≤ t.stashed h ∧ t.stashed h ≠ s.stashed h then t.raise T.classifier h I.CLASSIFIER_STASH_HIGH else t
  up (up s1 0) 1

/-- The position of a stream's entry (k even) or second-key entry (k odd), k / 2 being the stream. -/
def State.posOf (s : State) (k : Nat) : Option Nat :=
  ((s.clsf 0).slots.find? fun e => e.2.st != 0 && e.2.stream == k / 2 && e.2.isAlias == (k % 2 == 1)).map (·.1)

/-- Sets the state of the slot at a position of both copies: nothing but the state and the occupied bit is written (R300). -/
def State.posState (s : State) (pos st : Nat) : State :=
  let one (t : State) (h : Nat) := t.setSlot h pos { t.slot h pos with st := st }
  let s1 := one (one s 0) 1
  if st = 0 then (s1.setTag 0 pos 0).setTag 1 pos 0 else s1

/-- Removes an entry (R300). -/
def State.removeSlot (s : State) (k : Nat) : State :=
  match s.posOf k with | some pos => s.posState pos 0 | none => s

/-- Sets the state of a stream's entries in both copies, where it has them. -/
def State.slotState (s : State) (i st : Nat) : State :=
  let one (t : State) (k : Nat) : State := match t.posOf k with | some pos => t.posState pos st | none => t
  one (one s (2 * i)) (2 * i + 1)

/-- What a stream's context says its entry or second-key entry is (R300, R304, R305). -/
def State.slotFromStream (s : State) (k : Nat) : Slot :=
  let x := s.strm (k / 2)
  let own : Bool := x.kind != 3 && (k % 2 == 0 || x.akey.isSome)
  let st := if ¬ own then 0 else match x.st with | .idle => 0 | .bound => 1 | .active => 2 | .draining => 1
  let key : ClsKey := if k % 2 = 1 then x.akey.getD ⟨0, 0, [], 0⟩
    else ⟨leAt x.desc 8 2 % 4096, leAt x.desc 0xC 1, sub x.desc 0x10 16, beAt x.desc 0xA 2 / 2⟩
  { st := st, key := key, polder := x.polder, stream := k / 2, portmode := x.portmode, isAlias := k % 2 == 1 }

/-- A stream's entry or second-key entry made what its context says: written where it stands while its key is the same, moved when the key has
changed, made or removed where it came or went (R300, R314). -/
def State.refreshSlot (s : State) (k : Nat) : State :=
  let x := s.slotFromStream k
  match s.posOf k with
  | some pos => if x.st ≠ 0 ∧ (s.slot 0 pos).key = x.key then s.setBoth pos x else
      let s1 := s.posState pos 0
      if x.st = 0 then s1 else s1.insertSlot x
  | none => if x.st = 0 then s else s.insertSlot x

/-- The entry that belongs at a position by the stream contexts: one of those the two copies name whose key may lie there. -/
def State.slotByContext (s : State) (pos : Nat) : Slot :=
  let mine (x : Slot) : Option Slot :=
    let y := s.slotFromStream (2 * x.stream + (if x.isAlias then 1 else 0))
    if x.st ≠ 0 ∧ y.st ≠ 0 ∧ (clsSlots ≤ pos ∨ (s.candidates y.key).contains pos) then some y else none
  ((mine (s.slot 0 pos)).or (mine (s.slot 1 pos))).getD { s.slot 0 pos with st := 0, bad := false }

/-- CLASSIFIER_SLOT_REWRITE (R304, R305): the Millhouse rewrites a position that reads bad in one copy from the good copy, and one bad or divergent in
both from the stream context. -/
def execClassifierSlotRewrite (pos : Nat) (s : State) : Res :=
  let a := s.posBad 0 pos
  let b := s.posBad 1 pos
  let from' (good : Nat) : State := (s.setSlot (1 - good) pos (s.slot good pos)).setTag (1 - good) pos (s.tagAt good pos)
  .next (if a = true ∧ b = false then from' 1 else if a = false ∧ b = true then from' 0 else s.setBoth pos (s.slotByContext pos))

/-- Do two slots, with their tags, differ in a field that their state uses (R300, R305)? The occupied bits and the tags of occupied slots count as used. -/
def usedDiffer (a b : Slot) (ta tb : Nat) : Bool :=
  a.st != b.st || ta != tb || (a.st != 0 && (a.key != b.key || a.polder != b.polder || a.stream != b.stream))
    || (a.st == 2 && (a.portmode != b.portmode || a.isAlias != b.isAlias))

/-- CLASSIFIER_COMPARE (R305): SCRUB 0 compares a position of the copies, slot and tag; `diff` is what a silent error has put into one of them. A benign
divergence is counted and the Millhouse realigns the slot from the copy that read clean (copy 0 when both did); a major one is counted and
raised, and waits for the rewrite. -/
def execClassifierCompare (pos : Nat) (diff : Option ClsDiff) (clean : Option Nat) (s : State) : Res :=
  let s0 := match diff with
    | some d => (s.setSlot (d.copy % 2) pos d.slot).setTag (d.copy % 2) pos d.tag
    | none => s
  if ¬ s0.fbit F.SCRUB_CTRL_CMP_EN 0 ∨ s0.posBad 0 pos ∨ s0.posBad 1 pos then .next s0
  else
    let a := s0.slot 0 pos
    let b := s0.slot 1 pos
    if usedDiffer a b (s0.tagAt 0 pos) (s0.tagAt 1 pos) then
      let up (t : State) (h : Nat) := (t.finc F.CLS_DIVERGE_MAJOR h).raise T.classifier h I.CLASSIFIER_DIVERGE_MAJOR
      .next (((up (up s0 0) 1).rasLog 0x23 1 T.classifier 0 pos).emit (.fault T.classifier 0))
    else if a ≠ b then
      let s1 := (s0.finc F.CLS_DIVERGE_BENIGN 0).finc F.CLS_DIVERGE_BENIGN 1
      .next ((s1.setSlot 0 pos (s1.slot (clean.getD 0 % 2) pos)).setSlot 1 pos (s1.slot (clean.getD 0 % 2) pos))
    else .next s0

/-! ## SRTP (R317 to R320) -/

/-- Key, salt and tag bytes of a suite (R317); the SRTCP tag of suites 2 and 4 is 10. -/
def suiteKey (x : Nat) : Nat := if x = 3 ∨ x = 4 ∨ x = 6 then 32 else 16
def suiteSalt (x : Nat) : Nat := if x = 5 ∨ x = 6 then 12 else 14
def suiteTag (x : Nat) (rtcp : Bool) : Nat := if x = 5 ∨ x = 6 then 16 else if (x = 2 ∨ x = 4) ∧ ¬ rtcp then 4 else 10

/-- Is the suite one that protects? -/
def protects (x : Nat) : Bool := x != 0 && x != 7

/-- Key and salt bytes of a direction, as the cryptographic functions take them. -/
def keyArgs (x : Stream) (tx : Bool) : List Nat :=
  let su := if tx then x.txSuite else x.rxSuite
  su :: ((sub x.desc (if tx then 0xC0 else 0x90) (suiteKey su)) ++ (sub x.desc (if tx then 0xE0 else 0xB0) (suiteSalt su))).map (·.toNat)

/-- The MKI of a direction as it stands in a packet. -/
def mkiOf (x : Stream) (tx : Bool) : List Byte := beBytes x.mkiLen (leAt x.desc (if tx then 0x88 else 0x84) 4)

/-- n bytes of a cryptographic function of a stream's key, an index and the bytes it covers. -/
def cryptBytes (x : Stream) (tx : Bool) (fn index n : Nat) (covered : List Byte) : List Byte :=
  (List.range n).map (Config.crypt (fn :: index :: (keyArgs x tx ++ covered.map (·.toNat))))

/-- A protected packet (R317): the clear header, the encrypted rest, the MKI and the tag in the suite's order. -/
def protect (x : Stream) (index : Nat) (rtcp : Bool) (hdr body : List Byte) : List Byte :=
  let su := x.txSuite
  if ¬ protects su then hdr ++ body
  else
    let enc := cryptBytes x true 1 index body.length (hdr ++ body)
    let tag := cryptBytes x true 2 index (suiteTag su rtcp) (hdr ++ body)
    let idx := if rtcp then beBytes 4 (2 ^ 31 + index % 2 ^ 31) else []
    if su = 5 ∨ su = 6 then hdr ++ enc ++ tag ++ idx ++ mkiOf x true
    else hdr ++ enc ++ idx ++ mkiOf x true ++ tag

/-- A received protected packet, without its header: the encrypted part, the MKI and tag check, and the SRTCP index word. -/
structure Opened where
  ok : Bool
  body : List Byte
  index : Nat
  enc : Bool

/-- Authentication and decryption (R316, R319): MKI and tag are checked; `index` is the estimated index of an RTP packet. -/
def openPkt (x : Stream) (index : Nat) (rtcp : Bool) (hdr rest : List Byte) : Opened :=
  let su := x.rxSuite
  if ¬ protects su then ⟨true, rest, index, false⟩
  else
    let t := suiteTag su rtcp
    let gcm := su == 5 || su == 6
    let extra := t + x.mkiLen + (if rtcp then 4 else 0)
    let n := rest.length - extra
    let word := if rtcp then beAt rest (if gcm then n + t else n) 4 else 0
    let idx := if rtcp then word % 2 ^ 31 else index
    let mki := sub rest (if gcm then n + t + (if rtcp then 4 else 0) else n + (if rtcp then 4 else 0)) x.mkiLen
    let e := !rtcp || decide (2 ^ 31 ≤ word)
    let okTag := Config.verify (idx :: (keyArgs x false ++ (hdr ++ rest).map (·.toNat)))
    let body := rest.take n
    ⟨decide (extra ≤ rest.length) && (mki == mkiOf x false) && okTag,
     if e then cryptBytes x false 3 idx n (hdr ++ body) else body, idx, e⟩

/-- The receive index of a sequence number (RFC 3711 section 3.3.1, R318): 48 bits, the rollover count of 32 bits guessed one below, at or one above the
highest index's. -/
def estimateIndex (r : Replay) (seq : Nat) : Nat :=
  match r.top with
  | none => seq
  | some top =>
    let roc := top / 65536
    let sl := top % 65536
    let v := if sl < 32768 then (if sl + 32768 < seq then roc + 2 ^ 32 - 1 else roc) else (if seq + 32768 < sl then roc + 1 else roc)
    v % 2 ^ 32 * 65536 + seq

/-- How far an index of 48 bits lies below the highest one, where it does not lie above it. -/
def idxBelow (top i : Nat) : Option Nat :=
  let d := (top + 2 ^ 48 - i) % 2 ^ 48
  if d < 2 ^ 47 then some d else none

/-- Is an index already in the window, or more than 127 below the highest (R318)? -/
def Replay.refuses (r : Replay) (i : Nat) : Bool :=
  match r.top with
  | none => false
  | some top => (match idxBelow top i with | some d => decide (127 < d) | none => false) || r.got.contains i

/-- The window after an accepted index: the highest index moves up only. -/
def Replay.accept (r : Replay) (i : Nat) : Replay :=
  let top := match r.top with | none => i | some t => (if (idxBelow t i).isSome then t else i)
  ⟨some top, (i :: r.got).filter fun j => match idxBelow top j with | some d => decide (d ≤ 127) | none => false⟩

/-! ## Building frames (R324, R325) -/

/-- The Ethernet, IP and UDP frame of a stream around a UDP payload, sent to a destination port. -/
def State.buildFrame (s : State) (x : Stream) (dport : Nat) (payload : List Byte) : State × List Byte :=
  let d := x.desc
  let port := leAt d 0x40 1
  let srcMac := beBytes 2 (s.fget F.MAC_ADDR_HI_OCTETS0_1 port) ++ beBytes 4 (s.fget F.MAC_ADDR_LO_OCTETS2_5 port)
  let ov := leAt d 0x4A 2
  let tag := if bitAt ov 15 then beBytes 2 0x8100 ++ beBytes 2 (bitField ov 12 3 * 8192 + ov % 4096) else []
  let v4 := leAt d 0x76 1 == 4
  let len := payload.length + 8
  let sa := sub d 0x50 (if v4 then 4 else 16)
  let da := sub d 0x60 (if v4 then 4 else 16)
  let uh0 := sub d 0x4C 2 ++ beBytes 2 dport ++ beBytes 2 len
  let ck0 := csum (sum16 sa + sum16 da + 17 + len + sum16 (uh0 ++ beBytes 2 0 ++ payload))
  let udp := uh0 ++ beBytes 2 (if ck0 = 0 then 65535 else ck0) ++ payload
  let id := Tab.get (fun _ => 0) s.ipId port
  let dscp := leAt d 0x42 1
  let hops := leAt d 0x43 1
  let h4 := beBytes 2 (0x4500 + dscp * 4) ++ beBytes 2 (len + 20) ++ beBytes 2 id ++ beBytes 2 0x4000 ++ beBytes 1 hops ++ beBytes 1 17
  let ip := if v4 then h4 ++ beBytes 2 (csum (sum16 (h4 ++ beBytes 2 0 ++ sa ++ da))) ++ sa ++ da
    else beBytes 4 (6 * 2 ^ 28 + dscp * 4 * 2 ^ 20) ++ beBytes 2 len ++ beBytes 1 17 ++ beBytes 1 hops ++ sa ++ da
  let s1 : State := if v4 then { s with ipId := Tab.set (fun _ => 0) s.ipId port ((id + 1) % 65536) } else s
  (s1, sub d 0x44 6 ++ srcMac ++ tag ++ beBytes 2 (if v4 then 0x0800 else 0x86DD) ++ ip ++ udp)

/-- A packet of a stream whose context reads uncorrectable (R350): it is counted as poisoned, received or to be sent, and the polder is told. Marks: DEDUCED unsafe (log entry 378). -/
def State.ctxPoisoned (s : State) (half i : Nat) : State :=
  let x := s.strm i
  (((((s.upStrm i fun y => { y with poison := true }).spill C.SPILL_POISON x.polder).scnt i 13).streamErr half 4 i).raise T.stream half
    I.STREAM_CTX_POISON).streamNotice half i 5

/-- Appends a frame of a stream to its tailrace queue (R324), staged by a work unit or visible at once, with its release time (R470), or the deadline
turn whose boundary will give it (R164); answers whether it was appended (R334). An engine that does not run (R350) appends none: the frame is counted as
one that its queue cannot take; a poisoned context sends none. Marks: DESIGN CHOICE unsafe (log entry 33), DEDUCED unsafe (log entry 378). -/
def State.trySend (s : State) (half i dport : Nat) (payload : List Byte) (by' : Option Nat) (rel : Nat) (dep : Option Nat := none) : State × Bool :=
  let x := s.strm i
  if ¬ s.fbit F.STREAM_CTRL_EN half then (s.spill C.SPILL_QFULL x.polder, false)
  else if x.poison then (s.ctxPoisoned half i, false)
  else
  let r := s.buildFrame x dport payload
  let q := r.1.qAppend (qTail (leAt x.desc 0x40 1) x.polder (leAt x.desc 0x41 1)) half
    { id := 0, stream := i, data := r.2, release := rel, dep := dep } by'
  (if q.2 then q.1.cinc C.STREAM_TX half else q.1, q.2)

/-- The length of the header of an RTP packet, with CSRCs and extension, or none where the packet does not hold it (R316). -/
def rtpHdrLen (p : List Byte) : Option Nat :=
  let b0 := leAt p 0 1
  let n := 12 + 4 * (b0 % 16)
  let ext := if bitAt b0 4 then 4 + 4 * beAt p (n + 2) 2 else 0
  if b0 / 64 = 2 ∧ n + (if bitAt b0 4 then 4 else 0) ≤ p.length ∧ n + ext ≤ p.length then some (n + ext) else none

/-- A relayed RTP packet (R323 to R325): the header kept but for SSRC under REWRITE_SSRC, protected under TX_SUITE. -/
def State.relayRtp (s : State) (half i index : Nat) (raw hdr body : List Byte) (rel : Nat) : State :=
  let x := s.strm i
  let hdr' := if bitAt x.txflags 0 then hdr.take 8 ++ beBytes 4 (leAt x.desc 0x70 4) ++ hdr.drop 12 else hdr
  let out := if x.txSuite = 7 then raw else protect x index false hdr' body
  let r := s.trySend half i (beAt x.desc 0x4E 2) out none rel
  if r.2 then (r.1.scnt i 2).scnt i 3 body.length else r.1

/-! ## The jitter buffer (R230 to R237) -/

/-- The record of a channel. -/
def State.chan (s : State) (c : Nat) : Chan := Tab.get (fun _ => ({} : Chan)) s.sch.chans c

/-- Sets the record of a channel. -/
def State.setChan (s : State) (c : Nat) (x : Chan) : State :=
  { s with sch := { s.sch with chans := Tab.set (fun _ => ({} : Chan)) s.sch.chans c x } }

/-- A class of no owner that is due never. -/
def noClass (_ : Nat) : Klass :=
  { owner := .chan 0, pos := 0, cost := 0, period := 5, w := 0, io := 0, stone := 0, polder := 0 }

/-- The record of a class. -/
def State.klass (s : State) (k : Nat) : Klass := Tab.get noClass s.sch.classes k

/-- TYPE of a channel's parameter block. -/
def Chan.typ (c : Chan) : Nat := leAt c.params 0 1

/-- The side of a channel a stream is received on: 0 (A) for STREAM_AB, 1 (B) for STREAM_BA. -/
def Chan.sideOf (c : Chan) (i : Nat) : Nat := if leAt c.params 4 4 = i then 0 else 1

/-- The RTP clock of a clock code in Hz (R516). -/
def clockHz (code : Nat) : Nat := [8000, 12000, 16000, 24000, 32000, 48000].getD code 8000

/-- The record of a customer type. -/
def State.ctype (s : State) (p code : Nat) : CType := Tab.get (fun _ => ⟨[], 0, 0, 0, 0, 0⟩) s.sch.types (256 * p + code)

/-- The RTP clock of a side and the position of the class that consumes the stream received on it (R210, R226, R230, R633). -/
def State.sideClock (s : State) (c : Chan) (side : Nat) : Nat × Nat :=
  match c.typ with
  | 1 => (8000, 0)
  | 2 => (8000, 0)
  | 3 => (8000, side)
  | 4 => if side = 0 then (16000, 0) else (8000, 1)
  | 5 => if side = 0 then (48000, 0) else (8000, 3)
  | 6 => if side = 0 then (16000, 0) else (16000, 3)
  | t => let y := s.ctype c.polder t; if side = 0 then (clockHz y.clockA, y.consAB) else (clockHz y.clockB, y.consBA)

/-- What the jitter-buffer rules need of a stream's channel: K, the period in ms, n_next, the cut of n_next, and the JB word. -/
structure JbView where
  k : Nat
  p : Nat
  next : Nat
  cut : Nat
  word : Nat

/-- The record of a Miller. -/
def State.miller (s : State) (h : Nat) : Miller := Tab.get (fun _ => ({} : Miller)) s.sch.miller h

/-- The next turn after the running one in which a class is released. -/
def nextRelease (turn period phase : Nat) : Nat :=
  let p := max period 1
  turn + 1 + (phase + p - (turn + 1) % p) % p

/-- The view of the side a stream is received on (R230). -/
def State.jbView (s : State) (c : Chan) (side : Nat) : JbView :=
  let (hz, pos) := s.sideClock c side
  let kk := c.classes.getD pos 0
  let kl := s.klass kk
  let h := kk / 65536
  let rel := nextRelease (s.turn h) kl.period kl.phase
  let b := (s.miller h).lastB + (rel - s.turn h) * 1000000 * unitNs
  { k := hz * kl.period / 1000, p := kl.period, next := kl.count + 1, cut := b - 8000 * unitNs,
    word := leAt c.params (0x20 + 4 * side) 4 }

/-- The slot of a timestamp (R230). -/
def JbView.slot (v : JbView) (o ts : Nat) : Int :=
  let delta := signedOf 32 (toBits 32 (Int.ofNat ts - Int.ofNat o - Int.ofNat (v.next * v.k)))
  Int.ofNat v.next + delta.fdiv (Int.ofNat (max v.k 1))

/-- D in ms (R236): the target that the kernel last committed, D_INIT until then and while FIXED is set. In voiceband data mode the delay is frozen, at the
one in force. -/
def JbView.playout (v : JbView) (target : Option Nat) : Nat :=
  let dInit := bitField v.word 8 8 * 5
  if bitAt v.word 31 then dInit else target.getD dInit

/-- The playout offset that a packet sets (R236): its slot has the first cut at or after its stamp plus D. -/
def JbView.setO (v : JbView) (d stamp ts : Nat) : Nat :=
  let len := Int.ofNat (max v.p 1 * 1000000 * unitNs)
  let gap := Int.ofNat (stamp + d * 1000000 * unitNs) - Int.ofNat v.cut
  let n := Int.ofNat v.next - (-gap).fdiv len
  toBits 32 (Int.ofNat ts - n * Int.ofNat v.k)

/-- Outcome of judging a packet: buffered, late or overflow. -/
inductive Judged where
  | placed | late | overflow
  deriving DecidableEq

/-- Judges a packet by its slot and stamp and places it (R231, R232), in cells of the HBM stack its channel's contexts lie in (R33). -/
def State.jbPlace (s : State) (i : Nat) (v : JbView) (k : JPkt) : State × Judged :=
  let x := s.strm i
  let slot := v.slot (x.o.getD 0) k.ts
  let used := x.buf.foldl (fun n q => n + q.cells) 0
  let p := x.polder
  if slot < Int.ofNat v.next ∨ (slot = Int.ofNat v.next ∧ v.cut ≤ k.stamp) then (s.scnt i 8, .late)
  else if Int.ofNat (bitField v.word 16 8 * 5) ≤ (slot - Int.ofNat v.next) * Int.ofNat v.p
      ∨ bitField v.word 24 7 * 8 < used + k.cells then (s.scnt i 9, .overflow)
  else if s.fget F.QUEUE_JBQUOTA_CELLS 0 p < s.jbUsed p + k.cells then
    ((s.scnt i 9).raise T.queue 0 I.QUEUE_POOL_EMPTY, .overflow)
  else ((s.upStrm i fun y => { y with buf := y.buf ++ [k] }).setJbUsed p (s.jbUsed p + k.cells), .placed)

/-- A packet accepted into the buffer or on probation is counted (R315, R349). -/
def State.rxAccept (s : State) (half i len : Nat) : State := ((s.scnt i 0).scnt i 1 len).cinc C.STREAM_RX half

/-- The first sequence number above h, of 32 bits, that ends in s. -/
def aboveSeq (h s : Nat) : Nat := (h + 1 + (s + 65536 - (h + 1) % 65536) % 65536) % 2 ^ 32

/-- The RFC 3550 interarrival jitter and cumulative loss after a packet of the stream's source, late ones and duplicates among them (R315, words 14 and
15). -/
def State.rtpStats (s : State) (i hz : Nat) (k : JPkt) : State :=
  s.upStrm i fun x =>
    let arr := k.stamp * hz / unitSec
    let tr := signedOf 32 (toBits 32 (Int.ofNat arr - Int.ofNat k.ts))
    let d := match x.transit with | none => 0 | some t => (signedOf 32 (toBits 32 (tr - t))).natAbs
    let j := if x.transit = none then x.jit16 else x.jit16 + d - (x.jit16 + 8) / 16
    let n := x.accepted + 1
    let x1 := { x with transit := some tr, devs := (tr :: x.devs).take 200, jit16 := j, accepted := n }
    (x1.setCnt 14 (j / 16)).setCnt 15 (toBits 32 (Int.ofNat (x.h.getD 0 + 1) - Int.ofNat x.h0 - Int.ofNat n))

/-- An RTP packet meets the jitter buffer of its side (R234 to R236). -/
def State.jbArrive (s : State) (half i : Nat) (c : Chan) (seq : Nat) (k : JPkt) : State :=
  let side := c.sideOf i
  let v := s.jbView c side
  let hz := (s.sideClock c side).1
  let x := s.strm i
  let frozen := c.vbd.getD side false && x.o.isSome
  let setO (t : State) := t.upStrm i fun y =>
    let d := if frozen then y.delay else v.playout y.target
    { y with o := some (v.setO d k.stamp k.ts), oSets := y.oSets + 1, delay := d }
  let len := k.payload.length
  let done (t : State) := t.upStrm i fun y => { y with lastStamp := some k.stamp }
  let place (t : State) (e : Nat) :=
    let r := t.jbPlace i v { k with seq := e }
    (if r.2 = .placed then r.1.rxAccept half i len else r.1).rtpStats i hz k
  let twice (t : State) := (t.scnt i 8).rtpStats i hz k
  let spurt := k.marker || (match x.lastStamp with | none => true | some t => decide (t + 60000000 * unitNs ≤ k.stamp))
  let judge (t : State) : State :=
    match (t.strm i).h with
    | none => place (setO (t.upStrm i fun y => { y with h := some seq, h0 := seq })) seq
    | some h =>
      let d := (seq + 65536 - h % 65536) % 65536
      if d = 0 then twice t
      else if d < 3000 then
        let e := (h + d) % 2 ^ 32
        let t1 := t.upStrm i fun y => { y with h := some e }
        place (if spurt ∨ x.o = none then setO t1 else t1) e
      else if 65436 ≤ d then
        let e := (h + 2 ^ 32 - (65536 - d)) % 2 ^ 32
        if x.buf.any (fun q => q.seq == e) ∨ x.consumed.contains e then twice t
        else place (if spurt ∨ x.o = none then setO t else t) e
      else (t.upStrm i fun y => { y with probation := some { k with seq := seq } }).rxAccept half i len
  match x.probation with
  | none => done (judge s)
  | some q =>
    let s1 := s.upStrm i fun y => { y with probation := none }
    if seq = (q.seq + 1) % 65536 then
      let h := aboveSeq (x.h.getD 0) seq
      let s2 := setO (s1.upStrm i fun y => { y with h := some h })
      let s3 := (s2.jbPlace i v { q with seq := (h + 2 ^ 32 - 1) % 2 ^ 32 }).1.rtpStats i hz q
      done (place s3 h)
    else done (judge (s1.scnt i 8))

/-! ## RTCP (R321 to R323) -/

/-- The report blocks of an SR or RR, each 24 bytes. -/
def reportBlocks (n : Nat) (p : List Byte) : List (List Byte) := (List.range n).map fun j => sub p (24 * j) 24

/-- Goes through the packets of a compound RTCP packet: report blocks update the stream's figures, an SR is noted for the RR blocks sent, BYE is
noted. -/
def rtcpWalk (fuel : Nat) (stamp : Nat) (p : List Byte) (x : Stream) : Stream × Bool :=
  match fuel with
  | 0 => (x, false)
  | n + 1 =>
    if p.length < 4 then (x, false)
    else
      let pt := leAt p 1 1
      let len := 4 * (beAt p 2 2 + 1)
      let blocks := if pt = 200 then reportBlocks (leAt p 0 1 % 32) (p.drop 28)
        else if pt = 201 then reportBlocks (leAt p 0 1 % 32) (p.drop 8) else []
      let mid := stamp / unitSec % 65536 * 65536 + stamp % unitSec * 65536 / unitSec
      let x1 := blocks.foldl (fun (y : Stream) b =>
        let lsr := beAt b 16 4
        { y with remFrac := beAt b 4 1, remLost := beAt b 5 3, remJitter := beAt b 12 4, rtt := if lsr = 0 then y.rtt else toBits 32 (Int.ofNat mid - Int.ofNat lsr - Int.ofNat (beAt b 20 4)) }) x
      let x2 := if pt = 200 then { x1 with lsr := some (beAt p 10 4, stamp) } else x1
      let r := rtcpWalk n stamp (p.drop len) x2
      (r.1, r.2 || pt == 203)

/-- The SRTCP transmit index moves on, with the warnings of R320; answers whether a packet may still be sent. -/
def State.takeRtcpIndex (s : State) (half i : Nat) : State × Bool :=
  let x := s.strm i
  if ¬ protects x.txSuite then (s, true)
  else
    let s1 := if 2 ^ 31 - 2 ^ 16 ≤ x.rtcpTx ∧ ¬ x.expiring then
      ((s.upStrm i fun y => { y with expiring := true }).streamNotice half i 2).raise T.stream half I.STREAM_KEY_EXPIRING else s
    if 2 ^ 31 - 1 ≤ x.rtcpTx then
      (if x.exhausted then s1 else
        (((s1.upStrm i fun y => { y with exhausted := true }).streamNotice half i 3).streamErr half 3 i).raise T.stream half
          I.STREAM_KEY_EXHAUSTED, false)
    else (s1.upStrm i fun y => { y with rtcpTx := y.rtcpTx + 1 }, true)

/-- The port RTCP is sent to (R323). -/
def rtcpPort (x : Stream) : Nat := beAt x.desc 0x4E 2 + (if x.portmode = 1 then 1 else 0)

/-- Sends an RTCP packet of a stream (R322, R323), counted when it is appended. -/
def State.sendRtcpFrame (s : State) (half i : Nat) (payload : List Byte) (rel : Nat) : State :=
  let r := s.trySend half i (rtcpPort (s.strm i)) payload none rel
  if r.2 then r.1.scnt i 11 else r.1

/-- Received RTCP that has passed R316 (R321); under PASS it is not read, only forwarded (R317). Marks: DEDUCED unsafe (log entry 181). -/
def State.rtcpIn (s : State) (half i : Nat) (f : RxFrame) (raw plain : List Byte) : State :=
  let r := if (s.strm i).rxSuite = 7 then (s.strm i, false) else rtcpWalk plain.length f.stamp plain (s.strm i)
  let s1 := ((s.setStrm i r.1).scnt i 10).cinc C.STREAM_RX half
  let s2 := if r.2 then s1.streamNotice half i 4 else s1
  let s3 := if bitAt r.1.txflags 2
    then (s2.qAppend (qHost r.1.polder 1) half { id := 0, stream := i, data := plain.take 1664 } none).1 else s2
  if r.1.kind ≠ 0 then s3
  else if r.1.txSuite = 7 then s3.sendRtcpFrame half i raw (s.relayRelease f)
  else
    let k := s3.takeRtcpIndex half i
    if ¬ k.2 then k.1.streamExc half i 0x0D f
    else k.1.sendRtcpFrame half i (protect (k.1.strm i) r.1.rtcpTx true (plain.take 8) (plain.drop 8)) (s.relayRelease f)

/-! ## Ingress of a stream (R316) -/

/-- The highest extended sequence number of a relay stream after a packet (R315). Marks: PRESUMED safe (log entry 363). -/
def State.relaySeen (s : State) (i seq : Nat) : State :=
  s.upStrm i fun x =>
    let d := (seq + 65536 - x.h.getD seq % 65536) % 65536
    { x with h := some (if d < 32768 then (x.h.getD seq + d) % 2 ^ 32 else x.h.getD seq), h0 := if x.h = none then seq else x.h0 }

/-- Step 1: the source against SRCCHK. Marks: DEDUCED unsafe (log entry 181). -/
def srcOk (x : Stream) (q : Parsed) (rtcp : Bool) : Bool :=
  let adj := if rtcp ∧ x.portmode = 1 then 1 else 0
  match x.srcchk with
  | 1 => q.src == sub x.desc 0x20 16 && q.sport == beAt x.desc 0x30 2 + adj
  | 2 => match x.latchAddr with | none => true | some a => q.src == a && q.sport == x.latchPort + adj
  | _ => true

/-- Step 6 for RTP: the SSRC against SSRCMODE. -/
def ssrcOk (x : Stream) (ssrc : Nat) : Bool :=
  match x.ssrcmode with
  | 1 => match x.ssrc with | none => true | some v => v == ssrc
  | 2 => leAt x.desc 0x38 4 == ssrc
  | _ => true

/-- A matched frame of an ACTIVE stream passes the steps of R316 after its weirs; under PASS it is forwarded unchecked (R317). The index is tracked under
every suite (R316, R318, R320). RTCP's SSRC is checked and not latched. Marks: DEDUCED unsafe (log entry 180), DESIGN CHOICE safe (log entry 377). -/
def State.ingress (s : State) (half i : Nat) (rtcp : Bool) (f : RxFrame) (q : Parsed) : State :=
  let x := s.strm i
  let p := q.payload
  let hl := if rtcp then min 8 p.length else (rtpHdrLen p).getD (min 12 p.length)
  let hdr := p.take hl
  let rest := p.drop hl
  let seq := beAt p 2 2
  let win := if rtcp then x.rtcp else x.rtp
  let op := openPkt x (estimateIndex win seq) rtcp hdr rest
  let pass := x.rxSuite == 7
  if ¬ op.ok then
    ((s.scnt i 4).finc F.STREAM_AUTH_AUTH_FAIL half).streamErr half 1 i
  else if protects x.rxSuite ∧ win.refuses op.index then
    ((s.scnt i 5).finc F.STREAM_AUTH_REPLAY half).streamErr half 2 i
  else
    let s1 := s.upStrm i fun y =>
      if rtcp then (if protects x.rxSuite then { y with rtcp := y.rtcp.accept op.index } else y) else { y with rtp := y.rtp.accept op.index }
    let adj := if rtcp ∧ x.portmode = 1 then 1 else 0
    let s2 := if x.srcchk = 2 ∧ x.latchAddr = none
      then s1.upStrm i fun y => { y with latchAddr := some q.src, latchPort := q.sport - adj } else s1
    if rtcp then
      if ¬ pass ∧ (leAt p 0 1 / 64 ≠ 2 ∨ p.length < 8) then s2.streamExc half i 0x0B f
      else if ¬ pass ∧ ¬ ssrcOk x (beAt p 4 4) then s2.streamExc half i 0x0A f
      else s2.rtcpIn half i f p (hdr ++ op.body)
    else
      let padded := !pass && bitAt (leAt p 0 1) 5
      let pad := if padded then (op.body.getLast?.map (·.toNat)).getD 0 else 0
      let ssrc := beAt p 8 4
      if ¬ pass ∧ (rtpHdrLen p = none ∨ op.body.length < pad ∨ (padded ∧ pad = 0)) then s2.streamExc half i 0x0B f
      else if ¬ pass ∧ ¬ ssrcOk x ssrc then s2.streamExc half i 0x0A f
      else
        let changed := ¬ pass ∧ x.ssrcmode = 0 ∧ x.ssrc.isSome ∧ x.ssrc ≠ some ssrc
        let s3 := s2.upStrm i fun y => { y with ssrc := if pass then y.ssrc else some ssrc }
        let s4 := if changed then (s3.scnt i 12).streamNotice half i 1 else s3
        let body := op.body.take (op.body.length - pad)
        let c := s4.chan (x.chan.getD 0)
        let k : JPkt := { seq := seq, ts := beAt p 4 4, pt := leAt p 1 1 % 128, marker := decide (128 ≤ leAt p 1 1), stamp := f.stamp, payload := body, cells := ceilDiv (body.length + 16) 240, half := c.stone / 640 }
        if x.kind = 0 then
          (((s4.rxAccept half i body.length).relaySeen i seq).rtpStats i (Config.relayClock k.pt) k).relayRtp half i op.index p hdr op.body (s.relayRelease f)
        else
          if x.chan = none ∨ c.st ≠ .active then s4.scnt i 8 else s4.jbArrive half i c seq k

/-- What R301 makes of a matched frame: RTP, RTCP, NON_RTP or no match. -/
inductive Match where
  | rtp | rtcp | nonRtp | none
  deriving DecidableEq

/-- R301. -/
def matchOf (portmode dport : Nat) (payload : List Byte) : Match :=
  let b0 := leAt payload 0 1
  if b0 < 128 ∨ 191 < b0 then .nonRtp
  else if dport % 2 = 1 then (if portmode = 1 then .rtcp else .none)
  else if portmode = 2 ∧ 192 ≤ leAt payload 1 1 ∧ leAt payload 1 1 ≤ 223 then .rtcp
  else .rtp

/-- A frame whose key an ACTIVE slot holds. While the engine does not run (STREAM_CTRL.EN 0) a frame for it waits at the head of the classifier's queue. Marks:
DESIGN CHOICE unsafe (log entry 33). -/
def State.deliver (s : State) (h i portmode : Nat) (ctxBad : Bool) (f : RxFrame) (q : Parsed) (p : Nat) : State :=
  let m := matchOf portmode q.dport q.payload
  let x := s.strm i
  match m with
  | .none => s.exception h p 1 0 f
  | _ =>
    if ¬ s.fbit F.STREAM_CTRL_EN h then s.setCls h { s.clsf h with waiting := f :: (s.clsf h).waiting }
    else if m ≠ .nonRtp ∧ ¬ srcOk x q (m == .rtcp) then s.streamExc h i 9 f
    else
      let w := s.weirs h i (f.data.length + 4) f.stamp
      if ¬ w.2 then w.1
      else if m = .nonRtp then w.1.streamExc h i 8 f
      else if ctxBad ∨ x.poison then w.1.ctxPoisoned h i
      else w.1.ingress h i (m == .rtcp) f q

/-- What a modify replaces (R314, R319), as a stream holds it. -/
def Stream.gen (x : Stream) : StreamGen := ⟨x.desc, x.rtcp, x.rtcpTx, x.expiring, x.exhausted⟩

/-- A stream under a descriptor, its SRTCP window and index. -/
def Stream.under (x : Stream) (g : StreamGen) : Stream :=
  { x with desc := g.desc, rtcp := g.rtcp, rtcpTx := g.rtcpTx, expiring := g.expiring, exhausted := g.exhausted }

/-- Does a new descriptor rekey the stream (R319): a suite, key, salt or MKI differs that its KIND uses (R632)? -/
def rekeys (a b : List Byte) : Bool :=
  let ne (o n : Nat) := sub a o n != sub b o n
  ne 0x82 1 || (leAt b 4 1 != 3 && (ne 0x80 1 || ne 0x84 4 || ne 0x90 0x30)) || (leAt b 4 1 != 2 && (ne 0x81 1 || ne 0x88 4 || ne 0xC0 0x30))

/-- A stream's descriptor, SRTCP window and index after a modify: a rekey starts the window and the index anew (R319). -/
def Stream.rekeyed (x : Stream) (d : List Byte) : StreamGen :=
  if rekeys x.desc d then ⟨d, {}, 0, false, false⟩ else { x.gen with desc := d }

/-- The last descriptor of a stream that is due at a packet's stamp and that the Miller has not yet applied (R314, R416). -/
def State.descDue (s : State) (i stamp : Nat) : Option (List Byte) :=
  let ahead := ((s.miller 0).marks.filter fun m => decide (m.2 ≤ stamp)).length
  (s.sch.fx.filterMap fun e => match e.2 with
    | .streamDesc j d => if j = i ∧ e.1 ≤ s.turn + ahead then some d else none
    | _ => none).getLast?

/-- Handles a received packet under the descriptor, the SRTCP window and the index that its ingress time-stamp selects (R314, R319): the old ones before a
modify's boundary, and the new ones from the boundary on, also where the Miller has not yet taken the boundary's mark. Marks: DEDUCED safe (log
entry 289). Marks: DEDUCED safe (log entry 289). -/
def State.byStamp (s : State) (i stamp : Nat) (g : State → State) : State :=
  let x := s.strm i
  match x.prev.filter fun e => decide (stamp < e.1), s.descDue i stamp with
  | some (t, o), _ =>
    let r := g (s.upStrm i fun y => y.under o)
    r.upStrm i fun y => { y.under x.gen with prev := some (t, y.gen) }
  | none, some d =>
    let n := (x.next.filter fun e => e.desc == d).getD (x.rekeyed d)
    let r := g (s.upStrm i fun y => y.under n)
    r.upStrm i fun y => { y.under x.gen with next := some y.gen }
  | none, none => g s

/-- A modify takes effect (R314): the stream goes on with what packets stamped at or after the boundary have already begun. Marks: DEDUCED safe (log entry 289). -/
def Stream.modified (x : Stream) (t : Nat) (d : List Byte) : Stream :=
  { x.under ((x.next.filter fun e => e.desc == d).getD (x.rekeyed d)) with prev := some (t, x.gen), next := x.next.filter fun e => e.desc != d, akey := if leAt d 4 1 = 3 then none else x.akey }

/-! ## Bulk receive (R375) -/

/-- What a frame of the form of R293, with TCP or UDP, is to a bulk rule: the protocol (0 UDP, 1 TCP), the destination port, and whether its
checksums hold. -/
def bulkForm (d : List Byte) : Option (Nat × Nat × Bool) :=
  let tagged := beAt d 12 2 == 0x8100
  let et := beAt d (if tagged then 16 else 12) 2
  let ip := d.drop (if tagged then 18 else 14)
  let look (pr : Nat) (src dst l4 : List Byte) (v4 hdrOk : Bool) : Option (Nat × Nat × Bool) :=
    if pr = 17 then (if l4.length < 8 then none else some (0, beAt l4 2 2, hdrOk && udpOk src dst l4 v4))
    else if pr = 6 then
      (if l4.length < 20 then none
       else some (1, beAt l4 2 2, hdrOk && fold16 (sum16 src + sum16 dst + 6 + l4.length + sum16 l4) == 65535))
    else none
  if et = 0x0800 ∧ leAt ip 0 1 = 0x45 ∧ beAt ip 6 2 % 0x4000 = 0 then
    look (leAt ip 9 1) (sub ip 12 4) (sub ip 16 4) ((ip.take (beAt ip 2 2)).drop 20) true (fold16 (sum16 (ip.take 20)) == 65535)
  else if et = 0x86DD ∧ leAt ip 0 1 / 16 = 6 then
    look (leAt ip 6 1) (sub ip 8 16) (sub ip 24 16) ((ip.drop 40).take (beAt ip 4 2)) false true
  else none

/-- The lowest enabled MAC_BULK_RULE of the port that a frame matches, and whether its checksums hold. -/
def State.bulkRule (s : State) (f : RxFrame) : Option (Nat × Bool) :=
  match bulkForm f.data with
  | none => none
  | some (pr, dport, ok) =>
    ((List.range 4).find? fun j =>
      s.fbit F.MAC_BULK_RULE_EN f.port j && s.fget F.MAC_BULK_RULE_PROTO f.port j == pr && s.fget F.MAC_BULK_RULE_DPORT f.port j == dport).map
        fun j => (j, ok)

/-- The polder weir alone (R307). -/
def State.polderWeir (s : State) (h p len stamp : Nat) : State × Bool :=
  let c := s.clsf h
  let pk := (Tab.get fullBucket c.pkts p).refill (s.fget F.CLS_PW_PPS_PPS h p) (s.fget F.CLS_PW_PBURST_BURST h p) stamp
  let by' := (Tab.get fullBucket c.bytes p).refill (s.fget F.CLS_PW_MBPS_MBPS h p * 125000)
    (s.fget F.CLS_PW_KBURST_KBURST h p * 1024) stamp
  let ok := pk.holds 1 && by'.holds len
  let s1 := s.setCls h { c with pkts := Tab.set fullBucket c.pkts p (if ok then pk.pay 1 else pk), bytes := Tab.set fullBucket c.bytes p (if ok then by'.pay len else by') }
  if ok then (s1, true) else (s1.spill C.SPILL_PWEIR p, false)

/-- A frame that matches bulk rule j of its port: the polder weir, then host queue 4 + j. -/
def State.bulkIn (s : State) (h p j : Nat) (ok : Bool) (f : RxFrame) : State :=
  if ¬ ok then s.exception h p 6 0 f
  else
    let w := s.polderWeir h p (f.data.length + 4) f.stamp
    if w.2 then (w.1.qAppend (qHost p (4 + j)) h { id := 0, data := itemPrefix 0 f ++ f.data.take 1648 } none).1 else w.1

/-- The polder of a frame (R294): that of its VLAN, index 0 for a frame with a MAC error (R363), where the map names an ACTIVE one. -/
def State.framePolder (s : State) (h : Nat) (f : RxFrame) : Option Nat :=
  (s.vlanPolder h (if f.flags = 0 then (parseFrame f.data).vlan else 0)).filter fun p => s.fget F.DIKE_STAT_STATE p == 2

/-- LOOKUP (R298): the frame at the head of a classifier's queue is assigned to a polder, looked up in this half's copy, or in the
other one when a slot or tag entry it needs reads uncorrectable here (R304), and delivered, policed or sent to the exception path. `upset` is an
error that the lookup meets, in both copies where `both` says so. -/
def execLookup (h : Nat) (upset : Option ClsUpset) (both ctxBad : Bool) (s : State) : Res :=
  let c := s.clsf h
  match c.waiting with
  | [] => .next s
  | f :: rest =>
    let s0 := s.setCls h { c with waiting := rest }
    let q := parseFrame f.data
    if ¬ s0.fbit F.CLS_CTRL_EN h then .next (s0.exception h ((s0.framePolder h f).getD 0) 0x0C 0 f)
    else match s0.framePolder h f with
    | none => .next (s0.exception h 0 5 0 f)
    | some p =>
      if f.flags ≠ 0 then .next (s0.exception h p 7 0 f)
      else match s0.bulkRule f with
      | some (j, ok) => .next (s0.bulkIn h p j ok f)
      | none => if q.bad ≠ 0 then .next (s0.exception h p q.bad 0 f)
      else
        let s1 := s0.cinc C.CLS_LOOKUPS h
        let at' (t : State) (g : Nat) : State := match upset with | some u => t.upsetAt g u.pos u.tag | none => t
        let meets : Bool := match upset with | some u => (s1.candidates q.key).contains u.pos | none => false
        let s2 := if meets then (if both then at' (at' s1 h) (1 - h) else at' s1 h) else s1
        let own := s2.look h q.key
        let s3 := if own = .bad then (s2.finc F.CLS_EVENTS_PSLOT h).raise T.classifier h I.CLASSIFIER_PSLOT else s2
        match (if own = .bad then s2.look (1 - h) q.key else own) with
        | .hit x =>
          if x.st = 1 then .next (s3.exception h p 2 x.stream f)
          else .next (s3.byStamp x.stream f.stamp fun t => t.deliver h x.stream x.portmode ctxBad f q p)
        | _ => .next (s3.exception h p 1 0 f)

/-! ## Generated RTCP (R322) -/

/-- The other stream of a stream's channel that is received on the side this one is transmitted on. -/
def State.pairOf (s : State) (i : Nat) : Option Nat :=
  match (s.strm i).chan with
  | none => none
  | some c =>
    let x := s.chan c
    let ab := leAt x.params 4 4
    let ba := leAt x.params 8 4
    some (if i = ab then ba else ab)

/-- The packets of a received stream expected and lost so far, and the fraction lost since the last report, in 256ths (RFC 3550). -/
def Stream.expectedLost (y : Stream) : Nat × Nat :=
  let n := (y.h.getD 0 + 1 + 2 ^ 32 - y.h0) % 2 ^ 32
  (n, n - y.accepted)
def Stream.lostSince (y : Stream) : Nat :=
  let e := y.expectedLost
  if e.1 ≤ y.rrBase.1 then 0 else 256 * (e.2 - y.rrBase.2) / (e.1 - y.rrBase.1) % 256

/-- The compound packet of a stream: SR, an RR block for its pair where that is received, SDES CNAME, and BYE when it ends. Marks: DEDUCED unsafe (log entry 181). -/
def State.rtcpPacket (s : State) (i now ts : Nat) (bye : Bool) : List Byte :=
  let x := s.strm i
  let ssrc := beBytes 4 (leAt x.desc 0x70 4)
  let pair := match s.pairOf i with
    | some j => if (s.strm j).h.isSome then [s.strm j] else []
    | none => []
  let rr := pair.foldl (fun l y =>
    let sr : Nat × Nat := match y.lsr with | some e => (e.1, (now - e.2) * 65536 / unitSec % 2 ^ 32) | none => (0, 0)
    l ++ beBytes 4 (y.ssrc.getD 0) ++ beBytes 1 y.lostSince ++ beBytes 3 (y.cnt 15) ++ beBytes 4 (y.h.getD 0) ++ beBytes 4 (y.cnt 14)
      ++ beBytes 4 sr.1 ++ beBytes 4 sr.2) []
  let sr := beBytes 1 (128 + pair.length) ++ beBytes 1 200 ++ beBytes 2 (6 + 6 * pair.length) ++ ssrc
    ++ beBytes 4 (now / unitSec) ++ beBytes 4 (now % unitSec * 2 ^ 32 / unitSec) ++ beBytes 4 ts ++ beBytes 4 (x.cnt 2)
    ++ beBytes 4 (x.cnt 3) ++ rr
  let cname := (sub x.desc 0xF0 16).takeWhile fun b => b != 0
  let chunk := ssrc ++ beBytes 1 1 ++ beBytes 1 cname.length ++ cname
  let padded := chunk ++ List.replicate (4 - chunk.length % 4) 0
  let sdes := beBytes 1 129 ++ beBytes 1 202 ++ beBytes 2 (padded.length / 4) ++ padded
  let tail := if bye then beBytes 1 129 ++ beBytes 1 203 ++ beBytes 2 1 ++ ssrc else []
  sr ++ sdes ++ tail

/-- Sends one generated RTCP packet of a stream. The RTP timestamp of the SR is a free value. -/
def State.sendRtcp (s : State) (i : Nat) (now : Nat) (bye : Bool) : State :=
  let half := (s.chan ((s.strm i).chan.getD 0)).stone / 640
  let (v, s1) := s.takeFree
  let idx := (s1.strm i).rtcpTx
  let k := s1.takeRtcpIndex half i
  if ¬ k.2 then k.1
  else
    let pk := k.1.rtcpPacket i now (v.toNat % 2 ^ 32) bye
    let t := match k.1.pairOf i with
      | some j => k.1.upStrm j fun y => if y.h.isSome then { y with rrBase := y.expectedLost } else y
      | none => k.1
    t.sendRtcpFrame half i (protect (t.strm i) idx true (pk.take 8) (pk.drop 8)) 0

/-- Does a stream generate RTCP (R322)? -/
def State.rtcpOn (s : State) (i : Nat) : Bool :=
  let x := s.strm i
  let half := (s.chan (x.chan.getD 0)).stone / 640
  (x.kind == 1 || x.kind == 3) && bitAt x.txflags 1 && s.fbit F.STREAM_CTRL_RTCP_EN half && s.fbit F.STREAM_CTRL_EN half

/-- Tide time in units of 2⁻¹⁶ ns (R396). -/
def State.nowUnits (s : State) : Nat := s.tideNow

/-- RTCP_SEND (R322): at the drawn turn an ACTIVE stream sends a compound packet; `next` is the next interval drawn, in turns
from 0.5 to 1.5 times RTCP_INT. -/
def execRtcpSend (i next : Nat) (s : State) : Res :=
  let x := s.strm i
  let n := leAt x.desc 0x75 1 * 1000
  if x.st = .active ∧ s.rtcpOn i ∧ x.exhausted = false ∧ (x.rtcpTurn.getD 0) ≤ s.turn then
    let s1 := s.sendRtcp i s.nowUnits false
    let gap := min (max next (n / 2)) (3 * n / 2 - 1)
    .next (s1.upStrm i fun y => { y with rtcpTurn := some (s.turn + gap) })
  else .next s

end Sys2Proof.Machine
end

