-- ==== Sys2Proof/Machine/Audio.lean ====
section
/-!
DEFINITION. The audio of the library kernels (R220 to R229, R238 to R241, R245): which samples of 16 bits go where. What codecs, filters and the
canceller compute is Config.dsp; what the spec fixes of it (the lost frames, the attenuation, the sums, the packets) is written out.
-/

namespace Sys2Proof.Machine

/-! ## Samples -/

/-- A sample of 16 bits, saturated (R227). -/
def sat16 (x : Int) : Int := max (-32768) (min 32767 x)

/-- A frame of n samples. -/
def frameOf (n : Nat) (l : List Int) : List Int := ((l ++ List.replicate n 0).take n).map sat16

/-- The sum of two frames. -/
def addFrames (a b : List Int) : List Int := List.zipWith (fun x y => sat16 (x + y)) a b

/-- Samples as little-endian bytes, and back. -/
def pcmBytes (l : List Int) : List Byte := l.flatMap fun x => leBytes 2 (toBits 16 x)
def pcmOf (n : Nat) (b : List Byte) : List Int := (List.range n).map fun i => signedOf 16 (leAt b (2 * i) 2)

/-- Bytes as the values a codec works on, and back. -/
def bytesInt (b : List Byte) : List Int := b.map fun x => Int.ofNat x.toNat
def intBytes (l : List Int) : List Byte := l.map fun x => BitVec.ofInt 8 x

/-- Samples in 5 ms of a codec: 8 kHz for G.711, 16 kHz for the others (R211). Marks: DEDUCED safe (log entry 391). -/
def frameLen (codec : Nat) : Nat := if codec = 0 then 40 else 80

/-- Audio at another rate (R227): the Bolter resamples between 8 and 16 kHz. -/
def resample (n : Nat) (l : List Int) : List Int :=
  if l.length = n then l else frameOf n (Config.dsp (if l.length < n then .up else .down) [l])

/-! ## Audio received (R226, R228, R229) -/

/-- What a side plays a frame from: its codec, law and codec word, the payload that covers the frame with the frame's place in it, and the payload of the
next packet buffered. -/
structure Heard where
  codec : Nat
  law : Nat
  word : Nat
  data : List Byte := []
  at' : Nat := 0
  next : Option (List Byte) := none

/-- A frame that replaces a lost one, before its attenuation: Opus takes the in-band FEC of the next packet where it carries it, the other codecs and Opus
without it conceal by their own means (R228). -/
def KSide.lostAudio (x : KSide) (h : Heard) : List Int :=
  let fec := match h.next with
    | some b => if h.codec = 3 ∧ Config.dsp .hasFec [bytesInt b] ≠ [] then some b else none
    | none => none
  match fec with
  | some b => Config.dsp .fec [x.dec, bytesInt b, [Int.ofNat x.run]]
  | none => Config.dsp .conceal [x.dec, [Int.ofNat h.codec, Int.ofNat h.law, Int.ofNat x.run], x.audio]

/-- The samples of a frame (R228, R229), and the decoder's state after it. Marks: DESIGN CHOICE safe (log entry 379). -/
def KSide.hear (x : KSide) (h : Heard) (f : Frame5) : KSide :=
  let n := frameLen h.codec
  let cfg := [Int.ofNat h.codec, Int.ofNat h.law, Int.ofNat h.word, Int.ofNat h.at']
  let media := [x.dec, cfg, bytesInt h.data]
  match f with
  | .media lap =>
    let a := Config.dsp .decode media
    { x with dec := Config.dspState .decode media, audio := frameOf n (if lap then Config.dsp .overlap [x.audio, a] else a) }
  | .comfort => { x with dec := Config.dspState .comfort media, audio := frameOf n (Config.dsp .comfort media) }
  | .event c => { x with audio := frameOf n (Config.dsp .tone [[0, Int.ofNat c, Int.ofNat h.at'], bytesInt h.data]) }
  | .repeated num den => { x with audio := (frameOf n (x.lostAudio h)).map fun v => roundDiv (v * Int.ofNat num) (Int.ofNat (max den 1)) }
  | .noise => { x with audio := frameOf n (Config.dsp .noise [x.dec]) }
  | .removed => { x with audio := frameOf n (Config.dsp .noise [x.dec]) }
  | .silence => { x with audio := List.replicate n 0 }

/-- Gain in dB on the audio received on a side (R216). -/
def gained (g : Nat) (a : List Int) : List Int := if g = 0 then a else frameOf a.length (Config.dsp .gain [[signedOf 8 g], a])

/-! ## The canceller (R220, R221, R225) -/

/-- The echo that taps of zero find is none; other taps find it in the reference. -/
def echoOf (taps ref : List Int) (n : Nat) : List Int :=
  if taps.all (· == 0) then List.replicate n 0 else frameOf n (Config.dsp .echo [taps, ref])

/-- A canceller's side after a frame, the residual and what it hands on (R220): the echo that its taps and the tail partitions find is taken from the frame; it
adapts where it may, for echo return losses from ERL_MIN; then the non-linear processor. One that is off, or disabled by a tone with phase
reversals, passes the audio (R225). Marks: DESIGN CHOICE safe (log entry 379). -/
def KSide.cancel (x : KSide) (ec disabled : Nat) (tail a : List Int) : KSide × List Int × List Int :=
  if ¬ bitAt ec 0 ∨ disabled = 2 then (x, a, a)
  else
    let est := echoOf x.taps x.ref a.length
    let res := List.zipWith (fun v e => sat16 (v - e)) a (if tail = [] then est else addFrames est tail)
    let args := [x.ecs, x.taps, x.ref, res, [Int.ofNat (bitField ec 12 4)]]
    let x1 := if x.adapts then { x with taps := (Config.dsp .adapt args ++ List.replicate 1024 0).take 1024, ecs := Config.dspState .adapt args } else x
    (x1, res, match x.nlp with
      | 0 => res
      | 1 => frameOf a.length (Config.dsp .suppress [x.ecs, res, est])
      | _ => frameOf a.length (Config.dsp .residualNoise [x.ecs, res, est]))

/-- A canceller that has converged has taps. Marks: DESIGN CHOICE safe (log entry 137). -/
def KSide.converged (x : KSide) (m : Bool) : Bool := m && x.taps.any fun v => v != 0

/-- A tail partition's estimate from the reference in the ring, and its taps after it: while the ring fills it makes none and does not adapt (R222, R224). -/
def KSide.tail (x : KSide) (part : Nat) (adapts : Bool) (ring : Option (List Byte)) (residual : List Int) : KSide × List Int :=
  match ring with
  | none => (x, [])
  | some b =>
    let est := if x.taps.all (· == 0) then List.replicate 40 0 else frameOf 40 (Config.dsp .tailEcho [x.taps, bytesInt b, [Int.ofNat part]])
    let args := [x.ecs, x.taps, bytesInt b, residual, [Int.ofNat part]]
    (if adapts then { x with taps := (Config.dsp .tailAdapt args ++ List.replicate 1024 0).take 1024, ecs := Config.dspState .tailAdapt args } else x, est)

/-! ## The tail ring (R222) -/

/-- The data-memory address of a byte of the tail ring of a slot: half of it in each bank. Marks: DEDUCED safe (log entry 391). -/
def ringAddr (slot i : Nat) : Nat := 1536 * slot + (if i < 1536 then i else 0x8000 + i - 1536)

/-- The bytes that release n writes to the ring: the codes of the reference that leaves the head canceller's 1,024 samples. Marks: DEDUCED safe (log entry 391). -/
def ringWrites (slot n law : Nat) (old : List Int) : List (Nat × Byte) :=
  ((intBytes (Config.dsp .law [[Int.ofNat law], old]) ++ List.replicate 40 0).take 40).mapIdx fun i b => (ringAddr slot ((40 * n + i) % 3072), b)

/-- The reference that release n reads in the ring, oldest first: all but the 40 bytes that the head canceller writes in the same turn, so that the order
of the classes does not matter. -/
def ringRead (dm : Tab Byte) (slot n : Nat) : List Byte :=
  (List.range 3032).map fun i => memByte dm (ringAddr slot ((40 * n + 40 + i) % 3072))

/-! ## Audio transmitted (R218, R226, R239, R240, R325, R326) -/

/-- An output entry of a library kernel (R255). -/
structure KOut where
  port : Nat
  gap : Bool := false
  mark : Bool := false
  tag : Nat
  data : List Byte

/-- What a side transmits by: its codec, law, codec word, 5 ms frames in a packet, units of timestamp in a frame, payload types of media, events and
comfort noise, and the port. -/
structure Sender where
  codec : Nat
  law : Nat
  word : Nat
  per : Nat
  units : Nat
  pt : Nat
  tev : Nat
  cn : Nat
  port : Nat

/-- The prefix of a transmit item (R326). -/
def txPrefix (pt : Nat) : List Byte := leBytes 4 pt

/-- The media packet of the frames that wait, whose last one starts at a timestamp: speech is encoded in the mode that a CMR asks for; with DTX the codec may
find comfort noise, sent with CN_PT on a G.711 or G.722 side, or nothing to send. A talkspurt's first packet is marked (R325). -/
def KSide.packet (x : KSide) (d : Sender) (ts : Nat) : KSide × List KOut :=
  let pcm := x.frames.flatten
  let first := (ts + 2 ^ 32 - (d.per - 1) * d.units) % 2 ^ 32
  let args := [x.enc, [Int.ofNat d.codec, Int.ofNat d.law, Int.ofNat ((d.word / 16 * 16) + x.cmr.getD (d.word % 16))], pcm]
  let act := if bitAt d.word 4 then Config.dsp .activity args else [0]
  let x1 := { x with frames := [], enc := Config.dspState .encode args, talk := act == [0] }
  let bytes := intBytes (Config.dsp .encode args)
  let media := if d.codec ≤ 1 then (bytes ++ List.replicate (40 * d.per) 0).take (40 * d.per) else bytes
  if act = [0] then (x1, [{ port := d.port, mark := !x.talk, tag := first, data := txPrefix d.pt ++ media }])
  else match act with
    | [] => (x1, [])
    | v :: _ => (x1, [{ port := d.port, tag := first, data := if d.codec ≤ 1 then txPrefix d.cn ++ intBytes [v] else txPrefix d.pt ++ bytes }])

/-- The RFC 4733 packet of the event being sent: code, end and volume, and duration. -/
def KSide.eventPacket (x : KSide) (d : Sender) (ended first : Bool) : List KOut :=
  match x.tev with
  | none => []
  | some (c, ts, dur) =>
    let vol := ((Config.dsp .volume [[Int.ofNat c]]).headD 0).toNat % 64
    [{ port := d.port, mark := first, tag := ts, data := txPrefix d.tev ++ leBytes 1 c ++ leBytes 1 (b2n ended * 128 + vol) ++ beBytes 2 (min 65535 dur) }]

/-- The digits that the other side detects are sent as events of one packet a frame, and the last with its end (R239). -/
def KSide.sendEvents (x : KSide) (d : Sender) (ts : Nat) (codes : List Nat) : KSide × List KOut :=
  match x.tev, codes.head? with
  | none, none => (x, [])
  | none, some c => let x1 := { x with tev := some (c, ts, d.units) }; (x1, x1.eventPacket d false true)
  | some (_, _, _), none => ({ x with tev := none }, x.eventPacket d true false)
  | some (c0, t0, dur), some c =>
    if c0 = c then let x1 := { x with tev := some (c0, t0, dur + d.units) }; (x1, x1.eventPacket d false false)
    else let x1 := { x with tev := some (c, ts, d.units) }; (x1, x.eventPacket d true false ++ x1.eventPacket d false true)

/-- The frame that a side transmits: a tone in place of the audio (R240); and its copy in the reference of a G.711 side's canceller (R220). -/
def KSide.play (x : KSide) (codec ts : Nat) (a : List Int) : KSide × List Int :=
  let a1 := match x.plays with
    | some t => frameOf a.length (Config.dsp .tone [[1 + Int.ofNat t.kind, Int.ofNat t.digit, Int.ofNat t.level, Int.ofNat ts]])
    | none => a
  ({ x with ref := if codec = 0 then (x.ref ++ a1).drop (x.ref.length + a1.length - 1024) else [] }, a1)

/-- The 40 samples of the reference that leave the head canceller's 1,024 with the next frame (R222). -/
def KSide.refOut (x : KSide) : List Int := ((List.replicate 1024 0 ++ x.ref).drop x.ref.length).take 40

/-- A frame is transmitted on a side, in a packet when its packet time is full. -/
def KSide.transmit (x : KSide) (d : Sender) (ts : Nat) (a : List Int) : KSide × List KOut :=
  let r := x.play d.codec ts a
  let x1 := { r.1 with frames := r.1.frames ++ [r.2] }
  if x1.frames.length < d.per then (x1, []) else x1.packet d ts

/-- The frames of a release, the last of them at a timestamp (R218). -/
def KSide.transmitAll (x : KSide) (d : Sender) (ts : Nat) (l : List (List Int)) : KSide × List KOut :=
  (l.mapIdx fun i a => ((ts + 2 ^ 32 - (l.length - 1 - i) * d.units) % 2 ^ 32, a)).foldl
    (fun acc e => let r := acc.1.transmit d e.1 e.2; (r.1, acc.2 ++ r.2)) (x, [])

/-! ## Detectors (R225, R238, R241) -/

/-- The two frequencies of a DTMF digit in Hz (Q.23). Marks: PRESUMED safe (log entry 346). -/
def dtmfFreqs (c : Nat) : Nat × Nat :=
  let row := [3, 0, 0, 0, 1, 1, 1, 2, 2, 2, 3, 3, 0, 1, 2, 3].getD c 0
  let col := [1, 0, 1, 2, 0, 1, 2, 0, 1, 2, 0, 2, 3, 3, 3, 3].getD c 0
  ([697, 770, 852, 941].getD row 0, [1209, 1336, 1477, 1633].getD col 0)

/-- How far a value lies from another. -/
def apart (a b : Nat) : Nat := a - b + (b - a)

/-- Does a value lie within ±n % of another? -/
def within (n a b : Nat) : Bool := decide (100 * apart a b ≤ n * b)

/-- Does a detector report a signal (R238)? Where it meets the guaranteed accept it does, where it meets a reject it does not, and between them it does
as the hardware finds. A call-progress signal must match its definition (R241). Marks: DESIGN CHOICE safe (log entry 137). -/
def reportedSignal (g : Signal) (cp : Option (List Byte)) : Bool :=
  let decided (accept reject : Bool) : Bool := accept || (!reject && g.found)
  let f (i : Nat) := g.freqs.getD i 0
  let lv (i : Nat) := g.levels.getD i (-1000)
  let hzOff := apart (f 0) 21000
  let v25 (ms : Nat) (am amBad : Bool) : Bool :=
    decided (decide (hzOff ≤ 210) && decide (ms ≤ g.ms) && decide (-310 ≤ lv 0) && am) (decide (lv 0 < -310) || decide (g.ms < ms) || amBad)
  if g.code < 16 then
    let n := dtmfFreqs g.code
    let off (k : Nat) : Bool := decide (1000 * apart (f 0) (10 * n.1) ≤ k * 10 * n.1) && decide (1000 * apart (f 1) (10 * n.2) ≤ k * 10 * n.2)
    let far : Bool := decide (35 * 10 * n.1 ≤ 1000 * apart (f 0) (10 * n.1)) || decide (35 * 10 * n.2 ≤ 1000 * apart (f 1) (10 * n.2))
    let level (l : Int) : Bool := decide (-360 ≤ l) && decide (l ≤ -30)
    let twist := lv 1 - lv 0
    decided (off 15 && level (lv 0) && level (lv 1) && decide (-80 ≤ twist) && decide (twist ≤ 40) && decide (40 ≤ g.ms))
      (far || decide (g.ms ≤ 23) || decide (lv 0 < -450) || decide (lv 1 < -450))
  else if g.code = 32 ∨ g.code = 33 then v25 300 (g.code == 32 || g.reversal) (g.code == 33 && !g.reversal)
  else if g.code = 34 ∨ g.code = 35 then
    v25 450 (decide (apart g.amHz 1500 ≤ 10) && decide (150 ≤ g.amDepth) && decide (g.amDepth ≤ 250) && (g.code == 34 || g.reversal))
      (decide (g.amDepth < 100) || decide (300 < g.amDepth) || (g.code == 35 && !g.reversal))
  else if 37 ≤ g.code ∧ g.code ≤ 40 then decide (3 ≤ g.flags)
  else if g.code = 36 then decided (decide (apart (f 0) 11000 ≤ 380) && decide (500 ≤ g.ms)) (decide (g.ms < 400))
  else match cp with
    | none => false
    | some d =>
      let f2 := leAt d 2 2
      let pairs := (List.range (leAt d 4 1)).map fun j => (leAt d (8 + 4 * j) 2, leAt d (10 + 4 * j) 2)
      within 10 (f 0) (10 * leAt d 0 2) && (f2 == 0 || within 10 (f 1) (10 * f2)) && g.cadence.length == pairs.length
        && (List.zipWith (fun (a b : Nat × Nat) => within 10 a.1 b.1 && within 10 a.2 b.2) g.cadence pairs).all id

/-- A 2100 Hz tone that disables (R225): of 300 ms, above −31 dBm0, and between the guaranteed limits as the hardware finds. -/
def disablingSignal (g : Signal) : Bool :=
  decide (32 ≤ g.code) && decide (g.code ≤ 35) && decide (-310 < g.levels.getD 0 (-1000)) && reportedSignal { g with code := 32 } none

end Sys2Proof.Machine
end

