-- ==== Sys2Proof/Machine/Bolter.lean ====
section
/-!
DEFINITION. The Bolter of a mill (spec file 06): its chains and coefficients, the submission of a job by a doorway store, the
exact arithmetic of a job, and the writes of its window.
-/

namespace Sys2Proof.Machine

/-! ## Access to mills and stones -/

/-- A mill as it stands. -/
def State.mill (s : State) (m : Nat) : MillSt := Tab.get (fun _ => {}) s.mills m

/-- Sets a mill. -/
def State.setMill (s : State) (m : Nat) (x : MillSt) : State :=
  { s with mills := Tab.set (fun _ => {}) s.mills m x }

/-- A stone by its physical number (R19). -/
def State.stone (s : State) (n : Nat) : Stone := Tab.get (fun _ => {}) s.stones n

/-- Sets a stone. -/
def State.setStone (s : State) (n : Nat) (x : Stone) : State :=
  { s with stones := Tab.set (fun _ => {}) s.stones n x }

/-- A context of a stone. -/
def Stone.cx (x : Stone) (c : Nat) : Ctx := Tab.get (fun _ => {}) x.ctx c

/-- Sets a context of a stone. -/
def Stone.setCx (x : Stone) (c : Nat) (y : Ctx) : Stone := { x with ctx := Tab.set (fun _ => {}) x.ctx c y }

/-- Is the device debug-unlocked (R567, TRUST_STAT.DEBUG)? -/
def State.debugUnlocked (s : State) : Bool := s.fbit F.TRUST_STAT_DEBUG 0

/-- May a function use the stone and Bolter windows of a mill (R153, R281): any caller while the device is debug-unlocked,
the VF of the mill's polder, or the PF when the mill is polder 0's? -/
def State.windowRights (s : State) (fn m : Nat) : Bool :=
  s.debugUnlocked || (decide (fn < 16) && s.fget F.MILL_ROLE_POLDER m == fn)

/-- A denied window access (R153, R281): DENIED and WIN_DENIED. -/
def State.deny (s : State) (m : Nat) : State := (s.fset F.MILL_WIN_STAT_DENIED m 1).raise T.mill m I.MILL_WIN_DENIED

/-- The role number of a mill, 4r + k, where ROW_ROLES names it as a holder (R28). -/
def State.roleNo (s : State) (m : Nat) : Option Nat :=
  let r := m / 5
  let w := s.rd T.row r 0xC08
  ((List.range 4).find? fun k => bitAt w (4 * k + 3) && bitField w (4 * k) 3 == m % 5).map (4 * r + ·)

/-- Is a mill's page frozen: role 0x4 or 0x5 (R24)? Marks: DEDUCED unsafe (log entry 78). -/
def State.frozen (s : State) (t inst : Nat) : Bool := t == T.mill && (s.role inst == 4 || s.role inst == 5)

/-- A hardware fault of a mill (R126): its stones stop and the fault is reported, unless the mill is quarantined (R592). -/
def State.hwFault (s : State) (m kind : Nat) : State :=
  if s.role m = 4 then s else (s.setMill m { s.mill m with stopped := true }).emit (.detection kind (.mill m))

/-- A corrected error in a memory of a mill (R138, R434): counted and reported. -/
def State.millCorrected (s : State) (m : Nat) : State := (s.finc F.MILL_ECC_CE m).emit (.fault T.mill m)

/-! ## Chains and coefficients (R257, R258, R277) -/

/-- CFG0 and SETTLE of a library chain (R277, R285): EN, NSEC, FIRST, FACTOR, DIR, OFMT, OSHIFT, DCK. -/
def libChain (c : Nat) : Nat × Nat :=
  let cfg (nsec first factor dir ofmt oshift dck : Nat) :=
    2 ^ 31 + nsec * 2 ^ 24 + first * 2 ^ 16 + factor * 2 ^ 12 + dir * 2 ^ 11 + ofmt * 2 ^ 10 + oshift * 2 ^ 8 + dck
  match c with
  | 0 => (cfg 6 0 1 0 0 0 0, 0)
  | 1 => (cfg 6 6 1 1 0 1 0, 0)
  | 2 => (cfg 6 12 1 0 0 0 0, 0)
  | 3 => (cfg 6 18 1 1 0 1 0, 0)
  | 12 => (cfg 2 40 0 0 1 0 0, 40)
  | 13 => (cfg 2 42 0 0 1 0 0, 40)
  | 14 => (cfg 3 44 0 0 1 0 0, 40)
  | 15 => (cfg 4 47 0 0 1 0 8, 40)
  | _ => (cfg 2 (24 + 2 * (c - 4)) 0 0 1 0 0, 40)

/-- A chain no one has configured. -/
def chainOff : Chain := ⟨0, 0, 0, 0, 0⟩

/-- A chain of a mill's Bolter. -/
def MillSt.chain (x : MillSt) (c : Nat) : Chain :=
  if c < 16 then
    if x.library then ⟨(libChain c).1, (libChain c).2, 0, 0, 0⟩ else chainOff
  else Tab.get (fun _ => chainOff) x.chains c

/-- Sets a polder's chain. -/
def MillSt.setChain (x : MillSt) (c : Nat) (ch : Chain) : MillSt :=
  { x with chains := Tab.set (fun _ => chainOff) x.chains c ch }

/-- A coefficient, as a 32-bit value: sections 0 to 63 are the library's, 51 to 63 of them zero (R277). -/
def MillSt.coefAt (x : MillSt) (bank sec i : Nat) : Nat :=
  if sec < 64 then (if x.library ∧ sec < 51 then (Config.libCoef sec bank i).toNat else 0)
  else Tab.get (fun _ => 0) x.coef ((bank * 256 + sec) * 8 + i)

/-- Fields of a chain's CFG0 (R285). -/
def cfgEn (c : Nat) : Bool := bitAt c 31
/-- NSEC of CFG0. -/
def cfgNsec (c : Nat) : Nat := bitField c 24 5
/-- FIRST of CFG0. -/
def cfgFirst (c : Nat) : Nat := bitField c 16 8
/-- The rate factor of CFG0: 1 where FACTOR is 0. -/
def cfgFactor (c : Nat) : Nat := 2 ^ bitField c 12 2
/-- Does the chain interpolate? DIR is ignored when FACTOR is 0. -/
def cfgInterp (c : Nat) : Bool := bitAt c 11 && bitField c 12 2 != 0
/-- OFMT of CFG0. -/
def cfgOfmt (c : Nat) : Nat := bitField c 10 1
/-- OSHIFT of CFG0. -/
def cfgOshift (c : Nat) : Nat := bitField c 8 2
/-- DCK of CFG0. -/
def cfgDck (c : Nat) : Nat := bitField c 0 4

/-- Does a chain's run of sections contain a section? -/
def cfgHas (c sec : Nat) : Bool := decide (cfgFirst c ≤ sec) && decide (sec < cfgFirst c + cfgNsec c)

/-- Is a chain named by an outstanding job (INUSE, R287)? -/
def MillSt.inUse (x : MillSt) (c : Nat) : Bool := x.jobs.any fun j => j.entries.any fun e => e.chain == c

/-- SWAP_PEND (R263): an outstanding job accepted before the swap names the chain. -/
def MillSt.swapPend (x : MillSt) (c : Nat) : Bool := x.jobs.any fun j => j.beforeSwap.contains c

/-- The state at the start of a role (R258): library chains loaded, the polder's chains disabled and their coefficients
zero, no job. Marks: DEDUCED unsafe (log entry 151). -/
def boltRoleStart (x : MillSt) : MillSt := { x with chains := [], coef := [], library := true, jobs := [] }

/-- Copies the chains and coefficients of a mill's Bolter to its role's image (R278). Marks: DEDUCED unsafe (log entry 151). -/
def State.keepImage (s : State) (m : Nat) : State :=
  match s.roleNo m with
  | some k =>
    let x := s.mill m
    { s with image := Tab.set (fun _ => {}) s.image k { chains := x.chains, coef := x.coef, library := x.library } }
  | none => s

/-! ## Submitting a job (R267, R268, R270) -/

/-- A 40-bit signed value from a 64-bit word of a state block (R269). -/
def s40 (v : Nat) : Int := signedOf 40 v

/-- An internal sample: 40-bit two's complement (R259), as the s40 of R261 holds it. Marks: DEDUCED unsafe (log entry 337). -/
def wrap40 (x : Int) : Int := s40 (toBits 40 x)

/-- Length of a state block (R269). -/
def stateLen (cfg : Nat) : Nat := 16 + 32 * cfgNsec cfg

/-- Bytes of an input sample. -/
def inBytes (ifmt : Nat) : Nat := if ifmt = 0 then 2 else 4

/-- Is a switch made, from the state block's first words and the chain (R266)? -/
def isSwitch (flags w0 w1 chain cfggen : Nat) : Bool :=
  bitAt flags 0 || !bitAt w0 28 || bitField w0 0 5 != chain || bitField w1 0 16 != cfggen

/-- The phase a job starts a chain with: zero on a switch, else the state block's (R266). -/
def startPhase (dm : Tab Byte) (flags st chain cfggen : Nat) : Nat :=
  if isSwitch flags (memRead dm st 4) (memRead dm (st + 4) 4) chain cfggen then 0 else bitField (memRead dm st 4) 5 3

/-- How many output samples a chain gives (R261). -/
def outCount (cfg phase nsamp : Nat) : Nat :=
  if bitField cfg 12 2 = 0 then nsamp
  else if cfgInterp cfg then nsamp * cfgFactor cfg
  else (phase + nsamp) / cfgFactor cfg

/-- Do two areas of memory, each a start and a length, have a byte in common? -/
def overlaps (a b : Nat × Nat) : Bool := decide (max a.1 b.1 < min (a.1 + a.2) (b.1 + b.2))

/-- Do any two of a list of areas overlap? -/
def anyOverlap : List (Nat × Nat) → Bool
  | [] => false
  | a :: l => l.any (overlaps a) || anyOverlap l

/-- Does an area lie inside a window? -/
def inWin (win a n : Nat) : Bool := decide (win ≤ a) && decide (a + n ≤ win + 0x5000)

/-- Records a job error (R292). -/
def State.boltErr (s : State) (m stone code : Nat) : State :=
  let s1 := if s.fbit F.BOLT_ERR_VALID m then s else s.wr T.mill m 0x234 (2 ^ 31 + stone * 65536 + code)
  s1.finc F.BOLT_ERRCNT_COUNT m

/-- Writes the STATUS word of a descriptor in a stone's data memory. -/
def State.boltStatus (s : State) (n desc code : Nat) : State :=
  let x := s.stone n
  s.setStone n { x with dm := memWrite x.dm (desc + 8) 4 code }

/-- An entry of a descriptor as an accepted job holds it. A job starts as it is accepted: R274 bounds every job from its doorway store, whatever
other jobs the lanes run. Marks: DEDUCED safe (log entry 150). -/
def readEntry (x : MillSt) (dm : Tab Byte) (desc e : Nat) : JobEntry :=
  let a := desc + 16 + 16 * e
  let c := memRead dm a 1
  let ch := x.chain c
  ⟨c, ch.active, memRead dm (a + 1) 1, ch.swapgen, ch.settle, memRead dm (a + 4) 4, memRead dm (a + 8) 4⟩

/-- The areas of a job and whether its addresses are good (R270, BAD_ADDR). -/
def jobAddrBad (x : MillSt) (dm : Tab Byte) (win karea desc nsamp ifmt inp : Nat) (es : List JobEntry) : Bool :=
  let inLen := nsamp * inBytes ifmt
  let inOk := inWin win inp inLen
    || (decide (0x100000 + karea ≤ inp) && decide (inp + inLen ≤ 0x200000))
  let outs := es.map fun e =>
    let c := (x.chain e.chain).cfg0
    (e.out, outCount c (startPhase dm e.flags e.state e.chain (x.chain e.chain).cfggen) nsamp * (if cfgOfmt c = 0 then 2 else 4))
  let sts := es.map fun e => (e.state, stateLen (x.chain e.chain).cfg0)
  !inOk || inp % inBytes ifmt != 0
    || sts.any (fun a => !inWin win a.1 a.2 || a.1 % 8 != 0)
    || (es.zip outs).any (fun p =>
        !inWin win p.2.1 p.2.2 || p.2.1 % (if cfgOfmt (x.chain p.1.chain).cfg0 = 0 then 2 else 4) != 0)
    || anyOverlap ((desc, 16 + 16 * es.length) :: (inp, inLen) :: (sts ++ outs))

/-- The first failing check of a submitted job (R270), or none. -/
def jobCheck (x : MillSt) (dm : Tab Byte) (stone win karea desc : Nat) : Option Nat :=
  let nsamp := memRead dm desc 2
  let nent := memRead dm (desc + 2) 1
  let ifmt := memRead dm (desc + 3) 1
  let inp := memRead dm (desc + 4) 4
  let raw := (List.range nent).map fun e => desc + 16 + 16 * e
  let es := (List.range nent).map (readEntry x dm desc)
  if x.jobs.any (fun j => j.stone == stone) then some 0x13
  else if nsamp = 0 ∨ 1024 < nsamp ∨ nent = 0 ∨ 8 < nent ∨ 1 < ifmt ∨ memRead dm (desc + 12) 4 ≠ 0
      ∨ raw.any (fun a => decide (31 < memRead dm a 1) || decide (3 < memRead dm (a + 1) 1) || memRead dm (a + 2) 2 != 0)
      ∨ es.any (fun e => cfgInterp (x.chain e.chain).cfg0
          && decide (1024 < nsamp * cfgFactor (x.chain e.chain).cfg0)) then some 0x10
  else if es.any (fun e => !cfgEn (x.chain e.chain).cfg0) then some 0x12
  else if jobAddrBad x dm win karea desc nsamp ifmt inp es then some 0x11
  else none

/-- A doorway store (R267, R270): an ignored submission is only recorded, a refused one writes its STATUS, and an accepted
one is outstanding. `n` is the stone, `win` the window of the work unit it issues for. Marks: DEDUCED unsafe (log entry 106). -/
def State.boltSubmit (s : State) (n win desc : Nat) : State :=
  let m := n / 16
  let x := s.mill m
  let dm := (s.stone n).dm
  if desc % 8 ≠ 0 ∨ !inWin win desc 16 ∨ !inWin win desc (16 + 16 * memRead dm (desc + 2) 1) then
    s.boltErr m (n % 16) 0x14
  else
    match jobCheck x dm (n % 16) win (s.karea m) desc with
    | some code => (s.boltStatus n desc code).boltErr m (n % 16) code
    | none =>
      let es := (List.range (memRead dm (desc + 2) 1)).map (readEntry x dm desc)
      s.setMill m { x with jobs := x.jobs ++
        [⟨n % 16, win, desc, memRead dm desc 2, memRead dm (desc + 3) 1, memRead dm (desc + 4) 4, es, []⟩] }

/-! ## Running a job (R259 to R261, R266) -/

/-- The state of one section: x1, x2, y1, y2 (R260). -/
structure SecSt where
  x1 : Int
  x2 : Int
  y1 : Int
  y2 : Int
  deriving DecidableEq, Repr

/-- The five coefficients of a section (R260). -/
structure SecCoef where
  b0 : Int
  b1 : Int
  b2 : Int
  a1 : Int
  a2 : Int
  deriving DecidableEq, Repr

/-- One sample through one section in Direct Form I (R260): the output, the shifted state, and whether it saturated. -/
def runSection (c : SecCoef) (st : SecSt) (x : Int) : Int × SecSt × Bool :=
  let y := clampS 40 (halfEven (c.b0 * x + c.b1 * st.x1 + c.b2 * st.x2 - c.a1 * st.y1 - c.a2 * st.y2) 29)
  (y.1, ⟨x, st.x1, y.1, st.y1⟩, y.2)

/-- One sample through a cascade: the output, the states and the number of saturations. -/
def runCascade : List (SecCoef × SecSt) → Int → Int × List SecSt × Nat
  | [], x => (x, [], 0)
  | (c, st) :: rest, x =>
    let r := runSection c st x
    let q := runCascade rest r.1
    (q.1, r.2.1 :: q.2.1, q.2.2 + b2n r.2.2)

/-- What a chain carries from sample to sample: the DC blocker's m, PHASE, SETTLE_LEFT, the section states, and what it has
produced: outputs, section saturations, output saturations. -/
structure ChainRun where
  m : Int
  phase : Nat
  settle : Nat
  secs : List SecSt
  outs : List Int
  secSat : Nat
  outSat : Nat
  deriving DecidableEq, Repr

/-- The output stage (R261): shift, round, saturate, and zero while settling. -/
def chainOut (cfg : Nat) (r : ChainRun) (y : Int) : ChainRun :=
  let v := clampS (if cfgOfmt cfg = 0 then 16 else 32)
    (halfEven (y * 2 ^ cfgOshift cfg) (if cfgOfmt cfg = 0 then 16 else 8))
  { r with outs := r.outs ++ [if r.settle = 0 then v.1 else 0], settle := r.settle - 1, outSat := r.outSat + b2n v.2 }

/-- One sample at the section stage, with decimation (R261). -/
def chainStep (cfg : Nat) (coefs : List SecCoef) (r : ChainRun) (x : Int) : ChainRun :=
  let q := runCascade (coefs.zip r.secs) x
  let r1 := { r with secs := q.2.1, secSat := r.secSat + q.2.2 }
  if bitField cfg 12 2 ≠ 0 ∧ !cfgInterp cfg then
    let r2 := if r1.phase = cfgFactor cfg - 1 then chainOut cfg r1 q.1 else r1
    { r2 with phase := (r1.phase + 1) % cfgFactor cfg }
  else chainOut cfg r1 q.1

/-- One input sample through a chain (R261): the DC blocker, then interpolation with F − 1 zeros, then the sections. -/
def chainSample (cfg : Nat) (frz : Bool) (coefs : List SecCoef) (r : ChainRun) (x : Int) : ChainRun :=
  let k := cfgDck cfg
  let e := if k = 0 then x else wrap40 (x - r.m)
  let r1 := if k = 0 ∨ frz then r else { r with m := wrap40 (r.m + halfEven e k) }
  let zeros : List Int := if cfgInterp cfg then List.replicate (cfgFactor cfg - 1) 0 else []
  (e :: zeros).foldl (chainStep cfg coefs) r1

/-- The input samples of a job as internal values (R259), from data memory or the bin. -/
def jobInput (dm bin : Tab Byte) (j : Job) : List Int :=
  (List.range j.nsamp).map fun i =>
    let a := j.inp + i * inBytes j.ifmt
    let v := if a < 0x100000 then memRead dm a (inBytes j.ifmt) else memRead bin (a - 0x100000) (inBytes j.ifmt)
    if j.ifmt = 0 then signedOf 16 v * 2 ^ 16 else signedOf 32 v * 2 ^ 8

/-- The sections' states of a state block. -/
def readSecs (dm : Tab Byte) (st n : Nat) : List SecSt :=
  (List.range n).map fun j =>
    let a := st + 16 + 32 * j
    ⟨s40 (memRead dm a 8), s40 (memRead dm (a + 8) 8), s40 (memRead dm (a + 16) 8), s40 (memRead dm (a + 24) 8)⟩

/-- The coefficients a chain uses from a bank (R263). -/
def MillSt.chainCoefs (x : MillSt) (cfg bank : Nat) : List SecCoef :=
  (List.range (cfgNsec cfg)).map fun j =>
    let c (i : Nat) : Int := signedOf 32 (x.coefAt bank (cfgFirst cfg + j) i)
    ⟨c 0, c 1, c 2, c 3, c 4⟩

/-- Runs one entry of a job on data memory (R261, R266): the chain's run with its outputs. -/
def runEntry (x : MillSt) (dm : Tab Byte) (inp : List Int) (e : JobEntry) : ChainRun :=
  let ch := x.chain e.chain
  let w0 := memRead dm e.state 4
  let sw := isSwitch e.flags w0 (memRead dm (e.state + 4) 4) e.chain ch.cfggen
  let n := cfgNsec ch.cfg0
  let start : ChainRun :=
    if sw then ⟨0, 0, e.settle, List.replicate n ⟨0, 0, 0, 0⟩, [], 0, 0⟩
    else ⟨s40 (memRead dm (e.state + 8) 8), bitField w0 5 3,
      if bitField w0 8 8 = e.swapgen then bitField w0 16 12 else e.settle, readSecs dm e.state n, [], 0, 0⟩
  inp.foldl (chainSample ch.cfg0 (bitAt e.flags 1) (x.chainCoefs ch.cfg0 e.bank)) start

/-- Writes 64-bit words of sign-extended values. -/
def putWords (dm : Tab Byte) (a : Nat) : List Int → Tab Byte
  | [] => dm
  | v :: vs => putWords (memWrite dm a 8 (toBits 64 v)) (a + 8) vs

/-- Writes output samples of a size. -/
def putSamples (dm : Tab Byte) (a n : Nat) : List Int → Tab Byte
  | [] => dm
  | v :: vs => putSamples (memWrite dm a n (toBits (8 * n) v)) (a + n) n vs

/-- The writes of one entry: outputs, state block (R269) and OUTN, before STATUS (R271). -/
def writeEntry (x : MillSt) (desc : Nat) (dm : Tab Byte) (i : Nat) (e : JobEntry) (r : ChainRun) : Tab Byte :=
  let ch := x.chain e.chain
  let d1 := putSamples dm e.out (if cfgOfmt ch.cfg0 = 0 then 2 else 4) r.outs
  let w0 := e.chain + r.phase * 32 + e.swapgen * 256 + r.settle * 65536 + 2 ^ 28
  let d2 := memWrite (memWrite d1 e.state 4 w0) (e.state + 4) 4 ch.cfggen
  let d3 := putWords d2 (e.state + 8) (r.m :: r.secs.flatMap fun q => [q.x1, q.x2, q.y1, q.y2])
  memWrite d3 (desc + 16 + 16 * i + 12) 4 r.outs.length

/-- The section-samples of an entry (R274). -/
def entrySamples (cfg nsamp : Nat) : Nat :=
  (if cfgInterp cfg then nsamp * cfgFactor cfg else nsamp) * max (cfgNsec cfg) 1 + (if cfgDck cfg = 0 then 0 else nsamp)

/-- All entries of a job in order: data memory after their writes, section and output saturations. -/
def runEntries (x : MillSt) (inp : List Int) (desc : Nat) : Tab Byte → Nat → List JobEntry → Tab Byte × Nat × Nat
  | dm, _, [] => (dm, 0, 0)
  | dm, i, e :: es =>
    let r := runEntry x dm inp e
    let q := runEntries x inp desc (writeEntry x desc dm i e r) (i + 1) es
    (q.1, r.secSat + q.2.1, r.outSat + q.2.2)

/-- The outstanding job of a stone writes its outputs, state blocks, OUTN and then STATUS, and its counters advance while CNT_EN is 1 (R261,
R266, R271, R274). -/
def State.jobDone (s : State) (n : Nat) : State :=
  let m := n / 16
  let x := s.mill m
  match x.jobs.find? fun j => j.stone == n % 16 with
  | none => s
  | some j =>
    let st := s.stone n
    let r := runEntries x (jobInput st.dm x.bin j) j.desc st.dm 0 j.entries
    let done := if r.2.1 = 0 ∧ r.2.2 = 0 then 1 else 2
    let s1 := (s.setStone n { st with dm := memWrite r.1 (j.desc + 8) 4 done }).setMill m { x with jobs := x.jobs.erase j }
    let ss := (j.entries.map fun e => entrySamples (x.chain e.chain).cfg0 j.nsamp).foldl (· + ·) 0
    if s.fbit F.BOLT_CTRL_CNT_EN m then
      (((s1.cinc C.BOLT_SS m ss).cinc C.BOLT_JOBS m).finc F.BOLT_SAT_SEC_SAT m r.2.1).finc F.BOLT_SAT_OUT_SAT m r.2.2
    else s1

/-- BOLTER_JOB_DONE: the outstanding job of a stone completes. A correctable error of coefficient or chain storage met on the way is counted,
and an uncorrectable one is a hardware fault of the mill (R279). Marks: DEDUCED safe (log entry 150). -/
def execBolterJobDone (e : JobEnd) (s : State) : Res :=
  let n := e.stone
  let m := n / 16
  if (s.mill m).stopped || !(s.mill m).jobs.any fun j => j.stone == n % 16 then .next s
  else
    match e.chk with
    | .ok => .next (s.jobDone n)
    | .corrected _ => .next ((s.millCorrected m).jobDone n)
    | .bad => .next (s.hwFault m 0x15)

/-! ## The Bolter window (R264, R265, R281, R284 to R289) -/

/-- Do a CFG0 word's fields keep the ranges of R285 for a polder's chain? -/
def cfgRangeOk (v : Nat) : Bool :=
  decide (cfgNsec v ≤ 16) && decide (cfgFirst v + cfgNsec v ≤ 256) && decide (64 ≤ cfgFirst v)

/-- The defined bits of CFG0 (R285). -/
def cfgMask (v : Nat) : Nat :=
  bitField v 31 1 * 2 ^ 31 + bitField v 16 13 * 2 ^ 16 + bitField v 8 6 * 2 ^ 8 + bitField v 0 4

/-- A write of BOLT_CHAIN_CFG0 to the selected chain (R258, R265): EN cleared alone at any time, anything where the chain is
off and no job names it; otherwise dropped and logged. -/
def State.chainCfg0Write (s : State) (fn addr m v : Nat) : State :=
  if !s.windowRights fn m then (s.deny m).logErr T.mill m 6 fn addr v
  else
    let c := s.fget F.BOLT_CHAIN_SEL_CHAIN m
    let x := s.mill m
    let ch := x.chain c
    let w := cfgMask v
    if c < 16 then s.logErr T.mill m 5 fn addr v
    else if w + 2 ^ 31 = ch.cfg0 ∨ (w = ch.cfg0 ∧ !cfgEn w) then
      (s.setMill m (x.setChain c { ch with cfg0 := w })).keepImage m
    else if cfgEn ch.cfg0 || x.inUse c || !cfgRangeOk w then s.logErr T.mill m 5 fn addr v
    else
      let key (q : Nat) := (cfgFirst q, cfgNsec q, bitField q 12 2, bitAt q 11, cfgDck q)
      let gen := if key w = key ch.cfg0 then ch.cfggen else (ch.cfggen + 1) % 65536
      (s.setMill m (x.setChain c { ch with cfg0 := w, cfggen := gen })).keepImage m

/-- A write of BOLT_CHAIN_CFG1.SETTLE (R265). -/
def State.chainCfg1Write (s : State) (fn addr m v : Nat) : State :=
  if !s.windowRights fn m then (s.deny m).logErr T.mill m 6 fn addr v
  else
    let c := s.fget F.BOLT_CHAIN_SEL_CHAIN m
    let x := s.mill m
    if c < 16 then s.logErr T.mill m 5 fn addr v
    else (s.setMill m (x.setChain c { x.chain c with settle := v % 4096 })).keepImage m

/-- A write of BOLT_CHAIN_CTRL (R263): SWAP flips the active bank and counts, or is dropped and logged. -/
def State.chainCtrlWrite (s : State) (fn addr m v : Nat) : State :=
  if !s.windowRights fn m then (s.deny m).logErr T.mill m 6 fn addr v
  else
    let c := s.fget F.BOLT_CHAIN_SEL_CHAIN m
    let x := s.mill m
    if c < 16 ∨ (bitAt v 0 ∧ x.swapPend c) then s.logErr T.mill m 5 fn addr v
    else if !bitAt v 0 then s
    else
      let ch := x.chain c
      let mark (j : Job) : Job := if j.entries.any (fun e => e.chain == c) then { j with beforeSwap := c :: j.beforeSwap } else j
      let y := x.setChain c { ch with active := 1 - ch.active, swapgen := (ch.swapgen + 1) % 256 }
      (s.setMill m { y with jobs := x.jobs.map mark }).keepImage m

/-- May a coefficient of a section and bank be written (R258, R264)? -/
def MillSt.coefWritable (x : MillSt) (sec bank : Nat) : Bool :=
  decide (64 ≤ sec) &&
    (List.range 32).all fun c =>
      let ch := x.chain c
      !(cfgEn ch.cfg0 && cfgHas ch.cfg0 sec) || (ch.active != bank && !x.swapPend c)

/-- The advance of BOLT_COEF_SEL after a unicast access (R289). -/
def State.coefAdvance (s : State) (m : Nat) : State :=
  let i := s.fget F.BOLT_COEF_SEL_COEF m
  if i < 4 then s.fset F.BOLT_COEF_SEL_COEF m (i + 1)
  else (s.fset F.BOLT_COEF_SEL_COEF m 0).fwrap F.BOLT_COEF_SEL_SECTION m

/-- A write of BOLT_COEF_DATA (R264, R281, R289), before the advance. -/
def State.coefWrite (s : State) (fn addr m v : Nat) : State :=
  let sec := s.fget F.BOLT_COEF_SEL_SECTION m
  let bank := s.fget F.BOLT_COEF_SEL_BANK m
  let x := s.mill m
  if !s.windowRights fn m then (s.deny m).logErr T.mill m 6 fn addr v
  else if x.coefWritable sec bank then
    let k := (bank * 256 + sec) * 8 + s.fget F.BOLT_COEF_SEL_COEF m
    (s.setMill m { x with coef := Tab.set (fun _ => 0) x.coef k (v % 2 ^ 32) }).keepImage m
  else s.logErr T.mill m 5 fn addr v

/-- What a read of a Bolter window register returns (R281, R285 to R289). -/
def State.boltRead (s : State) (m off : Nat) : Nat :=
  let x := s.mill m
  let c := s.fget F.BOLT_CHAIN_SEL_CHAIN m
  let ch := x.chain c
  match off with
  | 0x20C => ch.cfg0
  | 0x210 => ch.cfggen * 65536 + ch.settle
  | 0x214 => ch.swapgen * 65536 + b2n (x.inUse c) * 1024 + b2n (x.swapPend c) * 512 + ch.active * 256
  | _ => x.coefAt (s.fget F.BOLT_COEF_SEL_BANK m) (s.fget F.BOLT_COEF_SEL_SECTION m) (s.fget F.BOLT_COEF_SEL_COEF m)

/-- BOLT_STAT (R283): the lanes that run a job, and the stones with one outstanding. -/
def MillSt.boltStat (x : MillSt) : Nat :=
  min 8 x.jobs.length * 65536 + (x.jobs.map fun j => 2 ^ j.stone).foldl (· + ·) 0

end Sys2Proof.Machine
end

