-- ==== Sys2Proof/Machine/Kernels.lean ====
section
/-!
DEFINITION. What a library kernel does in one release with the streams it consumes (R218 to R246): which 5 ms frames are lost and what replaces
them, the target delay and the steps of the playout offset, tone disabling, the codec word in effect, detections and tones, the way of the audio
from side to side and through mixers, and QOS_EVAL. What is measured on the audio comes with the seal (SideMeas).
-/

namespace Sys2Proof.Machine

/-- The kernel state of a class. -/
def State.kst (s : State) (key : Nat) : KState := Tab.get (fun _ => ({} : KState)) s.sch.kst key

/-- Sets the kernel state of a class. -/
def State.setKst (s : State) (key : Nat) (k : KState) : State :=
  { s with sch := { s.sch with kst := Tab.set (fun _ => ({} : KState)) s.sch.kst key k } }

/-- The record of a bundle. -/
def State.bundle (s : State) (b : Nat) : Bundle := Tab.get (fun _ => ({} : Bundle)) s.sch.bundles b

/-- One side of a kernel state. -/
def KState.side (k : KState) (i : Nat) : KSide := k.sides.getD i {}

/-- Sets one side. -/
def KState.setSide (k : KState) (i : Nat) (x : KSide) : KState := { k with sides := setAt (k.sides ++ List.replicate (2 - k.sides.length) {}) i x }

/-! ## The words of a parameter block (R216) -/

/-- The words of side x of a parameter block: codec, canceller, jitter buffer and tone. -/
def codecWord (d : List Byte) (x : Nat) : Nat := leAt d (0x10 + 4 * x) 4
def ecWord (d : List Byte) (x : Nat) : Nat := leAt d (0x18 + 4 * x) 4
def jbWord (d : List Byte) (x : Nat) : Nat := leAt d (0x20 + 4 * x) 4
def toneWord (d : List Byte) (x : Nat) : Nat := leAt d (0x28 + 2 * x) 2

/-- Is a type code a library type? -/
def libType (t : Nat) : Bool := decide (1 ≤ t) && decide (t ≤ 6)

/-- The codec of a side (R209, R210): 0 G.711, 1 G.722, 2 AMR-WB, 3 Opus, 4 EVS. -/
def sideCodec (typ side : Nat) : Nat :=
  match typ, side with
  | 3, 0 => 1 | 4, 0 => 2 | 5, 0 => 3 | 6, 0 => 4 | 6, 1 => 2 | _, _ => 0

/-- Has a side a canceller (R220)? -/
def hasEc (typ side : Nat) : Bool := typ == 1 || typ == 2 || ((typ == 3 || typ == 4) && side == 1)

/-- The position of the class that makes the audio transmitted on a side (R209 to R211). Marks: DEDUCED safe (log entry 343). -/
def txPos (typ side : Nat) : Nat :=
  match typ, side with
  | 3, k => k | 4, k => k | 5, 0 => 2 | 5, _ => 3 | 6, 0 => 2 | 6, _ => 4 | _, _ => 0

/-! ## Frames (R228, R229, R239) -/

/-- How far timestamp b lies after a, of 32 bits. -/
def tsGap (a b : Nat) : Int := signedOf 32 (toBits 32 (Int.ofNat b - Int.ofNat a))

/-- Does a span cover a timestamp? -/
def Span.covers (x : Span) (t : Nat) : Bool := decide (0 ≤ tsGap x.ts t) && decide (tsGap x.ts t < Int.ofNat x.len)

/-- What a packet received on a side holds, recognised by its payload type (R239): a G.711 or G.722 packet covers as many timestamps as bytes, an
event its own duration, an unconfigured packet the packet time of its side. Marks: DEDUCED safe (log entry 344). -/
def packetSpan (d : List Byte) (side k : Nat) (p : JPkt) : Span :=
  let codec := sideCodec (leAt d 0 1) side
  let bytes := codec :: p.payload.map (·.toNat)
  if p.pt = leAt d (0xE + side) 1 then
    (if codec ≤ 1 then ⟨p.ts, p.payload.length, .media, p.payload⟩
     else ⟨p.ts, Config.mediaFrames bytes * k, if Config.isComfort bytes then .comfort else .media, p.payload⟩)
  else if p.pt = leAt d (0x34 + side) 1 then ⟨p.ts, max k (beAt p.payload 2 2), .event (leAt p.payload 0 1), p.payload⟩
  else if codec ≤ 1 ∧ p.pt = leAt d (0x36 + side) 1 then ⟨p.ts, k, .comfort, p.payload⟩
  else ⟨p.ts, leAt d (0xC + side) 1 * k / 5, .bad, []⟩

/-- What covers a slot (R228): an event or media before comfort noise before an unconfigured packet; none where nothing does. -/
def coverOf (l : List Span) (t : Nat) : Option Span :=
  let c := l.filter fun x => x.covers t
  (c.find? fun x => match x.kind with | .event _ => true | _ => false) <|> (c.find? fun x => x.kind == .media) <|> (c.find? fun x => x.kind == .comfort) <|> c.head?

/-- The r-th frame of a run of lost frames (R229): full level for 10 ms, then falling linearly to silence at PLC_MAX × 10 ms, then comfort noise; in
voiceband data mode silence. -/
def concealFrame (r plcMax : Nat) (vbd : Bool) : Frame5 :=
  let t := 5 * (r - 1)
  let top := 10 * plcMax
  if vbd then .silence else if t < 10 then .repeated 1 1 else if t < top then .repeated (top - t) (top - 10) else .noise

/-- A lost frame is concealed. -/
def KSide.conceal (x : KSide) (plcMax : Nat) (vbd : Bool) : KSide :=
  { x with run := x.run + 1, last := some (concealFrame (x.run + 1) plcMax vbd) }

/-- A frame is played that is not concealed. -/
def KSide.playFrame (x : KSide) (f : Frame5) (dtx : Bool) : KSide := { x with run := 0, last := some f, dtx := dtx }

/-- A side plays the frame of a slot by what covers it; answers how many frames are concealed and how many have an unconfigured payload type
(R219, R228, R235). Comfort noise goes on until the next packet. Received DTMF events are played and suppress detection for 200 ms; other events are not
played (R239). Marks: DEDUCED safe (log entry 344). -/
def KSide.frame (x : KSide) (c : Option SpanKind) (plcMax : Nat) (vbd : Bool) : KSide × Nat × Nat :=
  match c with
  | some .media => (x.playFrame (.media (x.run != 0 && !vbd)) false, 0, 0)
  | some .comfort => (x.playFrame .comfort true, 0, 0)
  | some (.event e) =>
    if e ≤ 15 then ({ x.playFrame (.event e) false with suppress := 41 }, 0, 0) else (x.playFrame .silence false, 0, 0)
  | some .bad => (x.conceal plcMax vbd, 1, 1)
  | none => if x.dtx then (x.playFrame .comfort true, 0, 0) else (x.conceal plcMax vbd, 1, 0)

/-! ## Delay (R236, R237) -/

/-- J in ms (R236): the 95th percentile of how late the last 200 packets of a stream came, beside the earliest of them. Marks: DEDUCED unsafe (log entry 380). -/
def Stream.jitter (x : Stream) (hz : Nat) : Nat :=
  match x.devs with
  | [] => 0
  | a :: l =>
    let lo := l.foldl min a
    let enough (v : Int) : Bool := decide (95 * x.devs.length ≤ 100 * (x.devs.filter fun d => decide (d ≤ v)).length)
    let hi := x.devs.foldl max a
    let v := (x.devs.filter enough).foldl min hi
    (roundDiv ((v - lo) * 1000) (Int.ofNat (max hz 1))).toNat

/-- The target delay in ms (R236): J + 5 ms within D_MIN and D_MAX, D_INIT while FIXED is set. -/
def targetDelay (w jitter : Nat) : Nat :=
  if bitAt w 31 then 5 * bitField w 8 8 else max (5 * bitField w 0 8) (min (5 * bitField w 16 8) (jitter + 5))

/-- The step a kernel makes (R236): −1 lowers O by K where the target exceeds the delay by 5 ms or more, at most once in 4 slots, and 1 raises it
where the delay exceeds the target so, at most once in 20; none in voiceband data mode, or while the stream has no O. Under FIXED the target is D_INIT (R233). -/
def KSide.step (x : KSide) (target delay : Nat) (vbd hasO : Bool) : Int :=
  if vbd || !hasO then 0
  else if delay + 5 ≤ target ∧ 4 ≤ x.low then -1
  else if target + 5 ≤ delay ∧ 20 ≤ x.high then 1 else 0

/-- The slots since each kind of step, after a step and k slots. -/
def KSide.stepped (x : KSide) (a : Int) (k : Nat) : KSide :=
  { x with low := if a = -1 then 1 else min 20 (x.low + k), high := if a = 1 then 1 else min 20 (x.high + k) }

/-! ## The canceller (R219, R220, R224, R225) -/

/-- EC_STATE (R219): 0 off, 1 converging, 2 converged, 3 disabled by tone, 4 frozen. -/
def ecState (w disabled : Nat) (converged : Bool) : Nat :=
  if ¬ bitAt w 0 then 0 else if disabled ≠ 0 then 3 else if bitAt w 4 then 4 else if converged then 2 else 1

/-- The NLP mode in effect: off while disabled (R225), mode 1 while the tail ring fills (R224), else as configured. -/
def nlpMode (w disabled : Nat) (hold : Bool) : Nat :=
  let c := bitField w 2 2
  if disabled ≠ 0 ∨ ¬ bitAt w 0 then 0 else if hold ∧ c ≠ 0 then 1 else c

/-- Does the canceller adapt: on, not frozen, and not disabled by a tone with phase reversals (R220, R225)? -/
def ecAdapts (w disabled : Nat) : Bool := bitAt w 0 && !bitAt w 4 && disabled != 2

/-! ## Codecs and detections (R227, R238, R239, R242) -/

/-- The codec word in effect at release n, k releases after the last one that left state (R227): a new one from the first 20 ms frame of the codec, four
releases, and at once for G.711 and G.722, which have no such frame. Marks: DEDUCED safe (log entry 345). -/
def codecNow (old : Option Nat) (w codec n k : Nat) : Nat :=
  match old with
  | none => w
  | some c => if codec ≤ 1 ∨ 4 ≤ k ∨ (List.range k).any (fun j => (n + 4 - j % 4) % 4 == 1) then w else c

/-- The detector that reports an event code (R238, R242), by the RFC 4733 and RFC 4734 codes; 7 for none. Marks: PRESUMED safe (log entry 346). -/
def detectorOf (c : Nat) : Nat :=
  if c < 16 then 0 else if c = 32 ∨ c = 33 then 1 else if c = 34 ∨ c = 35 then 2 else if 37 ≤ c ∧ c ≤ 40 then 3 else if c = 36 then 4
  else if 128 ≤ c ∧ c < 144 then 5 else 7

/-- A call-progress definition of a polder; none where it is not VALID. -/
def State.cpDef (s : State) (p i : Nat) : Option (List Byte) :=
  let d := Tab.get (fun _ => ([] : List Byte)) s.sch.cpDefs (16 * p + i)
  if bitAt (leAt d 5 1) 0 then some d else none

/-- The signals a side detects: of detectors TONE_X enables, DTMF while it is not suppressed, call progress by a VALID definition that has been in effect
since the cadence began (R238, R239, R241). `start` is the Tide time of the release. -/
def State.detected (s : State) (p w suppress start : Nat) (l : List Signal) : List Signal :=
  l.filter fun g =>
    let c := g.code
    decide (detectorOf c < 7) && bitAt w (detectorOf c) && (decide (16 ≤ c) || suppress == 0)
      && (decide (c < 128) || decide (Tab.get (fun _ => 0) s.sch.cpFrom (16 * p + (c - 128)) + g.ms * 1000000 * unitNs ≤ start + 5000000 * unitNs))
      && reportedSignal g (if c < 128 then none else s.cpDef p (c - 128))

/-- A Tide time quantised to 125 µs (R242). -/
def by125 (t : Nat) : Nat := t / (125000 * unitNs) * (125000 * unitNs)

/-- An event notice (R242): the channel handle, the side, the code, whether it is the end, the start time, and on the end notice the duration in
ms. Marks: DESIGN CHOICE safe (log entry 347). -/
def eventNotice (handle side code start : Nat) (dur : Option Nat) : List Byte :=
  leBytes 8 handle ++ leBytes 1 side ++ leBytes 1 code ++ leBytes 1 (b2n dur.isSome) ++ leBytes 1 0 ++ leBytes 6 (start / unitSec)
    ++ leBytes 4 (start % unitSec / unitNs) ++ leBytes 4 (dur.getD 0)

/-- The notices of a side's detections, codes with the ms they have lasted at the end of the release's frame: one for each code that begins and one for
each that ends, with the times at which it began and ended (R242); and the events that go on. Marks: DEDUCED unsafe (log entry 381). -/
def eventsOf (handle side start : Nat) (old codes : List (Nat × Nat)) : List (List Byte) × List (Nat × Nat) :=
  let ms := 1000000 * unitNs
  let started := (codes.filter fun c => !(old.any fun e => e.1 == c.1)).map fun c => (c.1, start + 5 * ms - c.2 * ms)
  let ended := old.filter fun e => !(codes.any fun c => c.1 == e.1)
  (ended.map (fun e => eventNotice handle side e.1 (by125 e.2) (some ((start - e.2) / ms))) ++
     started.map (fun e => eventNotice handle side e.1 (by125 e.2) none),
   (old.filter fun e => codes.any fun c => c.1 == e.1) ++ started)

/-! ## One release of a library kernel -/

/-- The received streams of a class: those of its channel that it consumes, with their ports (R255, R633). -/
def State.received (s : State) (cls : Nat) : List (Nat × Nat) :=
  let k := s.klass cls
  match k.owner with
  | .bundle _ => []
  | .chan c =>
    let x := s.chan c
    if k.defer then []
    else (if (s.sideClock x 0).2 = k.pos then [(leAt x.params 4 4, 8)] else [])
      ++ (if (s.sideClock x 1).2 = k.pos ∧ leAt x.params 3 1 = 0 then [(leAt x.params 8 4, 9)] else [])

/-- The queue items a work unit has taken that carry data. -/
def State.inputItems (s : State) (wu : Nat) (w : WU) : List QItem :=
  w.taken.flatMap fun e => (s.queue e.1).items.filter fun i => i.id == e.2 && i.taken == some wu && !i.gap && !i.poison

/-- The positions through which the audio received on a side goes, from the class that consumes it to the class that transmits it (R209 to R211). -/
def hops (typ side : Nat) : List Nat :=
  match typ, side with
  | 3, 0 => [0, 1] | 3, _ => [1, 0] | 4, 0 => [0, 1] | 4, _ => [1, 0] | 5, 0 => [0, 3] | 5, _ => [3, 1, 2] | 6, 0 => [0, 4] | 6, _ => [3, 1, 2] | _, _ => [0]

/-- The position after one on the way of a side's audio. -/
def nextHop (typ side pos : Nat) : Option Nat := ((hops typ side).dropWhile fun k => k != pos)[1]?

/-- TAGs of the items that classes of a channel pass to one another (R211): audio received on a side, the digits to be sent as events on the other
side, a codec mode request for a side, the residual of the long-tail side, and a tail partition's estimate. Marks: DESIGN CHOICE safe (log entry 379). -/
def tagAudio (side : Nat) : Nat := side
def tagDigits (side : Nat) : Nat := 16 + side
def tagCmr (side : Nat) : Nat := 32 + side
def tagResidual : Nat := 48
def tagEstimate (part : Nat) : Nat := 64 + part

/-- The long-tail side of a type 0x02 channel, with its TAIL (R220, R222). -/
def longSide (d : List Byte) : Nat × Nat :=
  let n (x : Nat) := bitField (ecWord d x) 8 4
  if 1 < n 1 then (1, n 1) else (0, n 0)

/-- What a kernel reads and makes of one side in a release of its class: also the frames it hands on, the last residual, and the digits to be relayed. -/
structure SideRun where
  side : KSide
  sealed : SideSeal
  notices : List (List Byte)
  audio : List (List Int)
  residual : List Int

/-- A frame of a side goes through its canceller and its gain. -/
def KSide.forward (x : KSide) (d : List Byte) (typ side disabled : Nat) (tail : List Int) : KSide × List Int × List Int :=
  let r := if hasEc typ side then x.cancel (ecWord d side) disabled tail x.audio else (x, x.audio, x.audio)
  (r.1, r.2.1, gained (leAt d (0x2C + side) 1) r.2.2)

/-- The codec modes that a received AMR-WB payload asks the other end for (R226): 15 asks for none. -/
def cmrOf (codec : Nat) (old : Option Nat) (data : List Byte) : Option Nat :=
  let c := leAt data 0 1 / 16
  if codec ≠ 2 ∨ data = [] then old else if c ≤ 8 then some c else if c = 15 then none else old

/-- A library kernel consumes one side of its channel: release n of the class, k releases after the one whose state it finds (R218). `hold` says that the
tail ring of the side is still filling (R224), `tail` are the estimates of its partitions, `mix` is the bundle's mix, where one was taken. A side whose
member does not flow is silent (R246). Marks: DEDUCED safe (log entry 344), DESIGN CHOICE safe (log entry 137). -/
def State.runSide (s : State) (c wu : Nat) (w : WU) (side k : Nat) (hold : Bool) (x : KSide) (tail : List Int) (mix : Option (List Byte)) (m : SideMeas) : SideRun :=
  let ch := s.chan c
  let d := w.params.getD ch.params
  let codec := sideCodec ch.typ side
  let hz := (s.sideClock ch side).1
  let kk := hz * 5 / 1000
  let i := if side = 0 then leAt d 4 4 else leAt d 8 4
  let y := s.strm i
  let o := w.os.getD side (none, 0)
  let vbd := ch.vbd.getD side false
  let plc := leAt d 0x2E 1
  let bun := side == 1 && leAt d 3 1 == 1
  let t := (o.1.getD 0 + w.n * kk) % 2 ^ 32
  let new := (y.buf.filter fun p => p.taken == some wu && p.deliver && !p.poison).map (packetSpan d side kk)
  let spans := x.spans ++ new
  let cover : Option Span := if bun then mix.map fun b => ⟨t, kk, .media, b⟩ else coverOf spans t
  let ahead := (y.buf.filter fun p => p.taken.isNone && p.pt == leAt d (0xE + side) 1).foldl
    (fun (a : Option JPkt) p => match a with | some q => if tsGap q.ts p.ts < 0 then some p else a | none => some p) none
  let h : Heard := { codec := codec, law := b2n (bitAt (leAt d 2 1) side), word := x.codec.getD 0, data := (cover.map (·.data)).getD [],
                     at' := (cover.map fun z => (tsGap z.ts t).toNat / max kk 1).getD 0, next := ahead.map (·.payload) }
  let ec := ecWord d side
  let dis := if bitAt ec 1 then ch.disabled.getD side 0 else 0
  let x00 := { x with adapts := hasEc ch.typ side && ecAdapts ec dis, nlp := if hasEc ch.typ side then nlpMode ec dis hold else 0 }
  let pre := (List.range (k - 1)).foldl (fun (a : KSide × List (List Int)) _ =>
    let z := a.1.conceal plc vbd
    let r := (z.hear { h with next := none } (z.last.getD .silence)).forward d ch.typ side dis []
    (r.1, a.2 ++ [r.2.2])) (x00, [])
  let x0 := pre.1
  let quiet := bun && mix.isNone && ((w.flows.filter fun e => e.2.2 == .chan c).isEmpty || x0.last == none || (x0.last == some .silence && x0.run == 0))
  let f := if quiet then (x0.playFrame .silence false, 0, 0) else x0.frame (cover.map (·.kind)) plc vbd
  let jb := jbWord d side
  let target := targetDelay jb (y.jitter hz)
  let a := if bun then 0 else x0.step target y.delay vbd o.1.isSome
  let tw := toneWord d side
  let found := s.detected ch.polder tw f.1.suppress w.start m.signals
  let told := match cover with
    | some z => (match z.kind with
      | .event e => if 32 ≤ e ∧ e ≤ 40 then [(e, (tsGap z.ts t).toNat * 1000 / max hz 1 + 5)] else []
      | _ => [])
    | none => []
  let codes := (found.map fun g => (g.code, g.ms)).filter (fun g => !(told.any fun e => e.1 == g.1)) ++ told
  let ev := eventsOf (s.handleOf 2 ch.polder c) side w.start x.events codes
  let digits := (found.map (·.code)).filter fun e => e < 16
  let mode := bitField tw 8 2
  let det := (found.foldl (fun v g => v ||| 2 ^ detectorOf g.code) (if m.silent then 2 ^ 6 else 0)) &&& (tw % 128)
  let last := if mode = 1 ∧ digits ≠ [] then some .removed else f.1.last
  let x1 := { f.1.stepped a k with
    spans := spans.filter fun z => decide (tsGap t z.ts + Int.ofNat z.len > Int.ofNat kk), events := ev.2, suppress := f.1.suppress - k,
    relayed := if mode = 0 then [] else digits, last := last,
    cmr := cmrOf codec f.1.cmr (if cover.map (fun z : Span => z.kind) = some SpanKind.media ∧ ¬ bun then h.data else []) }
  let x2 := if bun ∧ mix.isSome ∧ last ≠ some .removed then { x1 with audio := resample (frameLen codec) (pcmOf 80 h.data) } else x1.hear h (last.getD .silence)
  let r := x2.forward d ch.typ side dis tail
  let dist := m.signals.filter disablingSignal
  { side := r.1, notices := ev.1, audio := pre.2 ++ [r.2.2], residual := r.2.1,
    sealed := { erl := m.erl, erle := m.erle, ecState := if hasEc ch.typ side then ecState ec dis (r.1.converged m.converged) else 0, tone := det, target := target,
                adjust := a, oSets := o.2, concealed := f.2.1 + (k - 1) + (if a = -1 then 1 else 0), badPt := f.2.2,
                disables := if dist = [] then 0 else if dist.any (·.reversal) then 2 else 1, quiet := m.quiet, vbd := bitAt det 1 || bitAt det 3 } }

/-- The stamp of a tail ring: EPOCH and STONEID (R224). -/
def State.ringStamp (s : State) (n : Nat) : Nat × Nat := (s.fget F.MILL_ROLE_EPOCH (n / 16), n)

/-- The releases for which a tail ring holds no 384 ms of reference yet (R224): 77 of 5 ms. -/
def ringFull : Nat := 77

/-- What a release of a library kernel leaves: its kernel state, what it seals for each side, its event notices, its output entries, and the bytes it
writes to the tail ring. -/
structure KernelRun where
  kst : KState
  sides : List (Option SideSeal)
  notices : List (List Byte)
  outs : List KOut := []
  ring : List (Nat × Byte) := []

/-- What a side of a channel transmits by (R209, R216, R326): its payload types and packet time; port 11 for side A, port 10 for side B. -/
def State.sender (s : State) (ch : Chan) (d : List Byte) (side : Nat) (x : KSide) : Sender :=
  let hz := (s.sideClock ch side).1
  { codec := sideCodec ch.typ side, law := b2n (bitAt (leAt d 2 1) side), word := x.codec.getD 0, per := max 1 (leAt d (0xC + side) 1 / 5), units := hz * 5 / 1000,
    pt := leAt d (0xE + side) 1, tev := leAt d (0x34 + side) 1, cn := leAt d (0x36 + side) 1, port := if side = 0 then 11 else 10 }

/-- Has the stream that a side transmits network egress (R256): BA of KIND 1 or 3 on side A, AB of KIND 1 on side B? -/
def State.sends (s : State) (d : List Byte) (side : Nat) : Bool :=
  let k := (s.strm (leAt d (if side = 0 then 8 else 4) 4)).kind
  k == 1 || (side == 0 && k == 3)

/-- A side transmits the frames of a release: into its bundle (R245), 5 ms of 16 kHz for its member's slot, or as packets and events on the network. -/
def State.sendSide (s : State) (ch : Chan) (d : List Byte) (w : WU) (c side : Nat) (x : KSide) (l : List (List Int)) (digits : List Nat) : KSide × List KOut :=
  let snd := s.sender ch d side x
  let l1 := l.map (resample (frameLen snd.codec))
  if side = 1 ∧ leAt d 3 1 = 1 then
    let r := x.play snd.codec x.ts (l1.getLastD [])
    (r.1, ((w.flows.filter fun e => e.2.2 == .chan c).take 1).map fun e => { port := 13, tag := e.2.1, data := pcmBytes (resample 80 r.2) })
  else
    let r := x.transmitAll snd x.ts l1
    let e := r.1.sendEvents snd x.ts digits
    (e.1, if s.sends d side then r.2 ++ e.2 else [])

/-- A release of EC_TAIL (R222, R224): partition `pos` of the long-tail side makes its estimate for the next release and adapts on the residual of the
previous one. -/
def State.runTail (s : State) (c : Nat) (kl : Klass) (w : WU) (its : List QItem) (st : KState) : KernelRun :=
  let ch := s.chan c
  let d := w.params.getD ch.params
  let long := longSide d
  let ec := ecWord d long.1
  let dis := if bitAt ec 1 then ch.disabled.getD long.1 0 else 0
  let ring := if st.ring < ringFull then none else some (ringRead (s.stone w.stone).dm (leAt d 1 1) w.n)
  let res := ((its.find? fun i => i.tag == tagResidual).map fun i => pcmOf 40 i.data).getD (List.replicate 40 0)
  let r := (st.side 0).tail kl.pos (ecAdapts ec dis) ring res
  ⟨st.setSide 0 r.1, [none, none], [], if r.2 = [] then [] else [{ port := 0, tag := tagEstimate kl.pos, data := pcmBytes r.2 }], []⟩

/-- A release of a class of a library channel: the sides it consumes, then the frames of each side that come to it, on their way to the next class or
transmitted on the other side. -/
def State.runChannel (s : State) (c wu : Nat) (kl : Klass) (w : WU) (k : Nat) (its : List QItem) (st : KState) (meas : List SideMeas) : KernelRun :=
  let ch := s.chan c
  let d := w.params.getD ch.params
  let long := longSide d
  let mix := (its.find? fun i => i.port == 12).map (·.data)
  let tails := if ch.typ = 2 then (its.filter fun i => decide (64 ≤ i.tag) && i.port == 0).map (fun i => pcmOf 40 i.data) else []
  let base (side : Nat) (x : KSide) : KSide :=
    let kk := (s.sideClock ch side).1 * 5 / 1000
    let x1 := { x with codec := some (codecNow x.codec (codecWord d side) (sideCodec ch.typ side) w.n k) }
    if txPos ch.typ side = kl.pos then
      { x1 with ts := if st.stamp = none then ((Config.dsp .start [[Int.ofNat wu, Int.ofNat side]]).headD 0).toNat % 2 ^ 32 else (x1.ts + k * kk) % 2 ^ 32, plays := w.tones.getD side none, cmr := ((its.find? fun i => i.tag == tagCmr side && i.port == kl.pos).map fun i => (if leAt i.data 0 1 ≤ 8 then some (leAt i.data 0 1) else none)).getD x1.cmr }
    else x1
  let st1 := [0, 1].foldl (fun (q : KState) side => q.setSide side (base side (q.side side))) st
  let rx (side : Nat) : Option SideRun :=
    if (s.sideClock ch side).2 ≠ kl.pos then none
    else
      let isLong := ch.typ == 2 && long.1 == side
      some (s.runSide c wu w side k (isLong && decide (st.ring < ringFull)) (st1.side side)
        (if isLong ∧ tails ≠ [] then tails.foldl addFrames (List.replicate 40 0) else []) mix (meas.getD side {}))
  let runs := [0, 1].map rx
  let st2 := [0, 1].foldl (fun (q : KState) side => match runs.getD side none with | some r => q.setSide side r.side | none => q) st1
  let lost (side : Nat) : List Int := frameOf (frameLen (sideCodec ch.typ side)) (Config.dsp .conceal [(st2.side side).enc, [Int.ofNat (sideCodec ch.typ side)], []])
  let one (acc : KernelRun) (side : Nat) : KernelRun :=
    let run := runs.getD side none
    let item := its.find? fun i => i.tag == tagAudio side && i.port == kl.pos
    let final := (hops ch.typ side).getLastD 0
    let digits := match run with
      | some r => r.side.relayed
      | none => ((its.find? fun i => i.tag == tagDigits side && i.port == kl.pos).map fun i => i.data.map (·.toNat)).getD []
    let relay : List KOut := match run with
      | some r => (if final ≠ kl.pos ∧ r.side.relayed ≠ [] then [{ port := final, tag := tagDigits side, data := r.side.relayed.map (BitVec.ofNat 8 ·) }] else [])
          ++ (if txPos ch.typ side ≠ kl.pos ∧ sideCodec ch.typ side = 2 then [{ port := txPos ch.typ side, tag := tagCmr side, data := leBytes 1 (r.side.cmr.getD 15) }] else [])
      | none => []
    if ¬ (hops ch.typ side).contains kl.pos then acc
    else match nextHop ch.typ side kl.pos with
      | some p =>
        let data := match run with
          | some r => pcmBytes (resample 80 (r.audio.getLastD []))
          | none => (item.map fun i => i.data.take 160 ++ intBytes (Config.dsp .analyse [bytesInt i.data])).getD []
        { acc with outs := acc.outs ++ relay ++ (if data = [] then [] else [{ port := p, tag := tagAudio side, data := data }]) }
      | none =>
        let dst := 1 - side
        let x := acc.kst.side dst
        let x' := match item with | some i => { x with enc := Config.dspState .analyse [x.enc, bytesInt (i.data.drop 160)] } | none => x
        let l := match run with
          | some r => r.audio
          | none => List.replicate (k - 1) (lost dst) ++ [(item.map fun i => pcmOf 80 i.data).getD (lost dst)]
        let r := s.sendSide ch d w c dst x' l digits
        { acc with kst := acc.kst.setSide dst r.1, outs := acc.outs ++ relay ++ r.2 }
  let tailOuts : List KOut := match runs.getD long.1 none with
    | some r => if ch.typ = 2 then (List.range (long.2 - 1)).map fun p => { port := p + 1, tag := tagResidual, data := pcmBytes r.residual } else []
    | none => []
  let ring := if ch.typ = 2 then ringWrites (leAt d 1 1) w.n (b2n (bitAt (leAt d 2 1) long.1)) (st.side long.1).refOut else []
  [0, 1].foldl one ⟨st2, runs.map fun r => r.map (·.sealed), (runs.flatMap fun r => r.toList).flatMap (·.notices), tailOuts, ring⟩

/-! ## Mixers (R244, R245) -/

/-- The segments of a bundle: the members of each group of 16 slots that has any. -/
def segments (m : Tab Owner) : List Nat :=
  ((List.range 64).map fun g => (m.filter fun e => e.1 / 16 == g).length).filter fun n => n != 0

/-- The classes of each level of a bundle with n segments: the segments, then the joins of each level (R244). -/
def mixLevels : Nat → Nat → List Nat
  | 0, n => [n]
  | fuel + 1, n => if n ≤ 1 then [n] else n :: mixLevels fuel (ceilDiv n 7)

/-- The join above input i of n, and which of its inputs that is: the joins' input counts differ by at most one. -/
def joinOf (n i : Nat) : Nat × Nat :=
  let j := max 1 (ceilDiv n 7)
  let a := n / j
  let big := n % j * (a + 1)
  if i < big then (i / (a + 1), i % (a + 1)) else (n % j + (i - big) / max a 1, (i - big) % max a 1)

/-- The class above a mixer class, by their places in the bundle's list of classes, and which input of it that is; none for the last. Marks: DEDUCED safe (log entry 354). -/
def mixAbove : List Nat → Nat → Option (Nat × Nat)
  | n :: m :: l, i => if i < n then some (n + (joinOf n i).1, (joinOf n i).2) else (mixAbove (m :: l) (i - n)).map fun e => (n + e.1, e.2)
  | _, _ => none

/-- The levels of a bundle, and the class that gives an input of a join. -/
def Bundle.levels (b : Bundle) : List Nat := mixLevels 4 (segments b.members).length
def Bundle.below (b : Bundle) (i j : Nat) : Option Nat := (List.range b.classes.length).find? fun k => mixAbove b.levels k == some (i, j)

/-- The TAG of a mix from the bundle above, beside the slots of the members. Marks: DESIGN CHOICE safe (log entry 379). -/
def tagAbove : Nat := 1024

/-- The sum of the frames of all tags but one. -/
def sumBut (l : List (Nat × List Int)) (slot : Nat) : List Int :=
  (l.filter fun e => e.1 != slot).foldl (fun a e => addFrames a e.2) (List.replicate 80 0)

/-- A release of MIX_SEG or MIX_JOIN (R245): the frames of the speakers go up from segment to join, join to join, and down again with the mix of the bundle
above; each member gets the sum of the speakers other than itself and that mix, the bundle above the sum of the speakers. Ports: 0 is the class above, 1 to 7
the inputs below. Marks: DEDUCED safe (log entry 354). -/
def State.runMix (s : State) (b key : Nat) (w : WU) (its : List QItem) (st : KState) : KernelRun :=
  let x := s.bundle b
  let i := x.classes.idxOf key
  let frames (p : QItem → Bool) : List (Nat × List Int) := (its.filter p).map fun q => (q.tag, pcmOf 80 q.data)
  let up := (frames fun q => decide (q.tag < 1024) && (q.port == 12 || decide (1 ≤ q.port ∧ q.port ≤ 7))).filter fun e => x.speak.contains e.1
  let top := (mixAbove x.levels i).isNone
  let parent := ((frames fun q => decide (1024 ≤ q.tag) && q.port == 12).take 1).map fun e => (tagAbove, e.2)
  let mix := if top then up ++ parent else frames fun q => q.port == 0
  let item (port : Nat) (e : Nat × List Int) : KOut := { port := port, tag := e.1, data := pcmBytes e.2 }
  let mine := (w.flows.filter fun e => e.1 == b && e.2.2 != .bundle b).filter fun e => (s.klass key).lib == 15 && (s.klass key).pos == e.2.1 / 16
  let above := if top then ((w.flows.filter fun e => e.2.2 == .bundle b).take 1).map fun e => item 13 (1024 + e.2.1, sumBut up 1025) else up.map (item 0)
  let below := if (s.klass key).lib = 15 then mine.map fun e => item 13 (e.2.1, sumBut mix e.2.1)
    else (List.range 7).flatMap fun j => if (x.below i j).isSome then mix.map (item (j + 1)) else []
  ⟨st, [], [], above ++ below, []⟩

/-- A release of a library kernel's class (R218): a difference of k > 1 in the release count means that k − 1 releases left no state. Marks: DESIGN CHOICE
safe (log entry 137). -/
def State.runKernel (s : State) (key wu : Nat) (w : WU) (meas : List SideMeas) : KernelRun :=
  let kl := s.klass key
  let st := s.kst key
  let k := max 1 ((w.n + 65536 - st.count) % 65536)
  let stamp := s.ringStamp w.stone
  let ring := if st.stamp = some stamp then min ringFull (st.ring + k) else 0
  let st1 := { st with count := w.n % 65536, stamp := some stamp, ring := ring }
  let its := s.inputItems wu w
  match kl.owner with
  | .bundle b => s.runMix b key w its st1
  | .chan c =>
    if kl.lib = 17 then ⟨st1, [none, none], [], [], []⟩
    else if kl.lib = 1 then s.runTail c kl w its st1
    else
      let r := s.runChannel c wu kl w k its { st1 with stamp := st.stamp } meas
      { r with kst := { r.kst with stamp := some stamp } }

/-- The library kernel writes its outputs to the window's I/O area (R254, R255): the directory from 0x100, OUTCOUNT, and the data from 0x200, and its ring
bytes outside the windows. Marks: DESIGN CHOICE safe (log entry 379). -/
def KernelRun.write (r : KernelRun) (dm : Tab Byte) (io : Nat) : Tab Byte :=
  let one (a : Tab Byte × Nat × Nat) (e : KOut) : Tab Byte × Nat × Nat :=
    let w0 := a.2.2 + e.data.length * 2 ^ 12 + e.port * 2 ^ 24 + b2n e.gap * 2 ^ 28 + b2n e.mark * 2 ^ 29
    (memPut (memWrite (memWrite a.1 (io + 0x100 + 8 * a.2.1) 4 w0) (io + 0x104 + 8 * a.2.1) 4 e.tag) (io + a.2.2) e.data, a.2.1 + 1,
     a.2.2 + 4 * ceilDiv e.data.length 4)
  let outs := (r.outs.foldl (fun (l : List KOut × Nat) e => if l.2 + 4 * ceilDiv e.data.length 4 ≤ 0x1000 then (l.1 ++ [e], l.2 + 4 * ceilDiv e.data.length 4) else l) ([], 0x200)).1.take 31
  r.ring.foldl (fun m e => memSet m e.1 e.2) (memWrite (outs.foldl one (dm, 0, 0x200)).1 (io + 0x1FC) 4 outs.length)

/-! ## QOS_EVAL (R214) -/

/-- The packets expected from a stream and those lost or discarded as late so far: words 15 and 8 (R315), which a duplicate changes by −1 and 1. -/
def Stream.lossBase (x : Stream) : Nat × Nat :=
  match x.h with
  | none => (0, 0)
  | some h => ((h + 1 + 2 ^ 32 - x.h0) % 2 ^ 32, (x.cnt 15 + x.cnt 8) % 2 ^ 32)

/-- LOSS, JITTER and RATING of one side over the packets since the counts of the last evaluation (R214): LOSS in 0.01 %, a free value where no packet
was expected; JITTER in 0.1 ms. Marks: DESIGN CHOICE safe (log entry 348). -/
def State.evalSide (s : State) (ch : Chan) (side : Nat) (base : Nat × Nat) : State × List Nat :=
  let x := s.strm (if side = 0 then leAt ch.params 4 4 else leAt ch.params 8 4)
  let now := x.lossBase
  let exp := (now.1 + 2 ^ 32 - base.1) % 2 ^ 32
  let lost := signedOf 32 (toBits 32 (Int.ofNat now.2 - Int.ofNat base.2))
  let r := if exp = 0 then let f := s.takeFree; (f.2, f.1.toNat % 10001)
    else (s, min 10000 (roundDiv (max lost 0 * 10000) (Int.ofNat exp)).toNat)
  let jit := min 65535 (roundDiv (Int.ofNat (x.cnt 14 * 10000)) (Int.ofNat (s.sideClock ch side).1)).toNat
  (r.1, [r.2, jit, Config.rating [sideCodec ch.typ side, codecWord ch.params side, x.delay, r.2, x.rtt, b2n (x.rtt != 0)] % 65536])

/-- A release of QOS_EVAL: the results of both sides and the counts the next evaluation starts from. -/
def State.evalQos (s : State) (c : Nat) : State × List Nat × List (Nat × Nat) :=
  let ch := s.chan c
  let a := s.evalSide ch 0 (ch.evalBase.getD 0 (0, 0))
  let b := a.1.evalSide ch 1 (ch.evalBase.getD 1 (0, 0))
  (b.1, a.2 ++ b.2, [leAt ch.params 4 4, leAt ch.params 8 4].map fun i => (s.strm i).lossBase)

end Sys2Proof.Machine
end

