-- ==== Sys2Proof/Machine/Stone.lean ====
section
/-!
DEFINITION. The stones of a mill (spec file 03): how a syllable issues, the bundle it closes, program faults, the effects of
every syllable with the exposed pipeline of R108, loops, the end of a work unit, interrupts and the debug halt.
-/

namespace Sys2Proof.Machine

/-! ## Reading a stone -/

/-- The context whose code runs: context 3 in a handler, else the RUNNING one. -/
def Stone.active (x : Stone) : Option Nat := if x.handler then some 3 else x.running

/-- SR as code reads it (R103). -/
def Stone.srOf (x : Stone) (c : Nat) : Nat := (x.cx c).sr + c * 16 + (if c = 3 ∧ x.handler then 4 else 0)

/-- STONE_STAT.STATE (R157). -/
def Stone.stateCode (x : Stone) : Nat :=
  if x.halted then 3 else if x.handler then 2 else if x.running.isSome then 1 else 0

/-- Does a stone run a work unit or a handler (R148)? -/
def Stone.busy (x : Stone) : Bool := x.handler || x.running.isSome

/-- MILL_STAT.BUSY (R148). -/
def State.millBusy (s : State) (m : Nat) : Nat :=
  ((List.range 16).map fun k => if (s.stone (16 * m + k)).busy then 2 ^ k else 0).foldl (· + ·) 0

/-- Is some stone of a mill halted (R148)? -/
def State.millHalted (s : State) (m : Nat) : Bool := (List.range 16).any fun k => (s.stone (16 * m + k)).halted

/-- The code of a context state (R157). -/
def CtxState.code : CtxState → Nat
  | .free => 0 | .staged => 1 | .running => 2 | .draining => 3

/-- The doorbell vector (R128, R252): that of the image the running class or, on an idle stone, the last one came from; none where no class has
run, and none for a BVEC of 0, which no handler stands at (R247): the doorbell stays pending. Marks: DEDUCED unsafe (log entry 362). -/
def Stone.bellVec (x : Stone) : Option Nat :=
  let v := match x.running with
    | some c => (x.cx c).bvec
    | none => x.lastBvec.getD 0
  if v = 0 then none else some v

/-- A doorbell would be taken (R131): enabled bits pending, no handler, DBIE of the running context or an idle stone, and a vector. -/
def Stone.dbReady (x : Stone) : Bool :=
  (x.dbpend &&& x.dbmask) != 0 && !x.handler && x.bellVec.isSome &&
    match x.running with
    | some c => bitAt (x.cx c).sr 8
    | none => true

/-! ## Results in flight (R108) -/

/-- Lands one result. An MTSR SR lands as a whole over what a clamp of its bundle has set (R103), and a clear of doorbell bits leaves those that have
arrived since the last bundle (R131). Marks: DEDUCED safe (log entry 112), DESIGN CHOICE unsafe (log entry 368). -/
def Stone.land (x : Stone) (p : Pend) : Stone :=
  let c := x.cx p.ctx
  match p.dst with
  | .d r => x.setCx p.ctx { c with d := regSet c.d r (BitVec.ofNat 32 p.val) }
  | .a r => x.setCx p.ctx { c with a := regSet c.a r (BitVec.ofNat 32 p.val) }
  | .cb r => x.setCx p.ctx { c with cb := regSet c.cb r (BitVec.ofNat 32 p.val) }
  | .cl r => x.setCx p.ctx { c with cl := regSet c.cl r (BitVec.ofNat 32 p.val) }
  | .acc n => x.setCx p.ctx { c with acc := accSet c.acc n (BitVec.ofNat 72 p.val) }
  | .sr => x.setCx p.ctx { c with sr := p.val }
  | .epc => { x with epc := p.val }
  | .dbmask => { x with dbmask := p.val }
  | .dbclear => { x with dbpend := x.dbpend &&& ((p.val ^^^ 0xFF) ||| x.dbNew) }

/-- Lands, in order of issue, every result readable by bundle t. -/
def Stone.landBy (x : Stone) (t : Nat) : Stone :=
  (x.inflight.filter fun p => decide (p.due ≤ t)).foldl Stone.land
    { x with inflight := x.inflight.filter fun p => !decide (p.due ≤ t) }

/-- The drain of R127: every result in flight lands. -/
def Stone.drain (x : Stone) : Stone := x.inflight.foldl Stone.land { x with inflight := [] }

/-- Puts a result in flight, readable k bundles after the one that issues. Marks: DEDUCED safe (log entry 112). -/
def Stone.pend (x : Stone) (k c : Nat) (dst : PDst) (v : Nat) : Stone :=
  { x with inflight := x.inflight ++ [⟨x.now + k, c, dst, v⟩] }

/-- Doorbell bits arrive at a stone (R131). -/
def Stone.ring (x : Stone) (bits : Nat) : Stone := { x with dbpend := x.dbpend ||| bits, dbNew := x.dbNew ||| bits }

/-- Changes a stone. -/
def State.upStone (s : State) (n : Nat) (f : Stone → Stone) : State := s.setStone n (f (s.stone n))

/-- Sets SAT and AOVF of a context where an operation clamped or an accumulator saturated. Marks: DEDUCED unsafe (log entry 108). -/
def Stone.flag (x : Stone) (c : Nat) (sat aovf : Bool) : Stone :=
  let y := x.cx c
  x.setCx c { y with sr := srAovf (srSat y.sr sat) aovf }

/-- Writes an accumulator: seen at once by a following accumulation, and k bundles later by ACCRD, ACCMOV and ACCSH. -/
def Stone.putAcc (x : Stone) (k c n : Nat) (v : Int) : Stone :=
  let y := x.cx c
  (x.setCx c { y with accF := accSet y.accF n (accOf v) }).pend k c (.acc n) (accOf v).toNat

/-! ## Starting and ending work units (R124, R125, R635) -/

/-- The stone goes to its next staged context, where it has none running, no handler and no halt. LDEPTH starts at 0 (R102). -/
def Stone.startNext (x : Stone) : Stone :=
  if x.running.isSome || x.handler || x.halted then x
  else
    match x.staged with
    | [] => x
    | c :: rest =>
      let y := x.cx c
      { x.setCx c { y with st := .running } with running := some c, staged := rest, lastBvec := some y.bvec,
                                                    lastFvec := y.fvec, ldepth := 0, ticks := 0 }

/-- Has a context an outstanding far access? -/
def Stone.farOf (x : Stone) (c : Nat) : Bool := x.far.any fun f => f.ctx == c

/-- The running work unit ends with a status (none for END): its results land, its context drains until its far accesses are
acknowledged, its Bolter job is abandoned (R273), and the stone goes on. A doorbell pending on the idle stone comes first. Faults raised and not
yet taken end with the unit. Marks: DEDUCED unsafe (log entry 340). -/
def State.endUnit (s : State) (n : Nat) (status : Option Nat) : State :=
  let x := (s.stone n).drain
  match x.running with
  | none => s.setStone n { x with handler := false, ldepth := 0, bundle := [], held := false, macPass := false, halfBank := [], faults := [] }.startNext
  | some c =>
    let y := x.cx c
    let x1 := x.setCx c { y with st := if x.farOf c then .draining else .free }
    let x2 := { x1 with running := none, handler := false, ldepth := 0, bundle := [], held := false, macPass := false, halfBank := [], faults := [],
                        ended := x1.ended ++ [(⟨y.wu, c, y.win, status, false⟩ : EndedWU)] }
    let m := n / 16
    let mi := s.mill m
    (s.setStone n (if x2.dbReady then x2 else x2.startNext)).setMill m
      { mi with jobs := mi.jobs.filter fun j => j.stone != n % 16 }

/-! ## Faults of a bundle (R105, R106, R130) -/

/-- Does the bundle at a PC end an active loop level? -/
def Stone.endsLoop (x : Stone) (pc : Nat) : Bool :=
  (List.range x.ldepth).any fun l => Tab.get (fun _ => 0) x.le l == pc

/-- Syllables an instruction bundle that ends a loop level must not hold (R122). -/
def isControl : Syl → Bool
  | .br .. | .call .. | .ret | .loop .. | .endU | .endf .. | .reti => true
  | _ => false

/-- The fault of one syllable before anything of its bundle takes effect: cause and EADDR. Within one syllable the lower
cause code is reported. A LOOP of level 3, which there is not, ends with LOOP as any other that is not LDEPTH. Marks: DEDUCED unsafe (log entry 100). -/
def sylFault (s : State) (n c slot : Nat) (y : Syl) : Option (Nat × Nat) :=
  let x := s.stone n
  let cx := x.cx c
  if sylIllegal slot c y || (slot == 2 && x.macPass && y != .nop) then some (1, 0)
  else
    match y with
    | .mem op _ m =>
      let ea := effAddr cx m
      if isNear op && decide (0x10000 < ea + memReach op) then some (2, ea)
      else if isNear op && ea % memSize op != 0 then some (3, ea)
      else
        match (if isFar op then s.farFault (n / 16) ea (memSize op) (op == .stfW || op == .stfD) else none) with
        | some (6, a) => if circFault cx m then some (4, ea) else some (6, a)
        | some f => some f
        | none => if circFault cx m then some (4, ea) else none
    | .amo _ _ an => s.farFault (n / 16) (cx.ar an).toNat 4 true
    | .loop lvl .. => if lvl ≠ x.ldepth ∨ 2 < lvl ∨ x.endsLoop cx.pc then some (5, 0) else none
    | y => if isControl y && x.endsLoop cx.pc then some (5, 0) else none

/-- The fault of a bundle: a fetch beyond the kernel area, else the fault of the lowest slot that has one; the second of two
slots that write one address register is illegal (R105). Marks: DEDUCED unsafe (log entry 101). -/
def bundleFault (s : State) (n c : Nat) (b : List (Nat × Syl)) : Option (Nat × Nat) :=
  let cx := (s.stone n).cx c
  if s.karea (n / 16) ≤ cx.pc then some (9, cx.pc)
  else
    (List.range 4).findSome? fun k =>
      match b.find? fun e => e.1 == k with
      | none => none
      | some (_, y) =>
        match sylFault s n c k y with
        | some f => some f
        | none =>
          match addrReg cx y with
          | some r => if b.any (fun e => decide (e.1 < k) && addrReg cx e.2 == some r) then some (1, 0) else none
          | none => none

/-! ## Effects of syllables -/

/-- A special register as MFSR reads it (R144). In context 3, WUID is that of the work unit the handler interrupted, on whose behalf it runs (R267,
R635), and context 3's own 0 where it interrupted none. Marks: DEDUCED unsafe (log entry 110). -/
def sregRead (s : State) (n c idx : Nat) : Nat :=
  let x := s.stone n
  match idx with
  | 0 => x.srOf c
  | 1 => x.epc
  | 2 => x.ecause
  | 3 => x.eaddr
  | 4 => (x.cx (if x.handler then x.running.getD c else c)).wuid
  | 5 => n
  | 6 => s.turn (n / 640) % 2 ^ 32
  | 7 => x.dbpend
  | 8 => x.dbmask
  | _ => s.fget F.MILL_ROLE_EPOCH (n / 16)

/-- The words of the loop image in order (R123). -/
def Stone.loopImage (x : Stone) : List Nat :=
  let g (t : Tab Nat) (l : Nat) := Tab.get (fun _ => 0) t l
  [g x.lc 0, g x.ls 0, g x.le 0, g x.lc 1, g x.ls 1, g x.le 1, g x.lc 2, g x.ls 2, g x.le 2, x.ldepth]

/-- Restores the loop state from an image of words (R123). Marks: DEDUCED unsafe (log entry 107). -/
def Stone.loadLoops (x : Stone) (w : List Nat) : Stone :=
  let p (t : Tab Nat) (l v : Nat) := Tab.set (fun _ => 0) t l v
  { x with
    lc := p (p (p x.lc 0 (w.getD 0 0 % 65536)) 1 (w.getD 3 0 % 65536)) 2 (w.getD 6 0 % 65536),
    ls := p (p (p x.ls 0 (w.getD 1 0)) 1 (w.getD 4 0)) 2 (w.getD 7 0),
    le := p (p (p x.le 0 (w.getD 2 0)) 1 (w.getD 5 0)) 2 (w.getD 8 0),
    ldepth := w.getD 9 0 % 4 }

/-- Writes words of four bytes upwards. -/
def putWord32s (dm : Tab Byte) (a : Nat) : List Nat → Tab Byte
  | [] => dm
  | v :: vs => putWord32s (memWrite dm a 4 v) (a + 4) vs

/-- The doorway of a window (R254, R267). -/
def doorway (win : Nat) : Nat := win + 0x41F8

/-- The effect of a MEM-format syllable, its access first and its address update beside it; `x0` is the stone before the
bundle, whose registers and memory are read. -/
def memEffect (x0 : Stone) (n c : Nat) (op : MemOp) (rd : Nat) (m : Amode) (s : State) : State :=
  let cx := x0.cx c
  let ea := effAddr cx m
  let v := (cx.dr rd).toNat
  let upd := match addrUpdate cx m with
    | some a => s.upStone n (·.pend 1 c (.a (m.an % 16)) a)
    | none => s
  let far (k : FarKind) := upd.upStone n fun x => { x with far := x.far ++ [⟨c, rd % 32, ea, k, 0⟩] }
  match op with
  | .ldW => upd.upStone n (·.pend 2 c (.d (rd % 32)) (memRead x0.dm ea 4))
  | .ldH => upd.upStone n (·.pend 2 c (.d (rd % 32)) (toBits 32 (signedOf 16 (memRead x0.dm ea 2))))
  | .ldHU => upd.upStone n (·.pend 2 c (.d (rd % 32)) (memRead x0.dm ea 2))
  | .ldD => upd.upStone n fun x =>
      (x.pend 2 c (.d (rd % 32)) (memRead x0.dm ea 4)).pend 2 c (.d ((rd + 1) % 32)) (memRead x0.dm (ea + 4) 4)
  | .stW =>
    match x0.running with
    | some u =>
      if ea = doorway (x0.cx u).win then upd.boltSubmit n (x0.cx u).win v
      else upd.upStone n fun x => { x with dm := memWrite x.dm ea 4 v }
    | none => upd.upStone n fun x => { x with dm := memWrite x.dm ea 4 v }
  | .stH => upd.upStone n fun x => { x with dm := memWrite x.dm ea 2 (v % 65536) }
  | .stD => upd.upStone n fun x => { x with dm := memWrite x.dm ea 8 (cx.pair rd) }
  | .ldfW => far (.load false)
  | .ldfD => far (.load true)
  | .stfW => far (.store 4 v)
  | .stfD => far (.store 8 (cx.pair rd))
  | .lea => upd
  | .lsave => s.upStone n fun x => { x with dm := putWord32s x.dm ea x0.loopImage }
  | .lrest => s.upStone n fun x => x.loadLoops ((List.range 10).map fun i => memRead x0.dm (ea + 4 * i) 4)

/-- The accumulation of a MAC-slot product's terms (R111 to R113). -/
def macEffect (x0 : Stone) (k c : Nat) (overwrite : Bool) (terms : List AccAdd × Bool) (x : Stone) : Stone :=
  let cx := x0.cx c
  terms.1.foldl
    (fun y t =>
      let r := clampS 72 ((if overwrite then 0 else accInt (accGet cx.accF t.acc)) + t.val)
      (y.putAcc k c t.acc r.1).flag c false r.2)
    (x.flag c terms.2 false)

/-- The effect of a syllable on the state of its bundle (R111 to R116, R121 to R125, R141 to R144). Control transfers are
settled after all slots. -/
def sylEffect (s0 : State) (n c : Nat) (y : Syl) (s : State) : State :=
  let x0 := s0.stone n
  let cx := x0.cx c
  let alu (rd v : Nat) := s.upStone n (·.pend 1 c (.d (rd % 32)) v)
  match y with
  | .mem op rd m => memEffect x0 n c op rd m s
  | .amo f rd an =>
    s.upStone n fun x =>
      { x with far := x.far ++
        [⟨c, rd % 32, (cx.ar an).toNat, .amo f (cx.dr rd).toNat (cx.dr (rd + 1)).toNat, 0⟩] }
  | .mova ra rs => s.upStone n (·.pend 1 c (.a (ra % 16)) (cx.dr rs).toNat)
  | .movd rd ra => alu rd (cx.ar ra).toNat
  | .movc len k rs => s.upStone n (·.pend 1 c (if len then .cl (k % 8) else .cb (k % 8)) (cx.dr rs).toNat)
  | .mac op k da db sub frac neg =>
    match op with
    | .mac4 => s.upStone n (macEffect x0 3 c false (mac4Terms k sub frac neg (cx.dr da) (cx.dr db)))
    | .mul4 => s.upStone n (macEffect x0 3 c true (mac4Terms k sub frac neg (cx.dr da) (cx.dr db)))
    | .mac32 => s.upStone n
        (macEffect x0 4 c false (mac32Terms k sub frac neg (cx.dr da) (cx.dr (da + 1)) (cx.dr db) (cx.dr (db + 1))))
    | .mul32 => s.upStone n
        (macEffect x0 4 c true (mac32Terms k sub frac neg (cx.dr da) (cx.dr (da + 1)) (cx.dr db) (cx.dr (db + 1))))
  | .accrd k rd sh rnd w =>
    let r := accrdVal (accGet cx.acc k) sh rnd w
    s.upStone n fun x => (x.pend 3 c (.d (rd % 32)) (toBits 32 r.1)).flag c r.2 false
  | .accclr mask =>
    s.upStone n fun x => (List.range 4).foldl (fun y k => if bitAt mask k then y.putAcc 3 c k 0 else y) x
  | .accmov k m => s.upStone n (·.putAcc 3 c k (accInt (accGet cx.acc m)))
  | .accsh k sh =>
    let r := accshVal (accGet cx.acc k) sh
    s.upStone n fun x => (x.putAcc 3 c k r.1).flag c false r.2
  | .accld k rs sh =>
    let r := accldVal (cx.dr rs) sh
    s.upStone n fun x => (x.putAcc 3 c k r.1).flag c false r.2
  | .alu f rd rs rt =>
    let r := aluVal f (cx.dr rd) (cx.dr rs) (cx.dr rt)
    s.upStone n fun x => (x.pend 1 c (.d (rd % 32)) r.1.toNat).flag c r.2 false
  | .addi rd rs imm => alu rd (toBits 32 ((cx.dr rs).toInt + signedOf 16 imm))
  | .movi rd imm => alu rd (toBits 32 (signedOf 16 imm))
  | .movhi rd imm => alu rd (imm % 65536 * 65536 + (cx.dr rd).toNat % 65536)
  | .andi rd rs imm => alu rd ((cx.dr rs).toNat &&& (imm % 65536))
  | .call _ => s.upStone n (·.pend 1 c (.a 15) ((cx.pc + 16) % 2 ^ 32))
  | .mfsr rd idx => alu rd (sregRead s0 n c (idx % 256))
  | .mtsr rs idx =>
    let v := (cx.dr rs).toNat
    match idx % 256 with
    | 0 => s.upStone n (·.pend 2 c .sr (v &&& 0x103))
    | 1 => s.upStone n (·.pend 2 c .epc v)
    | 7 => s.upStone n (·.pend 2 c .dbclear (v % 256))
    | _ => s.upStone n (·.pend 2 c .dbmask (v % 256))
  | .dbell rs =>
    let v := (cx.dr rs).toNat
    s.upStone (n / 16 * 16 + v % 16) (·.ring (bitField v 8 8))
  | .nop | .bad | .fence | .br .. | .ret | .loop .. | .endU | .endf .. | .reti => s

/-! ## Loops and control (R121, R122, R125, R128, R140) -/

/-- A PC from a value code, a loop image or the window gives: a multiple of 16 (R100), so bits 3:0 are dropped. Marks: DEDUCED unsafe (log entry 338). -/
def pcOf (v : Nat) : Nat := v % 2 ^ 32 / 16 * 16

/-- At a loop end, the innermost level is counted first and a spent level is removed (R122): the stone and the next PC. Marks: DEDUCED unsafe (log entry 338). -/
def loopEnd : Nat → Stone → Nat → Stone × Nat
  | 0, x, pc => (x, pc + 16)
  | k + 1, x, pc =>
    if x.ldepth = 0 then (x, pc + 16)
    else
      let l := x.ldepth - 1
      let cnt := Tab.get (fun _ => 0) x.lc l
      if Tab.get (fun _ => 0) x.le l = pc then
        if 1 < cnt then
          ({ x with lc := Tab.set (fun _ => 0) x.lc l (cnt - 1) }, pcOf (Tab.get (fun _ => 0) x.ls l))
        else loopEnd k { x with lc := Tab.set (fun _ => 0) x.lc l 0, ldepth := l } pc
      else (x, pc + 16)

/-- A taken branch removes the levels whose body does not hold its target, from the innermost outwards (R122). -/
def loopLeave : Nat → Stone → Nat → Stone
  | 0, x, _ => x
  | k + 1, x, tgt =>
    if x.ldepth = 0 then x
    else
      let l := x.ldepth - 1
      if Tab.get (fun _ => 0) x.ls l ≤ tgt ∧ tgt ≤ Tab.get (fun _ => 0) x.le l then x
      else loopLeave k { x with ldepth := l } tgt

/-- LOOP (R121): the body is the len bundles that follow; a count of zero skips it, and an outer level that ends with that body is neither counted
nor removed. Marks: DEDUCED unsafe (log entry 107). -/
def startLoop (x : Stone) (pc lvl cnt len : Nat) : Stone × Nat :=
  if cnt = 0 then (x, pc + 16 * (len + 1))
  else
    ({ x with lc := Tab.set (fun _ => 0) x.lc lvl cnt, ls := Tab.set (fun _ => 0) x.ls lvl (pc + 16),
              le := Tab.set (fun _ => 0) x.le lvl (pc + 16 * len), ldepth := lvl + 1 }, pc + 16)

/-- Where control goes after the bundle's slot 3 syllable, read from the stone before the bundle. -/
def nextPc (x0 : Stone) (c : Nat) (y : Syl) (x : Stone) : Stone × Nat :=
  let cx := x0.cx c
  let pc := cx.pc
  match y with
  | .br cond rs disp =>
    if condTaken cond (cx.dr rs) then (loopLeave 3 x (brTarget pc disp), brTarget pc disp) else loopEnd 3 x pc
  | .call disp => (loopLeave 3 x (brTarget pc disp), brTarget pc disp)
  | .ret => (x, pcOf (cx.ar 15).toNat)
  | .loop lvl byReg rs count len => startLoop x pc lvl (if byReg then (cx.dr rs).toNat % 65536 else count) len
  | _ => loopEnd 3 x pc

/-- RETI (R128): back to the interrupted context at EPC, or idle with 0xFFFF_FFFF, or on to a staged context. Where a handler has written that EPC
over the one of an interrupted unit, the unit's context drains with no ended entry: no rule seals it. Marks: DEDUCED unsafe (log entry 110). -/
def Stone.reti (x : Stone) : Stone :=
  let y := { x.drain with handler := false, macPass := false, halfBank := [] }
  match y.running with
  | some c =>
    if y.epc = 0xFFFFFFFF then { y.setCx c { y.cx c with st := .draining } with running := none }.startNext
    else y.setCx c { y.cx c with pc := pcOf y.epc }
  | none => y.startNext

/-! ## Taking a program fault (R127 to R130) -/

/-- Records a program fault of a stone (R130, R156, R159). -/
def State.recordFault (s : State) (n cause wuid : Nat) : State :=
  let m := n / 16
  let s1 := s.wr T.mill m (0x10C + 16 * (n % 16)) (2 ^ 31 + wuid % 65536 * 256 + cause)
  let s2 := if s1.fbit F.MILL_PFAULT_VALID m then s1 else s1.wr T.mill m 0x74 (2 ^ 31 + n % 16 * 65536 + cause)
  s2.raise T.mill m I.MILL_PFAULT

/-- The handler starts in context 3 at a vector (R127). Marks: DESIGN CHOICE safe (log entry 105). -/
def Stone.enter (x : Stone) (vec epc ecause eaddr : Nat) : Stone :=
  let y := { x.drain with handler := true, epc := epc, ecause := ecause, eaddr := eaddr, bundle := [], held := false, macPass := false, halfBank := [] }
  y.setCx 3 { y.cx 3 with pc := vec }

/-- The next bundle a stone would issue outside a handler: that of its running context, or on an idle stone none (R128). -/
def Stone.resumePc (x : Stone) : Nat :=
  match x.running with
  | some c => (x.cx c).pc
  | none => 0xFFFFFFFF

/-- A program fault is taken (R127 to R129): into the handler at FVEC, of the last class's image where the stone is idle; without one the work
unit ends as ENDF with the cause; raised in a handler it is DOUBLE, which abandons the handler and ends the interrupted unit. A BUS_ERROR of a
context that drains is the fault of the unit that runs as it is taken. Marks: DEDUCED unsafe (log entry 340). -/
def takeFault (n : Nat) (f : PFault) (s : State) : State :=
  let x := { s.stone n with faults := (s.stone n).faults.erase f }
  let u := x.running.map x.cx
  let wuid := (u.map (·.wuid)).getD 0
  if f.inh then
    let y := { x.drain.setCx 3 { sr := 0 } with epc := 0, ecause := 0, eaddr := 0, handler := false }
    ((s.setStone n y).recordFault n 8 wuid).endUnit n (some 8)
  else
    let s1 := (s.setStone n x).recordFault n f.cause wuid
    let vec := (u.map (·.fvec)).getD x.lastFvec
    let epc := if f.cause = 7 then x.resumePc else f.epc
    if vec ≠ 0 then s1.upStone n (·.enter vec epc f.cause f.eaddr)
    else if u.isSome then s1.endUnit n (some f.cause)
    else s1.upStone n fun y => { y with bundle := [], held := false }.startNext

/-- The first pending program fault of a stone that may be taken: one raised before its handler began waits for the handler's end (R129).
Marks: DEDUCED unsafe (log entry 340). -/
def Stone.nextFault (x : Stone) : Option PFault := x.faults.find? fun f => f.inh || !x.handler

/-- The first pending program fault of a stone is taken, where it has one. -/
def takePending (n : Nat) (s : State) : State :=
  match (s.stone n).nextFault with
  | some f => takeFault n f s
  | none => s

/-! ## A bundle -/

/-- The data memory bank a near access uses (R133). -/
def bankOf (cx : Ctx) : Syl → Option Nat
  | .mem op _ m => if isNear op then some (effAddr cx m / 0x8000) else none
  | _ => none

/-- The wait events of a bundle's near accesses (R133, R134): both slots on one bank, a bank busy with a half store of the
bundle before, a bank the hopper or the Bolter has taken (R275). -/
def bankWaits (x : Stone) (cx : Ctx) (b : List (Nat × Syl)) : Nat :=
  let bs := b.filterMap fun e => bankOf cx e.2
  b2n (bs.length == 2 && bs[0]? == bs[1]?)
    + b2n (bs.any x.halfBank.contains) + b2n (bs.any x.takenBank.contains)

/-- The banks a bundle's half stores keep busy. -/
def halfStoreBanks (cx : Ctx) (b : List (Nat × Syl)) : List Nat :=
  b.filterMap fun e => match e.2 with
    | .mem .stH _ m => some (effAddr cx m / 0x8000)
    | _ => none

/-- Counts wait events and issued bundles while CNT_EN is 1 (R147, R151). Marks: DEDUCED unsafe (log entry 103). -/
def State.countWaits (s : State) (m k : Nat) : State :=
  if s.fbit F.MILL_CTRL_CNT_EN m && k != 0 then s.cinc C.MILL_WAITS m k else s

/-- Counts an issued instruction bundle (R151). -/
def State.countBundle (s : State) (m : Nat) : State :=
  if s.fbit F.MILL_CTRL_CNT_EN m then s.cinc C.MILL_IBUNDLES m else s

/-- The syllable of a slot: NOP where none was given. -/
def slotOf (b : List (Nat × Syl)) (k : Nat) : Syl :=
  match b.find? fun e => e.1 == k with
  | some e => e.2
  | none => .nop

/-- The destination registers of an outstanding far load or AMO (R109). -/
def farDest (f : FarAcc) : List Nat :=
  match f.kind with
  | .load true => [f.rd, (f.rd + 1) % 32]
  | .load false | .amo .. => [f.rd]
  | .store .. => []

/-- Does the bundle wait for a register of its context that a far access will write (R109)? Marks: DEDUCED unsafe (log entry 103). -/
def scoreboardWaits (x : Stone) (c : Nat) (b : List (Nat × Syl)) : Bool :=
  let regs := (b.flatMap fun e => sylRegs e.2).map (· % 32)
  x.far.any fun f => f.ctx == c && (farDest f).any regs.contains

/-- Does it wait at a FENCE for every far access (R136)? -/
def fenceWaits (x : Stone) (b : List (Nat × Syl)) : Bool := b.any (fun e => e.2 == .fence) && !x.far.isEmpty

/-- The state after a bundle's slots have taken effect and control has moved on; END, ENDF and RETI act last. A stepped stone halts again,
which raises HALTED (R132, R146). -/
def finishBundle (s0 : State) (n c : Nat) (b : List (Nat × Syl)) (s : State) : State :=
  let x0 := s0.stone n
  let y := slotOf b 3
  let r := nextPc x0 c y (s.stone n)
  let x1 := r.1
  let x2 := x1.setCx c { x1.cx c with pc := r.2 % 2 ^ 32 }
  let x3 := { x2 with now := x2.now + 1, bundle := [], held := false, takenBank := [],
                      halfBank := halfStoreBanks (x0.cx c) b,
                      macPass := b.any fun e => match e.2 with
                        | .mac .mac32 .. | .mac .mul32 .. => true
                        | _ => false }
  let x4 := { x3.landBy x3.now with dbNew := 0 }
  let s1 := if x4.stepping then (s.setStone n { x4.drain with stepping := false }).raise T.mill (n / 16) I.MILL_HALTED else s.setStone n x4
  match y with
  | .endU => s1.endUnit n none
  | .endf rs => s1.endUnit n (some (((x0.cx c).dr rs).toNat % 256))
  | .reti => s1.upStone n Stone.reti
  | _ => s1

/-- A closed bundle issues: a program fault leaves every slot without effect and stops the stone for INTERRUPT_ENTRY, or on a stepped stone,
which halts again, is taken at once, before the halt (R127, R132); else the slots take effect in ascending order. Marks: DEDUCED unsafe (log entry 339). -/
def runBundle (n c : Nat) (s : State) : State :=
  let x := s.stone n
  let b := x.bundle
  match bundleFault s n c b with
  | some (cause, ea) =>
    let s1 := s.setStone n { x with bundle := [], held := false, stepping := false,
                                    faults := x.faults ++ [⟨cause, ea, (x.cx c).pc, x.handler⟩] }
    if x.stepping then (takePending n s1).raise T.mill (n / 16) I.MILL_HALTED else s1
  | none =>
    let m := n / 16
    let s1 := (List.range 4).foldl (fun t k => sylEffect s n c (slotOf b k) t) s
    ((finishBundle s n c b s1).countBundle m).countWaits m (bankWaits x (x.cx c) b)

/-- A closed bundle issues, or waits; a scoreboard wait is counted once (R109, R151). Marks: DEDUCED safe (log entry 102), DEDUCED unsafe (log entry 103). -/
def tryBundle (n : Nat) (s : State) : State :=
  let x := s.stone n
  let c := x.active.getD 0
  if scoreboardWaits x c x.bundle then (s.setStone n { x with held := true }).countWaits (n / 16) (b2n (!x.held))
  else if fenceWaits x x.bundle then s.setStone n { x with held := true }
  else runBundle n c s

/-- Can a stone issue a syllable? -/
def State.canIssue (s : State) (n : Nat) : Bool :=
  let x := s.stone n
  x.active.isSome && (!x.halted || x.stepping) && x.nextFault.isNone && !x.held && !(s.mill (n / 16)).stopped

/-- One syllable issues: it joins its bundle, and the last one closes it. An uncorrectable error or a residue mismatch in
its unit is a hardware fault of the mill (R116, R126, R138). Marks: DEDUCED safe (log entry 102). -/
def issue (i : Issue) (y : Syl) (s : State) : State :=
  let n := 16 * i.mill + i.stone
  let x := s.stone n
  if !s.canIssue n then s
  else if i.check = 2 then s.hwFault i.mill (if i.slot = 2 then 0x10 else 0x11)
  else
    let s1 := if i.check = 1 then s.millCorrected i.mill else s
    let s2 := s1.setStone n { x with bundle := x.bundle ++ [(i.slot, y)] }
    if i.last then tryBundle n s2 else s2

/-! ## The syllables of slots 0 and 1 (R141) -/

/-- NOP (R104, R105): the all-zero syllable; any other word of this row is decoded in its slot, and a reserved one is
ILLEGAL_OP. -/
def execNop (i : Issue) (word : Nat) (s : State) : Res := .next (issue i (decodeSyl i.slot word) s)
/-- LD.W. -/
def execLdW (i : Issue) (rd : Nat) (am : Amode) (s : State) : Res := .next (issue i (.mem .ldW rd am) s)
/-- LD.H. -/
def execLdH (i : Issue) (rd : Nat) (am : Amode) (s : State) : Res := .next (issue i (.mem .ldH rd am) s)
/-- LD.HU. -/
def execLdHu (i : Issue) (rd : Nat) (am : Amode) (s : State) : Res := .next (issue i (.mem .ldHU rd am) s)
/-- LD.D. -/
def execLdD (i : Issue) (rd : Nat) (am : Amode) (s : State) : Res := .next (issue i (.mem .ldD rd am) s)
/-- ST.W; at the doorway of the work unit's window it submits a Bolter job (R267). -/
def execStW (i : Issue) (rd : Nat) (am : Amode) (s : State) : Res := .next (issue i (.mem .stW rd am) s)
/-- ST.H (R133). -/
def execStH (i : Issue) (rd : Nat) (am : Amode) (s : State) : Res := .next (issue i (.mem .stH rd am) s)
/-- ST.D. -/
def execStD (i : Issue) (rd : Nat) (am : Amode) (s : State) : Res := .next (issue i (.mem .stD rd am) s)
/-- LDF.W. -/
def execLdfW (i : Issue) (rd : Nat) (am : Amode) (s : State) : Res := .next (issue i (.mem .ldfW rd am) s)
/-- LDF.D. -/
def execLdfD (i : Issue) (rd : Nat) (am : Amode) (s : State) : Res := .next (issue i (.mem .ldfD rd am) s)
/-- STF.W. -/
def execStfW (i : Issue) (rd : Nat) (am : Amode) (s : State) : Res := .next (issue i (.mem .stfW rd am) s)
/-- STF.D. -/
def execStfD (i : Issue) (rd : Nat) (am : Amode) (s : State) : Res := .next (issue i (.mem .stfD rd am) s)
/-- AMO ADD (R137). -/
def execAmoAdd (i : Issue) (rd an : Nat) (s : State) : Res := .next (issue i (.amo .add rd an) s)
/-- AMO SWAP (R137). -/
def execAmoSwap (i : Issue) (rd an : Nat) (s : State) : Res := .next (issue i (.amo .swap rd an) s)
/-- AMO CAS (R137). -/
def execAmoCas (i : Issue) (rd an : Nat) (s : State) : Res := .next (issue i (.amo .cas rd an) s)
/-- AMO MAX (R137). -/
def execAmoMax (i : Issue) (rd an : Nat) (s : State) : Res := .next (issue i (.amo .max rd an) s)
/-- AMO OR (R137). -/
def execAmoOr (i : Issue) (rd an : Nat) (s : State) : Res := .next (issue i (.amo .or rd an) s)
/-- LEA. -/
def execLea (i : Issue) (am : Amode) (s : State) : Res := .next (issue i (.mem .lea 0 am) s)
/-- MOVA. -/
def execMova (i : Issue) (ra rs : Nat) (s : State) : Res := .next (issue i (.mova ra rs) s)
/-- MOVD. -/
def execMovd (i : Issue) (rd ra : Nat) (s : State) : Res := .next (issue i (.movd rd ra) s)
/-- MOVC. -/
def execMovc (i : Issue) (len : Bool) (k rs : Nat) (s : State) : Res := .next (issue i (.movc len k rs) s)
/-- LSAVE (R123). -/
def execLsave (i : Issue) (am : Amode) (s : State) : Res := .next (issue i (.mem .lsave 0 am) s)
/-- LREST (R123). -/
def execLrest (i : Issue) (am : Amode) (s : State) : Res := .next (issue i (.mem .lrest 0 am) s)
/-- FENCE (R136). -/
def execFence (i : Issue) (s : State) : Res := .next (issue i .fence s)

/-! ## The syllables of slot 2 (R142) -/

/-- MAC4 (R111). -/
def execMac4 (i : Issue) (n da db sub : Nat) (frac neg : Bool) (s : State) : Res :=
  .next (issue i (.mac .mac4 n da db sub frac neg) s)
/-- MUL4 (R111). -/
def execMul4 (i : Issue) (n da db sub : Nat) (frac neg : Bool) (s : State) : Res :=
  .next (issue i (.mac .mul4 n da db sub frac neg) s)
/-- MAC32 (R112). -/
def execMac32 (i : Issue) (n da db sub : Nat) (frac neg : Bool) (s : State) : Res :=
  .next (issue i (.mac .mac32 n da db sub frac neg) s)
/-- MUL32 (R112). -/
def execMul32 (i : Issue) (n da db sub : Nat) (frac neg : Bool) (s : State) : Res :=
  .next (issue i (.mac .mul32 n da db sub frac neg) s)
/-- ACCRD (R114). -/
def execAccrd (i : Issue) (n rd sh rnd : Nat) (w : Bool) (s : State) : Res := .next (issue i (.accrd n rd sh rnd w) s)
/-- ACCCLR. -/
def execAccclr (i : Issue) (mask : Nat) (s : State) : Res := .next (issue i (.accclr mask) s)
/-- ACCMOV. -/
def execAccmov (i : Issue) (n m : Nat) (s : State) : Res := .next (issue i (.accmov n m) s)
/-- ACCSH (R114). -/
def execAccsh (i : Issue) (n sh : Nat) (s : State) : Res := .next (issue i (.accsh n sh) s)
/-- ACCLD (R114). -/
def execAccld (i : Issue) (n rs sh : Nat) (s : State) : Res := .next (issue i (.accld n rs sh) s)

/-! ## The syllables of slot 3 (R143) -/

/-- ADD. -/
def execAdd (i : Issue) (rd rs rt : Nat) (s : State) : Res := .next (issue i (.alu .add rd rs rt) s)
/-- SUB. -/
def execSub (i : Issue) (rd rs rt : Nat) (s : State) : Res := .next (issue i (.alu .sub rd rs rt) s)
/-- AND. -/
def execAndR (i : Issue) (rd rs rt : Nat) (s : State) : Res := .next (issue i (.alu .and rd rs rt) s)
/-- OR. -/
def execOrR (i : Issue) (rd rs rt : Nat) (s : State) : Res := .next (issue i (.alu .or rd rs rt) s)
/-- XOR. -/
def execXor (i : Issue) (rd rs rt : Nat) (s : State) : Res := .next (issue i (.alu .xor rd rs rt) s)
/-- SHL. -/
def execShl (i : Issue) (rd rs rt : Nat) (s : State) : Res := .next (issue i (.alu .shl rd rs rt) s)
/-- SHR. -/
def execShr (i : Issue) (rd rs rt : Nat) (s : State) : Res := .next (issue i (.alu .shr rd rs rt) s)
/-- SAR. -/
def execSar (i : Issue) (rd rs rt : Nat) (s : State) : Res := .next (issue i (.alu .sar rd rs rt) s)
/-- MIN. -/
def execMinR (i : Issue) (rd rs rt : Nat) (s : State) : Res := .next (issue i (.alu .min rd rs rt) s)
/-- MAX. -/
def execMaxR (i : Issue) (rd rs rt : Nat) (s : State) : Res := .next (issue i (.alu .max rd rs rt) s)
/-- MINU. -/
def execMinu (i : Issue) (rd rs rt : Nat) (s : State) : Res := .next (issue i (.alu .minu rd rs rt) s)
/-- MAXU. -/
def execMaxu (i : Issue) (rd rs rt : Nat) (s : State) : Res := .next (issue i (.alu .maxu rd rs rt) s)
/-- ABS. -/
def execAbsR (i : Issue) (rd rs : Nat) (s : State) : Res := .next (issue i (.alu .abs rd rs 0) s)
/-- ADDS. -/
def execAdds (i : Issue) (rd rs rt : Nat) (s : State) : Res := .next (issue i (.alu .adds rd rs rt) s)
/-- SUBS. -/
def execSubs (i : Issue) (rd rs rt : Nat) (s : State) : Res := .next (issue i (.alu .subs rd rs rt) s)
/-- ADD2S. -/
def execAdd2s (i : Issue) (rd rs rt : Nat) (s : State) : Res := .next (issue i (.alu .add2s rd rs rt) s)
/-- SUB2S. -/
def execSub2s (i : Issue) (rd rs rt : Nat) (s : State) : Res := .next (issue i (.alu .sub2s rd rs rt) s)
/-- CLZ. -/
def execClz (i : Issue) (rd rs : Nat) (s : State) : Res := .next (issue i (.alu .clz rd rs 0) s)
/-- CMPEQ. -/
def execCmpeq (i : Issue) (rd rs rt : Nat) (s : State) : Res := .next (issue i (.alu .cmpeq rd rs rt) s)
/-- CMPLT. -/
def execCmplt (i : Issue) (rd rs rt : Nat) (s : State) : Res := .next (issue i (.alu .cmplt rd rs rt) s)
/-- CMPLTU. -/
def execCmpltu (i : Issue) (rd rs rt : Nat) (s : State) : Res := .next (issue i (.alu .cmpltu rd rs rt) s)
/-- SEL. -/
def execSel (i : Issue) (rd rs rt : Nat) (s : State) : Res := .next (issue i (.alu .sel rd rs rt) s)
/-- PACK. -/
def execPack (i : Issue) (rd rs rt : Nat) (s : State) : Res := .next (issue i (.alu .pack rd rs rt) s)
/-- ADDI. -/
def execAddi (i : Issue) (rd rs imm : Nat) (s : State) : Res := .next (issue i (.addi rd rs imm) s)
/-- MOVI. -/
def execMovi (i : Issue) (rd imm : Nat) (s : State) : Res := .next (issue i (.movi rd imm) s)
/-- MOVHI. -/
def execMovhi (i : Issue) (rd imm : Nat) (s : State) : Res := .next (issue i (.movhi rd imm) s)
/-- ANDI. -/
def execAndi (i : Issue) (rd rs imm : Nat) (s : State) : Res := .next (issue i (.andi rd rs imm) s)
/-- BR (R140). -/
def execBr (i : Issue) (cond rs disp : Nat) (s : State) : Res := .next (issue i (.br cond rs disp) s)
/-- CALL. -/
def execCall (i : Issue) (disp : Nat) (s : State) : Res := .next (issue i (.call disp) s)
/-- RET. -/
def execRet (i : Issue) (s : State) : Res := .next (issue i .ret s)
/-- LOOP (R121). -/
def execLoop (i : Issue) (lvl : Nat) (byReg : Bool) (rs count len : Nat) (s : State) : Res :=
  .next (issue i (.loop lvl byReg rs count len) s)
/-- MFSR (R144). -/
def execMfsr (i : Issue) (rd idx : Nat) (s : State) : Res := .next (issue i (.mfsr rd idx) s)
/-- MTSR (R144). -/
def execMtsr (i : Issue) (rs idx : Nat) (s : State) : Res := .next (issue i (.mtsr rs idx) s)
/-- DBELL (R131). -/
def execDbell (i : Issue) (rs : Nat) (s : State) : Res := .next (issue i (.dbell rs) s)
/-- END (R125, R635). -/
def execEndU (i : Issue) (s : State) : Res := .next (issue i .endU s)
/-- ENDF (R125, R635). -/
def execEndf (i : Issue) (rs : Nat) (s : State) : Res := .next (issue i (.endf rs) s)
/-- RETI (R128). -/
def execReti (i : Issue) (s : State) : Res := .next (issue i .reti s)

/-! ## Far accesses, caches and interrupts -/

/-- The result of an AMO on a word (R137). -/
def amoResult (f : AmoFn) (old cmp v : Nat) : Nat :=
  match f with
  | .add => (old + v) % 2 ^ 32
  | .swap => v
  | .cas => if old = cmp then v else old
  | .max => if signedOf 32 old < signedOf 32 v then v else old
  | .or => old ||| v

/-- The place of the 8-byte word of a far address in its memory, the bin or the millpond. -/
def farWord (ea : Nat) : Nat := match binOffset ea with | some b => b / 8 | none => (ea - 0x10000000) / 8

/-- Reads n bytes at a far address (R99), its word as the code delivers it (R431). -/
def State.farRead (s : State) (m ea n : Nat) (up : WordUpset) : Nat :=
  match binOffset ea with
  | some b => memRead (wordView up (s.mill m).bin (farWord ea)) b n
  | none => memRead (wordView up s.pond (farWord ea)) (ea - 0x10000000) n

/-- Writes n bytes at a far address (R99). -/
def State.farWrite (s : State) (m ea n v : Nat) : State :=
  match binOffset ea with
  | some b => let x := s.mill m; s.setMill m { x with bin := memWrite x.bin b n v }
  | none => (s.pondPut (ea - 0x10000000) (leBytes n v)).1

/-- Does a far access meet a poisoned millpond word (R436, R437): a read of it, or a write of a part of it? -/
def State.farPoison (s : State) (ea : Nat) (k : FarKind) : Bool :=
  match pondOffset ea with
  | none => false
  | some o => match k with
    | .load pair => s.pondBad o (if pair then 8 else 4)
    | .amo _ _ _ => s.pondBad o 4
    | .store n v => !(s.pondPut o (leBytes n v)).2

/-- A context that drains and has no far access left is FREE (R125). -/
def Stone.freeDrained (x : Stone) : Stone :=
  (List.range 3).foldl
    (fun y c => if (y.cx c).st = .draining ∧ !y.farOf c ∧ y.running ≠ some c then y.setCx c { y.cx c with st := .free } else y) x

/-- The data of a completed far access reaches its destination: at once, in the access's own context (R127). An AMO executes at the bank of its word (R137). -/
def State.farLand (s : State) (n : Nat) (f : FarAcc) (up : WordUpset) : State :=
  let m := n / 16
  let put (t : State) (r v : Nat) := t.upStone n fun x =>
    let y := x.cx f.ctx
    x.setCx f.ctx { y with d := regSet y.d (r % 32) (BitVec.ofNat 32 v) }
  match f.kind with
  | .load false => put s f.rd (s.farRead m f.ea 4 up)
  | .load true => put (put s f.rd (s.farRead m f.ea 4 up)) (f.rd + 1) (s.farRead m (f.ea + 4) 4 up)
  | .store k v => s.farWrite m f.ea k v
  | .amo fn cmp v =>
    let old := s.farRead m f.ea 4 up
    put (s.farWrite m f.ea 4 (amoResult fn old cmp v)) f.rd old

/-- The destinations of a failed far load or AMO hold values the spec does not state: free ones. Marks: DESIGN CHOICE safe (log entry 109). -/
def State.farFree (s : State) (n : Nat) (f : FarAcc) : State :=
  (farDest f).foldl
    (fun t r =>
      let v := t.takeFree
      v.2.upStone n fun x =>
        let y := x.cx f.ctx
        x.setCx f.ctx { y with d := regSet y.d r (v.1.truncate 32) }) s

/-- A far access fails with poison or an error response (R130, R138): BUS_ERROR is raised, and its destinations are free. Its EPC is settled
when it is taken (R128). -/
def State.farFail (s : State) (n : Nat) (f : FarAcc) : State :=
  (s.farFree n f).upStone n fun y => { y with faults := y.faults ++ [⟨7, f.ea, 0, y.handler⟩] }

/-- The k-th outstanding far access of a stone is acknowledged: as an error response or poison (`fails`), or with its data. A context that was
draining for it is free, and a bundle that waited issues where it may, but on a halted stone. -/
def State.farDone (s : State) (n k : Nat) (f : FarAcc) (up : WordUpset) (fails : Bool) : State :=
  let s1 := s.upStone n fun x => { x with far := x.far.eraseIdx k }
  let s2 := (if fails then s1.farFail n f else s1.farLand n f up).upStone n Stone.freeDrained
  let y := s2.stone n
  if y.held && y.nextFault.isNone && (!y.halted || y.stepping) then tryBundle n s2 else s2

/-- The stone that a bin bank of a mill serves next: of those with a far access to the bank outstanding, the first in round robin after the one it
served last (R135). The places of the hopper and the Bolter in the round do not change the order among the stones. Marks: DEDUCED unsafe (log entry 369). -/
def State.binNext (s : State) (m b : Nat) : Option Nat :=
  ((List.range 16).map fun i => (Tab.get (fun _ => 15) (s.mill m).binTurn b + 1 + i) % 16).find? fun k =>
    (s.stone (16 * m + k)).far.any fun f => binBank f.ea == some b

/-- A bin bank has served a stone. Marks: DEDUCED unsafe (log entry 369). -/
def State.binServed (s : State) (m b k : Nat) : State :=
  s.setMill m { s.mill m with binTurn := Tab.set (fun _ => 15) (s.mill m).binTurn b k }

/-- A far access may complete as far as a bin bank's round robin decides (R135): it is to the millpond, or its stone's turn at the bank. Marks: DEDUCED unsafe (log entry 369). -/
def State.binTurnOf (s : State) (n : Nat) (f : FarAcc) : Bool :=
  match binBank f.ea with
  | some b => s.binNext (n / 16) b == some (n % 16)
  | none => true

/-- The bank of a bin access that completes has served its stone. -/
def State.binServes (s : State) (n : Nat) (f : FarAcc) : State :=
  match binBank f.ea with
  | some b => s.binServed (n / 16) b (n % 16)
  | none => s

/-- Has the directory granted what a millpond access needs (R137, R438, R439): the line in the mill's cache for a load, in M for a store, and every copy recalled for
an AMO? -/
def State.pondGranted (s : State) (m ln : Nat) (k : FarKind) : Bool :=
  match k with
  | .load _ => s.cached m ln != .i
  | .store _ _ => s.cached m ln == .m
  | .amo _ _ _ => s.dirEnt ln == {}

/-- A line leaves a mill's cache because one of its words reads uncorrectable (R430): a clean one is invalidated and fetched again, a dirty one written back poisoned. -/
def State.loseLine (s : State) (m ln : Nat) : State :=
  let s1 := if s.cached m ln = .m then s.poisonWords ln else s
  (s1.setCached m ln .i).dropHolder m ln

/-- A far access to the millpond completes, once the directory has granted it (R439): a load or store in the mill's cache (R430), an AMO at the bank (R434 to R437). -/
def State.farPond (s : State) (n k : Nat) (f : FarAcc) (up : WordUpset) : State :=
  let m := n / 16
  let w := farWord f.ea
  let ln := w / 8
  if ¬ s.pondGranted m ln f.kind then s
  else match f.kind with
    | .amo _ _ _ =>
      let t := s.pondAfter w up
      t.farDone n k f up (t.farPoison f.ea f.kind)
    | _ =>
      if wordCode up w = .bad then (if s.cached m ln = .m then (s.loseLine m ln).farDone n k f up true else s.loseLine m ln)
      else s.farDone n k f up (s.farPoison f.ea f.kind)

/-- FAR_ACCESS_COMPLETE (R130, R136, R138, R439): the k-th outstanding far access of a stone completes, in program order within a
64-byte line, as the round robin of its bin bank serves it (R135) and as the directory has granted it. A bin access corrected on the way is counted and
an uncorrectable one is a hardware fault of the mill; poison or an error response on a millpond access raises BUS_ERROR, which is not precise. -/
def execFarAccessComplete (n k : Nat) (up : WordUpset) (s : State) : Res :=
  let x := s.stone n
  if (s.mill (n / 16)).stopped then .next s else
  match x.far[k]? with
  | none => .next s
  | some f =>
    if (x.far.take k).any (fun g => g.ea / 64 == f.ea / 64) ∨ ¬ s.binTurnOf n f then .next s
    else if binOffset f.ea = none then .next (s.farPond n k f up)
    else match wordCode up (farWord f.ea) with
      | .bad => .next (s.hwFault (n / 16) 0x12)
      | .corrected _ => .next (((s.millCorrected (n / 16)).binServes n f).farDone n k f up false)
      | .ok => .next ((s.binServes n f).farDone n k f up false)

/-- ICACHE_FILL (R135, R138): a line of the kernel area is fetched into the 4-way cache, over the victim where its set is
full; after an uncorrectable error it is a refetch, counted and raised. -/
def execIcacheFill (n line victim : Nat) (uncorrectable : Bool) (s : State) : Res :=
  let m := n / 16
  if s.karea m ≤ line * 64 ∨ (s.mill m).stopped then .next s
  else
    let x := s.stone n
    let same := x.ic.filter fun e => e.1 % 128 == line % 128 && e.1 != line
    let out := if same.length < 4 then none else (same[victim % 4]?).map (·.1)
    let ic1 := match out with
      | some k => Tab.erase x.ic k
      | none => x.ic
    let s1 := s.setStone n { x with ic := Tab.set (fun _ => []) ic1 line (memBytes (s.mill m).bin (line * 64) 64) }
    if uncorrectable then
      .next ((s1.finc F.MILL_ECC_IC_REFILL m).raise T.mill m I.MILL_IC_REFILL)
    else .next (s1.countWaits m 1)

/-- INTERRUPT_ENTRY (R127, R131): a program fault first, then a doorbell, unless the stone is halted. ECAUSE and EADDR of a
doorbell are values the spec does not state: free ones. -/
def execInterruptEntry (n : Nat) (s : State) : Res :=
  let x := s.stone n
  if x.halted ∨ (s.mill (n / 16)).stopped then .next s
  else
    match x.nextFault with
    | some f => .next (takeFault n f s)
    | none =>
      match x.dbReady, x.bellVec with
      | true, some vec =>
        let v := s.takeFree
        .next (v.2.upStone n (·.enter vec x.resumePc (v.1.toNat % 256) (v.1.toNat / 256 % 2 ^ 32)))
      | _, _ => .next s

/-- HOPPER_BANK_TAKE (R134, R275): after the hopper, the Bolter or both have waited for a bank, one of them has it for one bundle; where both
wait, the one whose turn it is. The Bolter waits only while the stone has a job outstanding. Marks: DEDUCED safe (log entry 341). -/
def execHopperBankTake (n : Nat) (take : BankTake) (s : State) : Res :=
  let bank := take.bank
  let job := take.bolter && (s.mill (n / 16)).jobs.any fun j => j.stone == n % 16
  if !take.hopper && !job then .next s
  else
    .next (s.upStone n fun x =>
      let b := job && (!take.hopper || !x.bolterTook.contains bank)
      { x with takenBank := bank :: x.takenBank.erase bank,
               bolterTook := if b then bank :: x.bolterTook.erase bank else x.bolterTook.erase bank })

/-! ## Debug halt and the MILL page (R132, R147, R150, R153 to R158) -/

/-- HALT (R127, R132): a pending program fault is taken first; the in-flight results land and the stone stops. -/
def State.haltStone (s : State) (n : Nat) : State :=
  if (s.stone n).halted then s
  else
    let s1 := takePending n s
    (s1.setStone n { (s1.stone n).drain with halted := true }).raise T.mill (n / 16) I.MILL_HALTED

/-- STEP of a halted stone (R132): a pending program fault is taken, a staged context starts on an idle stone, and one bundle may issue.
Marks: DEDUCED unsafe (log entry 339). -/
def State.stepStone (s : State) (n : Nat) : State :=
  let s1 := takePending n s
  let x := s1.stone n
  let y := { { x with halted := false }.startNext with halted := true }
  let s2 := s1.setStone n { y with stepping := y.active.isSome }
  if y.held then tryBundle n s2 else s2

/-- RESUME (R132): a stone goes on, and a bundle that waited issues where it may. -/
def State.resumeStone (s : State) (n : Nat) : State :=
  let y := { s.stone n with halted := false, stepping := false }.startNext
  let s1 := s.setStone n y
  if y.held && y.nextFault.isNone then tryBundle n s1 else s1

/-- A write of STONE_CTRL (R132, R158). STEP and RESUME on a stone that is not halted have no effect. Marks: DEDUCED unsafe (log entry 339). -/
def State.stoneCtrlWrite (s : State) (fn addr m k v : Nat) : State :=
  let n := 16 * m + k
  let x := s.stone n
  let w := v % 8
  if !s.debugUnlocked || !(w == 0 || w == 1 || w == 2 || w == 4) then
    (s.fset F.MILL_WIN_STAT_DENIED m 1).logErr T.mill m 5 fn addr v
  else
    match w with
    | 1 => s.haltStone n
    | 2 => if x.halted then s.stepStone n else s
    | 4 => if x.halted then s.resumeStone n else s
    | _ => s

/-- Invalidates every instruction cache of a mill. Marks: DEDUCED unsafe (log entry 111). -/
def State.invalidateIc (s : State) (m : Nat) : State :=
  (List.range 16).foldl (fun t k => t.upStone (16 * m + k) fun x => { x with ic := [] }) s

/-- A write of MILL_CTRL (R147): ICINV while a stone is busy drops the write. -/
def State.millCtrlWrite (s : State) (fn addr m v : Nat) : State :=
  if bitAt v 8 then
    if s.millBusy m ≠ 0 then s.logErr T.mill m 5 fn addr v
    else (s.fset F.MILL_CTRL_CNT_EN m v).invalidateIc m
  else s.fset F.MILL_CTRL_CNT_EN m v

/-- A write of MILL_BIN_SPLIT (R150): out of range, while busy, or changing the locked field, it is dropped and logged. Contexts that lie in bin slots
stay where they lie (R98). Marks: DESIGN CHOICE unsafe (log entry 370). -/
def State.binSplit (s : State) (fn addr m v : Nat) : State :=
  let k := v % 16
  if bitAt (s.rd T.mill m 0x10) 31 then
    if k = s.fget F.MILL_BIN_SPLIT_KAREA m then s else s.logErr T.mill m 4 fn addr v
  else if k = 0 ∨ 8 < k ∨ s.millBusy m ≠ 0 then s.logErr T.mill m 5 fn addr v
  else (s.fset F.MILL_BIN_SPLIT_KAREA m k).invalidateIc m

/-- The register a window names (R154): its value in a stone. -/
def winReg (x : Stone) (c reg : Nat) : Nat :=
  let cx := x.cx c
  let acc (k : Nat) := (accGet cx.acc (k / 3)).toNat / 2 ^ (32 * (k % 3)) % 2 ^ 32
  let shared := (x.loopImage.set 9 x.ldepth)
  if reg < 0x20 then (cx.dr reg).toNat
  else if reg < 0x30 then (cx.ar (reg - 0x20)).toNat
  else if reg < 0x38 then (regGet cx.cb (reg - 0x30)).toNat
  else if reg < 0x40 then (regGet cx.cl (reg - 0x38)).toNat
  else if reg < 0x4C then acc (reg - 0x40)
  else match reg with
    | 0x50 => cx.pc
    | 0x51 => x.srOf c
    | 0x52 => x.epc
    | 0x53 => x.ecause
    | 0x54 => x.eaddr
    | 0x62 => x.dbmask
    | r => if 0x58 ≤ r ∧ r ≤ 0x61 then shared.getD (r - 0x58) 0 else 0

/-- Is a window index a register of the table of R154? Marks: DEDUCED unsafe (log entry 111). -/
def winKnown (reg : Nat) : Bool :=
  decide (reg < 0x4C) || (decide (0x50 ≤ reg) && decide (reg ≤ 0x54)) || (decide (0x58 ≤ reg) && decide (reg ≤ 0x62))

/-- Is a window index one whose contents are returned only with rights (R153)? -/
def winGuarded (reg : Nat) : Bool := decide (reg < 0x4C) || (decide (0x50 ≤ reg) && decide (reg ≤ 0x62))

/-- A read of MILL_WIN_DATA (R153): the value and the state with its side effects. -/
def State.winRead (s : State) (fn m : Nat) : State × Nat :=
  let reg := s.fget F.MILL_WIN_SEL_REG m
  let c := s.fget F.MILL_WIN_SEL_CTX m
  let x := s.stone (16 * m + s.fget F.MILL_WIN_SEL_STONE m)
  let own := decide (0x52 ≤ reg) || c == 3
  let busy := !x.halted &&
    (if own then x.stateCode == 1 || x.stateCode == 2 else (x.cx c).st == .running || (x.cx c).st == .draining)
  if !winGuarded reg then (s, 0)
  else if !s.windowRights fn m then (s.deny m, 0)
  else if winKnown reg && busy then (s.fset F.MILL_WIN_STAT_BUSY m 1, 0)
  else (s, winReg x c reg)

/-- Sets the register a window names in a halted stone. -/
def winSet (x : Stone) (c reg v : Nat) : Stone :=
  let cx := x.cx c
  let w : Word := BitVec.ofNat 32 v
  let accV (k : Nat) : Acc72 :=
    BitVec.ofNat 72 (setField (accGet cx.acc (k / 3)).toNat (32 * (k % 3)) (if k % 3 = 2 then 8 else 32) v)
  if reg < 0x20 then x.setCx c { cx with d := regSet cx.d reg w }
  else if reg < 0x30 then x.setCx c { cx with a := regSet cx.a (reg - 0x20) w }
  else if reg < 0x38 then x.setCx c { cx with cb := regSet cx.cb (reg - 0x30) w }
  else if reg < 0x40 then x.setCx c { cx with cl := regSet cx.cl (reg - 0x38) w }
  else if reg < 0x4C then
    let k := reg - 0x40
    x.setCx c { cx with acc := accSet cx.acc (k / 3) (accV k), accF := accSet cx.accF (k / 3) (accV k) }
  else match reg with
    | 0x50 => x.setCx c { cx with pc := pcOf v }
    | 0x51 => x.setCx c { cx with sr := v &&& 0x103 }
    | 0x52 => { x with epc := v % 2 ^ 32 }
    | 0x53 => { x with ecause := v % 2 ^ 32 }
    | 0x54 => { x with eaddr := v % 2 ^ 32 }
    | 0x62 => { x with dbmask := v % 256 }
    | r => x.loadLoops (x.loopImage.set (r - 0x58) (v % 2 ^ 32))

/-- A write of MILL_WIN_DATA (R153): only while the stone is halted and the device debug-unlocked. -/
def State.winWrite (s : State) (fn addr m v : Nat) : State :=
  let reg := s.fget F.MILL_WIN_SEL_REG m
  let n := 16 * m + s.fget F.MILL_WIN_SEL_STONE m
  let x := s.stone n
  if !(x.halted && s.debugUnlocked) then (s.deny m).logErr T.mill m 6 fn addr v
  else if !winKnown reg then s.logErr T.mill m 5 fn addr v
  else s.setStone n (winSet x (s.fget F.MILL_WIN_SEL_CTX m) reg v)

/-- STONE_STAT (R157). -/
def Stone.statWord (x : Stone) : Nat :=
  x.dbpend * 65536 + (x.cx 2).st.code * 64 + (x.cx 1).st.code * 16 + (x.cx 0).st.code * 4 + x.stateCode

/-- STONE_PC (R159): the PC of the next bundle the stone will issue. An idle stone with no staged context has none; where it has run, the register
then reads a free value (State.openBits). Marks: DESIGN CHOICE safe (log entry 335). -/
def Stone.nextPcReg (x : Stone) : Nat :=
  match x.active with
  | some c => (x.cx c).pc
  | none =>
    match x.staged with
    | c :: _ => (x.cx c).pc
    | [] => 0

end Sys2Proof.Machine
end

