-- ==== Sys2Proof/Machine/Strict.lean ====
section
/-!
DEFINITION. Strict mode (R469), with what it rests on: the ports' gate control lists (R370) and the Press settings, which take effect at a turn
boundary (R539).
-/

namespace Sys2Proof.Machine

/-- The state of a port. -/
def State.port (s : State) (n : Nat) : Port := Tab.get (fun _ => ({} : Port)) s.ports n

/-- Changes the state of a port. -/
def State.upPort (s : State) (n : Nat) (f : Port → Port) : State :=
  { s with ports := Tab.set (fun _ => ({} : Port)) s.ports n (f (s.port n)) }

/-- Word w of an entry of a bank. -/
def State.gclWord (s : State) (n bank entry w : Nat) : Nat := Tab.get (fun _ => 0) (s.port n).gcl ((bank * 256 + entry) * 2 + w)

/-- The active bank of a port. -/
def State.gclActive (s : State) (n : Nat) : Nat := s.fget F.SLUICE_CTRL_ACTIVE n

/-- Is the list in effect on a port? -/
def State.inGcl (s : State) (n : Nat) : Bool := s.fbit F.SLUICE_STAT_IN_GCL n

/-- The conditions of STRICT_OK other than STRICT. -/
def State.strictBasis (s : State) : Bool :=
  ((List.range 16).all fun r => s.fbit F.CANAL_CTRL_ARB r)
    && ((List.range 16).all fun n => !s.fbit F.MAC_CTRL_TX_EN n ||
        (s.inGcl n && (List.range (s.fget F.SLUICE_NENT_NENT n (s.gclActive n))).all fun i =>
          decide (((List.range 16).filter fun p => bitAt (s.gclWord n (s.gclActive n) i 1) p).length ≤ 1)))
    && s.press.mode && !s.debugUnlocked

/-- STRICT_OK follows its conditions; its fall raises STRICT_LOST. DIKE_ISO is a register of DIKE 0 alone (R486). -/
def State.strictUpdate (s : State) : State :=
  let v := s.strictBasis && s.fbit F.DIKE_ISO_STRICT 0
  let s1 := s.fset F.DIKE_ISO_STRICT_OK 0 (b2n v)
  if s.fbit F.DIKE_ISO_STRICT_OK 0 && !v then s1.raise T.dike 0 I.DIKE_STRICT_LOST else s1

/-- The Press settings written since the last turn boundary take effect (R539). -/
def State.pressTurn (s : State) : State :=
  ({ s with press := { s.press with mode := s.fbit F.PRESS_CTRL_MODE 0, sloten := s.rd T.press 0 0x48, slotmap := s.rd T.press 0 0x4C + 2 ^ 32 * s.rd T.press 0 0x50 } } : State).strictUpdate

end Sys2Proof.Machine
end

