-- ==== Sys2Proof/Machine/Miller.lean ====
section
/-!
DEFINITION. The Millers (R160 to R208): turns, releases, prefetch and staging through the hopper, seals and output items,
turn commits, surplus and deferrable work, the reserve; and what takes effect at a boundary.
-/

namespace Sys2Proof.Machine

/-! ## Records -/

/-- Changes the scheduling part of the state. -/
def State.upSch (s : State) (f : Sched → Sched) : State := { s with sch := f s.sch }

/-- Sets the record of a Miller. -/
def State.setMiller (s : State) (h : Nat) (x : Miller) : State :=
  s.upSch fun c => { c with miller := Tab.set (fun _ => ({} : Miller)) c.miller h x }

/-- Changes a class. -/
def State.setKlass (s : State) (k : Nat) (x : Klass) : State := s.upSch fun c => { c with classes := Tab.insert c.classes k x }

/-- The work unit of a serial number. -/
def State.wu (s : State) (n : Nat) : Option WU := (s.sch.wus.find? fun e => e.1 == n).map (·.2)

/-- Sets a work unit. -/
def State.setWu (s : State) (n : Nat) (x : WU) : State := s.upSch fun c => { c with wus := Tab.insert c.wus n x }

/-- Takes a work unit out. -/
def State.eraseWu (s : State) (n : Nat) : State := s.upSch fun c => { c with wus := Tab.erase c.wus n }

/-- Sets the record of a bundle. -/
def State.setBundle (s : State) (b : Nat) (x : Bundle) : State :=
  s.upSch fun c => { c with bundles := Tab.set (fun _ => ({} : Bundle)) c.bundles b x }

/-- The context of a class in HBM. Marks: DESIGN CHOICE unsafe (log entry 133). -/
def State.ctxOf (s : State) (k : Nat) : Tab Byte := Tab.get (fun _ => ([] : Tab Byte)) s.sch.ctxMem k

/-- Sets the context of a class. -/
def State.setCtx (s : State) (k : Nat) (m : Tab Byte) : State :=
  s.upSch fun c => { c with ctxMem := Tab.set (fun _ => ([] : Tab Byte)) c.ctxMem k m }

/-- Copies n bytes of a sparse memory to another. -/
def memCopy (src : Tab Byte) (a n : Nat) (dst : Tab Byte) (b : Nat) : Tab Byte :=
  (src.filter fun e => decide (a ≤ e.1) && decide (e.1 < a + n)).foldl (fun m e => memSet m (e.1 - a + b) e.2) (memZero dst b n)

/-- The charged cost of a class (R165). -/
def Klass.charged (k : Klass) : Nat := max k.cost 14000

/-- The grains of a class (R166): a deferrable class holds none. -/
def Klass.grains (k : Klass) : Nat := if k.defer then 0 else ceilDiv k.charged (max k.period 1 * 1000)

/-- The volume of a class in KiB (R212). -/
def Klass.volume (k : Klass) : Nat := 16 + ceilDiv k.w 1024 + ceilDiv k.io 1024

/-- Is the owner of a class ACTIVE? -/
def State.ownerActive (s : State) (k : Klass) : Bool :=
  match k.owner with
  | .chan c => (s.chan c).st == .active
  | .bundle b => (s.bundle b).st == .active

/-! ## Loads of a stone (R173) -/

/-- The smallest number that leaves r modulo m and p modulo q, below their least common multiple, where there is one. -/
def crt (m r q p : Nat) : Option Nat := ((List.range q).map fun i => r + i * m).find? fun x => x % q == p

/-- The largest sum of weights that fall in one turn, over groups (period, phase, weight): in a turn that leaves r modulo m. -/
def peak : List (Nat × Nat × Nat) → Nat → Nat → Nat
  | [], _, _ => 0
  | (q, p, w) :: gs, m, r =>
    match crt m r q p with
    | none => peak gs m r
    | some x => if m % q = 0 then w + peak gs m r else max (w + peak gs (Nat.lcm m q) x) (peak gs m r)

/-- Adds a weight to its group. -/
def addGroup (w : Nat) (q p : Nat) : List (Nat × Nat × Nat) → List (Nat × Nat × Nat)
  | [] => [(q, p, w)]
  | (a, b, v) :: gs => if a = q ∧ b = p then (a, b, v + w) :: gs else (a, b, v) :: addGroup w q p gs

/-- The groups of a list of classes, weighed. -/
def groupsOf (f : Klass → Nat) (l : List Klass) : List (Nat × Nat × Nat) :=
  l.foldl (fun g k => addGroup (f k) (max k.period 1) k.phase g) []

/-- The peak of a weight over the turns for a list of classes. -/
def peakOf (f : Klass → Nat) (l : List Klass) : Nat := peak (groupsOf f l) 1 0

/-- The classes placed on a stone. -/
def State.stoneClasses (s : State) (n : Nat) : List Klass := (s.sch.classes.map (·.2)).filter fun k => k.stone == n

/-- The admitted classes placed on a stone. -/
def State.stoneAdmitted (s : State) (n : Nat) : List Klass := (s.stoneClasses n).filter fun k => !k.defer

/-- The grains held on a stone. -/
def State.stoneGrains (s : State) (n : Nat) : Nat := (s.stoneAdmitted n).foldl (fun g k => g + k.grains) 0

/-- The budget of each active stone of a half (R172). -/
def State.budget (s : State) (h : Nat) : Nat := 1400 - 14 * s.fget F.MILLER_CTRL_RESERVE h - 44

/-- Grains held in a half (MILLER_ADMITTED). -/
def State.admitted (s : State) (h : Nat) : Nat :=
  s.sch.classes.foldl (fun g e => if e.1 / 65536 = h then g + e.2.grains else g) 0

/-- Class table entries in use in a half (MILLER_CLASSES). -/
def State.classesUsed (s : State) (h : Nat) : Nat := (s.sch.classes.filter fun e => e.1 / 65536 == h).length

/-! ## Order of work (R169) -/

/-- Does a work unit come before another in its stone's order? Admitted units go by deadline, class index and release; deferrable
units follow them in order of release. -/
def wuBefore (a b : Nat × WU) : Bool :=
  if a.2.defer then b.2.defer && decide (a.1 < b.1)
  else if b.2.defer then true
  else if a.2.deadline ≠ b.2.deadline then decide (a.2.deadline < b.2.deadline)
  else if a.2.cls ≠ b.2.cls then decide (a.2.cls < b.2.cls)
  else decide (a.1 < b.1)

/-- Inserts a work unit at its place. -/
def wuInsert (x : Nat × WU) : List (Nat × WU) → List (Nat × WU)
  | [] => [x]
  | y :: l => if wuBefore x y then x :: y :: l else y :: wuInsert x l

/-- The work units of a stone that are not staged yet, in order. -/
def State.stoneOrder (s : State) (n : Nat) : List (Nat × WU) :=
  (s.sch.wus.filter fun e => e.2.stone == n && e.2.st != .staged).foldl (fun l e => wuInsert e l) []

/-- Is a class released in a turn (R164)? -/
def Klass.due (k : Klass) (turn : Nat) : Bool :=
  if k.period = 0 then k.count == 0 else turn % k.period == k.phase

/-- The work unit of a class's next release, in a turn (R164, R167). -/
def Klass.unit (k : Klass) (key turn : Nat) : WU :=
  { cls := key, stone := k.stone, wuid := key % 65536 + (k.count + 1) % 65536 * 65536, deadline := if k.defer then 0 else turn + k.period,
    defer := k.defer, n := k.count + 1 }

/-- Has a class's role been lost, so that it makes no releases until it is placed again (R594)? -/
def State.keyLost (s : State) (key : Nat) : Bool := s.ras.lost.any fun l => l.keys.contains key

/-- The units that the next boundary releases on a stone, by class, in order (R182): as an early prefetch has left them, where one has begun. -/
def State.coming (s : State) (n : Nat) : List (Nat × WU) :=
  let t := s.turn (n / 640) + 1
  (s.sch.classes.filter fun e => e.2.stone == n && s.ownerActive e.2 && e.2.due t && !s.keyLost e.1).foldl
    (fun l e => wuInsert (e.1, ((s.sch.early.find? fun y => y.1 == e.1).map (·.2)).getD (e.2.unit e.1 t)) l) []

/-- A work unit the hopper may prefetch for: a released one by its number, or one that the next boundary releases, by its class. -/
structure Fetch where
  early : Bool
  id : Nat
  wu : WU

/-- The units of a stone in the order of prefetch (R169, R182): the released ones, then those one turn before release. Marks: DEDUCED safe (log entry 351). -/
def State.fetchOrder (s : State) (n : Nat) : List Fetch :=
  (s.stoneOrder n).map (fun e => ⟨false, e.1, e.2⟩) ++ (s.coming n).map fun e => ⟨true, e.1, e.2⟩

/-- Sets the record of a unit to prefetch for. -/
def State.setFetch (s : State) (f : Fetch) (w : WU) : State :=
  if f.early then s.upSch fun c => { c with early := Tab.insert c.early f.id w } else s.setWu f.id w

/-- The bin slots of each stone (R98): three or two, as the data area allows. -/
def State.binSlots (s : State) (m : Nat) : Nat := min 3 ((0x100000 - s.karea m) / 0x40000)

/-- Where bin slot j of a stone lies in its mill's bin. -/
def State.slotBase (s : State) (n j : Nat) : Nat :=
  s.karea (n / 16) + (n % 16 * s.binSlots (n / 16) + j) * 0x4000

/-- The slot a work unit has taken in the bin. -/
def WU.slot (w : WU) : Option Nat := match w.st with | .fetching j => some j | .inBin j => some j | _ => none

/-- Counts into the hopper's figures while HOPPER_CTRL.CNT_EN is 1 (R205). -/
def State.hopCount (s : State) (m : Nat) (f : State → State) : State := if s.fbit F.HOPPER_CTRL_CNT_EN m then f s else s

/-- Has a write-back of a class's context not been applied yet (R182)? -/
def State.writebackPending (s : State) (k : Nat) : Bool := s.sch.slots.any fun e => e.2.cls == k

/-- Does the prefetch of a context wait: for a write-back of it (R182), or before the release at which a modify takes effect for the new parameter
block (R217)? -/
def State.fetchHeld (s : State) (f : Fetch) : Bool :=
  s.writebackPending f.wu.cls || (f.early && s.sch.fx.any fun e => match e.2, (s.klass f.wu.cls).owner with
    | .chanParams c _, .chan d => c == d && decide (e.1 ≤ s.turn (f.wu.stone / 640) + 1)
    | _, _ => false)

/-- Has a unit no bin slot yet, and no poison found? -/
def Fetch.wants (f : Fetch) : Bool := f.wu.st == .released && !f.wu.bad

/-- A prefetch begins to wait: it is counted once (R207). -/
def State.holdFetch (s : State) (m : Nat) (f : Fetch) : State :=
  if f.wu.held then s else (s.setFetch f { f.wu with held := true }).hopCount m fun t => t.finc F.HOPPER_WAITS_FLUME_HOLD m

/-- CONTEXT_PREFETCH (R182): among the next S work units of the stone, the first without a bin slot whose context need not wait gets one and its
context is fetched; those that wait are counted. Units no longer among the next S lose their slots. -/
def execContextPrefetch (n : Nat) (s : State) : Res :=
  let m := n / 16
  if (s.mill m).stopped then .next s else
  let size := s.binSlots m
  let order := s.fetchOrder n
  let next := order.take size
  let s1 := ((order.drop size).filter fun f => f.wu.slot.isSome).foldl (fun t f => t.setFetch f { f.wu with st := .released }) s
  let s2 := (next.filter fun f => f.wants && s.fetchHeld f).foldl (fun t f => t.holdFetch m f) s1
  let used := next.filterMap fun f => f.wu.slot
  match next.find? (fun f => f.wants && !s.fetchHeld f), (List.range size).find? (fun j => !used.contains j) with
  | some f, some j => .next (s2.setFetch f { f.wu with st := .fetching j, held := false })
  | _, _ => .next s2

/-! ## Seals (R184 to R186) -/

/-- The seal log of a role. -/
def State.log (s : State) (q : Nat) : List SealEntry := Tab.get (fun _ => ([] : List SealEntry)) s.sch.logs q

/-- Sets the seal log of a role. -/
def State.setLog (s : State) (q : Nat) (l : List SealEntry) : State :=
  s.upSch fun c => { c with logs := Tab.set (fun _ => ([] : List SealEntry)) c.logs q l }

/-- The role whose work a stone runs. -/
def State.roleOfStone (s : State) (n : Nat) : Nat := (s.roleOfMill (n / 16)).getD 0

/-- The count of the latest boundary a half has made: MILLER_TURN, but while the half waits for the marks' count to reach its own (R163). -/
def State.ownTurn (s : State) (h : Nat) : Nat := max (s.turn h) (s.miller h).made

/-- Enters a seal in its role's log and counts a failure or a late seal (R185, R186). Marks: DEDUCED safe (log entry 134). -/
def State.sealUnit (s : State) (n wu : Nat) (w : WU) (status slot : Option Nat) (f : SealEntry → SealEntry := id) : State :=
  let h := n / 640
  let q := s.roleOfStone n
  let e : SealEntry := { turn := s.ownTurn h, wu := wu, wuid := w.wuid, cls := w.cls, status := status, slot := slot, taken := w.taken }
  let s1 := (s.setLog q (s.log q ++ [f e])).eraseWu wu
  let s2 := if ¬ w.defer ∧ w.deadline ≤ s.ownTurn h then (s1.cinc C.MILLER_MISS h).raise T.miller h I.MILLER_DEADLINE_MISS else s1
  match status with
  | none => s2
  | some v =>
    ((((s2.finc F.MILLER_FAILED_FAILED h).fset F.MILLER_LASTFAIL_VALID h 1).fset F.MILLER_LASTFAIL_CLASS h (w.cls % 65536)).fset
      F.MILLER_LASTFAIL_STATUS h v).raise T.miller h I.MILLER_WU_FAILED

/-- The handle of the owner of a class. -/
def State.ownerHandle (s : State) (k : Klass) : Nat :=
  match k.owner with
  | .chan c => s.handleOf 2 k.polder c
  | .bundle b => s.handleOf 3 k.polder b

/-- Records an error of a hopper (R208). -/
def State.hopperErr (s : State) (m cls kind : Nat) : State :=
  ((s.fset F.HOPPER_ERR_VALID m 1).fset F.HOPPER_ERR_CLASS m (cls % 65536)).fset F.HOPPER_ERR_KIND m kind

/-! ## Staging (R168, R181, R183, R254, R255) -/

/-- An input item of a work unit: its port, gap and marker bits, TAG and data. -/
structure InItem where
  port : Nat
  gap : Bool
  mark : Bool
  tag : Nat
  data : List Byte

/-- The jitter-buffer packets a release has taken from a stream, as input items of a port (R326, R633). -/
def jbItems (x : Stream) (wu port : Nat) : List InItem :=
  (x.buf.filter fun k => k.taken == some wu && k.deliver).map fun k =>
    ⟨port, k.poison, k.marker, k.ts, if k.poison then [] else leBytes 1 k.pt ++ leBytes 1 0 ++ leBytes 2 k.seq ++ k.payload⟩

/-- The items of a stage or headrace queue that are visible, for a class and not taken (R188). -/
def Queue.forClass (q : Queue) (cls : Nat) : List QItem :=
  q.items.filter fun i => i.seen.isSome && i.taken.isNone && !i.committed && i.cls == cls % 65536

/-- A queue item as an input item: a poisoned one is placed as a gap marker (R190). -/
def qItemIn (i : QItem) : InItem :=
  let g := i.gap || i.poison
  ⟨i.port, g, i.mark, i.tag, if g then [] else i.data⟩

/-- READ of a stage or headrace queue stands behind the leading items that the hopper has read (R336). Marks: DEDUCED safe (log entry 342). -/
def Queue.hopRead (q : Queue) : Queue :=
  { q with read := (q.items.takeWhile fun i => i.taken.isSome || i.committed).length }

/-- Marks the items of a queue as taken by a work unit: the hopper has read them. -/
def State.qTake (s : State) (id wu : Nat) (ids : List Nat) : State :=
  let q := s.queue id
  s.setQueue id (Queue.hopRead { q with items := q.items.map fun i => if ids.contains i.id then { i with taken := some wu } else i })

/-- The hopper reads some items of a queue poisoned (R190, R338, R352). -/
def State.qPoison (s : State) (id : Nat) (ids : List Nat) : State :=
  let q := s.queue id
  let s1 := s.setQueue id { q with items := q.items.map fun i => if ids.contains i.id then { i with poison := true } else i }
  if q.items.any fun i => ids.contains i.id then s1.raise T.queue 0 I.QUEUE_POISON else s1

/-- The stage and headrace queues of a stone's role (R328). -/
def State.inputQueues (s : State) (n : Nat) : List Nat := [qStage (s.roleOfStone n) (n % 16), qHeadrace (s.roleOfStone n)]

/-- The items of a queue that a work unit takes (R188): of a stage queue those that were visible at its release (R164, R211), of the headrace all
that are visible. -/
def State.inputsFrom (s : State) (w : WU) (id : Nat) : List QItem :=
  ((s.queue id).forClass w.cls).filter fun i => decide (1024 ≤ id) || decide (i.seen.getD 0 < w.seen)

/-- A work unit takes its input items (R185, R188); the hopper has reached the tail of its queues, where a gap marker that waits is placed (R334).
Marks: DEDUCED safe (log entry 342). -/
def State.takeInputs (s : State) (n wu : Nat) (w : WU) : State × WU :=
  let s0 := (s.inputQueues n).foldl (fun t id => t.qTailGap id) s
  let ids := (s.inputQueues n).map fun id => (id, (s0.inputsFrom w id).map (·.id))
  (ids.foldl (fun t e => t.qTake e.1 wu e.2) s0, { w with taken := ids.flatMap fun e => e.2.map fun i => (e.1, i) })

/-- The items a work unit has taken, in the order of its queues. -/
def State.itemsOf (s : State) (n wu : Nat) : List QItem :=
  (s.inputQueues n).flatMap fun id => (s.queue id).items.filter fun i => i.taken == some wu

/-- Places input items in an I/O area: the directory from 0x000, the data from 0x200, at most 32 items and 3,584 bytes; an item without data where the
data area is full gets its last offset. Marks: DEDUCED safe (log entry 352). -/
def placeItems (base : Nat) : List InItem → Nat → Nat → Tab Byte → Tab Byte × Nat
  | [], n, _, m => (m, n)
  | i :: l, n, off, m =>
    if 32 ≤ n ∨ 0x1000 < off + i.data.length then (m, n)
    else
      let w0 := min off 0xFFC + i.data.length * 2 ^ 12 + i.port * 2 ^ 24 + b2n i.gap * 2 ^ 28 + b2n i.mark * 2 ^ 29
      let m1 := memPut (memWrite (memWrite m (base + 8 * n) 4 w0) (base + 8 * n + 4) 4 i.tag) (base + off) i.data
      placeItems base l (n + 1) (off + 4 * ceilDiv i.data.length 4) m1

/-- The base of a window (R181). -/
def winBase (w : Nat) : Nat := if w = 0 then 0x3000 else 0xB000

/-- Is a window free: no staged, running or ended work unit of the stone has it? -/
def Stone.winFree (x : Stone) (w : Nat) : Bool :=
  (List.range 3).all (fun c => (x.cx c).st == .free || (x.cx c).st == .draining || (x.cx c).win != winBase w)
    && x.ended.all fun e => e.win != winBase w

/-- A context found poisoned seals its work unit with CTX_POISON (R190): HOPPER_ERR records it, the unit takes its input items (R185), and the
polder is told. -/
def State.poisonSeal (s : State) (n wu : Nat) (w : WU) : State :=
  let kl := s.klass w.cls
  let r := (s.hopperErr (n / 16) w.cls 1).takeInputs n wu w
  (r.1.sealUnit n wu r.2 (some 0xF2) none).notice kl.polder 1 (s.ownerHandle kl) (w.cls % 65536 + 65536)

/-- A prefetch has found poison or an error (R190): the unit seals, at its release where the prefetch was early. -/
def State.fetchPoisoned (s : State) (n : Nat) (f : Fetch) : State :=
  if f.early then s.setFetch f { f.wu with st := .released, bad := true } else s.poisonSeal n f.id f.wu

/-- PREFETCH_COMPLETE (R182, R190): the context is in its bin slot, with the parameter block in force at the unit's release (R217); one that is poisoned
seals its work unit with CTX_POISON, at its release where the prefetch was early. -/
def execPrefetchComplete (n slot : Nat) (poison : Bool) (s : State) : Res :=
  if (s.mill (n / 16)).stopped then .next s else
  match (s.fetchOrder n).find? fun f => f.wu.st == .fetching slot with
  | none => .next s
  | some f =>
    let m := n / 16
    let k := f.wu.cls
    if poison ∨ s.sch.ctxPoison.contains k then
      .next (s.fetchPoisoned n f)
    else
      let mi := s.mill m
      let c := match f.wu.params with
        | some d => memPut (s.ctxOf k) 0x3E00 d
        | none => s.ctxOf k
      let s1 := s.setMill m { mi with bin := memCopy c 0 0x4000 mi.bin (s.slotBase n slot) }
      .next ((s1.hopCount m fun t => t.cinc C.HOPPER_IN m 0x4000).setFetch f { f.wu with st := .inBin slot })

/-- The hopper reads some of the jitter-buffer packets that a release has taken from a stream poisoned (R190, R437). -/
def State.jbPoison (s : State) (i wu : Nat) (seqs : List Nat) : State :=
  s.upStrm i fun x => { x with buf := x.buf.map fun k => if k.taken = some wu ∧ seqs.contains k.seq then { k with poison := true } else k }

/-- The registers a context is staged with (R168). -/
def stageRegs (base items deadline : Nat) : Tab Word :=
  [(0, base), (1, base + 0x4000), (2, items), (3, deadline)].foldl (fun r e => Tab.set (fun _ => 0) r e.1 (BitVec.ofNat 32 e.2)) []

/-- A work unit whose context is in a bin slot goes to the window the stone's units alternate to and to a FREE context, with its inputs (R168, R181,
R183, R254). Poisoned inputs, queue items by number and packets by port and sequence number, are placed as gap items, recorded and counted (R35,
R190, R208). It starts if the stone is free for it. -/
def State.stageUnit (s : State) (n wu : Nat) (w : WU) (slot c : Nat) (bad : BadInputs) : State :=
  let m := n / 16
  let kl := s.klass w.cls
  let recv := s.received w.cls
  let s0 := recv.foldl (fun t e => t.jbPoison e.1 wu ((bad.packets.filter fun p => p.1 == e.2).map (·.2))) s
  let r := s0.takeInputs n wu w
  let s1 := (s.inputQueues n).foldl (fun t id => t.qPoison id bad.items) r.1
  let mine := s1.itemsOf n wu
  let inputs := (recv.flatMap fun e => jbItems (s1.strm e.1) wu e.2) ++ mine.map qItemIn
  let count := (mine.filter (·.poison)).length + (recv.flatMap fun e => (s1.strm e.1).buf.filter fun k => k.taken == some wu && k.deliver && k.poison).length
  let x := s.stone n
  let win := x.nextWin % 2
  let base := winBase win
  let placed := placeItems (base + 0x4000) inputs 0 0x200 (memCopy (s.mill m).bin (s.slotBase n slot) 0x4000 x.dm base)
  let cx : Ctx := { st := .staged, a := stageRegs base placed.2 w.deadline, pc := kl.entry, wuid := w.wuid, wu := wu, win := base, fvec := kl.fvec, bvec := kl.bvec }
  let x1 := { x.setCx c cx with dm := placed.1, staged := x.staged ++ [c], nextWin := win + 1 }
  let os := match kl.owner with
    | .chan c => [leAt (s.chan c).params 4 4, leAt (s.chan c).params 8 4].map fun i => ((s.strm i).o, (s.strm i).oSets)
    | .bundle _ => []
  let s2 := s1.setWu wu { r.2 with st := .staged, os := os }
  let s3 := if count = 0 then s2 else (s2.hopperErr m w.cls 2).spill C.SPILL_POISON kl.polder count
  s3.setStone n (if x1.dbReady then x1 else x1.startNext)

/-- WORK_UNIT_STAGE (R168, R183): the first work unit of the stone's order, once its context is in a bin slot, is staged where a window and a context
are free. A deferrable one waits for DEFERRABLE_START (R180). -/
def execWorkUnitStage (n : Nat) (bad : BadInputs) (s : State) : Res :=
  let x := s.stone n
  if (s.mill (n / 16)).stopped then .next s else
  match (s.stoneOrder n).head?, (List.range 3).find? (fun c => (x.cx c).st == .free) with
  | some (wu, w), some c =>
    match w.st with
    | .inBin slot => if w.defer ∨ ¬ x.winFree (x.nextWin % 2) then .next s else .next (s.stageUnit n wu w slot c bad)
    | _ => .next s
  | _, _ => .next s

/-! ## Outputs (R254 to R256, R324) -/

/-- Changes the figures of a side of a channel. -/
def Chan.upSide (x : Chan) (side : Nat) (f : SideStat → SideStat) : Chan :=
  let l := x.sides ++ List.replicate (2 - x.sides.length) ({} : SideStat)
  { x with sides := setAt l side (f (l.getD side ({} : SideStat))) }

/-- Counts a dropped output entry on a side of a channel (R256); STATUS reads it from the next turn commit (R219). -/
def State.badOutput (s : State) (k : Klass) (side n : Nat) : State :=
  match k.owner with
  | .bundle _ => s
  | .chan c =>
    let x := s.chan c
    s.setChan c (x.upSide side fun v => { v with badNext := v.badNext + n })

/-- The key of a class that has left its channel (R164): no class has it. -/
def noKey : Nat := 131072

/-- The classes of a channel that are in the table, with that of QOS_EVAL. -/
def Chan.keys (x : Chan) : List Nat := (x.classes.filter fun k => k != noKey) ++ x.qos.toList

/-- Appends an item to a stage queue for a class, staged by a work unit; a gap marker carries no data (R255). -/
def State.stageItem (s : State) (cls port tag : Nat) (mark gap : Bool) (data : List Byte) (wu : Nat) : State :=
  let k := s.klass cls
  let q := s.roleOfStone k.stone
  (s.qAppend (qStage q (k.stone % 16)) (k.stone / 640)
    { id := 0, cls := cls % 65536, port := port, mark := mark, gap := gap, tag := tag, data := if gap then [] else data } (some wu)).1

/-- The MIX_SEG class of a bundle that serves a member slot: that of its group of 16 (R244). -/
def State.segOf (s : State) (b : Bundle) (slot : Nat) : Nat := (b.classes.find? fun k => (s.klass k).pos == slot / 16).getD noKey

/-- Does audio flow between a member slot and its bundle in a turn: both are ACTIVE and the join has taken effect (R246)? -/
def State.mixFlows (s : State) (b slot turn : Nat) : Bool :=
  let x := s.bundle b
  x.st == .active && decide (Tab.get (fun _ => 0) x.from' slot ≤ turn) && (match x.members.find? fun e => e.1 == slot with
    | some (_, .chan c) => (s.chan c).st == .active
    | some (_, .bundle d) => (s.bundle d).st == .active
    | none => false)

/-- The memberships through which audio flows for an owner's release in a turn (R246): its own in its bundle, and for a bundle those of its members.
Each is its bundle, its slot and its member. -/
def State.flowsOf (s : State) (o : Owner) (turn : Nat) : List (Nat × Nat × Owner) :=
  let own := match o with | .chan c => (s.chan c).member | .bundle d => (s.bundle d).member
  let up := (own.toList.filter fun e => s.mixFlows e.1 e.2 turn).map fun e => (e.1, e.2, o)
  match o with
  | .chan _ => up
  | .bundle b => up ++ ((s.bundle b).members.filter fun e => s.mixFlows b e.1 turn).map fun e => (b, e.1, e.2)

/-- The scheduled departure of what a work unit sends (R164), its deadline plus 4 µs: the time where the deadline's boundary has passed, else the
deadline turn. A deferrable unit has none. -/
def State.departure (s : State) (n : Nat) : Nat × Option Nat :=
  match s.wu n with
  | some w => (match w.depart with | some t => (t, none) | none => if w.defer then (0, none) else (0, some w.deadline))
  | none => (0, none)

/-- A transmit item of a processed stream (R324 to R326): the frame is built with the engine's sequence number and staged; a number is assigned at the
append, so a frame that cannot be appended (R334) takes none. -/
def State.transmit (s : State) (half i wu tag : Nat) (mark : Bool) (data : List Byte) : State :=
  let x := s.strm i
  let idx := x.txIndex
  let hdr := beBytes 1 128 ++ beBytes 1 (b2n mark * 128 + leAt data 0 1 % 128) ++ beBytes 2 idx ++ beBytes 4 (tag + x.tsAdd)
    ++ beBytes 4 (leAt x.desc 0x70 4)
  let body := data.drop 4
  let r := s.trySend half i (beAt x.desc 0x4E 2) (protect x idx false hdr body) (some wu) (s.departure wu).1 (s.departure wu).2
  if r.2 then ((r.1.upStrm i fun y => { y with txIndex := (y.txIndex + 1) % 2 ^ 48 }).scnt i 2).scnt i 3 body.length else r.1

/-- The class that takes the audio of a membership, towards the bundle or towards the member (R244, R245): the member's segment, or for a channel the
class that consumes side B and for a bundle its last join. -/
def State.upClass (s : State) (e : Nat × Nat × Owner) : Nat := s.segOf (s.bundle e.1) e.2.1
def State.downClass (s : State) (e : Nat × Nat × Owner) : Nat :=
  match e.2.2 with
  | .chan c => (s.chan c).classes.getD (s.sideClock (s.chan c) 1).2 noKey
  | .bundle d => (s.bundle d).classes.getLastD noKey

/-- One output entry of a sealed work unit (R255, R256). Audio of a member goes only where it flows at the unit's release (R246): a mixer class's TAG
below 1,024 names a member's slot, 1,024 + its slot there the bundle above. A library kernel's event notices are those of `runKernel`. Marks: DEDUCED safe
(log entry 134), DESIGN CHOICE safe (log entry 347), DESIGN CHOICE unsafe (log entry 33). -/
def State.output (s : State) (cls wu w0 tag : Nat) (data : List Byte) : State :=
  let k := s.klass cls
  let half := k.stone / 640
  let port := bitField w0 24 4
  let mark := bitAt w0 29
  let gap := bitAt w0 28
  let flows := ((s.wu wu).map (·.flows)).getD []
  let off := bitField w0 0 12
  let len := bitField w0 12 12
  let bad (t : State) := t.badOutput k (if port = 10 ∨ port = 12 ∨ port = 13 then 1 else 0) 1
  match k.owner with
  | .bundle b =>
    let y := s.bundle b
    if 0x1000 < off + len then s
    else if port = 0 then
      (match mixAbove y.levels (y.classes.idxOf cls) with
       | some e => s.stageItem (y.classes.getD e.1 noKey) (e.2 + 1) tag mark gap data wu
       | none => s)
    else if port < 8 then (match y.below (y.classes.idxOf cls) (port - 1) with | some d => s.stageItem (y.classes.getD d noKey) 0 tag mark gap data wu | none => s)
    else if port ≠ 13 then s
    else
      if tag < 1024 then
        (match flows.find? (fun e => e.1 == b && e.2.1 == tag && e.2.2 != .bundle b) with
         | some e => s.stageItem (s.downClass e) 12 (match e.2.2 with | .bundle _ => tagAbove + tag | .chan _ => tag) mark gap data wu
         | none => s)
      else
        (match flows.find? (fun e => e.2.2 == .bundle b) with
         | some e => s.stageItem (s.upClass e) 12 (tag % 1024) mark gap data wu
         | none => s)
  | .chan c =>
    let x := s.chan c
    let ab := leAt x.params 4 4
    let ba := leAt x.params 8 4
    let bun := leAt x.params 3 1 == 1
    if 0x1000 < off + len then bad s
    else if port < 8 then (match x.classes[port]? with | some d => if d = noKey then bad s else s.stageItem d port tag mark gap data wu | none => bad s)
    else if port = 10 then
      if len < 4 ∨ bun ∨ (s.strm ab).kind ≠ 1 then bad s else if gap then s else s.transmit half ab wu tag mark data
    else if port = 11 then
      if len < 4 ∨ ((s.strm ba).kind ≠ 1 ∧ (s.strm ba).kind ≠ 3) then bad s else if gap then s else s.transmit half ba wu tag mark data
    else if port = 13 ∧ bun then
      (match flows.head? with
       | some e => s.stageItem (s.upClass e) 12 tag mark gap data wu
       | none => s)
    else if port = 14 then
      (if k.kern.isNone then s else (s.qAppend (qHost k.polder 2) half { id := 0, tag := tag, gap := gap, data := if gap then [] else data } (some wu)).1)
    else bad s

/-- The outputs of a work unit that seals OK, from the I/O area of its window. -/
def State.outputs (s : State) (cls wu : Nat) (dm : Tab Byte) (io : Nat) : State :=
  let cnt := memRead dm (io + 0x1FC) 4
  let s1 := if 31 < cnt then s.badOutput (s.klass cls) 0 (cnt - 31) else s
  (List.range (min cnt 31)).foldl
    (fun t j =>
      let w0 := memRead dm (io + 0x100 + 8 * j) 4
      t.output cls wu w0 (memRead dm (io + 0x104 + 8 * j) 4) (memBytes dm (io + bitField w0 0 12) (bitField w0 12 12))) s1

/-- The bytes a work unit's window gives to its seal slot: whole lines of the first W bytes (R184). -/
def lineBytes (w : Nat) : Nat := 64 * ceilDiv w 64

/-- The lines of a window's I/O area that hold its outputs (R184, R254): those of the output directory and of the entries' data. Marks: DEDUCED safe (log entry 353). -/
def outLines (dm : Tab Byte) (io : Nat) : List Nat :=
  let areas := (List.range (min (memRead dm (io + 0x1FC) 4) 31)).map fun j =>
    let w0 := memRead dm (io + 0x100 + 8 * j) 4
    (bitField w0 0 12, min 0x1000 (bitField w0 0 12 + bitField w0 12 12))
  (List.range 64).filter fun l => (decide (4 ≤ l) && decide (l < 8)) || areas.any fun a => decide (a.1 < 64 * l + 64) && decide (64 * l < a.2)

/-- The event notices of a work unit, staged for host queue 2 of its polder (R242). -/
def State.sendNotices (s : State) (half p wu : Nat) (l : List (List Byte)) : State :=
  l.foldl (fun t d => (t.qAppend (qHost p 2) half { id := 0, data := d } (some wu)).1) s

/-- A release of QOS_EVAL evaluates its channel (R214). -/
def State.sealEval (s : State) (k : Klass) : State × (SealEntry → SealEntry) :=
  match k.owner with
  | .chan c =>
    if k.kern.isNone ∧ k.lib = 17 then let r := s.evalQos c; (r.1, fun e => { e with eval := r.2.1, evalBase := r.2.2 }) else (s, id)
  | .bundle _ => (s, id)

/-- A work unit that ended with END seals in seal slot j of its role (R184, R185): the first W bytes of its window and its outputs are copied there,
its outputs are handed on, and what a library kernel makes of the release is sealed with it. -/
def State.sealOk (s : State) (n : Nat) (e : EndedWU) (w : WU) (j : Nat) (meas : List SideMeas) (levels : List (Nat × Nat)) : State :=
  let m := n / 16
  let q := s.roleOfStone n
  let k := s.klass w.cls
  let run := if k.kern.isNone then s.runKernel w.cls e.wu w meas else ⟨{}, [], [], [], []⟩
  let dm := if k.kern.isNone then run.write (s.stone n).dm (e.win + 0x4000) else (s.stone n).dm
  let lines := outLines dm (e.win + 0x4000)
  let slot : SealSlot :=
    { wu := e.wu, cls := w.cls, data := memBytes dm e.win (lineBytes k.w), outs := lines.map fun l => (64 * l, memBytes dm (e.win + 0x4000 + 64 * l) 64), kst := run.kst }
  let s1 := (s.upStone n fun x => { x with dm := dm }).upSch fun c => { c with slots := Tab.insert c.slots (4 * q + j) slot }
  let s2 := s1.hopCount m fun t => t.cinc C.HOPPER_OUT m (lineBytes k.w + 64 * lines.length)
  let s3 := (s2.outputs w.cls e.wu dm (e.win + 0x4000)).sendNotices (n / 640) k.polder e.wu run.notices
  let ev := s3.sealEval k
  ev.1.sealUnit n e.wu w none (some j) fun x => { ev.2 x with sides := run.sides, levels := if k.kern.isNone then levels else [] }

/-- WORK_UNIT_SEALED (R184 to R186): the first ended work unit of the stone whose context has drained is copied to a free seal slot,
with its outputs handed on, and entered in the seal log; one that failed writes nothing back and gives no outputs. A drain that waits for a seal
slot is counted once (R207). -/
def execWorkUnitSealed (n : Nat) (meas : List SideMeas) (levels : List (Nat × Nat)) (s : State) : Res :=
  let x := s.stone n
  let m := n / 16
  if (s.mill m).stopped then .next s else
  match x.ended with
  | [] => .next s
  | e :: rest =>
    match s.wu e.wu with
    | none => .next (s.setStone n { x with ended := rest })
    | some w =>
      if (x.cx e.ctx).st = .draining then .next s
      else
        let s0 := s.setStone n { x with ended := rest }
        match e.status with
        | some v => .next (s0.sealUnit n e.wu w (some v) none)
        | none =>
          match (List.range 4).find? fun j => (s.sch.slots.find? fun y => y.1 == 4 * s.roleOfStone n + j).isNone with
          | none =>
            if e.waited then .next s
            else .next ((s.setStone n { x with ended := { e with waited := true } :: rest }).hopCount m fun t => t.finc F.HOPPER_WAITS_SEAL_FULL m)
          | some j => .next (s0.sealOk n e w j meas levels)

/-- A sealed write-back is applied to its context, with the kernel state it carries (R184). -/
def State.applySlot (s : State) (y : SealSlot) : State :=
  (s.setCtx y.cls (memPut (s.ctxOf y.cls) 0 y.data)).setKst y.cls y.kst

/-- FLUME_WRITEBACK_DONE (R184, R190): a sealed write-back is applied to its context and its slot freed; a poisoned one leaves the
context as it was. -/
def execFlumeWritebackDone (q j : Nat) (poison : Bool) (s : State) : Res :=
  match s.sch.slots.find? (fun e => e.1 == 4 * q + j) with
  | some e =>
    let s1 := s.upSch fun c => { c with slots := Tab.erase c.slots (4 * q + j) }
    .next (if poison then s1 else s1.applySlot e.2)
  | none => .next s

/-- HOPPER_STAT of a mill (R204): the seal slots of its role in use, and its bin slots that hold a context, prefetched early or not. -/
def State.hopperStat (s : State) (m : Nat) : Nat :=
  let full := ((s.sch.wus ++ s.sch.early).filter fun e => e.2.stone / 16 == m && (match e.2.st with | .inBin _ => true | _ => false)).length
  let seals := match s.roleOfMill m with
    | some q => (s.sch.slots.filter fun e => e.1 / 4 == q).length
    | none => 0
  seals * 2 ^ 20 + full

/-- WORK_UNIT_OVERRUN (R170): the running work unit has reached ceil(cost ÷ 140) + 1 ticks and ends with status 0xF1. -/
def execWorkUnitOverrun (n : Nat) (s : State) : Res :=
  if (s.mill (n / 16)).stopped then .next s else
  let x := s.stone n
  match x.running with
  | none => .next s
  | some c =>
    match s.wu (x.cx c).wu with
    | none => .next s
    | some w =>
      if x.halted ∨ x.ticks < ceilDiv (s.klass w.cls).cost 140 + 1 then .next s
      else .next (((s.endUnit n (some 0xF1)).finc F.MILLER_FAILED_OVERRUN (n / 640)).raise T.miller (n / 640) I.MILLER_OVERRUN)

/-! ## Surplus and deferrable work (R51, R54, R180) -/

/-- The vane readings of a half at a boundary: PACE is the lowest sample of the turn, VALID where one was taken. A mill without a
sample in the turn keeps both. Marks: DEDUCED unsafe (log entry 366). -/
def State.vaneTurn (s : State) (h : Nat) : State :=
  (List.range 40).foldl
    (fun t i =>
      let m := 40 * h + i
      match Tab.get (fun _ => (none : Option Nat)) t.fab.turnMin m with
      | none => t
      | some v =>
        if ¬ t.member m then t else
          let t1 := (t.fset F.VANE_MILL_PACE_PACE h v i).fset F.VANE_MILL_PACE_VALID h 1 i
          let d := Tab.get (fun _ => (none : Option Nat)) t.fab.dayMin m
          let low := match d with | none => v | some w => min v w
          { t1 with fab := { t1.fab with turnMin := Tab.set (fun _ => none) t1.fab.turnMin m none, dayMin := Tab.set (fun _ => none) t1.fab.dayMin m (some low) } }) s

/-- VANE_HALF_MIN: the lowest valid reading of the half and its mill. -/
def State.halfMin (s : State) (h : Nat) : State :=
  let l := (List.range 40).filter fun i => s.fbit F.VANE_MILL_PACE_VALID h i
  match l with
  | [] => s
  | a :: r =>
    let i := r.foldl (fun b j => if s.fget F.VANE_MILL_PACE_PACE h j < s.fget F.VANE_MILL_PACE_PACE h b then j else b) a
    ((s.fset F.VANE_HALF_MIN_VALID h 1).fset F.VANE_HALF_MIN_MILL h (40 * h + i)).fset F.VANE_HALF_MIN_PACE h
      (s.fget F.VANE_MILL_PACE_PACE h i)

/-- The pace above 1,400 that a mill contributes (R51): none unless it is in role 0x1 with a valid reading and SURPLUS_EN is set. -/
def State.above (s : State) (m : Nat) : Nat :=
  let h := halfOf m
  if s.fbit F.VANE_CTRL_SURPLUS_EN h ∧ s.role m = 1 ∧ s.fbit F.VANE_MILL_PACE_VALID h (m % 40)
  then s.fget F.VANE_MILL_PACE_PACE h (m % 40) - 1400 else 0

/-- The surplus is published and the accounts of the stones are credited for the turn (R180). Marks: DEDUCED unsafe (log entry 132). -/
def State.publish (s : State) (h : Nat) : State :=
  let mills := (List.range 40).map (40 * h + ·)
  let sum := mills.foldl (fun n m => n + 16 * s.above m) 0
  let acc := mills.foldl
    (fun t m => (List.range 16).foldl (fun u k => Tab.set (fun _ => 0) u (16 * m + k) (s.above m * 1000)) t) s.sch.accounts
  let used := mills.foldl (fun t m => Tab.set (fun _ => 0) t m
    (if s.fbit F.VANE_CTRL_SURPLUS_EN h ∧ s.role m = 1 ∧ s.fbit F.VANE_MILL_PACE_VALID h (m % 40) then s.fget F.VANE_MILL_PACE_PACE h (m % 40) else 0)) s.fab.paceUsed
  let x := s.miller h
  let s1 := ((s.fset F.VANE_SURPLUS_GRAINS h sum).fset F.MILLER_SURPLUS_GRAINS h sum).fset F.MILLER_DEFER_GRAINS h (x.defer / 1000)
  let s2 := (s1.setMiller h { x with defer := 0 }).upSch fun c => { c with accounts := acc }
  { s2 with fab := { s2.fab with paceUsed := used } }

/-- The account of a stone. -/
def State.account (s : State) (n : Nat) : Nat := Tab.get (fun _ => 0) s.sch.accounts n

/-- Can a stone start a deferrable work unit: it is idle, and no admitted work unit of it is released and unsealed (R180)? -/
def State.deferIdle (s : State) (n : Nat) : Bool :=
  let x := s.stone n
  x.running.isNone && x.staged.isEmpty && !x.handler && !x.halted && !x.dbReady && !(s.sch.wus.any fun e => e.2.stone == n && !e.2.defer)

/-- DEFERRABLE_START (R180): a stone with no admitted work unsealed stages and starts its first deferrable unit, if its account pays for it; the charge is
taken as it starts. Marks: DEDUCED safe (log entry 351). -/
def execDeferrableStart (e : DeferStart) (s : State) : Res :=
  let n := e.stone
  if (s.mill (n / 16)).stopped then .next s else
  let h := n / 640
  let x := s.stone n
  if ¬ s.fbit F.MILLER_CTRL_DEFER_EN h ∨ ¬ s.deferIdle n then .next s
  else match (s.stoneOrder n).head?, (List.range 3).find? (fun c => (x.cx c).st == .free) with
  | some (wu, w), some c =>
    let cost := (s.klass w.cls).charged
    match w.st with
    | .inBin slot =>
      if s.account n < cost ∨ ¬ x.winFree (x.nextWin % 2) then .next s
      else
        let y := s.miller h
        let s1 := (s.setMiller h { y with defer := y.defer + cost }).upSch fun d => { d with accounts := Tab.set (fun _ => 0) d.accounts n (s.account n - cost) }
        .next (s1.stageUnit n wu { w with started := true } slot c e.poisoned)
    | _ => .next s
  | _, _ => .next s

/-! ## The reserve (R172, R176) -/

/-- A write of MILLER_CTRL (R176, R193): RESERVE is refused outside 5 to 30 or where it would leave a stone over its budget, and the
rest of the write with it; ADMIT_EN and DEFER_EN are plain fields. Marks: DEDUCED unsafe (log entry 130). -/
def State.millerCtrlWrite (s : State) (fn addr h v : Nat) : State :=
  let r := bitField v 8 8
  let stones := (List.range 640).map (640 * h + ·)
  let tooMuch := stones.any fun n => decide (1400 - 14 * r - 44 < s.stoneGrains n)
  let flags (t : State) := (t.fset F.MILLER_CTRL_DEFER_EN h (bitField v 1 1)).fset F.MILLER_CTRL_ADMIT_EN h (bitField v 0 1)
  if r < 5 ∨ 30 < r ∨ tooMuch then (s.logErr T.miller h 5 fn addr v).raise T.miller h I.MILLER_RESERVE_REFUSED
  else flags (s.fset F.MILLER_CTRL_RESERVE h r)

/-! ## Releases (R163, R164) -/

/-- The packets of a stream that a release takes (R340): those of its slot, and those of earlier slots, which are not delivered: of a slot passed over,
or as late ones of a slot consumed already under the O of then (R237). `last` is the release before. -/
def State.jbTake (s : State) (c : Chan) (i wu n last : Nat) : State :=
  let v := s.jbView c (c.sideOf i)
  s.upStrm i fun x => { x with buf := x.buf.map fun k =>
    let slot := v.slot (x.o.getD 0) k.ts
    if k.taken.isNone ∧ slot ≤ Int.ofNat n then { k with taken := some wu, deliver := slot == Int.ofNat n, late := decide (slot ≤ Int.ofNat last) } else k }

/-- Makes a release of a class in the turn that starts (R164): with the bin slot of an early prefetch and the wait it has been counted for (R207), or
sealed at once where that found poison (R182, R190). It keeps the tones, and the memberships with audio flow, of this release (R240, R246). -/
def State.releaseUnit (s : State) (key : Nat) (turn : Nat) : State :=
  let k := s.klass key
  let n := k.count + 1
  let wu := s.sch.nextWu
  let pre := (s.sch.early.find? fun e => e.1 == key).map (·.2)
  let w : WU := { k.unit key turn with
    seen := s.qs.nextSeen, st := (pre.map (·.st)).getD .released, held := (pre.map (·.held)).getD false, wait := (pre.map (·.wait)).getD 0,
    start := (s.miller (k.stone / 640)).lastB, tones := (match k.owner with | .chan c => (s.chan c).tones | .bundle _ => []), flows := s.flowsOf k.owner turn }
  let recv := s.received key
  let s0 : State := match k.owner with
    | .chan c => recv.foldl (fun (t : State) (e : Nat × Nat) => t.jbTake (s.chan c) e.1 wu n k.last) s
    | .bundle _ => s
  let s1 := ((s0.setKlass key { k with count := n, last := n }).setWu wu w).upSch fun c => { c with nextWu := wu + 1 }
  if (pre.map (·.bad)).getD false then s1.poisonSeal k.stone wu w else s1

/-- The releases of the turn that starts in a half; a class of a lost role misses its releases until it is placed again (R594). What was prefetched
early for this turn has been adopted or is dropped. -/
def State.releases (s : State) (h turn : Nat) : State :=
  (s.sch.classes.foldl
    (fun t e =>
      if e.1 / 65536 = h ∧ s.ownerActive e.2 ∧ e.2.due turn then
        if s.keyLost e.1 then t.setKlass e.1 { e.2 with count := e.2.count + 1, skipped := e.2.skipped + 1 }
        else t.releaseUnit e.1 turn
      else t) s).upSch fun c => { c with early := c.early.filter fun e => !(e.1 / 65536 == h) }

/-- Releases whose counts were passed over are added to the release counts without running (R163). -/
def State.passOver (s : State) (h from' upTo : Nat) : State :=
  let turns := (List.range (upTo - from' - 1)).map (from' + 1 + ·)
  s.sch.classes.foldl
    (fun t e =>
      if e.1 / 65536 = h ∧ s.ownerActive e.2 ∧ e.2.period ≠ 0 then
        let n := (turns.filter fun x => e.2.due x).length
        t.setKlass e.1 { e.2 with count := e.2.count + n, skipped := e.2.skipped + n }
      else t) s

/-! ## Phases, class entries and images (R167, R173, R251) -/

/-- The phase of a new class (R173): for an admitted class the one with the smallest peak of releases, then of volume, then the
lowest; for a deferrable class the one with the fewest deferrable releases in the busiest turn. `others` are the stone's classes. Marks: DEDUCED unsafe (log entry 288). -/
def choosePhase (k : Klass) (others : List Klass) : Nat :=
  let same := others.filter fun x => x.defer == k.defer && x.period != 0
  let score (p : Nat) : Nat × Nat :=
    let l := { k with phase := p } :: same
    (peakOf (fun _ => 1) l, if k.defer then 0 else peakOf Klass.volume l)
  let better (a b : Nat × Nat) := decide (a.1 < b.1) || (a.1 == b.1 && decide (a.2 < b.2))
  if k.period = 0 then 0
  else ((List.range k.period).foldl (fun (acc : Nat × (Nat × Nat)) p =>
    let v := score p
    if p = 0 ∨ better v acc.2 then (p, v) else acc) (0, (0, 0))).1

/-- Phases for a list of new classes, one after another. Marks: DEDUCED unsafe (log entry 288). -/
def choosePhases : List Klass → List Klass → List Klass
  | [], _ => []
  | k :: l, others => let k' := { k with phase := choosePhase k others }; k' :: choosePhases l (k' :: others)

/-- The lowest class index of a half that is free, at or above one. -/
def State.freeClass (s : State) (h : Nat) : Nat :=
  let used := (s.sch.classes.filter fun e => e.1 / 65536 == h).map fun e => e.1 % 65536
  ((List.range (used.length + 1)).find? fun i => !used.contains i).getD 0

/-- Enters a class in its half's table; answers its key. -/
def State.addClass (s : State) (k : Klass) : State × Nat :=
  let h := k.stone / 640
  let key := 65536 * h + s.freeClass h
  (s.setKlass key k, key)

/-- The length of an image in a kernel area: 188 KiB for the library, whole blocks of 4 KiB of a kernel's header and code. -/
def State.imageLen (s : State) (kern : Option Nat) : Nat :=
  match kern with
  | none => 192512
  | some k => match s.sch.kerns.find? fun e => e.1 == k with
    | some e => 4096 * ceilDiv e.2.image.length 4096
    | none => 0

/-- The images placed in a mill. -/
def State.placedIn (s : State) (m : Nat) : List Placed := Tab.get (fun _ => ([] : List Placed)) s.sch.placed m

/-- Places an image in a mill's kernel area (R251), first fit in blocks of 4 KiB and the library at offset 0; none where it does not
fit. Answers the state and the offset. Marks: DESIGN CHOICE unsafe (log entry 133). -/
def State.placeImage (s : State) (m : Nat) (kern : Option Nat) : Option (State × Nat) :=
  let l := s.placedIn m
  match l.find? fun p => p.kern == kern with
  | some p => some (s, p.off)
  | none =>
    let len := s.imageLen kern
    let fits (o : Nat) := decide (o + len ≤ s.karea m) && l.all fun p => decide (o + len ≤ p.off) || decide (p.off + p.len ≤ o)
    let spots := match kern with | none => [0] | some _ => (List.range (s.karea m / 4096)).map (4096 * ·)
    match spots.find? fits with
    | none => none
    | some o =>
      let s1 := s.upSch fun c => { c with placed := Tab.set (fun _ => []) c.placed m (l ++ [⟨kern, o, len⟩]) }
      let img : List Byte := match kern with
        | none => []
        | some k => match s.sch.kerns.find? fun e => e.1 == k with | some e => e.2.image | none => []
      let mi := s1.mill m
      some (if img = [] then s1 else s1.setMill m { mi with bin := memPut mi.bin o img }, o)

/-- Where the library image places a class's entry point, its fault vector (1000) and its doorbell vector (1001). -/
def libOffset (code : Nat) : Nat := (Config.libEntry code).toNat

/-- A class with its entry point and vectors adjusted by its image's placement (R251). -/
def State.entryOf (s : State) (k : Klass) (off : Nat) : Klass :=
  match k.kern with
  | none => { k with entry := off + libOffset k.lib, fvec := off + libOffset 1000, bvec := off + libOffset 1001 }
  | some q => match s.sch.kerns.find? fun e => e.1 == q with
    | none => k
    | some e =>
      let vec (v : Nat) := if v = 0 then 0 else off + v
      { k with entry := off + (e.2.classes.getD k.lib ⟨0, 0, 0, 0, 0, false⟩).entry, fvec := vec e.2.fvec, bvec := vec e.2.bvec }

/-- Adds classes to their stone with images placed and phases chosen; none where an image does not fit. Answers the keys. -/
def State.addClasses (s : State) (l : List Klass) : Option (State × List Nat) :=
  let n := (l.head?.map fun k => k.stone).getD 0
  (choosePhases l (s.stoneClasses n)).foldl
    (fun acc k => match acc with
      | none => none
      | some (t, keys) => match t.placeImage (n / 16) k.kern with
        | none => none
        | some (t1, off) => let r := t1.addClass (t1.entryOf k off); some (r.1, keys ++ [r.2])) (some (s, []))

/-! ## Mixers (R244) -/

/-- Frees the images of a mill that no class of it uses (R251). -/
def State.freePlaced (s : State) (m : Nat) : State :=
  let used := (s.sch.classes.filter fun e => e.2.stone / 16 == m).map fun e => e.2.kern
  let l := Tab.get (fun _ => ([] : List Placed)) s.sch.placed m
  s.upSch fun c => { c with placed := Tab.set (fun _ => []) c.placed m (l.filter fun p => used.contains p.kern) }

/-- The items of a queue for a class are no longer wanted. -/
def State.unwant (s : State) (id cls : Nat) : State :=
  let q := s.queue id
  s.setQueue id { q with items := q.items.map fun i => if i.seen.isSome ∧ i.cls = cls then { i with committed := true } else i }

/-- Takes a class out of its table with its context, its kernel state, the write-backs of its context and any early prefetch; the items that wait for
it are wanted no longer (R188). -/
def State.dropClass (s : State) (key : Nat) : State :=
  let k := s.klass key
  let s1 := s.upSch fun c => { c with classes := Tab.erase c.classes key, ctxMem := Tab.erase c.ctxMem key, kst := Tab.erase c.kst key,
                                      slots := c.slots.filter (fun e => !(e.2.cls == key)),
                                      early := Tab.erase c.early key, ctxPoison := c.ctxPoison.filter fun x => !(x == key) }
  ((s.inputQueues k.stone).foldl (fun t id => t.unwant id (key % 65536)) s1).freePlaced (k.stone / 16)

/-- A mixer class a bundle needs (R244): which one it is (g for the segment of slots 16g to 16g + 15, 64 × level + i for join i of a level from 1),
its library class and its cost. -/
structure MixSpec where
  id : Nat
  code : Nat
  cost : Nat
  deriving DecidableEq, Repr

/-- The join levels over a number of inputs (R211, R244), from a level up. -/
def joinSpecs : Nat → Nat → Nat → List MixSpec
  | 0, _, _ => []
  | fuel + 1, lvl, n =>
    if n ≤ 1 then []
    else
      let j := ceilDiv n 7
      (List.range j).map (fun i => ⟨64 * lvl + i, 16, 6000 + 2400 * (n / j + if i < n % j then 1 else 0)⟩) ++ joinSpecs fuel (lvl + 1) j

/-- Join levels L of a bundle with S segments. -/
def joinLevels : Nat → Nat → Nat
  | 0, _ => 0
  | fuel + 1, n => if n ≤ 1 then 0 else 1 + joinLevels fuel (ceilDiv n 7)

/-- The mixer classes a bundle needs (R244): a MIX_SEG for each group of 16 slots with a member, and the joins. -/
def mixSpecs (m : Tab Owner) : List MixSpec :=
  let segs := ((List.range 64).map fun g => (g, (m.filter fun e => e.1 / 16 == g).length)).filter fun e => e.2 != 0
  segs.map (fun e => ⟨e.1, 15, 5000 + 3100 * e.2⟩) ++ joinSpecs 4 1 segs.length

/-- A mixer class on a bundle's stone. -/
def mixClass (b : Nat) (x : Bundle) (v : MixSpec) : Klass :=
  { owner := .bundle b, pos := v.id, lib := v.code, cost := v.cost, period := 5, w := 15872, io := 4096, stone := x.stone, polder := x.polder }

/-- The class of a bundle that is a mixer class it needs. -/
def State.mixKey (s : State) (x : Bundle) (id : Nat) : Option Nat := x.classes.find? fun k => (s.klass k).pos == id

/-- The cost of a mixer class changes in place. -/
def State.recost (s : State) (x : Bundle) (v : MixSpec) : State :=
  match s.mixKey x v.id with
  | some k => s.setKlass k { s.klass k with cost := v.cost }
  | none => s

/-- Recomputes a bundle's mixer classes after a join or leave (R244): a class it still needs keeps its entry with its new cost, the others leave, and
missing ones are added. They stand in the order of segments and joins. -/
def State.remix (s : State) (b : Nat) : State :=
  let x := s.bundle b
  let want := mixSpecs x.members
  let s1 := (x.classes.filter fun k => !(want.any fun v => v.id == (s.klass k).pos)).foldl State.dropClass s
  let s2 := want.foldl (fun t v => t.recost x v) s1
  let s3 := match s2.addClasses ((want.filter fun v => (s.mixKey x v.id).isNone).map (mixClass b x)) with
    | none => (s2, [])
    | some r => r
  let all := { x with classes := (x.classes.filter fun k => want.any fun v => v.id == (s.klass k).pos) ++ s3.2 }
  s3.1.setBundle b { x with classes := want.filterMap fun v => s3.1.mixKey all v.id }

/-! ## Speakers (R245) -/

/-- Of slots with their levels, the louder one; at equal levels the lower slot. -/
def louderOf (a b : Nat × Nat) : Nat × Nat := if a.2 < b.2 ∨ (a.2 = b.2 ∧ b.1 < a.1) then b else a

/-- The loudest of a list, and the quietest. -/
def loudest : List (Nat × Nat) → Option (Nat × Nat)
  | [] => none
  | a :: l => some (l.foldl louderOf a)
def quietest : List (Nat × Nat) → Option (Nat × Nat)
  | [] => none
  | a :: l => some (l.foldl (fun x y => if louderOf x y = x then y else x) a)

/-- The speakers after one release (R245), by each slot's energy over 20 ms in units of 0.25 dB: places that are free go to the loudest, and a slot that
has been louder than the quietest speaker by 3 dB in 2 consecutive releases replaces it. Marks: DEDUCED safe (log entry 354). -/
def Bundle.select (b : Bundle) (levels : List (Nat × Nat)) : Bundle :=
  let here := levels.filter fun e => b.members.any fun m => m.1 == e.1
  let live := b.speak.filter fun k => b.members.any fun m => m.1 == k
  let rest (l : List Nat) := here.filter fun e => !l.contains e.1
  if live.length < b.speakers then
    { b with louder := [], speak := (List.range (b.speakers - live.length)).foldl (fun l _ => match loudest (rest l) with | some e => l ++ [e.1] | none => l) live }
  else
    match quietest (live.map fun k => (k, ((here.find? fun e => e.1 == k).map (·.2)).getD 0)) with
    | none => { b with speak := live, louder := [] }
    | some q =>
      let up := (rest live).filter fun e => decide (q.2 + 12 ≤ e.2)
      let count (k : Nat) := Tab.get (fun _ => 0) b.louder k + 1
      match loudest (up.filter fun e => decide (2 ≤ count e.1)) with
      | some e => { b with speak := (live.filter fun k => k != q.1) ++ [e.1], louder := [] }
      | none => { b with speak := live, louder := up.foldl (fun t e => Tab.set (fun _ => 0) t e.1 (count e.1)) [] }

/-! ## Objects reaching IDLE (R175, R512, R514) -/

/-- An index is freed in the turn that starts: its generation moves on and it is in quarantine for 64 turns (R512). -/
def State.freeIndex (s : State) (typ p idx turn : Nat) : State :=
  let key := objKey typ p idx
  { s with vk := { s.vk with gens := Tab.set (fun _ => 0) s.vk.gens key ((s.gen typ p idx + 1) % 2 ^ 24),
                             quar := Tab.set (fun _ => 0) s.vk.quar key (turn + 64) } }

/-- Completes the DRAIN commands that wait for an object (R516). -/
def State.drained (s : State) (handle turn : Nat) : State :=
  (s.vk.cmds.filter fun c => c.opcode == 0x15 && c.started && c.handle == handle).foldl
    (fun t c => t.complete c 0 0 turn) s

/-- Has a class work released or sealed and not committed? -/
def State.classOpen (s : State) (key : Nat) : Bool :=
  s.sch.wus.any (fun e => e.2.cls == key) || s.sch.logs.any fun e => e.2.any fun l => l.cls == key

/-- Frees the jitter-buffer packets of a stream that a test names; those a release took have been consumed (R234). -/
def State.jbFree (s : State) (i : Nat) (f : JPkt → Bool) : State :=
  let x := s.strm i
  let n := (x.buf.filter f).foldl (fun n k => n + k.cells) 0
  let eaten := ((x.buf.filter fun k => f k && k.taken.isSome).map (·.seq)) ++ x.consumed
  (s.setStrm i { x with buf := x.buf.filter (fun k => !f k),
                        consumed := eaten.filter fun e => decide (((x.h.getD 0) + 2 ^ 32 - e) % 2 ^ 32 ≤ 100) }).setJbUsed x.polder (s.jbUsed x.polder - n)

/-- A member leaves its bundle. -/
def State.unjoin (s : State) (m : Owner) : State :=
  let gone (t : State) (b slot : Nat) : State :=
    let t1 := t.setBundle b { t.bundle b with members := Tab.erase (t.bundle b).members slot, from' := Tab.erase (t.bundle b).from' slot }
    if (t1.bundle b).st = .draining then t1 else t1.remix b
  match m with
  | .chan c => match (s.chan c).member with
    | some (b, slot) => (gone s b slot).setChan c { s.chan c with member := none }
    | none => s
  | .bundle d => match (s.bundle d).member with
    | some (b, slot) => (gone s b slot).setBundle d { (gone s b slot).bundle d with member := none }
    | none => s

/-- A draining channel whose last work unit is committed reaches IDLE: its classes, grains and index are freed (R175). -/
def State.chanIdle (s : State) (c turn : Nat) : State :=
  let x := s.chan c
  let all := x.keys
  if x.st ≠ .draining ∨ all.any s.classOpen then s
  else
    let h := s.handleOf 2 x.polder c
    let ab := leAt x.params 4 4
    let ba := leAt x.params 8 4
    let s1 := (all.foldl State.dropClass s).unjoin (.chan c)
    let s2 := (s1.upStrm ab fun y => { y with chan := none }).upStrm ba fun y => { y with chan := none }
    ((s2.setChan c {}).freeIndex 2 x.polder c turn).drained h turn

/-- The same for a bundle; every member leaves at that commit (R246). -/
def State.bundleIdle (s : State) (b turn : Nat) : State :=
  let x := s.bundle b
  if x.st ≠ .draining ∨ x.classes.any s.classOpen then s
  else
    let h := s.handleOf 3 x.polder b
    let s1 := ((x.classes.foldl State.dropClass s).unjoin (.bundle b))
    let s2 := x.members.foldl (fun t e => match e.2 with
      | .chan c => t.setChan c { t.chan c with member := none }
      | .bundle d => t.setBundle d { t.bundle d with member := none }) s1
    ((s2.setBundle b {}).freeIndex 3 x.polder b turn).drained h turn

/-- A draining stream reaches IDLE (R514): entries removed, jitter-buffer cells freed, index freed. Its packets are not counted anywhere (R35).
Marks: DESIGN CHOICE unsafe (log entry 33). -/
def State.streamIdle (s : State) (i turn : Nat) : State :=
  let x := s.strm i
  let h := s.handleOf 1 x.polder i
  let s1 := (((s.scnt i 8 (x.buf.filter fun k => k.taken.isNone).length).jbFree i fun _ => true).removeSlot (2 * i)).removeSlot (2 * i + 1)
  ((s1.setStrm i {}).freeIndex 1 x.polder i turn).drained h turn

/-! ## Commits (R187, R188) -/

/-- A canceller's state after one release committed (R225): a 2100 Hz tone on the audio received on either side disables it, and 250 ms below -36 dBm0
in both directions bring it, and voiceband data mode (R236), back. The new state and the quiet releases counted. -/
def toneDisable (obeys : Bool) (old quiet : Nat) (vbd : Bool) (e : SideSeal) : Nat × Nat × Bool :=
  let q := if e.quiet ∧ (old ≠ 0 ∨ vbd) then quiet + 1 else 0
  if 50 ≤ q then (0, 0, false) else (if obeys then max old e.disables else 0, q, vbd)

/-- What one side of a channel sealed is committed (R219, R225, R236, R237): the figures, the target, the step of O where the stream engine has not set
it since, and what its audio does to the cancellers. Marks: DESIGN CHOICE safe (log entry 137). -/
def State.commitSide (s : State) (c side : Nat) (v : SideSeal) : State :=
  let x := s.chan c
  let i := if side = 0 then leAt x.params 4 4 else leAt x.params 8 4
  let k := (s.jbView x side).k
  let t1 := s.upStrm i fun y =>
    if y.oSets = v.oSets ∧ v.adjust ≠ 0 then
      { y with target := some v.target, o := y.o.map fun o => toBits 32 (Int.ofNat o + v.adjust * Int.ofNat k), delay := (Int.ofNat y.delay - 5 * v.adjust).toNat }
    else { y with target := some v.target }
  let one (z : Nat) : Nat × Nat × Bool :=
    toneDisable (bitAt (ecWord x.params z) 1) (x.disabled.getD z 0) (x.quiet.getD z 0) (x.vbd.getD z false)
      { v with quiet := if z = side then v.quiet else false, disables := v.disables }
  let mine := one side
  let other := if v.disables = 0 then (x.disabled.getD (1 - side) 0, x.quiet.getD (1 - side) 0, x.vbd.getD (1 - side) false) else one (1 - side)
  let pair {α : Type} (a b : α) : List α := if side = 0 then [a, b] else [b, a]
  let x1 := x.upSide side fun old =>
    { old with erl := v.erl, erle := v.erle, ecState := v.ecState, tone := v.tone, target := v.target, delay := (t1.strm i).delay,
               concealed := (old.concealed + v.concealed) % 2 ^ 32, badPt := (old.badPt + v.badPt) % 2 ^ 32 }
  t1.setChan c { x1 with disabled := pair mine.1 other.1, quiet := pair mine.2.1 other.2.1, vbd := pair (mine.2.2 || v.vbd) other.2.2 }

/-- What a library kernel sealed is committed: each side, the results of QOS_EVAL (R214), and a bundle's speakers by the levels its last mixer class
found (R245). -/
def State.commitSides (s : State) (e : SealEntry) : State :=
  match (s.klass e.cls).owner with
  | .bundle b =>
    let x := s.bundle b
    if e.status = none ∧ x.classes.getLast? = some e.cls then s.setBundle b (x.select e.levels) else s
  | .chan c =>
    let step (t : State) (side : Nat) : State := match (e.sides.getD side none) with | some v => t.commitSide c side v | none => t
    let s1 := step (step s 0) 1
    let x := s1.chan c
    s1.setChan c (if e.eval = [] then { x with commitTurn := s.turn (e.cls / 65536) } else
      { x with commitTurn := s.turn (e.cls / 65536), eval := some (s.turn (e.cls / 65536), e.eval), evalBase := e.evalBase })

/-- The packets a release took from a stream are freed (R340); those dropped as late are counted (R237). -/
def State.commitPackets (s : State) (i wu : Nat) : State :=
  let late := ((s.strm i).buf.filter fun k => k.taken == some wu && k.late).length
  let s1 := s.jbFree i fun k => k.taken == some wu
  if late = 0 then s1 else s1.scnt i 8 late

/-- Commits one sealed work unit: its outputs are visible, the packets and items it took are freed (R187, R340). -/
def State.commitEntry (s : State) (e : SealEntry) : State :=
  let s1 := s.qCommitAll e.wu
  let s2 := (s.received e.cls).foldl (fun t r => t.commitPackets r.1 e.wu) s1
  let s3 := e.taken.foldl (fun t r =>
    let q := t.queue r.1
    t.setQueue r.1 { q with items := q.items.map fun i => if i.id = r.2 then { i with committed := true } else i }) s2
  s3.commitSides e

/-- May an item be freed: a committed work unit has taken it, or no unit will, its class having gone (R188)? Marks: DEDUCED safe (log entry 342). -/
def State.itemDone (s : State) (half : Nat) (i : QItem) : Bool :=
  i.committed || (i.seen.isSome && i.taken.isNone && !(s.sch.classes.any fun e => e.1 == 65536 * half + i.cls))

/-- The queues of a role are released up to the first item that an unsealed unit has taken or a unit is still to take (R188). -/
def State.releaseQueues (s : State) (q : Nat) : State :=
  (qHeadrace q :: (List.range 16).map (qStage q)).foldl
    (fun t id =>
      let ids := ((t.queue id).items.takeWhile fun i => t.itemDone (q / 32) i).map (·.id)
      if ids = [] then t else t.qRemove id fun i => ids.contains i.id) s

/-- The counts that STATUS reports as of the latest turn commit (R219): LATE, OVERFLOW and BAD_OUTPUT of the channels of a half whose commits are not held. -/
def State.snapSides (s : State) (h : Nat) : State :=
  s.sch.chans.foldl
    (fun t e =>
      if e.2.st = .idle ∨ e.2.stone / 640 ≠ h ∨ s.sch.takeover.contains (e.2.stone / 80) then t
      else
        let f (i : Nat) (v : SideStat) : SideStat :=
          { v with late := (t.strm i).cnt 8, overflow := (t.strm i).cnt 9, badOut := (v.badOut + v.badNext) % 2 ^ 32, badNext := 0 }
        t.setChan e.1 (((t.chan e.1).upSide 0 (f (leAt e.2.params 4 4))).upSide 1 (f (leAt e.2.params 8 4)))) s

/-- Commits the seals of a role that belong to turns up to one. -/
def State.commitRole (s : State) (q upto : Nat) : State :=
  let l := s.log q
  let s1 := (l.filter fun e => decide (e.turn ≤ upto)).foldl State.commitEntry s
  (s1.setLog q (l.filter fun e => !decide (e.turn ≤ upto))).releaseQueues q

/-- The channels and bundles of a half whose last work is committed reach IDLE (step 5). Marks: DEDUCED unsafe (log entry 136). -/
def State.idleObjects (s : State) (h turn : Nat) : State :=
  let s1 := s.sch.chans.foldl (fun t e => if e.2.stone / 640 = h then t.chanIdle e.1 turn else t) s
  s1.sch.bundles.foldl (fun t e => if e.2.stone / 640 = h then t.bundleIdle e.1 turn else t) s1

/-- The commit of a closing turn in a half (R187): every row not in take-over; the others are held. -/
def State.commitTurn (s : State) (h closing : Nat) : State :=
  let s1 := (List.range 8).foldl
    (fun t i =>
      let r := 8 * h + i
      if t.sch.takeover.contains r then
        t.upSch fun c => { c with heldTurns := Tab.set (fun _ => []) c.heldTurns r (Tab.get (fun _ => []) c.heldTurns r ++ [closing]) }
      else (List.range 4).foldl (fun u j => u.commitRole (4 * r + j) closing) t) s
  s1.idleObjects h (closing + 1)

/-! ## What takes effect at a boundary (R217, R314, R512) -/

/-- A channel's parameter block is written to its classes' contexts at 0x3E00 (R215). -/
def State.writeParams (s : State) (c : Nat) (b : List Byte) : State :=
  let x := s.chan c
  x.keys.foldl (fun t k => t.setCtx k (memPut (t.ctxOf k) 0x3E00 b)) (s.setChan c { x with params := b })

/-- The millpond units of a DIKE_PWIN word: its half and units, none where it is not VALID. -/
def pwinUnits (v : Nat) : List (Nat × Nat) :=
  let a := bitField v 4 4
  if bitAt v 31 then (List.range (bitField v 0 4 + 1 - a)).map fun i => (bitField v 8 1, a + i) else []

/-- Is a millpond offset in one of some units of the shared-data areas (R478)? -/
def inUnits (units : List (Nat × Nat)) (o : Nat) : Bool :=
  decide (0x1F00000 ≤ o % 0x2000000) && units.contains (o / 0x2000000, (o % 0x2000000 - 0x1F00000) / 0x10000)

/-- The far accesses of a stone to units that are withdrawn proceed: they were made before the commit (R485). Marks: DEDUCED safe (log entry 389). -/
def State.settleFar (s : State) (n : Nat) (units : List (Nat × Nat)) : Nat → State
  | 0 => s
  | fuel + 1 =>
    let far := (s.stone n).far
    match far.findIdx? fun f => match pondOffset f.ea with | some o => inUnits units o | none => false with
    | none => s
    | some k => match far[k]? with
      | some f => (s.farDone n k f {} (s.farPoison f.ea f.kind)).settleFar n units fuel
      | none => s

/-- The lines of some units are recalled and invalidated in every cache (R481). -/
def State.recallUnits (s : State) (units : List (Nat × Nat)) : State :=
  s.upCoh fun c =>
    { c with dir := c.dir.filter fun e => !inUnits units (64 * e.1), cache := c.cache.filter fun e => !inUnits units (64 * (e.1 % 2 ^ 20)),
             txns := c.txns.filter fun t => !inUnits units (64 * t.line) }

/-- A window takes its new units (R481): the lines of the units withdrawn are recalled, once the accesses made to them have proceeded, and the units withdrawn and
those newly granted are zeroised. -/
def State.windowTurn (s : State) (p w word : Nat) : State :=
  let old := pwinUnits (s.rd T.dike p (0x70 + 4 * w))
  let new := pwinUnits word
  let gone := old.filter fun u => !new.contains u
  let stones := ((List.range s.fuse.mills).filter fun m => s.fget F.MILL_ROLE_POLDER m == p).flatMap fun m => (List.range 16).map (16 * m + ·)
  let s1 := (stones.foldl (fun (t : State) n => t.settleFar n gone (t.stone n).far.length) s).recallUnits gone
  ((gone ++ new.filter fun u => !old.contains u).foldl (fun t u => t.pondZero (u.1 * 0x2000000 + 0x1F00000 + u.2 * 0x10000) 0x10000) s1).wr T.dike p (0x70 + 4 * w) word

/-- A transmit index and timestamp advanced by an age in ms (R602): ceil(age ÷ 10 ms) + 16 packets, and age × the RTP clock rate. -/
def State.resumeStream (s : State) (i age hz turn : Nat) : State :=
  let s1 := s.upStrm i fun y => { y with
    st := .active, txIndex := (y.txIndex + ceilDiv age 10 + 16) % 2 ^ 48, tsAdd := (y.tsAdd + age * hz / 1000) % 2 ^ 32,
    rtp := { y.rtp with got := [] }, rtcp := { y.rtcp with got := [] },
    weir := ⟨leAt y.desc 0x34 1 * tokenUnit, s.nowUnits⟩, rtcpTurn := some (turn + leAt y.desc 0x75 1 * 500) }
  s1.slotState i 2

/-- A channel that a resume walk has applied becomes ACTIVE with both its streams (R602). Marks: DEDUCED unsafe (log entry 318). -/
def State.resumeChan (s : State) (c age turn : Nat) : State :=
  let x := s.chan c
  if x.st ≠ .bound then s
  else
    let one (t : State) (side i : Nat) : State := if (t.strm i).st = .bound then t.resumeStream i age (t.sideClock x side).1 turn else t
    (one (one s 0 (leAt x.params 4 4)) 1 (leAt x.params 8 4)).setChan c { x with st := .active, resumed := true }

/-- The units of a channel released before a new parameter block takes effect, and not sealed, keep the one in force at their release (R217). -/
def State.keepParams (s : State) (c : Nat) : State :=
  let d := (s.chan c).params
  let old (w : WU) : Bool := (s.klass w.cls).owner == .chan c && w.params.isNone
  s.upSch fun q => { q with wus := q.wus.map fun e => if old e.2 then (e.1, { e.2 with params := some d }) else e }

/-- The time a tone takes in ms (R240, R241): the on and off times of a digit, the cadence of a call-progress definition; none for one that is
continuous or repeated, and for ANS and ANSam, which play until they are stopped. Marks: DEDUCED safe (log entry 355). -/
def State.toneTime (s : State) (p : Nat) (t : Tone) : Option Nat :=
  if t.repeats then none
  else if t.kind = 1 then some (t.on + t.off)
  else if t.kind = 2 then
    match s.cpDef p t.digit with
    | none => some 0
    | some d =>
      let pairs := (List.range (leAt d 4 1)).map fun j => (leAt d (8 + 4 * j) 2, leAt d (10 + 4 * j) 2)
      if pairs.any fun e => e.2 == 0 then none else some (pairs.foldl (fun n e => n + e.1 + e.2) 0)
  else none

/-- A tone with the turn at which it ends: it starts with the first release, from a turn on, of the class that transmits on its side (R240). -/
def State.toneEnds (s : State) (c side turn : Nat) (t : Tone) : Tone :=
  let x := s.chan c
  let k := s.klass (x.classes.getD (txPos x.typ side) 0)
  { t with ends := (s.toneTime x.polder t).map fun ms => nextRelease (turn - 1) k.period k.phase + ceilDiv ms 5 * 5 }

/-- The tones of a half's channels that have ended play no longer (R240). -/
def State.endTones (s : State) (h turn : Nat) : State :=
  let ended (t : Option Tone) : Bool := match t with | some x => (match x.ends with | some e => decide (e ≤ turn) | none => false) | none => false
  s.sch.chans.foldl
    (fun u e => if e.2.stone / 640 = h ∧ e.2.tones.any ended then u.setChan e.1 { u.chan e.1 with tones := e.2.tones.map fun t => if ended t then none else t } else u) s

/-- One effect at its boundary. -/
def State.applyFx (s : State) (turn : Nat) : TurnFx → State
  | .streamDesc i d =>
      if (s.strm i).st = .idle then s
      else
        let s1 := s.upStrm i fun x => x.modified (s.miller 0).lastB d
        (s1.refreshSlot (2 * i)).refreshSlot (2 * i + 1)
  | .streamIdle i => if (s.strm i).st = .draining then s.streamIdle i turn else s
  | .chanParams c b =>
      let x := s.chan c
      if x.st = .idle then s else (s.keepParams c).writeParams c (sub b 0 1 ++ leBytes 1 x.slot ++ sub b 2 0x2E ++ sub x.params 0x30 4 ++ b.drop 0x34)
  | .chanActive c => if (s.chan c).st = .bound then s.setChan c { s.chan c with st := .active } else s
  | .tone c side t => if (s.chan c).st = .active then s.setChan c { s.chan c with tones := setAt (s.chan c).tones side (t.map fun x => s.toneEnds c side turn x) } else s
  | .cpDefine p idx d => s.upSch fun c =>
      { c with cpDefs := Tab.set (fun _ => []) c.cpDefs (16 * p + idx) d, cpFrom := Tab.set (fun _ => 0) c.cpFrom (16 * p + idx) (s.miller 0).lastB }
  | .qosDrop _ => s
  | .leave m => s.unjoin m
  | .resume c age => s.resumeChan c age turn
  | .pwin p _ w word => s.windowTurn p w word

/-- The half at whose boundary an effect takes place: that of the channel, bundle or millpond it changes; the first for streams and definitions, which
have none. Marks: DEDUCED unsafe (log entry 131). -/
def State.fxHalf (s : State) : TurnFx → Nat
  | .streamDesc _ _ => 0
  | .streamIdle _ => 0
  | .chanParams c _ => (s.chan c).stone / 640
  | .chanActive c => (s.chan c).stone / 640
  | .tone c _ _ => (s.chan c).stone / 640
  | .cpDefine _ _ _ => 0
  | .qosDrop c => (s.chan c).stone / 640
  | .leave (.chan c) => (match (s.chan c).member with | some (b, _) => (s.bundle b).stone / 640 | none => 0)
  | .leave (.bundle d) => (s.bundle d).stone / 640
  | .resume c _ => (s.chan c).stone / 640
  | .pwin _ h _ _ => h

/-- The effects of a half due at its boundary that starts a turn. Marks: DEDUCED unsafe (log entry 131). -/
def State.applyDue (s : State) (h turn : Nat) : State :=
  let now (e : Nat × TurnFx) := decide (e.1 ≤ turn) && s.fxHalf e.2 == h && (match e.2 with | .qosDrop _ => false | _ => true)
  let due := s.sch.fx.filter now
  due.foldl (fun t e => t.applyFx turn e.2) (s.upSch fun c => { c with fx := c.fx.filter fun e => !now e })

/-- What is left of a class's work is no longer wanted: its units, wherever they are, and what they sealed. A stone that runs one runs it to its end,
and nothing of it is sealed. -/
def State.dropWork (s : State) (key : Nat) : State :=
  s.upSch fun c => { c with wus := c.wus.filter fun e => !(e.2.cls == key), logs := c.logs.map fun e => (e.1, e.2.filter fun l => !(l.cls == key)) }

/-- A class of QOS_EVAL that is no longer asked for leaves at the commit that follows EFFECTIVE_TURN (R214), where the commits of its row are not held
(R589), and a class with P = 0 leaves once its one release is committed (R164). -/
def State.dropDone (s : State) (h turn : Nat) : State :=
  let due (e : Nat × TurnFx) : Bool := match e.2 with
    | .qosDrop c => decide (e.1 ≤ turn) && (match (s.chan c).qos with | some k => k / 65536 == h && !s.sch.takeover.contains ((s.klass k).stone / 80) | none => true)
    | _ => false
  let s1 := s.upSch fun c => { c with fx := c.fx.filter fun e => !due e }
  let s2 := (s.sch.fx.filter due).foldl
    (fun t e => match e.2 with
      | .qosDrop c =>
        let x := t.chan c
        (match x.qos with | some k => (t.setChan c { x with qos := none, eval := none, evalBase := [] }).dropWork k |>.dropClass k | none => t)
      | _ => t) s1
  s2.sch.classes.foldl
    (fun t e =>
      if e.1 / 65536 ≠ h ∨ e.2.period ≠ 0 ∨ e.2.count = 0 ∨ t.classOpen e.1 then t
      else match e.2.owner with
        | .chan c => (t.setChan c { t.chan c with classes := (t.chan c).classes.map fun k => if k = e.1 then noKey else k }).dropClass e.1
        | .bundle _ => t) s2

/-! ## Snapshots (R520, R521) -/

/-- The readout of a polder: the counter block of each of its streams, then its spillway counters and the turn. Marks: DEDUCED unsafe (log entry 135). -/
def State.snapshotOut (s : State) (c : VCmd) (turn : Nat) : State :=
  let p := c.polder
  let base := s.fget F.DIKE_STREAM_BASE_BASE p
  let n := s.fget F.DIKE_STREAM_COUNT_COUNT p
  let block (i : Nat) : List Byte :=
    let x := s.strm (base + i)
    if x.st = .idle then List.replicate 64 0 else ((List.range 16).map fun k => leBytes 4 (x.cnt k)).flatten
  let spills := [C.SPILL_SWEIR, C.SPILL_PWEIR, C.SPILL_EWEIR, C.SPILL_QFULL, C.SPILL_POISON, C.SPILL_LINK, C.SPILL_RESET]
  let last := (spills.map fun k => leBytes 8 (s.cget k 0 p)).flatten ++ leBytes 8 turn
  let s1 := (List.range n).foldl (fun t i => t.emit (.dmaWrite p (c.addr + 64 * i) (block i))) s
  (s1.emit (.dmaWrite p (c.addr + 64 * n) last)).complete c 0 0 turn (n + 1)

/-- Step 2 of the commit: the pending SNAPSHOTs share one flip of the epoch. Marks: DEDUCED unsafe (log entry 135). -/
def State.epochFlip (s : State) (turn : Nat) : State :=
  (s.vk.cmds.filter fun c => c.opcode == 0x28 && c.started).foldl (fun t c => t.snapshotOut c turn) s

/-! ## Boundaries (R160 to R163) -/

/-- A spare that has taken over holds role 0x1 from the end of the turn that follows the one in which its take-over completed (R590). -/
def State.claimsEnd (s : State) (h turn : Nat) : State :=
  let due (e : Nat × Nat) := halfOf e.1 == h && decide (e.2 + 2 ≤ turn)
  (s.ras.claimedAt.filter due).foldl (fun t e => t.fset F.MILL_ROLE_ROLE e.1 1)
    { s with ras := { s.ras with claimedAt := s.ras.claimedAt.filter fun e => !due e } }

/-- The boundary of a deadline fixes the departure of what the unit sends (R164): its deadline plus 4 µs. -/
def State.setDepartures (s : State) (h turn time : Nat) : State :=
  let t := time + 4000 * unitNs
  let due (i : QItem) : Bool := i.half == h && (match i.dep with | some d => decide (d ≤ turn) | none => false)
  let s1 := s.upSch fun c => { c with wus := c.wus.map fun e =>
    if e.2.stone / 640 = h ∧ ¬ e.2.defer ∧ e.2.deadline ≤ turn ∧ e.2.depart = none then (e.1, { e.2 with depart := some t }) else e }
  s1.qs.q.foldl
    (fun u e => if e.2.items.any due then u.setQueue e.1 { e.2 with items := e.2.items.map fun i => if due i then { i with release := t, dep := none } else i } else u) s1

/-- A boundary of a half at a Tide time that starts a turn, counted from its own count: epoch flip, effects, releases, surplus and commits. At the load of
MILLER_TURN the counts between are passed over like those of R163. Marks: DESIGN CHOICE unsafe (log entry 373). -/
def State.boundary (s : State) (h turn time : Nat) : State :=
  let closing := s.ownTurn h
  let s1 := (s.claimsEnd h turn).cset C.MILLER_TURN h turn
  let s2 := ((s1.setMiller h { s1.miller h with lastB := time, made := turn }).setDepartures h turn time).endTones h turn
  let s3 := if h = 0 then ((s2.epochFlip turn).applyDue h turn).pressTurn else s2.applyDue h turn
  let s4 := (((s3.vaneTurn h).halfMin h).avsCheck).publish h
  let s5 := if closing + 1 < turn then s4.passOver h closing turn else s4
  let s6 := s5.releases h turn
  ((s6.commitTurn h (turn - 1)).snapSides h).dropDone h turn

/-- The count nearest to a half's own whose low 16 bits are a mark's (R163). -/
def nearestTurn (own mark : Nat) : Nat :=
  let up := (mark % 65536 + 65536 - own % 65536) % 65536
  if up ≤ 32768 then own + up else own + up - 65536

/-- TURN_BOUNDARY (R160, R162, R163): the first mark Tide has sent arrives through the tick lock (R70), where that runs, and takes effect. A mark that
comes earlier than 1,000 µs after a substitute boundary is passed over; the mark that ends MARK_LOSS sets MILLER_TURN to the count nearest its own,
and a half that has made boundaries beyond it makes none until the marks' count has reached its own. Before Tide reports its time valid, each mark adds
one to a count from 0. Marks: DESIGN CHOICE unsafe (log entry 372). -/
def execTurnBoundary (h : Nat) (early : Bool) (s : State) : Res :=
  let x := s.miller h
  if ¬ s.tickRuns h then .next s else
  match x.marks with
  | [] => .next s
  | (v, time) :: rest =>
    let s0 := s.setMiller h { x with marks := rest }
    let lost := s.fbit F.MILLER_STAT_MARK_LOSS h
    if lost ∧ early then .next s0
    else
      let s1 := s0.fset F.MILLER_STAT_MARK_LOSS h 0
      if ¬ x.loaded ∧ s.fbit F.TIDE_STAT_TIME_VALID 0 then .next ((s1.setMiller h { s1.miller h with loaded := true }).boundary h (time / (1000000 * unitNs)) time)
      else if ¬ x.loaded ∧ ¬ lost then .next (s1.boundary h (s.turn h + 1) time)
      else
        let t := nearestTurn (s.turn h) v
        if t ≤ s.ownTurn h then .next (s1.cset C.MILLER_TURN h t) else .next (s1.boundary h t time)

/-- MARK_LOSS (R163): no mark within 1,002 µs; the marks on their way are lost. -/
def execMarkLoss (h : Nat) (s : State) : Res :=
  let s1 := s.setMiller h { s.miller h with marks := [] }
  .next ((s1.fset F.MILLER_STAT_MARK_LOSS h 1).raise T.miller h I.MILLER_MARK_LOSS)

/-- SUBSTITUTE_BOUNDARY (R163): the oscillator's boundary while marks are lost. -/
def execSubstituteBoundary (h : Nat) (s : State) : Res :=
  .next (if s.fbit F.MILLER_STAT_MARK_LOSS h then s.boundary h (s.ownTurn h + 1) s.nowUnits else s)

end Sys2Proof.Machine
end

