-- ==== Sys2Proof/Machine/Objects.lean ====
section
/-!
DEFINITION. The Vorak commands on objects (R510 to R521 and what they cite): the order of checks, handles, binding streams,
channels and bundles with admission (R173, R174), changes and their effective turns, status blocks, tones, kernels and
customer types, snapshots and aborts. A command here is one that COMMAND_TAKE has taken; it starts and runs when its row does.
-/

namespace Sys2Proof.Machine

/-! ## Checks (R510) -/

/-- The first failing check of a list, in order, or 0 for OK. -/
def verdict : List (Bool × Nat) → Nat
  | [] => 0
  | (b, st) :: l => if b then st else verdict l

/-- Are the zero fields of a command not zero: FLAGS bits 7:1, offset 4, HANDLE where there is no target object, and the bits of A0 to
A8 outside their masks (R507)? ADDR and LEN have no such rule. Marks: DEDUCED unsafe (log entry 280). -/
def zeroBad (c : VCmd) (useH : Bool) (masks : List Nat) : Bool :=
  decide (2 ≤ c.flags) || c.zero != 0 || (!useH && c.handle != 0)
    || (List.range 9).any fun i => (c.a.getD i 0) &&& ((masks.getD i 0) ^^^ 0xFFFFFFFF) != 0

/-- All 32 bits. -/
def m32 : Nat := 0xFFFFFFFF

/-- The generation a handle must carry: a mill's role epoch, or the index's generation (R511, R512). -/
def State.genOf (s : State) (h : Nat) : Nat :=
  if hTyp h = 6 then s.fget F.MILL_ROLE_EPOCH (hIdx h) else s.gen (hTyp h) (hPol h) (hIdx h)

/-- The state of a polder (R471). -/
def State.polState (s : State) (p : Nat) : Nat := s.fget F.DIKE_STAT_STATE p

/-- The checks before a command's own: unused fields, a boot that is not done (R553), and a polder that is not ACTIVE (R472, R510). Marks: DEDUCED unsafe (log entry 283), DEDUCED unsafe (log entry 284). -/
def State.preChecks (s : State) (c : VCmd) (zb : Bool) : List (Bool × Nat) :=
  [(zb, 6), (s.fget F.TRUST_STAT_STATE 0 != 2, 0xB), (c.polder != 0 && s.polState c.polder == 3, 0xB), (c.polder != 0 && s.polState c.polder != 2, 7)]

/-- The checks on a handle of one of some types. -/
def State.handleType (h : Nat) (types : List Nat) : List (Bool × Nat) := [(!types.contains (hTyp h), 6)]
def State.handleChecks (s : State) (p h : Nat) : List (Bool × Nat) := [(hPol h != p, 7), (hGen h != s.genOf h, 2)]

/-- Runs the taken command of a ring and tag if its opcode is the row's and it may start; `obj` is the object it names beside its
handle (R510: a bind names an index). -/
def runCmd (p ring tag op : Nat) (f : VCmd → State → State) (s : State) (obj : Nat := 0) : Res :=
  match s.findCmd p ring tag with
  | some c => .next (if c.opcode = op ∧ s.ready c (if obj = 0 then objName c.handle else obj) then f c s else s)
  | none => .next s

/-- Completes a command with the verdict of its checks, or runs it. Marks: DEDUCED unsafe (log entry 283). -/
def checked (c : VCmd) (l : List (Bool × Nat)) (f : State → State) (s : State) : State :=
  let v := verdict l
  if v = 0 then f s else s.complete c v

/-- Schedules what takes effect at the boundary that starts a turn. Marks: DEDUCED unsafe (log entry 131). -/
def State.schedule (s : State) (turn : Nat) (e : TurnFx) : State := s.upSch fun c => { c with fx := c.fx ++ [(turn, e)] }

/-- Is an index in quarantine (R512)? -/
def State.quarantined (s : State) (typ p idx : Nat) : Bool :=
  decide (s.turn < Tab.get (fun _ => 0) s.vk.quar (objKey typ p idx))

/-- The 64-bit value of words A(i) and A(i + 1). -/
def VCmd.pair (c : VCmd) (i : Nat) : Nat := c.a.getD i 0 + 2 ^ 32 * c.a.getD (i + 1) 0

/-- Word A(i). -/
def VCmd.w (c : VCmd) (i : Nat) : Nat := c.a.getD i 0

/-! ## NOP, QUERY, SNAPSHOT -/

/-- NOP (R516). -/
def execNopCommand (p ring tag : Nat) (s : State) : Res :=
  runCmd p ring tag 0 (fun c t => checked c (t.preChecks c (zeroBad c false [])) (fun u => u.complete c 0) t) s

/-- The code of an object's state (R516). -/
def ObjSt.code : ObjSt → Nat
  | .idle => 0 | .bound => 1 | .active => 2 | .draining => 3

/-- QUERY (R516): the current handle and state of an index of the caller's polder. Marks: DEDUCED unsafe (log entry 286). -/
def execQuery (p ring tag : Nat) (s : State) : Res :=
  runCmd p ring tag 8 (fun c t =>
    let ty := c.w 0 % 16
    let i := c.w 1
    let top := if ty = 1 then 262144 else if ty = 2 then 65536 else if ty = 3 then 16384 else if ty = 4 then 64 else if ty = 5 then 256 else 80
    let st := match ty with
      | 1 => (t.strm i).st.code
      | 2 => (t.chan i).st.code
      | 3 => (t.bundle i).st.code
      | 4 => if t.sch.kerns.any (fun e => e.1 == 64 * p + i) then 2 else 0
      | 5 => if t.sch.types.any (fun e => e.1 == 256 * p + i) then 2 else 0
      | _ => 2
    let own := match ty with
      | 1 => (t.strm i).st == .idle || (t.strm i).polder == p
      | 2 => (t.chan i).st == .idle || (t.chan i).polder == p
      | 3 => (t.bundle i).st == .idle || (t.bundle i).polder == p
      | 6 => t.fget F.MILL_ROLE_POLDER i == p
      | _ => true
    let h := if ty = 6 then 6 * 2 ^ 60 + p * 2 ^ 56 + t.fget F.MILL_ROLE_EPOCH i * 2 ^ 32 + i else t.handleOf ty p i
    checked c (t.preChecks c (zeroBad c false [15, m32]) ++
      [(!own, 7), (decide (ty = 0 ∨ 6 < ty ∨ top ≤ i) || (ty == 5 && decide (i < 128)), 6)]) (fun u => u.complete c 0 h 0 0 st) t) s

/-- SNAPSHOT (R520, R521): it waits for the next boundary, which flips the epoch and reads the blocks out. -/
def execSnapshot (p ring tag : Nat) (s : State) : Res :=
  runCmd p ring tag 0x28 (fun c t =>
    checked c (t.preChecks c (zeroBad c false []) ++
      [(decide (c.len < 64 * (t.fget F.DIKE_STREAM_COUNT_COUNT p + 1)), 6)]) (fun u => u.markStarted c) t) s

/-! ## Streams (R311 to R314, R632) -/

/-- Is a descriptor's byte range all zero? -/
def zeroAt (d : List Byte) (o n : Nat) : Bool := (sub d o n).all fun b => b == 0

/-- The bytes a descriptor does not list are zero (R312). -/
def descZeros (d : List Byte) : Bool :=
  zeroAt d 0x0D 3 && zeroAt d 0x35 3 && zeroAt d 0x3C 4 && zeroAt d 0x77 9 && zeroAt d 0x83 1 && zeroAt d 0x8C 4

/-- A value out of range in a descriptor (R313), fields of a missing direction exempt (R632). -/
def descBad (d : List Byte) : Bool :=
  let b (o : Nat) := leAt d o 1
  let k := b 4
  let rx := k != 3
  let tx := k != 2
  let fl := b 0x74
  let rs := b 0x80
  let ts := b 0x81
  let name := sub d 0xF0 16
  let tail := (name.dropWhile fun x => x != 0)
  decide (3 < k) || decide (2 < b 5) || decide (2 ^ 18 ≤ leAt d 0 4) || decide (4 < b 0x82)
    || (rx && (decide (2 < b 6) || decide (2 < b 7) || decide (0x1000 ≤ leAt d 8 2) || beAt d 0xA 2 % 2 == 1
      || !(b 0xC == 4 || b 0xC == 6) || leAt d 0x32 2 == 0 || b 0x34 == 0 || decide (7 < rs)))
    || (k == 2 && b 0x40 != 255) || (tx && decide (15 < b 0x40))
    || (tx && (decide (7 < b 0x41) || decide (63 < b 0x42) || b 0x43 == 0 || beAt d 0x4C 2 % 2 == 1
      || !(b 0x76 == 4 || b 0x76 == 6) || decide (b 0x75 = 0 ∨ 60 < b 0x75) || decide (7 < ts)
      || name.head? == some 0 || tail.any (fun x => x != 0)))
    || decide (8 ≤ fl) || (bitAt fl 0 && (k != 0 || rs == 7 || ts == 7))
    || (rx && tx && ((rs == 7) != (ts == 7))) || (k != 0 && ((rx && rs == 7) || (tx && ts == 7)))

/-- The egress VLAN of a descriptor: 0 where untagged. -/
def outVlan (d : List Byte) : Nat := if bitAt (leAt d 0x4A 2) 15 then leAt d 0x4A 2 % 4096 else 0

/-- A descriptor names a VLAN that is not the polder's (R313). -/
def State.descVlanBad (s : State) (p : Nat) (d : List Byte) : Bool :=
  let k := leAt d 4 1
  let bad (v : Nat) := s.vlanPolder 0 v != some p || s.vlanPolder 1 v != some p
  (k != 3 && bad (leAt d 8 2 % 4096)) || (k != 2 && bad (outVlan d))

/-- The key of a descriptor (R295). -/
def descKey (d : List Byte) : ClsKey := ⟨leAt d 8 2 % 4096, leAt d 0xC 1, sub d 0x10 16, beAt d 0xA 2 / 2⟩

/-- Is a key held by another entry than one (the stream's entry for an even key, its second-key entry for an odd one), or about to be by a modify that
has been accepted? -/
def State.keyHeld (s : State) (key : ClsKey) (but : Nat) : Bool :=
  ((s.clsf 0).slots.any fun e => e.2.st != 0 && e.2.key == key && !(e.2.stream == but / 2 && e.2.isAlias == (but % 2 == 1)))
    || s.sch.fx.any fun e => match e.2 with
      | .streamDesc j d => leAt d 4 1 != 3 && descKey d == key && 2 * j != but
      | _ => false

/-- The streams that an accepted modify is about to give an entry (R302, R314). Marks: DEDUCED safe (log entry 392). -/
def State.entriesDue (s : State) : List Nat :=
  (s.sch.fx.filterMap fun e => match e.2 with
    | .streamDesc j d => if leAt d 4 1 ≠ 3 ∧ (s.posOf (2 * j)).isNone then some j else none
    | _ => none).dedup

/-- Classifier entries of a polder, and of the table, with those that accepted modifies are about to make. Marks: DEDUCED safe (log entry 392). -/
def State.polEntries (s : State) (p : Nat) : Nat :=
  ((s.clsf 0).slots.filter fun e => e.2.st != 0 && e.2.polder == p).length + (s.entriesDue.filter fun j => (s.strm j).polder == p).length
def State.tableEntries (s : State) : Nat := s.entries 0 + s.entriesDue.length

/-- Is a stream index in the polder's range? -/
def State.ownIndex (s : State) (p i : Nat) : Bool :=
  let b := s.fget F.DIKE_STREAM_BASE_BASE p
  decide (b ≤ i) && decide (i < b + s.fget F.DIKE_STREAM_COUNT_COUNT p)

/-- BIND_STREAM (R312, R313, R302). -/
def execBindStream (p ring tag : Nat) (desc : Option (List Byte)) (s : State) : Res :=
  runCmd p ring tag 0x10 (fun c t =>
    match desc with
    | none => checked c (t.preChecks c (zeroBad c false [])) (fun u => u.complete c 0xA) t
    | some d =>
      let i := leAt d 0 4 % 2 ^ 18
      let k := leAt d 4 1
      let entry := k != 3
      checked c (t.preChecks c (zeroBad c false [] || !descZeros d || d.length != 256) ++
        [(!t.ownIndex p i, 7), (t.descVlanBad p d, 7), ((t.strm i).st != .idle, 1), (entry && t.keyHeld (descKey d) (2 * i), 1),
         (descBad d, 6), (entry && decide (t.fget F.DIKE_ENTRIES_QUOTA p ≤ t.polEntries p), 4),
         (entry && decide (262144 ≤ t.tableEntries), 3), (t.quarantined 1 p i, 0xB)])
        (fun u =>
          let (v, u1) := u.takeFree
          let x : Stream := { st := .bound, polder := p, desc := d, txIndex := v.toNat % 2 ^ 31 }
          let u2 := u1.setStrm i x
          let u3 := if entry then u2.insertSlot (u2.slotFromStream (2 * i)) else u2
          u3.complete c 0 (u3.handleOf 1 p i)) t) s
    (match desc with | some d => 2 ^ 32 + leAt d 0 4 % 2 ^ 18 | none => 0)

/-- The fields "BOUND only" of a descriptor that is in force and a new one differ (R312), fields of a missing direction exempt. -/
def descBoundDiff (a b : List Byte) : Bool :=
  let k := leAt a 4 1
  let ne (o n : Nat) := sub a o n != sub b o n
  ne 0 6 || (k != 3 && (ne 8 5 || ne 0x10 16)) || (k != 2 && (ne 0x70 4 || ne 0xF0 16))

/-- A modify of a stream (R313, R314, R319); one that gives a BOUND stream an entry meets the table's limits as a bind does. Marks: DEDUCED safe (log
entry 179), DESIGN CHOICE safe (log entry 179). -/
def modifyStream (c : VCmd) (d : List Byte) (s : State) : State :=
  let i := hIdx c.handle
  let x := s.strm i
  let turn := s.turn + 2
  let entry := leAt d 4 1 != 3 && (s.posOf (2 * i)).isNone && !s.entriesDue.contains i
  checked c ([(!descZeros d || d.length != 256, 6)] ++ s.handleChecks c.polder c.handle ++
    [(!s.ownIndex c.polder (leAt d 0 4), 7), (s.descVlanBad c.polder d, 7), (x.st != .bound && x.st != .active, 1),
     (x.st == .active && descBoundDiff x.desc d, 1), (leAt d 4 1 != 3 && s.keyHeld (descKey d) (2 * i), 1),
     (descBad d || leAt d 0 4 != i, 6), (entry && decide (s.fget F.DIKE_ENTRIES_QUOTA c.polder ≤ s.polEntries c.polder), 4),
     (entry && decide (262144 ≤ s.tableEntries), 3)])
    (fun u => (u.schedule turn (.streamDesc i d)).complete c 0 0 turn) s

/-- ALIAS_ADD (R302). -/
def execAliasAdd (p ring tag : Nat) (key : Option (List Byte)) (s : State) : Res :=
  runCmd p ring tag 0x1B (fun c t =>
    let pre := t.preChecks c (zeroBad c true []) ++ State.handleType c.handle [1]
    match key with
    | none => checked c (pre ++ t.handleChecks p c.handle) (fun u => u.complete c 0xA) t
    | some d =>
      let i := hIdx c.handle
      let x := t.strm i
      let k : ClsKey := ⟨leAt d 0 2 % 4096, leAt d 2 1, sub d 16 16, beAt d 4 2 / 2⟩
      checked c (pre ++ [(!zeroAt d 3 1 || !zeroAt d 6 10 || d.length != 32, 6)] ++ t.handleChecks p c.handle ++
        [(t.vlanPolder 0 k.vlan != some p || t.vlanPolder 1 k.vlan != some p, 7),
         ((x.st != .bound && x.st != .active) || x.akey.isSome || x.kind == 3 || t.keyHeld k (2 * i + 1), 1),
         (decide (0x1000 ≤ leAt d 0 2) || !(k.ipv == 4 || k.ipv == 6), 6),
         (decide (t.fget F.DIKE_ENTRIES_QUOTA p ≤ t.polEntries p), 4), (decide (262144 ≤ t.tableEntries), 3)])
        (fun u =>
          let u1 := u.upStrm i fun y => { y with akey := some k }
          (u1.insertSlot (u1.slotFromStream (2 * i + 1))).complete c 0) t) s

/-- ALIAS_REMOVE (R516). -/
def execAliasRemove (p ring tag : Nat) (s : State) : Res :=
  runCmd p ring tag 0x1C (fun c t =>
    let i := hIdx c.handle
    let x := t.strm i
    checked c (t.preChecks c (zeroBad c true []) ++ State.handleType c.handle [1] ++ t.handleChecks p c.handle ++
      [((x.st != .bound && x.st != .active) || x.akey.isNone, 1)])
      (fun u => ((u.upStrm i fun y => { y with akey := none }).removeSlot (2 * i + 1)).complete c 0) t) s

/-! ## Channel parameter blocks (R210, R216 to R239) -/

/-- A codec word asks for an option that is not supported (R226). -/
def codecBad (codec w : Nat) : Bool :=
  let sel := w % 16
  let top := [0, 0, 8, 7, 5].getD codec 0
  let bw := bitField w 5 2
  decide (top < sel) || decide (2 ^ 7 ≤ w) || (codec != 4 && bw != 0) || bw == 3 || (codec == 4 && bw == 2 && decide (sel < 2))

/-- A canceller word out of range (R220): zero where the side has no canceller; TAIL 2 to 4 on type 0x02 only, on one side. -/
def ecBad (typ side w : Nat) : Bool :=
  let has := typ == 1 || typ == 2 || ((typ == 3 || typ == 4) && side == 1)
  let tail := bitField w 8 4
  (!has && w != 0) || (has && (decide (2 ^ 16 ≤ w) || bitField w 5 3 != 0 || bitField w 2 2 == 3
    || !(tail == 1 || (typ == 2 && decide (2 ≤ tail) && decide (tail ≤ 4)))))

/-- A jitter-buffer word out of range (R233). -/
def jbBad (w : Nat) : Bool :=
  let lo := bitField w 0 8
  let ini := bitField w 8 8
  let hi := bitField w 16 8
  decide (bitField w 24 7 = 0 ∨ hi < 2 ∨ 200 < hi ∨ 200 < lo ∨ hi < lo ∨ ini < lo ∨ hi < ini)

/-- A tone word out of range (R238, R239). -/
def toneBad (w : Nat) : Bool := bitAt w 7 || bitField w 8 2 == 3 || decide (2 ^ 10 ≤ w)

/-- A packet time out of range (R216). -/
def ptimeBad (codec v : Nat) : Bool :=
  if codec ≤ 1 then !(v % 10 == 0 && decide (10 ≤ v) && decide (v ≤ 60)) else !(v == 20 || v == 40 || v == 60)

/-- The bytes of a library parameter block that R216 does not list are zero, and those the Miller writes are as it reads them. -/
def paramZeros (d : List Byte) : Bool := zeroAt d 0x2F 1 && zeroAt d 0x39 (512 - 0x39)

/-- A value out of range in a parameter block (R216 to R239). -/
def paramBad (d : List Byte) : Bool :=
  let b (o : Nat) := leAt d o 1
  let typ := b 0
  let common := decide (1 < b 3) || decide (2 ^ 18 ≤ leAt d 4 4) || decide (2 ^ 18 ≤ leAt d 8 4) || jbBad (leAt d 0x20 4) || jbBad (leAt d 0x24 4)
  let gain (v : Nat) := decide (12 < v ∧ v < 244)
  let side (x : Nat) : Bool :=
    let codec := sideCodec typ x
    let cw := leAt d (0x10 + 4 * x) 4
    let pt := b (0xE + x)
    let tev := b (0x34 + x)
    let cn := b (0x36 + x)
    let low := decide (codec ≤ 1)
    let mode := bitField (leAt d (0x28 + 2 * (1 - x)) 2) 8 2
    ptimeBad codec (b (0xC + x)) || decide (127 < pt) || codecBad codec cw || ecBad typ x (leAt d (0x18 + 4 * x) 4)
      || toneBad (leAt d (0x28 + 2 * x) 2) || gain (b (0x2C + x))
      || !(tev == 255 || (decide (96 ≤ tev) && decide (tev ≤ 127)))
      || !(cn == 255 || cn == 13 || (decide (96 ≤ cn) && decide (cn ≤ 127)))
      || ((mode == 1 || mode == 2) && tev == 255) || (low && bitAt cw 4 && cn == 255) || tev == pt || cn == pt
  let tails := [0, 1].map fun x => bitField (leAt d (0x18 + 4 * x) 4) 8 4
  if libType typ then
    common || decide (3 < b 2) || side 0 || side 1 || decide (b 0x2E < 2 ∨ 12 < b 0x2E) || decide (1 < b 0x38)
      || (typ == 2 && !((decide (2 ≤ tails.getD 0 0)) != (decide (2 ≤ tails.getD 1 0))))
  else common

/-- The fields "BOUND only" of two parameter blocks differ (R216, R220). -/
def paramBoundDiff (a b : List Byte) : Bool :=
  let ne (o n : Nat) := sub a o n != sub b o n
  let tail (d : List Byte) (x : Nat) := bitField (leAt d (0x18 + 4 * x) 4) 8 4
  let lib := libType (leAt a 0 1)
  ne 0 1 || ne 3 9 || (lib && (ne 2 1 || ne 0xC 2 || tail a 0 != tail b 0 || tail a 1 != tail b 1))

/-- A library class (R211, R213): cost, W and I/O bytes. -/
def libClass (code : Nat) : Nat × Nat × Nat :=
  match code with
  | 0 => (94600, 15872, 4096) | 1 => (43800, 4352, 1024) | 2 => (74200, 15872, 4096) | 3 => (72900, 15872, 4096)
  | 4 => (93100, 15872, 4096) | 5 => (94800, 15872, 4096) | 6 => (91200, 15872, 4096) | 7 => (83500, 15872, 4096)
  | 8 => (98700, 15872, 4096) | 9 => (99100, 15872, 4096) | 10 => (97300, 15872, 4096) | 11 => (99600, 15872, 4096)
  | 12 => (98900, 15872, 4096) | 13 => (95700, 15872, 4096) | 14 => (99400, 15872, 4096) | _ => (60000, 15872, 4096)

/-- The library classes of a type by position (R210). -/
def typeClasses (d : List Byte) : List Nat :=
  match leAt d 0 1 with
  | 1 => [0]
  | 2 => 0 :: List.replicate (max (bitField (leAt d 0x18 4) 8 4) (bitField (leAt d 0x1C 4) 8 4) - 1) 1
  | 3 => [3, 2]
  | 4 => [5, 4]
  | 5 => [7, 8, 9, 6]
  | 6 => [10, 11, 12, 13, 14]
  | _ => []

/-- A class record of a library code. -/
def libKlass (o : Owner) (p pos code : Nat) : Klass :=
  let v := libClass code
  { owner := o, pos := pos, lib := code, cost := v.1, period := if code = 17 then 200 else 5, w := v.2.1, io := v.2.2,
    defer := code == 17, stone := 0, polder := p }

/-- The classes of a channel by its parameter block, QOS_EVAL last where it asks for it (R210, R214, R253). -/
def State.classSpecs (s : State) (c p : Nat) (d : List Byte) : List Klass :=
  let typ := leAt d 0 1
  if libType typ then
    ((typeClasses d).zipIdx.map fun e => libKlass (.chan c) p e.2 e.1)
      ++ (if bitAt (leAt d 0x38 1) 0 then [libKlass (.chan c) p 0xFF 17] else [])
  else ((s.ctype p typ).entries.zipIdx.map fun e =>
    let k := s.sch.kerns.find? fun x => x.1 == e.1.1
    let free := (k.map fun x => x.2.freeArea).getD false
    let cd := (k.map fun x => x.2.classes.getD e.1.2.1 ⟨0, 0, 0, 0, 0, false⟩).getD ⟨0, 0, 0, 0, 0, false⟩
    { owner := .chan c, pos := e.2, kern := some e.1.1, lib := e.1.2.1, cost := cd.cost, period := e.1.2.2, w := cd.w, io := cd.io,
      defer := cd.defer, freeArea := free, stone := 0, polder := p })

/-! ## Admission (R173, R174, R223, R251) -/

/-- Channels on a stone. -/
def State.stoneChans (s : State) (n : Nat) : List Chan := (s.sch.chans.map (·.2)).filter fun x => x.st != .idle && x.stone == n

/-- The per-stone limit of a type: 8 for long tails, a customer type's own, none otherwise (0). -/
def State.typeLimit (s : State) (p typ : Nat) : Nat := if typ = 2 then 8 else if libType typ then 0 else (s.ctype p typ).limit

/-- Can a stone take a channel's classes (R173), and with which records? -/
def State.fits (s : State) (n p typ : Nat) (l : List Klass) : Option (List Klass) :=
  let others := s.stoneClasses n
  let mine := choosePhases (l.map fun k => { k with stone := n }) others
  let adm := (mine ++ others).filter fun k => !k.defer
  let grains := adm.foldl (fun g k => g + k.grains) 0
  let limit := s.typeLimit p typ
  let same := ((s.stoneChans n).filter fun x => x.typ == typ && x.polder == p).length
  let tail := (s.stoneChans n).any fun x => x.typ == 2
  if s.budget (n / 640) < grains ∨ (limit ≠ 0 ∧ limit ≤ same) ∨ 64 < peakOf (fun _ => 1) adm ∨ 640 < peakOf Klass.volume adm
      ∨ (typ = 2 ∧ others.any (fun k => k.freeArea)) ∨ (tail ∧ l.any (fun k => k.freeArea)) then none
  else some mine

/-- The first entry of its pairs with the most free grains. Marks: DEDUCED unsafe (log entry 287). -/
def mostFree : List (Nat × Nat) → Option Nat
  | [] => none
  | (n, g) :: l => match mostFree l with
    | none => some n
    | some b => if ((l.find? fun e => e.1 == b).map fun e => e.2).getD 0 ≤ g then some n else some b

/-- Class entries of a polder in a half. -/
def State.polClasses (s : State) (p h : Nat) : Nat := (s.sch.classes.filter fun e => e.1 / 65536 == h && e.2.polder == p).length

/-- Is a half left out of an admission of n classes (R174): ADMIT_EN, the polder's quota, the class table? -/
def State.halfOut (s : State) (p h n : Nat) : Nat :=
  let quota := if h = 0 then s.fget F.DIKE_CLASSES0_QUOTA p else s.fget F.DIKE_CLASSES1_QUOTA p
  if quota < s.polClasses p h + n then 4 else if 65536 < s.classesUsed h + n then 3 else if ¬ s.fbit F.MILLER_CTRL_ADMIT_EN h then 0xB else 0

/-- Is a mill of the polder, in the half of a mill considered, in role 0x3 or 0x4, or is its row in take-over (R174)? -/
def State.admitBusy (s : State) (p : Nat) (considered : List Nat) : Bool :=
  (List.range s.fuse.mills).any fun m => s.fget F.MILL_ROLE_POLDER m == p && (considered.any fun x => halfOf x == halfOf m)
    && (s.role m == 3 || s.role m == 4 || s.sch.takeover.contains (rowOf m))

/-- Admission (R173, R174): the chosen stone, or the status. -/
def State.admitTo (s : State) (p typ : Nat) (mill : Option Nat) (l : List Klass) : Nat × Nat :=
  let all := (List.range s.fuse.mills).filter fun m => s.fget F.MILL_ROLE_POLDER m == p && (mill.isNone || mill == some m)
  let mills := all.filter fun m => s.role m == 1
  let outs := mills.map fun m => s.halfOut p (halfOf m) l.length
  let open' := mills.filter fun m => s.halfOut p (halfOf m) l.length == 0
  let kerns := l.map fun k => k.kern
  let able := open'.filter fun m => (kerns.foldl (fun (acc : Option State) k => match acc with | none => none | some t => (t.placeImage m k).map fun r => r.1) (some s)).isSome
  let stones := (able.map fun m => (List.range 16).map (16 * m + ·)).flatten.filter fun n => (s.fits n p typ l).isSome
  match mostFree (stones.map fun n => (n, s.budget (n / 640) - s.stoneGrains n)) with
  | some n => (0, n)
  | none => (if outs.contains 4 then 4 else if outs.contains 3 then 3 else if outs.contains 0xB || s.admitBusy p all then 0xB else 5, 0)

/-- The lowest index of a table below a bound that is not in use and not in quarantine, or the status (R513). -/
def State.allocIndex (s : State) (typ p top : Nat) (used : List Nat) : Nat × Nat :=
  let n := used.length + ((s.vk.quar.filter fun e => decide (s.turn < e.2)).length) + 1
  match (List.range (min top n)).find? fun i => !used.contains i && !s.quarantined typ p i with
  | some i => (0, i)
  | none => (if top ≤ used.length then 3 else 0xB, 0)

/-- The named mill of a bind: its checks (R174, R485). -/
def State.millChecks (s : State) (p h : Nat) : List (Bool × Nat) :=
  if h = 0 then [] else [(hPol h != p || s.fget F.MILL_ROLE_POLDER (hIdx h) != p, 7), (hGen h != s.fget F.MILL_ROLE_EPOCH (hIdx h), 2)]

/-- A stream a channel names is not BOUND or ACTIVE, or held by a channel other than c (R515). -/
def State.streamTaken (s : State) (i : Nat) (c : Option Nat) : Bool :=
  let x := s.strm i
  (x.st != .bound && x.st != .active) || (x.chan.isSome && x.chan != c)

/-- A channel's streams are of kinds R515 does not allow. -/
def State.kindsBad (s : State) (d : List Byte) : Bool :=
  let ab := (s.strm (leAt d 4 4)).kind
  let ba := (s.strm (leAt d 8 4)).kind
  let bun := leAt d 3 1 == 1
  !(ab == 1 || (ab == 2 && bun)) || !(ba == 1 || (ba == 3 && bun)) || leAt d 4 4 == leAt d 8 4

/-- A library block or a customer one with the words the Miller writes (R216): SLOT, and BUNDLE. -/
def withMiller (d : List Byte) (slot : Nat) (bundle : List Byte) : List Byte := sub d 0 1 ++ leBytes 1 slot ++ sub d 2 0x2E ++ bundle ++ d.drop 0x34

/-- Enters an admitted channel: its classes, streams, tail slot and parameter block with SLOT, and BUNDLE zero (R215, R216, R223). -/
def State.enterChan (s : State) (c p n : Nat) (d : List Byte) (l : List Klass) : State :=
  let used := ((s.stoneChans n).filter fun x => x.typ == 2).map fun x => x.slot
  let slot := if leAt d 0 1 = 2 then ((List.range 8).find? fun i => !used.contains i).getD 0xFF else 0xFF
  let d' := withMiller d slot (leBytes 4 0)
  match s.addClasses (l.map fun k => { k with stone := n }) with
  | none => s
  | some (s1, keys) =>
    let isQos := bitAt (leAt d 0x38 1) 0 && libType (leAt d 0 1)
    let mine := if isQos then keys.take (keys.length - 1) else keys
    let x : Chan := { st := .bound, polder := p, params := d', stone := n, classes := mine, slot := slot, qos := if isQos then keys.getLast? else none, commitTurn := s.turn }
    let s2 := s1.setChan c x
    let s3 := (s2.upStrm (leAt d 4 4) fun y => { y with chan := some c }).upStrm (leAt d 8 4) fun y => { y with chan := some c }
    s3.writeParams c d'

/-- BIND_CHANNEL (R173, R174, R210, R216, R515). -/
def execBindChannel (p ring tag : Nat) (params : Option (List Byte)) (s : State) : Res :=
  runCmd p ring tag 0x11 (fun c t =>
    let pre := t.preChecks c (zeroBad c false [m32, m32] || (c.pair 0 != 0 && hTyp (c.pair 0) != 6))
    match params with
    | none => checked c (pre ++ t.millChecks p (c.pair 0)) (fun u => u.complete c 0xA) t
    | some d =>
      let typ := leAt d 0 1
      let known := libType typ || t.sch.types.any fun e => e.1 == 256 * p + typ && decide (128 ≤ typ)
      let ab := leAt d 4 4 % 2 ^ 18
      let ba := leAt d 8 4 % 2 ^ 18
      let specs := t.classSpecs 0 p d
      let mill := if c.pair 0 = 0 then none else some (hIdx (c.pair 0))
      let adm := t.admitTo p typ mill specs
      let used := (t.sch.chans.filter fun e => e.2.st != .idle).map fun e => e.1
      let ix := t.allocIndex 2 p 65536 used
      checked c (pre ++ [(d.length != 512 || (libType typ && !paramZeros d), 6), (!t.ownIndex p ab || !t.ownIndex p ba, 7)] ++ t.millChecks p (c.pair 0) ++
        [(t.streamTaken ab none || t.streamTaken ba none, 1), (!known || paramBad d || t.kindsBad d, 6),
         (adm.1 == 4, 4), (ix.1 == 3 || adm.1 == 3, 3), (adm.1 == 5, 5), (adm.1 == 0xB || ix.1 == 0xB, 0xB)])
        (fun u =>
          let u1 := u.enterChan ix.2 p adm.2 d (u.classSpecs ix.2 p d)
          u1.complete c 0 (u1.handleOf 2 p ix.2) 0 0 adm.2) t) s

/-- BIND_BUNDLE (R243, R244): a bundle with no members yet, on the stone with the most free grains. -/
def execBindBundle (p ring tag : Nat) (s : State) : Res :=
  runCmd p ring tag 0x12 (fun c t =>
    let h := c.pair 1
    let used := (t.sch.bundles.filter fun e => e.2.st != .idle)
    let ix := t.allocIndex 3 p 16384 (used.map fun e => e.1)
    let adm := t.admitTo p 0x10 (if h = 0 then none else some (hIdx h)) []
    let mine := (used.filter fun e => e.2.polder == p).length
    checked c (t.preChecks c (zeroBad c false [3, m32, m32] || (h != 0 && hTyp h != 6)) ++ t.millChecks p h ++
      [(c.w 0 == 0, 6), (decide (t.fget F.DIKE_OBJQ_BUNDLES p ≤ mine) || adm.1 == 4, 4), (ix.1 == 3 || adm.1 == 3, 3),
       (adm.1 == 5, 5), (adm.1 == 0xB || ix.1 == 0xB, 0xB)])
      (fun u =>
        let x : Bundle := { st := .bound, polder := p, speakers := c.w 0, stone := adm.2, commitTurn := u.turn }
        let u1 := u.setBundle ix.2 x
        u1.complete c 0 (u1.handleOf 3 p ix.2) 0 0 adm.2) t) s

/-! ## ACTIVATE, MODIFY, DRAIN (R217, R514, R515) -/

/-- The state of the object a handle names. -/
def State.objState (s : State) (h : Nat) : ObjSt :=
  match hTyp h with
  | 1 => (s.strm (hIdx h)).st
  | 2 => (s.chan (hIdx h)).st
  | _ => (s.bundle (hIdx h)).st

/-- A stream whose channel becomes ACTIVE has no playout offset and no committed target yet (R236); h is the stream's own and goes on. Marks: DEDUCED safe (log entry 356). -/
def Stream.freshPlayout (x : Stream) : Stream := { x with o := none, target := none, delay := 0, consumed := [], probation := none, lastStamp := none }

/-- ACTIVATE (R514): a stream's entries become ACTIVE and its weir full at once; a channel's or bundle's releases begin at the next
boundary. -/
def execActivate (p ring tag : Nat) (s : State) : Res :=
  runCmd p ring tag 0x13 (fun c t =>
    let h := c.handle
    let i := hIdx h
    let x := t.chan i
    let streams := hTyp h == 2 && !((t.strm (leAt x.params 4 4)).st == .active && (t.strm (leAt x.params 8 4)).st == .active)
    checked c (t.preChecks c (zeroBad c true []) ++ State.handleType h [1, 2, 3] ++ t.handleChecks p h ++
      [(t.objState h != .bound || streams, 1)])
      (fun u =>
        match hTyp h with
        | 1 =>
          let b := leAt (u.strm i).desc 0x34 1
          let u1 := u.upStrm i fun y => { y with st := .active, weir := ⟨b * tokenUnit, u.nowUnits⟩, rtcpTurn := some (u.turn + leAt y.desc 0x75 1 * 500) }
          (u1.slotState i 2).complete c 0 0 u.turn
        | 2 => ((((u.upStrm (leAt x.params 4 4) Stream.freshPlayout).upStrm (leAt x.params 8 4) Stream.freshPlayout).setChan i { x with st := .active })).complete c 0 0 (u.turn + 1)
        | _ => (u.setBundle i { u.bundle i with st := .active }).complete c 0 0 (u.turn + 1)) t) s

/-- A channel's streams are released and the ones a block names held. -/
def State.swapStreams (s : State) (i : Nat) (old new : List Byte) : State :=
  let free (t : State) (o : Nat) := t.upStrm (leAt old o 4) fun y => { y with chan := none }
  let hold (t : State) (o : Nat) := t.upStrm (leAt new o 4) fun y => { y with chan := some i }
  hold (hold (free (free s 4) 8) 4) 8

/-- The class table without a channel's classes, its index kept. -/
def State.withoutClasses (s : State) (i : Nat) : State :=
  let x := s.chan i
  (x.keys.foldl State.dropClass s).setChan i { x with st := .idle, classes := [], qos := none }

/-- Why a BOUND channel cannot take another type or tail length on its stone (R174, R213, R216): 0 where it can. -/
def State.remakeBad (s : State) (i : Nat) (d : List Byte) : Nat :=
  let x := s.chan i
  let t := s.withoutClasses i
  let l := t.classSpecs i x.polder d
  let h := x.stone / 640
  let out := if x.keys.length < l.length ∨ t.halfOut x.polder h l.length ≠ 0xB then t.halfOut x.polder h l.length else 0
  if out ≠ 0 then out
  else match t.fits x.stone x.polder (leAt d 0 1) l with
    | none => 5
    | some mine => if (t.addClasses mine).isNone then 5 else 0

/-- A removal of QOS_EVAL that waits for its commit no longer stands. -/
def State.cancelQosDrop (s : State) (i : Nat) : State :=
  s.upSch fun c => { c with fx := c.fx.filter fun e => !(match e.2 with | .qosDrop k => k == i | _ => false) }

/-- A BOUND channel takes another type or tail length: its classes are made anew on its stone, at once; it stays in its bundle while its side B
is one. Marks: DEDUCED safe (log entry 357). -/
def State.remake (s : State) (i : Nat) (d : List Byte) : State :=
  let x := s.chan i
  let t := ((s.cancelQosDrop i).withoutClasses i).swapStreams i x.params d
  let u := t.enterChan i x.polder x.stone d (t.classSpecs i x.polder d)
  let v := u.setChan i { u.chan i with member := x.member, commitTurn := x.commitTurn }
  v.writeParams i (withMiller d (u.chan i).slot (sub x.params 0x30 4))

/-- Clearing and setting the QOS bit (R214): the class is made at acceptance; it leaves at the commit after EFFECTIVE_TURN unless the bit has been set
again by then. -/
def State.modifyQos (s : State) (i turn : Nat) (is' : Bool) : State :=
  let x := s.chan i
  if is' then
    (if x.qos.isSome then s.cancelQosDrop i
     else match s.addClasses [{ libKlass (.chan i) x.polder 0xFF 17 with stone := x.stone }] with
      | some (v, keys) => v.setChan i { x with qos := keys.head? }
      | none => s)
  else if x.qos.isNone ∨ s.sch.fx.any (fun e => match e.2 with | .qosDrop k => k == i | _ => false) then s
  else s.schedule (turn + 1) (.qosDrop i)

/-- A modify of a channel (R214, R216, R217). A BOUND channel takes the fields that only it can change at acceptance, since it makes no release. -/
def modifyChannel (c : VCmd) (d : List Byte) (s : State) : State :=
  let i := hIdx c.handle
  let x := s.chan i
  let p := c.polder
  let typ := leAt d 0 1
  let turn := s.turn + 2
  let known := libType typ || s.sch.types.any fun e => e.1 == 256 * p + typ && decide (128 ≤ typ)
  let ab := leAt d 4 4 % 2 ^ 18
  let ba := leAt d 8 4 % 2 ^ 18
  let isQos := bitAt (leAt d 0x38 1) 0 && libType typ
  let diff := paramBoundDiff x.params d
  let other := typ != x.typ || typeClasses d != typeClasses x.params
  let out := if x.st != .bound && x.st != .active then 0 else if other then s.remakeBad i d
    else if isQos && x.qos.isNone then s.halfOut p (x.stone / 640) 1 % 0xB else 0
  checked c ([(d.length != 512 || (libType typ && !paramZeros d), 6)] ++ s.handleChecks p c.handle ++
    [(!s.ownIndex p ab || !s.ownIndex p ba, 7), (x.st != .bound && x.st != .active, 1), (x.st == .active && diff, 1),
     (s.streamTaken ab (some i) || s.streamTaken ba (some i), 1), (!known || paramBad d || s.kindsBad d, 6),
     (out == 4, 4), (out == 3, 3), (out == 5, 5), (out == 0xB, 0xB)])
    (fun u =>
      let u1 := if other then u.remake i d else
        let v := u.modifyQos i turn isQos
        if diff then (v.swapStreams i x.params d).writeParams i (withMiller d x.slot (sub x.params 0x30 4)) else v
      let u2 := if x.member.isSome && leAt d 3 1 != 1 then u1.unjoin (.chan i) else u1
      (u2.schedule turn (.chanParams i d)).complete c 0 0 turn) s

/-- MODIFY (R217, R314). -/
def execModify (p ring tag : Nat) (data : Option (List Byte)) (s : State) : Res :=
  runCmd p ring tag 0x14 (fun c t =>
    let pre := t.preChecks c (zeroBad c true []) ++ State.handleType c.handle [1, 2]
    match data with
    | none => checked c (pre ++ t.handleChecks p c.handle) (fun u => u.complete c 0xA) t
    | some d => checked c pre (fun u => if hTyp c.handle = 1 then modifyStream c d u else modifyChannel c d u) t) s

/-- DRAIN (R514, R515): the command stays in execution until the object reaches IDLE. -/
def execDrain (p ring tag : Nat) (s : State) : Res :=
  runCmd p ring tag 0x15 (fun c t =>
    let h := c.handle
    let i := hIdx h
    let st := t.objState h
    let held := hTyp h == 1 && (t.strm i).chan.isSome
    checked c (t.preChecks c (zeroBad c true []) ++ State.handleType h [1, 2, 3] ++ t.handleChecks p h ++
      [((st != .bound && st != .active) || held, 1)])
      (fun u =>
        let u0 := u.markStarted c
        match hTyp h with
        | 1 =>
          let u1 := if u.rtcpOn i then u0.sendRtcp i u.nowUnits true else u0
          (((u1.upStrm i fun y => { y with st := .draining }).slotState i 1).schedule (u.turn + 2) (.streamIdle i))
        | 2 => u0.setChan i { u0.chan i with st := .draining }
        | _ => u0.setBundle i { u0.bundle i with st := .draining }) t) s

/-! ## STATUS (R517) -/

/-- The status block of a channel. -/
def State.chanBlock (s : State) (i : Nat) : List Byte :=
  let x := s.chan i
  let side (k : Nat) : List Byte :=
    let v := x.sides.getD k ({} : SideStat)
    leBytes 2 v.erl ++ leBytes 2 v.erle ++ leBytes 1 v.ecState ++ leBytes 1 v.tone ++ leBytes 2 v.delay ++ leBytes 2 v.target ++ leBytes 2 0
      ++ leBytes 4 v.late ++ leBytes 4 v.overflow ++ leBytes 4 v.concealed ++ leBytes 4 v.badPt ++ leBytes 4 v.badOut
  let grains := x.keys.foldl (fun g k => g + (s.klass k).grains) 0
  let evl (k : Nat) : List Byte := match x.qos, x.eval with
    | some _, some (turn, l) =>
      leBytes 2 (l.getD (3 * k) 0) ++ leBytes 2 (l.getD (3 * k + 1) 0) ++ leBytes 2 (l.getD (3 * k + 2) 0)
        ++ leBytes 2 (min ((s.turn - turn) / 200) 0xFFFE)
    | _, _ => leBytes 6 0 ++ leBytes 2 0xFFFF
  side 0 ++ side 1 ++ leBytes 1 x.st.code ++ leBytes 1 x.typ ++ leBytes 2 x.stone ++ leBytes 2 grains ++ leBytes 2 0
    ++ leBytes 8 x.commitTurn ++ evl 0 ++ evl 1

/-- The status block of a stream. -/
def State.streamBlock (s : State) (i : Nat) : List Byte :=
  let x := s.strm i
  leBytes 1 x.st.code ++ leBytes 1 x.kind ++ leBytes 2 0 ++ leBytes 4 (x.ssrc.getD 0) ++ leBytes 4 (x.h.getD 0) ++ leBytes 4 x.rtt
    ++ leBytes 1 x.remFrac ++ leBytes 3 0 ++ leBytes 4 x.remLost ++ leBytes 4 x.remJitter ++ leBytes 2 x.latchPort ++ leBytes 2 0
    ++ (x.latchAddr.getD (List.replicate 16 0)) ++ leBytes 8 s.turn ++ leBytes 8 0

/-- The status block of a bundle. -/
def State.bundleBlock (s : State) (i : Nat) : List Byte :=
  let x := s.bundle i
  let grains := x.classes.foldl (fun g k => g + (s.klass k).grains) 0
  leBytes 1 x.st.code ++ leBytes 1 (joinLevels 4 (segments x.members).length) ++ leBytes 2 x.members.length ++ leBytes 2 grains
    ++ leBytes 2 x.stone ++ leBytes 2 x.classes.length ++ leBytes 6 0 ++ leBytes 8 s.turn ++ leBytes 8 0

/-- STATUS (R517). -/
def execStatus (p ring tag : Nat) (s : State) : Res :=
  runCmd p ring tag 0x16 (fun c t =>
    let h := c.handle
    let i := hIdx h
    let size := match hTyp h with | 1 => 64 | 2 => 96 | _ => 32
    checked c (t.preChecks c (zeroBad c true []) ++ State.handleType h [1, 2, 3] ++ t.handleChecks p h ++
      [(t.objState h == .idle, 1), (decide (c.len < size), 6)])
      (fun u =>
        let b := match hTyp h with | 1 => u.streamBlock i | 2 => u.chanBlock i | _ => u.bundleBlock i
        (u.emit (.dmaWrite p c.addr b)).complete c 0) t) s

/-! ## JOIN, LEAVE (R243 to R246) -/

/-- The depth of a member under a bound (R243): 0 for a channel. -/
def State.depth (s : State) : Nat → Owner → Nat
  | 0, _ => 0
  | _ + 1, .chan _ => 0
  | n + 1, .bundle b => 1 + ((s.bundle b).members.map fun e => s.depth n e.2).foldl max 0

/-- The bundles above a bundle, itself first. -/
def State.above' (s : State) : Nat → Nat → List Nat
  | 0, b => [b]
  | n + 1, b => match (s.bundle b).member with | some (a, _) => b :: s.above' n a | none => [b]

/-- The member a handle names. -/
def memberOf (h : Nat) : Owner := if hTyp h = 2 then .chan (hIdx h) else .bundle (hIdx h)

/-- Where a member is. -/
def State.memberAt (s : State) : Owner → Option (Nat × Nat)
  | .chan c => (s.chan c).member
  | .bundle b => (s.bundle b).member

/-- The status of a join for what a bundle's mixer classes then need (R167, R173, R174, R243): 0 where they fit its stone. Those it keeps change their
cost in place, and only new ones are admitted. -/
def State.mixFits (s : State) (b : Nat) (m : Tab Owner) : Nat :=
  let x := s.bundle b
  let n := x.stone
  let want := mixSpecs m
  let others := (s.sch.classes.filter fun e => e.2.stone == n && !x.classes.contains e.1).map fun e => e.2
  let kept := want.filterMap fun v => (s.mixKey x v.id).map fun k => { s.klass k with cost := v.cost }
  let new := (want.filter fun v => (s.mixKey x v.id).isNone).map (mixClass b x)
  let adm := (kept ++ choosePhases new (others ++ kept) ++ others).filter fun k => !k.defer
  let out := if new = [] then 0 else s.halfOut x.polder (n / 640) (want.length - x.classes.length)
  if out = 4 ∨ out = 3 then out
  else if out = 0xB then 0xB
  else if adm.foldl (fun g k => g + k.grains) 0 ≤ s.budget (n / 640) ∧ peakOf (fun _ => 1) adm ≤ 64 ∧ peakOf Klass.volume adm ≤ 640
    ∧ (s.placeImage (n / 16) none).isSome then 0 else 5

/-- JOIN (R243, R244): the member takes the lowest free slot and grains are recomputed. -/
def execJoin (p ring tag : Nat) (s : State) : Res :=
  runCmd p ring tag 0x17 (fun c t =>
    let b := hIdx c.handle
    let mh := c.pair 0
    let m := memberOf mh
    let x := t.bundle b
    let slot := ((List.range 1025).find? fun i => !(x.members.any fun e => e.1 == i)).getD 1024
    let deep := decide (8 < t.depth 9 m + (t.above' 9 b).length) || (match m with | .bundle d => (t.above' 9 b).contains d | .chan _ => false)
    let side := match m with | .chan k => leAt (t.chan k).params 3 1 != 1 | .bundle _ => false
    let st := t.objState mh
    let fit := t.mixFits b (Tab.insert x.members slot m)
    checked c (t.preChecks c (zeroBad c true [m32, m32]) ++ State.handleType c.handle [3] ++ State.handleType mh [2, 3] ++
      t.handleChecks p c.handle ++ t.handleChecks p mh ++
      [((x.st != .bound && x.st != .active) || (st != .bound && st != .active) || (t.memberAt m).isSome, 1),
       (deep || side, 6), (fit == 4, 4), (decide (1024 ≤ slot) || fit == 3, 3), (fit == 5, 5), (fit == 0xB, 0xB)])
      (fun u =>
        let u1 := u.setBundle b { x with members := Tab.insert x.members slot m, from' := Tab.insert x.from' slot (u.turn + 2) }
        let u2 := u1.remix b
        let u3 := match m with
          | .chan k =>
            let y := u2.chan k
            (u2.setChan k { y with member := some (b, slot) }).writeParams k (withMiller y.params y.slot (leBytes 4 b))
          | .bundle d => u2.setBundle d { u2.bundle d with member := some (b, slot) }
        u3.complete c 0 0 (u.turn + 2)) t) s

/-- LEAVE (R246): the member leaves at EFFECTIVE_TURN. -/
def execLeave (p ring tag : Nat) (s : State) : Res :=
  runCmd p ring tag 0x18 (fun c t =>
    let b := hIdx c.handle
    let mh := c.pair 0
    let m := memberOf mh
    let isIn := match t.memberAt m with | some (a, _) => a == b | none => false
    checked c (t.preChecks c (zeroBad c true [m32, m32]) ++ State.handleType c.handle [3] ++ State.handleType mh [2, 3] ++
      t.handleChecks p c.handle ++ t.handleChecks p mh ++ [(!isIn, 1)])
      (fun u => (u.schedule (u.turn + 2) (.leave m)).complete c 0 0 (u.turn + 2)) t) s

/-! ## Tones and control items (R239 to R241, R516) -/

/-- A call-progress definition out of its ranges (R241). -/
def cpBad (d : List Byte) : Bool :=
  let f1 := leAt d 0 2
  let f2 := leAt d 2 2
  let n := leAt d 4 1
  let time (v : Nat) := decide (20 ≤ v) && decide (v ≤ 10000)
  let pair (j : Nat) : Bool :=
    let on := leAt d (8 + 4 * j) 2
    let off := leAt d (10 + 4 * j) 2
    if j < n then time on && (time off || (off == 0 && j + 1 == n)) else on == 0 && off == 0
  d.length != 32 || decide (2 ≤ leAt d 5 1) || !zeroAt d 6 2 || !zeroAt d 0x18 8
    || (bitAt (leAt d 5 1) 0 && (decide (f1 < 300 ∨ 3400 < f1 ∨ (f2 ≠ 0 ∧ (f2 < 300 ∨ 3400 < f2)) ∨ n = 0 ∨ 4 < n)
      || !((List.range 4).all pair)))

/-- CP_DEFINE (R241). -/
def execCpDefine (p ring tag : Nat) (defn : Option (List Byte)) (s : State) : Res :=
  runCmd p ring tag 0x1D (fun c t =>
    let pre := t.preChecks c (zeroBad c false [15])
    match defn with
    | none => checked c pre (fun u => u.complete c 0xA) t
    | some d => checked c (pre ++ [(cpBad d, 6)])
        (fun u => (u.schedule (u.turn + 2) (.cpDefine p (c.w 0 % 16) (if bitAt (leAt d 5 1) 0 then d else []))).complete c 0 0 (u.turn + 2)) t) s

/-- TONE (R240). -/
def execTone (p ring tag : Nat) (s : State) : Res :=
  runCmd p ring tag 0x19 (fun c t =>
    let a := c.w 0
    let kind := bitField a 1 3
    let dig := bitField a 8 8
    let lvl := bitField a 16 8
    let on := c.w 1 % 65536
    let off := c.w 1 / 65536
    let i := hIdx c.handle
    let time (v : Nat) := decide (40 ≤ v) && decide (v ≤ 2000)
    let bad := decide (4 < kind) || (kind != 0 && decide (lvl < 3 ∨ 20 < lvl)) || ((kind == 1 || kind == 2) && decide (15 < dig))
      || (kind == 1 && !(time on && time off)) || (kind == 2 && (t.cpDef p dig).isNone)
    checked c (t.preChecks c (zeroBad c true [0x1FFFF0F, m32]) ++ State.handleType c.handle [2] ++ t.handleChecks p c.handle ++
      [((t.chan i).st != .active, 1), (bad, 6)])
      (fun u =>
        let tn : Option Tone := if kind = 0 then none else some { kind := kind, digit := dig, level := lvl, repeats := bitAt a 24, on := on, off := off }
        (u.schedule (u.turn + 2) (.tone i (a % 2) tn)).complete c 0 0 (u.turn + 2)) t) s

/-- Is a role's row in take-over, or its mill in a role change, so that messages to it are held (R482, R589)? -/
def State.roleHeld (s : State) (q : Nat) : Bool :=
  s.sch.takeover.contains (q / 4) || (match s.millOfRole q with | some m => s.pol.changes.any (fun r => r.mill == m) | none => true)

/-- CONTROL (R516): an item for port 15 of a class goes to the headrace queue of the channel's role, or is held for it. -/
def execControl (p ring tag : Nat) (item : Option (List Byte)) (s : State) : Res :=
  runCmd p ring tag 0x1A (fun c t =>
    let i := hIdx c.handle
    let x := t.chan i
    let pos := c.w 0 % 8
    let pre := t.preChecks c (zeroBad c true [7, m32]) ++ State.handleType c.handle [2] ++ t.handleChecks p c.handle ++
      [(x.st != .active, 1), (decide (1664 < c.len) || x.classes.getD pos noKey == noKey, 6)]
    match item with
    | none => checked c pre (fun u => u.complete c 0xA) t
    | some d => checked c pre (fun u =>
        let q := u.roleOfStone x.stone
        let it : QItem := { id := 0, cls := (x.classes.getD pos 0) % 65536, port := 15, tag := c.w 1, data := d.take c.len }
        let m := x.stone / 16
        if u.roleHeld q then
          { u.markStarted c with pol := { u.pol with held := u.pol.held ++ [⟨p, q, u.fget F.MILL_ROLE_EPOCH m, x.stone % 16, 0, some it, some c.order⟩] } }
        else ((u.qAppend (qHeadrace q) (x.stone / 640) it none).1).complete c 0) t) s

/-! ## Kernels and customer types (R247 to R253, R633) -/

/-- The class descriptors of an image. -/
def imageClasses (d : List Byte) : List ClassDesc :=
  (List.range (leAt d 6 2)).map fun j =>
    let o := 0x40 + 32 * j
    ⟨leAt d o 4, leAt d (o + 4) 4, leAt d (o + 8) 4, leAt d (o + 12) 4, leAt d (o + 16) 2, bitAt (leAt d (o + 18) 2) 0⟩

/-- A header or descriptor breaks R247 or R248, or the length is wrong. -/
def imageBad (d : List Byte) (len : Nat) : Bool :=
  let n := leAt d 6 2
  let size := leAt d 8 4
  let off (v : Nat) := v % 16 == 0 && decide (0x140 ≤ v) && decide (v < 0x140 + size)
  let vec (v : Nat) := v == 0 || off v
  let desc (j : Nat) : Bool :=
    let o := 0x40 + 32 * j
    let df := bitAt (leAt d (o + 18) 2) 0
    let pmin := leAt d (o + 16) 2
    if j < n then
      off (leAt d o 4) && decide (1 ≤ leAt d (o + 4) 4 ∧ leAt d (o + 4) 4 ≤ 100000) && decide (leAt d (o + 8) 4 ≤ 16384) && leAt d (o + 8) 4 % 64 == 0
        && decide (leAt d (o + 12) 4 ≤ 4096) && decide (pmin ≤ 240) && (df || decide (5 ≤ pmin)) && decide (leAt d (o + 18) 2 ≤ 1) && zeroAt d (o + 20) 12
    else zeroAt d o 32
  leAt d 0 4 != 0x4C4E4B4D || leAt d 4 2 != 1 || decide (n = 0 ∨ 8 < n) || size % 64 != 0 || decide (524288 < 0x140 + size)
    || decide (4 ≤ leAt d 0xC 4) || !vec (leAt d 0x10 4) || !vec (leAt d 0x14 4) || !((List.range 8).all desc)
    || len != 0x140 + size + 4723 || d.length != len

/-- Blocks of 4 KiB a polder's kernels take in the store; all polders' for the store itself. -/
def State.storeBlocks (s : State) (p : Option Nat) : Nat :=
  s.sch.kerns.foldl (fun n e => if p.isNone ∨ p = some (e.1 / 64) then n + ceilDiv e.2.image.length 4096 else n) 0

/-- LOAD_KERNEL (R250): both signatures are verified, the header and code are kept and measured. -/
def execLoadKernel (p ring tag : Nat) (image : Option (List Byte)) (s : State) : Res :=
  runCmd p ring tag 0x20 (fun c t =>
    let pre := t.preChecks c (zeroBad c false [])
    match image with
    | none => checked c pre (fun u => u.complete c 0xA) t
    | some d =>
      let keep := d.take (0x140 + leAt d 8 4)
      let id := sub d 0x20 32
      let key := t.pol.keys.find? fun e => e.1 == p && (sha384 e.2).take 32 == id
      let okSig := match key with
        | some e => Config.verify (10 :: (e.2 ++ d).map (·.toNat)) && Config.verify (11 :: (e.2 ++ d).map (·.toNat))
        | none => false
      let blocks := ceilDiv keep.length 4096
      let mine := (t.sch.kerns.filter fun e => e.1 / 64 == p).map fun e => e.1 % 64
      let ix := t.allocIndex 4 p 64 mine
      checked c (pre ++ [(!okSig || bitAt (leAt d 0xC 4) 1, 7), (imageBad d c.len, 6),
        (decide (t.fget F.DIKE_OBJQ_KSTORE p * 256 < t.storeBlocks (some p) + blocks), 4),
        (ix.1 == 3 || decide (16384 < t.storeBlocks none + blocks), 3), (ix.1 == 0xB, 0xB)])
        (fun u =>
          let k : Kern := ⟨keep, bitAt (leAt d 0xC 4) 0, leAt d 0x10 4, leAt d 0x14 4, imageClasses d⟩
          let u1 := u.upSch fun q => { q with kerns := Tab.insert q.kerns (64 * p + ix.2) k }
          (u1.extendMr 7 p 7 (sha384 keep)).complete c 0 (u.handleOf 4 p ix.2)) t) s

/-- Is a kernel used by a type or a class? -/
def State.kernUsed (s : State) (k : Nat) : Bool :=
  s.sch.types.any (fun e => e.2.entries.any fun x => x.1 == k) || s.sch.classes.any fun e => e.2.kern == some k

/-- The keys of the kernel and of the customer type that a handle of a polder names (R511): an index outside the range of its TYPE names none. -/
def kernKey (p h : Nat) : Nat := if hIdx h < 64 then 64 * p + hIdx h else 1024 + hIdx h
def typeKey (p h : Nat) : Nat := if hIdx h < 256 then 256 * p + hIdx h else 4096 + hIdx h

/-- UNLOAD_KERNEL (R253). -/
def execUnloadKernel (p ring tag : Nat) (s : State) : Res :=
  runCmd p ring tag 0x21 (fun c t =>
    let k := kernKey p c.handle
    checked c (t.preChecks c (zeroBad c true []) ++ State.handleType c.handle [4] ++ t.handleChecks p c.handle ++
      [(!(t.sch.kerns.any fun e => e.1 == k) || t.kernUsed k, 1)])
      (fun u => ((u.upSch fun q => { q with kerns := Tab.erase q.kerns k }).freeIndex 4 p (hIdx c.handle) u.turn).complete c 0) t) s

/-- CREATE_TYPE (R253, R633). -/
def execCreateType (p ring tag : Nat) (entries : Option (List Byte)) (s : State) : Res :=
  runCmd p ring tag 0x22 (fun c t =>
    let a := c.w 0
    let b := c.w 1
    let n := a % 16
    let code := bitField a 8 8
    let limit := bitField a 16 8
    let pre := t.preChecks c (zeroBad c false [0x00FFFF0F, 0x77FF])
    match entries with
    | none => checked c pre (fun u => u.complete c 0xA) t
    | some d =>
      let es := (List.range n).map fun j => (leAt d (16 * j) 8, leAt d (16 * j + 8) 1, leAt d (16 * j + 10) 2)
      let cd (e : Nat × Nat × Nat) : Option ClassDesc :=
        ((t.sch.kerns.find? fun x => x.1 == kernKey p e.1).map fun x => x.2.classes[e.2.1]?).join
      let zeros := (List.range n).all fun j => zeroAt d (16 * j + 9) 1 && zeroAt d (16 * j + 12) 4
      let badE (e : Nat × Nat × Nat) : Bool := match cd e with
        | none => true
        | some k => if k.defer then decide (240 < e.2.2) || (e.2.2 != 0 && decide (e.2.2 < k.pmin))
                    else decide (e.2.2 < 5 ∨ 240 < e.2.2 ∨ e.2.2 < k.pmin)
      let isAdm (pos : Nat) : Bool := match (es[pos]?).bind cd with | some k => !k.defer | none => false
      let ca := b % 16
      let cb := bitField b 4 4
      let pab := bitField b 8 3
      let pba := bitField b 12 3
      checked c (pre ++ [(!zeros || es.any fun e => hTyp e.1 != 4, 6), (es.any fun e => hPol e.1 != p, 7),
        (es.any fun e => hGen e.1 != t.genOf e.1, 2), (t.sch.types.any fun e => e.1 == 256 * p + code, 1),
        (decide (n = 0 ∨ 8 < n ∨ code < 0x80 ∨ 64 < limit ∨ 5 < ca ∨ 5 < cb) || es.any badE || !isAdm pab || !isAdm pba || d.length != 16 * n, 6),
        (t.quarantined 5 p code, 0xB)])
        (fun u =>
          let y : CType := ⟨es.map fun e => (kernKey p e.1, e.2.1, e.2.2), limit, ca, cb, pab, pba⟩
          (u.upSch fun q => { q with types := Tab.insert q.types (256 * p + code) y }).complete c 0 (u.handleOf 5 p code)) t) s

/-- DELETE_TYPE (R516). -/
def execDeleteType (p ring tag : Nat) (s : State) : Res :=
  runCmd p ring tag 0x23 (fun c t =>
    let code := hIdx c.handle
    let used := t.sch.chans.any fun e => e.2.st != .idle && e.2.polder == p && e.2.typ == code
    checked c (t.preChecks c (zeroBad c true []) ++ State.handleType c.handle [5] ++ t.handleChecks p c.handle ++
      [(used || !(t.sch.types.any fun e => e.1 == typeKey p c.handle), 1)])
      (fun u => ((u.upSch fun q => { q with types := Tab.erase q.types (typeKey p c.handle) }).freeIndex 5 p code u.turn).complete c 0) t) s

end Sys2Proof.Machine
end

