-- ==== Sys2Proof/Machine/Ledger.lean ====
section
/-!
DEFINITION. The Ledger (R451 to R458, R463): its slots, the three steps of a record, its regions and write limits, recovery, the
read window, and the persistent counters of Vorak (R516).
-/

namespace Sys2Proof.Machine

/-! ## Codes and slots (R452) -/

/-- One bit of a reflected CRC-32C (polynomial 0x1EDC6F41). -/
def crc32cBit (c : Nat) : Nat := if c % 2 = 1 then (c / 2) ^^^ 0x82F63B78 else c / 2

/-- CRC-32C of bytes. Marks: PRESUMED unsafe (log entry 243). -/
def crc32c (l : List Byte) : Nat :=
  (l.foldl (fun c b => (List.range 8).foldl (fun x _ => crc32cBit x) (c ^^^ b.toNat)) 0xFFFFFFFF) ^^^ 0xFFFFFFFF

/-- One bit of a CRC-8 with polynomial 0x07. -/
def crc8Bit (c : Nat) : Nat := if 128 ≤ c then ((c * 2) ^^^ 0x107) else c * 2

/-- CRC-8 of bytes, most significant bit first, from zero. Marks: PRESUMED unsafe (log entry 246). -/
def crc8 (l : List Byte) : Nat := l.foldl (fun c b => (List.range 8).foldl (fun x _ => crc8Bit x) (c ^^^ b.toNat)) 0

/-- The commit word of a sequence number: MAGIC, SEQ and the CRC-8 over bits 63:8. -/
def commitWord (seq : Nat) : Nat :=
  let top := 0xA5 * 2 ^ 48 + seq % 2 ^ 48
  top * 256 + crc8 (leBytes 7 top).reverse

/-- The key of a record: TYPE in bits 31:24, INDEX in bits 23:0. -/
def ledgerKey (typ index : Nat) : Nat := typ % 256 * 2 ^ 24 + index % 2 ^ 24

/-- The bytes of a slot; a slot never written is all zero. -/
def State.slotBytes (s : State) (n : Nat) : List Byte := Tab.get (fun _ => List.replicate 256 0) s.led.slots n

/-- Sets the bytes of a slot. -/
def State.setSlotBytes (s : State) (n : Nat) (b : List Byte) : State :=
  s.upLed fun l => { l with slots := Tab.set (fun _ => List.replicate 256 0) l.slots n b }

/-- The SEQ of a slot whose commit word is valid. -/
def commitSeq (b : List Byte) : Option Nat :=
  let w := leAt b 248 8
  if w / 2 ^ 56 = 0xA5 ∧ commitWord (w / 256 % 2 ^ 48) = w then some (w / 256 % 2 ^ 48) else none

/-- Does a slot's CRC-32C fit its bytes 0 to 243? -/
def slotCrcOk (b : List Byte) : Bool := leAt b 244 4 == crc32c (b.take 244)

/-- The current record of a key: its slot. -/
def State.currentSlot (s : State) (key : Nat) : Option Nat :=
  let v := Tab.get (fun _ => 0) s.led.current key
  if v = 0 then none else some (v - 1)

/-- The payload of the current record of a key. -/
def State.ledgerPayload (s : State) (typ index : Nat) : Option (List Byte) :=
  (s.currentSlot (ledgerKey typ index)).map fun n => (s.slotBytes n).take 240

/-! ## Regions and limits (R457) -/

/-- Is the region circular, and its first slot and size? -/
def circRegion (typ : Nat) : Option (Nat × Nat) :=
  if typ = 4 then some (20736, 4096) else if typ = 5 then some (24832, 5888) else none

/-- The place of the next record of a circular region. Marks: DEDUCED safe (log entry 245). -/
def State.circNext (s : State) (typ : Nat) : Nat := Tab.get (fun _ => 0) s.led.next typ

/-- The slots of a key in turn: the first one and how many. Marks: DEDUCED unsafe (log entry 387). -/
def keySlots (typ index : Nat) : Option (Nat × Nat) :=
  match typ with
  | 1 => if index < 128 then some (2 * index, 2) else none
  | 2 => if index < 16384 then some (256 + index, 1) else none
  | 3 => if index < 2048 then some (16640 + 2 * index, 2) else none
  | 6 => if index < 128 then some (30720 + 16 * index, 16) else none
  | _ => none

/-- The slot a record is written into: of its key's slots the one after the current, or the next of a circular region. -/
def State.ledgerSlot (s : State) (typ index : Nat) : Option Nat :=
  match circRegion typ with
  | some (b, n) => some (b + s.circNext typ % n)
  | none => (keySlots typ index).map fun r => match s.currentSlot (ledgerKey typ index) with
    | some c => r.1 + (c + 1 - r.1) % r.2
    | none => r.1

/-- The limit of a region: how many writes in how many seconds, and the key it counts under. -/
def ledgerLimit (typ index : Nat) : Option (Nat × Nat × Nat) :=
  match typ with
  | 1 => some (1, 60, ledgerKey 1 index)
  | 4 => some (100, 1, ledgerKey 4 0)
  | 5 => some (1, 86400, ledgerKey 5 0)
  | 6 => some (10, 1, ledgerKey 6 index)
  | _ => none

/-- The latest writes that still count against a limit. -/
def State.ledgerRecent (s : State) (key secs : Nat) : List Nat :=
  (Tab.get (fun _ => []) s.led.times key).filter fun t => decide (s.nowUnits < t + secs * unitSec)

/-- The entries that a record of the retired-page list holds: its 4-byte places but those not in use. -/
def retiredUsed (payload : List Byte) : Nat := ((List.range 56).filter fun i => leAt payload (4 * i) 4 != 0xFFFFFFFF).length

/-- Is a write beyond its region's limit (R457)? The retired-page list is limited to 102,400 entries. -/
def State.ledgerOver (s : State) (r : LReq) : Bool :=
  if r.typ = 3 then decide (102400 < 56 * r.index + retiredUsed r.payload)
  else match ledgerLimit r.typ r.index with
    | some (n, secs, key) => decide (n ≤ (s.ledgerRecent key secs).length)
    | none => false

/-- Counts a write against its limit. -/
def State.ledgerCount (s : State) (typ index : Nat) : State :=
  match ledgerLimit typ index with
  | some (_, secs, key) => s.upLed fun l => { l with times := Tab.set (fun _ => []) l.times key (s.ledgerRecent key secs ++ [s.nowUnits]) }
  | none => s

/-! ## Records (R453, R456) -/

/-- Completes the taken command of an order, where it is still in execution. -/
def State.completeOrder (s : State) (order status : Nat) (result : Nat := 0) (progress : Nat := 0) (detail : Nat := 0) : State :=
  match s.vk.cmds.find? fun c => c.order == order with
  | some c => s.complete c status result 0 progress detail
  | none => s

/-- What waits for a record learns how it ended: a command with its status (OK, BUSY_RETRY beyond a limit, FAULTED after PWRFAIL_N fell). -/
def State.ledgerTell (s : State) (w : LWho) (status : Nat) : State :=
  match w with
  | .none => s
  | .cmd o => s.completeOrder o status
  | .retire sl => s.upMem fun m =>
      { m with retireRec := Tab.set (fun _ => none) m.retireRec sl (some (decide (status = 0))),
               unlisted := if status = 0 then m.unlisted else m.unlisted ++ (Tab.get (fun _ => none) m.retiring sl).toList }

/-- A fault record beyond its limit is counted in a counter record (R457), which is asked for once with the latest count. Marks: DESIGN CHOICE safe
(log entry 359). -/
def State.faultOver (s : State) : State :=
  s.upLed fun l =>
    let n := l.faultsOver + 1
    let key := Config.faultKey % 128
    { l with faultsOver := n, reqs := (l.reqs.filter fun r => !(r.who == .none && r.typ == 6)) ++ [⟨6, key, leBytes 8 n, .none⟩] }

/-- A refused write: counted and raised. -/
def State.ledgerRefuse (s : State) (r : LReq) : State :=
  let s1 := ((s.finc F.LEDGER_COUNTS_REFUSED 0).raise T.ledger 0 I.LEDGER_REFUSED).ledgerTell r.who (if s.fget F.LEDGER_STAT_STATE 0 = 2 then 0xA else 0xB)
  if r.typ = 4 ∧ s.fget F.LEDGER_STAT_STATE 0 ≠ 2 then s1.faultOver else s1

/-- Does a record wait for its limit: one of the Millhouse's own in the boot header, within a minute of the key's last write, or its counter record
(R457, R592)? -/
def State.ledgerWaits (s : State) (r : LReq) : Bool :=
  r.who == .none && (r.typ == 1 || r.typ == 6) && s.fget F.LEDGER_STAT_STATE 0 == 1 && s.ledgerOver r

/-- Steps 1 and 2 of a record in a slot: the commit word is written as zero, then the payload, KEY and CRC-32C. A circular region numbers its
records itself. -/
def State.ledgerFill (s : State) (slot : Nat) (r : LReq) : State :=
  let idx := if (circRegion r.typ).isSome then s.circNext r.typ else r.index
  let pay := r.payload.take 240 ++ List.replicate (240 - r.payload.length) 0
  let body := pay ++ leBytes 4 (ledgerKey r.typ idx)
  ((s.setSlotBytes slot (body ++ leBytes 4 (crc32c body) ++ leBytes 8 0)).ledgerCount r.typ r.index).upLed fun l =>
    { l with writing := some (slot, { r with index := idx }), next := if (circRegion r.typ).isSome then Tab.set (fun _ => 0) l.next r.typ (idx + 1) else l.next }

/-- LEDGER_RECORD_WRITE (R453, R456, R457): the first record that waits, or one of the Millhouse's own, goes through steps 1 and 2, or is
refused while PWRFAIL_N is low or beyond a limit. Records are written one at a time. On an MRAM that cannot be read (R463) none can be written: what waits
for the record learns so. -/
def execLedgerRecordWrite (own : Option (Nat × Nat × List Byte)) (s : State) : Res :=
  let st := s.fget F.LEDGER_STAT_STATE 0
  let pick := match own with
    | some (t, i, d) => some (({ typ := t, index := i, payload := d } : LReq), s)
    | none => match s.led.reqs.find? fun r => !s.ledgerWaits r with
      | none => none
      | some r => some (r, s.upLed fun l => { l with reqs := l.reqs.erase r })
  match pick with
  | none => .next s
  | some (r, s1) =>
    if s.led.writing.isSome ∨ st = 0 then .next s
    else if st = 3 then .next (s1.ledgerTell r.who 0xA)
    else if st = 2 ∨ s.ledgerOver r then .next (s1.ledgerRefuse r)
    else match s1.ledgerSlot r.typ r.index with
      | some slot => .next (s1.ledgerFill slot r)
      | none => .next s

/-- Byte places of key 0 of the boot header (R558), whose layout the spec does not give: ACTIVE, MIN_SVN, then the SVN and the image digest of
each firmware slot. Marks: DESIGN CHOICE safe (log entry 212). -/
def bootKey0 (active minSvn : Nat) (slots : List (Nat × List Byte)) : List Byte :=
  leBytes 4 active ++ leBytes 4 minSvn ++ (slots.map fun e => leBytes 4 e.1 ++ e.2.take 48 ++ List.replicate (48 - e.2.length) 0).flatten

/-- ACTIVE, MIN_SVN and a slot's SVN and digest as key 0 holds them; zeros where it has no record. -/
def State.bootActive (s : State) : Nat := leAt ((s.ledgerPayload 1 0).getD []) 0 4
def State.minSvn (s : State) : Nat := leAt ((s.ledgerPayload 1 0).getD []) 4 4
def State.slotInfo (s : State) (f : Nat) : Nat × List Byte :=
  let d := (s.ledgerPayload 1 0).getD (List.replicate 240 0)
  (leAt d (8 + 52 * f) 4, sub d (12 + 52 * f) 48)

/-- The effective minimum SVN (R557). -/
def State.effMin (s : State) : Nat := max s.fuse.svnFloor s.minSvn

/-- What the commit of key 0 changes beside the Ledger (R561, R582): TRUST_SVN.MIN, and with REVOKE of FW_COMMIT_SVN the revocation fuses of the
key slots below the running image's. -/
def State.key0Committed (s : State) (w : LWho) : State :=
  let revoke := match w with
    | .cmd o => s.vk.cmds.any fun c => c.order == o && c.opcode == 0x72 && c.a.getD 0 0 % 2 == 1
    | _ => false
  let s1 := s.fset F.TRUST_SVN_MIN 0 s.effMin
  if revoke then
    { s1 with fuse := { s1.fuse with revoked := s1.fuse.revoked ++ (List.range (s.fget F.TRUST_STAT_KEYSLOT 0)).filter fun k => !s1.fuse.revoked.contains k } }
  else s1

/-- Step 3: the commit word is written with the next SEQ, and the record is current. -/
def State.ledgerCommit (s : State) : State :=
  match s.led.writing with
  | none => s
  | some (slot, r) =>
    let seq := s.cget C.LEDGER_SEQ 0 + 1
    let s1 := (s.setSlotBytes slot ((s.slotBytes slot).take 248 ++ leBytes 8 (commitWord seq))).cset C.LEDGER_SEQ 0 seq
    let s2 := s1.upLed fun l => { l with writing := none, current := Tab.set (fun _ => 0) l.current (ledgerKey r.typ r.index) (slot + 1) }
    (if r.typ = 1 ∧ r.index = 0 then s2.key0Committed r.who else s2).ledgerTell r.who 0

/-- LEDGER_COMMIT (R453). -/
def execLedgerCommit (s : State) : Res := .next s.ledgerCommit

/-! ## Recovery (R454) -/

/-- A slot with a valid commit word: its key, where its word 30 can be read, SEQ, whether its CRC-32C is right as far as its words can be read, and whether it passes
every check. -/
structure SlotView where
  slot : Nat
  named : Bool
  key : Nat
  seq : Nat
  crc : Bool
  good : Bool
  deriving DecidableEq, Repr

/-- The word addresses (32 × slot + word) at which recovery finds an uncorrectable word. -/
def badWords (l : List (Nat × WordUpset)) : List Nat := (l.filter fun e => wordCode e.2 e.1 == .bad).map (·.1)

/-- The bytes of a slot as recovery reads them (R431). -/
def slotRead (l : List (Nat × WordUpset)) (n : Nat) (b : List Byte) : List Byte :=
  ((l.filter fun e => e.1 / 32 == n && !(wordRight e.2 e.1 || wordCode e.2 e.1 == .bad)).foldl
    (fun d e => d.take (8 * (e.1 % 32)) ++ leBytes 8 (Config.wildData e.1 (wrongBits e.2)).toNat ++ d.drop (8 * (e.1 % 32) + 8)) b)

/-- The slots with a valid commit word, which one that cannot be read is not (R454). Marks: DEDUCED unsafe (log entry 386). -/
def State.committedSlots (s : State) (l : List (Nat × WordUpset)) : List SlotView :=
  let bad := badWords l
  s.led.slots.filterMap fun e =>
    let b := slotRead l e.1 e.2
    let whole := !bad.any fun w => w / 32 == e.1
    if bad.contains (32 * e.1 + 31) then none
    else (commitSeq b).map fun q => ⟨e.1, !bad.contains (32 * e.1 + 30), leAt b 240 4, q, slotCrcOk b || !whole, slotCrcOk b && whole⟩

/-- Of the good slots of a key, the one with the highest SEQ becomes current. -/
def pickCurrent (l : List SlotView) : Tab Nat :=
  l.foldl (fun (t : Tab Nat) v =>
    let cur := Tab.get (fun _ => 0) t v.key
    let better := cur = 0 || l.any fun x => x.slot + 1 == cur && decide (x.seq < v.seq)
    if v.good && better then Tab.set (fun _ => 0) t v.key (v.slot + 1) else t) []

/-- The next place of a circular region: after its record with the highest SEQ. -/
def pickNext (l : List SlotView) (typ : Nat) : Nat :=
  let best := (l.filter fun v => v.good && v.key / 2 ^ 24 == typ).foldl
    (fun (b : Nat × Nat) v => if b.2 ≤ v.seq then (v.key % 2 ^ 24 + 1, v.seq) else b) (0, 0)
  best.1

/-- Corrected MRAM words (R434): counted and reported. -/
def State.ledgerCorrected (s : State) (n : Nat) : State := if n = 0 then s else (s.finc F.LEDGER_COUNTS_CE 0 n).emit (.fault T.ledger 0)

/-- LEDGER_RECOVERY (R454): every slot is read; `words` are what its reads meet by word address, an uncorrectable one counted in LEDGER_UE and a corrected one in CE. An
MRAM that cannot be read leaves STATE FAULT (R463), a class D fault that DEVICE_FAULT records. While PWRFAIL_N is low, boot holds before this step (R553); after it
fell, STATE stays PWRFAIL (R456). -/
def execLedgerRecovery (words : List (Nat × WordUpset)) (unreadable : Bool) (s : State) : Res :=
  let st := s.fget F.LEDGER_STAT_STATE 0
  if s.led.recovered ∨ (st ≠ 0 ∧ st ≠ 2) ∨ ¬ s.fbit F.POWER_STAT_PWRFAIL_N 0 then .next s
  else if unreadable then .next (((s.upLed fun q => { q with recovered := true }).fset F.LEDGER_STAT_STATE 0 (if st = 2 then 2 else 3)).emit (.fault T.ledger 0))
  else
    let bad := badWords words
    let l := s.committedSlots words
    let cur := pickCurrent l
    let keys := ((l.filter (·.named)).map (·.key)).eraseDups
    let lost := (keys.filter fun k => !l.any fun v => v.key == k && v.good).length
    let s1 := s.upLed fun q => { q with current := cur, next := Tab.set (fun _ => 0) (Tab.set (fun _ => 0) [] 4 (pickNext l 4)) 5 (pickNext l 5), writing := none, recovered := true }
    let s2 := (((s1.fset F.LEDGER_STAT_STATE 0 (if st = 2 then 2 else 1)).fset F.LEDGER_STAT_LOST 0 (min lost 0xFFFF)).fset F.LEDGER_RECOV_INVALID 0 (min (32768 - l.length) 0xFFFF))
    let s3 := s2.fset F.LEDGER_RECOV_CRC_FAIL 0 (min (l.filter fun v => !v.crc).length 0xFFFF)
    let s4 := if bad.isEmpty then s3 else (s3.finc F.LEDGER_UE_UE 0 bad.length).raise T.ledger 0 I.LEDGER_UE
    let s5 := s4.ledgerCorrected (words.filter fun e => match wordCode e.2 e.1 with | .corrected _ => true | _ => false).length
    .next ((s5.cset C.LEDGER_SEQ 0 (l.foldl (fun m v => max m v.seq) 0)).raise T.ledger 0 I.LEDGER_READY)

/-! ## The read window (R463) -/

/-- The word address of the MRAM word that LEDGER_RD_SEL names. -/
def State.ledgerAt (s : State) : Nat := 32 * s.fget F.LEDGER_RD_SEL_SLOT 0 + s.fget F.LEDGER_RD_SEL_WORD 0 / 2

/-- The word of a slot that LEDGER_RD_SEL names (R463). -/
def State.ledgerWord (s : State) : Nat := leAt (s.slotBytes (s.fget F.LEDGER_RD_SEL_SLOT 0)) (4 * s.fget F.LEDGER_RD_SEL_WORD 0) 4

/-- After a unicast read of LEDGER_RD_DATA WORD advances, and SLOT when WORD returns to 0 (R463). Marks: DEDUCED unsafe (log entry 242). -/
def State.ledgerAdvance (s : State) : State :=
  let word := s.fget F.LEDGER_RD_SEL_WORD 0
  let s1 := s.fset F.LEDGER_RD_SEL_WORD 0 ((word + 1) % 64)
  if word = 63 then s1.fset F.LEDGER_RD_SEL_SLOT 0 ((s.fget F.LEDGER_RD_SEL_SLOT 0 + 1) % 32768) else s1

/-- A unicast read of LEDGER_RD_DATA: the selected word, with WORD and then SLOT advanced; an uncorrectable word gives the reader a completer
abort (R435). -/
def State.ledgerRead (s : State) (fn addr : Nat) (up : WordUpset) : State :=
  let n := s.fget F.LEDGER_RD_SEL_SLOT 0
  let v := leAt (slotRead [(s.ledgerAt, up)] n (s.slotBytes n)) (4 * s.fget F.LEDGER_RD_SEL_WORD 0) 4
  let s2 := s.ledgerAdvance
  match wordCode up s.ledgerAt with
  | .ok => s2.emit (.readData fn addr v)
  | .corrected _ => (s2.ledgerCorrected 1).emit (.readData fn addr v)
  | .bad => (((s2.finc F.LEDGER_UE_UE 0).raise T.ledger 0 I.LEDGER_UE).finc F.PCIE_ERRCNT_CA 0).emit (.completerAbort fn addr)

/-! ## Persistent counters (R516) -/

/-- COUNTER_WRITE: a record of key 8p + k is asked for; its commit completes the command, and beyond the limit it completes BUSY_RETRY. -/
def execCounterWrite (p ring tag : Nat) (payload : Option (List Byte)) (s : State) : Res :=
  runCmd p ring tag 0x38 (fun c t =>
    let pre := t.preChecks c (zeroBad c false [7])
    match payload with
    | none => checked c pre (fun u => u.complete c 0xA) t
    | some d => checked c (pre ++ [(d.length != 240, 6)])
        (fun u => (u.markStarted c).ledgerAsk ⟨6, 8 * p + c.w 0 % 8, d, .cmd c.order⟩) t) s

/-- Bytes the spec does not state. Marks: DEDUCED unsafe (log entry 249). -/
def State.freeBytes (s : State) : Nat → List Byte × State
  | 0 => ([], s)
  | n + 1 =>
    let v := s.takeFree
    let r := v.2.freeBytes n
    (leBytes 8 v.1.toNat ++ r.1, r.2)

/-- COUNTER_READ: the current record is written to ADDR; where the key has none, 240 bytes the spec does not state. -/
def execCounterRead (p ring tag : Nat) (s : State) : Res :=
  runCmd p ring tag 0x39 (fun c t =>
    checked c (t.preChecks c (zeroBad c false [7]))
      (fun u => match u.ledgerPayload 6 (8 * p + c.w 0 % 8) with
        | some b => (u.emit (.dmaWrite p c.addr b)).complete c 0
        | none =>
          let r := u.freeBytes 30
          (r.2.emit (.dmaWrite p c.addr r.1)).complete c 0) t) s

end Sys2Proof.Machine
end

