-- ==== Sys2Proof/Machine/Polder.lean ====
section
/-!
DEFINITION. Polders (spec file 11): the polder commands, role changes and epochs, reset and teardown, zeroisation, Dike translation,
and the data commands that go through it (R516).
-/

namespace Sys2Proof.Machine

/-- Changes the polder part of the state. -/
def State.upPol (s : State) (f : Polders → Polders) : State := { s with pol := f s.pol }

/-- A polder changes state (R471). -/
def State.setPolState (s : State) (p st : Nat) : State := (s.fset F.DIKE_STAT_STATE p st).raise T.dike p I.DIKE_STATE_CHANGE

/-- Counts a mill in or out of a polder in DIKE_MILLS and DIKE_STAT.MILLS. -/
def State.dikeMill (s : State) (p m : Nat) (held : Bool) : State :=
  let off := 0x90 + 4 * (m / 32)
  let v := s.rd T.dike p off
  if bitAt v (m % 32) = held then s
  else
    let s1 := s.wr T.dike p off (if held then setBitN v (m % 32) else clrBitN v (m % 32))
    s1.fset F.DIKE_STAT_MILLS p (if held then s.fget F.DIKE_STAT_MILLS p + 1 else s.fget F.DIKE_STAT_MILLS p - 1)

/-- The mills of a polder: its members (R22). -/
def State.millsOf (s : State) (p : Nat) : List Nat := (List.range s.fuse.mills).filter fun m => s.millInView p m

/-- Has a mill classes on any of its stones? -/
def State.holdsClasses (s : State) (m : Nat) : Bool := s.sch.classes.any fun e => e.2.stone / 16 == m

/-- Is a mill in a role change? -/
def State.changing (s : State) (m : Nat) : Bool := s.pol.changes.any fun c => c.mill == m

/-- A new key is drawn into a polder's slot (R476). Marks: DEDUCED unsafe (log entry 261), DESIGN CHOICE safe (log entry 265). -/
def State.drawKey (s : State) (p : Nat) : State :=
  s.upPol fun x => { x with draws := x.draws + 1, slotKey := Tab.set (fun _ => 0) x.slotKey p (x.draws + 1) }

/-! ## The form of a polder command (R464, R471, R510) -/

/-- May a polder command start: the Millhouse starts them in the order it took them, across the PF's rings? Marks: DEDUCED unsafe (log entry 260). -/
def State.polderTurn (s : State) (c : VCmd) : Bool :=
  !(s.vk.cmds.any fun x => decide (0x40 ≤ x.opcode ∧ x.opcode ≤ 0x4B) && !x.started && decide (x.order < c.order))

/-- Runs a polder command on polder p of A0: unused fields, the caller, then its own checks. Marks: DEDUCED unsafe (log entry 260). -/
def polderCmd (p ring tag op : Nat) (masks : List Nat) (own : VCmd → State → Nat → List (Bool × Nat))
    (run : VCmd → Nat → State → State) (s : State) : Res :=
  runCmd p ring tag op (fun c t =>
    if t.polderTurn c then
      let q := c.w 0 % 16
      checked c (t.preChecks c (zeroBad c false (15 :: masks)) ++ [(p != 0, 7)] ++ own c t q) (run c q) t
    else t) s

/-- A polder is not in CONFIG or ACTIVE. -/
def State.notLive (s : State) (q : Nat) : Bool := !(s.polState q == 1 || s.polState q == 2)

/-- CREATE (R471, R476, R562): a key is drawn and the polder is in CONFIG. A source that fails its test gives FAULTED (R581). -/
def execCreate (p ring tag : Nat) (s : State) : Res :=
  polderCmd p ring tag 0x40 []
    (fun _ t q => [(q == 0, 6), (t.debugUnlocked, 7), (t.polState q != 0, 1), (t.pol.rngFail, 0xA)])
    (fun c q t => ((((t.drawKey q).extendMr 6 q 0x40 (sha384 (bytesOf [0x40, q]))).setPolState q 1)).complete c 0) s

/-- ENABLE (R471). -/
def execEnable (p ring tag : Nat) (s : State) : Res :=
  polderCmd p ring tag 0x41 [] (fun _ t q => [(t.polState q != 1, 1)]) (fun c q t => (t.setPolState q 2).complete c 0) s

/-! ## Role changes (R482 to R484) -/

/-- A role change begins: every stone of the mill has stopped. -/
def State.beginChange (s : State) (r : RoleChange) : State :=
  (s.setMill r.mill { s.mill r.mill with stopped := true }).upPol fun x => { x with changes := x.changes ++ [r] }

/-- GRANT_MILL (R471): a mill in role 0x1 of polder 0 that holds no class begins its role change to the polder. -/
def execGrantMill (p ring tag : Nat) (s : State) : Res :=
  polderCmd p ring tag 0x42 [m32]
    (fun c t q =>
      let m := c.w 1
      [(q == 0, 6), (t.notLive q || (decide (m < t.fuse.mills) && (t.role m != 1 || t.fget F.MILL_ROLE_POLDER m != 0 || t.holdsClasses m || t.changing m)), 1),
       (decide (t.fuse.mills ≤ m), 6)])
    (fun c q t => (t.markStarted c).beginChange ⟨c.w 1, 0, q, c.order, .grant⟩) s

/-- REVOKE_MILL (R471). -/
def execRevokeMill (p ring tag : Nat) (s : State) : Res :=
  polderCmd p ring tag 0x43 [m32]
    (fun c t q =>
      let m := c.w 1
      [(q == 0, 6), (t.notLive q || (decide (m < t.fuse.mills) && (t.role m != 1 || t.fget F.MILL_ROLE_POLDER m != q || t.holdsClasses m || t.changing m)), 1),
       (decide (t.fuse.mills ≤ m), 6)])
    (fun c q t => (t.markStarted c).beginChange ⟨c.w 1, q, 0, c.order, .grant⟩) s

/-- Step 4 of R482: everything the mill and its role hold is zero. -/
def State.zeroMill (s : State) (m : Nat) : State :=
  let q := s.roleOfMill m
  let s1 : State := { s with stones := Tab.clearRange s.stones (16 * m) (16 * m + 16) }
  let s2 := (s1.setMill m { library := true }).upSch fun c =>
    { c with placed := Tab.erase c.placed m, slots := (match q with | some k => Tab.clearRange c.slots (4 * k) (4 * k + 4) | none => c.slots) }
  match q with
  | some k => { s2 with image := Tab.erase s2.image k }
  | none => s2

/-- A stale message is dropped, counted and NACKed, and the command that sent it completes STALE_HANDLE (R483). -/
def State.staleMessage (s : State) (polder : Nat) (order : Option Nat) : State :=
  let s1 := ((s.finc F.DIKE_COUNTS_STALE polder).raise T.dike polder I.DIKE_STALE).emit (.nack polder)
  match order with
  | some o => s1.completeOrder o 2
  | none => s1

/-- Doorbell bits reach a stone (R131), but not on a mill whose page is frozen (R24). -/
def State.doorbellBits (s : State) (n bits : Nat) : State := if s.frozen T.mill (n / 16) then s else s.upStone n (·.ring (bits % 256))

/-- A held message is delivered to the mill that holds its role. -/
def State.deliverHeld (s : State) (m : Nat) (h : HeldMsg) : State :=
  match h.item with
  | none => s.doorbellBits (16 * m + h.stone) h.bits
  | some it =>
    let s1 := (s.qAppend (qHeadrace h.role) (halfOf m) it none).1
    match h.order with
    | some o => s1.completeOrder o 0
    | none => s1

/-- The messages held for a role are delivered, those with an old epoch dropped (R482 step 5, R589 step 8). -/
def State.releaseHeld (s : State) (role m : Nat) : State :=
  let mine := s.pol.held.filter fun h => h.role == role
  mine.foldl (fun t h => if h.epoch = t.fget F.MILL_ROLE_EPOCH m then t.deliverHeld m h else t.staleMessage h.polder h.order)
    (s.upPol fun x => { x with held := x.held.filter fun h => h.role != role })

/-- The digest of the library image (R484), which the spec does not give. Marks: DESIGN CHOICE safe (log entry 268). -/
def libDigest : List Byte := (List.range 48).map (Config.crypt [2])

/-- The role record is measured into MR5 (R484, R562). Marks: DESIGN CHOICE safe (log entry 268). -/
def State.measureRole (s : State) (m role p epoch : Nat) : State :=
  s.extendMr 5 p 5 (sha384 (leBytes 1 m ++ leBytes 1 role ++ leBytes 1 p ++ leBytes 2 epoch ++ libDigest))

/-- Steps 3 to 6 of a role change (R482): the cache is written back, everything is zeroised, the epoch increments, the mill has its new
polder, held messages with the old epoch are dropped, and the role is measured. -/
def State.changeRole (s : State) (r : RoleChange) : State :=
  let m := r.mill
  let role := (s.roleOfMill m).getD 0
  let epoch := (s.fget F.MILL_ROLE_EPOCH m + 1) % 65536
  let s1 := ((s.drainCache m []).zeroMill m).upPol fun x => { x with changes := x.changes.filter fun c => c.mill != m }
  let s2 := (s1.fset F.MILL_ROLE_EPOCH m epoch).fset F.MILL_ROLE_POLDER m r.polder
  let s3 := if r.old = r.polder then s2 else (s2.dikeMill r.old m false).dikeMill r.polder m true
  (s3.releaseHeld role m).measureRole m role r.polder epoch

/-! ## Ending a polder's objects (R472) -/

/-- The roles held by the mills of a polder. -/
def State.rolesOf (s : State) (p : Nat) : List Nat := (s.millsOf p).filterMap s.roleOfMill

/-- Step 2 of R472: the work units and uncommitted seals of the polder are gone, and the items they staged are freed and counted in
SPILL_RESET. -/
def State.stopWork (s : State) (p : Nat) : State :=
  let mine := (s.sch.wus.filter fun e => (s.klass e.2.cls).polder == p).map fun e => e.1
  let seals := (s.rolesOf p).flatMap fun q => (s.log q).map fun e => e.wu
  let gone := mine ++ seals
  let staged (i : QItem) : Bool := match i.stagedBy with | some w => gone.contains w | none => false
  let s1 := s.qs.q.foldl
    (fun t e =>
      let n := (e.2.items.filter fun i => staged i && !i.gap).length
      if e.2.items.any staged then (t.qRemove e.1 staged).spill C.SPILL_RESET p n else t) s
  let s2 := s1.upSch fun c => { c with wus := c.wus.filter fun e => !gone.contains e.1 }
  (s.rolesOf p).foldl (fun t q => t.setLog q []) s2

/-- The queues of a polder that RESET empties: headrace, stage, host and privileged. -/
def State.resetQueues (s : State) (p : Nat) : State :=
  s.qs.q.foldl
    (fun t e =>
      if qKind s.fuse e.1 ≤ 3 ∧ s.qPolder e.1 = p then
        let q := t.queue e.1
        let n := (q.items.filter fun i => !i.gap).length
        (t.qRemove e.1 fun _ => true).spill C.SPILL_RESET p n
      else t) s

/-- Ends every stream, channel, bundle, kernel, type and definition of a polder (R472 step 4); their indices are in quarantine. -/
def State.endObjects (s : State) (p : Nat) : State :=
  let turn := s.turn
  let chans := (s.sch.chans.filter fun e => e.2.st != .idle && e.2.polder == p).map fun e => e.1
  let buns := (s.sch.bundles.filter fun e => e.2.st != .idle && e.2.polder == p).map fun e => e.1
  let strs := (s.streams.filter fun e => e.2.st != .idle && e.2.polder == p).map fun e => e.1
  let s1 := chans.foldl (fun t c => t.setChan c { t.chan c with st := .draining }) s
  let s2 := buns.foldl (fun t b => t.setBundle b { t.bundle b with st := .draining }) s1
  let s3 := buns.foldl (fun t b => t.bundleIdle b turn) (chans.foldl (fun t c => t.chanIdle c turn) s2)
  let s4 := strs.foldl
    (fun t i =>
      let x := t.strm i
      ((t.spill C.SPILL_RESET p (x.buf.length + x.probation.toList.length)).setStrm i { x with buf := [], probation := none }).streamIdle i turn) s3
  let kerns := (s.sch.kerns.filter fun e => e.1 / 64 == p).map fun e => e.1
  let types := (s.sch.types.filter fun e => e.1 / 256 == p).map fun e => e.1
  let s5 := s4.upSch fun c =>
    { c with kerns := c.kerns.filter fun e => e.1 / 64 != p, types := c.types.filter fun e => e.1 / 256 != p,
             cpDefs := Tab.clearRange c.cpDefs (16 * p) (16 * p + 16),
             fx := c.fx.filter fun e => match e.2 with | .cpDefine q _ _ => q != p | _ => true }
  let s6 := kerns.foldl (fun t k => t.freeIndex 4 p (k % 64) turn) s5
  types.foldl (fun t k => t.freeIndex 5 p (k % 256) turn) s6

/-! ## Translation, data and aborts (R475, R477, R518, R519) -/

/-- The device HBM address of a parcel. -/
def parcelAddr (g : Nat) : Nat := g / 9728 * 2 ^ 35 + g % 9728 * 2 ^ 21

/-- The mapping of a page of a polder. -/
def State.page (s : State) (p n : Nat) : Option (Nat × Bool) := Tab.get (fun _ => none) s.pol.pages (32768 * p + n)

/-- One page's translation: the first failing check's kind (0 for none) and the device HBM address. Marks: DEDUCED safe (log entry 266). -/
def State.walk (s : State) (p pa : Nat) (write badTable : Bool) : Nat × Nat :=
  if 2 ^ 36 ≤ pa then (1, 0)
  else match s.page p (pa / 2 ^ 21) with
    | none => (2, 0)
    | some (g, w) =>
      if badTable then (3, 0)
      else if ¬ isRegion g then (4, 0)
      else if s.parcelOwner g ≠ some p then (5, 0)
      else if write ∧ ¬ w then (6, 0)
      else (0, parcelAddr g + pa % 2 ^ 21)

/-- The command status of a walk fault. -/
def walkStatus (kind : Nat) : Nat := if 3 ≤ kind ∧ kind ≤ 5 then 0xA else 7

/-- A write to a parcel that awaits zeroisation takes it from the order: it is zeroised first (R477). -/
def State.zeroFirst (s : State) (g : Nat) : State := s.upPol fun x => { x with zero := x.zero.filter fun j => j.free || j.parcel != g }

/-- What a transfer has come to: the state, the bytes done, and the status and walk fault kind that ended it (0 and 0 for none). -/
structure Xfer where
  s : State
  done : Nat
  status : Nat
  kind : Nat
  data : List Byte
  deriving DecidableEq, Repr

/-- Writes data through the Dike of a polder, page by page; `bad` counts the pages to the one whose table line is bad. Marks: DEDUCED safe (log entry 266). -/
def State.paWrite (s : State) (p req : Nat) : Nat → Nat → List Byte → Option Nat → Nat → Xfer
  | 0, _, _, _, done => ⟨s, done, 0, 0, []⟩
  | fuel + 1, pa, l, bad, done =>
    if l.isEmpty then ⟨s, done, 0, 0, []⟩
    else
      let k := min l.length (2 ^ 21 - pa % 2 ^ 21)
      let w := s.walk p pa true (bad == some 0)
      if w.1 ≠ 0 then ⟨s.walkFault p req w.1 pa, done, walkStatus w.1, w.1, []⟩
      else
        let r := (s.zeroFirst (parcelOf w.2)).hbmPut w.2 (l.take k)
        if r.2 then r.1.paWrite p req fuel (pa + k) (l.drop k) (bad.map (· - 1)) (done + k) else ⟨r.1, done, 0xA, 0, []⟩

/-- The bytes up to the first poisoned line of a range. -/
def State.goodBytes (s : State) (a n : Nat) : Nat :=
  (s.mem.poison.filter fun w => decide (w * 64 < a + n) && decide (a < w * 64 + 64)).foldl (fun m w => min m (w * 64 - a)) n

/-- Reads n bytes through the Dike of a polder. No poisoned byte is taken (R437). -/
def State.paRead (s : State) (p req : Nat) : Nat → Nat → Nat → Option Nat → List Byte → Xfer
  | 0, _, _, _, acc => ⟨s, acc.length, 0, 0, acc⟩
  | fuel + 1, pa, n, bad, acc =>
    if n = 0 then ⟨s, acc.length, 0, 0, acc⟩
    else
      let k := min n (2 ^ 21 - pa % 2 ^ 21)
      let w := s.walk p pa false (bad == some 0)
      if w.1 ≠ 0 then ⟨s.walkFault p req w.1 pa, acc.length, walkStatus w.1, w.1, acc⟩
      else
        let g := s.goodBytes w.2 k
        let b := memBytes s.mem.hbm w.2 g
        if g < k then ⟨s, acc.length + g, 0xA, 0, acc ++ b⟩ else s.paRead p req fuel (pa + k) (n - k) (bad.map (· - 1)) (acc ++ b)

/-- Pages that a range may touch, and one more. -/
def pagesOf (n : Nat) : Nat := n / 2 ^ 21 + 3

/-- The whole lines that n bytes from an address on hold, in bytes from there (R522). -/
def wholeLines (pa n : Nat) : Nat := (pa % 64 + n) / 64 * 64 - pa % 64

/-- A DMA_READ that could start may have begun when an abort reaches it, with the host memory of a number of whole lines written that the spec leaves
open (R519). Marks: DESIGN CHOICE safe (log entry 397). -/
def State.cutRead (s : State) (x : VCmd) : State :=
  let f := s.takeFree
  let pa := x.pair 0
  let r := f.2.paRead x.polder 1 (pagesOf x.len) pa (64 * (f.1.toNat % ((pa % 64 + x.len - 1) / 64 + 1)) - pa % 64) none []
  (if r.data = [] then f.2 else f.2.emit (.dmaWrite x.polder x.addr r.data)).complete x 8 0 0 r.data.length

/-- An abort reaches a command (R518, R519). Marks: DEDUCED unsafe (log entry 281), DESIGN CHOICE safe (log entry 397). -/
def State.abortCmd (s : State) (x : VCmd) : State :=
  if x.opcode = 0x31 ∧ s.ready x (objName x.handle) ∧ ¬ zeroBad x false [m32, m32] ∧ 0 < x.len ∧ x.len ≤ 67108864 then s.cutRead x else s.stopCmd x

/-- ABORT (R518, R519): the commands of the ring named whose doorbell was written before its own are compared. No such command, or one
already completed, gives ALREADY_DONE; an ABORT as target gives BAD_PARAM; any other target is stopped and completes ABORTED. The abort goes to the
Millhouse through privileged queue 3, and waits while the pool has no cell for it (R339, R506). -/
def execAbort (p ring tag : Nat) (s : State) : Res :=
  runCmd p ring tag 1 (fun c t =>
    let pre := t.preChecks c (zeroBad c false [0xFFFF000F])
    let target := t.vk.cmds.find? fun x => x.polder == p && x.ring == c.w 0 % 16 && x.tag == c.w 0 / 65536 && decide (x.bell < c.bell)
    match target with
    | none => checked c pre (fun u => u.complete c 9) t
    | some x => checked c (pre ++ [(x.opcode == 1, 6)]) (fun u =>
      if !u.privRoom p 3 1 then u
      else ((u.passPacket p 3 (cmdTag c) (leBytes 4 (x.ring + x.tag * 65536))).abortCmd x).complete c 0) t) s

/-- The commands of a VF that were in execution when its polder's reset was accepted complete ABORTED under the abort rule (R472, R485,
R519). -/
def State.abortAll (s : State) (p : Nat) : State :=
  (s.vk.cmds.filter fun c => c.polder == p && c.aborted).foldl State.abortCmd s

/-! ## Zeroisation (R477) -/

/-- The region parcels of a polder, in ascending index order. -/
def State.parcelsOf (s : State) (p : Nat) : List Nat := (s.pol.owner.filter fun e => e.2 == p + 1).map fun e => e.1

/-- Parcels enter the zeroisation order: from now on they read as zero. Marks: DEDUCED unsafe (log entry 263). -/
def State.zeroise (s : State) (p : Nat) (parcels : List Nat) (free : Bool) : State :=
  let s1 := parcels.foldl (fun t g => t.hbmZero (parcelAddr g) (2 ^ 21)) s
  (s1.upPol fun x => { x with zero := (x.zero.filter fun j => !parcels.contains j.parcel) ++ parcels.map fun g => ⟨g, p, free⟩ }).fset F.DIKE_STAT_ZEROISING p 1

/-- PARCELS or MAPPED of a stack. -/
def State.regionAdd (s : State) (p stack : Nat) (n : Int) (mapped : Bool) : State :=
  let f := if stack = 0 then (if mapped then F.DIKE_REGION0_MAPPED else F.DIKE_REGION0_PARCELS) else if mapped then F.DIKE_REGION1_MAPPED else F.DIKE_REGION1_PARCELS
  s.fset f p (Int.ofNat (s.fget f p) + n).toNat

/-- A zeroised parcel is freed. -/
def State.freeParcel (s : State) (p g : Nat) : State :=
  (s.upPol fun x => { x with owner := Tab.erase x.owner g }).regionAdd p (g / 9728) (-1) false

/-! ## RESET and DESTROY (R472, R473) -/

/-- The Press at step 2 of a reset (R543): the polder's jobs end and leave nothing, its suspension area is discarded, and its copy of CONS is 0. -/
def State.pressReset (s : State) (p : Nat) : State :=
  let mine := match s.press.running with | some j => j.polder == p | none => false
  let s1 : State := { s with press := { s.press with
    running := if mine then none else s.press.running
    suspended := s.press.suspended.filter fun j => j.polder != p
    due := s.press.due.filter fun j => j.polder != p
    copies := Tab.erase s.press.copies p
    cons := Tab.erase s.press.cons p } }
  if mine then (s1.fset F.PRESS_STAT_BUSY 0 0).fset F.PRESS_STAT_MIRROR 0 0 else s1

/-- Steps 1 to 3 as they begin: the state, the commands of VF q that the reset aborts (R485), the end of uncommitted work, and a role change of every mill of the polder. Marks: DEDUCED unsafe (log entry 262). -/
def State.beginReset (s : State) (q st order : Nat) (why : ChangeWhy) : State :=
  let s1 := (((s.setPolState q st).markAborted fun c => c.polder == q).stopWork q).pressReset q
  (s.millsOf q).foldl (fun t m => if t.changing m then t else t.beginChange ⟨m, q, q, order, why⟩) s1

/-- Step 4: objects, queues and commands end, a new key is drawn, and zeroisation begins. Marks: DEDUCED unsafe (log entry 262). -/
def State.resetStep4 (s : State) (q : Nat) : State :=
  let s1 := (s.endObjects q).abortAll q
  (((s1.resetQueues q).drawKey q).zeroise q (s.parcelsOf q) false)

/-- Completes RESET, or DESTROY, OK, or FAULTED where one of its role changes has faulted (R482). Marks: DEDUCED unsafe (log entry 262). -/
def State.finishPolder (s : State) (q order : Nat) : State :=
  let st := if s.pol.faulted.contains q then 0xA else 0
  (s.upPol fun x => { x with faulted := x.faulted.filter fun y => y != q }).completeOrder order st

/-- Step 5 of R472: ACTIVE again, with a reset notice whose DETAIL the spec does not state. -/
def State.resetStep5 (s : State) (q order : Nat) : State :=
  let v := s.takeFree
  (((v.2.setPolState q 2).notice q 2 0 v.1.toNat)).finishPolder q order

/-- Steps 3 to 5 of R473, after the last mill has gone back: windows, those still to come among them, mappings, quotas and keys go, and every parcel is zeroised and
freed; ABSENT comes with the end of the zeroisation. Marks: DEDUCED unsafe (log entry 263). -/
def State.teardown (s : State) (q order : Nat) : State :=
  let s0 := s.upSch fun c => { c with fx := c.fx.filter fun e => match e.2 with | .pwin p _ _ _ => p != q | _ => true }
  let s1 := (List.range 4).foldl (fun t w => t.windowTurn q w 0) s0
  let s2 := s1.upPol fun x => { x with pages := x.pages.filter (fun e => e.1 / 32768 != q), keys := x.keys.filter (fun e => e.1 != q),
                                       waits := x.waits ++ [(q, order, true)] }
  let s3 := [F.DIKE_REGION0_MAPPED, F.DIKE_REGION1_MAPPED, F.DIKE_CLASSES0_QUOTA, F.DIKE_CLASSES1_QUOTA, F.DIKE_ENTRIES_QUOTA, F.DIKE_OBJQ_KSTORE,
    F.DIKE_OBJQ_BUNDLES, F.DIKE_DMA_RATE_MBPS, F.DIKE_KEYS_ENROLLED, F.DIKE_STREAM_BASE_BASE, F.DIKE_STREAM_COUNT_COUNT].foldl (fun t f => t.fset f q 0) s2
  (s3.fset F.PRESS_RING_EN 0 0 q).zeroise q (s.parcelsOf q) true

/-- Step 4 of a reset or teardown, with its key draw, and what follows it. -/
def State.keyStep (s : State) (q order : Nat) (why : ChangeWhy) : State :=
  if why = .reset then (s.resetStep4 q).resetStep5 q order
  else
    let s1 := s.resetStep4 q
    let s2 := (s1.millsOf q).foldl (fun t m => t.beginChange ⟨m, q, 0, order, .leave⟩) s1
    if (s1.millsOf q).isEmpty then s2.teardown q order else s2

/-- The key draw of a reset or teardown waits while the random source fails (R581). Marks: DEDUCED safe (log entry 394). -/
def State.keyReady (s : State) (q order : Nat) (why : ChangeWhy) : State :=
  if s.pol.rngFail then s.upPol fun x => { x with keyWaits := x.keyWaits ++ [(q, order, why)] } else s.keyStep q order why

/-- The last role change of a RESET or DESTROY has ended: what comes next. -/
def State.changesDone (s : State) (q order : Nat) (why : ChangeWhy) : State :=
  if s.pol.changes.any fun c => c.old == q && (c.why == .reset || c.why == .destroy || c.why == .leave) then s
  else match why with
  | .reset => s.keyReady q order .reset
  | .destroy => s.keyReady q order .destroy
  | .leave => s.teardown q order
  | _ => s

/-- RESET (R472): with no mill, steps 4 and 5 follow at once. A RESET while the random source fails completes FAULTED (R581). -/
def execReset (p ring tag : Nat) (s : State) : Res :=
  polderCmd p ring tag 0x4A [] (fun _ t q => [(q == 0, 6), (t.polState q != 2, 1), (t.pol.rngFail, 0xA)])
    (fun c q t => ((t.markStarted c).extendMr 6 q 0x4A (sha384 (bytesOf [0x4A, q]))).beginReset q 3 c.order .reset |>.changesDone q c.order .reset) s

/-- DESTROY (R473). -/
def execDestroy (p ring tag : Nat) (s : State) : Res :=
  polderCmd p ring tag 0x4B [] (fun _ t q => [(q == 0, 6), (t.notLive q, 1)])
    (fun c q t => ((t.markStarted c).extendMr 6 q 0x4B (sha384 (bytesOf [0x4B, q]))).beginReset q 4 c.order .destroy |>.changesDone q c.order .destroy) s

/-- A mill leaves service at quarantine (R588): role 0x4, its stones stopped, no sample of it left for the turn (R54), its page frozen with
the fills it has (R24), and no polder counts it. -/
def State.quarantineMill (s : State) (m : Nat) : State :=
  let s0 := (s.wr T.mill m 0x400 (s.hopperStat m)).forgetPace m
  let s1 := ((s0.fset F.MILL_ROLE_ROLE m 4).setMill m { s.mill m with stopped := true }).dikeMill (s.fget F.MILL_ROLE_POLDER m) m false
  s1.upPol fun x => { x with changes := x.changes.filter fun c => c.mill != m }

/-- ZERO_DONE (R477): the zeroisation of a polder is done; parcels revoked are freed, the commands that waited complete, and a polder in
teardown is ABSENT with its key slot destroyed (R473). -/
def execZeroDone (polder : Nat) (s : State) : Res :=
  if 16 ≤ polder ∨ ¬ s.fbit F.DIKE_STAT_ZEROISING polder then .next s
  else
    let jobs := s.pol.zero.filter fun j => j.polder == polder
    let waits := s.pol.waits.filter fun w => w.1 == polder
    let s1 := (s.upPol fun x => { x with zero := x.zero.filter (fun j => j.polder != polder), waits := x.waits.filter fun w => w.1 != polder })
    let s2 := (jobs.filter (·.free)).foldl (fun t j => t.freeParcel polder j.parcel) s1
    let s3 := (s2.fset F.DIKE_STAT_ZEROISING polder 0).raise T.dike polder I.DIKE_ZERO_DONE
    .next (waits.foldl
      (fun t w => if w.2.2 then ((t.upPol fun x => { x with slotKey := Tab.erase x.slotKey polder }).setPolState polder 0).finishPolder polder w.2.1
                  else t.completeOrder w.2.1 0) s3)

/-! ## Parcels, streams, windows, keys (R471, R481, R484) -/

/-- Is a region parcel free: owned by no polder? -/
def State.parcelFree (s : State) (g : Nat) : Bool := (s.parcelOwner g).isNone

/-- GRANT_PARCELS (R471): the n lowest free region parcels of a stack, zeroised, pass to the polder. -/
def execGrantParcels (p ring tag : Nat) (s : State) : Res :=
  polderCmd p ring tag 0x44 [m32, m32]
    (fun c t q =>
      let free := 8288 - (t.pol.owner.filter fun e => e.1 / 9728 == c.w 1).length
      [(t.notLive q, 1), (decide (2 ≤ c.w 1), 6), (decide (free < c.w 2), 4)])
    (fun c q t =>
      let st := c.w 1
      let pick := (((List.range 8288).map (9728 * st + 1440 + ·)).filter t.parcelFree).take (c.w 2)
      let t1 := pick.foldl (fun u g => (u.hbmZero (parcelAddr g) (2 ^ 21)).upPol fun x => { x with owner := Tab.set (fun _ => 0) x.owner g (q + 1) }) t
      (t1.regionAdd q st (Int.ofNat pick.length) false).complete c 0) s

/-- Is a parcel mapped by some page of a polder? -/
def State.parcelMapped (s : State) (p g : Nat) : Bool :=
  s.pol.pages.any fun e => e.1 / 32768 == p && (match e.2 with | some (x, _) => x == g | none => false)

/-- REVOKE_PARCELS (R471): a parcel that is not mapped is zeroised and freed; the command completes with the zeroisation. -/
def execRevokeParcels (p ring tag : Nat) (s : State) : Res :=
  polderCmd p ring tag 0x45 [m32]
    (fun c t q =>
      let g := c.w 1
      let o := t.parcelOwner g
      [(o.isSome && o != some q, 7), (t.notLive q || t.parcelMapped q g || t.pol.zero.any (fun j => j.parcel == g && j.free), 1), (o.isNone, 6)])
    (fun c q t => ((t.markStarted c).zeroise q [c.w 1] true).upPol fun x => { x with waits := x.waits ++ [(q, c.order, false)] }) s

/-- SET_STREAMS (R471). -/
def execSetStreams (p ring tag : Nat) (s : State) : Res :=
  polderCmd p ring tag 0x46 [m32, m32]
    (fun c t q =>
      let b := c.w 1
      let n := c.w 2
      let out := t.streams.any fun e => e.2.st != .idle && e.2.polder == q && decide (e.1 < b ∨ b + n ≤ e.1)
      let hit (o : Nat) : Bool :=
        let b' := t.fget F.DIKE_STREAM_BASE_BASE o
        let n' := t.fget F.DIKE_STREAM_COUNT_COUNT o
        o != q && n != 0 && n' != 0 && decide (b < b' + n') && decide (b' < b + n)
      [(t.notLive q || (t.polState q == 2 && out), 1), (decide (262144 < b + n) || decide (262144 ≤ b) || (List.range 16).any hit, 6)])
    (fun c q t => ((t.fset F.DIKE_STREAM_BASE_BASE q (c.w 1)).fset F.DIKE_STREAM_COUNT_COUNT q (c.w 2)).complete c 0) s

/-- The windows of every polder, present and scheduled, other than one. -/
def State.otherWindows (s : State) (q w : Nat) : List Nat :=
  let now := (List.range 16).flatMap fun p => (List.range 4).filterMap fun v => if p = q ∧ v = w then none else some (s.rd T.dike p (0x70 + 4 * v))
  now ++ s.sch.fx.filterMap fun e => match e.2 with
    | .pwin p _ v word => if p = q ∧ v = w then none else some word
    | _ => none

/-- SET_PWIN (R478, R481): the new window, or with LAST below FIRST its withdrawal, takes effect with the next turn commit. -/
def execSetPwin (p ring tag : Nat) (s : State) : Res :=
  polderCmd p ring tag 0x47 [0xFF13]
    (fun c t q =>
      let a := c.w 1
      let word := 2 ^ 31 + bitField a 4 1 * 256 + bitField a 8 4 * 16 + bitField a 12 4
      let held := (t.otherWindows q (a % 4)).flatMap pwinUnits
      [(t.notLive q, 1), ((pwinUnits word).any held.contains, 4)])
    (fun c q t =>
      let a := c.w 1
      let word := 2 ^ 31 + bitField a 4 1 * 256 + bitField a 8 4 * 16 + bitField a 12 4
      let v := if bitField a 12 4 < bitField a 8 4 then 0 else word
      (t.schedule (t.turn + 1) (.pwin q (bitField a 4 1) (a % 4) v)).complete c 0) s

/-- KEY_ENROL (R484): a P-384 and an ML-DSA-87 public key, measured in MR6. -/
def execKeyEnrol (p ring tag : Nat) (keys : Option (List Byte)) (s : State) : Res :=
  polderCmd p ring tag 0x48 []
    (fun _ t q => [(t.notLive q, 1)] ++ (match keys with
      | some d => [(t.pol.keys.any fun e => e.1 == q && e.2 == d, 1), (d.length != 97 + 2592, 6)]
      | none => [(true, 0xA)]) ++ [(decide (4 ≤ (t.pol.keys.filter fun e => e.1 == q).length), 3)])
    (fun c q t =>
      let d := keys.getD []
      let t1 := (t.upPol fun x => { x with keys := x.keys ++ [(q, d)] }).finc F.DIKE_KEYS_ENROLLED q
      (t1.extendMr 6 q 0x48 (sha384 d)).complete c 0) s

/-- KEY_REMOVE (R484): by the KEY_ID, the first 32 bytes of the SHA-384 of the keys; kernels already loaded stay. -/
def execKeyRemove (p ring tag : Nat) (id : Option (List Byte)) (s : State) : Res :=
  let isKey (q : Nat) (e : Nat × List Byte) : Bool := e.1 == q && some ((sha384 e.2).take 32) == id
  polderCmd p ring tag 0x49 []
    (fun _ t q => [(t.notLive q, 1), (id.isNone, 0xA), (!(t.pol.keys.any (isKey q)), 1)])
    (fun c q t =>
      let t1 := (t.upPol fun x => { x with keys := x.keys.filter fun e => !isKey q e }).fset F.DIKE_KEYS_ENROLLED q (t.fget F.DIKE_KEYS_ENROLLED q - 1)
      (t1.extendMr 6 q 0x49 (sha384 (id.getD []))).complete c 0) s

/-! ## MAP and UNMAP (R475) -/

/-- The parcels mapped in a stack by a polder. -/
def State.mappedIn (s : State) (p stack : Nat) : Nat :=
  ((s.pol.pages.filterMap fun e => if e.1 / 32768 = p then e.2.map (·.1) else none).eraseDups.filter fun g => g / 9728 == stack).length

/-- Counts MAPPED again. -/
def State.countMapped (s : State) (p : Nat) : State :=
  (s.fset F.DIKE_REGION0_MAPPED p (s.mappedIn p 0)).fset F.DIKE_REGION1_MAPPED p (s.mappedIn p 1)

/-- Is a parcel on its way back to the free ones (R477)? Marks: DEDUCED unsafe (log entry 263). -/
def State.revoking (s : State) (g : Nat) : Bool := s.pol.zero.any fun j => j.parcel == g && j.free

/-- MAP (R475): only a parcel that the caller owns and that is not being revoked, at a page not mapped. Marks: DEDUCED unsafe (log entry 263). -/
def execMap (p ring tag : Nat) (s : State) : Res :=
  runCmd p ring tag 0x32 (fun c t =>
    let n := c.w 0
    let g := c.w 1 % 32768
    checked c (t.preChecks c (zeroBad c false [0x7FFF, 0x80007FFF]) ++ [(t.parcelOwner g != some p || t.revoking g, 7), ((t.page p n).isSome, 1)])
      (fun u => ((u.upPol fun x => { x with pages := Tab.set (fun _ => none) x.pages (32768 * p + n) (some (g, bitAt (c.w 1) 31)) }).countMapped p).complete c 0) t) s

/-- UNMAP (R475): accesses translated under the entry have finished, as every one is a step of its own. -/
def execUnmap (p ring tag : Nat) (s : State) : Res :=
  runCmd p ring tag 0x33 (fun c t =>
    let n := c.w 0
    checked c (t.preChecks c (zeroBad c false [0x7FFF]) ++ [((t.page p n).isNone, 1)])
      (fun u => ((u.upPol fun x => { x with pages := Tab.set (fun _ => none) x.pages (32768 * p + n) none }).countMapped p).complete c 0) t) s

/-! ## Data commands (R475 to R477, R516) -/

/-- DMA_WRITE (R475, R516): host data to a polder address; a failed read of the host's memory ends it FAULTED (R489). Where the data is not all of
what is left of it, the whole lines are written and the command goes on with the row's next run, which an abort or a reset may come before (R519,
R522). Marks: DESIGN CHOICE safe (log entry 397). -/
def execDmaWrite (p ring tag : Nat) (data : Option (List Byte)) (badTable : Option Nat) (s : State) : Res :=
  match s.findCmd p ring tag with
  | none => .next s
  | some c =>
    if c.opcode ≠ 0x30 ∨ ¬ (c.started || s.ready c (objName c.handle)) then .next s
    else
      let pre := if c.started then [] else s.preChecks c (zeroBad c false [m32, m32]) ++ [(decide (c.len = 0 ∨ 67108864 < c.len), 6)]
      let done := if c.started then c.progress else 0
      let pa := c.pair 0 + done
      let rest := c.len - done
      match data with
      | none => .next (checked c pre (fun u => u.complete c 0xA 0 0 done) s)
      | some d => .next (checked c pre (fun u =>
          let part := decide (d.length < rest)
          let r := u.paWrite p 1 (pagesOf c.len) pa (d.take (if part then wholeLines pa d.length else rest)) badTable 0
          if part ∧ r.status = 0 then
            r.s.setCmds (r.s.vk.cmds.map fun x => if x.order = c.order then { x with started := true, progress := done + r.done } else x)
          else r.s.complete c r.status 0 0 (done + r.done) r.kind) s)

/-- DMA_READ (R437, R475, R516): the bytes read before a fault are written to the host. -/
def execDmaRead (p ring tag : Nat) (badTable : Option Nat) (s : State) : Res :=
  runCmd p ring tag 0x31 (fun c t =>
    checked c (t.preChecks c (zeroBad c false [m32, m32]) ++ [(decide (c.len = 0 ∨ 67108864 < c.len), 6)])
      (fun u =>
        let r := u.paRead p 1 (pagesOf c.len) (c.pair 0) c.len badTable []
        (r.s.emit (.dmaWrite p c.addr r.data)).complete c r.status 0 0 r.done r.kind) t) s

end Sys2Proof.Machine
end

