-- ==== Sys2Proof/Machine/Power.lean ====
section
/-!
DEFINITION. The power controller (R569 to R573, R583), the pins of the standby domain, and the device reset (R549, R550).
-/

namespace Sys2Proof.Machine

/-- Changes the power controller. -/
def State.upPower (s : State) (f : PowerSt → PowerSt) : State := { s with power := f s.power }

/-- STATE of a domain after a device reset (R583): spare and absent mills and the SerDes slices are OFF, everything else is ON. -/
def domReset (z : Fuse) (d : Nat) : Nat :=
  if d < 80 then (if d < z.mills ∧ d % 5 ≠ 4 then 3 else 0) else if 160 ≤ d ∧ d < 176 then 0 else 3

/-- STATE of a domain: 0 OFF, 1 RAMP, 3 ON, 4 ISOLATE, 5 SAVE, 6 CUT. -/
def State.dom (s : State) (d : Nat) : Nat := Tab.get (domReset s.fuse) s.power.dom d

/-- STATE of a domain as POWER_DOM_STAT shows it (R583): one on its way up whose registers are restored may be in RESTORE, 2, from a moment that the
spec does not give. Marks: DESIGN CHOICE safe (log entry 396). -/
def State.domStat (s : State) (d : Nat) : Nat :=
  if s.dom d = 1 ∧ 80 ≤ d ∧ d < 176 then 1 + (Config.freeValue s.fresh).toNat % 2 else s.dom d

/-- Sets STATE of a domain. -/
def State.setDom (s : State) (d v : Nat) : State := s.upPower fun x => { x with dom := Tab.set (domReset s.fuse) x.dom d v }

/-- FIXED of a domain (R583): an absent mill, or core 0. -/
def State.domFixed (s : State) (d : Nat) : Bool := decide (d < 80 ∧ s.fuse.mills ≤ d) || d == 176

/-- Is a SerDes and MAC slice wanted (R569)? -/
def State.sliceWanted (s : State) (n : Nat) : Bool :=
  s.fbit F.SERDES_CTRL_EN n || s.fbit F.MAC_CTRL_TX_EN n || s.fbit F.MAC_CTRL_RX_EN n || (n % 2 == 1 && s.fget F.MAC_CTRL_PMODE (n - 1) == 3)

/-- Are the locks of a domain stopped (R72, R570): that of an HBM slice, and those of the HBM slices at a row's router? -/
def State.locksStopped (s : State) (d : Nat) : Bool :=
  if 128 ≤ d ∧ d < 160 then (s.lock ((d - 128) / 16) ((d - 128) % 16)).st == .stopped
  else if 80 ≤ d ∧ d < 96 then
    let r := d - 80
    (s.lock (r / 8) (2 * (r % 8))).st == .stopped && (s.lock (r / 8) (2 * (r % 8) + 1)).st == .stopped
  else true

/-- May a domain go down (R569, R570, R573): every one but the fixed ones at deep standby, once its locks have stopped; otherwise a mill
by its role, but for a spare that a take-over has called, a SerDes slice that is not wanted, a core? -/
def State.mayCut (s : State) (d : Nat) : Bool :=
  if 184 ≤ d ∨ s.domFixed d ∨ ¬ s.locksStopped d then false
  else if 128 ≤ d ∧ d < 160 then s.power.standby
  else s.power.standby || (if d < 80 then (s.role d == 2 && !s.ras.claims.any fun c => c.spare == d) || s.role d == 5 else if d < 160 then false else if d < 176 then !s.sliceWanted (d - 160) else true)

/-- May a domain be woken (R569): a mill in role 0x1 or 0x3, or the spare of a row in take-over; a SerDes slice that is wanted; a core? -/
def State.mayWake (s : State) (d : Nat) : Bool :=
  if s.power.standby then false
  else if d < 80 then s.member d || (s.role d == 2 && s.sch.takeover.contains (rowOf d))
  else if 160 ≤ d ∧ d < 176 then s.sliceWanted (d - 160)
  else decide (d < 184)

/-- DOMAIN_SHUTDOWN (R570, R571): the next of ISOLATE, SAVE and CUT begins; a request during power-up waits until the domain is ON. -/
def execDomainShutdown (dom : Nat) (s : State) : Res :=
  if 184 ≤ dom ∨ ¬ s.mayCut dom then .next s
  else match s.dom dom with
    | 3 => .next (s.setDom dom 4)
    | 4 => .next (s.setDom dom 5)
    | 5 => .next (s.setDom dom 6)
    | 1 => .next (s.upPower fun x => { x with later := if x.later.contains dom then x.later else x.later ++ [dom] })
    | _ => .next s

/-- DOMAIN_OFF (R570, R571): the switches are open; with a queued wake power-up begins at once. -/
def execDomainOff (dom : Nat) (s : State) : Res :=
  if 184 ≤ dom ∨ s.dom dom ≠ 6 then .next s
  else if s.power.queued.contains dom then .next ((s.setDom dom 1).upPower fun x => { x with queued := x.queued.filter fun d => d != dom })
  else .next (s.setDom dom 0)

/-- A wake reaches the power controller (R571). Marks: DEDUCED safe (log entry 206). -/
def State.wakeDom (s : State) (dom : Nat) : State :=
  match s.dom dom with
  | 0 => s.setDom dom 1
  | 1 => if s.power.later.contains dom then (s.upPower fun x => { x with later := x.later.filter fun d => d != dom }).finc F.POWER_RACE_CANCELLED 0 else s
  | 4 => (s.setDom dom 3).finc F.POWER_RACE_CANCELLED 0
  | 5 => (s.setDom dom 3).finc F.POWER_RACE_CANCELLED 0
  | 6 =>
    if s.power.queued.contains dom then s
    else ((s.upPower fun x => { x with queued := x.queued ++ [dom] }).finc F.POWER_RACE_QUEUED 0).raise T.power 0 I.POWER_WAKE_QUEUED
  | _ => s

/-- DOMAIN_WAKE (R571). -/
def execDomainWake (dom : Nat) (s : State) : Res := .next (if 184 ≤ dom ∨ ¬ s.mayWake dom then s else s.wakeDom dom)

/-- The bits of a register that the retention store keeps (R570): its RW and RWL fields, and LOCK, which holds until the block is reset. -/
def savedMask (t inst off : Nat) : Nat :=
  (fieldsAt t inst off).foldl (fun m f => if f.acc = .rw ∨ f.acc = .rwl ∨ f = F.BLK_CTRL_LOCK then m ||| ((2 ^ f.w - 1) * 2 ^ f.lo) else m) 0

/-- A page comes back from power-down: saved fields as they were, everything else at its reset value. -/
def State.restorePage (s : State) (t inst : Nat) : State :=
  let base := regAddr t inst 0
  let mine := s.regs.filter fun e => decide (base ≤ e.1 ∧ e.1 < base + 4096)
  mine.foldl
    (fun u e =>
      let m := savedMask t inst (e.1 - base)
      let r := (regReset s.fuse e.1).toNat
      u.wr t inst (e.1 - base) ((e.2.toNat &&& m) ||| (r &&& (m ^^^ 0xFFFFFFFF)))) (s.resetPage t inst)

/-- The RW and RWL bits of a register of the MILL page, which a role's shadow keeps (R23). -/
def shadowMask (off : Nat) : Nat :=
  (fieldsAt T.mill 0 off).foldl (fun m f => if f.acc = .rw ∨ f.acc = .rwl then m ||| ((2 ^ f.w - 1) * 2 ^ f.lo) else m) 0

/-- What the shadow of a role holds before anything is written: the reset values. Its key is 4096 × role + offset. -/
def shadowReset (z : Fuse) (k : Nat) : Word := BitVec.ofNat 32 ((regReset z (regAddr T.mill 0 (k % 4096))).toNat &&& shadowMask (k % 4096))

/-- An accepted write to a register of a member's MILL page updates the shadow of the role that the mill holds (R23). The
advance of BOLT_COEF_SEL by an access to BOLT_COEF_DATA is no write and does not. Marks: DEDUCED unsafe (log entry 365). -/
def State.keepShadow (s : State) (m off : Nat) : State :=
  match s.member m, s.roleOfMill m with
  | true, some q =>
    { s with shadow := Tab.set (shadowReset s.fuse) s.shadow (4096 * q + off) (BitVec.ofNat 32 (s.rd T.mill m off &&& shadowMask off)) }
  | _, _ => s

/-- The shadow of a role is loaded into a mill's page (R23). -/
def State.loadShadow (s : State) (q m : Nat) : State :=
  (((List.range 1024).map (4 * ·)).filter fun o => shadowMask o != 0).foldl
    (fun t o => t.wr T.mill m o
      ((t.rd T.mill m o &&& (shadowMask o ^^^ 0xFFFFFFFF)) ||| (Tab.get (shadowReset s.fuse) s.shadow (4096 * q + o)).toNat)) s

/-- What a mill that comes up holds (R570): memories zeroed and registers at their reset values, but for its role, which is not switched; no
sample of its pace has been taken (R54). -/
def State.freshMill (s : State) (m : Nat) : State :=
  let w := s.rd T.mill m 0x48
  let s1 : State := { s.forgetPace m with stones := Tab.clearRange s.stones (16 * m) (16 * m + 16) }
  ((s1.setMill m {}).resetPage T.mill m).wr T.mill m 0x48 w

/-- What a domain comes up with (R570). -/
def State.domUp (s : State) (d : Nat) : State :=
  if d < 80 then s.freshMill d
  else if d < 96 then s.restorePage T.row (d - 80)
  else if d < 128 then (s.pondZero ((d - 96) * 2 ^ 21) (2 ^ 21)).restorePage T.pond (d - 96)
  else if d < 160 then s.restorePage T.hbmc (d - 128)
  else if d < 176 then
    let n := d - 160
    ((s.restorePage T.serdes n).restorePage T.mac n).upPort n fun x => { x with tx := none, pfcNow := false, retry := none, pfc := none, pause := [] }
  else s

/-- DOMAIN_ON (R570): power-up, with the restoring it ends with, is complete; a shutdown request that waited begins. -/
def execDomainOn (dom : Nat) (s : State) : Res :=
  if 184 ≤ dom ∨ s.dom dom ≠ 1 then .next s
  else
    let s1 := (s.domUp dom).setDom dom 3
    if s1.power.later.contains dom then
      let s2 := s1.upPower fun x => { x with later := x.later.filter fun d => d != dom }
      .next (if s2.mayCut dom then s2.setDom dom 4 else s2)
    else .next s1

/-- DOM_FAULT (R570): for a mill a hardware fault, which MILL_FAULT then takes up; any other domain is reported to the RAS block. -/
def execDomFault (dom : Nat) (s : State) : Res :=
  if 184 ≤ dom ∨ s.dom dom ≠ 1 then .next s
  else .next ((s.raise T.power 0 I.POWER_DOM_FAULT).emit (if dom < 80 then .fault T.mill dom else .fault T.power dom))

/-- A record of the Ledger fault log (R457, R551, R555, R592, R598), whose layout the spec does not give: kind, block type, instance, then turn and
detail. Marks: DESIGN CHOICE safe (log entry 212). -/
def State.faultRecord (s : State) (kind typ inst detail : Nat) : State :=
  s.ledgerAsk ⟨4, 0, leBytes 1 kind ++ leBytes 1 typ ++ leBytes 2 inst ++ leBytes 8 s.turn ++ leBytes 8 detail, .none⟩

/-! ## PWRFAIL_N, WAKE_N, THERMTRIP_N, the supplies (R456, R572, R614, R615, R625) -/

/-- The Ledger completes the record in progress, refuses every queued one and reads PWRFAIL (R456). -/
def State.ledgerClose (s : State) : State :=
  let s1 := s.ledgerCommit
  let l := s1.led.reqs
  let s2 := (s1.upLed fun x => { x with reqs := [] }).fset F.LEDGER_STAT_STATE 0 2
  l.foldl State.ledgerRefuse s2

/-- PWRFAIL_FALL (R456, R572): STATE reads PWRFAIL whatever it was, with recovery to come or failed too. Marks: DEDUCED unsafe (log entry 388). -/
def execPwrfailFall (s : State) : Res :=
  let s1 := (s.fset F.POWER_STAT_PWRFAIL_N 0 0).fset F.POWER_STAT_PWRFAIL 0 1
  let s2 := (s1.fset F.POWER_STBY_CAUSE_PWRFAIL 0 1).raise T.power 0 I.POWER_PWRFAIL
  .next (if s.fget F.LEDGER_STAT_STATE 0 = 2 then s2 else s2.ledgerClose.raise T.ledger 0 I.LEDGER_PWRFAIL)

/-- PWRFAIL_GLITCH (R572): PWRFAIL_N is high again with the rails in range; the Ledger keeps refusing. -/
def execPwrfailGlitch (s : State) : Res :=
  if s.fbit F.POWER_STAT_PWRFAIL_N 0 then .next s
  else
    let s1 := s.fset F.POWER_STAT_PWRFAIL_N 0 1
    .next (if s.fbit F.POWER_STAT_PWRFAIL 0 then s1.raise T.power 0 I.POWER_PWRFAIL_GLITCH else s1)

/-- WAKE (R573). Marks: DEDUCED unsafe (log entry 208). -/
def execWake (s : State) : Res := .next (s.fset F.POWER_STBY_CAUSE_WAKE 0 1)

/-- THERMTRIP (R625): the pin goes low and stays low. -/
def execThermtrip (s : State) : Res :=
  .next (if s.power.trip then s else (s.upPower fun x => { x with trip := true }).emit .thermtrip)

/-- The device reset (R549, R550, R75, R395): every block, the fabric of both dies, the measurement registers, polders, keys and objects start
again; HBM and SRAM contents are lost, and a lost core die stays lost. The Ledger's slots, the fuses, POWER_STBY_CAUSE, the level of the pins and the TAP stay, and
boot starts when reset ends. Marks: DEDUCED unsafe (log entry 244). -/
def State.deviceReset (s : State) (cause : Nat) : State :=
  let z : State := { State.reset with
    fuse := s.fuse, led := { slots := s.led.slots }, mem := { lostDies := s.mem.lostDies }, pol := { draws := s.pol.draws },
    power := { trip := s.power.trip, standby := s.power.standby },
    trust := { perst := s.trust.perst, tap := s.trust.tap, watchdog := s.trust.watchdog || cause == 5 },
    out := ((s.fabricReset 0).fabricReset 1).out, fresh := s.fresh, pending := s.pending }
  let z1 := z.wr T.power 0 0x54 (s.rd T.power 0 0x54)
  (z1.fset F.POWER_STAT_PWRFAIL_N 0 (s.fget F.POWER_STAT_PWRFAIL_N 0)).fset F.POWER_STAT_RST_CAUSE 0 cause

/-- SUPPLY_COLLAPSE (R549, R455, R615): a record in progress keeps the words written so far and is not current unless committed, the queued
ones are lost, and everything that is not in the standby domain, the fuses or the Ledger's slots is gone. Marks: DESIGN CHOICE unsafe (log entry 216). -/
def execSupplyCollapse (s : State) : Res := .next (s.deviceReset (s.fget F.POWER_STAT_RST_CAUSE 0))

/-- POWER_ON_RESET (R549, R550): the standby domain, then a device reset. Marks: PRESUMED unsafe (log entry 209). -/
def execPowerOnReset (s : State) : Res :=
  let s1 := ((s.wr T.power 0 0x54 0).fset F.POWER_STAT_PWRFAIL_N 0 1).upPower fun x => { x with trip := false, standby := false }
  .next (s1.deviceReset 1)

/-- SYS_RST_N_ASSERT (R549, R573, R618, R625): a device reset, with cause STANDBY_EXIT from deep standby. -/
def execSysRstNAssert (s : State) : Res :=
  .next ((s.upPower fun x => { x with trip := false, standby := false }).deviceReset (if s.power.standby then 6 else 2))

/-- WATCHDOG_EXPIRE (R551). -/
def execWatchdogExpire (s : State) : Res :=
  .next (if s.power.standby ∨ s.trust.boot = .held then s else s.deviceReset 5)

end Sys2Proof.Machine
end

