-- ==== Sys2Proof/Machine/Pcie.lean ====
section
/-!
DEFINITION. The PCIe endpoint (R489, R522 to R525, R552): function-level and host resets, configuration requests, the link and completion
timeouts.
-/

namespace Sys2Proof.Machine

/-- The management MAC's rings are at their reset values (R523, R549). -/
def State.mgRingsReset (s : State) : State :=
  let a := regAddr T.mgmac 0 0
  let s1 : State := { s with regs := Tab.clearRange (Tab.clearRange s.regs (a + 0x50) (a + 0x64)) (a + 0x70) (a + 0x84), mg := {} }
  s1.fset F.MG_STAT_TX_BUSY 0 0

/-- A DMA_WRITE cut at a line boundary (R449, R522): the whole lines that have arrived are written, and its burst is torn. -/
def State.cutDma (s : State) (p : Nat) (k : DmaCut) : State :=
  match s.findCmd p k.ring k.tag with
  | none => s
  | some c =>
    let done := if c.started then c.progress else 0
    if c.opcode ≠ 0x30 ∨ c.len ≤ done + k.data.length then s
    else
      let pa := c.pair 0 + done
      let n := wholeLines pa k.data.length
      let r := s.paWrite p 1 (pagesOf c.len) pa (k.data.take n) none 0
      let w := r.s.walk p (pa + n) true false
      if r.status ≠ 0 ∨ w.1 ≠ 0 then r.s else r.s.hbmTorn (sliceOf w.2) (w.2 / 64 % 2 ^ 29) 4

/-- Step 2 of R522 for a function: commands that have not started, SNAPSHOTs and DMA_WRITEs in transfer end; the others run to their end with no
completion. Marks: DEDUCED unsafe (log entry 332). -/
def State.flrStop (s : State) (f : Nat) (cut : List DmaCut) : State :=
  let s1 := (cut.foldl (fun t k => t.cutDma f k) s).rewindTake f fun _ => true
  let gone (c : VCmd) : Bool := c.polder == f && (!c.started || c.opcode == 0x28 || c.opcode == 0x30)
  let s2 := (s1.vk.cmds.filter gone).foldl (fun t c => t.qRemove (qPriv f 0) fun i => i.tag == cmdTag c && i.done && !i.gap) s1
  s2.setCmds ((s2.vk.cmds.filter fun c => !gone c).map fun c => if c.polder = f then { c with silent := true } else c)

/-- A function-level reset of one function begins. -/
def State.flrBegin (s : State) (f : Nat) (cut : List DmaCut) : State :=
  (s.flrStop f cut).fset F.PCIE_FLR_IN_FLR 0 (setBitN (s.fget F.PCIE_FLR_IN_FLR 0) f)

/-- Every VF passes through R522 at the same time. Marks: DEDUCED unsafe (log entry 330). -/
def State.flrVfs (s : State) : State := ((List.range 15).map (· + 1)).foldl (fun t f => if t.inFlr f then t else t.flrBegin f []) s

/-- FLR_INITIATE (R522, R523): Initiate FLR is written; a reset of the PF clears VF Enable. -/
def execFlrInitiate (fn : Nat) (cut : List DmaCut) (s : State) : Res :=
  if 16 ≤ fn ∨ s.inFlr fn then .next s
  else
    let s1 := s.flrBegin fn cut
    let s2 : State := { s1 with pcie := { d3 := s1.pcie.d3.filter (· != fn), timeout := Tab.erase s1.pcie.timeout fn } }
    if fn = 0 then .next (((s2.fset F.PCIE_STAT_VF_EN 0 0).fset F.PCIE_STAT_NUMVFS 0 0).flrVfs) else .next s2

/-- The registers and rings of VORAK f are at their reset values. Marks: PRESUMED unsafe (log entry 331). -/
def State.vorakReset (s : State) (f : Nat) : State :=
  let s1 := s.resetPage T.vorak f
  { s1 with vk := { s1.vk with rings := Tab.clearRange s1.vk.rings (32 * f) (32 * f + 32) } }

/-- FLR_DONE (step 4 of R522). -/
def execFlrDone (fn : Nat) (s : State) : Res :=
  if 16 ≤ fn ∨ ¬ s.inFlr fn then .next s
  else
    let s1 := s.vorakReset fn
    let s2 := if fn = 0 then s1.mgRingsReset else s1
    .next ((s2.fset F.PCIE_FLR_IN_FLR 0 (clrBitN (s2.fget F.PCIE_FLR_IN_FLR 0) fn)).raise T.pcie 0 I.PCIE_FLR_DONE)

/-- The host reset (R549, R550, R552). Marks: PRESUMED unsafe (log entry 331). -/
def State.hostReset (s : State) : State :=
  let s1 := (List.range 16).foldl (fun t f => t.flrStop f []) s
  let s2 := ((List.range 16).foldl State.vorakReset s1).resetPage T.pcie 0
  { s2.mgRingsReset with pcie := {} }

/-- PERST_N_ASSERT (R549): a device reset with PERST_FULL, else a host reset. -/
def execPerstNAssert (s : State) : Res :=
  let s1 : State := { s with trust := { s.trust with perst := true } }
  if s.power.standby ∨ s.trust.boot = .held then .next s1
  else if s.fbit F.POWER_CTRL_PERST_FULL 0 then .next (s1.deviceReset 3) else .next s1.hostReset

/-- PERST_N_RELEASE (R552): link training begins; PCIE_LINK_UP reports its end. -/
def execPerstNRelease (s : State) : Res := .next { s with trust := { s.trust with perst := false } }

/-- PCIE_LINK_UP (R525, R552, R553): training needs PERST_N released and step 4 of the boot. -/
def execPcieLinkUp (speed width : Nat) (s : State) : Res :=
  if s.trust.perst ∨ s.power.standby ∨ s.trust.boot = .held ∨ ¬ s.led.recovered ∨ speed = 0 ∨ 5 < speed ∨ !([1, 2, 4, 8, 16].contains width) then .next s
  else .next (((s.fset F.PCIE_STAT_LINK 0 1).fset F.PCIE_STAT_SPEED 0 speed).fset F.PCIE_STAT_WIDTH 0 width)

/-- PCIE_LINK_DOWN (R525). -/
def execPcieLinkDown (s : State) : Res :=
  .next ((((s.fset F.PCIE_STAT_LINK 0 0).fset F.PCIE_STAT_SPEED 0 0).fset F.PCIE_STAT_WIDTH 0 0).raise T.pcie 0 I.PCIE_LINK_DOWN)

/-- COMPLETION_TIMEOUT (R489, R525): counted and raised; a completion that comes after it is only counted. -/
def execCompletionTimeout (late : Bool) (s : State) : Res :=
  let s1 := s.finc F.PCIE_ERRCNT_CTO 0
  .next (if late then s1 else s1.raise T.pcie 0 I.PCIE_CTO)

/-- An Unsupported Request answer, counted in UR (R525). -/
def State.unsupportedReq (s : State) (fn addr : Nat) : State := (s.finc F.PCIE_ERRCNT_UR 0).emit (.unsupported fn addr)

/-- Does a configuration request reach a function: the PF, or a VF that VF Enable and NumVFs give? -/
def State.fnPresent (s : State) (fn : Nat) : Bool := fn == 0 || (s.fbit F.PCIE_STAT_VF_EN 0 && decide (fn ≤ s.fget F.PCIE_STAT_NUMVFS 0))

/-- CONFIGURATION_REQUEST (R489, R553, R559): Retry Status during boot; in RECOVERY the PF's space answers; otherwise the request takes effect.
Clearing VF Enable takes every VF through R522. -/
def execConfigurationRequest (fn : Nat) (req : CfgReq) (s : State) : Res :=
  if s.trust.perst ∨ s.trust.boot = .held ∨ s.power.standby ∨ 16 ≤ fn then .next s
  else if s.fget F.TRUST_STAT_STATE 0 ≠ 3 ∧ (s.trust.boot = .rom ∨ s.trust.boot = .firmware) then .next (s.emit (.cfgRetry fn))
  else if ¬ s.fnPresent fn then .next (s.unsupportedReq fn 0)
  else
    let s1 : State := match req with
      | .other => s
      | .timeoutRange c => { s with pcie := { s.pcie with timeout := Tab.set (fun _ => 0) s.pcie.timeout fn c } }
      | .powerState d3 => { s with pcie := { s.pcie with d3 := (s.pcie.d3.filter (· != fn)) ++ (if d3 then [fn] else []) } }
      | .vfEnable on n =>
        if fn ≠ 0 then s
        else
          let was := s.fbit F.PCIE_STAT_VF_EN 0
          let t := if was ∨ 15 < n then s else s.fset F.PCIE_STAT_NUMVFS 0 n
          let u := t.fset F.PCIE_STAT_VF_EN 0 (b2n on)
          if was && !on then u.flrVfs else u
    .next (s1.emit (.cfgDone fn))

end Sys2Proof.Machine
end

