-- ==== Sys2Proof/Machine/Boot.lean ====
section
/-!
DEFINITION. From device reset to carrying traffic (R553 to R560): the boot ROM, firmware images, HBM and mills, and the end of boot.
-/

namespace Sys2Proof.Machine

/-- Changes the boot and trust part of the state. -/
def State.upTrust (s : State) (f : TrustSt → TrustSt) : State := { s with trust := f s.trust }

/-! ## Firmware images (R555 to R557) -/

/-- The length of an image: the signed part and both signatures (R556). -/
def fwLen (d : List Byte) : Nat := 0xBA0 + leAt d 0xC 4 + 4723

/-- The image digest: the SHA-384 of the signed part (R556). -/
def fwDigest (d : List Byte) : List Byte := sha384 (d.take (0xBA0 + leAt d 0xC 4))

/-- Does a public-key pair match a fused hash of an intact slot (R557, R567)? Marks: DEDUCED safe (log entry 213). -/
def State.keyFused (s : State) (slot : Nat) (ec ml : List Byte) : Bool :=
  sha384 (ec ++ ml) == (List.range 48).map (Config.fusedKey slot) && !s.fuse.revoked.contains slot

/-- The checks of R557 in order: 0 passes, 2 format, 3 key slot or signature, 4 SVN (the codes of RESULT, R582). Marks: DEDUCED safe (log entry 213). -/
def State.fwCheck (s : State) (d : List Byte) : Nat :=
  let body := leAt d 0xC 4
  let l := (d.take (fwLen d)).map (·.toNat)
  if leAt d 0 4 ≠ 0x4D424657 ∨ leAt d 4 2 ≠ 1 ∨ 3 < leAt d 6 1 ∨ leAt d 7 1 ≠ 0 ∨ 65535 < leAt d 8 4 ∨ body % 64 ≠ 0 ∨ body < 64 ∨ 1958336 < body
      ∨ ¬ zeroAt d 0x1C 228 ∨ ¬ zeroAt d 0x161 31 ∨ d.length < fwLen d then 2
  else if ¬ s.keyFused (leAt d 6 1) (sub d 0x100 97) (sub d 0x180 2592) ∨ ¬ Config.verify (12 :: l) ∨ ¬ Config.verify (13 :: l) then 3
  else if leAt d 8 4 < s.effMin then 4
  else 0

/-- The image in a Ledger firmware slot: the payloads of its records in INDEX order (R555); a record that is missing reads as zeros. -/
def State.slotImage (s : State) (f : Nat) : List Byte :=
  (List.range 8192).flatMap fun i => (s.ledgerPayload 2 (8192 * f + i)).getD (List.replicate 240 0)

/-- A record is written and committed by the Millhouse at once (R453), after the one in progress: one of a firmware slot, or key 0 in RECOVERY. A firmware slot has
one Ledger slot for each of its records (R457). Marks: DEDUCED unsafe (log entry 387). -/
def State.ledgerNow (s : State) (r : LReq) : State :=
  let s1 := s.ledgerCommit
  match s1.ledgerSlot r.typ r.index with
  | none => s1
  | some slot => (s1.ledgerFill slot r).ledgerCommit

/-- An image is written into a Ledger firmware slot (R555, R561): 240 bytes to each record. -/
def State.writeFwSlot (s : State) (f : Nat) (d : List Byte) : State :=
  (List.range (ceilDiv d.length 240)).foldl (fun t i => t.ledgerNow ⟨2, 8192 * f + i, sub d (240 * i) 240, .none⟩) s

/-- A firmware image starts (R553 step 5, R562, R582). Marks: DEDUCED unsafe (log entry 219). -/
def State.startFirmware (s : State) (src : Nat) (d : List Byte) : State :=
  let dig := fwDigest d
  let slot := leAt d 6 1
  let svn := leAt d 8 4
  let s1 := (s.extendMr 1 0 1 dig).extendMr 2 0 2 (sha384 (leBytes 2 svn ++ leBytes 1 slot ++ leBytes 1 src ++ leBytes 2 s.effMin))
  let s2 := (((s1.fset F.TRUST_STAT_STATE 0 1).fset F.TRUST_STAT_SRC 0 src).fset F.TRUST_STAT_KEYSLOT 0 slot).fset F.TRUST_SVN_SVN 0 svn
  let s3 := ((s2.fset F.TRUST_SVN_MIN 0 s.effMin).fset F.TRUST_FWVER_LO_VERSION 0 (leAt d 0x10 4)).fset F.TRUST_FWVER_HI_VERSION 0 (leAt d 0x14 4)
  let s4 := if s3.trust.watchdog then s3.faultRecord 0x41 T.power 0 5 else s3
  s4.upTrust fun t => { t with boot := .firmware, digest := dig, watchdog := false }

/-- The sources in order (R555): each one that fails raises BOOT_FALLBACK and is recorded; where every one fails the device is in RECOVERY. Marks: DEDUCED unsafe (log entry 219). -/
def State.tryBoot (s : State) : List (Nat × Option (List Byte)) → State
  | [] => (s.fset F.TRUST_STAT_STATE 0 3).raise T.trust 0 I.TRUST_RECOVERY
  | (src, img) :: l =>
    let v := match img with | some d => s.fwCheck d | none => 2
    if v = 0 then s.startFirmware src (img.getD [])
    else ((s.raise T.trust 0 I.TRUST_BOOT_FALLBACK).faultRecord 0x40 T.trust src v).tryBoot l

/-! ## The steps of boot (R553) -/

/-- What MR0 measures (R562): the ROM digest, the lifecycle fuses and the state of the key-hash and revocation fuses. Marks: DESIGN CHOICE safe (log entry 211). -/
def State.romValue (s : State) : List Byte := (List.range 48).map (Config.crypt (3 :: s.fuse.revoked))

/-- The classifiers' 256-bit hash key is drawn (R297). -/
def State.drawHashKey (s : State) : State :=
  let a := s.takeFree
  let b := a.2.takeFree
  let c := b.2.takeFree
  let d := c.2.takeFree
  d.2.upTrust fun t => { t with hashKey := a.1.toNat + 2 ^ 64 * b.1.toNat + 2 ^ 128 * c.1.toNat + 2 ^ 192 * d.1.toNat }

/-- SYS_RST_N_RELEASE (steps 1 and 2 of R553): reset has ended, and the boot ROM runs. From deep standby the release starts a device reset with
cause STANDBY_EXIT. A random source that fails its start-up test leaves STATE FAILED. Marks: DESIGN CHOICE safe (log entry 210). -/
def execSysRstNRelease (rngOk : Bool) (s : State) : Res :=
  let s0 := if s.power.standby then (s.upPower fun x => { x with standby := false }).deviceReset 6 else s
  if s0.trust.boot ≠ .held then .next s0
  else
    let s1 := (s0.upTrust fun t => { t with boot := .rom }).extendMr 0 0 0 s0.romValue
    .next (if rngOk then s1.drawHashKey.drawKey 0 else s1.fset F.TRUST_STAT_STATE 0 4)

/-- BOOT_FIRMWARE_START (step 5 of R553, R555): once the Ledger has been recovered or has failed; an unreadable Ledger holds no image. -/
def execBootFirmwareStart (xspi0 xspi1 : Option (List Byte)) (s : State) : Res :=
  let led := s.fget F.LEDGER_STAT_STATE 0
  if s.trust.boot ≠ .rom ∨ s.fget F.TRUST_STAT_STATE 0 ≠ 0 ∨ ¬ s.led.recovered then .next s
  else
    let a := s.bootActive % 2
    let slot (f : Nat) : Option (List Byte) := if led = 3 then none else some (s.slotImage f)
    .next (s.tryBoot [(a, slot a), (1 - a, slot (1 - a)), (2, xspi0), (3, xspi1)])

/-- A write of TRUST_RECOV_CTRL with GO (R559, R582): the ROM reads LEN bytes of host memory, checks them, writes them to Ledger slot
0, sets ACTIVE to 0 and boots. Marks: DEDUCED unsafe (log entry 215). -/
def State.recoveryGo (s : State) (fn data : Nat) (image : Option (List Byte)) : State :=
  if s.fget F.TRUST_STAT_STATE 0 ≠ 3 then (s.logErr T.trust 0 5 fn (regAddr T.trust 0 0x78) data)
  else
    let len := data % 2 ^ 21
    let s1 := s.fset F.TRUST_RECOV_CTRL_LEN 0 len
    let res (t : State) (v : Nat) := t.fset F.TRUST_RECOV_CTRL_RESULT 0 v
    match image with
    | none => (res s1 5)
    | some img =>
      let d := img.take len
      let v := if 1966080 < len then 2 else s1.fwCheck d
      if v ≠ 0 then (res s1 v)
      else
        let keep := s1.slotInfo 1
        let s2 := if s1.fget F.LEDGER_STAT_STATE 0 = 1 then
            (s1.writeFwSlot 0 (d.take (fwLen d))).ledgerNow ⟨1, 0, bootKey0 0 s1.minSvn [(leAt d 8 4, fwDigest d), keep], .none⟩
          else s1
        ((res s2 1).startFirmware 4 d)

/-! ## Mills and roles (R20, R28) -/

/-- Sets which mill holds a role in ROW_ROLES; while it is lost VALID is 0 and POS keeps the last position. Marks: DESIGN CHOICE unsafe (log entry 364). -/
def State.setHolder (s : State) (q : Nat) (m : Option Nat) : State :=
  let r := q / 4
  let k := q % 4
  let v := match m with | some n => 8 + n % 5 | none => bitField (s.rd T.row r 0xC08) (4 * k) 3
  s.wr T.row r 0xC08 (setField (s.rd T.row r 0xC08) (4 * k) 4 v)

/-- The spare of a row: its mill in role 0x2. -/
def State.spareOf (s : State) (r : Nat) : Option Nat := ((List.range 5).map (5 * r + ·)).find? fun m => s.role m == 2

/-- A mill of the retired-mill list at reset (R20): it is marked 0x5, and the spare, where there is one, takes its role. Marks: DESIGN CHOICE safe (log entry 212). -/
def State.retireAtBoot (s : State) (m : Nat) : State :=
  if s.fuse.mills ≤ m ∨ s.role m = 5 then s
  else if s.role m ≠ 1 then (s.fset F.MILL_ROLE_ROLE m 5).setDom m 0
  else
    let q := s.roleOfMill m
    let sp := s.spareOf (rowOf m)
    let s1 := ((s.fset F.MILL_ROLE_ROLE m 5).setDom m 0).dikeMill 0 m false
    let s2 := match q with | some k => s1.setHolder k sp | none => s1
    match sp with
    | some x => ((s2.fset F.MILL_ROLE_ROLE x 1).setDom x 3).dikeMill 0 x true
    | none => s2

/-- The entries of the retired-page list (R457), by the pages of the Ledger's current records of TYPE 0x03. -/
def State.ledgerRetired (s : State) : List Nat :=
  (s.led.current.filter fun e => e.1 / 2 ^ 24 == 3).flatMap fun e =>
    let d := s.slotBytes (e.2 - 1)
    ((List.range 56).map fun i => leAt d (4 * i) 4).filterMap fun w => if bitField w 23 8 ≠ 0 then none else some (w / 2 ^ 31 * 2 ^ 23 + w % 2 ^ 23)

/-- HBM_INIT_DONE (step 6 of R553, R20, R75, R448): retired pages and mills are applied, and the fabric reset of both dies is released. -/
def execHbmInitDone (s : State) : Res :=
  if s.trust.boot ≠ .firmware then .next s
  else
    let pages := s.ledgerRetired
    let map := (s.ledgerPayload 1 1).getD []
    let s1 := s.upMem fun m => { m with retired := pages }
    let s2 := pages.foldl (fun t k => t.finc F.HBMC_STAT_SPARES_USED (16 * (k / 2 ^ 23) + k % 16)) s1
    let s3 := ((List.range 80).filter fun m => bitAt (leAt map 0 10) m).foldl State.retireAtBoot s2
    .next (((s3.fabricRelease 0).fabricRelease 1).upTrust fun t => { t with boot := .memory })

/-- What MR3 measures (R562): the records of boot header keys 0 and 1, and the RWL fields as locked. Marks: DESIGN CHOICE safe (log entry 211). -/
def State.lockedValue (s : State) : List Byte :=
  sha384 ((s.ledgerPayload 1 0).getD [] ++ (s.ledgerPayload 1 1).getD []
    ++ (List.range 32).flatMap (fun i => leBytes 4 (s.fget F.HBMC_CTRL_EN i)) ++ (List.range 2).flatMap fun h => leBytes 4 (s.fget F.LOCK_WAKE_LIMIT_LIMIT h))

/-- BOOT_DONE (step 8 of R553, R554): the library is loaded and measured, the engines are enabled, HBMC 0 to 31 and HALF 0 and 1 are locked,
polder 0 is ACTIVE and STATE reads RUNNING. -/
def execBootDone (s : State) : Res :=
  if s.trust.boot ≠ .memory then .next s
  else
    let s1 := (List.range 32).foldl (fun t i => (t.fset F.HBMC_CTRL_EN i 1).hset F.BLK_CTRL_LOCK T.hbmc i 1) s
    let s2 := (List.range 2).foldl (fun t h => ((t.fset F.CLS_CTRL_EN h 1).fset F.STREAM_CTRL_EN h 1).hset F.BLK_CTRL_LOCK T.half h 1) s1
    let s3 := ((List.range s.fuse.mills).filter s2.member).foldl (fun t m => (t.setMill m (boltRoleStart (t.mill m))).keepImage m) (s2.fset F.PRESS_CTRL_EN 0 1)
    let s4 := ((s3.extendMr 4 0 4 libDigest).extendMr 3 0 3 s3.lockedValue).setPolState 0 2
    .next (((s4.fset F.TRUST_STAT_STATE 0 2).upTrust fun t => { t with boot := .done }).raise T.trust 0 I.TRUST_BOOT_DONE)

end Sys2Proof.Machine
end

