-- ==== Sys2Proof/Machine/Debug.lean ====
section
/-!
DEFINITION. Doorbell messages from outside a mill (R131, R482, R483), and the addresses of the MILL page.
-/

namespace Sys2Proof.Machine

/-- The address of a register of MILL m. -/
def millAddr (m off : Nat) : Nat := regAddr T.mill m off

/-- Is the number a mill of the part? -/
def State.isMill (s : State) (m : Nat) : Bool := decide (m < s.fuse.mills)

/-- DOORBELL_MESSAGE (R131, R482, R483): the bits reach the stone; while the role is held they wait at the row router, and with an old
epoch, or to a mill that no longer holds a role, the message is dropped, counted and NACKed. Marks: DEDUCED safe (log entry 398). -/
def execDoorbellMessage (sender mill stone bits epoch : Nat) (s : State) : Res :=
  if ¬ s.isMill mill ∨ 16 ≤ stone then .next s
  else
    match s.roleOfMill mill with
    | none => .next (s.staleMessage sender none)
    | some q =>
      if s.roleHeld q then .next (s.upPol fun x => { x with held := x.held ++ [⟨sender, q, epoch, stone, bits, none, none⟩] })
      else if epoch ≠ s.fget F.MILL_ROLE_EPOCH mill then .next (s.staleMessage sender none)
      else .next (s.doorbellBits (16 * mill + stone) bits)

end Sys2Proof.Machine
end

