-- ==== Sys2Proof/Machine/I2c.lean ====
section
/-!
DEFINITION. The I²C and PMBus masters (R574 to R577, R584) and the adaptive voltage that VANE 0 drives through I2CM 0 (R55 to R58).
-/

namespace Sys2Proof.Machine

/-- Changes a master. -/
def State.upI2c (s : State) (k : Nat) (f : I2cSt → I2cSt) : State :=
  { s with i2c := Tab.set (fun _ => ({} : I2cSt)) s.i2c k (f (s.i2cm k)) }

/-- The first n bytes of I2CM_TXBUF. -/
def State.txBytes (s : State) (k n : Nat) : List Byte := ((List.range 8).flatMap fun i => leBytes 4 (s.fget F.I2CM_TXBUF_DATA k i)).take n

/-- Puts bytes into I2CM_RXBUF from byte 0 (R584). -/
def State.setRxBytes (s : State) (k : Nat) (l : List Byte) : State :=
  (List.range 8).foldl
    (fun t i => let b := (l.drop (4 * i)).take 4
      if b = [] then t else t.fset F.I2CM_RXBUF_DATA k (ofLeBytes (b ++ (leBytes 4 (t.fget F.I2CM_RXBUF_DATA k i)).drop b.length)) i) s

/-- The written bytes with the PEC byte of an attempt that reads nothing (R575): the CRC-8 over the address byte and them. Marks: DEDUCED safe (log entry 200). -/
def withPec (pec : Bool) (addr : Nat) (l : List Byte) : List Byte :=
  if pec && !l.isEmpty then l ++ leBytes 1 (crc8 (leBytes 1 (2 * addr) ++ l)) else l

/-- round(mV ÷ 1,000 × 2^(−N)), ties up, with N of five signed bits (R577). -/
def voutWord (mv exp : Nat) : Nat :=
  if exp < 16 then (2 * mv + 1000 * 2 ^ exp) / (2000 * 2 ^ exp) else (2 * mv * 2 ^ (32 - exp) + 1000) / 2000

/-- PAGE before an adaptive-voltage command, where PAGE_EN is set (R577). Marks: DEDUCED safe (log entry 202). -/
def State.avsPage (s : State) : State :=
  if s.fbit F.I2CM_AVS_PAGE_EN 0 then
    let a := s.fget F.I2CM_AVS_ADDR 0
    s.emit (.i2cAttempt 0 2 a (withPec (s.fbit F.I2CM_CTRL_PEC 0) a (bytesOf [0, s.fget F.I2CM_AVS_PAGE 0])) 0)
  else s

/-- An attempt goes out on the bus (R575, R577): adaptive voltage, and everything on I2CM 0 while MODE is 1, at 1 MHz. -/
def State.i2cAttempt (s : State) (k : Nat) : State :=
  let pec := s.fbit F.I2CM_CTRL_PEC k
  let a := s.fget F.I2CM_AVS_ADDR 0
  match (s.i2cm k).cur with
  | none => s
  | some .host =>
    let w := s.fget F.I2CM_XFER_WLEN k
    let r := s.fget F.I2CM_XFER_RLEN k
    let ad := s.fget F.I2CM_XFER_ADDR k
    let speed := if k = 0 ∧ s.fbit F.VANE_AVS_CTRL_MODE 0 then 2 else s.fget F.I2CM_CTRL_SPEED k
    s.emit (.i2cAttempt k speed ad (withPec (pec && r == 0) ad (s.txBytes k w)) (if r = 0 then 0 else r + b2n pec))
  | some .voutMode => s.avsPage.emit (.i2cAttempt 0 2 a (bytesOf [0x20]) (1 + b2n pec))
  | some (.voutCommand mv) =>
    s.avsPage.emit (.i2cAttempt 0 2 a (withPec pec a (bytesOf [0x21] ++ leBytes 2 (voutWord mv (s.fget F.I2CM_AVS_VOUT_EXP 0)))) 0)

/-- VANE 0 leaves PACE mode (R58, R577). -/
def State.avsFault (s : State) : State :=
  (((s.fset F.VANE_AVS_CTRL_MODE 0 0).fset F.VANE_AVS_STAT_AVS_FAULT 0 1).raise T.vane 0 I.VANE_AVS_FAULT).upI2c 0 fun x => { x with avsWaits := none, ready := false }

/-- A host transaction ends (R575). -/
def State.i2cHostEnd (s : State) (k status tries : Nat) (rx : List Byte) : State :=
  let s1 := ((s.fset F.I2CM_RESULT_STATUS k status).fset F.I2CM_RESULT_TRIES k (min tries 15)).fset F.I2CM_RESULT_RCOUNT k rx.length
  let s2 := ((s1.setRxBytes k rx).fset F.I2CM_XFER_GO k 0).raise T.i2cm k I.I2CM_DONE
  if status = 1 then s2 else s2.raise T.i2cm k I.I2CM_ERR

/-- An adaptive-voltage transaction has failed: VANE 0 leaves PACE mode, unless it has been left already (R55, R58). -/
def State.avsFailed (s : State) : State := if s.fbit F.VANE_AVS_CTRL_MODE 0 then s.avsFault else s

/-- The transaction of a master ends with a status. Marks: PRESUMED unsafe (log entry 203). -/
def State.i2cEnd (s : State) (k status : Nat) (rx : List Byte) : State :=
  let x := s.i2cm k
  let s1 := (s.upI2c k fun y => { y with cur := none, tries := 0, again := false, slot := if x.cur == some .host then y.slot else some s.turn }).fset F.I2CM_STAT_BUSY k 0
  match x.cur with
  | none => s
  | some .host => s1.i2cHostEnd k status x.tries (rx.take (s.fget F.I2CM_XFER_RLEN k))
  | some .voutMode =>
    let v := leAt rx 0 1
    if status = 1 ∧ v / 32 = 0 then (s1.fset F.I2CM_AVS_VOUT_EXP 0 (v % 32)).upI2c 0 fun y => { y with ready := true } else s1.avsFailed
  | some (.voutCommand mv) => if status = 1 then { s1 with fab := { s1.fab with rail := mv } } else s1.avsFailed

/-- May a host transaction of a master start (R577): on I2CM 0 while MODE is 1 only after the turn's adaptive-voltage transaction has ended and no later
than 300 µs into the turn? Marks: DEDUCED unsafe (log entry 393). -/
def State.hostSlot (s : State) (k : Nat) : Bool :=
  k != 0 || !s.fbit F.VANE_AVS_CTRL_MODE 0 || ((s.i2cm 0).slot == some s.turn && decide (s.nowUnits - (s.miller 0).lastB ≤ 300000 * unitNs))

/-- A waiting transaction starts where the bus is free: adaptive voltage first, then a host GO of an enabled controller. On a stuck bus it
completes at once with BUS_STUCK (R576). The first argument bounds the transactions that end so. Marks: DEDUCED unsafe (log entry 201), DEDUCED safe (log entry 202). Marks: DEDUCED unsafe (log entry 393). -/
def State.i2cStart : Nat → State → Nat → State
  | 0, s, _ => s
  | fuel + 1, s, k =>
    let x := s.i2cm k
    let go := x.goWaits && s.fbit F.I2CM_CTRL_EN k && s.hostSlot k
    let next : Option I2cWho := match x.avsWaits with | some w => some w | none => if go then some .host else none
    match x.cur, next with
    | none, some w =>
      if s.fbit F.I2CM_STAT_CLEARING k then s
      else
        let s1 := s.upI2c k fun y => { y with cur := some w, tries := 0, again := false,
                                              avsWaits := none, goWaits := if w = .host then false else y.goWaits }
        if s.fbit F.I2CM_STAT_BUS_STUCK k then (s1.i2cEnd k 6 []).i2cStart fuel k else (s1.fset F.I2CM_STAT_BUSY k 1).i2cAttempt k
    | _, _ => s

/-- What waits on a master may start. -/
def State.i2cNext (s : State) (k : Nat) : State := s.i2cStart 3 k

/-- Is a transaction of a master repeated: a host's always, an adaptive-voltage one while MODE is 1 (R55)? -/
def State.i2cRepeats (s : State) (k : Nat) : Bool := (s.i2cm k).cur == some .host || s.fbit F.VANE_AVS_CTRL_MODE 0

/-- An attempt ends (R575): NACK, arbitration loss and TIMEOUT are repeated up to RETRY times; the last attempt decides. -/
def State.i2cAttemptEnd (s : State) (k status : Nat) (rx : List Byte) : State :=
  let x := s.i2cm k
  if x.cur.isNone ∨ x.again then s
  else
    let s1 := (s.upI2c k fun y => { y with tries := y.tries + 1 })
    let s2 := if status = 1 then s1 else s1.finc F.I2CM_COUNTS_ERR k
    if 2 ≤ status ∧ status ≤ 5 ∧ x.tries < s.fget F.I2CM_CTRL_RETRY k ∧ s.i2cRepeats k then s2.upI2c k fun y => { y with again := true }
    else (s2.i2cEnd k status rx).i2cNext k

/-- The count of bytes an attempt reads before its PEC byte, and the bytes the PEC covers ahead of them (R575). Marks: DEDUCED safe (log entry 200). -/
def State.i2cPecBase (s : State) (k : Nat) : Nat × List Byte :=
  match (s.i2cm k).cur with
  | some .host =>
    let ad := s.fget F.I2CM_XFER_ADDR k
    (s.fget F.I2CM_XFER_RLEN k, leBytes 1 (2 * ad) ++ s.txBytes k (s.fget F.I2CM_XFER_WLEN k) ++ leBytes 1 (2 * ad + 1))
  | some .voutMode =>
    let ad := s.fget F.I2CM_AVS_ADDR 0
    (1, leBytes 1 (2 * ad) ++ bytesOf [0x20] ++ leBytes 1 (2 * ad + 1))
  | _ => (0, [])

/-- I2C_TRANSACTION_DONE (R575): an attempt ends OK, with NACK on address or data, or with arbitration lost (status 1 to 4); the bytes read come
with it, their PEC byte last where PEC is set, and a PEC that does not fit gives PEC_FAIL. Marks: DEDUCED safe (log entry 200). -/
def execI2cTransactionDone (inst status : Nat) (rx : List Byte) (s : State) : Res :=
  if 2 ≤ inst ∨ status = 0 ∨ 4 < status ∨ s.fbit F.I2CM_STAT_CLEARING inst then .next s
  else
    let b := s.i2cPecBase inst
    let bad := status == 1 && b.1 != 0 && s.fbit F.I2CM_CTRL_PEC inst && leAt rx b.1 1 != crc8 (b.2 ++ rx.take b.1)
    .next (s.i2cAttemptEnd inst (if bad then 7 else status) (rx.take b.1))

/-- I2C_TIMEOUT (R576): a target has held SCL low; the attempt ends with TIMEOUT. -/
def execI2cTimeout (inst : Nat) (s : State) : Res :=
  if 2 ≤ inst ∨ (s.i2cm inst).cur.isNone ∨ (s.i2cm inst).again then .next s
  else .next ((s.raise T.i2cm inst I.I2CM_TIMEOUT).i2cAttemptEnd inst 5 [])

/-- I2C_RETRY (R575): 100 µs after a failed attempt it is repeated. It waits for a bus clear, and on a stuck bus the transaction ends. -/
def execI2cRetry (inst : Nat) (s : State) : Res :=
  if 2 ≤ inst ∨ ¬ (s.i2cm inst).again ∨ s.fbit F.I2CM_STAT_CLEARING inst then .next s
  else if s.fbit F.I2CM_STAT_BUS_STUCK inst then .next ((s.i2cEnd inst 6 []).i2cNext inst)
  else .next ((s.upI2c inst fun x => { x with again := false }).i2cAttempt inst)

/-- A write of I2CM_XFER (R575, R584): dropped and logged while GO reads 1 and with a length above 32. -/
def State.i2cXferWrite (s : State) (fn k v : Nat) : State :=
  if s.fbit F.I2CM_XFER_GO k || decide (32 < bitField v 16 6 ∨ 32 < bitField v 8 6) then s.logErr T.i2cm k 5 fn (regAddr T.i2cm k 0x48) v
  else
    let s1 := ((s.fset F.I2CM_XFER_RLEN k (bitField v 16 6)).fset F.I2CM_XFER_WLEN k (bitField v 8 6)).fset F.I2CM_XFER_ADDR k v
    if bitAt v 31 then ((s1.fset F.I2CM_XFER_GO k 1).upI2c k fun x => { x with goWaits := true }).i2cNext k else s1

/-- A bus-clear sequence ends, with SDA released or still low (R576). Marks: DEDUCED unsafe (log entry 201). -/
def State.i2cCleared (s : State) (k : Nat) (released : Bool) : State :=
  let s1 := ((s.finc F.I2CM_COUNTS_CLEARS k).fset F.I2CM_STAT_CLEARING k 0).fset F.I2CM_STAT_SDA k (b2n released)
  if released then ((s1.fset F.I2CM_STAT_BUS_STUCK k 0).upI2c k fun x => { x with clrLeft := 0 }).i2cNext k
  else ((s1.fset F.I2CM_STAT_BUS_STUCK k 1).raise T.i2cm k I.I2CM_BUS_STUCK).i2cNext k

/-- I2C_BUS_CLEAR (R576): the controller, enabled or after a TIMEOUT, finds SDA low and starts the sequence (`none`), or the sequence ends. Marks: DESIGN CHOICE safe (log entry 205). -/
def execI2cBusClear (inst : Nat) (released : Option Bool) (s : State) : Res :=
  if 2 ≤ inst then .next s
  else match released with
  | none =>
    let x := s.i2cm inst
    if s.fbit F.I2CM_CTRL_EN inst ∧ (x.cur.isNone ∨ x.again) then .next ((s.fset F.I2CM_STAT_CLEARING inst 1).fset F.I2CM_STAT_SDA inst 0) else .next s
  | some b =>
    if s.fbit F.I2CM_STAT_CLEARING inst then
      .next ((s.upI2c inst fun x => { x with clrLeft := s.fget F.I2CM_CTRL_CLR_TRIES inst }).i2cCleared inst b)
    else .next s

/-- BUS_CLEAR_RETRY (R576): every 10 ms a stuck bus is cleared again, up to CLR_TRIES times. -/
def execBusClearRetry (inst : Nat) (released : Bool) (s : State) : Res :=
  let x := s.i2cm inst
  if inst < 2 ∧ s.fbit F.I2CM_STAT_BUS_STUCK inst ∧ x.clrLeft ≠ 0 then
    .next ((s.upI2c inst fun y => { y with clrLeft := y.clrLeft - 1 }).i2cCleared inst released)
  else .next s

/-- A write of I2CM_CTRL (R584): SPEED 3, or a change of SPEED while BUSY is 1, drops it. -/
def State.i2cCtrlWrite (s : State) (fn k v : Nat) : State :=
  let sp := bitField v 1 2
  if sp = 3 ∨ (sp ≠ s.fget F.I2CM_CTRL_SPEED k ∧ s.fbit F.I2CM_STAT_BUSY k) then s.logErr T.i2cm k 5 fn (regAddr T.i2cm k 0x40) v
  else (s.wr T.i2cm k 0x40 (v &&& 0x00FF0F0F)).i2cNext k

/-! ## Adaptive voltage (R55 to R58, R577) -/

/-- MODE = 0 stops what adaptive voltage still has to send (R55): a transaction that waits is dropped, and one between two attempts ends. -/
def State.avsStop (s : State) : State :=
  let x := s.i2cm 0
  let s1 := s.upI2c 0 fun y => { y with avsWaits := none }
  if x.again ∧ x.cur ≠ some .host then
    (((s1.upI2c 0 fun y => { y with cur := none, tries := 0, again := false }).fset F.I2CM_STAT_BUSY 0 0)).i2cNext 0
  else s1.i2cNext 0

/-- Before its first command PACE mode starts from the rail's voltage, a value from VMIN to VMAX that the spec does not state. Marks: DESIGN CHOICE safe (log entry 204). -/
def State.avsFirst (s : State) : State :=
  if s.avsV ≠ 0 then s
  else
    let lo := s.fget F.VANE_AVS_VLIM_VMIN 0
    let f := s.takeFree
    { f.2 with fab := { f.2.fab with rail := lo + f.1.toNat % (s.fget F.VANE_AVS_VLIM_VMAX 0 + 1 - lo) } }

/-- A write of VANE_AVS_CTRL (R57, R577): TARGET lies in 1,400 to 2,600. Setting MODE reads VOUT_MODE. -/
def State.avsCtrlWrite (s : State) (fn v : Nat) : State :=
  let target := bitField v 4 12
  if target < 1400 ∨ 2600 < target then s.logErr T.vane 0 5 fn (regAddr T.vane 0 0x60) v
  else
    let was := s.fbit F.VANE_AVS_CTRL_MODE 0
    let s0 := ((s.fset F.VANE_AVS_CTRL_HYST 0 (bitField v 16 8)).fset F.VANE_AVS_CTRL_TARGET 0 target).fset F.VANE_AVS_CTRL_MODE 0 v
    if bitAt v 0 ∧ ¬ was then
      ((s0.avsFirst.avsCheck.fset F.VANE_AVS_STAT_AVS_FAULT 0 0).upI2c 0 fun x => { x with ready := false, avsWaits := some .voutMode }).i2cNext 0
    else if ¬ bitAt v 0 then s0.avsStop else s0.avsCheck

/-- AVS_UPDATE (R56): the new setting, once per turn, and its VOUT_COMMAND. Marks: DESIGN CHOICE safe (log entry 204). -/
def execAvsUpdate (s : State) : Res :=
  if ¬ s.fbit F.VANE_AVS_CTRL_MODE 0 ∨ ¬ (s.i2cm 0).ready then .next s
  else
    let v := s.avsV
    let lo := s.fget F.VANE_AVS_VLIM_VMIN 0
    let hi := s.fget F.VANE_AVS_VLIM_VMAX 0
    let t := s.fget F.VANE_AVS_CTRL_TARGET 0
    let w := match s.avsPace with
      | none => v
      | some p => if p < t then min (v + 5) hi else if t + s.fget F.VANE_AVS_CTRL_HYST 0 ≤ p then max (v - 5) lo else v
    .next ((((s.fset F.VANE_AVS_STAT_VCMD 0 w).upI2c 0 fun x => { x with avsWaits := some (.voutCommand w) }).avsCheck).i2cNext 0)

end Sys2Proof.Machine
end

