-- ==== Sys2Proof/Machine/Ports.lean ====
section
/-!
DEFINITION. The Ethernet ports (R355 to R394): receive with MAC errors and control frames, the choice and sending of the next frame, priority
flow control, sluices, link state, the SerDes lanes, the management MAC, and the bulk send command (R376, R377).
-/

namespace Sys2Proof.Machine

/-! ## Ports -/

/-- Tide time has come to `now` at least. Marks: DEDUCED safe (log entry 61). -/
def State.clock (s : State) (now : Nat) : State := { s with tideNow := max s.tideNow now }

/-- Is a port absorbed by its even partner (R356)? -/
def State.absorbed (s : State) (n : Nat) : Bool := n % 2 == 1 && s.pmode n == 3

/-- Is the port's link up (R360)? An absorbed port's reads down. -/
def State.linkUp (s : State) (n : Nat) : Bool := s.fbit F.MAC_STAT_LINK n && !s.absorbed n

/-- The lane whose FEC, AN_EN and LT_EN apply to a lane (R358). -/
def State.ruleLane (s : State) (l : Nat) : Nat := if s.pmode l = 3 then l / 2 * 2 else l

/-- The lanes of a port (R356). -/
def State.lanesOf (s : State) (n : Nat) : List Nat := if s.pmode n = 3 then [n / 2 * 2, n / 2 * 2 + 1] else [n]

/-- The FEC a lane runs (R358): it is mandatory at 50 and 100 Gb/s. -/
def State.fecOf (s : State) (l : Nat) : Nat := if 2 ≤ s.pmode l then 3 else s.fget F.SERDES_CTRL_FEC (s.ruleLane l)

/-- May traffic run on the port: its lanes at no test rate (R355)? -/
def State.trafficOk (s : State) (n : Nat) : Bool := (s.lanesOf n).all fun l => s.fget F.SERDES_CTRL_TEST_RATE l == 0

/-- TX_LAT and RX_LAT in tenths of a ns (R402), where the table has the mode and FEC. Marks: DESIGN CHOICE safe (log entry 172). -/
def latency (mode fec : Nat) : Option (Nat × Nat) :=
  match mode, fec with
  | 0, 0 => some (416, 582)
  | 0, 1 => some (561, 1413)
  | 1, 0 => some (284, 397)
  | 1, 1 => some (342, 869)
  | 1, 2 => some (615, 1724)
  | 2, 3 => some (728, 2116)
  | 3, 3 => some (643, 1960)
  | _, _ => none

/-- KEEP_BAD and RX_ADJ of a port change: what they were is kept for the frames whose first byte came before (R363, R402). A frame ends within 1 ms of its
first byte. Marks: DEDUCED unsafe (log entry 376). -/
def State.keepPast (s : State) (n : Nat) : State :=
  let old : PortPast := ⟨s.nowUnits, s.fbit F.MAC_CTRL_KEEP_BAD n, s.fget F.TIDE_PORT_ADJ_RX_ADJ 0 n⟩
  s.upPort n fun x => { x with past := old :: x.past.filter fun e => decide (s.nowUnits ≤ e.at' + 1000000 * unitNs) }

/-- KEEP_BAD and RX_ADJ of a port as a frame whose first byte crossed at a time has them: those before the first write at or after it. Marks: DEDUCED
unsafe (log entry 376). -/
def State.portAt (s : State) (n t : Nat) : PortPast :=
  (((s.port n).past.filter fun e => decide (t ≤ e.at')).getLast?).getD ⟨t, s.fbit F.MAC_CTRL_KEEP_BAD n, s.fget F.TIDE_PORT_ADJ_RX_ADJ 0 n⟩

/-- The corrected stamp of a time at the MAC/PCS boundary (R402). Where the table has no latency, it is a free value. Marks: DESIGN CHOICE safe (log entry 172). -/
def State.portStamp (s : State) (n sfd : Nat) (tx : Bool) : State × Nat :=
  let adj := signedOf 16 (if tx then s.fget F.TIDE_PORT_ADJ_TX_ADJ 0 n else (s.portAt n sfd).rxAdj) * 4096
  match latency (s.pmode n) (s.fecOf n) with
  | some (t, r) =>
    (s, (if tx then Int.ofNat sfd + Int.ofNat (t * unitNs / 10) + adj else Int.ofNat sfd - Int.ofNat (r * unitNs / 10) + adj).toNat)
  | none => ((s.takeFree).2, (s.takeFree).1.toNat)

/-- One bit of the reflected CRC-32 of IEEE 802.3. -/
def crc32Bit (c : Nat) : Nat := if c % 2 = 1 then (c / 2) ^^^ 0xEDB88320 else c / 2

/-- The FCS of a frame, as it is sent. -/
def fcsOf (l : List Byte) : List Byte :=
  leBytes 4 ((l.foldl (fun c b => (List.range 8).foldl (fun x _ => crc32Bit x) (c ^^^ b.toNat)) 0xFFFFFFFF) ^^^ 0xFFFFFFFF)

/-- A frame padded to 60 bytes (R364). -/
def padded (l : List Byte) : List Byte := l ++ List.replicate (60 - l.length) 0

/-! ## Priority flow control (R366 to R368) -/

/-- PAUSED follows the running timers. -/
def State.setPaused (s : State) (n prio : Nat) (on : Bool) : State :=
  let v := s.fget F.MAC_STAT_PAUSED n
  s.fset F.MAC_STAT_PAUSED n (if on then setBitN v prio else clrBitN v prio)

/-- One priority of a received PFC frame: its timer is set to the quanta, or the priority released where they are 0. -/
def State.pfcSet (s : State) (n prio quanta : Nat) : State :=
  if quanta = 0 then (s.upPort n fun x => { x with pause := Tab.erase x.pause prio }).setPaused n prio false
  else (s.upPort n fun x => { x with pause := Tab.insert x.pause prio (s.nowUnits + s.bitTime n (quanta * 512)) }).setPaused n prio true

/-- A received PFC frame (R362, R367): counted, and acted on while PFC_RX_EN is set. Marks: DEDUCED unsafe (log entry 171). -/
def State.pfcIn (s : State) (n classes : Nat) (quanta : List Nat) : State :=
  let s1 := s.finc F.RX_PAUSE_COUNT n
  if ¬ s.fbit F.MAC_CTRL_PFC_RX_EN n then s1
  else (List.range 8).foldl (fun t k => if bitAt classes k then t.pfcSet n k (quanta.getD k 0 % 65536) else t) s1

/-- PFC_FRAME_RECEIVE (R367): a good PFC frame, of 64 bytes with its FCS, on its port; it is counted as FRAME_RECEIVE counts it (R388). -/
def execPfcFrameReceive (port classes : Nat) (quanta : List Nat) (now : Nat) (s : State) : Res :=
  .next (if s.fbit F.MAC_CTRL_RX_EN port ∧ s.linkUp port ∧ s.trafficOk port
    then (((s.clock now).cinc C.RX_FRAMES port).cinc C.RX_OCTETS port 64).pfcIn port classes quanta else s)

/-- PFC_PAUSE_EXPIRE (R367): the timer of a priority runs out. -/
def execPfcPauseExpire (port prio now : Nat) (s : State) : Res :=
  let s1 := s.clock now
  match (s1.port port).pause.find? fun e => e.1 == prio with
  | some e => .next (if e.2 ≤ s1.nowUnits then (s1.upPort port fun x => { x with pause := Tab.erase x.pause prio }).setPaused port prio false else s1)
  | none => .next s1

/-- The address of a register of MAC n. -/
def macAddr (n off : Nat) : Nat := regAddr T.mac n off

/-- A write of MAC_PFC_TX (R368, R387). -/
def State.pfcTxWrite (s : State) (fn n v : Nat) : State :=
  if v % 256 = 0 ∨ (s.port n).pfc.isSome then s.logErr T.mac n 5 fn (macAddr n 0x58) v
  else (s.upPort n fun x => { x with pfc := some (v / 65536 % 65536, v % 256) }).fset F.MAC_STAT_PFC_TX_PEND n 1

/-- The address of a port's MAC. -/
def State.macOf (s : State) (n : Nat) : List Byte := beBytes 2 (s.fget F.MAC_ADDR_HI_OCTETS0_1 n) ++ beBytes 4 (s.fget F.MAC_ADDR_LO_OCTETS2_5 n)

/-- The PFC frame of a port (R368). -/
def State.pfcFrame (s : State) (n quanta classes : Nat) : List Byte :=
  beBytes 6 0x0180C2000001 ++ s.macOf n ++ beBytes 2 0x8808 ++ beBytes 2 0x0101 ++ beBytes 2 classes
    ++ (List.range 8).flatMap fun k => beBytes 2 (if bitAt classes k then quanta else 0)

/-! ## Receive (R361 to R363) -/

/-- The MAC error flags of a received frame: FCS, PCS or FEC error (which counts as an FCS error), runt, oversize. -/
def State.macFlags (s : State) (n len : Nat) (fcsBad codeErr : Bool) : Nat :=
  b2n fcsBad + 2 * b2n codeErr + 4 * b2n (decide (len < 64)) + 8 * b2n (decide (s.fget F.MAC_MAXFRAME_MAX n < len))

/-- A frame goes to its classifier: into the lookup queue, or, where that is full, to the exception path (R299). Marks: DEDUCED unsafe (log entry 182). -/
def State.toClassifier (s : State) (f : RxFrame) : State :=
  let h := f.port / 8
  let c := s.clsf h
  if c.waiting.length < 16384 then s.setCls h { c with waiting := c.waiting ++ [f] }
  else
    match s.framePolder h f with
    | some p => s.exception h p 0x0C 0 f
    | none => s.exception h 0 (if s.fbit F.CLS_CTRL_EN h then 5 else 0x0C) 0 f

/-- FRAME_RECEIVE (R361 to R363): a frame (without its FCS) whose first symbol after the SFD crossed the boundary at `sfd`; KEEP_BAD and RX_ADJ are those of
that time (R382, R417). Marks: DEDUCED unsafe (log entry 170), DEDUCED unsafe (log entry 376). -/
def execFrameReceive (port : Nat) (data : List Byte) (fcsBad codeErr : Bool) (sfd now : Nat) (s : State) : Res :=
  if ¬ (s.fbit F.MAC_CTRL_RX_EN port ∧ s.linkUp port ∧ s.trafficOk port) then .next s
  else
    let s0 := s.clock now
    let len := data.length + 4
    let flags := s0.macFlags port len fcsBad codeErr
    let control := beAt data 12 2 == 0x8808
    let r := s0.portStamp port sfd false
    if flags = 0 then
      let s1 := (r.1.cinc C.RX_FRAMES port).cinc C.RX_OCTETS port len
      if control then
        .next (if beAt data 14 2 = 0x0101 then s1.pfcIn port (beAt data 16 2 % 256) ((List.range 8).map fun k => beAt data (18 + 2 * k) 2)
          else s1.finc F.RX_CTRL_OTHER_COUNT port)
      else .next (s1.toClassifier ⟨port, data, 0, r.2⟩)
    else
      let s1 := if fcsBad ∨ codeErr then r.1.finc F.RX_FCS_ERR_COUNT port else r.1
      let s2 := if bitAt flags 2 then s1.finc F.RX_RUNT_COUNT port else s1
      let s3 := if bitAt flags 3 then s2.finc F.RX_OVERSIZE_COUNT port else s2
      if (s.portAt port sfd).keepBad ∧ ¬ control
      then .next (s3.toClassifier ⟨port, data.take (s.fget F.MAC_MAXFRAME_MAX port), flags, r.2⟩)
      else .next s3

/-! ## Sluices (R370 to R373) -/

/-- The intervals of a bank. -/
def State.intervals (s : State) (n bank : Nat) : List Nat := (List.range (s.fget F.SLUICE_NENT_NENT n bank)).map fun i => s.gclWord n bank i 0

/-- May a bank be made active (R372)? -/
def State.bankOk (s : State) (n bank : Nat) : Bool :=
  let k := s.fget F.SLUICE_NENT_NENT n bank
  let cycle := s.fget F.SLUICE_CYCLE_NS n bank
  let iv := s.intervals n bank
  decide (1 ≤ k ∧ k ≤ 256) && iv.all (fun x => decide (64 ≤ x)) && iv.foldl (· + ·) 0 == cycle && decide (10000 ≤ cycle)
    && 1000000000 % cycle == 0 && decide (s.fget F.SLUICE_GCL_BASE_NS n bank < cycle)

/-- Time into the running cycle of a bank. -/
def State.cyclePos (s : State) (n bank t : Nat) : Nat :=
  let c := s.fget F.SLUICE_CYCLE_NS n bank * unitNs
  (t + c - s.fget F.SLUICE_GCL_BASE_NS n bank * unitNs) % max c 1

/-- Does a cycle of a bank start at a time? -/
def State.cycleStart (s : State) (n bank t : Nat) : Bool := s.cyclePos n bank t == 0

/-- The entry a position falls in, and the time left in it. -/
def entryAt : List Nat → Nat → Nat → Nat × Nat
  | [], i, _ => (i, 0)
  | x :: l, i, pos => if pos < x * unitNs then (i, x * unitNs - pos) else entryAt l (i + 1) (pos - x * unitNs)

/-- The entry of the active bank at a time, and the end of its window (R370). -/
def State.gclAt (s : State) (n t : Nat) : Nat × Nat :=
  let b := s.gclActive n
  let e := entryAt (s.intervals n b) 0 (s.cyclePos n b t)
  (e.1, t + e.2)

/-- Is the queue of a polder and priority open at a time? -/
def State.gateOpen (s : State) (n polder prio t : Nat) : Bool :=
  if s.inGcl n then
    let w := s.gclWord n (s.gclActive n) (s.gclAt n t).1 1
    bitAt w polder && bitAt w (16 + prio)
  else true

/-- A frame's occupancy (R371), L its length without FCS. Marks: DEDUCED unsafe (log entry 174). -/
def State.occupancy (s : State) (n len : Nat) : Nat := s.bitTime n ((8 + max len 60 + 4 + 12) * 8) + (if (8 + max len 60 + 16) * 8 * unitNs % s.portRate n = 0 then 0 else 1)

/-- Does a frame that starts at a time end in its window? -/
def State.fitsWindow (s : State) (n len t : Nat) : Bool := !s.inGcl n || decide (t + s.occupancy n len ≤ (s.gclAt n t).2)

/-- May a frame of a polder start at a time under its release time (R470)? A work unit's frame has none before the boundary of its deadline (R164). -/
def State.released (s : State) (i : QItem) (t : Nat) : Bool := !s.fbit F.DIKE_ISO_STRICT_OK 0 || (i.dep.isNone && decide (i.release ≤ t))

/-! ## Choosing the next frame (R333, R338, R369) -/

/-- Of two items the one that became visible first; at a tie that of segment 0 (R333). -/
def earlierItem (a b : QItem) : QItem :=
  if b.seen.getD 0 < a.seen.getD 0 ∨ (b.seen.getD 0 = a.seen.getD 0 ∧ b.half < a.half) then b else a

/-- The item a port takes next from a tailrace queue (R333): of those visible in its two segments the one that became visible first. -/
def Queue.nextOut (q : Queue) : Option QItem :=
  match q.items.filter (fun i => i.seen.isSome) with
  | [] => none
  | a :: l => some (l.foldl earlierItem a)

/-- Gap markers and poisoned frames that reach the head of a queue are discarded, the marker of drops at its tail too (R334, R338, R352). -/
def State.cleanHead (s : State) (id : Nat) : Nat → State
  | 0 => s
  | fuel + 1 =>
    match (s.queue id).nextOut with
    | none => (s.qTailGap id).qRemove id fun x => x.gap && x.seen.isSome
    | some i =>
      if i.gap then (s.qRemove id fun x => x.id == i.id).cleanHead id fuel
      else if i.poison then
        (((s.qRemove id fun x => x.id == i.id).spill C.SPILL_POISON (s.qPolder id)).raise T.queue 0 I.QUEUE_POISON).cleanHead id fuel
      else s

/-- The heads of every queue of a port are cleaned. -/
def State.cleanPort (s : State) (n : Nat) : State :=
  s.qs.q.foldl
    (fun t e => if 2048 ≤ e.1 ∧ (e.1 - 2048) / 128 = n then t.cleanHead e.1 (e.2.items.length + 1) else t) s

/-- Deficit round robin over the sixteen polders of a priority (R369): from the polder being served, `len` gives the length of the frame each
may send. Answers the polder chosen and the deficits. Marks: DEDUCED unsafe (log entry 175). -/
def drr (len : Nat → Option Nat) (skip : Nat → Bool) : Nat → Nat → Bool → Tab Nat → Option (Nat × Tab Nat)
  | 0, _, _, _ => none
  | fuel + 1, p, given, d =>
    if skip p then drr len skip fuel ((p + 1) % 16) false d
    else match len p with
    | none => drr len skip fuel ((p + 1) % 16) false (Tab.erase d p)
    | some l =>
      let have' := Tab.get (fun _ => 0) d p + (if given then 0 else 1664)
      if l ≤ have' then some (p, Tab.set (fun _ => 0) d p (have' - l)) else drr len skip fuel ((p + 1) % 16) false (Tab.set (fun _ => 0) d p have')

/-- What a port chose to send: the queue, the item and the port's round robin after it; and the frames that did not fit. -/
structure TxChoice where
  qid : Nat
  item : QItem
  prio : Nat
  deficit : Tab Nat
  deriving DecidableEq, Repr

/-- Chooses within a priority, passing over frames that do not fit their window; those are listed. -/
def State.chooseIn (s : State) (n prio t : Nat) : Nat → List Nat → Option TxChoice × List Nat
  | 0, out => (none, out)
  | fuel + 1, out =>
    let x := s.port n
    let head (p : Nat) : Option QItem := (s.queue (qTail n p prio)).nextOut
    let len (p : Nat) : Option Nat := match head p with
      | some i => some i.data.length
      | none => none
    let skip (p : Nat) : Bool := !s.gateOpen n p prio t ||
      (match head p with | some i => out.contains i.id || !s.released i t | none => false)
    let v := Tab.get (fun _ => 0) x.serving prio
    let mine : Tab Nat := (List.range 16).filterMap fun p =>
      let d := Tab.get (fun _ => 0) x.deficit (16 * prio + p)
      if d = 0 then none else some (p, d)
    match drr len skip 33 (v / 2) (v % 2 == 1) mine with
    | none => (none, out)
    | some (p, d) =>
      match head p with
      | none => (none, out)
      | some i => if s.fitsWindow n i.data.length t then (some ⟨qTail n p prio, i, prio, d⟩, out) else s.chooseIn n prio t fuel (out ++ [i.id])

/-- Chooses the highest priority that is not paused and has a frame that may start (R369 to R371). -/
def State.chooseTx (s : State) (n t : Nat) : List Nat → List Nat → Option TxChoice × List Nat
  | [], out => (none, out)
  | k :: ks, out =>
    if bitAt (s.fget F.MAC_STAT_PAUSED n) k then s.chooseTx n t ks out
    else match s.chooseIn n k t 17 out with
    | (some c, o) => (some c, o)
    | (none, o) => s.chooseTx n t ks o

/-- Counts each deferred frame once in a window (R371). Marks: DEDUCED unsafe (log entry 174). -/
def State.countDefer (s : State) (n : Nat) (items : List Nat) : State :=
  let new := items.filter fun i => !(s.port n).deferred.contains i
  (s.finc F.SLUICE_DEFER_COUNT n new.length).upPort n fun x => { x with deferred := x.deferred ++ new }

/-- READ of a queue advances over the item that its port sends, and goes back where the item is to be sent again (R336, R365). -/
def State.portRead (s : State) (id n : Nat) : State := s.setQueue id { s.queue id with read := n }

/-- A frame starts. `whole` says that all of it is in the FIFO (R365). -/
def State.startFrame (s : State) (n qid : Nat) (i : QItem) (whole : Bool) (sfd : Nat) : State :=
  let r := s.portStamp n sfd true
  (r.1.upPort n fun x => { x with tx := some ⟨qid, i.id, whole, r.2⟩, retry := none }).portRead qid 1

/-- What a port may start now: a frame to be sent again, or the chosen one; none where nothing may start. The second part is the state after the
choice, with the deferred frames counted. -/
def State.pickFrame (s : State) (n t : Nat) : Option (Nat × QItem × Bool) × State :=
  match (s.port n).retry with
  | some (qid, id) =>
    match (s.queue qid).items.find? fun i => i.id == id with
    | none => (none, s.upPort n fun y => { y with retry := none })
    | some i =>
      if bitAt (s.fget F.MAC_STAT_PAUSED n) ((qid - 2048) % 8) ∨ ¬ s.gateOpen n ((qid - 2048) / 8 % 16) ((qid - 2048) % 8) t then (none, s)
      else if s.fitsWindow n i.data.length t then (some (qid, i, true), s) else (none, s.countDefer n [i.id])
  | none =>
    match s.chooseTx n t [7, 6, 5, 4, 3, 2, 1, 0] [] with
    | (none, out) => (none, s.countDefer n out)
    | (some c, out) =>
      (some (c.qid, c.item, s.fget F.MAC_CT_THRESH n = 0 || decide (c.item.data.length ≤ s.fget F.MAC_CT_THRESH n * 256)),
        (s.countDefer n out).upPort n fun y =>
          { y with serving := Tab.set (fun _ => 0) y.serving c.prio (2 * ((c.qid - 2048) / 8 % 16) + 1),
                   deficit := (List.range 16).foldl (fun d p => Tab.set (fun _ => 0) d (16 * c.prio + p) (Tab.get (fun _ => 0) c.deficit p)) y.deficit })

/-- The frame that a port may start now starts. -/
def State.startNextFrame (s : State) (n t sfd : Nat) : State :=
  match s.pickFrame n t with
  | (none, u) => u
  | (some (qid, i, whole), u) => u.startFrame n qid i whole sfd

/-- FRAME_TRANSMIT_START (R365, R368 to R371): a PFC frame first, then a frame to be sent again, then the chosen one. One that the port reads poisoned is
discarded (R338), and the next starts. A MAC that fail-stop has stopped starts none (R598). -/
def execFrameTransmitStart (rd : QRead) (sfd now : Nat) (s : State) : Res :=
  let port := rd.n
  let s0 := s.clock now
  let x := s0.port port
  let t := s0.nowUnits
  if ¬ (s0.fbit F.MAC_CTRL_TX_EN port ∧ s0.linkUp port ∧ s0.trafficOk port) ∨ x.tx.isSome ∨ x.pfcNow ∨ s0.ras.stopping ∨ s0.power.standby then .next s0
  else if x.pfc.isSome then .next (s0.upPort port fun y => { y with pfcNow := true })
  else
    let s1 := s0.cleanPort port
    match rd.bad, (s1.pickFrame port t).1 with
    | true, some (qid, i, _) => .next (((s1.poisonItem qid i.id).cleanPort port).startNextFrame port t sfd)
    | _, _ => .next (s1.startNextFrame port t sfd)

/-- TRANSMIT_UNDERRUN (R365): the FIFO of a frame sent cut-through runs empty. -/
def execTransmitUnderrun (port : Nat) (s : State) : Res :=
  match (s.port port).tx with
  | none => .next s
  | some f =>
    if f.whole then .next s
    else
      let s1 := ((s.upPort port fun x => { x with tx := none, retry := some (f.qid, f.item) }).portRead f.qid 0).emit (.frameCut port)
      let s2 := (s1.finc F.TX_UNDERRUN_COUNT port).raise T.mac port I.MAC_UNDERRUN
      let th := s.fget F.MAC_CT_THRESH port
      if s.fget F.MAC_MAXFRAME_MAX port ≤ (th + 1) * 256
      then .next ((s2.fset F.MAC_CT_THRESH port 0).raise T.mac port I.MAC_SAF_REACHED)
      else .next (s2.fset F.MAC_CT_THRESH port (th + 1))

/-- A time-stamp entry of a source: 64 in a transmit queue, 16 in a capture FIFO; a full one drops the newest (R404, R406). Marks: DESIGN CHOICE safe (log entry 63). -/
def State.tsPush (s : State) (src : Nat) (e : TsEnt) : State :=
  let l := Tab.get (fun _ => []) s.tide.ts src
  if l.length < (if src < 16 then 64 else 16) then { s with tide := { s.tide with ts := Tab.set (fun _ => []) s.tide.ts src (l ++ [e]) } }
  else
    let n := Tab.get (fun _ => 0) s.tide.tsDrops src
    let s1 : State := { s with tide := { s.tide with tsOvf := Tab.set (fun _ => 0) s.tide.tsOvf src 1, tsDrops := Tab.set (fun _ => 0) s.tide.tsDrops src (min (n + 1) 0xFFFF) } }
    s1.raise T.tide 0 I.TIDE_TS_OVF

/-- A sent frame is counted (R388) and leaves. Marks: DEDUCED unsafe (log entry 171). -/
def State.sentFrame (s : State) (n : Nat) (data : List Byte) : State :=
  let d := padded data
  ((s.cinc C.TX_FRAMES n).cinc C.TX_OCTETS n (d.length + 4)).emit (.frameOut n (d ++ fcsOf d))

/-- Fail-stop (R598): once no frame is in progress every MAC sends only local fault ordered sets and FAIL_STOPPED is set. -/
def State.failStop (s : State) : State :=
  let busy := (List.range 16).any fun n => (s.port n).tx.isSome || (s.port n).pfcNow
  if s.ras.stopping && !busy && !s.fbit F.RAS_STAT_FAIL_STOPPED 0
  then (s.fset F.RAS_STAT_FAIL_STOPPED 0 1).emits ((List.range 16).map Out.localFault) else s

/-- FRAME_TRANSMIT_END (R336, R364, R404). -/
def execFrameTransmitEnd (port now : Nat) (s : State) : Res :=
  let s0 := s.clock now
  let x := s0.port port
  if x.pfcNow then
    let q := x.pfc.getD (0, 0)
    let s1 := (s0.upPort port fun y => { y with pfcNow := false, pfc := none }).fset F.MAC_STAT_PFC_TX_PEND port 0
    .next ((s1.finc F.TX_PAUSE_COUNT port).sentFrame port (s0.pfcFrame port q.1 q.2)).failStop
  else match x.tx with
  | none => .next s0
  | some f =>
    let s1 := s0.upPort port fun y => { y with tx := none }
    match (s0.queue f.qid).items.find? fun i => i.id == f.item with
    | none => .next s1.failStop
    | some i =>
      let s2 := (s1.failStop.sentFrame port i.data).qRemove f.qid fun j => j.id == f.item
      let asked := (f.qid - 2048) / 8 % 16 == 0 && bitAt i.tag 8
      .next ((if asked then s2.tsPush port ⟨i.tag % 256, f.stamp⟩ else s2).cleanPort port)

/-- TAILRACE_LINK_DISCARD (R341): while the link is down, the frame at the head of a tailrace queue of the port is discarded. -/
def execTailraceLinkDiscard (port polder prio : Nat) (s : State) : Res :=
  let id := qTail port polder prio
  if s.linkUp port ∨ 16 ≤ port ∨ 16 ≤ polder ∨ 8 ≤ prio then .next s
  else
    let s0 := s.cleanHead id ((s.queue id).items.length + 1)
    match (s0.queue id).nextOut with
    | none => .next s0
    | some i =>
      if (s0.port port).tx.any (fun f => f.item == i.id) then .next s0
      else .next ((s0.qRemove id fun x => x.id == i.id).spill C.SPILL_LINK polder)

/-! ## Link state and lanes (R357 to R360, R389) -/

/-- SQUELCHED of the SyncE outputs follows their lanes (R401). -/
def State.synceUpdate (s : State) : State :=
  [0, 1].foldl
    (fun t j =>
      let l := t.fget F.TIDE_SYNCE_LANE 0 j
      let bad := !t.fbit F.SERDES_STAT_CDR_LOCK l || !t.linkUp (if t.pmode l = 3 then l / 2 * 2 else l)
      t.fset F.TIDE_SYNCE_SQUELCHED 0 (b2n (!t.fbit F.TIDE_SYNCE_EN 0 j || (t.fbit F.TIDE_SYNCE_SQ_LINK 0 j && bad))) j) s

/-- LFAULT and RFAULT change; FAULT is raised where they do, and the MAC sends remote fault or idle (R360). Marks: DEDUCED unsafe (log entry 173). -/
def State.setFaults (s : State) (n : Nat) (lf rf : Bool) : State :=
  let s1 := (s.fset F.MAC_STAT_LFAULT n (b2n lf)).fset F.MAC_STAT_RFAULT n (b2n rf)
  if s.fbit F.MAC_STAT_LFAULT n = lf ∧ s.fbit F.MAC_STAT_RFAULT n = rf then s1
  else
    let s2 := s1.raise T.mac n I.MAC_FAULT
    if lf then s2.emit (.faultSignal n true) else if rf then s2.emit (.faultSignal n false) else s2

/-- The link goes down. -/
def State.dropLink (s : State) (n : Nat) : State :=
  (if s.fbit F.MAC_STAT_LINK n then (s.fset F.MAC_STAT_LINK n 0).raise T.mac n I.MAC_LINK_CHANGE else s).synceUpdate

/-- The lock bits of a lane fall. -/
def State.loseLock (s : State) (l : Nat) : State :=
  let s1 := [F.SERDES_STAT_CDR_LOCK, F.SERDES_STAT_BLOCK_LOCK, F.SERDES_STAT_AM_LOCK, F.SERDES_STAT_FEC_LOCK].foldl (fun t f => t.fset f l 0) s
  if s.fbit F.SERDES_STAT_BLOCK_LOCK l then s1.raise T.serdes l I.SERDES_LOCK_LOSS else s1

/-- LINK_DOWN (R360, steps 1 and 2). -/
def execLinkDown (port : Nat) (cause : LinkCause) (s : State) : Res :=
  let s1 := match cause with
    | .lock => (s.lanesOf port).foldl (fun (t : State) l => t.loseLock l) s
    | .localFault => s.setFaults port true (s.fbit F.MAC_STAT_RFAULT port)
    | .remoteFault => s.setFaults port (s.fbit F.MAC_STAT_LFAULT port) true
  .next (s1.dropLink port)

/-- Does a lane meet the conditions of R360? Marks: DEDUCED unsafe (log entry 173). -/
def State.laneUp (s : State) (l : Nat) : Bool :=
  let r := s.ruleLane l
  s.fbit F.SERDES_CTRL_EN l && s.fbit F.SERDES_STAT_BLOCK_LOCK l && (decide (s.pmode l < 2) || s.fbit F.SERDES_STAT_AM_LOCK l)
    && (s.fecOf l == 0 || s.fbit F.SERDES_STAT_FEC_LOCK l) && (!s.fbit F.SERDES_CTRL_AN_EN r || s.fbit F.SERDES_STAT_AN_DONE r)
    && (!s.fbit F.SERDES_CTRL_LT_EN r || s.fbit F.SERDES_STAT_LT_DONE r)

/-- The link of a lane's port goes down where a setting of the lane leaves a condition of R360 unmet, or puts the lane at a test rate (R355). -/
def State.checkLink (s : State) (l : Nat) : State :=
  let n := if s.pmode l = 3 then l / 2 * 2 else l
  if (s.lanesOf n).all s.laneUp ∧ s.trafficOk n then s else s.dropLink n

/-- LINK_UP (R360, step 3): no fault has been seen for 1 ms, and every condition holds. -/
def execLinkUp (port : Nat) (s : State) : Res :=
  if s.absorbed port ∨ ¬ (s.lanesOf port).all s.laneUp ∨ ¬ s.trafficOk port then .next s
  else
    let s1 := s.setFaults port false false
    .next (if s.fbit F.MAC_STAT_LINK port then s1.synceUpdate else ((s1.fset F.MAC_STAT_LINK port 1).raise T.mac port I.MAC_LINK_CHANGE).synceUpdate)

/-- PCS_LOCK (R360). -/
def execPcsLock (lane : Nat) (s : State) : Res :=
  if ¬ s.fbit F.SERDES_CTRL_EN lane then .next s
  else
    let s1 := ((s.fset F.SERDES_STAT_SIGNAL lane 1).fset F.SERDES_STAT_CDR_LOCK lane 1).fset F.SERDES_STAT_BLOCK_LOCK lane 1
    let s2 := s1.fset F.SERDES_STAT_AM_LOCK lane (b2n (decide (2 ≤ s.pmode lane)))
    .next ((s2.fset F.SERDES_STAT_FEC_LOCK lane (b2n (s.fecOf lane != 0))).synceUpdate)

/-- AN_DONE (R389). -/
def execAnDone (lane : Nat) (s : State) : Res :=
  .next (if s.fbit F.SERDES_CTRL_EN lane ∧ s.fbit F.SERDES_CTRL_AN_EN (s.ruleLane lane)
    then (s.fset F.SERDES_STAT_AN_DONE lane 1).raise T.serdes lane I.SERDES_AN_DONE else s)

/-- Sets PRE and POST with MAIN (R390). -/
def State.setTxeq (s : State) (l pre post : Nat) : State :=
  ((s.fset F.SERDES_TXEQ_PRE l (pre % 16)).fset F.SERDES_TXEQ_POST l (post % 16)).fset F.SERDES_TXEQ_MAIN l (48 - pre % 16 - post % 16)

/-- LINK_TRAINING_DONE (R389): PRE and POST read the trained values. -/
def execLinkTrainingDone (lane pre post : Nat) (s : State) : Res :=
  .next (if s.fbit F.SERDES_CTRL_EN lane ∧ s.fbit F.SERDES_CTRL_LT_EN (s.ruleLane lane)
    then (s.fset F.SERDES_STAT_LT_DONE lane 1).setTxeq lane pre post else s)

/-- LT_FAIL (R389). -/
def execLtFail (lane : Nat) (s : State) : Res :=
  .next (if s.fbit F.SERDES_CTRL_EN lane ∧ s.fbit F.SERDES_CTRL_LT_EN (s.ruleLane lane) ∧ ¬ s.fbit F.SERDES_STAT_LT_DONE lane
    then s.raise T.serdes lane I.SERDES_LT_FAIL else s)

/-- A lane restarts: its locks fall, and auto-negotiation and training run again. Marks: DEDUCED unsafe (log entry 76). -/
def State.restartLane (s : State) (l : Nat) : State :=
  (((s.loseLock l).fset F.SERDES_STAT_AN_DONE l 0).fset F.SERDES_STAT_LT_DONE l 0).fset F.SERDES_STAT_PRBS_LOCK l 0

/-- A write of MAC_CTRL (R357, R385): PMODE changes only on an even MAC with both MACs of the pair disabled; the other fields take effect. -/
def State.macCtrlWrite (s : State) (fn n v : Nat) : State :=
  let e := n / 2 * 2
  let want := bitField v 8 2
  let idle := [e, e + 1].all fun m => !s.fbit F.MAC_CTRL_TX_EN m && !s.fbit F.MAC_CTRL_RX_EN m
  let s0 := if bitAt v 2 = s.fbit F.MAC_CTRL_KEEP_BAD n then s else s.keepPast n
  let s1 := (((s0.fset F.MAC_CTRL_PFC_RX_EN n (bitField v 4 1)).fset F.MAC_CTRL_KEEP_BAD n (bitField v 2 1)).fset F.MAC_CTRL_RX_EN n (bitField v 1 1)).fset F.MAC_CTRL_TX_EN n (bitField v 0 1)
  let s2 := if want = s.pmode n then s1
    else if n % 2 = 1 ∨ ¬ idle then s1.logErr T.mac n 5 fn (macAddr n 0x40) v
    else
      let t := s1.fset F.MAC_CTRL_PMODE e want
      (((t.restartLane e).restartLane (e + 1)).dropLink e).dropLink (e + 1)
  s2.strictUpdate

/-! ## The SLUICE page (R372, R391, R392) -/

/-- The address of a register of SLUICE n. -/
def sluiceAddr (n off : Nat) : Nat := regAddr T.sluice n off

/-- Is a bank held against writes: the active bank, or the pending one? -/
def State.bankHeld (s : State) (n bank : Nat) : Bool := s.gclActive n == bank || s.fbit F.SLUICE_CTRL_SWAP_PEND n

/-- A write of SLUICE_CTRL (R372). -/
def State.sluiceCtrlWrite (s : State) (fn n v : Nat) : State :=
  let at' := sluiceAddr n 0x40
  let s1 := if ¬ bitAt v 8 then s
    else if s.fbit F.SLUICE_CTRL_SWAP_PEND n then s.logErr T.sluice n 5 fn at' v
    else if ¬ s.bankOk n (1 - s.gclActive n) then s.raise T.sluice n I.SLUICE_SWAP_REFUSED
    else
      let sec := s.nowUnits / unitSec
      (s.upPort n fun x => { x with swapSec := sec / 2 ^ 32 * 2 ^ 32 + s.fget F.SLUICE_SWAP_TIME_SEC n }).fset F.SLUICE_CTRL_SWAP_PEND n 1
  let mode := s.fbit F.SLUICE_CTRL_MODE n
  let s2 := if bitAt v 0 then
      if mode then s1
      else if s.bankOk n (s.gclActive n) then (s1.upPort n fun x => { x with modeAt := s.nowUnits }).fset F.SLUICE_CTRL_MODE n 1
      else s1.logErr T.sluice n 5 fn at' v
    else ((s1.fset F.SLUICE_CTRL_MODE n 0).fset F.SLUICE_STAT_IN_GCL n 0).fset F.SLUICE_STAT_ENTRY n 0
  s2.strictUpdate

/-- GATE_WINDOW_START (R370, R372): at a cycle start a pending swap or MODE = 1 takes effect; the entry of the time is current. -/
def execGateWindowStart (port now : Nat) (s : State) : Res :=
  let s0 := s.clock now
  let t := s0.nowUnits
  let b := s0.gclActive port
  let s1 := if s0.fbit F.SLUICE_CTRL_SWAP_PEND port ∧ s0.cycleStart port (1 - b) t ∧ (s0.port port).swapSec * unitSec ≤ t
    then ((s0.fset F.SLUICE_CTRL_SWAP_PEND port 0).fset F.SLUICE_CTRL_ACTIVE port (1 - b)).raise T.sluice port I.SLUICE_SWAP_DONE else s0
  let s2 := if s1.fbit F.SLUICE_CTRL_MODE port ∧ ¬ s1.inGcl port ∧ s1.cycleStart port (s1.gclActive port) t ∧ (s1.port port).modeAt < t
    then s1.fset F.SLUICE_STAT_IN_GCL port 1 else s1
  let s3 := if s2.inGcl port
    then (s2.fset F.SLUICE_STAT_ENTRY port (s2.gclAt port t).1).upPort port fun x => { x with deferred := [] } else s2
  .next s3.strictUpdate

/-- An access to SLUICE_GCL_DATA moves WORD on, and ENTRY when WORD returns to 0. -/
def State.gclAdvance (s : State) (n : Nat) : State :=
  let w := s.fget F.SLUICE_GCL_SEL_WORD n
  if w = 0 then s.fset F.SLUICE_GCL_SEL_WORD n 1
  else (s.fset F.SLUICE_GCL_SEL_WORD n 0).fset F.SLUICE_GCL_SEL_ENTRY n ((s.fget F.SLUICE_GCL_SEL_ENTRY n + 1) % 256)

/-- The word that SLUICE_GCL_SEL names. -/
def State.gclRead (s : State) (n : Nat) : Nat :=
  s.gclWord n (s.fget F.SLUICE_GCL_SEL_BANK n) (s.fget F.SLUICE_GCL_SEL_ENTRY n) (s.fget F.SLUICE_GCL_SEL_WORD n)

/-- A write of SLUICE_GCL_DATA. -/
def State.gclWrite (s : State) (fn n v : Nat) : State :=
  let b := s.fget F.SLUICE_GCL_SEL_BANK n
  let key := (b * 256 + s.fget F.SLUICE_GCL_SEL_ENTRY n) * 2 + s.fget F.SLUICE_GCL_SEL_WORD n
  let s1 := if s.bankHeld n b then s.logErr T.sluice n 5 fn (sluiceAddr n 0x74) v
    else s.upPort n fun x => { x with gcl := Tab.set (fun _ => 0) x.gcl key (v % 2 ^ 24) }
  s1.gclAdvance n

/-! ## The management MAC (R378 to R381, R393, R394) -/

/-- The address of a register of the MGMAC page. -/
def mgAddr (off : Nat) : Nat := regAddr T.mgmac 0 off

/-- Is a setting of IF, SPEED, FD and PLCA_EN in the table of R378? IF = 0 is off. -/
def mgModeOk (if' speed fd plca : Nat) : Bool :=
  if if' = 0 then plca == 0 && speed != 3
  else if if' = 1 then speed != 3 && fd == 1 && plca == 0
  else if if' = 2 then (if plca = 1 then speed == 0 && fd == 0 else decide (speed < 2)) else false

/-- Frames wait in the transmit ring: the one at HEAD is being sent unless it backs off. -/
def State.mgBusy (s : State) : State :=
  let work := s.fget F.MG_TX_HEAD_HEAD 0 != s.fget F.MG_TX_TAIL_TAIL 0 && s.fbit F.MG_CTRL_TX_EN 0 && s.fget F.MG_CTRL_IF 0 != 0
  s.fset F.MG_STAT_TX_BUSY 0 (b2n (work && s.mg.backoff.isNone))

/-- A write of MG_CTRL (R378, R394). TX_BUSY follows TX_EN and IF. -/
def State.mgCtrlWrite (s : State) (fn v : Nat) : State :=
  let new := (bitField v 0 2, bitField v 4 2, bitField v 8 1, bitField v 12 1)
  let old := (s.fget F.MG_CTRL_IF 0, s.fget F.MG_CTRL_SPEED 0, s.fget F.MG_CTRL_FD 0, s.fget F.MG_CTRL_PLCA_EN 0)
  let on := s.fbit F.MG_CTRL_TX_EN 0 || s.fbit F.MG_CTRL_RX_EN 0
  if ¬ mgModeOk new.1 new.2.1 new.2.2.1 new.2.2.2 ∨ (on ∧ new ≠ old) then s.logErr T.mgmac 0 5 fn (mgAddr 0x40) v
  else
    let s1 := s.wr T.mgmac 0 0x40 (v &&& 0x31333)
    (if new.2.2.2 = 0 then s1.fset F.MG_STAT_PLCA_ACTIVE 0 0 else s1).mgBusy

/-- A write of MG_PLCA (R380): NODE_ID 255 disables PLCA. -/
def State.mgPlcaWrite (s : State) (v : Nat) : State :=
  let s1 := s.wr T.mgmac 0 0x48 v
  if v % 256 = 255 then s1.fset F.MG_STAT_PLCA_ACTIVE 0 0 else s1

/-- Does the MAC run CSMA/CD (R379): MII at half duplex, and no PLCA in effect (R380)? -/
def State.mgCsma (s : State) : Bool :=
  s.fget F.MG_CTRL_IF 0 == 2 && !s.fbit F.MG_CTRL_FD 0 && !(s.fbit F.MG_CTRL_PLCA_EN 0 && s.fbit F.MG_STAT_PLCA_ACTIVE 0)

/-- The descriptor of a ring at an index. Marks: DEDUCED unsafe (log entry 176). -/
def State.mgDesc (s : State) (tx : Bool) (i : Nat) : Nat :=
  (if tx then s.fget F.MG_TXR_HI_BASE_HI 0 * 2 ^ 32 + s.fget F.MG_TXR_LO_BASE_LO 0 * 4096
   else s.fget F.MG_RXR_HI_BASE_HI 0 * 2 ^ 32 + s.fget F.MG_RXR_LO_BASE_LO 0 * 4096) + 16 * i

/-- The descriptor at the transmit HEAD completes: STATUS with DONE is written before HEAD moves. Marks: DEDUCED unsafe (log entry 176). -/
def State.mgTxDone (s : State) (status : Nat) : State :=
  let i := s.fget F.MG_TX_HEAD_HEAD 0
  let s1 := (s.emit (.dmaWrite 0 (s.mgDesc true i + 10) (leBytes 2 (0x8000 + status)))).fset F.MG_TX_HEAD_HEAD 0 ((i + 1) % max 1 (s.fget F.MG_TXR_SIZE_SIZE 0))
  let s2 : State := { s1 with mg := {} }
  let s3 := s2.mgBusy.raise T.mgmac 0 I.MGMAC_TX_DONE
  if status = 0 then s3.finc F.MG_TX_FRAMES_COUNT 0 else s3.raise T.mgmac 0 I.MGMAC_ERR

/-- MG_TX_COMPLETE (R381): the descriptor and the frame it names, as read from the host (none where the read failed). A LENGTH outside 14 to
1,518 has no stated effect: its status is a free value. -/
def execMgTxComplete (desc frame : Option (List Byte)) (s : State) : Res :=
  if ¬ s.fbit F.MG_CTRL_TX_EN 0 ∨ s.fget F.MG_CTRL_IF 0 = 0 ∨ s.fget F.MG_TX_HEAD_HEAD 0 = s.fget F.MG_TX_TAIL_TAIL 0 ∨ s.mg.backoff.isSome then .next s
  else match desc, frame with
  | some d, some f =>
    let len := leAt d 8 2
    if len < 14 ∨ 1518 < len then
      let r := s.takeFree
      let st := r.1.toNat % 5
      .next ((if st = 0 then r.2.emit (.mgFrameOut (padded f ++ fcsOf (padded f))) else r.2).mgTxDone st)
    else
      let p := padded (f.take len)
      .next ((s.emit (.mgFrameOut (p ++ fcsOf p))).mgTxDone 0)
  | _, _ => .next (s.mgTxDone 4)

/-- Is a frame for this MAC (R378)? -/
def State.mgAccepts (s : State) (data : List Byte) : Bool :=
  s.fbit F.MG_CTRL_PROMISC 0 || leAt data 0 1 % 2 == 1 ||
    data.take 6 == beBytes 2 (s.fget F.MG_ADDR_HI_OCTETS0_1 0) ++ beBytes 4 (s.fget F.MG_ADDR_LO_OCTETS2_5 0)

/-- MG_FRAME_RECEIVE (R378, R381): `desc` is the receive descriptor at HEAD, `written` whether the host took the write of the frame. -/
def execMgFrameReceive (data : List Byte) (fcsBad : Bool) (desc : Option (List Byte)) (written : Bool) (s : State) : Res :=
  if ¬ s.fbit F.MG_CTRL_RX_EN 0 ∨ s.fget F.MG_CTRL_IF 0 = 0 then .next s
  else if fcsBad then .next (s.finc F.MG_RX_ERR_COUNT 0)
  else if ¬ s.mgAccepts data then .next s
  else
    let i := s.fget F.MG_RX_HEAD_HEAD 0
    if i = s.fget F.MG_RX_TAIL_TAIL 0 then .next (s.finc F.MG_RX_ERR_COUNT 0)
    else
      let st := match desc with
        | none => 4
        | some _ => if ¬ written then 4 else if 2048 < data.length then 3 else 0
      let body := data.take 2048
      let s1 := match desc with
        | some d => if written then s.emit (.dmaWrite 0 (leAt d 0 8) body) else s
        | none => s
      let s2 := (s1.emit (.dmaWrite 0 (s.mgDesc false i + 8) (leBytes 2 body.length ++ leBytes 2 (0x8000 + st)))).fset F.MG_RX_HEAD_HEAD 0 ((i + 1) % max 1 (s.fget F.MG_RXR_SIZE_SIZE 0))
      let s3 := (s2.finc F.MG_RX_FRAMES_COUNT 0).raise T.mgmac 0 I.MGMAC_RX_DONE
      .next (if st = 0 then s3 else s3.raise T.mgmac 0 I.MGMAC_ERR)

/-- MG_COLLISION (R379): half duplex, while a frame is being sent. -/
def execMgCollision (late : Bool) (draw : Nat) (s : State) : Res :=
  if s.fbit F.MG_CTRL_FD 0 ∨ s.fget F.MG_CTRL_IF 0 ≠ 2 ∨ ¬ s.fbit F.MG_STAT_TX_BUSY 0 then .next s
  else
    let s1 := s.finc F.MG_COLL_COUNT 0
    let n := s.mg.attempt + 1
    if late then .next ((s1.finc F.MG_LATE_COUNT 0).mgTxDone 2)
    else if 16 ≤ n then .next ((s1.finc F.MG_EXCESS_COUNT 0).mgTxDone 1)
    else .next ({ s1 with mg := ⟨n, some (draw % 2 ^ min n 10)⟩ } : State).mgBusy

/-- MG_BACKOFF_EXPIRE (R379). -/
def execMgBackoffExpire (s : State) : Res :=
  .next (if s.mg.backoff.isSome then ({ s with mg := { s.mg with backoff := none } } : State).mgBusy else s)

/-- MG_PLCA_BEACON (R380): a BEACON is seen; the coordinator, NODE_ID 0, sends it. -/
def execMgPlcaBeacon (s : State) : Res :=
  let id := s.fget F.MG_PLCA_NODE_ID 0
  .next (if s.fbit F.MG_CTRL_PLCA_EN 0 ∧ id ≠ 255 then (if id = 0 then s.emit .mgBeacon else s).fset F.MG_STAT_PLCA_ACTIVE 0 1 else s)

/-- MG_PLCA_TIMEOUT (R380). -/
def execMgPlcaTimeout (s : State) : Res := .next (s.fset F.MG_STAT_PLCA_ACTIVE 0 0)

/-- A write of MG_MDIO (R394): GO starts a frame. -/
def State.mdioWrite (s : State) (fn v : Nat) : State :=
  if s.fbit F.MG_MDIO_GO 0 ∨ ¬ (bitField v 26 2 = 1 ∨ bitField v 26 2 = 2) then s.logErr T.mgmac 0 5 fn (mgAddr 0x90) v
  else s.wr T.mgmac 0 0x90 (v &&& 0x8FFFFFFF)

/-- MDIO_DONE (R394): `data` is what a read returned. -/
def execMdioDone (data : Nat) (s : State) : Res :=
  if ¬ s.fbit F.MG_MDIO_GO 0 then .next s
  else
    let s1 := s.fset F.MG_MDIO_GO 0 0
    .next ((if s.fget F.MG_MDIO_OP 0 = 2 then s1.fset F.MG_MDIO_DATA 0 data else s1).raise T.mgmac 0 I.MGMAC_MDIO_DONE)

/-! ## BULK_SEND (R376, R377) -/

/-- Replaces the bytes at an offset. -/
def patch (l : List Byte) (o : Nat) (b : List Byte) : List Byte := l.take o ++ b ++ l.drop (o + b.length)

/-- The headers of a frame: where the IP header and the TCP or UDP header begin, IPv4, and TCP; none for another form. IPv4 has no options and
IPv6 no extension header. -/
structure Heads where
  ip : Nat
  l4 : Nat
  v4 : Bool
  tcp : Bool

/-- The form of a template (R377). -/
def headsOf (d : List Byte) : Option Heads :=
  let o := if beAt d 12 2 = 0x8100 then 18 else 14
  let et := beAt d (o - 2) 2
  let ip := d.drop o
  let mk (l4 pr : Nat) (v4 : Bool) : Option Heads :=
    if pr = 6 ∧ l4 + 20 ≤ d.length then some ⟨o, l4, v4, true⟩
    else if pr = 17 ∧ l4 + 8 ≤ d.length then some ⟨o, l4, v4, false⟩ else none
  if et = 0x0800 ∧ leAt ip 0 1 = 0x45 then mk (o + 20) (leAt ip 9 1) true
  else if et = 0x86DD ∧ leAt ip 0 1 / 16 = 6 then mk (o + 40) (leAt ip 6 1) false else none

/-- Computes an IPv4 header checksum over n bytes of header. -/
def ipSum (d : List Byte) (ip n : Nat) : List Byte :=
  let z := patch d (ip + 10) (beBytes 2 0)
  patch z (ip + 10) (beBytes 2 (csum (sum16 (sub z ip n))))

/-- Computes the IPv4 header checksum and the TCP or UDP checksum of a frame. -/
def withSums (h : Heads) (d : List Byte) : List Byte :=
  let d1 := if h.v4 then ipSum d h.ip (h.l4 - h.ip) else d
  let at' := h.l4 + (if h.tcp then 16 else 6)
  let z := patch d1 at' (beBytes 2 0)
  let seg := z.drop h.l4
  let addrs := if h.v4 then sub z (h.ip + 12) 8 else sub z (h.ip + 8) 32
  let c := csum (sum16 addrs + (if h.tcp then 6 else 17) + seg.length + sum16 seg)
  patch z at' (beBytes 2 (if c = 0 ∧ ¬ h.tcp then 65535 else c))

/-- The extension headers of an IPv6 frame up to TCP or UDP: the offset and the protocol found there. -/
def v6Walk (d : List Byte) : Nat → Nat → Nat → Nat × Nat
  | 0, o, pr => (o, pr)
  | fuel + 1, o, pr => if pr = 0 ∨ pr = 43 ∨ pr = 60 then v6Walk d fuel (o + 8 + 8 * leAt d (o + 1) 1) (leAt d o 1) else (o, pr)

/-- The checksums of a frame sent whole (R376): the IPv4 header checksum, options and all, and that of TCP or UDP where the frame carries one. -/
def sumFrame (d : List Byte) : List Byte :=
  let o := if beAt d 12 2 = 0x8100 then 18 else 14
  let et := beAt d (o - 2) 2
  let l4 (at' pr : Nat) (v4 : Bool) : Option Heads :=
    if pr = 6 ∧ at' + 20 ≤ d.length then some ⟨o, at', v4, true⟩ else if pr = 17 ∧ at' + 8 ≤ d.length then some ⟨o, at', v4, false⟩ else none
  if et = 0x0800 ∧ leAt d o 1 / 16 = 4 ∧ 5 ≤ leAt d o 1 % 16 then
    let n := 4 * (leAt d o 1 % 16)
    match (if beAt d (o + 6) 2 % 0x4000 = 0 then l4 (o + n) (leAt d (o + 9) 1) true else none) with
    | some h => withSums h d
    | none => if o + n ≤ d.length then ipSum d o n else d
  else if et = 0x86DD ∧ leAt d o 1 / 16 = 6 then
    let w := v6Walk d 8 (o + 40) (leAt d (o + 6) 1)
    match l4 w.1 w.2 false with
    | some h => withSums h d
    | none => d
  else d

/-- Segment i of a payload (R377). -/
def segment (h : Heads) (t payload : List Byte) (mss i : Nat) : List Byte :=
  let body := sub payload (i * mss) mss
  let last := decide (payload.length ≤ (i + 1) * mss)
  let l4len := t.length - h.l4 + body.length
  let t1 := if h.v4 then patch (patch t (h.ip + 2) (beBytes 2 (20 + l4len))) (h.ip + 4) (beBytes 2 ((beAt t (h.ip + 4) 2 + i) % 65536))
    else patch t (h.ip + 4) (beBytes 2 l4len)
  let t2 := if h.tcp then
      let fl := leAt t (h.l4 + 13) 1
      let fl1 := if last then fl else fl &&& 0xF6
      let fl2 := if i = 0 then fl1 else fl1 &&& 0x7F
      patch (patch t1 (h.l4 + 4) (beBytes 4 ((beAt t (h.l4 + 4) 4 + i * mss) % 2 ^ 32))) (h.l4 + 13) (leBytes 1 fl2)
    else patch t1 (h.l4 + 4) (beBytes 2 l4len)
  withSums h (t2 ++ body)

/-- Can a queue take an item of n bytes from a half now, under LIMIT and its pool (R376)? -/
def State.canTake (s : State) (id half n : Nat) : Bool :=
  let q := s.queue id
  let k := cellsOf (qKind s.fuse id) n
  decide (q.limit = 0 ∨ q.cells + k ≤ q.limit) && decide (s.poolUsed (s.poolKey id half) + k ≤ s.poolSize (s.poolKey id half))

/-- Appends the frames that the queue can take, and says how many. Marks: DEDUCED unsafe (log entry 177). -/
def State.bulkAppend (s : State) (id half tag : Nat) : List (List Byte) → Nat → State × Nat
  | [], n => (s, n)
  | f :: l, n =>
    if s.canTake id half f.length then ((s.qAppend id half { id := 0, tag := tag, data := f } none).1).bulkAppend id half tag l (n + 1) else (s, n)

/-- The frames of a BULK_SEND, or the status that refuses it. -/
def bulkFrames (c : VCmd) (template payload : List Byte) : Nat × List (List Byte) :=
  let seg := bitAt (c.w 2) 8
  let t := template.take (bitField (c.w 2) 16 7)
  let pl := payload.take c.len
  let mss := c.w 3 % 2048
  if seg then
    if bitAt (c.w 4) 8 ∨ t.length < 42 ∨ 126 < t.length ∨ mss < 64 ∨ 1664 < mss + t.length ∨ pl.length = 0 ∨ 262144 < pl.length then (6, [])
    else match headsOf t with
    | none => (6, [])
    | some h =>
      if t.length ≠ h.l4 + (if h.tcp then 4 * (leAt t (h.l4 + 12) 1 / 16) else 8) ∨ 4096 < ceilDiv pl.length mss then (6, [])
      else (0, (List.range (ceilDiv pl.length mss)).map (segment h t pl mss))
  else if 1664 < t.length + pl.length then (6, [])
  else
    let f := t ++ pl
    (0, [if bitAt (c.w 2) 9 then sumFrame f else f])

/-- BULK_SEND (R376, R377): as many frames as the queue takes are appended; with some left the command waits, and the row runs it again. -/
def execBulkSend (p ring tag : Nat) (template payload : Option (List Byte)) (s : State) : Res :=
  match s.findCmd p ring tag with
  | none => .next s
  | some c =>
    if c.opcode ≠ 0x29 ∨ ¬ (c.started || s.ready c 0) then .next s
    else
      let port := c.w 2 % 16
      let prio := bitField (c.w 2) 4 3
      let pre := s.preChecks c (zeroBad c false [m32, m32, 0x7F037F, 0x7FF, 0x1FF])
      let reads := match template, payload with
        | some t, some d => some (bulkFrames c t d)
        | _, _ => none
      let own : List (Bool × Nat) := [(prio != s.fget F.MAC_BULK_PRIO port, 6),
        (match reads with | some r => r.1 | none => 0) |> fun st => (st != 0, st)]
      .next (checked c ((if c.started then [] else pre ++ own) ++ [(reads.isNone, 0xA)])
        (fun t =>
          let frames := (match reads with | some r => r.2 | none => []).drop c.progress
          let r := t.bulkAppend (qTail port p prio) 0 (c.w 4 % 512) frames 0
          let done := c.progress + r.2
          if frames.length ≤ r.2 then r.1.complete c 0 0 0 done
          else r.1.setCmds (r.1.vk.cmds.map fun x => if x.order = c.order then { x with started := true, progress := done } else x)) s)

end Sys2Proof.Machine
end

