-- ==== Sys2Proof/Machine/Inflate.lean ====
section
/-!
DEFINITION. DEFLATE decompression as the Press does it (R529, R532, R537): RFC 1951 with the zlib and gzip wrappers, in small steps that may
stop for want of input or of output space and go on later.
-/

namespace Sys2Proof.Machine

/-! ## Checks (R532) -/

/-- CRC-32 of bytes, going on from a value. Marks: PRESUMED safe (log entry 155). -/
def crc32On (c : Nat) (l : List Byte) : Nat :=
  (l.foldl (fun c b => (List.range 8).foldl (fun x _ => if x % 2 = 1 then (x / 2) ^^^ 0xEDB88320 else x / 2) (c ^^^ b.toNat)) (c ^^^ 0xFFFFFFFF)) ^^^ 0xFFFFFFFF

/-- Adler-32 of bytes, going on from a value. Marks: PRESUMED safe (log entry 155). -/
def adler32On (c : Nat) (l : List Byte) : Nat :=
  let r := l.foldl (fun (p : Nat × Nat) b => ((p.1 + b.toNat) % 65521, (p.2 + p.1 + b.toNat) % 65521)) (c % 65536, c / 65536)
  r.2 * 65536 + r.1

/-- The check a job computes: Adler-32 for zlib, CRC-32 for gzip, and for raw DEFLATE the one that CKTYPE names. -/
def isAdler (fmt cktype : Nat) : Bool := fmt == 1 || (fmt == 0 && cktype == 1)

/-- The running check after more bytes. -/
def checkOn (adler : Bool) (c : Nat) (l : List Byte) : Nat := if adler then adler32On c l else crc32On c l

/-! ## Bits and codes -/

/-- The bits of bytes, the least significant bit of each first. -/
def bitsOf (l : List Byte) : List Bool := l.flatMap fun b => (List.range 8).map fun i => bitAt b.toNat i

/-- The value of n bits, the first the least significant; none where there are fewer. -/
def takeBits : Nat → List Bool → Option (Nat × List Bool)
  | 0, l => some (0, l)
  | _ + 1, [] => none
  | n + 1, b :: l => (takeBits n l).map fun r => (b2n b + 2 * r.1, r.2)

/-- The first code of each length (RFC 1951, 3.2.2). -/
def codeStart (lens : List Nat) : Nat → Nat
  | 0 => 0
  | b + 1 => 2 * (codeStart lens b + (if b = 0 then 0 else (lens.filter fun x => x == b).length))

/-- The codes of a list of lengths: length, code, symbol. -/
def codesOf (lens : List Nat) : List (Nat × Nat × Nat) :=
  ((List.range lens.length).filter fun i => lens.getD i 0 != 0).map fun i =>
    let n := lens.getD i 0
    (n, codeStart lens n + ((lens.take i).filter fun x => x == n).length, i)

/-- Do lengths give a code: not over-subscribed, and complete but for a code of one symbol of one bit, or none? -/
def codeOk (lens : List Nat) : Bool :=
  let sum := lens.foldl (fun a n => a + (if n = 0 then 0 else 2 ^ (15 - n))) 0
  sum == 2 ^ 15 || (lens.filter fun n => n != 0) == [1] || (lens.all fun n => n == 0)

/-- Reads a symbol: none for want of bits, `some none` for a code that no symbol has. -/
def readSym (t : List (Nat × Nat × Nat)) : Nat → Nat → Nat → List Bool → Option (Option (Nat × List Bool))
  | 0, _, _, _ => some none
  | _ + 1, _, _, [] => none
  | fuel + 1, len, code, b :: l =>
    let c := 2 * code + b2n b
    match t.find? fun e => e.1 == len + 1 && e.2.1 == c with
    | some e => some (some (e.2.2, l))
    | none => readSym t fuel (len + 1) c l

/-- The codes of a fixed block. -/
def fixedLit : List (Nat × Nat × Nat) := codesOf (List.replicate 144 8 ++ List.replicate 112 9 ++ List.replicate 24 7 ++ List.replicate 8 8)
def fixedDist : List (Nat × Nat × Nat) := codesOf (List.replicate 32 5)

/-- Extra bits and base of length symbol 257 + i and of distance symbol i. -/
def lenExtra (i : Nat) : Nat := if i < 8 ∨ i = 28 then 0 else (i - 4) / 4
def lenBase (i : Nat) : Nat := if i < 8 then i + 3 else if i = 28 then 258 else (4 + i % 4) * 2 ^ ((i - 4) / 4) + 3
def distExtra (i : Nat) : Nat := if i < 4 then 0 else (i - 2) / 2
def distBase (i : Nat) : Nat := if i < 4 then i + 1 else (2 + i % 2) * 2 ^ ((i - 2) / 2) + 1

/-- What reading a part of a header comes to. -/
inductive Part (α : Type) where
  | ok (x : α) | need | bad | unsup

/-- The code lengths of a dynamic block, n of them, by the code of code lengths. -/
def readLens (t : List (Nat × Nat × Nat)) (n : Nat) : Nat → List Nat → List Bool → Part (List Nat × List Bool)
  | 0, _, _ => .bad
  | fuel + 1, acc, l =>
    if n ≤ acc.length then (if acc.length = n then .ok (acc, l) else .bad)
    else match readSym t 16 0 0 l with
    | none => .need
    | some none => .bad
    | some (some (s, l1)) =>
      if s < 16 then readLens t n fuel (acc ++ [s]) l1
      else
        let ex := if s = 16 then 2 else if s = 17 then 3 else 7
        match takeBits ex l1 with
        | none => .need
        | some (v, l2) =>
          if s = 16 then
            (match acc.getLast? with
             | none => .bad
             | some x => readLens t n fuel (acc ++ List.replicate (v + 3) x) l2)
          else readLens t n fuel (acc ++ List.replicate (v + (if s = 17 then 3 else 11)) 0) l2

/-- The order in which code lengths of the code-length code come. -/
def clOrder : List Nat := [16, 17, 18, 0, 8, 7, 9, 6, 10, 5, 11, 4, 12, 3, 13, 2, 14, 1, 15]

/-- n three-bit lengths. -/
def take3 : Nat → List Bool → Option (List Nat × List Bool)
  | 0, l => some ([], l)
  | n + 1, l => match takeBits 3 l with
    | none => none
    | some (v, l1) => (take3 n l1).map fun r => (v :: r.1, r.2)

/-- The codes of a dynamic block (RFC 1951, 3.2.7). -/
def readDynamic (l : List Bool) : Part (List (Nat × Nat × Nat) × List (Nat × Nat × Nat) × List Bool) :=
  match takeBits 14 l with
  | none => .need
  | some (h, l1) =>
    let hlit := h % 32 + 257
    let hdist := h / 32 % 32 + 1
    let hclen := h / 1024 + 4
    if 286 < hlit ∨ 30 < hdist then .bad
    else match take3 hclen l1 with
    | none => .need
    | some (cl, l2) =>
      let cls := (List.range 19).map fun s => match clOrder.idxOf? s with
        | some k => cl.getD k 0
        | none => 0
      if ¬ codeOk cls then .bad
      else match readLens (codesOf cls) (hlit + hdist) 400 [] l2 with
      | .need => .need
      | .bad => .bad
      | .unsup => .unsup
      | .ok (ls, l3) =>
        let a := ls.take hlit
        let b := ls.drop hlit
        if a.getD 256 0 = 0 ∨ ¬ codeOk a ∨ ¬ codeOk b then .bad else .ok (codesOf a, codesOf b, l3)

/-! ## Wrappers (R529) -/

/-- Bytes of a list of whole-byte bits. -/
def bytesOfBits (l : List Bool) : List Byte :=
  (List.range (l.length / 8)).map fun k => BitVec.ofNat 8 (((takeBits 8 (l.drop (8 * k))).map (·.1)).getD 0)

/-- The length of a zero-ended string from an offset, its zero included. -/
def zstring (b : List Byte) (o : Nat) : Option Nat :=
  match (b.drop o).findIdx? fun x => x == 0 with
  | some i => some (o + i + 1)
  | none => none

/-- The length of a gzip header. -/
def gzipHeader (b : List Byte) : Part Nat :=
  if b.length < 10 then .need
  else if leAt b 0 2 ≠ 0x8B1F then .bad
  else if leAt b 2 1 ≠ 8 then .unsup
  else
    let f := leAt b 3 1
    if 32 ≤ f then .bad
    else
      let o1 := if bitAt f 2 then 12 + leAt b 10 2 else 10
      if b.length < o1 ∨ (bitAt f 2 ∧ b.length < 12) then .need
      else match (if bitAt f 3 then zstring b o1 else some o1) with
      | none => .need
      | some o2 => match (if bitAt f 4 then zstring b o2 else some o2) with
        | none => .need
        | some o3 =>
          if bitAt f 1 then
            (if b.length < o3 + 2 then .need else if leAt b o3 2 = crc32On 0 (b.take o3) % 65536 then .ok (o3 + 2) else .bad)
          else .ok o3

/-- The length of the header of a format. -/
def wrapHeader (fmt : Nat) (b : List Byte) : Part Nat :=
  if fmt = 0 then .ok 0
  else if fmt = 2 then gzipHeader b
  else if b.length < 2 then .need
  else if beAt b 0 2 % 31 ≠ 0 then .bad
  else if leAt b 0 1 % 16 ≠ 8 ∨ 7 < leAt b 0 1 / 16 ∨ bitAt (leAt b 1 1) 5 then .unsup
  else .ok 2

/-! ## The steps -/

/-- A decompression in progress: the engine state, the history and the output (newest byte first), and the room left. -/
structure Inf where
  e : Eng
  hist : List Byte
  out : List Byte
  room : Nat

/-- Where a decompression stops. -/
inductive InfStop where
  | need | full | done | data | unsup | check
  deriving DecidableEq, Repr

/-- Gives out one byte. -/
def Inf.put (x : Inf) (b : Byte) : Inf := { x with hist := b :: x.hist, out := b :: x.out, room := x.room - 1 }

/-- The check and length after what has been given out. -/
def Inf.sum (x : Inf) (adler : Bool) : Nat := checkOn adler x.e.check x.out.reverse

/-- One step: what comes next, or where it stops. `raw` gives CHECK_IN where CHECK_RAW asks for its comparison. -/
def Inf.step (adler : Bool) (raw : Option Nat) (x : Inf) : Inf × Option InfStop :=
  let e := x.e
  if e.copyLen ≠ 0 then
    if x.room = 0 then (x, some .full)
    else
      let y := x.put (x.hist.getD (e.copyDist - 1) 0)
      ({ y with e := { e with copyLen := e.copyLen - 1 } }, none)
  else match e.mode with
  | 0 =>
    match wrapHeader e.fmt (bytesOfBits e.bits) with
    | .ok n => ({ x with e := { e with mode := 1, bits := e.bits.drop (8 * n) } }, none)
    | .need => (x, some .need)
    | .bad => (x, some .data)
    | .unsup => (x, some .unsup)
  | 1 =>
    if e.fin then ({ x with e := { e with mode := 4, bits := e.bits.drop (e.bits.length % 8) } }, none)
    else match takeBits 3 e.bits with
    | none => (x, some .need)
    | some (v, l) =>
      let fin := v % 2 == 1
      match v / 2 with
      | 0 =>
        match takeBits 32 (l.drop (l.length % 8)) with
        | none => (x, some .need)
        | some (w, l1) =>
          if w % 65536 + w / 65536 ≠ 65535 then (x, some .data)
          else ({ x with e := { e with mode := 2, fin := fin, bits := l1, stored := w % 65536 } }, none)
      | 1 => ({ x with e := { e with mode := 3, fin := fin, bits := l, lit := fixedLit, dist := fixedDist } }, none)
      | 2 =>
        match readDynamic l with
        | .ok (a, b, l1) => ({ x with e := { e with mode := 3, fin := fin, bits := l1, lit := a, dist := b } }, none)
        | .need => (x, some .need)
        | _ => (x, some .data)
      | _ => (x, some .data)
  | 2 =>
    if e.stored = 0 then ({ x with e := { e with mode := 1 } }, none)
    else if x.room = 0 then (x, some .full)
    else match takeBits 8 e.bits with
    | none => (x, some .need)
    | some (v, l) =>
      let y := x.put (BitVec.ofNat 8 v)
      ({ y with e := { e with bits := l, stored := e.stored - 1 } }, none)
  | 3 =>
    match readSym e.lit 15 0 0 e.bits with
    | none => (x, some .need)
    | some none => (x, some .data)
    | some (some (s, l)) =>
      if s < 256 then
        if x.room = 0 then (x, some .full)
        else
          let y := x.put (BitVec.ofNat 8 s)
          ({ y with e := { e with bits := l } }, none)
      else if s = 256 then ({ x with e := { e with mode := 1, bits := l, lit := [], dist := [] } }, none)
      else if 285 < s then (x, some .data)
      else if x.room = 0 then (x, some .full)
      else match takeBits (lenExtra (s - 257)) l with
      | none => (x, some .need)
      | some (le, l1) =>
        match readSym e.dist 15 0 0 l1 with
        | none => (x, some .need)
        | some none => (x, some .data)
        | some (some (d, l2)) =>
          if 29 < d then (x, some .data)
          else match takeBits (distExtra d) l2 with
          | none => (x, some .need)
          | some (de, l3) =>
            let dist := distBase d + de
            if x.hist.length < dist then (x, some .data)
            else ({ x with e := { e with bits := l3, copyLen := lenBase (s - 257) + le, copyDist := dist } }, none)
  | _ =>
    let n := if e.fmt = 1 then 4 else if e.fmt = 2 then 8 else 0
    let b := bytesOfBits e.bits
    if b.length < n then (x, some .need)
    else
      let y := { x with e := { e with bits := e.bits.drop (8 * n) } }
      let sum := x.sum adler
      let ok := if e.fmt = 1 then beAt b 0 4 == sum
        else if e.fmt = 2 then leAt b 0 4 == sum && leAt b 4 4 == (e.total + x.out.length) % 2 ^ 32
        else match raw with | some v => v == sum | none => true
      (y, some (if ok then .done else .check))

/-- Runs to a stop. Marks: PRESUMED safe (log entry 155). -/
def Inf.run (adler : Bool) (raw : Option Nat) : Nat → Inf → Inf × InfStop
  | 0, x => (x, .need)
  | fuel + 1, x =>
    match x.step adler raw with
    | (y, some r) => (y, r)
    | (y, none) => y.run adler raw fuel

end Sys2Proof.Machine
end

