-- ==== Sys2Proof/Machine/Tide.lean ====
section
/-!
DEFINITION. Tide (R395 to R425): time and its ticks, turn marks, references, the servo with its jumps and authorised steps, holdover, pulse
outputs, capture inputs and the time-stamp window.
-/

namespace Sys2Proof.Machine

/-- Changes Tide's state. -/
def State.upTide (s : State) (f : TideSt → TideSt) : State := { s with tide := f s.tide }

/-- The address of a TIDE register. -/
def tideAddr (off : Nat) : Nat := regAddr T.tide 0 off

/-! ## Ticks (R60, R396, R397) -/

/-- What Tide time advances in 50 cycles of the Tide clock, in units of 2⁻⁴⁸ ns: 2 ns × (1 + adj) a cycle, with 48 fraction bits. -/
def tickStep (adj : Int) : Nat := 50 * (2 ^ 49 + (adj * 2 ^ 49).fdiv (1000000000 * 65536)).toNat

/-- A tick at a stone: the running work unit counts it unless the stone is halted (R170), and every outstanding far access (R62). -/
def Stone.tick (x : Stone) : Stone :=
  { x with ticks := if x.running.isSome && !x.halted then x.ticks + 1 else x.ticks, far := x.far.map fun f => { f with wait := f.wait + 1 } }

/-- A tick at a work unit: its prefetch counts it while it waits for memory (R62). -/
def WU.tick (w : WU) : WU :=
  match w.st with
  | .fetching _ => { w with wait := w.wait + 1 }
  | _ => w

/-- TICK (R60, R397): 50 cycles of the Tide clock. In a die whose tick lock runs (R70), every stage watchdog of a started handshake, every wait
watchdog, every lock being woken and every running work unit counts it (R61, R62, R95, R170), and TICK_LOSS ends. Marks: DEDUCED safe (log entry 61). -/
def execTick (s : State) : Res :=
  let t := s.tide.tick + tickStep s.tide.adj
  let s1 : State := { (s.upTide fun x => { x with tick := t }) with
    tideNow := max s.tideNow (t / 2 ^ 32)
    stones := s.stones.map fun e => (e.1, if s.tickRuns (e.1 / 640) then e.2.tick else e.2),
    sch := { s.sch with wus := s.sch.wus.map (fun e => (e.1, if s.tickRuns (e.2.stone / 640) then e.2.tick else e.2)),
                        early := s.sch.early.map (fun e => (e.1, if s.tickRuns (e.2.stone / 640) then e.2.tick else e.2)) } }
  .next { s1 with fab := { s1.fab with
    stages := s1.fab.stages.map (fun e => (e.1, if e.2.started && s.tickRuns (stageHalf e.1) then { e.2 with ticks := e.2.ticks + 1 } else e.2)),
    waiters := s1.fab.waiters.map (fun w => if s.timed w && s.tickRuns w.half then { w with ticks := w.ticks + 1 } else w),
    locks := s1.fab.locks.map (fun e => (e.1, if e.2.wake && s.tickRuns (e.1 / 32) then { e.2 with wakeTicks := e.2.wakeTicks + 1 } else e.2)),
    tickLost0 := s1.fab.tickLost0 && !s.tickRuns 0, tickLost1 := s1.fab.tickLost1 && !s.tickRuns 1 } }

/-! ## Turn marks (R160 to R162, R397) -/

/-- The mark after one at a time: 1 ms later, moved by at most 1 µs towards a multiple of 1 ms (R161). -/
def markAfter (t : Int) : Int :=
  let ms : Int := 1000000 * Int.ofNat unitNs
  let us : Int := 1000 * Int.ofNat unitNs
  let ideal := t + ms
  let off := (ideal + ms / 2).fdiv ms * ms - ideal
  ideal + (if us < off then us else if off < -us then -us else off)

/-- Tide emits a mark: its turn count goes on, or is loaded at the first mark with time valid, and both Millers are sent it. Before the load it counts from
0. Marks: DESIGN CHOICE unsafe (log entry 372). -/
def State.emitMark (s : State) : State :=
  let t := s.tide.nextMark
  let load := s.fbit F.TIDE_STAT_TIME_VALID 0 && !s.tide.loaded
  let n := if load then t / (1000000 * unitNs) else s.tide.turns + 1
  let s1 := (s.clock t).upTide fun x => { x with turns := n, loaded := x.loaded || load, lastMark := Int.ofNat t, nextMark := (markAfter (Int.ofNat t)).toNat }
  [0, 1].foldl (fun u h => u.setMiller h { u.miller h with marks := (u.miller h).marks ++ [(n % 65536, t)] }) s1

/-- TIDE_TURN_MARK (R397): Tide time reaches the next mark. A pending step whose instant comes first is taken first. -/
def execTideTurnMark (s : State) : Res :=
  .next (if s.fbit F.TIDE_STAT_STEP_PEND 0 ∧ s.tide.stepAt < s.tide.nextMark then s else s.emitMark)

/-! ## Frequency and states (R408, R409) -/

/-- A frequency in units of 10⁻¹², as TIDE_FREQ and TIDE_HOFREQ read (R422). Marks: DESIGN CHOICE safe (log entry 60). -/
def freqBits (adj : Int) : Nat := toBits 32 (roundDiv (adj * 1000) 65536)

/-- The state of Tide (R409). -/
def State.tideState (s : State) : Nat := s.fget F.TIDE_STAT_STATE 0

/-- The mean of adj over the last 60 s, or since LOCKED was entered. Marks: DESIGN CHOICE safe (log entry 60). -/
def State.meanAdj (s : State) : Int :=
  let now := s.nowUnits
  let lo := max s.tide.lockedAt (now - 60 * unitSec)
  if now ≤ lo then s.tide.adj
  else
    let r := s.tide.history.foldr
      (fun e (acc : Int × Nat) =>
        let a := max e.1 lo
        if a < acc.2 then (acc.1 + e.2 * Int.ofNat (acc.2 - a), a) else acc) (0, now)
    roundDiv r.1 (Int.ofNat (now - lo))

/-- HOFREQ (R409). -/
def State.hofreq (s : State) : Int := if s.tideState = 2 then s.meanAdj else s.tide.hofreq.getD s.tide.adj

/-- A value held to limits. -/
def clampI (x m : Int) : Int := if x < -m then -m else if m < x then m else x

/-- Sets adj, which never exceeds MAXADJ (R396). -/
def State.setAdj (s : State) (want : Int) : State :=
  let adj := clampI want (Int.ofNat (s.fget F.TIDE_MAXADJ_MAXADJ 0) * 65536)
  let now := s.nowUnits
  let s1 := (s.upTide fun x => { x with adj := adj }).fset F.TIDE_FREQ_ADJ 0 (freqBits adj)
  if s.tideState = 2 then s1.upTide fun x => { x with history := x.history ++ [(now, adj)] } else s1

/-- The first second boundary after a time. -/
def nextSecond (t : Nat) : Nat := (t / unitSec + 1) * unitSec

/-- Whole seconds in the current or the last holdover (R413). -/
def State.hoTime (s : State) : Nat :=
  if s.tideState = 3 then min ((s.nowUnits - s.tide.hoStart) / unitSec) 0xFFFFFF else s.fget F.TIDE_HO_TIME_SEC 0

/-- Tide enters a state (R409): leaving LOCKED keeps the mean, entering LOCKED ends the expiry of a holdover (R414), and entering HOLDOVER sets
adj to HOFREQ. -/
def State.enterTide (s : State) (st : Nat) : State :=
  let prev := s.tideState
  if st = prev then s
  else
    let s1 := if prev = 2 then s.upTide fun x => { x with hofreq := some s.meanAdj } else s
    let s2 := (s1.fset F.TIDE_HO_TIME_SEC 0 s.hoTime).fset F.TIDE_STAT_STATE 0 st
    if st = 2 then
      let now := s.nowUnits
      let began := match s.tide.squelchAt with | some t => decide (t ≤ now) | none => false
      (((s2.upTide fun x => { x with lockedAt := now, history := [(now, x.adj)], squelchAt := none, resumeAt := if began then nextSecond now else 0 }).fset
        F.TIDE_STAT_HO_EXPIRED 0 0)).raise T.tide 0 I.TIDE_LOCKED
    else if st = 3 then
      let s3 := (s2.upTide fun x => { x with hoStart := s.nowUnits, inLock := 0 }).fset F.TIDE_HO_TIME_SEC 0 0
      (s3.setAdj s3.hofreq).raise T.tide 0 I.TIDE_HOLDOVER
    else s2

/-! ## Sources (R407) -/

/-- SRC_USED follows the sources that are not lost; with none in ACQUIRING or LOCKED, Tide is in HOLDOVER. -/
def State.updateSrc (s : State) : State :=
  let on (c : Nat) : Bool := c != 0 && s.tide.alive.any fun e => e.1 == c
  let a := s.fget F.TIDE_CTRL_SRC 0
  let b := s.fget F.TIDE_CTRL_SRC2 0
  let used := if on a then a else if on b then b else 0
  let s1 := if used = s.fget F.TIDE_STAT_SRC_USED 0 then s else (s.fset F.TIDE_STAT_SRC_USED 0 used).raise T.tide 0 I.TIDE_SRC_SWITCH
  if used = 0 ∧ (s1.tideState = 1 ∨ s1.tideState = 2) then s1.enterTide 3 else s1

/-- SOURCE_LOSS (R407): a source has given no sample for SRC_TIMEOUT × 100 ms; the source none is always lost. -/
def execSourceLoss (src now : Nat) (s : State) : Res :=
  let s0 := s.clock now
  let late (t : Nat) : Bool := decide (t + s0.fget F.TIDE_CTRL_SRC_TIMEOUT 0 * 100000000 * unitNs ≤ s0.nowUnits)
  .next (s0.upTide fun x => { x with alive := x.alive.filter fun e => !(e.1 == src && late e.2) }).updateSrc

/-! ## The servo (R408, R410) -/

/-- θ in ns, rounded to the nearest (R410). Marks: DESIGN CHOICE safe (log entry 60). -/
def thetaNs (theta : Int) : Int := roundNear theta 65536

/-- What every refused sample does (R410). -/
def State.recordRefusal (s : State) (theta : Int) : State :=
  let n := thetaNs theta
  let v := clampI n (2 ^ 31 - 1)
  let v' := if n < -(2 ^ 31 - 1) then -(2 ^ 31) else v
  (((s.fset F.TIDE_STAT_JUMP_PEND 0 1).fset F.TIDE_JUMP_THETA 0 (toBits 32 v')).finc F.TIDE_COUNTS_REFUSED 0).raise T.tide 0 I.TIDE_JUMP_REFUSED

/-- A refused sample with no step pending: the step that would correct it is written, and Tide is in HOLDOVER at HOFREQ. -/
def State.refuseSample (s : State) (theta : Int) : State :=
  let n := thetaNs theta
  let s1 := ((s.recordRefusal theta).fset F.TIDE_STEP_SEC_SEC 0 (toBits 32 (n.tdiv 1000000000))).fset F.TIDE_STEP_NS_NS 0 (toBits 32 (n.tmod 1000000000))
  if s1.tideState = 3 then s1.setAdj s1.hofreq else s1.enterTide 3

/-- An applied sample (R408, R409); adj is held to 2⁻¹⁶ ppb. Marks: DESIGN CHOICE safe (log entry 60). -/
def State.applySample (s : State) (theta : Int) : State :=
  let mx := Int.ofNat (s.fget F.TIDE_MAXADJ_MAXADJ 0) * 2 ^ 24
  let integ := clampI (s.tide.integ + theta * Int.ofNat (s.fget F.TIDE_SERVO_KI 0)) mx
  let adj := roundDiv (clampI (integ + theta * Int.ofNat (s.fget F.TIDE_SERVO_KP 0)) mx) 256
  let near := decide (theta.natAbs ≤ s.fget F.TIDE_THRESH_LOCK 0 * unitNs)
  let n := if near then s.tide.inLock + 1 else 0
  let s1 := (s.upTide fun x => { x with integ := integ, inLock := n }).fset F.TIDE_STAT_JUMP_PEND 0 0
  let st := s.tideState
  let s2 := if st = 0 ∨ st = 3 ∨ (st = 2 ∧ ¬ near) then s1.enterTide 1 else s1
  let s3 := (s2.upTide fun x => { x with inLock := n }).setAdj adj
  if s3.tideState = 1 ∧ 16 ≤ n then s3.enterTide 2 else s3

/-- A sample of the source in use (R398, R408, R410, R411). -/
def State.servo (s : State) (theta : Int) : State :=
  if ¬ s.fbit F.TIDE_STAT_TIME_VALID 0 ∨ ¬ s.fbit F.TIDE_CTRL_SERVO_EN 0 then s
  else
    let far := decide (s.fget F.TIDE_THRESH_JUMP 0 * unitNs < theta.natAbs)
    if s.fbit F.TIDE_STAT_STEP_PEND 0 then (if far then s.recordRefusal theta else s)
    else if far then s.refuseSample theta else s.applySample theta

/-- A sample arrives from a source (R407): the primary's while it is not lost, otherwise the backup's. -/
def State.sample (s : State) (src : Nat) (theta : Int) : State :=
  if src ≠ s.fget F.TIDE_CTRL_SRC 0 ∧ src ≠ s.fget F.TIDE_CTRL_SRC2 0 then s
  else
    let s1 := (s.upTide fun x => { x with alive := (x.alive.filter fun e => e.1 != src) ++ [(src, s.nowUnits)] }).updateSrc
    if s1.fget F.TIDE_STAT_SRC_USED 0 = src then s1.servo theta else s1

/-- A write of TIDE_MAXADJ, already taken, holds adj and the integrator to the new limit (R396, R423). Marks: DEDUCED safe (log entry 361). -/
def State.maxAdjHeld (s : State) : State :=
  (s.upTide fun x => { x with integ := clampI x.integ (Int.ofNat (s.fget F.TIDE_MAXADJ_MAXADJ 0) * 2 ^ 24) }).setAdj s.tide.adj

/-- A write of TIDE_OFS_NS (R407). -/
def State.offsetWrite (s : State) (fn ns : Nat) : State :=
  if s.fget F.TIDE_CTRL_SRC 0 ≠ 1 ∧ s.fget F.TIDE_CTRL_SRC2 0 ≠ 1 then s.logErr T.tide 0 5 fn (tideAddr 0x64) ns
  else
    let theta := signedOf 32 ns * 65536 + Int.ofNat (s.fget F.TIDE_OFS_FRAC_FRAC 0)
    (s.fset F.TIDE_OFS_FRAC_FRAC 0 0).sample 1 theta

/-! ## Capture inputs (R406, R407) -/

/-- CAPTURE_EDGE (R406, R407): an edge at TS_IN `input` at Tide time `now`. Marks: DESIGN CHOICE safe (log entry 63). -/
def execCaptureEdge (input : Nat) (falling : Bool) (now : Nat) (s : State) : Res :=
  let s0 := s.clock now
  let edge := s0.fget F.TIDE_CAP_EDGE 0 input
  if 4 ≤ input ∨ ¬ s0.fbit F.TIDE_CAP_EN 0 input ∨ (edge = 0 ∧ falling) ∨ (edge = 1 ∧ ¬ falling) then .next s0
  else
    let c := Int.ofNat s0.nowUnits + signedOf 16 (s0.fget F.TIDE_CAP_ADJ 0 input) * 4096
    let s1 := s0.tsPush (16 + input) ⟨b2n falling, c.toNat⟩
    let last := Tab.get (fun _ => none) s0.tide.lastEdge input
    let soon := match last with | some t => decide (c < t + Int.ofNat unitSec / 2) | none => false
    if falling || soon then .next s1
    else
      let s2 := s1.upTide fun x => { x with lastEdge := Tab.set (fun _ => none) x.lastEdge input (some c) }
      let sec := Int.ofNat unitSec
      .next (s2.sample (2 + input) ((c + sec / 2).fdiv sec * sec - c))

/-! ## References (R400) -/

/-- REF_x_OK. -/
def State.refOk (s : State) (r : Nat) : Bool := if r = 0 then s.fbit F.TIDE_STAT_REF_A_OK 0 else s.fbit F.TIDE_STAT_REF_B_OK 0

/-- Sets REF_x_OK. -/
def State.setRefOk (s : State) (r : Nat) (b : Bool) : State := s.fset (if r = 0 then F.TIDE_STAT_REF_A_OK else F.TIDE_STAT_REF_B_OK) 0 (b2n b)

/-- REF_WINDOW_END (R400): `good` is what the window of 1 ms showed. -/
def execRefWindowEnd (ref : Nat) (good : Bool) (s : State) : Res := .next (if good ∧ ref < 2 then s.setRefOk ref true else s)

/-- REF_LOSS (R400): a loss is detected; where the reference is the selected one, the PLL moves or holds. -/
def execRefLoss (ref now : Nat) (s : State) : Res :=
  if 2 ≤ ref then .next s
  else
    let s1 := (s.clock now).setRefOk ref false
    if s1.fget F.TIDE_CTRL_REFSEL 0 ≠ ref then .next s1
    else if s1.fbit F.TIDE_CTRL_REF_AUTO 0 ∧ s1.refOk (1 - ref) then
      .next (((s1.fset F.TIDE_CTRL_REFSEL 0 (1 - ref)).upTide fun x => { x with follows := true }).raise T.tide 0 I.TIDE_REF_LOSS)
    else .next ((s1.upTide fun x => { x with follows := false }).raise T.tide 0 I.TIDE_REF_LOSS)

/-- A write of TIDE_CTRL (R420), the locked fields already kept: the PLL follows the reference that REFSEL names. -/
def State.tideCtrlWrite (s : State) (fn v : Nat) : State :=
  if 6 ≤ bitField v 1 3 ∨ 6 ≤ bitField v 4 3 ∨ bitField v 16 8 = 0 then s.logErr T.tide 0 5 fn (tideAddr 0x40) v
  else
    let s1 := s.wr T.tide 0 0x40 (v &&& 0xFFF37F)
    (s1.upTide fun x => { x with follows := s1.refOk (bitField v 8 1) }).updateSrc

/-! ## Pulse outputs (R412, R413, R415) -/

/-- The state of a pulse output. -/
def State.pulse (s : State) (k : Nat) : Pulse := Tab.get (fun _ => ({} : Pulse)) s.tide.pulses k

/-- Changes a pulse output. -/
def State.upPulse (s : State) (k : Nat) (f : Pulse → Pulse) : State :=
  s.upTide fun x => { x with pulses := Tab.set (fun _ => ({} : Pulse)) x.pulses k (f (s.pulse k)) }

/-- Is a time an edge time of an output (R415)? -/
def State.pulseDue (s : State) (k : Nat) (t : Int) : Bool :=
  let period := Int.ofNat (max 1 (s.fget F.TIDE_PULSE_PERIOD_NS 0 k)) * Int.ofNat unitNs
  decide (t.emod period = Int.ofNat (s.fget F.TIDE_PULSE_PHASE_NS 0 k) * Int.ofNat unitNs)

/-- Is an output squelched at a time (R413, R414)? -/
def State.squelched (s : State) (k : Nat) (t : Nat) : Bool :=
  s.fbit F.TIDE_PULSE_CTRL_SQ_EN 0 k && ((match s.tide.squelchAt with | some a => decide (a ≤ t) | none => false) || decide (t < s.tide.resumeAt))

/-- An edge that is not produced (R412). -/
def State.suppress (s : State) : State := (s.finc F.TIDE_COUNTS_SUPPRESSED 0).raise T.tide 0 I.TIDE_PULSE_SUPPRESSED

/-- An edge of an output at a time: its level under POL, and when it is at the ball, OUT_ADJ (in 1/16 ns) earlier (R415). -/
def State.pulseOut (s : State) (k : Nat) (active : Bool) (t : Int) : Out :=
  .pulse k (active != s.fbit F.TIDE_PULSE_CTRL_POL 0 k) (t - signedOf 16 (s.fget F.TIDE_PULSE_CTRL_OUT_ADJ 0 k) * 4096)

/-- An edge of an output that falls due at a time: squelched, suppressed under rule 3 of R412, or given. -/
def State.giveEdge (s : State) (k t : Nat) : State :=
  let x := s.pulse k
  let close := match x.off with | some o => decide (Int.ofNat t < o + 100 * Int.ofNat unitNs) | none => false
  if s.squelched k t then s
  else if x.active || close then s.suppress
  else (s.upPulse k fun y => { y with active := true, edge := Int.ofNat t, width := s.fget F.TIDE_PULSE_WIDTH_NS 0 k }).emit (s.pulseOut k true (Int.ofNat t))

/-- Is an output running at a time: enabled, and past the second boundary from which it is? -/
def State.pulseRuns (s : State) (k t : Nat) : Bool := s.fbit F.TIDE_PULSE_CTRL_EN 0 k && decide ((s.pulse k).from' ≤ t)

/-- PULSE_EDGE (R415): an edge time of an output comes. At the instant of a step the edges are those of TIME_STEP. -/
def execPulseEdge (output now : Nat) (s : State) : Res :=
  let s0 := s.clock now
  let t := s0.nowUnits
  let atStep := s0.fbit F.TIDE_STAT_STEP_PEND 0 && s0.tide.stepAt == t
  .next (if output < 4 ∧ s0.pulseRuns output t ∧ s0.pulseDue output (Int.ofNat t) ∧ ¬ atStep then s0.giveEdge output t else s0)

/-- PULSE_END (R415): WIDTH has elapsed from the edge. -/
def execPulseEnd (output now : Nat) (s : State) : Res :=
  let s0 := s.clock now
  let x := s0.pulse output
  let e := x.edge + Int.ofNat (x.width * unitNs)
  .next (if x.active ∧ e ≤ Int.ofNat s0.nowUnits then (s0.upPulse output fun y => { y with active := false, off := some e }).emit (s0.pulseOut output false e) else s0)

/-- A write of TIDE_PULSE_CTRL (R415, R425). -/
def State.pulseCtrlWrite (s : State) (fn k v : Nat) : State :=
  let on := s.fbit F.TIDE_PULSE_CTRL_EN 0 k
  let p := s.fget F.TIDE_PULSE_PERIOD_NS 0 k
  let w := s.fget F.TIDE_PULSE_WIDTH_NS 0 k
  let ok := decide (200 ≤ p ∧ p ≤ 1000000000) && 1000000000 % p == 0 && decide (s.fget F.TIDE_PULSE_PHASE_NS 0 k < p) && decide (10 ≤ w ∧ w + 100 ≤ p)
  if (on ∧ bitField v 1 1 ≠ s.fget F.TIDE_PULSE_CTRL_POL 0 k) ∨ (bitAt v 0 ∧ ¬ on ∧ ¬ ok) then s.logErr T.tide 0 5 fn (tideAddr (0x140 + 16 * k)) v
  else
    let s1 := s.wr T.tide 0 (0x140 + 16 * k) (v &&& 0xFFFF0007)
    if bitAt v 0 ∧ ¬ on then s1.upPulse k fun x => { x with from' := nextSecond s.nowUnits } else s1

/-! ## Authorised steps (R411, R412, R373) -/

/-- A write of AUTH = 1 (R411). S is the first second boundary at least 2 µs later. -/
def State.stepAuth (s : State) (fn : Nat) : State :=
  if s.fbit F.TIDE_STAT_STEP_PEND 0 then s.logErr T.tide 0 5 fn (tideAddr 0x80) 1
  else (s.upTide fun x => { x with stepAt := ceilDiv (s.nowUnits + 2000 * unitNs) unitSec * unitSec }).fset F.TIDE_STAT_STEP_PEND 0 1

/-- A Tide time moved by a step. -/
def shiftT (d : Int) (t : Nat) : Nat := (Int.ofNat t + d).toNat

/-- Everything that is measured from a Tide time moves with the step, so that elapsed time does not change. Marks: DEDUCED unsafe (log entry 62). -/
def State.shiftTimes (s : State) (d : Int) : State :=
  let s1 := s.upTide fun x =>
    { x with tick := (Int.ofNat x.tick + d * 2 ^ 32).toNat, alive := x.alive.map fun e => (e.1, shiftT d e.2),
             lastEdge := x.lastEdge.map fun e => (e.1, e.2.map (· + d)),
             pulses := x.pulses.map fun e => (e.1, { e.2 with edge := e.2.edge + d, off := e.2.off.map (· + d) }),
             lastMark := x.lastMark + d }
  let s2 : State := { s1 with ports := s1.ports.map fun e => (e.1, { e.2 with
    pause := e.2.pause.map fun p => (p.1, shiftT d p.2), modeAt := shiftT d e.2.modeAt, past := e.2.past.map fun p => { p with at' := shiftT d p.at' } }) }
  [0, 1].foldl (fun u h => u.setMiller h { u.miller h with lastB := shiftT d (u.miller h).lastB, marks := (u.miller h).marks.map fun m => (m.1, shiftT d m.2) }) s2

/-- What the outputs do at S (R412): an old edge that is not one of the new time is not produced, and an edge of the new time falls due. -/
def State.pulsesAtStep (s : State) (k old new : Nat) : State :=
  let was := s.pulseRuns k old && s.pulseDue k (Int.ofNat old)
  let now := s.fbit F.TIDE_PULSE_CTRL_EN 0 k && decide ((s.pulse k).from' ≤ old) && s.pulseDue k (Int.ofNat new)
  if now then s.giveEdge k new else if was then s.suppress else s

/-- TIME_STEP (R411): time moves from S to S + step. A mark due at S is emitted at S (R417). Marks: DEDUCED unsafe (log entry 376). -/
def execTimeStep (s : State) : Res :=
  if ¬ s.fbit F.TIDE_STAT_STEP_PEND 0 then .next s
  else
    let sAt := s.tide.stepAt
    let d := (signedOf 32 (s.fget F.TIDE_STEP_SEC_SEC 0) * 1000000000 + signedOf 32 (s.fget F.TIDE_STEP_NS_NS 0)) * 65536
    let s0 := s.clock sAt
    let s1 := if s0.tide.nextMark = sAt then s0.emitMark else s0
    let new := ((Int.ofNat sAt + d).emod (2 ^ 48 * Int.ofNat unitSec)).toNat
    let atMark := s1.tide.lastMark == Int.ofNat sAt
    let s2 : State := { (s1.enterTide 1).shiftTimes d with tideNow := new }
    let sec (t : Nat) : Nat := if t ≤ sAt then 0 else nextSecond (new - 1)
    let s3 := s2.upTide fun x => { x with squelchAt := x.squelchAt.map sec, resumeAt := sec x.resumeAt, nextMark := (if atMark then markAfter (Int.ofNat new) else Int.ofNat x.nextMark + d).toNat, inLock := 0 }
    let s4 := (List.range 4).foldl (fun t k => t.pulsesAtStep k sAt new) s3
    let s5 := (((s4.fset F.TIDE_STAT_STEP_PEND 0 0).fset F.TIDE_STAT_JUMP_PEND 0 0).fset F.TIDE_STAT_TIME_VALID 0 1).raise T.tide 0 I.TIDE_STEP_DONE
    let s6 := (List.range 4).foldl (fun t k => t.upPulse k fun x => { x with from' := sec x.from' }) s5
    .next ((List.range 16).foldl (fun t n =>
      if t.inGcl n then (t.fset F.SLUICE_STAT_ENTRY n (t.gclAt n t.nowUnits).1).raise T.sluice n I.SLUICE_STEP_REALIGN else t) s6)

/-- HOLDOVER_BUDGET_EXPIRE (R413). -/
def execHoldoverBudgetExpire (now : Nat) (s : State) : Res :=
  let s0 := s.clock now
  let b := s0.fget F.TIDE_HOLDOVER_BUDGET 0
  .next (if s0.tideState = 3 ∧ b ≠ 0 ∧ b ≤ s0.hoTime ∧ ¬ s0.fbit F.TIDE_STAT_HO_EXPIRED 0
    then ((s0.fset F.TIDE_STAT_HO_EXPIRED 0 1).upTide fun x => { x with squelchAt := some (nextSecond s0.nowUnits) }).raise T.tide 0 I.TIDE_HO_EXPIRED
    else s0)

/-! ## Reading time (R405, R422) -/

/-- The words of a time-stamp entry (R405). -/
def tsWords (src : Nat) (e : TsEnt) : List Nat :=
  let sec := e.units / unitSec
  [2 ^ 31 + (if src < 16 then e.id % 256 else e.id % 2) * 65536 + e.units % unitNs, e.units % unitSec / unitNs, sec % 2 ^ 32, sec / 2 ^ 32 % 65536]

/-- A unicast read of TIDE_TS_W0: the head entry of the source that TIDE_TS_SEL names goes to the function's latch. -/
def State.tsPop (s : State) (fn : Nat) : State × Nat :=
  let src := s.fget F.TIDE_TS_SEL_SRC 0
  match Tab.get (fun _ => []) s.tide.ts src with
  | [] => (s.upTide fun x => { x with tsLatch := Tab.erase x.tsLatch fn }, 0)
  | e :: l =>
    let w := tsWords src e
    (s.upTide fun x => { x with ts := Tab.set (fun _ => []) x.ts src l, tsLatch := Tab.set (fun _ => []) x.tsLatch fn w }, w.getD 0 0)

/-- A unicast read of TIDE_NOW_NS latches the instant for the function. -/
def State.tideNowRead (s : State) (fn : Nat) : State × Nat :=
  (s.upTide fun x => { x with nowLatch := Tab.set (fun _ => 0) x.nowLatch fn s.nowUnits }, s.nowUnits % unitSec / unitNs)

/-- TIDE_TS_STAT of the source that TIDE_TS_SEL names (R424). -/
def State.tsStat (s : State) : Nat :=
  let src := s.fget F.TIDE_TS_SEL_SRC 0
  Tab.get (fun _ => 0) s.tide.tsOvf src * 2 ^ 31 + (Tab.get (fun _ => []) s.tide.ts src).length * 65536 + Tab.get (fun _ => 0) s.tide.tsDrops src

end Sys2Proof.Machine
end

