-- ==== Sys2Proof/Machine/Press.lean ====
section
/-!
DEFINITION. The Press (R529 to R548) and the mate state mirror it makes (R544, R600, R601).
-/

namespace Sys2Proof.Machine

/-- Changes the Press. -/
def State.upPress (s : State) (f : PressSt → PressSt) : State := { s with press := f s.press }

/-- SIZE of a polder's ring. -/
def State.pressSize (s : State) (p : Nat) : Nat := 2 ^ s.fget F.PRESS_RING_LOG2SIZE 0 p

/-- An error in PRESS_LASTERR. -/
def State.pressErr (s : State) (ring p status : Nat) : State :=
  (((s.fset F.PRESS_LASTERR_VALID 0 1).fset F.PRESS_LASTERR_RING 0 ring).fset F.PRESS_LASTERR_POLDER 0 p).fset F.PRESS_LASTERR_STATUS 0 status

/-- A ring error (R533). -/
def State.pressRingErr (s : State) (p : Nat) : State := ((s.fset F.PRESS_RING_EN 0 0 p).pressErr 1 p 0).raise T.press 0 I.PRESS_RING_ERR

/-- Reads n bytes of a polder's address space for the Press. -/
def State.pressRead (s : State) (p pa n : Nat) (bad : Option Nat) : Xfer := s.paRead p 2 (pagesOf n) pa n bad []

/-- Writes bytes of a polder's address space for the Press. -/
def State.pressWrite (s : State) (p pa : Nat) (l : List Byte) : Xfer := s.paWrite p 2 (pagesOf l.length) pa l none 0

/-- A write of PRESS_RING[p] (R533, R548). -/
def State.pressRingWrite (s : State) (fn p v : Nat) : State :=
  let en := s.fbit F.PRESS_RING_EN 0 p
  let n := v % 16
  if n < 4 ∨ 12 < n ∨ (en ∧ n ≠ s.fget F.PRESS_RING_LOG2SIZE 0 p) then s.logErr T.press 0 5 fn (regAddr T.press 0 (0x80 + 4 * p)) v
  else
    let s1 := (s.fset F.PRESS_RING_LOG2SIZE 0 n p).fset F.PRESS_RING_EN 0 (v / 2 ^ 31 % 2) p
    if bitAt v 31 ∧ ¬ en then
      let r := s1.pressRead p 4 4 none
      if r.status = 0 then r.s.upPress fun x => { x with cons := Tab.set (fun _ => 0) x.cons p (ofLeBytes r.data) } else r.s.pressRingErr p
    else s1

/-! ## Starting jobs (R533, R539) -/

/-- A job holds the engine. -/
def State.pressHold (s : State) (j : PJob) : State :=
  (((s.upPress fun x => { x with running := some j, timeUp := false }).fset F.PRESS_STAT_BUSY 0 1).fset F.PRESS_STAT_MIRROR 0 (b2n j.mirror)).fset
    F.PRESS_STAT_POLDER 0 j.polder

/-- The first pending job of a polder's ring, with its descriptor read; none with the state where there is none or the ring is in error. -/
def State.ringJob (s : State) (p : Nat) : State × Option PJob :=
  if ¬ s.fbit F.PRESS_RING_EN 0 p then (s, none)
  else
    let r := s.pressRead p 0 4 none
    let prod := ofLeBytes r.data
    let cons := Tab.get (fun _ => 0) s.press.cons p
    if r.status ≠ 0 ∨ s.pressSize p ≤ prod then (r.s.pressRingErr p, none)
    else if prod = cons then (r.s, none)
    else
      let d := r.s.pressRead p (0x40 + 64 * cons) 64 none
      if d.status ≠ 0 then (d.s.pressRingErr p, none) else (d.s, some ⟨p, false, cons, d.data, [], 0, 0⟩)

/-- What a polder's time serves (R539): a due mirror job, then a suspended job, then its ring. Answers whether a job started. -/
def State.pressServe (s : State) (p : Nat) : State × Bool :=
  match s.press.due.find? fun j => j.polder == p with
  | some j => ((s.upPress fun x => { x with due := x.due.filter fun i => i.polder != p }).pressHold j, true)
  | none =>
    let mine := s.press.suspended.filter fun j => j.polder == p
    match (mine.filter (·.mirror)) ++ mine with
    | j :: _ => ((s.upPress fun x => { x with suspended := x.suspended.erase j }).pressHold j, true)
    | [] =>
      let r := s.ringJob p
      match r.2 with
      | some j => (r.1.pressHold j, true)
      | none => (r.1, false)

/-- The first polder of a list that has work is served. -/
def State.pressFirst (s : State) : List Nat → State
  | [] => s
  | p :: l =>
    let r := s.pressServe p
    if r.2 then r.1 else r.1.pressFirst l

/-- The owner of a slot (R539). -/
def State.slotOwner (s : State) (k : Nat) : Nat := s.press.slotmap / 2 ^ (4 * k) % 16

/-- A job that is still running stops at the end of its polder's time (R540). -/
def State.pressStop (s : State) : State :=
  match s.press.running with
  | none => s.upPress fun x => { x with timeUp := true }
  | some j => (s.upPress fun x => { x with running := none, suspended := x.suspended ++ [j], timeUp := true }).fset F.PRESS_STAT_BUSY 0 0

/-- PRESS_SLOT_START (R539): slot k begins; in slot mode its polder's work does. -/
def execPressSlotStart (slot : Nat) (s : State) : Res :=
  if 16 ≤ slot then .next s
  else
    let s1 := s.fset F.PRESS_STAT_SLOT 0 slot
    if ¬ s.fbit F.PRESS_CTRL_EN 0 ∨ ¬ s.press.mode then .next s1
    else
      let s2 := (s1.pressStop.upPress fun x => { x with timeUp := false }).fset F.PRESS_STAT_MIRROR 0 0
      if bitAt s.press.sloten slot then .next ((s2.fset F.PRESS_STAT_POLDER 0 (s.slotOwner slot)).pressServe (s.slotOwner slot)).1 else .next s2

/-- PRESS_JOB_START (R539): with the engine idle, the next job starts: in slot mode of the slot's polder while its time lasts, in shared mode of the
holder while its time lasts and it has work, then of the others in round robin. -/
def execPressJobStart (s : State) : Res :=
  if ¬ s.fbit F.PRESS_CTRL_EN 0 ∨ s.press.running.isSome then .next s
  else
    let h := s.fget F.PRESS_STAT_POLDER 0
    let k := s.fget F.PRESS_STAT_SLOT 0
    if s.press.mode then
      .next (if s.press.timeUp ∨ ¬ bitAt s.press.sloten k then s else (s.pressServe (s.slotOwner k)).1)
    else
      let order := (List.range 16).map fun i => (h + (if s.press.timeUp then 1 else 0) + i) % 16
      .next (s.pressFirst order)

/-- PRESS_SUSPEND (R540): the polder's time ends. In shared mode it ends only while another polder waits, which the command says it does. -/
def execPressSuspend (s : State) : Res := .next (if s.fbit F.PRESS_CTRL_EN 0 then s.pressStop.fset F.PRESS_STAT_MIRROR 0 0 else s)

/-! ## Running a job (R531 to R538) -/

/-- What a job comes to: the state (after its reads), STATUS, DETAIL, CONSUMED, the output, CHECK_OUT, and the engine state and history to save. -/
structure JobOut where
  s : State
  status : Nat
  detail : Nat
  consumed : Nat
  out : List Byte
  check : Nat
  eng : Option (Eng × List Byte)

/-- A job that ends with a status and nothing else. Marks: DEDUCED unsafe (log entry 152). -/
def jobFail (s : State) (status detail : Nat) : JobOut := ⟨s, status, detail, 0, [], 0, none⟩

/-- Do two areas overlap? -/
def clash (a b : Nat × Nat) : Bool := decide (0 < a.2 ∧ 0 < b.2 ∧ a.1 < b.1 + b.2 ∧ b.1 < a.1 + a.2)

/-- Does any pair of a list of areas overlap? -/
def areasClash : List (Nat × Nat) → Bool
  | [] => false
  | a :: l => l.any (clash a) || areasClash l

/-- A descriptor that is BAD_DESC (R534). -/
def badDesc (d : List Byte) : Bool :=
  let op := leAt d 0 1
  let fl := leAt d 3 1
  let areas := [(leAt d 8 8, leAt d 4 4), (leAt d 0x10 8, leAt d 0x18 4)] ++ (if bitAt fl 2 then [(leAt d 0x20 8, 0x9000)] else [])
    ++ (if bitAt fl 3 then [(leAt d 0x28 8, 0x9000)] else [])
  !(op == 1 || op == 2) || decide (2 < leAt d 1 1) || (if op = 1 then decide (leAt d 2 1 = 0 ∨ 4 < leAt d 2 1) else leAt d 2 1 != 0)
    || decide (64 ≤ fl) || bitAt fl 0 == bitAt fl 2 || (bitAt fl 1 && op != 1) || decide (67108864 < leAt d 4 4)
    || decide (leAt d 0x18 4 = 0 ∨ 67108864 < leAt d 0x18 4) || leAt d 0x32 2 != 0 || (bitAt fl 2 && leAt d 0x20 8 % 64 != 0)
    || (bitAt fl 3 && leAt d 0x28 8 % 64 != 0) || areasClash areas

/-- The engine bytes of image number k (R538). -/
def engineBytes (k : Nat) : List Byte := (List.range 4032).map (Config.engineByte k)

/-- The state image of an engine state and a history (newest byte first): its number is what its engine bytes are known by. -/
def imageOf (k : Nat) (hist : List Byte) : List Byte :=
  let h := (hist.take 32768).reverse
  let body := List.replicate (32768 - h.length) 0 ++ h ++ engineBytes k ++ List.replicate 60 0
  body ++ leBytes 4 (crc32c body)

/-- The engine state of an image, where its CRC holds, the Press made its engine bytes, and OP and FORMAT are the job's. -/
def State.imageEng (s : State) (img : List Byte) (op fmt : Nat) : Option Eng :=
  if leAt img 0x8FFC 4 ≠ crc32c (img.take 0x8FFC) then none
  else match s.press.saved.find? fun e => engineBytes e.1 == sub img 0x8000 4032 with
  | some (_, e) => if e.op = op ∧ e.fmt = fmt then some e else none
  | none => none

/-- A decompression from an engine state (R537, R542): `good` is whether all of the input could be read. -/
def decompress (s : State) (e : Eng) (hist inp : List Byte) (good : Nat × Nat) (inLen room : Nat) (adler : Bool) (raw : Option Nat) : JobOut :=
  let bits := e.bits ++ (bitsOf inp).drop e.skip
  let x0 : Inf := ⟨{ e with bits := bits, skip := 0 }, hist, [], room⟩
  let r := x0.run adler raw (3 * bits.length + room + 64)
  let x := r.1
  let left := x.e.bits.length
  let sum := x.sum adler
  let used := inp.length - ceilDiv left 8
  let e1 : Eng := { x.e with check := sum, total := e.total + x.out.length }
  match r.2 with
  | .done => ⟨s, 1, 0, inp.length - left / 8, x.out.reverse, sum, some (e1, x.hist)⟩
  | .full =>
    if 8 * inp.length < left then ⟨s, 2, 0, inLen, x.out.reverse, sum, some (e1, x.hist)⟩
    else ⟨s, 2, 0, used, x.out.reverse, sum, some ({ e1 with bits := [], skip := (8 - left % 8) % 8 }, x.hist)⟩
  | .need =>
    if good.1 ≠ 0 then ⟨s, good.1, good.2, used, x.out.reverse, sum, none⟩
    else ⟨s, 3, 0, inLen, x.out.reverse, sum, some (e1, x.hist)⟩
  | .data => ⟨s, 0x12, 0, used, [], sum, none⟩
  | .unsup => ⟨s, 0x14, 0, used, [], sum, none⟩
  | .check => ⟨s, 0x13, 0, inp.length - left / 8, x.out.reverse, sum, none⟩

/-- The header a compression job with FIRST begins with (R529). -/
def packHeader (fmt level : Nat) : List Byte :=
  if fmt = 1 then
    let flg := (level - 1) * 64
    bytesOf [0x78, flg + (31 - (0x7800 + flg) % 31) % 31]
  else if fmt = 2 then bytesOf [0x1F, 0x8B, 8, 0, 0, 0, 0, 0, 0, 255] else []

/-- The trailer a compression job with LAST ends with (R532). -/
def packTrailer (fmt check total : Nat) : List Byte :=
  if fmt = 1 then beBytes 4 check else if fmt = 2 then leBytes 4 check ++ leBytes 4 (total % 2 ^ 32) else []

/-- The whole output of a compression job from an engine state (R531): within the bound, and ended by a sync flush where it is not the last. -/
def packAll (e : Eng) (hist inp : List Byte) (first last : Bool) (check total : Nat) : List Byte :=
  let hdr := if first then packHeader e.fmt e.level else []
  let tail := if last then packTrailer e.fmt check total else bytesOf [0, 0, 255, 255]
  let bound := inp.length + 5 * ceilDiv inp.length 16384 + 23 - hdr.length - tail.length
  let body := Config.deflate ([e.level, b2n last, hist.length] ++ hist.map (·.toNat) ++ inp.map (·.toNat))
  hdr ++ body.take bound ++ tail

/-- A compression from an engine state (R531, R537). CONSUMED of a job that fills its output is free; the input it leaves is what a resumed job
takes up. Marks: DESIGN CHOICE safe (log entry 154). -/
def compress (s : State) (e : Eng) (hist inp : List Byte) (good : Nat × Nat) (room : Nat) (adler first last : Bool) : JobOut :=
  let sum := checkOn adler e.check inp
  let total := e.total + inp.length
  let hist' := (inp.reverse ++ hist).take 32768
  if good.1 ≠ 0 then
    let (v, s1) := s.takeFree
    let c := v.toNat % (inp.length + 1)
    let all := e.rest ++ packAll e hist (inp.take c) first false sum total
    ⟨s1, good.1, good.2, c, all.take (v.toNat / 2 ^ 32 % (room + 1)), checkOn adler e.check (inp.take c), none⟩
  else
    let again := match e.pend with
      | some (i, l) => i == inp && l == last
      | none => false
    let all := e.rest ++ (if again then [] else packAll e hist inp first last sum total)
    if all.length ≤ room then ⟨s, 1, 0, inp.length, all, sum, some ({ e with check := sum, total := total, rest := [], pend := none }, hist')⟩
    else
      let (v, s1) := s.takeFree
      let c := v.toNat % (inp.length + 1)
      let sum' := checkOn adler e.check (inp.take c)
      ⟨s1, 2, 0, c, all.take room, sum',
        some ({ e with check := sum', total := e.total + c, rest := all.drop room, pend := some (inp.drop c, last) }, ((inp.take c).reverse ++ hist).take 32768)⟩

/-- The status of a failed read: 0 for none, else STATUS and DETAIL. -/
def readStatus (r : Xfer) : Nat × Nat := if r.status = 0 then (0, 0) else if r.kind = 0 then (0x16, 0) else (0x15, r.kind)

/-- Runs a ring job on what its areas hold. Marks: DEDUCED unsafe (log entry 152). -/
def State.runRing (s : State) (j : PJob) (badTable : Option Nat) : JobOut :=
  let d := j.desc
  if badDesc d then jobFail s 0x10 0
  else
    let op := leAt d 0 1
    let fmt := leAt d 1 1
    let fl := leAt d 3 1
    let adler := isAdler fmt (b2n (bitAt fl 5))
    let fresh : Eng := { op := op, fmt := fmt, level := leAt d 2 1, check := b2n adler }
    let img := if bitAt fl 2 then s.pressRead j.polder (leAt d 0x20 8) 0x9000 none else ⟨s, 0, 0, 0, []⟩
    if (readStatus img).1 ≠ 0 then jobFail img.s (readStatus img).1 (readStatus img).2
    else
      let start := if bitAt fl 2 then (s.imageEng img.data op fmt).map fun e => (e, ((img.data.take 32768).reverse).take (min e.total 32768))
        else some (fresh, [])
      match start with
      | none => jobFail img.s 0x11 0
      | some (e, hist) =>
        let r := img.s.pressRead j.polder (leAt d 8 8) (leAt d 4 4) badTable
        let room := leAt d 0x18 4
        if op = 2 then decompress r.s e hist r.data (readStatus r) (leAt d 4 4) room adler (if fmt = 0 ∧ bitAt fl 4 then some (leAt d 0x1C 4) else none)
        else compress r.s { e with level := leAt d 2 1 } hist r.data (readStatus r) room adler (bitAt fl 0) (bitAt fl 1)

/-- A job ended: it is counted, and an error recorded (R536, R542, R548). -/
def State.pressCount (s : State) (p status : Nat) : State :=
  if status < 0x10 then s.cinc C.PRESS_JOBS 0
  else
    let mem := status = 0x15 ∨ status = 0x16
    let s1 := (s.finc (if mem then F.PRESS_ERRCNT_MEM else F.PRESS_ERRCNT_JOB) 0).pressErr 0 p status
    let s2 := if mem then s1.raise T.press 0 I.PRESS_MEM_ERR else s1
    s2.raise T.press 0 I.PRESS_JOB_ERR

/-- The engine is free again. -/
def State.pressFree (s : State) : State :=
  ((s.upPress fun x => { x with running := none }).fset F.PRESS_STAT_BUSY 0 0).fset F.PRESS_STAT_MIRROR 0 0

/-- A write of the Press that is torn after n bytes (R449, R542): the whole lines received stay written, and the slice records the first line not written. -/
def State.pressTear (s : State) (p pa : Nat) (l : List Byte) (n : Nat) : State :=
  let k := min ((pa % 64 + n) / 64 * 64 - pa % 64) l.length
  let r := s.pressWrite p pa (l.take k)
  let w := r.s.walk p (pa + k) true false
  if r.status ≠ 0 ∨ w.1 ≠ 0 ∨ l.length ≤ k then r.s else r.s.hbmTorn (sliceOf w.2) (w.2 / 64 % 2 ^ 29) 5

/-- A torn write has not ended the job: the engine is free, and the polder's time is over, so that the job runs again in its next time (R542). -/
def State.pressTorn (s : State) : State := s.pressFree.upPress fun x => { x with timeUp := true }

/-- A ring job ends (R536): output, STATE_OUT, the descriptor, then CONS. A torn write (R542), of the output or after it of STATE_OUT, leaves it pending. -/
def State.endRing (s : State) (j : PJob) (badTable torn : Option Nat) : State :=
  let r := s.runRing j badTable
  let p := j.polder
  let d := j.desc
  match torn with
  | some n =>
    if n < r.out.length then (r.s.pressTear p (leAt d 0x10 8) r.out n).pressTorn
    else
      let w := r.s.pressWrite p (leAt d 0x10 8) r.out
      match r.eng with
      | some (_, h) =>
        if bitAt (leAt d 3 1) 3 ∧ r.status < 0x10 ∧ w.status = 0 then
          ((w.s.takeFree.2).pressTear p (leAt d 0x28 8) (imageOf w.s.fresh h) (n - r.out.length)).pressTorn
        else w.s.pressTorn
      | none => w.s.pressTorn
  | none =>
    let w := r.s.pressWrite p (leAt d 0x10 8) r.out
    let st := if w.status ≠ 0 then readStatus w else (r.status, r.detail)
    let save := bitAt (leAt d 3 1) 3 && decide (st.1 < 0x10)
    let img := match r.eng with
      | some (e, h) =>
        if save then
          let k := w.s.fresh
          let s1 := (w.s.takeFree.2).upPress fun x => { x with saved := (k, e) :: x.saved }
          s1.pressWrite p (leAt d 0x28 8) (imageOf k h)
        else ⟨w.s, 0, 0, 0, []⟩
      | none => ⟨w.s, 0, 0, 0, []⟩
    let st2 := if img.status ≠ 0 then readStatus img else st
    let back := leBytes 1 st2.1 ++ leBytes 1 st2.2 ++ leBytes 2 0 ++ leBytes 4 r.consumed ++ leBytes 4 w.done ++ leBytes 4 r.check
    let dw := img.s.pressWrite p (0x70 + 64 * j.idx) back
    if dw.status ≠ 0 then (dw.s.pressRingErr p).pressFree
    else
      let c := (j.idx + 1) % s.pressSize p
      let cw := dw.s.pressWrite p 4 (leBytes 4 c)
      let s2 := (cw.s.upPress fun x => { x with cons := Tab.set (fun _ => 0) x.cons p c }).pressCount p st2.1
      (if cw.status ≠ 0 then s2.pressRingErr p else s2).pressFree

/-! ## The mate state mirror (R544, R600, R601) -/

/-- The private part of one stream in a mirror record, 224 bytes: the transmit indexes, the highest received indexes, the SSRC and the timestamp
advance of earlier resumes. -/
def mirrorStream (x : Stream) : List Byte :=
  let o (v : Option Nat) : Nat := match v with | some n => n + 1 | none => 0
  leBytes 8 x.txIndex ++ leBytes 8 x.rtcpTx ++ leBytes 8 (o x.rtp.top) ++ leBytes 8 (o x.rtcp.top) ++ leBytes 8 (o x.h) ++ leBytes 8 (o x.ssrc) ++ leBytes 8 x.tsAdd
    ++ List.replicate 168 0

/-- The mirror record of a channel (R601). Marks: DESIGN CHOICE safe (log entry 153). -/
def State.mirrorRecord (s : State) (c : Nat) : List Byte :=
  let x := s.chan c
  let ab := leAt x.params 4 4
  let ba := leAt x.params 8 4
  let head := leBytes 4 ab ++ leBytes 4 ba ++ leBytes 1 x.typ ++ leBytes 7 0 ++ leBytes 8 s.turn ++ List.replicate 36 0
  let tail := mirrorStream (s.strm ab) ++ mirrorStream (s.strm ba) ++ memBytes (s.ctxOf (x.classes.getD 0 0)) 0x3C00 512
  head ++ leBytes 4 (crc32c (head ++ tail)) ++ tail

/-- Puts a channel at its place in ascending order of STREAM_AB. -/
def State.mirrorPlace (s : State) (c : Nat) : List Nat → List Nat
  | [] => [c]
  | d :: l => if leAt (s.chan c).params 4 4 < leAt (s.chan d).params 4 4 then c :: d :: l else d :: s.mirrorPlace c l

/-- The channels of a polder in ascending order of STREAM_AB. -/
def State.mirrorChans (s : State) (p : Nat) : List Nat :=
  ((s.sch.chans.filter fun e => e.2.st != .idle && e.2.polder == p).map fun e => e.1).foldr s.mirrorPlace []

/-- MIRROR_JOB (R544): a job of the polder's records. One that has not ended is ended, its output discarded, and MIRROR_LATE raised. -/
def execMirrorJob (polder : Nat) (s : State) : Res :=
  let cs := s.mirrorChans polder
  if 16 ≤ polder ∨ cs.isEmpty ∨ ¬ s.fbit F.PRESS_CTRL_EN 0 then .next s
  else
    let isMine (j : PJob) : Bool := j.mirror && j.polder == polder
    let running := match s.press.running with | some j => isMine j | none => false
    let late := running || s.press.suspended.any isMine || s.press.due.any isMine
    let s1 := if running then s.pressFree else s
    let s2 := s1.upPress fun x =>
      { x with suspended := x.suspended.filter fun j => !isMine j,
               due := (x.due.filter fun j => !isMine j) ++ [⟨polder, true, 0, [], cs.flatMap s.mirrorRecord, cs.length, s.turn⟩] }
    .next (if late then s2.raise T.press 0 I.PRESS_MIRROR_LATE else s2)

/-- A mirror job ends DONE: its output is in a buffer, and the copy of R600 begins where RAS_MIR is enabled; a copy still in progress is abandoned. -/
def State.endMirror (s : State) (j : PJob) : State :=
  let e : Eng := { op := 1, fmt := 0, level := 1 }
  let check := crc32On 0 j.records
  let out := packAll e [] j.records true true check j.records.length
  let s1 := s.pressFree.pressCount j.polder 1
  if ¬ s.fbit F.RAS_MIR_EN 0 j.polder then s1
  else
    let busy := (Tab.get (fun _ => none) s.press.copies j.polder).isSome
    let s2 := s1.upPress fun x => { x with copies := Tab.set (fun _ => none) x.copies j.polder (some ⟨out, j.count, j.turn, check⟩) }
    if busy then s2.raise T.ras 0 I.RAS_MIRROR_SKIP else s2

/-- PRESS_JOB_DONE (R536): the running job ends. `badTable` is the page of its input whose table line is bad, `torn` the bytes of output written
before a torn write. -/
def execPressJobDone (badTable torn : Option Nat) (s : State) : Res :=
  match s.press.running with
  | none => .next s
  | some j => .next (if j.mirror then s.endMirror j else s.endRing j badTable torn)

/-- MIRROR_COPY_DONE (R600): the buffer's lines, then the header with the next SEQ. A walk fault abandons the copy. -/
def execMirrorCopyDone (polder : Nat) (s : State) : Res :=
  match Tab.get (fun _ => none) s.press.copies polder with
  | none => .next s
  | some m =>
    let n := Tab.get (fun _ => 0) s.press.seq polder
    let base := s.fget F.RAS_MIR_PA 0 polder * 65536
    let s0 := s.upPress fun x => { x with copies := Tab.erase x.copies polder }
    let w := s0.paWrite polder 2 (pagesOf m.data.length) (base + 65536 + n % 2 * 68157440) m.data none 0
    let hdr := leBytes 8 (n + 1) ++ leBytes 8 m.turn ++ leBytes 1 (n % 2) ++ leBytes 3 0 ++ leBytes 4 m.data.length ++ leBytes 4 m.count
      ++ leBytes 4 m.check ++ List.replicate 32 0
    if w.status ≠ 0 then .next (w.s.raise T.ras 0 I.RAS_MIRROR_SKIP)
    else
      let h := w.s.paWrite polder 2 3 base hdr none 0
      if h.status ≠ 0 then .next (h.s.raise T.ras 0 I.RAS_MIRROR_SKIP)
      else .next (h.s.upPress fun x => { x with seq := Tab.set (fun _ => 0) x.seq polder (n + 1) })

end Sys2Proof.Machine
end

