-- ==== Sys2Proof/Machine/Ras.lean ====
section
/-!
DEFINITION. Faults and continuity (spec file 15): quarantine and take-over, rows without a spare, self-tests, the end of role changes,
device faults, barriers, the resume walk and the fault log.
-/

namespace Sys2Proof.Machine

/-- Changes the RAS part of the state. -/
def State.upRas (s : State) (f : RasSt → RasSt) : State := { s with ras := f s.ras }

/-! ## Class M faults (R586 to R588) -/

/-- The kinds of class M (R586, R607). -/
def isMillKind (k : Nat) : Bool := decide (1 ≤ k ∧ k ≤ 5) || decide (0x10 ≤ k ∧ k ≤ 0x15)

/-- Does the Ledger's fault log hold, or wait to hold, an earlier quarantine record of a mill (R592)? -/
def State.quarantinedBefore (s : State) (m : Nat) : Bool :=
  let hit (b : List Byte) : Bool := isMillKind (leAt b 0 1) && leAt b 1 1 == T.mill && leAt b 2 2 == m
  let asked (r : LReq) : Bool := r.typ == 4 && hit r.payload
  s.led.reqs.any asked || (match s.led.writing with | some (_, r) => asked r | none => false)
    || s.led.slots.any fun e => decide (20736 ≤ e.1 ∧ e.1 < 24832) && (commitSeq e.2).isSome && hit e.2

/-- The class entries, channels and bundles of lost roles that wait for placement: they are on no mill's stones. -/
def State.lostKeys (s : State) : List Nat := s.ras.lost.flatMap (·.keys)
def State.lostChans (s : State) : List Nat := s.ras.lost.flatMap (·.chans)
def State.lostBuns (s : State) : List Nat := s.ras.lost.flatMap (·.buns)

/-- The class entries, channels and bundles that a mill carries. -/
def State.keysOn (s : State) (m : Nat) : List Nat := (s.sch.classes.filter fun e => e.2.stone / 16 == m && !s.lostKeys.contains e.1).map fun e => e.1
def State.chansOn (s : State) (m : Nat) : List Nat :=
  (s.sch.chans.filter fun e => e.2.st != .idle && e.2.stone / 16 == m && !s.lostChans.contains e.1).map fun e => e.1
def State.bunsOn (s : State) (m : Nat) : List Nat :=
  (s.sch.bundles.filter fun e => e.2.st != .idle && e.2.stone / 16 == m && !s.lostBuns.contains e.1).map fun e => e.1

/-- The flume applies the sealed write-backs in the seal slots of a role (R189). -/
def State.applySlots (s : State) (q : Nat) : State :=
  (s.sch.slots.filter fun e => e.1 / 4 == q).foldl
    (fun t e => t.applySlot e.2) (s.upSch fun c => { c with slots := c.slots.filter fun e => e.1 / 4 != q })

/-! ## Lost roles (R593) -/

/-- A work unit that had not sealed is freed, with the packets its release took. -/
def State.freeUnit (s : State) (n cls : Nat) : State :=
  ((s.received cls).foldl (fun t r => t.jbFree r.1 fun k => k.taken == some n) s).eraseWu n

/-- A role is lost (steps 2 and 5 of R593): its queues and unsealed work are freed, sealed write-backs are applied, and its channels and bundles
wait for placement. `m` is the mill that carries its work, `tests` the mills whose self-test waits for the end of placement. Marks: DEDUCED unsafe (log entry 314). Marks: DESIGN CHOICE unsafe (log entry 33). -/
def State.loseRole (s : State) (q m p : Nat) (tests : List Nat) : State :=
  let l : LostRole := ⟨q, p, s.keysOn m, s.chansOn m, s.bunsOn m, tests⟩
  let s1 := (s.sch.wus.filter fun e => l.keys.contains e.2.cls).foldl (fun t e => t.freeUnit e.1 e.2.cls) s
  let s2 := (qHeadrace q :: (List.range 16).map (qStage q)).foldl (fun t id => t.qRemove id fun _ => true) s1
  let s3 := ((s2.applySlots q).setHolder q none).upRas fun r => { r with lost := r.lost ++ [l] }
  (s3.finc F.RAS_COUNTS_DEGRADED 0).raise T.ras 0 I.RAS_DEGRADED

/-- Of two roles that could be given up, the one that goes first: the lower priority, then the higher role index (step 4 of R593). Marks: DEDUCED unsafe (log entry 312). -/
def State.givesFirst (s : State) (a b : Nat × Nat) : Nat × Nat :=
  let prio (e : Nat × Nat) := s.fget F.DIKE_CTRL_PRIO (s.fget F.MILL_ROLE_POLDER e.2)
  if prio b < prio a ∨ (prio b = prio a ∧ a.1 < b.1) then b else a

/-- The role, and its mill, that is given up for a lost role of a polder: another role of the row whose polder has a lower priority. Marks: DEDUCED unsafe (log entry 312). -/
def State.givenUp (s : State) (q p : Nat) : Option (Nat × Nat) :=
  let l := ((List.range 4).map (4 * (q / 4) + ·)).filterMap fun k =>
    match s.millOfRole k with
    | some m =>
      if k ≠ q ∧ s.member m ∧ ¬ s.ras.claims.any (fun c => c.spare == m) ∧ ¬ s.ras.given.any (fun g => g.mill == m) ∧ ¬ s.changing m
          ∧ s.fget F.DIKE_CTRL_PRIO (s.fget F.MILL_ROLE_POLDER m) < s.fget F.DIKE_CTRL_PRIO p then some (k, m) else none
    | none => none
  match l with
  | [] => none
  | a :: r => some (r.foldl s.givesFirst a)

/-- A role cannot be taken over by a spare (steps 2 to 5 of R593): `m` is the faulted mill, `work` the mill that carried the role's work. -/
def State.noSpare (s : State) (q work p : Nat) (tests : List Nat) : State :=
  match s.givenUp q p with
  | none => s.loseRole q work p tests
  | some (k, g) =>
    let pg := s.fget F.MILL_ROLE_POLDER g
    ((s.loseRole k g pg tests).beginChange ⟨g, pg, p, 0, .giveUp⟩).upRas fun r => { r with given := r.given ++ [⟨g, q, work⟩] }

/-- The command that a faulted mill's role change belonged to completes FAULTED (R482). -/
def State.changeFaulted (s : State) (r : RoleChange) : State :=
  match r.why with
  | .grant => s.completeOrder r.order 0xA
  | .giveUp => s
  | w => (s.upPol fun x => { x with faulted := x.faulted ++ [r.old] }).changesDone r.old r.order w

/-- The spare of a row that no take-over has called. Marks: DEDUCED unsafe (log entry 313). -/
def State.idleSpare (s : State) (row : Nat) : Option Nat :=
  match s.spareOf row with
  | some x => if s.ras.claims.any fun c => c.spare == x then none else some x
  | none => none

/-- Quarantine (R588, steps 1 to 3 of R589): the fault is logged and recorded, the mill leaves service, its cache is drained, and its row is in
take-over. Marks: DEDUCED unsafe (log entry 310). -/
def State.quarantine (s : State) (m kind : Nat) (badLines : List Nat) : State :=
  let spare := (s.idleSpare (rowOf m)).getD 0x7F
  let s1 := ((s.rasLog kind 0 T.mill m spare).raise T.ras 0 I.RAS_MILL_FAULT).faultRecord kind T.mill m spare
  let s2 := if s.quarantinedBefore m then s1.upRas fun r => { r with again := r.again ++ [m] } else s1
  let s3 := ((s2.quarantineMill m).drainCache m badLines).fset F.VANE_MILL_PACE_VALID (halfOf m) 0 (m % 40)
  let s4 := s3.upRas fun r => { r with claims := r.claims.filter fun c => c.spare != m, given := r.given.filter fun g => g.mill != m,
                                       claimedAt := r.claimedAt.filter fun e => e.1 != m }
  let s5 := s4.upSch fun c => { c with takeover := if c.takeover.contains (rowOf m) then c.takeover else c.takeover ++ [rowOf m] }
  match s.pol.changes.find? fun c => c.mill == m with
  | some r => s5.changeFaulted r
  | none => s5

/-- MILL_FAULT (R588, R593): a class M fault of a mill in service, or of the spare that a take-over has woken. A detection in a mill in role 0x4
is not a new fault (R592). Marks: DEDUCED unsafe (log entry 310). -/
def execMillFault (mill kind : Nat) (badLines : List Nat) (s : State) : Res :=
  let claim := s.ras.claims.find? fun c => c.spare == mill
  let given := s.ras.given.find? fun g => g.mill == mill
  if ¬ isMillKind kind ∨ ¬ (s.member mill ∨ claim.isSome) then .next s
  else
    let s1 := s.quarantine mill kind badLines
    match (claim.map fun c => (c.role, c.old)) <|> (given.map fun g => (g.role, g.old)) <|> ((s.roleOfMill mill).map fun q => (q, mill)) with
    | none => .next s1
    | some (q, work) =>
      let p := if claim.isSome ∨ given.isSome then s.fget F.MILL_ROLE_POLDER work else s.fget F.MILL_ROLE_POLDER mill
      let tests := if claim.isSome then [mill, work] else [mill]
      match s.idleSpare (rowOf mill) with
      | some sp => .next ((s1.upRas fun r => { r with claims := r.claims ++ [⟨q, work, sp, false⟩] }).wakeDom sp)
      | none => .next (s1.noSpare q work p tests)

/-! ## Take-over (R589, R590) -/

/-- The Bolter image of a role is loaded into a mill (R278). -/
def State.loadImage (s : State) (q m : Nat) : State :=
  let x := Tab.get (fun _ => ({} : MillSt)) s.image q
  s.setMill m { s.mill m with chains := x.chains, coef := x.coef, library := true }

/-- A mill takes a role: the epoch after the one of the mill that held it, its polder, ROW_ROLES, the role's shadow and Bolter image (step 5 of
R589, R482). Marks: DEDUCED unsafe (log entry 132). -/
def State.takeRole (s : State) (q m p : Nat) : State :=
  let epoch := ((match s.millOfRole q with | some h => s.fget F.MILL_ROLE_EPOCH h | none => 0) + 1) % 65536
  let s1 := ((s.fset F.MILL_ROLE_EPOCH m epoch).fset F.MILL_ROLE_POLDER m p).setHolder q (some m)
  (s1.loadShadow q m).loadImage q m

/-- SPARE_CLAIM (steps 4 and 5 of R589): the spare is ON with zeroed memories and claims the role. Marks: DEDUCED unsafe (log entry 313). -/
def execSpareClaim (row : Nat) (s : State) : Res :=
  match s.ras.claims.find? fun c => !c.claimed && rowOf c.spare == row with
  | none => .next s
  | some c =>
    if s.dom c.spare ≠ 3 ∨ s.role c.spare ≠ 2 then .next s
    else
      let p := s.fget F.MILL_ROLE_POLDER c.old
      let s1 := ((s.freshMill c.spare).fset F.MILL_ROLE_ROLE c.spare 3).takeRole c.role c.spare p
      .next ((s1.dikeMill p c.spare true).upRas fun r => { r with claims := r.claims.map fun d => if d.spare = c.spare then { d with claimed := true } else d })

/-- The images of a mill's kernel area are copied from the kernel store to another mill, at the same offsets (step 6 of R589). -/
def State.copyImages (s : State) (old m : Nat) : State :=
  let l := s.placedIn old
  let s1 := s.upSch fun c => { c with placed := Tab.set (fun _ => []) (Tab.erase c.placed old) m l }
  l.foldl
    (fun t p => match p.kern with
      | none => t
      | some k => match t.sch.kerns.find? fun e => e.1 == k with
        | some e => t.setMill m { t.mill m with bin := memPut (t.mill m).bin p.off e.2.image }
        | none => t) s1

/-- The work of a role passes from one mill to the stones of another with the same local numbers (R189, step 6 of R589): classes, channels and
bundles move, unsealed work units are released again with the parameters of now (R217), items they had taken are free, and sealed write-backs are
applied. -/
def State.adoptRole (s : State) (q old m : Nat) : State :=
  let keys := s.keysOn old
  let chans := s.chansOn old
  let buns := s.bunsOn old
  let mv (n : Nat) : Nat := 16 * m + n % 16
  let units := (s.sch.wus.filter fun e => keys.contains e.2.cls).map fun e => e.1
  let s1 := s.upSch fun c =>
    { c with classes := c.classes.map fun e => if keys.contains e.1 then (e.1, { e.2 with stone := mv e.2.stone }) else e,
             chans := c.chans.map fun e => if chans.contains e.1 then (e.1, { e.2 with stone := mv e.2.stone }) else e,
             bundles := c.bundles.map fun e => if buns.contains e.1 then (e.1, { e.2 with stone := mv e.2.stone }) else e,
             early := c.early.filter fun e => !keys.contains e.1,
             wus := c.wus.map fun e => if units.contains e.1 then
               (e.1, { e.2 with stone := mv e.2.stone, st := .released, taken := [], held := false, params := none, os := [] }) else e }
  let free (i : QItem) : QItem := match i.taken with | some w => if units.contains w then { i with taken := none } else i | none => i
  let s2 := (qHeadrace q :: (List.range 16).map (qStage q)).foldl
    (fun t id => t.setQueue id (Queue.hopRead { t.queue id with items := (t.queue id).items.map free })) s1
  ((s2.applySlots q).copyImages old m).cinc C.MILLER_REEXEC (halfOf m) units.length

/-- The held commits of a row run in turn order (step 8 of R589). Marks: DEDUCED unsafe (log entry 311). -/
def State.commitHeld (s : State) (row : Nat) : State :=
  let turns := Tab.get (fun _ => []) s.sch.heldTurns row
  let h := halfOfRow row
  let s1 := turns.foldl (fun t n => (List.range 4).foldl (fun u k => u.commitRole (4 * row + k) n) t)
    (s.upSch fun c => { c with heldTurns := Tab.erase c.heldTurns row })
  (s1.idleObjects h (s.turn h)).dropDone h (s.turn h)

/-- Does a row still wait for a spare, a role change or a placement? Marks: DEDUCED unsafe (log entry 311). -/
def State.rowBusy (s : State) (row : Nat) : Bool :=
  s.ras.claims.any (fun c => c.role / 4 == row) || s.ras.given.any (fun g => g.role / 4 == row) || s.ras.lost.any fun l => l.role / 4 == row

/-- A row with nothing left to do leaves take-over, with its held commits. -/
def State.rowDone (s : State) (row : Nat) : State :=
  if s.rowBusy row then s
  else (s.commitHeld row).upSch fun c => { c with takeover := c.takeover.filter fun r => r != row }

/-- Retirement (R592): role 0x5, key 1 of the boot header and a fault record are asked for, and DIAG_DONE is raised. Marks: DESIGN CHOICE safe (log entry 315). -/
def State.retireMill (s : State) (m : Nat) : State :=
  let s1 := s.fset F.MILL_ROLE_ROLE m 5
  let map := (List.range s.fuse.mills).foldl (fun v k => if s1.role k = 5 then setBitN v k else v) 0
  ((s1.ledgerAsk ⟨1, 1, leBytes 10 map, .none⟩).faultRecord 0x42 T.mill m 5).raise T.ras 0 I.RAS_DIAG_DONE

/-- E of R592: the self-test of a quarantined mill starts, or with DIAG_EN = 0 the mill is retired. -/
def State.quarantineEnds (s : State) (m : Nat) : State :=
  if s.fbit F.RAS_CTRL_DIAG_EN 0 then s.upRas fun r => { r with testing := r.testing ++ [m] } else s.retireMill m

/-- The handle of a mill (R511). -/
def State.millHandle (s : State) (m : Nat) : Nat :=
  6 * 2 ^ 60 + s.fget F.MILL_ROLE_POLDER m * 2 ^ 56 + s.fget F.MILL_ROLE_EPOCH m * 2 ^ 32 + m

/-- TAKEOVER_COMPLETE (steps 6 to 9 of R589, R590): the role's work passes to the spare, held messages and commits follow, and the polder is
told; `c` is the time C of step 7 in units of 10 ns. -/
def execTakeoverComplete (row c : Nat) (s : State) : Res :=
  match s.ras.claims.find? fun x => x.claimed && rowOf x.spare == row with
  | none => .next s
  | some x =>
    let m := x.spare
    let p := s.fget F.MILL_ROLE_POLDER m
    let t := min c 0xFFFF
    let s1 := (s.upRas fun r => { r with claims := r.claims.filter fun d => d.spare != m, claimedAt := r.claimedAt ++ [(m, s.turn (halfOf m))] }).adoptRole x.role x.old m
    let s2 := (s1.releaseHeld x.role m).rowDone row
    let s3 := s2.notice p 3 (s2.millHandle m) (x.old + m * 2 ^ 8 + s2.fget F.MILL_ROLE_EPOCH m * 2 ^ 16 + t * 2 ^ 32)
    let s4 := ((s3.finc F.RAS_COUNTS_TAKEOVER 0).fset F.RAS_TO_TIME_LAST 0 t).fset F.RAS_TO_TIME_MAX 0 (max t (s3.fget F.RAS_TO_TIME_MAX 0))
    let s5 := (s4.raise T.ras 0 I.RAS_TAKEOVER_DONE).measureRole m x.role p (s4.fget F.MILL_ROLE_EPOCH m)
    .next (if s5.ras.lost.any fun l => l.mills.contains x.old then s5 else s5.quarantineEnds x.old)

/-! ## The end of a role change (R482) -/

/-- A role given up for a lost one (step 4 of R593) has its new mill: the mill is zeroised and takes the role, whose work it adopts. -/
def State.giveUpDone (s : State) (r : RoleChange) (g : Given) : State :=
  let m := r.mill
  let s1 := ((s.drainCache m []).zeroMill m).upPol fun x => { x with changes := x.changes.filter fun c => c.mill != m }
  let s2 := (((s1.takeRole g.role m r.polder).dikeMill r.old m false).dikeMill r.polder m true).upRas fun x => { x with given := x.given.filter fun y => y.mill != m }
  ((s2.adoptRole g.role g.old m).releaseHeld g.role m).measureRole m g.role r.polder (s2.fget F.MILL_ROLE_EPOCH m)

/-- ROLE_CHANGE_COMPLETE (R482): a mill's role change ends. It waits while the mill's row is in take-over (R472 step 3). A read-back that is
not zero is a hardware fault of the mill: the command completes FAULTED, and MILL_FAULT quarantines the mill. -/
def execRoleChangeComplete (mill : Nat) (badReadBack : Bool) (s : State) : Res :=
  match s.pol.changes.find? fun c => c.mill == mill with
  | none => .next s
  | some r =>
    if s.sch.takeover.contains (rowOf mill) ∧ r.why ≠ .giveUp then .next s
    else if badReadBack then .next (((s.upPol fun x => { x with changes := x.changes.filter fun c => c.mill != mill }).changeFaulted r).emit (.fault T.mill mill))
    else match r.why with
      | .grant => .next ((s.changeRole r).completeOrder r.order 0)
      | .giveUp => .next (match s.ras.given.find? fun g => g.mill == mill with | some g => s.giveUpDone r g | none => s)
      | w => .next ((s.changeRole r).changesDone r.old r.order w)

/-! ## Placement and shedding (R594) -/

/-- The stones of a polder in a half that can take a list of classes, with their free grains. -/
def State.openStones (s : State) (p h typ : Nat) (l : List Klass) : List (Nat × Nat) :=
  let mills := ((List.range 40).map (40 * h + ·)).filter fun m => decide (m < s.fuse.mills) && s.role m == 1 && s.fget F.MILL_ROLE_POLDER m == p
  let able := mills.filter fun m => (l.foldl
    (fun (acc : Option State) k => match acc with | none => none | some t => (t.placeImage m k.kern).map fun r => r.1) (some s)).isSome
  ((able.flatMap fun m => (List.range 16).map (16 * m + ·)).filter fun n => (s.fits n p typ l).isSome).map fun n => (n, s.budget h - s.stoneGrains n)

/-- Class entries move to a stone, with their new phases and their images placed. -/
def State.moveKeys (s : State) (n : Nat) (l : List (Nat × Klass)) : State :=
  l.foldl
    (fun t e => match t.placeImage (n / 16) e.2.kern with
      | some (u, off) => u.setKlass e.1 (u.entryOf e.2 off)
      | none => t) s

/-- A channel of a lost role is placed on another stone of its polder, with its context in place, or shed. -/
def State.placeChan (s : State) (h turn c : Nat) : State :=
  let x := s.chan c
  let keys := x.keys
  let l := keys.map s.klass
  let hd := s.handleOf 2 x.polder c
  match mostFree (s.openStones x.polder h x.typ l) with
  | some n =>
    let mine := (s.fits n x.polder x.typ l).getD []
    let used := ((s.stoneChans n).filter fun y => y.typ == 2).map fun y => y.slot
    let slot := if x.typ = 2 then ((List.range 8).find? fun i => !used.contains i).getD 0xFF else x.slot
    let s1 := (s.moveKeys n (keys.zip mine)).setChan c { x with stone := n, slot := slot }
    let s2 := if x.typ = 2 then s1.writeParams c (withMiller x.params slot (sub x.params 0x30 4)) else s1
    (s2.finc F.RAS_SHED_PLACED 0).notice x.polder 4 hd (1 + n * 2 ^ 16)
  | none => (((s.setChan c { x with st := .draining }).chanIdle c turn).finc F.RAS_SHED_SHED 0).notice x.polder 4 hd 0

/-- The same for a bundle, whole. Marks: DEDUCED unsafe (log entry 314). -/
def State.placeBundle (s : State) (h turn b : Nat) : State :=
  let x := s.bundle b
  let l := x.classes.map s.klass
  match mostFree (s.openStones x.polder h 0x10 l) with
  | some n => (s.moveKeys n (x.classes.zip ((s.fits n x.polder 0x10 l).getD []))).setBundle b { x with stone := n }
  | none => (s.setBundle b { x with st := .draining }).bundleIdle b turn

/-- CHANNEL_PLACEMENT_DONE (R594): the channels and bundles of a lost role are placed again or shed, in ascending index order, once every role
of the row that can be kept has its mill. -/
def execChannelPlacementDone (role : Nat) (s : State) : Res :=
  let row := role / 4
  match s.ras.lost.find? fun l => l.role == role with
  | none => .next s
  | some l =>
    if s.ras.claims.any (fun c => c.role / 4 == row) ∨ s.ras.given.any (fun g => g.role / 4 == row) then .next s
    else
      let h := halfOfRow row
      let s1 := s.commitHeld row
      let turn := s1.turn h
      let s2 := (l.chans.filter fun c => (s1.chan c).st != .idle).foldl (fun t c => t.placeChan h turn c) s1
      let s3 := (l.buns.filter fun b => (s2.bundle b).st != .idle).foldl (fun t b => t.placeBundle h turn b) s2
      let s4 := (s3.upRas fun r => { r with lost := r.lost.filter fun x => x.role != role }).rowDone row
      .next (l.mills.foldl State.quarantineEnds s4)

/-! ## Self-test (R592) -/

/-- SELF_TEST_DONE (R592): a mill that passes for the first time is its row's spare again, and any other is retired. -/
def execSelfTestDone (mill : Nat) (passes : Bool) (s : State) : Res :=
  if ¬ s.ras.testing.contains mill ∨ s.role mill ≠ 4 then .next s
  else
    let s1 := s.upRas fun r => { r with testing := r.testing.filter fun m => m != mill, again := r.again.filter fun m => m != mill }
    if passes ∧ ¬ s.ras.again.contains mill then
      .next (((s1.wr T.mill mill 0x48 2).faultRecord 0x42 T.mill mill 2).raise T.ras 0 I.RAS_DIAG_DONE)
    else .next (s1.retireMill mill)

/-! ## Device faults, barriers, the fault log (R597, R598, R607) -/

/-- A class D fault (R598): it is logged, recorded and raised; with FAIL_STOP every MAC stops once its frame in progress has ended. -/
def State.deviceFault (s : State) (kind typ inst detail : Nat) : State :=
  let s1 := ((s.rasLog kind 2 typ inst detail).finc F.RAS_COUNTS_DEVICE 0).fset F.RAS_STAT_DEVICE_FAULT 0 1
  let s2 := (s1.raise T.ras 0 I.RAS_DEVICE_FAULT).faultRecord kind typ inst detail
  if s.fbit F.RAS_CTRL_FAIL_STOP 0 then (s2.upRas fun r => { r with stopping := true }).failStop else s2

/-- DEVICE_FAULT (R598): a fault of class D reported to the RAS block. -/
def execDeviceFault (kind typ inst detail : Nat) (s : State) : Res := .next (s.deviceFault kind typ inst detail)

/-! ## Wait circles (R596) -/

/-- The block type and instance that the fault log names for a wait: the row of its lane or lock, or the RAS block. Marks: DEDUCED unsafe (log entry 350). -/
def waitBlock (w : Waiter) : Nat × Nat :=
  match w.on with
  | .lane r _ _ => (T.row, r)
  | .lock h n _ => (match lockRouter h n with | some (r, _) => (T.row, r) | none => (T.ras, 0))
  | .resource _ _ => (T.ras, 0)

/-- A Millhouse operation is retried once after an abort, and its second abort is a device fault (R596). -/
def State.millhouseAborted (s : State) (w : Waiter) (again : Bool) : State :=
  if again then s.deviceFault 3 (waitBlock w).1 (waitBlock w).2 (waitTag w)
  else
    let s1 := s.upRas fun r => { r with retried := r.retried ++ [waitTag w] }
    match w.on with
    | .lane row port f => s1.offerFlit row port f
    | .lock h n x => s1.lockPush h n x
    | .resource _ _ => s1

/-- What an aborted request's error response does (R596): BUS_ERROR at a stone, CTX_POISON at the hopper, FAULTED for a Vorak command, and one retry
of a Millhouse operation. The tag of a stone's request is its place among the stone's outstanding accesses, and that of a hopper's its bin slot.
Marks: DEDUCED unsafe (log entry 350). -/
def State.abortResult (s : State) (w : Waiter) (again : Bool) : State :=
  match w.who with
  | .stone n => (match (s.stone n).far[waitTag w]? with | some f => s.farDone n (waitTag w) f {} true | none => s)
  | .hopper n => (match (s.fetchOrder n).find? fun f => f.wu.st == .fetching (waitTag w) with | some f => s.fetchPoisoned n f | none => s)
  | .vorak p ring tag => (match s.findCmd p ring tag with | some c => s.complete c 0xA | none => s)
  | .millhouse => s.millhouseAborted w again
  | .unit _ => s

/-- A wait is aborted (R64, R90, R596): recorded, logged and counted, and its request gets an error response. -/
def State.abortWait (s : State) (w : Waiter) : State :=
  let s1 := (s.dropWait w).emit (.errorResponse w.who (waitTag w))
  let s2 := match waitPlace w with | some p => s1.detect 3 p (waitLane w) | none => s1
  let s3 := ((s2.rasLog 3 3 (waitBlock w).1 (waitBlock w).2 (waitTag w)).finc F.RAS_COUNTS_WAIT_ABORT 0).raise T.ras 0 I.RAS_WAIT_ABORT
  s3.abortResult w (s.ras.retried.contains (waitTag w))

/-- WAIT_STALL (R62, R63, R596): a wait watchdog of a half fires; of all requesters whose watchdog has counted at least half of VANE_WD.WAIT the
one whose wait began last is aborted. CANAL_FAULT of the
aborted request's own router records it. Marks: DEDUCED unsafe (log entry 350), DEDUCED safe (log entry 44). -/
def execWaitStall (e : StallEvent) (s : State) : Res :=
  let l := s.timedWaiters
  let fires (w : Waiter) : Bool := w.half == e.half && (decide (s.fget F.VANE_WD_WAIT e.half ≤ w.ticks) || s.tickLost e.half)
  if l.any fires then
    (match s.abortChoice l with
     | some w => .next (s.abortWait w)
     | none => .next s)
  else .next s

/-- The address of a register of the RAS page. -/
def rasAddr (off : Nat) : Nat := regAddr T.ras 0 off

/-- A write of RAS_BARRIER (R607): while GO reads 1 it is dropped and logged. Marks: DEDUCED unsafe (log entry 317). -/
def State.barrierWrite (s : State) (fn v : Nat) : State :=
  if s.fbit F.RAS_BARRIER_GO 0 then s.logErr T.ras 0 5 fn (rasAddr 0x70) v
  else if bitAt v 31 then s.fset F.RAS_BARRIER_GO 0 1 else s

/-- BARRIER_DONE (R597): every member has acknowledged. -/
def execBarrierDone (s : State) : Res := .next (s.fset F.RAS_BARRIER_GO 0 0)

/-! ## Resuming on the mate (R602) -/

/-- A write of RAS_RES_CTRL[p] (R607): dropped and logged while BUSY is 1, while p is not ACTIVE, or with a COUNT outside 1 to 65,536. Marks: DEDUCED unsafe (log entry 317). -/
def State.resCtrlWrite (s : State) (fn p v : Nat) : State :=
  let n := v % 2 ^ 17
  if s.fbit F.RAS_RES_CTRL_BUSY 0 p ∨ s.polState p ≠ 2 ∨ n = 0 ∨ 65536 < n then s.logErr T.ras 0 5 fn (rasAddr (0x108 + 16 * p)) v
  else
    let s1 := s.fset F.RAS_RES_CTRL_COUNT 0 n p
    if bitAt v 31 then s1.fset F.RAS_RES_CTRL_BUSY 0 1 p else s1

/-- The channel that a mirror record is applied to, where every check of R602 holds. -/
def State.recordChan (s : State) (p : Nat) (b : List Byte) : Option Nat :=
  let ab := leAt b 0 4
  let ba := leAt b 4 4
  if b.length = 1024 ∧ leAt b 0x3C 4 = crc32c (sub b 0 0x3C ++ b.drop 0x40) ∧ s.ownIndex p ab ∧ s.ownIndex p ba
      ∧ (s.strm ab).st = .bound ∧ (s.strm ba).st = .bound then
    match (s.strm ab).chan with
    | some c =>
      let x := s.chan c
      if (s.strm ba).chan = some c ∧ x.st = .bound ∧ x.polder = p ∧ x.typ = leAt b 8 1 ∧ leAt x.params 4 4 = ab ∧ leAt x.params 8 4 = ba then some c else none
    | none => none
  else none

/-- The state of one stream is loaded from its part of a record. -/
def State.loadStream (s : State) (i : Nat) (b : List Byte) : State :=
  let o (k : Nat) : Option Nat := if leAt b k 8 = 0 then none else some (leAt b k 8 - 1)
  s.upStrm i fun y => { y with txIndex := leAt b 0 8 % 2 ^ 48, rtcpTx := leAt b 8 8, rtp := { top := o 0x10, got := [] }, rtcp := { top := o 0x18, got := [] },
                               h := o 0x20, ssrc := o 0x28, tsAdd := leAt b 0x30 8 % 2 ^ 32 }

/-- One record is applied (R602): the streams and the resume area are loaded, and the channel becomes ACTIVE at the boundary that starts turn t + 2. Marks: DEDUCED unsafe (log entry 318). -/
def State.applyRecord (s : State) (c : Nat) (b : List Byte) : State :=
  let s1 := (s.loadStream (leAt b 0 4) (sub b 0x40 224)).loadStream (leAt b 4 4) (sub b 0x120 224)
  let k := (s.chan c).classes.getD 0 0
  let s2 := s1.setCtx k (memPut (s1.ctxOf k) 0x3C00 (sub b 0x200 512))
  s2.schedule (s.turn + 2) (.resume c (s.turn + 2 - leAt b 0x10 8))

/-- The records of a walk in order; one that fails a check leaves its objects unchanged and is counted. Answers the state, applied and failed. Marks: DESIGN CHOICE safe (log entry 153). -/
def State.walkRecords (s : State) (p : Nat) (data : List Byte) : Nat → Nat → State × Nat × Nat
  | 0, _ => (s, 0, 0)
  | n + 1, i =>
    let b := sub data (1024 * i) 1024
    match s.recordChan p b with
    | some c =>
      let r := (s.applyRecord c b).walkRecords p data n (i + 1)
      (r.1, r.2.1 + 1, r.2.2)
    | none =>
      let r := s.walkRecords p data n (i + 1)
      (r.1, r.2.1, r.2.2 + 1)

/-- RESUME_DONE (R602): the walk ends. The records are read through the Dike of the polder; those a walk fault keeps from it fail. -/
def execResumeDone (polder : Nat) (badTable : Option Nat) (s : State) : Res :=
  if 16 ≤ polder ∨ ¬ s.fbit F.RAS_RES_CTRL_BUSY 0 polder then .next s
  else
    let n := s.fget F.RAS_RES_CTRL_COUNT 0 polder
    let x := s.paRead polder 1 (pagesOf (1024 * n)) (s.fget F.RAS_RES_PA_PA 0 polder * 65536) (1024 * n) badTable []
    let r := x.s.walkRecords polder x.data n 0
    let s1 := (r.1.fset F.RAS_RES_STAT_APPLIED 0 r.2.1 polder).fset F.RAS_RES_STAT_FAILED 0 (min r.2.2 0x7FFF) polder
    .next ((s1.fset F.RAS_RES_CTRL_BUSY 0 0 polder).raise T.ras 0 I.RAS_RESUME_DONE)

end Sys2Proof.Machine
end

