-- ==== Sys2Proof/Machine/Trust.lean ====
section
/-!
DEFINITION. The boot and trust commands of Vorak (R579), measurements and reports (R562 to R566), debug unlock and the TAP (R567, R568), and
the SMBus target (R578, R585).
-/

namespace Sys2Proof.Machine

/-! ## Firmware updates (R561) -/

/-- A command of the PF only: its common checks with the caller. -/
def State.pfChecks (s : State) (c : VCmd) (zb : Bool) : List (Bool × Nat) := s.preChecks c zb ++ [(c.polder != 0, 7)]

/-- Is the Ledger ready for writes? -/
def State.ledgerReady (s : State) : Bool := s.fget F.LEDGER_STAT_STATE 0 == 1

/-- Was key 0 of the boot header written within the last minute (R457, R561)? -/
def State.key0Over (s : State) : Bool := s.ledgerOver ⟨1, 0, [], .none⟩

/-- FW_STAGE (R561, R579): the image goes to the slot that is not ACTIVE, and MR9 is extended with its digest. Marks: DEDUCED unsafe (log entry 214). -/
def execFwStage (p ring tag : Nat) (image : Option (List Byte)) (s : State) : Res :=
  runCmd p ring tag 0x70 (fun c t =>
    let pre := t.pfChecks c (zeroBad c false [])
    match image with
    | none => checked c pre (fun u => u.complete c 0xA) t
    | some img =>
      let d := img.take c.len
      let v := t.fwCheck d
      let slot := 1 - t.bootActive % 2
      checked c (pre ++ [(v == 2 || d.length != fwLen d, 6), (v != 0, 7), (!t.ledgerReady, 0xA)])
        (fun u => (((u.writeFwSlot slot d).extendMr 9 0 0x70 (fwDigest d)).raise T.trust 0 I.TRUST_FW_STAGED).complete c 0 0 0 0 slot) t) s

/-- FW_ACTIVATE (R561): the slot is verified again, and key 0 is asked for with the new ACTIVE. Marks: DEDUCED unsafe (log entry 214). -/
def execFwActivate (p ring tag : Nat) (s : State) : Res :=
  runCmd p ring tag 0x71 (fun c t =>
    let f := c.w 0 % 2
    let d := t.slotImage f
    checked c (t.pfChecks c (zeroBad c false [1]) ++ [(t.fwCheck d != 0, 7), (t.ledgerReady && t.key0Over, 0xB), (!t.ledgerReady, 0xA)])
      (fun u =>
        let mine := (leAt d 8 4, fwDigest d)
        let slots := if f = 0 then [mine, u.slotInfo 1] else [u.slotInfo 0, mine]
        ((u.markStarted c).extendMr 9 0 0x71 (fwDigest d)).ledgerAsk ⟨1, 0, bootKey0 f u.minSvn slots, .cmd c.order⟩) t) s

/-- FW_COMMIT_SVN (R561): MIN_SVN rises to the running image's SVN; the revocation of key slots follows the commit of key 0. -/
def execFwCommitSvn (p ring tag : Nat) (s : State) : Res :=
  runCmd p ring tag 0x72 (fun c t =>
    checked c (t.pfChecks c (zeroBad c false [1]) ++ [(t.ledgerReady && t.key0Over, 0xB), (!t.ledgerReady, 0xA)])
      (fun u =>
        let svn := max u.minSvn (u.fget F.TRUST_SVN_SVN 0)
        ((u.markStarted c).extendMr 9 0 0x72 (sha384 (leBytes 2 svn ++ leBytes 1 (c.w 0 % 2)))).ledgerAsk
          ⟨1, 0, bootKey0 u.bootActive svn [u.slotInfo 0, u.slotInfo 1], .cmd c.order⟩) t) s

/-! ## Measurements and reports (R562 to R566) -/

/-- The measurements a requester sees (R566), with their indices: 0 to 15 polders, 16 the SMBus target, which sees what the PF sees. -/
def State.visible (s : State) (who : Nat) : List (Nat × List Byte) :=
  let pf := who == 0 || who == 16
  (List.range 16).map (fun i => (i + 1, s.mrValue i)) ++ [(17, s.plogValue (if pf then 0 else who))]
    ++ (if pf then (List.range 15).map fun p => (18 + p, s.plogValue (p + 1)) else [])

/-- HMAC-SHA-384 (R564): a function of the key and the message that FIPS 198-1 fixes. Marks: DESIGN CHOICE safe (log entry 395). -/
def hmac384 (key l : List Byte) : List Byte := (List.range 48).map (Config.crypt ([385] ++ key.map (·.toNat) ++ [256] ++ l.map (·.toNat)))

/-- The compound device identifiers of the ROM and of the running image (R564). Marks: DESIGN CHOICE safe (log entry 395). -/
def State.cdi0 (s : State) : List Byte := hmac384 ((List.range 48).map Config.uds) (s.mrValue 0)
def State.cdi1 (s : State) : List Byte :=
  hmac384 s.cdi0 (s.trust.digest ++ leBytes 2 (s.fget F.TRUST_SVN_SVN 0) ++ leBytes 1 (s.fget F.TRUST_STAT_KEYSLOT 0))

/-- The signature of an Alias key, derived from CDI_1, over bytes: 96 of P-384 or 4,627 of ML-DSA-87 (R564, R566). Marks: DESIGN CHOICE safe (log entry 395). -/
def State.aliasSign (s : State) (ml : Bool) (l : List Byte) : List Byte :=
  (List.range (if ml then 4627 else 96)).map (Config.crypt ((if ml then 31 else 30) :: (s.cdi1 ++ l).map (·.toNat)))

/-- The bytes of a report: nonce, LOG_FULL, and each measurement with its index. Marks: DESIGN CHOICE safe (log entry 211). -/
def State.reportBytes (s : State) (nonce : List Byte) (ms : List (Nat × List Byte)) : List Byte :=
  nonce ++ leBytes 1 (b2n s.meas.full) ++ ms.flatMap fun e => leBytes 1 e.1 ++ e.2

/-- REPORT (R566, R579): the visible measurements, signed with both Alias keys. -/
def execReport (p ring tag : Nat) (s : State) : Res :=
  runCmd p ring tag 0x73 (fun c t =>
    let nonce := (List.range 8).flatMap fun i => leBytes 4 (c.w i)
    let body := t.reportBytes nonce (t.visible p)
    checked c (t.preChecks c (zeroBad c false (List.replicate 8 m32)) ++ [(decide (c.len < body.length + 4723), 6)])
      (fun u => (u.emit (.dmaWrite p c.addr (body ++ u.aliasSign false body ++ u.aliasSign true body))).complete c 0) t) s

/-- A record of the measurement log as 64 bytes (R563). Marks: DESIGN CHOICE safe (log entry 211). -/
def MRec.bytes (r : MRec) : List Byte := leBytes 1 r.mr ++ leBytes 1 r.polder ++ leBytes 1 r.typ ++ List.replicate 13 0 ++ r.v

/-- The records of the log that a polder sees (R563). -/
def State.logFor (s : State) (p : Nat) : List MRec := s.meas.log.filter fun r => p == 0 || !decide (5 ≤ r.mr ∧ r.mr ≤ 7) || r.polder == p

/-- LOG_READ (R563, R579): as many whole records as LEN takes, from record A0 of those the caller sees. -/
def execLogRead (p ring tag : Nat) (s : State) : Res :=
  runCmd p ring tag 0x74 (fun c t =>
    checked c (t.preChecks c (zeroBad c false [m32]))
      (fun u =>
        let l := ((u.logFor p).drop (c.w 0)).take (c.len / 64)
        (u.emit (.dmaWrite p c.addr (l.flatMap MRec.bytes))).complete c 0 0 0 l.length) t) s

/-- MR_EXTEND (R562, R579). -/
def execMrExtend (p ring tag : Nat) (value : Option (List Byte)) (s : State) : Res :=
  runCmd p ring tag 0x75 (fun c t =>
    let pre := t.pfChecks c (zeroBad c false [m32]) ++ [(decide (c.w 0 < 10 ∨ 15 < c.w 0), 6)]
    match value with
    | none => checked c pre (fun u => u.complete c 0xA) t
    | some d => checked c (pre ++ [(d.length != 48, 6)]) (fun u => (u.extendMr (c.w 0) 0 0x75 d).complete c 0) t) s

/-- The word of a measurement register that TRUST_MR_SEL names (R582). -/
def State.mrWord (s : State) : Nat := leAt (s.mrValue (s.fget F.TRUST_MR_SEL_MR 0)) (4 * s.fget F.TRUST_MR_SEL_WORD 0) 4

/-- After a unicast read of TRUST_MR_DATA WORD advances; after 11 it returns to 0, and MR advances (R582). -/
def State.mrAdvance (s : State) : State :=
  let w := s.fget F.TRUST_MR_SEL_WORD 0
  if w < 11 then s.fset F.TRUST_MR_SEL_WORD 0 (w + 1) else (s.fset F.TRUST_MR_SEL_WORD 0 0).fwrap F.TRUST_MR_SEL_MR 0

/-- RNG_FAIL (R581): the continuous test of the random source fails, or passes again, and the key draws that waited follow in order. Marks: DEDUCED safe (log entry 394). -/
def execRngFail (passes : Bool) (s : State) : Res :=
  let s1 := s.upPol fun x => { x with rngFail := !passes }
  .next (if passes then s.pol.keyWaits.foldl (fun t w => t.keyStep w.1 w.2.1 w.2.2) (s1.upPol fun x => { x with keyWaits := [] })
    else s1.raise T.trust 0 I.TRUST_RNG_FAIL)

/-! ## Debug unlock (R567) -/

/-- DEBUG_CHALLENGE (R567): a new nonce replaces the earlier one. -/
def execDebugChallenge (p ring tag : Nat) (s : State) : Res :=
  runCmd p ring tag 0x76 (fun c t =>
    checked c (t.pfChecks c (zeroBad c false []))
      (fun u =>
        let r := u.freeBytes 4
        ((r.2.upTrust fun x => { x with nonce := some r.1 }).emit (.dmaWrite 0 c.addr r.1)).complete c 0) t) s

/-- Is a debug token accepted (R567)? -/
def State.tokenOk (s : State) (d : List Byte) : Bool :=
  let l := d.map (·.toNat)
  let uid := (List.range 4).flatMap fun i => leBytes 4 (s.fget F.TRUST_UID_UID 0 i)
  d.length == 7507 && leAt d 0 4 == 0x4D424454 && decide (leAt d 4 4 < 4) && sub d 8 16 == uid && s.trust.nonce == some (sub d 0x18 32)
    && decide (leAt d 0x38 1 ≤ 1) && zeroAt d 0x39 7 && zeroAt d 0xA1 31
    && s.keyFused (4 + leAt d 0x38 1) (sub d 0x40 97) (sub d 0xC0 2592) && Config.verify (14 :: l) && Config.verify (15 :: l)
    && (List.range 16).all fun p => p == 0 || s.polState p == 0

/-- The device is debug-unlocked by an accepted token. -/
def State.unlock (s : State) (d : List Byte) : State :=
  let s1 := ((s.fset F.TRUST_STAT_DEBUG 0 1).fset F.TRUST_STAT_SCOPE 0 (leAt d 4 4)).extendMr 8 0 8 (sha384 d)
  ((s1.upTrust fun x => { x with nonce := none }).strictUpdate).raise T.trust 0 I.TRUST_DEBUG_UNLOCKED

/-- DEBUG_UNLOCK (R567). Marks: DEDUCED unsafe (log entry 215). -/
def execDebugUnlock (p ring tag : Nat) (token : Option (List Byte)) (s : State) : Res :=
  runCmd p ring tag 0x77 (fun c t =>
    let pre := t.pfChecks c (zeroBad c false [])
    match token with
    | none => checked c pre (fun u => u.complete c 0xA) t
    | some d => checked c (pre ++ [(!t.tokenOk (d.take c.len), 7)]) (fun u => (u.unlock (d.take c.len)).complete c 0) t) s

/-- TAP_INSTRUCTION (R568): EXTEST, CLAMP and HIGHZ load only while SYS_RST_N is low; an internal instruction needs SCOPE bit 1, and may present a
token. Any other one selects BYPASS. -/
def execTapInstruction (i : TapInstr) (s : State) : Res :=
  let set (t : State) (v : TapInstr) := t.upTrust fun x => { x with tap := v }
  match i with
  | .bypass => .next (set s .bypass)
  | .sample => .next (set s .sample)
  | .idcode =>
    let v := s.fuse.stepIndex % 16 * 2 ^ 28 + (if s.fuse.is6480 then 0x6480 else 0x6440) * 2 ^ 12 + Config.jedec.toNat * 2 + 1
    .next ((set s .idcode).emit (.idcode v))
  | .extest => .next (set s (if s.trust.boot = .held then .extest else .bypass))
  | .clamp => .next (set s (if s.trust.boot = .held then .clamp else .bypass))
  | .highz => .next (set s (if s.trust.boot = .held then .highz else .bypass))
  | .internal tok =>
    let t := match tok with
      | some d => if s.tokenOk d then s.unlock d else s
      | none => s
    .next (set t (if t.debugUnlocked ∧ bitAt (t.fget F.TRUST_STAT_SCOPE 0) 1 then .internal tok else .bypass))

/-! ## STANDBY and DEVICE_RESET (R573, R579) -/

/-- The Ledger completes its records, those beyond a limit refused, and refuses further writes (step 2 of R573). Marks: DEDUCED unsafe (log entry 208). -/
def State.ledgerFinish (s : State) : State :=
  let s1 := s.ledgerCommit
  let l := s1.led.reqs
  let s2 := l.foldl (fun t r => if t.ledgerOver r then t.ledgerRefuse r else t.ledgerNow r) (s1.upLed fun x => { x with reqs := [] })
  s2.fset F.LEDGER_STAT_STATE 0 2

/-- The locks of the HBM slices are asked to stop (R72); a word that waits raises a wake. -/
def State.stopHbmLocks (s : State) : State :=
  (List.range 32).foldl
    (fun t i =>
      let l := t.lock (i / 16) (i % 16)
      if l.st = .run then
        let u := t.setLock (i / 16) (i % 16) { l with st := .drain }
        if l.waiting.isEmpty then u else u.raiseWake (i / 16) (i % 16)
      else t) s

/-- STANDBY (R573): reception ends, the Ledger finishes, the command completes, and every switched domain and the PCIe link go down; the HBM slices
and the rows whose locks have not stopped follow as they do (R72). Marks: DEDUCED unsafe (log entry 207). -/
def execStandby (p ring tag : Nat) (s : State) : Res :=
  runCmd p ring tag 0x78 (fun c t =>
    checked c (t.pfChecks c (zeroBad c false []) ++ [((List.range 16).any (fun q => q != 0 && t.polState q != 0), 1)])
      (fun u =>
        let u1 := (u.fset F.CLS_CTRL_EN 0 0).fset F.CLS_CTRL_EN 1 0
        let u2 := (List.range 16).foldl (fun v n => v.upPort n fun x => { x with tx := none, pfcNow := false }) u1
        let u3 := ((if u2.ledgerReady then u2.ledgerFinish else u2).fset F.POWER_STBY_CAUSE_STBY 0 1).complete c 0
        let u4 := ((u3.fset F.PCIE_STAT_LINK 0 0).fset F.PCIE_STAT_SPEED 0 0).fset F.PCIE_STAT_WIDTH 0 0
        let u5 := u4.stopHbmLocks
        let off := ((List.range 184).filter fun d => d != 176 && u5.locksStopped d).foldl (fun v d => v.setDom d 0) u5
        off.upPower fun x => { x with standby := true, queued := [], later := [] }) t) s

/-- DEVICE_RESET (R579): a device reset begins after the completion. -/
def execDeviceReset (p ring tag : Nat) (s : State) : Res :=
  runCmd p ring tag 0x79 (fun c t => checked c (t.pfChecks c (zeroBad c false [])) (fun u => (u.complete c 0).deviceReset 4) t) s

/-! ## SPDM and MCTP (R565, R566, R578, R585) -/

/-- An SPDM request is answered: the measurements it returns, and its signatures, signed in order of arrival. Marks: DESIGN CHOICE safe (log entry 218). -/
def State.spdm (s : State) (who : Nat) (r : SpdmReq) : State :=
  let sign (ml : Bool) (nonce : List Byte) (ms : List (Nat × List Byte)) := s.aliasSign ml (s.reportBytes nonce ms)
  match r with
  | .getMeasurements i signed =>
    let ms := if i = 0xFF then s.visible who else (s.visible who).filter fun e => e.1 == i
    s.emit (.spdm who r ms (if signed then [sign false [] ms] else []))
  | .vendorReport n => s.emit (.spdm who r (s.visible who) [sign false n (s.visible who), sign true n (s.visible who)])
  | .challenge _ n => s.emit (.spdm who r [] [sign false n []])
  | _ => s.emit (.spdm who r [] [])

/-- Does firmware run, so that SPDM is answered? -/
def State.firmwareRuns (s : State) : Bool := s.trust.boot == .firmware || s.trust.boot == .memory || s.trust.boot == .done

/-- SPDM_REQUEST (R565): from the mailbox of a function, once configuration requests complete normally, or the SMBus target. -/
def execSpdmRequest (who : Nat) (req : SpdmReq) (s : State) : Res :=
  let ok := s.firmwareRuns && (who == 16 || (s.trust.boot != .firmware && decide (who < 16) && s.fnPresent who && !s.trust.perst))
  .next (if ok ∧ ¬ s.power.standby then s.spdm who req else s)

/-- MCTP_PACKET (R578, R585). -/
def execMctpPacket (badPec noBuffer : Bool) (msg : MctpMsg) (s : State) : Res :=
  if ¬ s.fbit F.SMBT_CTRL_EN 0 ∨ s.trust.boot = .held ∨ s.power.standby then .next s
  else if badPec then .next (((s.finc F.SMBT_COUNTS_PEC_ERR 0).finc F.SMBT_COUNTS_DROPPED 0).raise T.smbt 0 I.SMBT_PEC_ERR)
  else if noBuffer then .next (s.finc F.SMBT_COUNTS_DROPPED 0)
  else match msg with
    | .setEid e => .next (((s.fset F.SMBT_STAT_EID 0 e).raise T.smbt 0 I.SMBT_EID_SET).emit (.mctp msg (e % 256)))
    | .spdm r => .next (if s.firmwareRuns then s.spdm 16 r else s)
    | .other _ => .next s
    | m => .next (s.emit (.mctp m (s.fget F.SMBT_STAT_EID 0)))

/-- SMBUS_TARGET_TIMEOUT (R585). -/
def execSmbusTargetTimeout (s : State) : Res := .next (if s.fbit F.SMBT_CTRL_EN 0 then s.raise T.smbt 0 I.SMBT_TIMEOUT else s)

end Sys2Proof.Machine
end

