-- ==== Sys2Proof/Machine/Vane.lean ====
section
/-!
DEFINITION. The vanes' samples, the loss of the tick, and the daily record of the lowest pace (R50, R52, R53, R59, R63).
-/

namespace Sys2Proof.Machine

/-- TICK_LOSS (R63): the watchdogs of the die count on their local oscillator. -/
def execTickLoss (half : Nat) (s : State) : Res :=
  if 2 ≤ half then .next s
  else
    let s1 : State := { s with fab := if half = 0 then { s.fab with tickLost0 := true } else { s.fab with tickLost1 := true } }
    .next (s1.raise T.vane half I.VANE_TICK_LOSS)

/-- A mill's surplus and the accounts of its stones are withdrawn for the rest of the turn (R52). -/
def State.paceDrop (s : State) (m : Nat) : State :=
  let acc := (List.range 16).foldl (fun u k => Tab.set (fun _ => 0) u (16 * m + k) 0) s.sch.accounts
  (s.upSch fun c => { c with accounts := acc }).raise T.vane (halfOf m) I.VANE_PACE_DROP

/-- One mill's reading: the lowest of its four vanes (R50, R52, R53, R86). -/
def State.vaneReading (s : State) (m : Nat) (readings : List Nat) : State :=
  let h := halfOf m
  let v := paceSat (lowest readings)
  let low := match Tab.get (fun _ => (none : Option Nat)) s.fab.turnMin m with | some w => min w v | none => v
  let s1 := s.fset F.VANE_MILL_PACE_NOW h v (m % 40)
  let s2 : State := { s1 with fab := { s1.fab with turnMin := Tab.set (fun _ => none) s1.fab.turnMin m (some low) } }
  let s3 := if v < Tab.get (fun _ => 0) s.fab.paceUsed m then s2.paceDrop m else s2
  let s4 := if v < s.fget F.VANE_THRESH_LOW h then s3.raise T.vane h I.VANE_PACE_LOW else s3
  if v < 1400 then s4.raise T.vane h I.VANE_PACE_FLOOR else s4

/-- VANE_SAMPLE (R50): the readings of the four vanes of the powered mills of a half, those in role 0x1 or 0x3. -/
def execVaneSample (half : Nat) (samples : List (Nat × List Nat)) (s : State) : Res :=
  .next ((samples.filter fun e => halfOf e.1 == half && s.member e.1).foldl (fun t e => t.vaneReading e.1 e.2) s)

/-- PACE_LOG_RECORD (R59): two bytes for each physical mill with its lowest PACE of the day, zero for a mill with none. -/
def execPaceLogRecord (s : State) : Res :=
  let low (m : Nat) : Nat := (Tab.get (fun _ => (none : Option Nat)) s.fab.dayMin m).getD 0
  let pay := (List.range 80).flatMap fun m => leBytes 2 (low m)
  .next ({ s with fab := { s.fab with dayMin := [] } } |>.ledgerAsk ⟨5, 0, pay, .none⟩)

end Sys2Proof.Machine
end

