-- ==== Sys2Proof/Machine/Bus.lean ====
section
/-!
DEFINITION. Register access (R11 to R15, R21 to R24, R486, R493 to R500): what every register reads, what a write to it does, the decoding of a
BAR0 address with its access modes and views, and the commands of an access.
-/

namespace Sys2Proof.Machine

/-! ## What registers read -/

/-- The fields of a register that read what they hold: WO fields read zero (R11). -/
def readMask (t inst off : Nat) : Nat :=
  (fieldsAt t inst off).foldl (fun m f => if f.acc = .wo then m else m ||| ((2 ^ f.w - 1) * 2 ^ f.lo)) 0

/-- A register as it is held. -/
def State.plain (s : State) (t inst off : Nat) : Nat := s.rd t inst off &&& readMask t inst off

/-- How many instances of a type the part has (BLK_CAP.COUNT). Marks: DEDUCED unsafe (log entry 81). -/
def instCount (z : Fuse) (t : Nat) : Nat := if t = T.mill then z.mills else instances t

/-- Does a page have RWL fields (BLK_CAP.RWL)? -/
def hasRwl (t : Nat) : Bool := (fieldsOf t).any fun f => f.acc == .rwl

/-- BLK_STAT of a page by its own registers (R498). Marks: DEDUCED safe (log entry 82). -/
def State.ownStat (s : State) (t inst : Nat) : Nat :=
  b2n (bitAt (s.rd t inst 0x28) 31) * 4 + b2n (bitAt (s.rd t inst 0x10) 31) * 2 + b2n (s.ipend t inst != 0)

/-- ROW_MAP of row r (R26): the role codes of its positions and its spares. -/
def State.rowMap (s : State) (r : Nat) : Nat :=
  let l := (List.range 5).map fun k => s.role (5 * r + k)
  (l.filter (· == 2)).length * 2 ^ 20 + ofLeBytes (bytesOf [l.getD 0 0 + 16 * l.getD 1 0, l.getD 2 0 + 16 * l.getD 3 0, l.getD 4 0])

/-- HALF_ROWS of half h (R29). -/
def State.halfRows (s : State) (h : Nat) : Nat :=
  (List.range 8).foldl
    (fun v i =>
      let r := 8 * h + i
      if r < s.fuse.rows then
        v + 2 ^ i + b2n (((List.range 5).map (5 * r + ·)).all fun m => s.role m != 2) * 2 ^ (8 + i)
          + b2n (decide ((s.rowMembers r).length < 4)) * 2 ^ (16 + i)
      else v) 0

/-- DIKE_PARCEL_DATA of a parcel (R488). -/
def State.parcelData (s : State) (g : Nat) : Nat :=
  let o := Tab.get (fun _ => 0) s.pol.owner g
  if g % 9728 < 1440 then 0
  else match s.pol.zero.find? fun j => j.parcel == g with
  | some j => 3 * 2 ^ 30 + (if o = 0 then j.polder else o - 1)
  | none => if o = 0 then 2 ^ 30 else 2 * 2 ^ 30 + (o - 1)

/-- QUEUE_CFG of the queue that QUEUE_SEL names (R353). -/
def State.queueCfg (s : State) : Nat :=
  let id := s.fget F.QUEUE_SEL_QID 0
  let q := s.queue id
  b2n q.notice * 2 ^ 31 + s.qPolder id * 2 ^ 24 + qKind s.fuse id * 2 ^ 21 + q.limit

/-- The words of the fault-log entry that RAS_FLOG_SEL names (R607). -/
def State.flogWord (s : State) (k : Nat) : Nat :=
  match s.flog.drop (s.fget F.RAS_FLOG_SEL_ENTRY 0) with
  | [] => 0
  | e :: _ =>
    match k with
    | 0 => 2 ^ 31 + e.kind % 256 * 65536 + e.cls % 4 * 16384 + e.typ % 64 * 256 + e.inst % 128
    | 1 => e.turn
    | _ => e.detail % 2 ^ 32

/-- What a register whose value is the live state of the hardware reads (R16), in the page's own layout; none for a register that reads what it
holds. Windows are read without the effects of a unicast read; `fn` is the reader. -/
def State.live (s : State) (fn t inst off : Nat) : Option Nat :=
  match t with
  | 1 =>
    if 0x100 ≤ off ∧ off < 0x200 then
      let x := s.stone (16 * inst + (off - 0x100) / 16)
      if off % 16 = 0 then some x.statWord else if off % 16 = 8 then some x.nextPcReg else none
    else match off with
    | 0x44 => some (s.millBusy inst + b2n (s.millHalted inst) * 65536)
    | 0x84 => some (s.winRead fn inst).2
    | 0x204 => some (s.mill inst).boltStat
    | 0x20C => some (if s.windowRights fn inst then s.boltRead inst off else 0)
    | 0x210 => some (if s.windowRights fn inst then s.boltRead inst off else 0)
    | 0x214 => some (if s.windowRights fn inst then s.boltRead inst off else 0)
    | 0x21C => some (if s.windowRights fn inst then s.boltRead inst off else 0)
    | 0x400 => if s.frozen t inst then none else some (s.hopperStat inst)
    | _ => none
  | 2 => if off = 0xC00 then some (s.rowMap inst) else if off = 0xC04 then some (22400 * (s.rowMembers inst).length) else none
  | 3 =>
    if off = 0xC00 then some (s.halfRows inst)
    else if off = 0xC04 then some (22400 * (s.halfMembers inst).length)
    else if 0xC40 ≤ off ∧ off < 0xC8C then
      let l := s.lock inst ((off - 0xC40) / 4)
      some ((s.plain t inst off &&& 0x80000300) + l.rx.length * 2 ^ 24 + l.tx.length * 65536 + l.st.code)
    else none
  | 4 =>
    let n := 640 * inst + s.fget F.MILLER_STONE_SEL_STONE inst
    match off with
    | 0x44 => some ((s.plain t inst off &&& 2 ^ 31) + (List.range 8).foldl (fun v i => v + b2n (s.sch.takeover.contains (8 * inst + i)) * 2 ^ (16 + i)) 0)
    | 0x50 => some (s.budget inst)
    | 0x54 => some (s.admitted inst)
    | 0x78 => some (s.classesUsed inst)
    | 0x84 => some (peakOf Klass.volume (s.stoneAdmitted n) * 2 ^ 18 + peakOf (fun _ => 1) (s.stoneAdmitted n) * 2 ^ 11 + s.stoneGrains n)
    | _ => none
  | 5 =>
    match off with
    | 0x48 => some (match (s.memLog T.pond inst).drop (s.fget F.POND_LOG_SEL_ENTRY inst) with
        | [] => 0
        | e :: _ => 2 ^ 31 + e.count * 2 ^ 23 + b2n e.dir * 2 ^ 22 + e.key % 2 ^ 18)
    | 0x4C => some (s.plain t inst off + (s.memLog T.pond inst).length * 256)
    | _ => none
  | 6 =>
    let e := ((s.memLog T.hbmc inst).drop (s.fget F.HBMC_LOG_SEL_ENTRY inst)).head?
    match off with
    | 0x50 => some (match e with | some x => 2 ^ 31 + x.key % 2 ^ 29 | none => 0)
    | 0x54 => some (match e with | some x => x.count * 2 ^ 24 + x.die * 2 ^ 20 | none => 0)
    | 0x58 => some (s.plain t inst off + (s.memLog T.hbmc inst).length * 256)
    | _ => none
  | 7 => if off = 0xA8 ∧ inst = 0 then some (s.parcelData (s.fget F.DIKE_PARCEL_SEL_PARCEL 0)) else none
  | 8 =>
    match off with
    | 0x44 => some (s.stashed inst * 2 ^ 20 + s.entries inst)
    | 0x4C => some (Tab.get vmapReset (s.clsf inst).vmap (s.fget F.CLS_VMAP_SEL_VLAN inst))
    | _ => none
  | 10 =>
    let id := s.fget F.QUEUE_SEL_QID 0
    if 0x100 ≤ off ∧ off < 0x180 then some (s.poolUsed ((off - 0x100) / 4))
    else if 0x1C0 ≤ off ∧ off < 0x200 then some (s.jbUsed ((off - 0x1C0) / 4))
    else match off with
    | 0x48 => some s.queueCfg
    | 0x4C => some (min 255 (s.queue id).gapPend * 2 ^ 24 + (s.queue id).cells)
    | 0x50 => some (s.queue id).pkts
    | 0x54 => some (s.winDataRead fn 0).2
    | 0x58 => some s.winStat
    | _ => none
  | 11 =>
    if off = 0x44 then
      some ((s.plain t inst off &&& 0xFF26) + b2n (s.absorbed inst) * 16 + b2n (s.fget F.MAC_CT_THRESH inst == 0) * 8 + b2n (s.linkUp inst))
    else if off = 0x40 ∧ inst % 2 = 1 then some (setField (s.plain t inst off) 8 2 (s.pmode inst))
    else none
  | 13 =>
    if off = 0x44 then
      let r := s.fget F.SERDES_CTRL_TEST_RATE inst
      let pam4 := s.fbit F.SERDES_CTRL_EN inst && (if r = 0 then decide (2 ≤ s.pmode inst) else r == 5)
      some ((s.plain t inst off &&& 0xFF) + b2n pam4 * 256)
    else none
  | 14 => if off = 0x74 then some (s.gclRead inst) else none
  | 15 =>
    let now := Tab.get (fun _ => 0) s.tide.nowLatch fn
    let w := Tab.get (fun _ => []) s.tide.tsLatch fn
    match off with
    | 0x48 => some (s.nowUnits % unitSec / unitNs)
    | 0x4C => some (now / unitSec % 2 ^ 32)
    | 0x50 => some (now / unitSec / 2 ^ 32 % 65536)
    | 0x54 => some (now % unitNs)
    | 0x5C => some (freqBits s.hofreq)
    | 0x88 => some s.hoTime
    | 0xA4 => some (w.getD 0 0)
    | 0xA8 => some (w.getD 1 0)
    | 0xAC => some (w.getD 2 0)
    | 0xB0 => some (w.getD 3 0)
    | 0xB4 => some s.tsStat
    | _ => none
  | 17 => if off = 0x54 then some s.ledgerWord else none
  | 19 =>
    let on (d : Nat) : Nat := b2n (s.dom d == 3)
    let d := s.fget F.POWER_DOM_SEL_DOM 0
    if off = 0x4C then some (b2n (s.domFixed d) * 32 + b2n (s.power.queued.contains d) * 16 + s.domStat d)
    else if 0x60 ≤ off ∧ off < 0x78 then
      some ((List.range 32).foldl (fun v j => if 32 * ((off - 0x60) / 4) + j < 184 then v + on (32 * ((off - 0x60) / 4) + j) * 2 ^ j else v) 0)
    else none
  | 20 =>
    if off = 0x40 then some (setField (s.plain t inst off) 28 1 (b2n s.meas.full)) else if off = 0x54 then some s.mrWord else none
  | 24 =>
    if off = 0x68 ∧ inst = 0 then some ((s.plain t inst off &&& 0x403FF) + b2n s.atVmin * 2 ^ 17 + b2n s.atVmax * 2 ^ 16) else none
  | 23 =>
    if off = 0x44 then some (s.inFlight inst * 65536 + (List.range 16).foldl (fun v r => v + b2n (s.ringWaiting inst r) * 2 ^ r) 0) else none
  | 26 =>
    match off with
    | 0x44 => some ((s.plain t inst off &&& 0x30000) + s.sch.takeover.foldl (fun v r => setBitN v r) 0 % 65536)
    | 0x4C => some (s.flogWord 0)
    | 0x50 => some (s.flogWord 1)
    | 0x54 => some (s.flogWord 2)
    | 0x58 => some (s.plain t inst off + s.flog.length * 256)
    | _ => none
  | _ => none

/-- The pair whose _LO or _HI register an offset is: the pair, the copy, and whether it is _HI. The SPILL pairs act on the polder that
SPILL_SEL names (R352). -/
def State.pairAt (s : State) (t off : Nat) : Option (Ctr × Nat × Bool) :=
  match (ctrsOf t).find? fun c => c.off == off || c.off + 4 == off with
  | some c => some (c, if t = T.queue then s.fget F.SPILL_SEL_POLDER 0 else 0, c.off != off)
  | none => none

/-- MILLER 1 of the PHD-6440 has no register after the header (R191). -/
def State.noRegs (s : State) (t inst off : Nat) : Bool := t == T.miller && inst == 1 && !s.fuse.is6480 && decide (0x40 ≤ off)

/-- The bits of a register that report what the block does not hold: the level of a line, a carrier, a transfer on a bus, a checker's lock or
a count of line errors (R16), and the next PC of a stone that has none (R159). They read a free value. Marks: DESIGN CHOICE safe (log entry 335). -/
def State.openBits (s : State) (t inst off : Nat) : Nat :=
  let prbs := s.fbit F.SERDES_CTRL_EN inst && s.fget F.SERDES_CTRL_PRBS inst != 0
  match t, off with
  | 1, _ =>
    let x := s.stone (16 * inst + (off - 0x100) / 16)
    if 0x100 ≤ off ∧ off < 0x200 ∧ off % 16 = 8 ∧ x.lastBvec.isSome ∧ x.active.isNone ∧ x.staged = [] ∧ ¬ s.frozen t inst then 0xFFFFFFF0 else 0
  | 12, 0x44 => 2 + (if s.mgCsma && s.fbit F.MG_STAT_TX_BUSY 0 then 1 else 0)
  | 13, 0x44 => (if prbs then 128 else 0) + (if s.fbit F.SERDES_CTRL_EN inst && !s.fbit F.SERDES_STAT_CDR_LOCK inst then 1 else 0)
  | 13, 0x4C => if s.fbit F.SERDES_CTRL_EN inst then 0xFFFFFFFF else 0
  | 13, 0x50 => if s.fbit F.SERDES_CTRL_EN inst then 0xFFFFFFFF else 0
  | 13, 0x54 => if prbs then 0xFFFFFFFF else 0
  | 21, 0x44 => if s.fbit F.I2CM_STAT_CLEARING inst || s.fbit F.I2CM_STAT_BUS_STUCK inst then 16 else 24
  | 22, 0x44 => 256
  | _, _ => 0

/-- A register of a page whose bits are all held or live. -/
def State.peekHeld (s : State) (fn t inst off : Nat) : Nat :=
  if s.noRegs t inst off then 0
  else match off with
  | 0x00 => t * 2 ^ 24 + inst * 65536
  | 0x04 => (Config.blkVer t).toNat
  | 0x08 => instCount s.fuse t * 256 + b2n (t == T.row || t == T.half) * 2 + b2n (hasRwl t)
  | 0x14 => s.ownStat t inst
  | 0x24 => s.ipend t inst
  | _ =>
    match s.pairAt t off with
    | some (c, i, hi) =>
      if hi then (Tab.get (fun _ => (0 : Word)) s.latch (latchKey fn t inst off)).toNat else s.cget c inst i % 2 ^ 32
    | none => (s.live fn t inst off).getD (s.plain t inst off)

/-- A register of a page as a group read sees it, with no effect (R13). Marks: DESIGN CHOICE safe (log entry 335). -/
def State.peek (s : State) (fn t inst off : Nat) : Nat :=
  let m := s.openBits t inst off
  if m = 0 then s.peekHeld fn t inst off
  else (s.peekHeld fn t inst off &&& (m ^^^ 0xFFFFFFFF)) ||| ((Config.freeValue s.fresh).toNat &&& m)

/-- Is an offset of an aggregate page read as the OR of its members (R22)? Marks: DEDUCED unsafe (log entry 77). -/
def aggRead (off : Nat) : Bool := (decide (0x40 ≤ off) && decide (off < 0xC00)) || off == 0x14 || off == 0x18 || off == 0x1C || off == 0x24

/-- The members of an aggregate page (R22). -/
def State.aggMembers (s : State) (t inst : Nat) : List Nat := if t = T.row then s.rowMembers inst else s.halfMembers inst

/-- A register of a page with no effect: an aggregate page's registers are the OR of its members' (R22). -/
def State.pageValue (s : State) (fn t inst off : Nat) : Nat :=
  if (t = T.row ∨ t = T.half) ∧ aggRead off then
    (s.aggMembers t inst).foldl (fun v m => v ||| s.peek fn T.mill m off) (if off = 0x14 then s.ownStat t inst &&& 6 else 0)
  else s.peek fn t inst off

/-! ## Unicast reads (R11, R13, R14) -/

/-- The bits of a register that a unicast read clears to their reset values. -/
def rcMask (t inst off : Nat) : Nat :=
  (fieldsAt t inst off).foldl (fun m f => if f.acc = .rc then m ||| ((2 ^ f.w - 1) * 2 ^ f.lo) else m) 0

/-- Clears the RC fields of a register to their reset values (R11). -/
def State.clearRc (s : State) (t inst off : Nat) : State :=
  let m := rcMask t inst off
  if m = 0 then s
  else s.wr t inst off ((s.rd t inst off &&& (m ^^^ 0xFFFFFFFF)) ||| ((regReset s.fuse (regAddr t inst off)).toNat &&& m))

/-- A unicast read of the low register of a pair (R14): bits 31:0, with bits 63:32 latched for the reader; an RC pair is cleared. -/
def State.pairRead (s : State) (fn t inst off : Nat) (c : Ctr) (i : Nat) (clear : Bool) : State × Nat :=
  let v := s.cget c inst i
  let s1 : State := { s with latch := Tab.set (fun _ => (0 : Word)) s.latch (latchKey fn t inst (off + 4)) (BitVec.ofNat 32 (v / 2 ^ 32)) }
  (if c.rc && clear then s1.cset c inst 0 i else s1, v % 2 ^ 32)

/-- A unicast read of a register of a page: the value and the effects of the read. A frozen mill's page keeps its state. Marks: DEDUCED safe (log entry 83). -/
def State.pageRead (s : State) (fn addr t inst off : Nat) : State × Nat :=
  let v := s.pageValue fn t inst off
  if s.noRegs t inst off ∨ ((t = T.row ∨ t = T.half) ∧ aggRead off) then (s, v)
  else match s.pairAt t off with
  | some (c, i, hi) => if hi then (s, v) else s.pairRead fn t inst off c i (!s.frozen t inst)
  | none =>
    if s.frozen t inst then (s, v)
    else match t, off with
    | 1, 0x84 => s.winRead fn inst
    | 1, 0x20C => (if s.windowRights fn inst then s else s.deny inst, v)
    | 1, 0x210 => (if s.windowRights fn inst then s else s.deny inst, v)
    | 1, 0x214 => (if s.windowRights fn inst then s else s.deny inst, v)
    | 1, 0x21C => ((if s.windowRights fn inst then s else s.deny inst).coefAdvance inst, v)
    | 10, 0x54 => s.winDataRead fn addr
    | 14, 0x74 => (s.gclAdvance inst, v)
    | 15, 0x48 => s.tideNowRead fn
    | 15, 0xA4 => s.tsPop fn
    | 15, 0xB4 => (s.upTide fun x => { x with tsDrops := Tab.erase x.tsDrops (s.fget F.TIDE_TS_SEL_SRC 0) }, v)
    | 17, 0x54 => (s.ledgerAdvance, v)
    | 19, 0x4C => (s.takeFree.2, v)
    | 20, 0x54 => (s.mrAdvance, v)
    | _, _ => ((if s.openBits t inst off = 0 then s else s.takeFree.2).clearRc t inst off, v)

/-! ## Writes: the rules of the registers -/

/-- The sum of a field over the copies of a register with copy idx replaced by v. -/
def State.sumCopies (s : State) (f : Fld) (inst idx v : Nat) (step first : Nat) : Nat :=
  (List.range 16).foldl (fun a p => a + (if first + step * p = idx then v else s.fget f inst (first + step * p))) 0

/-- The sum of a field over the sixteen DIKE pages with that of page p replaced by v (R465). Marks: DEDUCED safe (log entry 82). -/
def State.sumDikes (s : State) (f : Fld) (p v : Nat) : Nat :=
  (List.range 16).foldl (fun a q => a + (if q = p then v else s.fget f q)) 0

/-- May a ring's base be written: is its EN 0 (R528)? -/
def State.baseFree (s : State) (p off : Nat) : Bool :=
  if off < 0x300 then !s.fbit F.RING_CFG_EN p ((off - 0x100) / 32) else !s.fbit F.RX_CFG_EN p ((off - 0x300) / 16)

/-- The bits of a register that a write may change. -/
def rwMask (t inst off : Nat) : Nat :=
  (fieldsAt t inst off).foldl (fun m f => if f.acc = .rw then m ||| ((2 ^ f.w - 1) * 2 ^ f.lo) else m) 0

/-- Is a value allowed in a register by the register's own rule? A write that is not is dropped and logged with KIND 0x5. `v` has its locked
fields already replaced by what they hold (R11). Marks: DEDUCED unsafe (log entry 75). -/
def State.valueOk (s : State) (t inst off v : Nat) : Bool :=
  match t with
  | 1 => off != 0x218 || decide (v % 8 ≤ 4)
  | 2 =>
    if 0xC80 ≤ off ∧ off < 0xCC0 then
      let i := (off - 0xC80) / 4
      decide (s.sumCopies F.CANAL_VLCRED_REQ inst i (bitField v 0 8) 1 0 ≤ 64) && decide (s.sumCopies F.CANAL_VLCRED_RSP inst i (bitField v 8 8) 1 0 ≤ 64)
    else true
  | 3 => off != 0xC90 || v % 256 != 0
  | 4 => off != 0x80 || decide (v % 1024 ≤ 639)
  | 7 =>
    match off with
    | 0x58 => decide (s.sumDikes F.DIKE_CLASSES0_QUOTA inst (v % 2 ^ 17) ≤ 65536)
    | 0x5C => decide (s.sumDikes F.DIKE_CLASSES1_QUOTA inst (v % 2 ^ 17) ≤ 65536)
    | 0x60 => decide (s.sumDikes F.DIKE_ENTRIES_QUOTA inst (v % 2 ^ 19) ≤ 262144)
    | 0x64 => decide (s.sumDikes F.DIKE_OBJQ_BUNDLES inst (v % 2 ^ 15) ≤ 16384) && decide (s.sumDikes F.DIKE_OBJQ_KSTORE inst (bitField v 24 7) ≤ 64)
    | 0x68 => decide (s.sumDikes F.DIKE_DMA_RATE_MBPS inst (v % 2 ^ 16) ≤ 40000)
    | 0xA4 => decide (v % 2 ^ 15 ≤ 19455)
    | _ => true
  | 8 =>
    if 0x100 ≤ off ∧ off < 0x300 then
      let p := (off - 0x100) / 32
      match (off - 0x100) % 32 with
      | 0 => decide (s.sumCopies F.CLS_PW_PPS_PPS inst p (v % 2 ^ 25) 1 0 ≤ 24000000)
      | 8 => decide (s.sumCopies F.CLS_PW_MBPS_MBPS inst p (v % 2 ^ 18) 1 0 ≤ 160000)
      | 16 => decide (v % 2 ^ 20 ≤ 1000000)
      | _ => true
    else true
  | 10 =>
    if 0x80 ≤ off ∧ off < 0x100 then
      let i := (off - 0x80) / 4
      decide (s.sumCopies F.QUEUE_QUOTA_QUOTA 0 i (v % 2 ^ 17) 2 (i % 2) ≤ 64512)
    else if 0x180 ≤ off ∧ off < 0x1C0 then decide (s.sumCopies F.QUEUE_JBQUOTA_CELLS 0 ((off - 0x180) / 4) (v % 2 ^ 25) 1 0 ≤ 16777216)
    else true
  | 11 => off != 0x48 || (decide (64 ≤ v % 2048) && decide (v % 2048 ≤ 1668))
  | 12 =>
    let same := v &&& rwMask t inst off == s.plain t inst off &&& rwMask t inst off
    (if off = 0x58 ∨ off = 0x78 then [16, 32, 64, 128, 256, 512, 1024, 2048, 4096].contains (v % 8192) else true)
      && (if 0x50 ≤ off ∧ off < 0x5C then !s.fbit F.MG_CTRL_TX_EN 0 || same else if 0x70 ≤ off ∧ off < 0x7C then !s.fbit F.MG_CTRL_RX_EN 0 || same else true)
  | 14 =>
    if off = 0x44 then !s.fbit F.SLUICE_CTRL_SWAP_PEND inst
    else if 0x50 ≤ off ∧ off < 0x60 then !s.bankHeld inst ((off - 0x50) / 8)
    else if off = 0x60 ∨ off = 0x64 then !s.bankHeld inst ((off - 0x60) / 4) && decide (v % 512 ≤ 256)
    else true
  | 15 =>
    if 0x140 ≤ off ∧ off < 0x180 then off % 16 == 0 || !s.fbit F.TIDE_PULSE_CTRL_EN 0 ((off - 0x140) / 16)
    else if 0x180 ≤ off ∧ off < 0x190 then bitField v 1 2 != 3
    else if off = 0x1C0 ∨ off = 0x1C4 then decide (bitField v 8 3 ≤ 4)
    else match off with
    | 0x6C => decide (v % 2 ^ 18 ≤ 200000)
    | 0x70 => bitField v 16 16 != 0 && decide (bitField v 0 16 ≤ bitField v 16 16)
    | 0x78 => !s.fbit F.TIDE_STAT_STEP_PEND 0
    | 0x7C => !s.fbit F.TIDE_STAT_STEP_PEND 0 && decide ((signedOf 32 v).natAbs ≤ 999999999)
    | 0xA0 => decide (v % 32 ≤ 19)
    | _ => true
  | 18 => off != 0x44 || decide (v % 8192 ≤ 8000)
  | 19 => off != 0x48 || decide (v % 256 ≤ 183)
  | 20 => off != 0x50 || decide (bitField v 8 4 ≤ 11)
  | 21 => off != 0x54 || !s.fbit F.VANE_AVS_CTRL_MODE 0
  | 23 =>
    if 0x100 ≤ off ∧ off < 0x300 then (if off % 32 = 16 then inst == 0 || decide (bitField v 0 11 < 128) else if off % 32 < 16 then s.baseFree inst off else true)
    else if 0x300 ≤ off ∧ off < 0x390 then (if off % 16 = 8 then inst == 0 || decide (bitField v 0 11 < 128) else if off % 16 < 8 then s.baseFree inst off else true)
    else match off with
    | 0x40 => inst == 0 || decide (v % 2048 < 128)
    | 0x48 => v % 65536 != 0
    | _ => true
  | 24 =>
    match off with
    | 0x4C => decide (1400 ≤ v % 4096)
    | 0x50 => decide (2 ≤ bitField v 0 8) && decide (2 ≤ bitField v 8 8)
    | 0x64 => decide (700 ≤ bitField v 0 10) && decide (bitField v 0 10 ≤ bitField v 16 10) && decide (bitField v 16 10 ≤ 880)
    | _ => true
  | 26 =>
    if 0x100 ≤ off ∧ off < 0x200 ∧ off % 16 = 0 then
      !(s.fbit F.RAS_MIR_EN 0 ((off - 0x100) / 16) && v % 2 ^ 20 != s.fget F.RAS_MIR_PA 0 ((off - 0x100) / 16))
    else true
  | _ => true

/-- A write under the access types of R11: RW and RWL fields take the value, a 1 clears a W1C field and sets a W1S field, and the others keep
what they hold. -/
def State.plainWrite (s : State) (t inst off v : Nat) : State :=
  let held := s.rd t inst off
  s.wr t inst off <|
    (fieldsAt t inst off).foldl
      (fun w f =>
        let x := bitField v f.lo f.w
        match f.acc with
        | .rw => setField w f.lo f.w x
        | .rwl => setField w f.lo f.w x
        | .w1c => setField w f.lo f.w (bitField held f.lo f.w &&& ((2 ^ f.w - 1) ^^^ x))
        | .w1s => setField w f.lo f.w (bitField held f.lo f.w ||| x)
        | _ => w) held

/-- The FEC values of a mode (R358). Marks: DEDUCED unsafe (log entry 75). -/
def fecListed (mode fec : Nat) : Bool := if 2 ≤ mode then fec == 3 else decide (fec ≤ mode + 1)

/-- The counters of a lane that stops hold what they have counted, which the spec does not give, until a read clears them (R390). Marks: DESIGN CHOICE safe
(log entry 335). -/
def State.keepCounts (s : State) (l : Nat) (prbs : Bool) : State :=
  let one (t : State) (off : Nat) : State := (t.takeFree.2).wr T.serdes l off (t.takeFree.1.toNat % 2 ^ 32)
  let s1 := one (one s 0x4C) 0x50
  if prbs then one s1 0x54 else s1

/-- A write of SERDES_CTRL (R358, R390): a FEC value that the mode does not list is dropped and logged and the lane keeps its earlier one, but on the
odd lane of a 100GbE pair, where it is ignored; a change of EN restarts or stops the lane, and the other fields may take its link down (R360). Marks: DEDUCED unsafe (log entry 75), DEDUCED unsafe (log entry 76). -/
def State.serdesCtrlWrite (s : State) (fn addr l v : Nat) : State :=
  if 5 < bitField v 20 4 ∨ 5 < bitField v 16 3 ∨ bitField v 12 2 = 3 then s.logErr T.serdes l 5 fn addr v
  else
    let fecBad := s.ruleLane l == l && !fecListed (s.pmode l) (bitField v 4 2)
    let was := s.fbit F.SERDES_CTRL_EN l
    let w := if fecBad then setField v 4 2 (s.fget F.SERDES_CTRL_FEC l) else v
    let s1 := (if fecBad then s.logErr T.serdes l 5 fn addr v else s).plainWrite T.serdes l 0x40 w
    if bitAt v 0 = was then s1.checkLink l
    else
      let s2 := (s1.restartLane l).dropLink (if s.pmode l = 3 then l / 2 * 2 else l)
      if was then (s2.fset F.SERDES_STAT_SIGNAL l 0).keepCounts l (s.fget F.SERDES_CTRL_PRBS l != 0) else s2

/-- A write of SERDES_TXEQ (R390). -/
def State.txeqWrite (s : State) (fn addr l v : Nat) : State :=
  if s.fbit F.SERDES_CTRL_LT_EN (s.ruleLane l) ∨ 15 < bitField v 0 5 ∨ 15 < bitField v 8 5 then s.logErr T.serdes l 5 fn addr v
  else s.setTxeq l (bitField v 0 5) (bitField v 8 5)

/-- A write of QUEUE_CFG (R353): LIMIT of the selected queue, and NOTICE_EN where its kind has it. -/
def State.queueCfgWrite (s : State) (v : Nat) : State :=
  let id := s.fget F.QUEUE_SEL_QID 0
  let k := qKind s.fuse id
  s.setQueue id { s.queue id with limit := v % 2 ^ 17, notice := bitAt v 31 && (k == 2 || k == 3) }

/-- A write of PCIE_IROUTE[t] (R499, R525): enabling the route of a type with a cause pending makes the source's OR non-zero. Marks: DEDUCED unsafe (log entry 80). -/
def State.irouteWrite (s : State) (t v : Nat) : State :=
  let was := s.fbit F.PCIE_IROUTE_EN 0 t
  let s1 := s.plainWrite T.pcie 0 (0x100 + 4 * t) v
  if bitAt v 31 && !was && s.typePend t then s1.pfBlockMsg t else s1

/-- The writes with an effect of their own; none where the access types alone say what happens. `uni` tells a unicast access. Marks: DEDUCED unsafe (log entry 79). -/
def State.ownWrite (s : State) (fn addr t inst off v : Nat) (uni : Bool) : Option State :=
  match t with
  | 1 =>
    if 0x100 ≤ off ∧ off < 0x200 ∧ off % 16 = 4 then some (s.stoneCtrlWrite fn addr inst ((off - 0x100) / 16) v)
    else match off with
    | 0x40 => some (s.millCtrlWrite fn addr inst v)
    | 0x4C => some (s.binSplit fn addr inst v)
    | 0x84 => some (s.winWrite fn addr inst v)
    | 0x20C => some (s.chainCfg0Write fn addr inst v)
    | 0x210 => some (s.chainCfg1Write fn addr inst v)
    | 0x214 => some (s.chainCtrlWrite fn addr inst v)
    | 0x21C => some (if uni then (s.coefWrite fn addr inst v).coefAdvance inst else s.coefWrite fn addr inst v)
    | _ => none
  | 2 =>
    if off = 0xC40 then some (s.plainWrite t inst off v).strictUpdate
    else if 0xC80 ≤ off ∧ off < 0xCC0 then some ((s.plainWrite t inst off v).serveRow inst)
    else none
  | 4 => if off = 0x40 then some (s.millerCtrlWrite fn addr inst v) else none
  | 5 => if off = 0x4C then some (if bitAt v 0 then s.setMemLog T.pond inst [] else s) else none
  | 6 =>
    match off with
    | 0x58 => some (if bitAt v 0 then s.setMemLog T.hbmc inst [] else s)
    | 0x60 => some (s.pageRetire fn addr inst (v % 2 ^ 23))
    | _ => none
  | 7 => if off = 0xA0 then some (s.plainWrite t inst off v).strictUpdate else none
  | 8 =>
    if off = 0x4C then
      let c := s.clsf inst
      some (s.setCls inst { c with vmap := Tab.set vmapReset c.vmap (s.fget F.CLS_VMAP_SEL_VLAN inst) (v % 32) })
    else none
  | 10 =>
    match off with
    | 0x48 => some (s.queueCfgWrite v)
    | 0x5C => some (s.winCtrl fn addr (v % 8))
    | _ => none
  | 11 =>
    match off with
    | 0x40 => some (s.macCtrlWrite fn inst v)
    | 0x58 => some (s.pfcTxWrite fn inst v)
    | _ => none
  | 12 =>
    match off with
    | 0x40 => some (s.mgCtrlWrite fn v)
    | 0x48 => some (s.mgPlcaWrite v)
    | 0x5C => some (s.plainWrite t inst off v).mgBusy
    | 0x90 => some (s.mdioWrite fn v)
    | _ => none
  | 13 =>
    match off with
    | 0x40 => some (s.serdesCtrlWrite fn addr inst v)
    | 0x48 => some (s.txeqWrite fn addr inst v)
    | _ => none
  | 14 =>
    match off with
    | 0x40 => some (s.sluiceCtrlWrite fn inst v)
    | 0x74 =>
      let s1 := s.gclWrite fn inst v
      some (if uni then s1 else (s1.fset F.SLUICE_GCL_SEL_WORD inst (s.fget F.SLUICE_GCL_SEL_WORD inst)).fset F.SLUICE_GCL_SEL_ENTRY inst (s.fget F.SLUICE_GCL_SEL_ENTRY inst))
    | _ => none
  | 15 =>
    if off = 0x140 ∨ off = 0x150 ∨ off = 0x160 ∨ off = 0x170 then some (s.pulseCtrlWrite fn ((off - 0x140) / 16) v)
    else if 0x100 ≤ off ∧ off < 0x140 then
      some ((if bitField v 16 16 = s.fget F.TIDE_PORT_ADJ_RX_ADJ 0 ((off - 0x100) / 4) then s else s.keepPast ((off - 0x100) / 4)).plainWrite t inst off v)
    else if off = 0x1C0 ∨ off = 0x1C4 then (if bitField v 8 3 ≤ 4 then some (s.plainWrite t inst off v).synceUpdate else none)
    else match off with
    | 0x40 => some (s.tideCtrlWrite fn v)
    | 0x60 => some (s.fset F.TIDE_OFS_FRAC_FRAC 0 v)
    | 0x64 => some (s.offsetWrite fn v)
    | 0x6C => some (s.plainWrite t inst off v).maxAdjHeld
    | 0x80 => some (if bitAt v 0 then s.stepAuth fn else s)
    | 0xB4 => some (if bitAt v 31 then s.upTide fun x => { x with tsOvf := Tab.erase x.tsOvf (s.fget F.TIDE_TS_SEL_SRC 0) } else s)
    | _ => none
  | 16 => if 0x80 ≤ off ∧ off < 0xC0 then some (s.pressRingWrite fn ((off - 0x80) / 4) v) else none
  | 20 =>
    if off = 0x78 then
      some (if s.fget F.TRUST_STAT_STATE 0 = 3 then s.fset F.TRUST_RECOV_CTRL_LEN 0 v
        else if bitAt v 31 then s.logErr T.trust 0 5 fn addr v else s.fset F.TRUST_RECOV_CTRL_LEN 0 v)
    else none
  | 21 =>
    match off with
    | 0x40 => some (s.i2cCtrlWrite fn inst v)
    | 0x48 => some (s.i2cXferWrite fn inst v)
    | _ => none
  | 23 =>
    if 0x100 ≤ off ∧ off < 0x300 then
      let r := (off - 0x100) / 32
      match off % 32 with
      | 16 => some (s.ringCfg fn addr inst r F.RING_CFG_EN F.RING_CFG_LOG2SIZE F.RING_CFG_VEC r v)
      | 20 => some (s.sqTailWrite fn addr inst r v)
      | 28 => some (s.cqHeadWrite fn addr inst r v)
      | _ => none
    else if 0x300 ≤ off ∧ off < 0x390 then
      let k := (off - 0x300) / 16
      match off % 16 with
      | 8 => some (s.ringCfg fn addr inst (16 + k) F.RX_CFG_EN F.RX_CFG_LOG2SIZE F.RX_CFG_VEC k v)
      | 12 => some (s.rxConsWrite fn addr inst k v)
      | _ => none
    else none
  | 24 => if off = 0x60 then some (s.avsCtrlWrite fn v) else if off = 0x64 then some (s.plainWrite t inst off v).avsCheck else none
  | 25 => if 0x100 ≤ off ∧ off < 0x16C then some (s.irouteWrite ((off - 0x100) / 4) v) else none
  | 26 =>
    if 0x100 ≤ off ∧ off < 0x200 ∧ off % 16 = 8 then some (s.resCtrlWrite fn ((off - 0x100) / 16) v)
    else match off with
    | 0x58 => some (if bitAt v 0 then { s with flog := [] } else s)
    | 0x70 => some (s.barrierWrite fn v)
    | _ => none
  | _ => none

/-- The RWL bits of a register. Marks: DEDUCED unsafe (log entry 74). -/
def rwlMask (t inst off : Nat) : Nat :=
  (fieldsAt t inst off).foldl (fun m f => if f.acc = .rwl then m ||| ((2 ^ f.w - 1) * 2 ^ f.lo) else m) 0

/-- A write to a register beyond the header. With LOCK set the RWL fields keep what they hold and the write is logged where it would change one
(R11); then the register's own rule judges it, and it takes effect. A CANAL_VLCRED write
that its sum rule refuses is logged in the page addressed (R92, R497). Marks: DEDUCED unsafe (log entry 74), DEDUCED unsafe (log entry 367). -/
def State.regWrite (s : State) (fn addr t inst off v : Nat) (uni : Bool) : State :=
  let m := rwlMask t inst off
  let held := s.rd t inst off &&& m
  let locked := bitAt (s.rd t inst 0x10) 31
  let w := if locked then (v &&& (m ^^^ 0xFFFFFFFF)) ||| held else v
  let s2 := if locked && (v &&& m) != held then s.logErr t inst 4 fn addr v else s
  if !s.valueOk t inst off w then s2.logErr t inst 5 fn addr v
  else (s2.ownWrite fn addr t inst off w uni).getD (s2.plainWrite t inst off w)

/-- A write to the header of a page (R498). A write of BLK_ICAUSE or BLK_IMASK that leaves its source's OR non-zero sends a further message (R499). -/
def State.headerWrite (s : State) (t inst off v : Nat) : State :=
  match off with
  | 0x0C => s.wr t inst 0x0C v
  | 0x10 =>
    let s1 := if bitAt v 0 then (((s.wr t inst 0x28 0).wr t inst 0x2C 0).wr t inst 0x30 0).wr t inst 0x34 0 else s
    if bitAt v 31 then s1.wr t inst 0x10 (2 ^ 31) else s1
  | 0x18 => s.irqMessages (s.wr t inst 0x18 (s.rd t inst 0x18 &&& (v ^^^ 0xFFFFFFFF))) t inst true
  | 0x1C => s.irqMessages (s.wr t inst 0x1C (v &&& causesAt t inst)) t inst true
  | 0x20 => s.raiseBits t inst v
  | 0x28 => if bitAt v 31 then s.wr t inst 0x28 (clrBitN (s.rd t inst 0x28) 31) else s
  | _ => s

/-- Is an offset of a page a register: not reserved? -/
def isReg (t inst off : Nat) : Bool :=
  if off < 0x40 then off % 4 == 0 && decide (off < 0x38)
  else !(fieldsAt t inst off).isEmpty || (ctrsOf t).any fun c => c.off == off || c.off + 4 == off

/-- A write to a page that is no aggregate's mirror: the rules of the page (R24, R486, R495), then the register's. -/
def State.pageWrite (s : State) (fn addr t inst off v : Nat) (uni : Bool) : State :=
  if s.frozen t inst then s.logErr T.row (rowOf inst) 5 fn addr v
  else if s.noRegs t inst off ∨ ¬ isReg t inst off then s
  else if t = T.dike ∧ (s.polState inst = 0 ∨ (fn ≠ 0 ∧ fn ≠ 16 ∧ off ≠ 0x18 ∧ off ≠ 0x1C)) then s.logErr t inst 5 fn addr v
  else if t = T.vorak ∧ fn = 0 ∧ inst ≠ 0 then s.logErr t inst 5 fn addr v
  else
    let s1 := if off < 0x40 then s.headerWrite t inst off v else s.regWrite fn addr t inst off v uni
    if t = T.mill then s1.keepShadow inst off else s1

/-- Is a write to an offset of an aggregate page a write to its members alone (R22)? Marks: DEDUCED unsafe (log entry 77). -/
def aggWrite (off : Nat) : Bool := (decide (0x40 ≤ off) && decide (off < 0xC00)) || off == 0x18 || off == 0x1C || off == 0x20

/-- A write of 32 bits that reaches a page of the function's view (R22). -/
def State.reachWrite (s : State) (fn addr t inst off v : Nat) (uni : Bool) : State :=
  if (t = T.row ∨ t = T.half) ∧ aggWrite off then
    (s.aggMembers t inst).foldl (fun u m => u.pageWrite fn addr T.mill m off v false) s
  else if t = T.device ∧ fn ≠ 0 ∧ fn ≠ 16 then s.logDevice 2 fn addr v
  else s.pageWrite fn addr t inst off v uni

/-! ## Decoding a BAR0 address (R493 to R495, R559) -/

/-- Where an address leads: nowhere (bit 27 and above), a reserved mode, a page that is not there, or the pages of an access. -/
inductive Reach where
  | off
  | reserved
  | absent
  | pages (l : List Nat) (unicast : Bool)
  deriving DecidableEq, Repr

/-- Is a page in the view of a function? The PF and the Millhouse see every page; in RECOVERY only DEVICE, TRUST and POWER answer. Marks: DEDUCED safe (log entry 73). -/
def State.sees (s : State) (fn t inst : Nat) : Bool :=
  present s.fuse t inst && (fn == 0 || fn == 16 || t == T.device || s.inVfView fn t inst)
    && (s.fget F.TRUST_STAT_STATE 0 != 3 || t == T.device || t == T.trust || t == T.power)

/-- Does a page hold a group id in a valid byte of BLK_GROUP (R494, R498)? Marks: DEDUCED unsafe (log entry 81). -/
def State.inGroup (s : State) (t inst g : Nat) : Bool := (List.range 4).any fun j => bitField (s.rd t inst 0x0C) (8 * j) 8 == 128 + g

/-- Decodes an address for a function. -/
def State.reach (s : State) (fn addr : Nat) : Reach :=
  let t := bitField addr 19 6
  let i := bitField addr 12 7
  if 2 ^ 27 ≤ addr then .off
  else match bitField addr 25 2 with
  | 0 => if s.sees fn t i then .pages [i] true else .absent
  | 1 => .pages ((List.range (instances t)).filter fun k => s.sees fn t k && s.inGroup t k i) false
  | 2 => .pages ((List.range (instances t)).filter fun k => s.sees fn t k) false
  | _ => .reserved

/-- An access of a function to an address that leads nowhere is logged in the DEVICE page (R497); `data` is zero for a read. Marks: DEDUCED unsafe (log entry 70). -/
def State.noReach (s : State) (fn addr data : Nat) : Reach → State
  | .reserved => s.logDevice 1 fn addr data
  | .absent => s.logDevice 2 fn addr data
  | _ => s

/-- A BAR read of 32 bits at a word address: the state with its effects, and the value. A VF reads DEVICE_ID alone of the DEVICE page (R495). -/
def State.read32 (s : State) (fn addr : Nat) : State × Nat :=
  let t := bitField addr 19 6
  let o := addr % 4096
  let hide := decide (t = T.device ∧ fn ≠ 0 ∧ fn ≠ 16 ∧ o ≠ 0x40)
  match s.reach fn addr with
  | .pages [i] true => if hide then (s, 0) else s.pageRead fn addr t i o
  | .pages l _ => (s, if hide then 0 else l.foldl (fun v i => v ||| s.pageValue fn t i o) 0)
  | r => (s.noReach fn addr 0 r, 0)

/-- A BAR write of 32 bits at a word address. -/
def State.write32 (s : State) (fn addr v : Nat) : State :=
  let t := bitField addr 19 6
  let o := addr % 4096
  match s.reach fn addr with
  | .pages l uni => l.foldl (fun u i => u.reachWrite fn addr t i o v uni) s
  | r => s.noReach fn addr v r

/-- A selector that every unicast access advances moves on after a write that is dropped too (R289, R392). -/
def State.afterDrop (s : State) (t i off : Nat) : State :=
  if t = T.mill ∧ off = 0x21C then s.coefAdvance i else if t = T.sluice ∧ off = 0x74 then s.gclAdvance i else s

/-- A write that is dropped as a whole and logged with a KIND (R15, R489): in the page addressed, or once in the DEVICE page for a group or
broadcast write and for a VF's write to the DEVICE page. A write to a frozen mill's page is logged in the ROW page (R24), and one to MILLER 1 of
the PHD-6440 is not logged (R191). Marks: DEDUCED unsafe (log entry 71). -/
def State.dropWrite (s : State) (fn addr kind v : Nat) : State :=
  let t := bitField addr 19 6
  match s.reach fn addr with
  | .pages [i] true =>
    if t = T.device ∧ fn ≠ 0 ∧ fn ≠ 16 then s.logDevice 2 fn addr v
    else if s.frozen t i then s.logErr T.row (rowOf i) kind fn addr v
    else if s.noRegs t i (addr % 4096) then s
    else (s.logErr t i kind fn addr v).afterDrop t i (addr % 4096)
  | .pages _ _ => s.logDevice kind fn addr v
  | r => s.noReach fn addr v r

/-! ## The functions' requests (R489, R496, R522, R553) -/

/-- What becomes of a request: it is not taken up (reset, deep standby), it is answered with Unsupported Request, or it reaches the registers. -/
inductive Gate where
  | silent
  | unsupported
  | open'
  deriving DecidableEq, Repr

/-- The Millhouse reaches the registers while its firmware or ROM runs; a function also needs PERST_N released, boot step 7 or RECOVERY, to be
present, in D0 and in no function-level reset. Marks: DEDUCED unsafe (log entry 72), PRESUMED unsafe (log entry 217). -/
def State.gate (s : State) (fn : Nat) : Gate :=
  if s.trust.boot = .held ∨ s.power.standby then .silent
  else if fn = 16 then .open'
  else if s.trust.perst then .silent
  else if (s.fget F.TRUST_STAT_STATE 0 ≠ 3 ∧ (s.trust.boot = .rom ∨ s.trust.boot = .firmware)) ∨ ¬ s.fnPresent fn ∨ s.pcie.d3.contains fn ∨ s.inFlr fn
  then .unsupported
  else .open'

/-- The words an access of `size` bytes touches, in rising order: the word's address, the first byte of it and how many (R15). -/
def accessWords (addr size : Nat) : List (Nat × Nat × Nat) :=
  (List.range ((addr % 4 + size + 3) / 4)).map fun i =>
    let lo := if i = 0 then addr % 4 else 0
    (addr / 4 * 4 + 4 * i, lo, min 4 (addr % 4 + size - 4 * i) - lo)

/-- The effect of a write (R15, R489): each whole word is written at rising addresses; the part of a narrow write in a word, and every word of a
poisoned write, is dropped and logged. Marks: DEDUCED safe (log entry 85). -/
def State.busWrite (s : State) (fn addr size data : Nat) (poisoned : Bool) : State :=
  (accessWords addr size).foldl
    (fun u e =>
      let v := data / 2 ^ (8 * (e.1 + e.2.1 - addr)) % 2 ^ (8 * e.2.2) * 2 ^ (8 * e.2.1)
      if poisoned then u.dropWrite fn e.1 7 v else if e.2.2 = 4 then u.write32 fn e.1 v else u.dropWrite fn e.1 3 v)
    (if poisoned then (s.finc F.PCIE_ERRCNT_POISONED 0).raise T.pcie 0 I.PCIE_POISONED else s)

/-- The effect of a read (R15): the addressed bytes of each word it touches, with the effects of a full read of it. Marks: DEDUCED safe (log entry 85). -/
def State.busRead (s : State) (fn addr size : Nat) : State × Nat :=
  (accessWords addr size).foldl
    (fun r e =>
      let x := r.1.read32 fn e.1
      (x.1, r.2 + x.2 / 2 ^ (8 * e.2.1) % 2 ^ (8 * e.2.2) * 2 ^ (8 * (e.1 + e.2.1 - addr)))) (s, 0)

/-- A write of a function. -/
def State.request (s : State) (fn addr size data : Nat) (poisoned : Bool) : State :=
  match s.gate fn with
  | .silent => s
  | .unsupported => s.unsupportedReq fn addr
  | .open' => s.busWrite fn addr size data poisoned

/-- A read of a function; its data is returned. -/
def State.readRequest (s : State) (fn addr size : Nat) : State :=
  match s.gate fn with
  | .silent => s
  | .unsupported => s.unsupportedReq fn addr
  | .open' => (s.busRead fn addr size).1.emit (.readData fn addr (s.busRead fn addr size).2)

/-- An access of a row of its own with an operand that the bus does not carry: where its page is in the function's view it has its effect. -/
def State.guarded (s : State) (fn t inst off data : Nat) (eff : State → State) : State :=
  match s.gate fn with
  | .silent => s
  | .unsupported => s.unsupportedReq fn (regAddr t inst off)
  | .open' => if s.sees fn t inst then eff s else s.logDevice 2 fn (regAddr t inst off) data

/-! ## The commands -/

/-- REGISTER_WRITE (R11, R15, R493 to R500). Marks: DEDUCED unsafe (log entry 71). -/
def execRegisterWrite (fn addr size data : Nat) (poisoned : Bool) (s : State) : Res := .next (s.request fn addr size data poisoned)

/-- READ_CLEAR (R11, R13, R15): a BAR or Millhouse read. -/
def execReadClear (fn addr size : Nat) (s : State) : Res := .next (s.readRequest fn addr size)

/-- LATCHED_PAIR_READ (R14): a unicast read of a _LO register. -/
def execLatchedPairRead (fn addr : Nat) (s : State) : Res := .next (s.readRequest fn addr 4)

/-- BLK_LOCK (R498): a write of 1 to BLK_CTRL.LOCK. -/
def execBlkLock (fn typ inst : Nat) (s : State) : Res := .next (s.request fn (regAddr typ inst 0x10) 4 (2 ^ 31) false)

/-- ERRLOG_CLR (R498): a write of 1 to BLK_CTRL.ERRLOG_CLR. -/
def execErrlogClr (fn typ inst : Nat) (s : State) : Res := .next (s.request fn (regAddr typ inst 0x10) 4 1 false)

/-- BLK_IFORCE (R498): a write of BLK_IFORCE. -/
def execBlkIforce (fn typ inst data : Nat) (s : State) : Res := .next (s.request fn (regAddr typ inst 0x20) 4 data false)

end Sys2Proof.Machine
end

