-- ==== Sys2Proof/Machine/Access.lean ====
section
/-!
DEFINITION. The register accesses that have rows of their own. Each is a read or a write of its register by a function or the Millhouse (16), so it
reaches the register as every access does: through the gate of the functions, the view of R495 and the rules of the page (R8, R11, R15, R24).
-/

namespace Sys2Proof.Machine

/-! ## The MILL page (R132, R147, R150, R153, R158, R263 to R265, R281, R289) -/

/-- STONE_HALT (R158). -/
def execStoneHalt (fn mill stone : Nat) (s : State) : Res :=
  .next (if mill < 128 ∧ stone < 16 then s.request fn (millAddr mill (0x104 + 16 * stone)) 4 1 false else s)

/-- STONE_STEP (R158). -/
def execStoneStep (fn mill stone : Nat) (s : State) : Res :=
  .next (if mill < 128 ∧ stone < 16 then s.request fn (millAddr mill (0x104 + 16 * stone)) 4 2 false else s)

/-- STONE_RESUME (R158). -/
def execStoneResume (fn mill stone : Nat) (s : State) : Res :=
  .next (if mill < 128 ∧ stone < 16 then s.request fn (millAddr mill (0x104 + 16 * stone)) 4 4 false else s)

/-- ICINV (R147): a write of MILL_CTRL with ICINV set. -/
def execIcinv (fn mill data : Nat) (s : State) : Res := .next (if mill < 128 then s.request fn (millAddr mill 0x40) 4 (setBitN data 8) false else s)

/-- BIN_SPLIT_WRITE (R150). -/
def execBinSplitWrite (fn mill data : Nat) (s : State) : Res := .next (if mill < 128 then s.request fn (millAddr mill 0x4C) 4 data false else s)

/-- WINDOW_READ (R153). -/
def execWindowRead (fn mill : Nat) (s : State) : Res := .next (if mill < 128 then s.readRequest fn (millAddr mill 0x84) 4 else s)

/-- WINDOW_WRITE (R153). -/
def execWindowWrite (fn mill data : Nat) (s : State) : Res := .next (if mill < 128 then s.request fn (millAddr mill 0x84) 4 data false else s)

/-- CHAIN_CONFIG_WRITE (R265): a write of BOLT_CHAIN_CFG0. -/
def execChainConfigWrite (fn mill data : Nat) (s : State) : Res := .next (if mill < 128 then s.request fn (millAddr mill 0x20C) 4 data false else s)

/-- BANK_SWAP (R263): a write of BOLT_CHAIN_CTRL. -/
def execBankSwap (fn mill data : Nat) (s : State) : Res := .next (if mill < 128 then s.request fn (millAddr mill 0x214) 4 data false else s)

/-- COEF_ACCESS (R264, R281, R289): a unicast read or write of BOLT_COEF_DATA; the selector advances after each. -/
def execCoefAccess (fn mill : Nat) (data : Option Nat) (s : State) : Res :=
  .next (if mill < 128 then
      match data with
      | some v => s.request fn (millAddr mill 0x21C) 4 v false
      | none => s.readRequest fn (millAddr mill 0x21C) 4
    else s)

/-! ## MILLER and QUEUE pages (R176, R335, R336) -/

/-- RESERVE_WRITE (R176): a write of MILLER_CTRL. -/
def execReserveWrite (fn half data : Nat) (s : State) : Res := .next (if half < 2 then s.request fn (regAddr T.miller half 0x40) 4 data false else s)

/-- QUEUE_WIN_READ (R335, R338): a read of QUEUE_WIN_DATA; the word may read poisoned. -/
def execQueueWinRead (r : QRead) (s : State) : Res :=
  .next (if r.bad then s.winPoison (s.readRequest r.n (qAddr 0x54) 4) else s.readRequest r.n (qAddr 0x54) 4)

/-- QUEUE_MARK (R336). -/
def execQueueMark (fn : Nat) (s : State) : Res := .next (s.request fn (qAddr 0x5C) 4 1 false)

/-- QUEUE_REWIND (R336). -/
def execQueueRewind (fn : Nat) (s : State) : Res := .next (s.request fn (qAddr 0x5C) 4 2 false)

/-- QUEUE_RELEASE (R336). -/
def execQueueRelease (fn : Nat) (s : State) : Res := .next (s.request fn (qAddr 0x5C) 4 4 false)

/-! ## MAC, MGMAC and SLUICE pages (R357, R368, R372, R381, R392, R394) -/

/-- PFC_TX_REQUEST (R368): a write of MAC_PFC_TX. -/
def execPfcTxRequest (fn port quanta classes : Nat) (s : State) : Res :=
  .next (if port < 16 then s.request fn (macAddr port 0x58) 4 (quanta % 65536 * 65536 + classes % 256) false else s)

/-- PMODE_WRITE (R357): a write of MAC_CTRL. -/
def execPmodeWrite (fn mac data : Nat) (s : State) : Res := .next (if mac < 16 then s.request fn (macAddr mac 0x40) 4 data false else s)

/-- SLUICE_SWAP_REQUEST (R372): SWAP = 1 with MODE as it stands. -/
def execSluiceSwapRequest (fn port : Nat) (s : State) : Res :=
  .next (if port < 16 then s.request fn (sluiceAddr port 0x40) 4 (256 + s.fget F.SLUICE_CTRL_MODE port) false else s)

/-- SLUICE_MODE_WRITE (R372). -/
def execSluiceModeWrite (fn port : Nat) (mode : Bool) (s : State) : Res :=
  .next (if port < 16 then s.request fn (sluiceAddr port 0x40) 4 (b2n mode) false else s)

/-- GCL_DATA_ACCESS (R392): a unicast read or write of SLUICE_GCL_DATA. -/
def execGclDataAccess (fn port : Nat) (data : Option Nat) (s : State) : Res :=
  .next (if port < 16 then
      match data with
      | some v => s.request fn (sluiceAddr port 0x74) 4 v false
      | none => s.readRequest fn (sluiceAddr port 0x74) 4
    else s)

/-- MG_TX_TAIL_WRITE (R381). -/
def execMgTxTailWrite (fn tail : Nat) (s : State) : Res := .next (s.request fn (mgAddr F.MG_TX_TAIL_TAIL.off) 4 tail false)

/-- MDIO_START (R394): a write of MG_MDIO with GO set. -/
def execMdioStart (fn data : Nat) (s : State) : Res := .next (s.request fn (mgAddr 0x90) 4 (2 ^ 31 + data % 2 ^ 31) false)

/-! ## The TIDE page (R400, R405, R407, R411, R422) -/

/-- REFSEL_WRITE (R400): TIDE_CTRL is written with REFSEL and its other fields as they stand. -/
def execRefselWrite (fn sel : Nat) (s : State) : Res := .next (s.request fn (tideAddr 0x40) 4 (setField (s.rd T.tide 0 0x40) 8 1 sel) false)

/-- OFFSET_SAMPLE_WRITE (R407): a write of TIDE_OFS_NS. -/
def execOffsetSampleWrite (fn ns now : Nat) (s : State) : Res := .next ((s.clock now).request fn (tideAddr 0x64) 4 ns false)

/-- STEP_AUTH (R411): a write of AUTH = 1. -/
def execStepAuth (fn now : Nat) (s : State) : Res := .next ((s.clock now).request fn (tideAddr 0x80) 4 1 false)

/-- TS_POP (R405): a unicast read of TIDE_TS_W0. -/
def execTsPop (fn : Nat) (s : State) : Res := .next (s.readRequest fn (tideAddr 0xA4) 4)

/-- TIDE_NOW_READ (R422): a unicast read of TIDE_NOW_NS. -/
def execTideNowRead (fn now : Nat) (s : State) : Res := .next ((s.clock now).readRequest fn (tideAddr 0x48) 4)

/-! ## HBMC, POND and LEDGER pages (R447, R460, R461, R463) -/

/-- LOG_CLEAR (R460, R461): a write of CLEAR in HBMC_LOG_CTRL or POND_LOG_CTRL. -/
def execLogClear (fn typ inst : Nat) (s : State) : Res :=
  .next (if (typ = T.hbmc ∨ typ = T.pond) ∧ inst < 32 then s.request fn (regAddr typ inst (if typ = T.hbmc then 0x58 else 0x4C)) 4 1 false else s)

/-- PAGE_RETIRE (R447, R448): a write of HBMC_RETIRE, and where it is accepted the copy of the page to its spare. -/
def execPageRetire (fn slice : Nat) (page : RetirePage) (s : State) : Res :=
  let t := if slice < 32 then s.request fn (regAddr T.hbmc slice 0x60) 4 (page.page % 2 ^ 23) false else s
  let new := Tab.get (fun _ => none) t.mem.retiring slice
  .next (match new with
    | some key => if Tab.get (fun _ => none) s.mem.retiring slice = none then t.copyPage key page.copies else t
    | none => t)

/-- LEDGER_RD_ACCESS (R463): a unicast read of LEDGER_RD_DATA, with what the code of the word finds. -/
def execLedgerRdAccess (fn : Nat) (up : WordUpset) (s : State) : Res :=
  let a := regAddr T.ledger 0 0x54
  .next (if up ≠ {} ∧ s.gate fn = .open' ∧ s.sees fn T.ledger 0 then s.ledgerRead fn a up else s.readRequest fn a 4)

/-! ## VORAK pages (R502, R504, R528): a function writes its own page -/

/-- SQ_DOORBELL (R502): a write of SQ_TAIL. -/
def execSqDoorbell (fn ring tail : Nat) (s : State) : Res :=
  .next (if fn < 16 ∧ ring < 16 then s.request fn (vorakAddr fn (0x114 + 32 * ring)) 4 tail false else s)

/-- CQ_HEAD_WRITE (R528). -/
def execCqHeadWrite (fn ring head : Nat) (s : State) : Res :=
  .next (if fn < 16 ∧ ring < 16 then s.request fn (vorakAddr fn (0x11C + 32 * ring)) 4 head false else s)

/-- RING_ENABLE (R528): a write of RING_CFG of a command ring (0 to 15) or RX_CFG of a receive or notice ring (16 to 24). -/
def execRingEnable (fn ring data : Nat) (s : State) : Res :=
  .next (if 16 ≤ fn ∨ 25 ≤ ring then s
    else s.request fn (vorakAddr fn (if ring < 16 then 0x110 + 32 * ring else 0x308 + 16 * (ring - 16))) 4 data false)

/-- RX_CONS_WRITE (R528). -/
def execRxConsWrite (fn k cons : Nat) (s : State) : Res :=
  .next (if fn < 16 ∧ k < 9 then s.request fn (vorakAddr fn (0x30C + 16 * k)) 4 cons false else s)

/-! ## The other pages (R548, R559, R575, R577, R582, R597, R602, R607) -/

/-- PRESS_RING_WRITE (R548). -/
def execPressRingWrite (fn polder data : Nat) (s : State) : Res :=
  .next (if polder < 16 then s.request fn (regAddr T.press 0 (0x80 + 4 * polder)) 4 data false else s)

/-- RECOVERY_GO (R559, R582): a write of TRUST_RECOV_CTRL with GO, and the host memory it reads. Marks: DEDUCED unsafe (log entry 215). -/
def execRecoveryGo (fn data : Nat) (image : Option (List Byte)) (s : State) : Res :=
  .next (s.guarded fn T.trust 0 0x78 data fun t => t.recoveryGo fn data image)

/-- I2C_GO (R575): a write of I2CM_XFER with GO set. -/
def execI2cGo (fn inst data : Nat) (s : State) : Res :=
  .next (if inst < 2 then s.request fn (regAddr T.i2cm inst 0x48) 4 (2 ^ 31 + data % 2 ^ 31) false else s)

/-- AVS_MODE_SET (R577): a write of VANE_AVS_CTRL with MODE set. -/
def execAvsModeSet (fn data : Nat) (s : State) : Res := .next (s.request fn (regAddr T.vane 0 0x60) 4 (setField data 0 1 1) false)

/-- TRUST_MR_READ (R582): a unicast read of TRUST_MR_DATA. -/
def execTrustMrRead (fn : Nat) (s : State) : Res := .next (s.readRequest fn (regAddr T.trust 0 0x54) 4)

/-- BARRIER (R597, R607): a write of RAS_BARRIER. -/
def execBarrier (fn data : Nat) (s : State) : Res := .next (s.request fn (rasAddr 0x70) 4 data false)

/-- RESUME_WALK (R602): GO of RAS_RES_CTRL[p] starts the walk. -/
def execResumeWalk (fn polder data : Nat) (s : State) : Res :=
  .next (if polder < 16 then s.request fn (rasAddr (0x108 + 16 * polder)) 4 (setBitN data 31) false else s)

/-- FAULT_LOG_CLEAR (R607): a write of CLEAR in RAS_FLOG_CTRL. Marks: DEDUCED unsafe (log entry 316). -/
def execFaultLogClear (fn : Nat) (s : State) : Res := .next (s.request fn (rasAddr 0x58) 4 1 false)

end Sys2Proof.Machine
end

