-- ==== Sys2Proof/Machine/Dispatch.lean ====
section
/-!
DEFINITION. One arm for each command: a direct call of its meaning.
-/

namespace Sys2Proof.Machine

def exec (i : Instr) (s : State) : Host.Outcome State Fault Refusal :=
  match i with
  | .registerWrite fn addr size data poisoned => Sys2Proof.Machine.execRegisterWrite fn addr size data poisoned s
  | .readClear fn addr size => Sys2Proof.Machine.execReadClear fn addr size s
  | .latchedPairRead fn addr => Sys2Proof.Machine.execLatchedPairRead fn addr s
  | .blkLock fn typ inst => Sys2Proof.Machine.execBlkLock fn typ inst s
  | .errlogClr fn typ inst => Sys2Proof.Machine.execErrlogClr fn typ inst s
  | .blkIforce fn typ inst data => Sys2Proof.Machine.execBlkIforce fn typ inst data s
  | .handshakeTransfer pl stage rails completes => Sys2Proof.Machine.execHandshakeTransfer pl stage rails completes s
  | .stageStall pl stage => Sys2Proof.Machine.execStageStall pl stage s
  | .waitStall event => Sys2Proof.Machine.execWaitStall event s
  | .tick => Sys2Proof.Machine.execTick s
  | .tickLoss half => Sys2Proof.Machine.execTickLoss half s
  | .vaneSample half samples => Sys2Proof.Machine.execVaneSample half samples s
  | .avsUpdate => Sys2Proof.Machine.execAvsUpdate s
  | .avsModeSet fn data => Sys2Proof.Machine.execAvsModeSet fn data s
  | .paceLogRecord => Sys2Proof.Machine.execPaceLogRecord s
  | .canalFlit row port inject => Sys2Proof.Machine.execCanalFlit row port inject s
  | .lockWordCross half n op badPointer => Sys2Proof.Machine.execLockWordCross half n op badPointer s
  | .lockStopRequest half n winner => Sys2Proof.Machine.execLockStopRequest half n winner s
  | .lockStopped half n => Sys2Proof.Machine.execLockStopped half n s
  | .lockWake half n w => Sys2Proof.Machine.execLockWake half n w s
  | .lockRun half n => Sys2Proof.Machine.execLockRun half n s
  | .lockWakeTimeout half n => Sys2Proof.Machine.execLockWakeTimeout half n s
  | .clockedSideReset half n torn => Sys2Proof.Machine.execClockedSideReset half n torn s
  | .clockedSideResetRelease half n => Sys2Proof.Machine.execClockedSideResetRelease half n s
  | .nop iss word => Sys2Proof.Machine.execNop iss word s
  | .ldW iss rd am => Sys2Proof.Machine.execLdW iss rd am s
  | .ldH iss rd am => Sys2Proof.Machine.execLdH iss rd am s
  | .ldHu iss rd am => Sys2Proof.Machine.execLdHu iss rd am s
  | .ldD iss rd am => Sys2Proof.Machine.execLdD iss rd am s
  | .stW iss rd am => Sys2Proof.Machine.execStW iss rd am s
  | .stH iss rd am => Sys2Proof.Machine.execStH iss rd am s
  | .stD iss rd am => Sys2Proof.Machine.execStD iss rd am s
  | .ldfW iss rd am => Sys2Proof.Machine.execLdfW iss rd am s
  | .ldfD iss rd am => Sys2Proof.Machine.execLdfD iss rd am s
  | .stfW iss rd am => Sys2Proof.Machine.execStfW iss rd am s
  | .stfD iss rd am => Sys2Proof.Machine.execStfD iss rd am s
  | .amoAdd iss rd an => Sys2Proof.Machine.execAmoAdd iss rd an s
  | .amoSwap iss rd an => Sys2Proof.Machine.execAmoSwap iss rd an s
  | .amoCas iss rd an => Sys2Proof.Machine.execAmoCas iss rd an s
  | .amoMax iss rd an => Sys2Proof.Machine.execAmoMax iss rd an s
  | .amoOr iss rd an => Sys2Proof.Machine.execAmoOr iss rd an s
  | .lea iss am => Sys2Proof.Machine.execLea iss am s
  | .mova iss ra rs => Sys2Proof.Machine.execMova iss ra rs s
  | .movd iss rd ra => Sys2Proof.Machine.execMovd iss rd ra s
  | .movc iss len k rs => Sys2Proof.Machine.execMovc iss len k rs s
  | .lsave iss am => Sys2Proof.Machine.execLsave iss am s
  | .lrest iss am => Sys2Proof.Machine.execLrest iss am s
  | .fence iss => Sys2Proof.Machine.execFence iss s
  | .mac4 iss n da db sub frac neg => Sys2Proof.Machine.execMac4 iss n da db sub frac neg s
  | .mul4 iss n da db sub frac neg => Sys2Proof.Machine.execMul4 iss n da db sub frac neg s
  | .mac32 iss n da db sub frac neg => Sys2Proof.Machine.execMac32 iss n da db sub frac neg s
  | .mul32 iss n da db sub frac neg => Sys2Proof.Machine.execMul32 iss n da db sub frac neg s
  | .accrd iss n rd sh rnd w => Sys2Proof.Machine.execAccrd iss n rd sh rnd w s
  | .accclr iss mask => Sys2Proof.Machine.execAccclr iss mask s
  | .accmov iss n m => Sys2Proof.Machine.execAccmov iss n m s
  | .accsh iss n sh => Sys2Proof.Machine.execAccsh iss n sh s
  | .accld iss n rs sh => Sys2Proof.Machine.execAccld iss n rs sh s
  | .add iss rd rs rt => Sys2Proof.Machine.execAdd iss rd rs rt s
  | .sub iss rd rs rt => Sys2Proof.Machine.execSub iss rd rs rt s
  | .andR iss rd rs rt => Sys2Proof.Machine.execAndR iss rd rs rt s
  | .orR iss rd rs rt => Sys2Proof.Machine.execOrR iss rd rs rt s
  | .xor iss rd rs rt => Sys2Proof.Machine.execXor iss rd rs rt s
  | .shl iss rd rs rt => Sys2Proof.Machine.execShl iss rd rs rt s
  | .shr iss rd rs rt => Sys2Proof.Machine.execShr iss rd rs rt s
  | .sar iss rd rs rt => Sys2Proof.Machine.execSar iss rd rs rt s
  | .minR iss rd rs rt => Sys2Proof.Machine.execMinR iss rd rs rt s
  | .maxR iss rd rs rt => Sys2Proof.Machine.execMaxR iss rd rs rt s
  | .minu iss rd rs rt => Sys2Proof.Machine.execMinu iss rd rs rt s
  | .maxu iss rd rs rt => Sys2Proof.Machine.execMaxu iss rd rs rt s
  | .absR iss rd rs => Sys2Proof.Machine.execAbsR iss rd rs s
  | .adds iss rd rs rt => Sys2Proof.Machine.execAdds iss rd rs rt s
  | .subs iss rd rs rt => Sys2Proof.Machine.execSubs iss rd rs rt s
  | .add2s iss rd rs rt => Sys2Proof.Machine.execAdd2s iss rd rs rt s
  | .sub2s iss rd rs rt => Sys2Proof.Machine.execSub2s iss rd rs rt s
  | .clz iss rd rs => Sys2Proof.Machine.execClz iss rd rs s
  | .cmpeq iss rd rs rt => Sys2Proof.Machine.execCmpeq iss rd rs rt s
  | .cmplt iss rd rs rt => Sys2Proof.Machine.execCmplt iss rd rs rt s
  | .cmpltu iss rd rs rt => Sys2Proof.Machine.execCmpltu iss rd rs rt s
  | .sel iss rd rs rt => Sys2Proof.Machine.execSel iss rd rs rt s
  | .pack iss rd rs rt => Sys2Proof.Machine.execPack iss rd rs rt s
  | .addi iss rd rs imm => Sys2Proof.Machine.execAddi iss rd rs imm s
  | .movi iss rd imm => Sys2Proof.Machine.execMovi iss rd imm s
  | .movhi iss rd imm => Sys2Proof.Machine.execMovhi iss rd imm s
  | .andi iss rd rs imm => Sys2Proof.Machine.execAndi iss rd rs imm s
  | .br iss cond rs disp => Sys2Proof.Machine.execBr iss cond rs disp s
  | .call iss disp => Sys2Proof.Machine.execCall iss disp s
  | .ret iss => Sys2Proof.Machine.execRet iss s
  | .loop iss lvl byReg rs count len => Sys2Proof.Machine.execLoop iss lvl byReg rs count len s
  | .mfsr iss rd idx => Sys2Proof.Machine.execMfsr iss rd idx s
  | .mtsr iss rs idx => Sys2Proof.Machine.execMtsr iss rs idx s
  | .dbell iss rs => Sys2Proof.Machine.execDbell iss rs s
  | .endU iss => Sys2Proof.Machine.execEndU iss s
  | .endf iss rs => Sys2Proof.Machine.execEndf iss rs s
  | .reti iss => Sys2Proof.Machine.execReti iss s
  | .farAccessComplete stone k chk => Sys2Proof.Machine.execFarAccessComplete stone k chk s
  | .icacheFill stone line victim uncorrectable => Sys2Proof.Machine.execIcacheFill stone line victim uncorrectable s
  | .interruptEntry stone => Sys2Proof.Machine.execInterruptEntry stone s
  | .doorbellMessage sender mill stone bits epoch => Sys2Proof.Machine.execDoorbellMessage sender mill stone bits epoch s
  | .hopperBankTake stone take => Sys2Proof.Machine.execHopperBankTake stone take s
  | .workUnitOverrun stone => Sys2Proof.Machine.execWorkUnitOverrun stone s
  | .stoneHalt fn mill stone => Sys2Proof.Machine.execStoneHalt fn mill stone s
  | .stoneStep fn mill stone => Sys2Proof.Machine.execStoneStep fn mill stone s
  | .stoneResume fn mill stone => Sys2Proof.Machine.execStoneResume fn mill stone s
  | .icinv fn mill data => Sys2Proof.Machine.execIcinv fn mill data s
  | .binSplitWrite fn mill data => Sys2Proof.Machine.execBinSplitWrite fn mill data s
  | .windowRead fn mill => Sys2Proof.Machine.execWindowRead fn mill s
  | .windowWrite fn mill data => Sys2Proof.Machine.execWindowWrite fn mill data s
  | .tideTurnMark => Sys2Proof.Machine.execTideTurnMark s
  | .turnBoundary half early => Sys2Proof.Machine.execTurnBoundary half early s
  | .markLoss half => Sys2Proof.Machine.execMarkLoss half s
  | .substituteBoundary half => Sys2Proof.Machine.execSubstituteBoundary half s
  | .contextPrefetch stone => Sys2Proof.Machine.execContextPrefetch stone s
  | .prefetchComplete stone slot poison => Sys2Proof.Machine.execPrefetchComplete stone slot poison s
  | .workUnitStage stone poisoned => Sys2Proof.Machine.execWorkUnitStage stone poisoned s
  | .workUnitSealed stone meas levels => Sys2Proof.Machine.execWorkUnitSealed stone meas levels s
  | .flumeWritebackDone role slot poison => Sys2Proof.Machine.execFlumeWritebackDone role slot poison s
  | .deferrableStart start => Sys2Proof.Machine.execDeferrableStart start s
  | .reserveWrite fn half data => Sys2Proof.Machine.execReserveWrite fn half data s
  | .bolterJobDone done => Sys2Proof.Machine.execBolterJobDone done s
  | .chainConfigWrite fn mill data => Sys2Proof.Machine.execChainConfigWrite fn mill data s
  | .bankSwap fn mill data => Sys2Proof.Machine.execBankSwap fn mill data s
  | .coefAccess fn mill data => Sys2Proof.Machine.execCoefAccess fn mill data s
  | .frameReceive port data fcsBad codeErr sfd now => Sys2Proof.Machine.execFrameReceive port data fcsBad codeErr sfd now s
  | .lookup half upset both ctxBad => Sys2Proof.Machine.execLookup half upset both ctxBad s
  | .classifierSlotRewrite pos => Sys2Proof.Machine.execClassifierSlotRewrite pos s
  | .classifierCompare pos diff clean => Sys2Proof.Machine.execClassifierCompare pos diff clean s
  | .rtcpSend stream next => Sys2Proof.Machine.execRtcpSend stream next s
  | .queueWinRead fn => Sys2Proof.Machine.execQueueWinRead fn s
  | .queueMark fn => Sys2Proof.Machine.execQueueMark fn s
  | .queueRewind fn => Sys2Proof.Machine.execQueueRewind fn s
  | .queueRelease fn => Sys2Proof.Machine.execQueueRelease fn s
  | .frameTransmitStart port sfd now => Sys2Proof.Machine.execFrameTransmitStart port sfd now s
  | .transmitUnderrun port => Sys2Proof.Machine.execTransmitUnderrun port s
  | .frameTransmitEnd port now => Sys2Proof.Machine.execFrameTransmitEnd port now s
  | .tailraceLinkDiscard port polder prio => Sys2Proof.Machine.execTailraceLinkDiscard port polder prio s
  | .pmodeWrite fn mac data => Sys2Proof.Machine.execPmodeWrite fn mac data s
  | .linkDown port cause => Sys2Proof.Machine.execLinkDown port cause s
  | .linkUp port => Sys2Proof.Machine.execLinkUp port s
  | .anDone lane => Sys2Proof.Machine.execAnDone lane s
  | .ltFail lane => Sys2Proof.Machine.execLtFail lane s
  | .pfcFrameReceive port classes quanta now => Sys2Proof.Machine.execPfcFrameReceive port classes quanta now s
  | .pfcPauseExpire port prio now => Sys2Proof.Machine.execPfcPauseExpire port prio now s
  | .pfcTxRequest fn port quanta classes => Sys2Proof.Machine.execPfcTxRequest fn port quanta classes s
  | .gateWindowStart port now => Sys2Proof.Machine.execGateWindowStart port now s
  | .sluiceSwapRequest fn port => Sys2Proof.Machine.execSluiceSwapRequest fn port s
  | .sluiceModeWrite fn port mode => Sys2Proof.Machine.execSluiceModeWrite fn port mode s
  | .gclDataAccess fn port data => Sys2Proof.Machine.execGclDataAccess fn port data s
  | .mgTxTailWrite fn tail => Sys2Proof.Machine.execMgTxTailWrite fn tail s
  | .mgTxComplete desc frame => Sys2Proof.Machine.execMgTxComplete desc frame s
  | .mgFrameReceive data fcsBad desc written => Sys2Proof.Machine.execMgFrameReceive data fcsBad desc written s
  | .mgCollision late draw => Sys2Proof.Machine.execMgCollision late draw s
  | .mgBackoffExpire => Sys2Proof.Machine.execMgBackoffExpire s
  | .mgPlcaBeacon => Sys2Proof.Machine.execMgPlcaBeacon s
  | .mgPlcaTimeout => Sys2Proof.Machine.execMgPlcaTimeout s
  | .mdioStart fn data => Sys2Proof.Machine.execMdioStart fn data s
  | .mdioDone data => Sys2Proof.Machine.execMdioDone data s
  | .refWindowEnd ref good => Sys2Proof.Machine.execRefWindowEnd ref good s
  | .refLoss ref now => Sys2Proof.Machine.execRefLoss ref now s
  | .refselWrite fn sel => Sys2Proof.Machine.execRefselWrite fn sel s
  | .offsetSampleWrite fn ns now => Sys2Proof.Machine.execOffsetSampleWrite fn ns now s
  | .captureEdge input falling now => Sys2Proof.Machine.execCaptureEdge input falling now s
  | .sourceLoss src now => Sys2Proof.Machine.execSourceLoss src now s
  | .stepAuth fn now => Sys2Proof.Machine.execStepAuth fn now s
  | .timeStep => Sys2Proof.Machine.execTimeStep s
  | .holdoverBudgetExpire now => Sys2Proof.Machine.execHoldoverBudgetExpire now s
  | .pulseEdge output now => Sys2Proof.Machine.execPulseEdge output now s
  | .pulseEnd output now => Sys2Proof.Machine.execPulseEnd output now s
  | .tsPop fn => Sys2Proof.Machine.execTsPop fn s
  | .tideNowRead fn now => Sys2Proof.Machine.execTideNowRead fn now s
  | .hbmRead req polder addr chk => Sys2Proof.Machine.execHbmRead req polder addr chk s
  | .hbmWrite req polder addr data torn chk => Sys2Proof.Machine.execHbmWrite req polder addr data torn chk s
  | .pondAccess req off data torn chk => Sys2Proof.Machine.execPondAccess req off data torn chk s
  | .directoryRequest mill line kind way bad => Sys2Proof.Machine.execDirectoryRequest mill line kind way bad s
  | .snoopAnswer mill tag => Sys2Proof.Machine.execSnoopAnswer mill tag s
  | .evictNotice mill line => Sys2Proof.Machine.execEvictNotice mill line s
  | .evictAck mill line => Sys2Proof.Machine.execEvictAck mill line s
  | .scrubRead h what chk => Sys2Proof.Machine.execScrubRead h what chk s
  | .logClear fn typ inst => Sys2Proof.Machine.execLogClear fn typ inst s
  | .pageRetire fn slice page => Sys2Proof.Machine.execPageRetire fn slice page s
  | .retireDone slice => Sys2Proof.Machine.execRetireDone slice s
  | .ledgerRecordWrite own => Sys2Proof.Machine.execLedgerRecordWrite own s
  | .ledgerCommit => Sys2Proof.Machine.execLedgerCommit s
  | .ledgerRecovery bad unreadable => Sys2Proof.Machine.execLedgerRecovery bad unreadable s
  | .ledgerRdAccess fn chk => Sys2Proof.Machine.execLedgerRdAccess fn chk s
  | .create p ring tag => Sys2Proof.Machine.execCreate p ring tag s
  | .enable p ring tag => Sys2Proof.Machine.execEnable p ring tag s
  | .grantMill p ring tag => Sys2Proof.Machine.execGrantMill p ring tag s
  | .revokeMill p ring tag => Sys2Proof.Machine.execRevokeMill p ring tag s
  | .grantParcels p ring tag => Sys2Proof.Machine.execGrantParcels p ring tag s
  | .revokeParcels p ring tag => Sys2Proof.Machine.execRevokeParcels p ring tag s
  | .setStreams p ring tag => Sys2Proof.Machine.execSetStreams p ring tag s
  | .setPwin p ring tag => Sys2Proof.Machine.execSetPwin p ring tag s
  | .keyEnrol p ring tag keys => Sys2Proof.Machine.execKeyEnrol p ring tag keys s
  | .keyRemove p ring tag id => Sys2Proof.Machine.execKeyRemove p ring tag id s
  | .reset p ring tag => Sys2Proof.Machine.execReset p ring tag s
  | .destroy p ring tag => Sys2Proof.Machine.execDestroy p ring tag s
  | .roleChangeComplete mill badReadBack => Sys2Proof.Machine.execRoleChangeComplete mill badReadBack s
  | .zeroDone polder => Sys2Proof.Machine.execZeroDone polder s
  | .sqDoorbell fn ring tail => Sys2Proof.Machine.execSqDoorbell fn ring tail s
  | .commandTake polder read => Sys2Proof.Machine.execCommandTake polder read s
  | .coalTimer polder ring => Sys2Proof.Machine.execCoalTimer polder ring s
  | .cqHeadWrite fn ring head => Sys2Proof.Machine.execCqHeadWrite fn ring head s
  | .ringEnable fn ring data => Sys2Proof.Machine.execRingEnable fn ring data s
  | .rxDeliver polder k => Sys2Proof.Machine.execRxDeliver polder k s
  | .noticeDeliver polder => Sys2Proof.Machine.execNoticeDeliver polder s
  | .rxConsWrite fn k cons => Sys2Proof.Machine.execRxConsWrite fn k cons s
  | .nopCommand p ring tag => Sys2Proof.Machine.execNopCommand p ring tag s
  | .abort p ring tag => Sys2Proof.Machine.execAbort p ring tag s
  | .query p ring tag => Sys2Proof.Machine.execQuery p ring tag s
  | .bindStream p ring tag desc => Sys2Proof.Machine.execBindStream p ring tag desc s
  | .bindChannel p ring tag params => Sys2Proof.Machine.execBindChannel p ring tag params s
  | .bindBundle p ring tag => Sys2Proof.Machine.execBindBundle p ring tag s
  | .activate p ring tag => Sys2Proof.Machine.execActivate p ring tag s
  | .modify p ring tag data => Sys2Proof.Machine.execModify p ring tag data s
  | .drain p ring tag => Sys2Proof.Machine.execDrain p ring tag s
  | .status p ring tag => Sys2Proof.Machine.execStatus p ring tag s
  | .join p ring tag => Sys2Proof.Machine.execJoin p ring tag s
  | .leave p ring tag => Sys2Proof.Machine.execLeave p ring tag s
  | .tone p ring tag => Sys2Proof.Machine.execTone p ring tag s
  | .control p ring tag item => Sys2Proof.Machine.execControl p ring tag item s
  | .aliasAdd p ring tag key => Sys2Proof.Machine.execAliasAdd p ring tag key s
  | .aliasRemove p ring tag => Sys2Proof.Machine.execAliasRemove p ring tag s
  | .cpDefine p ring tag defn => Sys2Proof.Machine.execCpDefine p ring tag defn s
  | .loadKernel p ring tag image => Sys2Proof.Machine.execLoadKernel p ring tag image s
  | .unloadKernel p ring tag => Sys2Proof.Machine.execUnloadKernel p ring tag s
  | .createType p ring tag entries => Sys2Proof.Machine.execCreateType p ring tag entries s
  | .deleteType p ring tag => Sys2Proof.Machine.execDeleteType p ring tag s
  | .snapshot p ring tag => Sys2Proof.Machine.execSnapshot p ring tag s
  | .bulkSend polder ring tag template payload => Sys2Proof.Machine.execBulkSend polder ring tag template payload s
  | .dmaWrite p ring tag data badTable => Sys2Proof.Machine.execDmaWrite p ring tag data badTable s
  | .dmaRead p ring tag badTable => Sys2Proof.Machine.execDmaRead p ring tag badTable s
  | .map p ring tag => Sys2Proof.Machine.execMap p ring tag s
  | .unmap p ring tag => Sys2Proof.Machine.execUnmap p ring tag s
  | .counterWrite p ring tag payload => Sys2Proof.Machine.execCounterWrite p ring tag payload s
  | .counterRead p ring tag => Sys2Proof.Machine.execCounterRead p ring tag s
  | .fwStage p ring tag image => Sys2Proof.Machine.execFwStage p ring tag image s
  | .fwActivate p ring tag => Sys2Proof.Machine.execFwActivate p ring tag s
  | .fwCommitSvn p ring tag => Sys2Proof.Machine.execFwCommitSvn p ring tag s
  | .report p ring tag => Sys2Proof.Machine.execReport p ring tag s
  | .logRead p ring tag => Sys2Proof.Machine.execLogRead p ring tag s
  | .mrExtend p ring tag value => Sys2Proof.Machine.execMrExtend p ring tag value s
  | .debugChallenge p ring tag => Sys2Proof.Machine.execDebugChallenge p ring tag s
  | .debugUnlock p ring tag token => Sys2Proof.Machine.execDebugUnlock p ring tag token s
  | .standby p ring tag => Sys2Proof.Machine.execStandby p ring tag s
  | .deviceReset p ring tag => Sys2Proof.Machine.execDeviceReset p ring tag s
  | .flrInitiate fn cut => Sys2Proof.Machine.execFlrInitiate fn cut s
  | .flrDone fn => Sys2Proof.Machine.execFlrDone fn s
  | .completionTimeout late => Sys2Proof.Machine.execCompletionTimeout late s
  | .pcieLinkDown => Sys2Proof.Machine.execPcieLinkDown s
  | .spdmRequest who req => Sys2Proof.Machine.execSpdmRequest who req s
  | .mctpPacket badPec noBuffer msg => Sys2Proof.Machine.execMctpPacket badPec noBuffer msg s
  | .pressRingWrite fn polder data => Sys2Proof.Machine.execPressRingWrite fn polder data s
  | .pressSlotStart slot => Sys2Proof.Machine.execPressSlotStart slot s
  | .pressJobStart => Sys2Proof.Machine.execPressJobStart s
  | .pressJobDone badTable torn => Sys2Proof.Machine.execPressJobDone badTable torn s
  | .pressSuspend => Sys2Proof.Machine.execPressSuspend s
  | .mirrorJob polder => Sys2Proof.Machine.execMirrorJob polder s
  | .mirrorCopyDone polder => Sys2Proof.Machine.execMirrorCopyDone polder s
  | .powerOnReset => Sys2Proof.Machine.execPowerOnReset s
  | .sysRstNAssert => Sys2Proof.Machine.execSysRstNAssert s
  | .sysRstNRelease rngOk => Sys2Proof.Machine.execSysRstNRelease rngOk s
  | .bootFirmwareStart xspi0 xspi1 => Sys2Proof.Machine.execBootFirmwareStart xspi0 xspi1 s
  | .hbmInitDone => Sys2Proof.Machine.execHbmInitDone s
  | .bootDone => Sys2Proof.Machine.execBootDone s
  | .perstNAssert => Sys2Proof.Machine.execPerstNAssert s
  | .perstNRelease => Sys2Proof.Machine.execPerstNRelease s
  | .watchdogExpire => Sys2Proof.Machine.execWatchdogExpire s
  | .recoveryGo fn data image => Sys2Proof.Machine.execRecoveryGo fn data image s
  | .tapInstruction op => Sys2Proof.Machine.execTapInstruction op s
  | .domainShutdown dom => Sys2Proof.Machine.execDomainShutdown dom s
  | .domainOff dom => Sys2Proof.Machine.execDomainOff dom s
  | .domainWake dom => Sys2Proof.Machine.execDomainWake dom s
  | .domainOn dom => Sys2Proof.Machine.execDomainOn dom s
  | .domFault dom => Sys2Proof.Machine.execDomFault dom s
  | .pwrfailFall => Sys2Proof.Machine.execPwrfailFall s
  | .pwrfailGlitch => Sys2Proof.Machine.execPwrfailGlitch s
  | .wake => Sys2Proof.Machine.execWake s
  | .thermtrip => Sys2Proof.Machine.execThermtrip s
  | .i2cGo fn inst data => Sys2Proof.Machine.execI2cGo fn inst data s
  | .i2cTransactionDone inst status rx => Sys2Proof.Machine.execI2cTransactionDone inst status rx s
  | .i2cRetry inst => Sys2Proof.Machine.execI2cRetry inst s
  | .i2cBusClear inst released => Sys2Proof.Machine.execI2cBusClear inst released s
  | .busClearRetry inst released => Sys2Proof.Machine.execBusClearRetry inst released s
  | .i2cTimeout inst => Sys2Proof.Machine.execI2cTimeout inst s
  | .millFault mill kind badLines => Sys2Proof.Machine.execMillFault mill kind badLines s
  | .spareClaim row => Sys2Proof.Machine.execSpareClaim row s
  | .takeoverComplete row c => Sys2Proof.Machine.execTakeoverComplete row c s
  | .channelPlacementDone role => Sys2Proof.Machine.execChannelPlacementDone role s
  | .selfTestDone mill passes => Sys2Proof.Machine.execSelfTestDone mill passes s
  | .deviceFault kind typ inst detail => Sys2Proof.Machine.execDeviceFault kind typ inst detail s
  | .barrier fn data => Sys2Proof.Machine.execBarrier fn data s
  | .barrierDone => Sys2Proof.Machine.execBarrierDone s
  | .resumeWalk fn polder data => Sys2Proof.Machine.execResumeWalk fn polder data s
  | .resumeDone polder badTable => Sys2Proof.Machine.execResumeDone polder badTable s
  | .faultLogClear fn => Sys2Proof.Machine.execFaultLogClear fn s
  | .trustMrRead fn => Sys2Proof.Machine.execTrustMrRead fn s
  | .configurationRequest fn req => Sys2Proof.Machine.execConfigurationRequest fn req s
  | .pcieLinkUp speed width => Sys2Proof.Machine.execPcieLinkUp speed width s
  | .pcsLock lane => Sys2Proof.Machine.execPcsLock lane s
  | .linkTrainingDone lane pre post => Sys2Proof.Machine.execLinkTrainingDone lane pre post s
  | .supplyCollapse => Sys2Proof.Machine.execSupplyCollapse s
  | .rngFail passes => Sys2Proof.Machine.execRngFail passes s
  | .smbusTargetTimeout => Sys2Proof.Machine.execSmbusTargetTimeout s

end Sys2Proof.Machine
end

