-- ==== Sys2Proof/Safety.lean ====
section
/-!
DEFINITION. What counts as a safe step and a safe run, and the invariants that statements name.
-/

namespace Sys2Proof.Machine

/-- A step that neither faults nor is refused. -/
def safeStep (s : State) : Bool :=
  match step s with
  | .next _ => true
  | _ => false

/-- A run of n steps that neither faults nor is refused. -/
def safeRun : Nat → State → Bool
  | 0, _ => true
  | n + 1, s =>
    match step s with
    | .next t => safeRun n t
    | _ => false

/-! ## What a command leaves as it was -/

/-- Every register but those at the listed BAR0 addresses reads as before. -/
def SameRegsBut (s t : State) (l : List Nat) : Prop :=
  ∀ a, a ∉ l → Tab.get (regReset t.fuse) t.regs a = Tab.get (regReset s.fuse) s.regs a

/-- Every 64-bit pair but those at the listed BAR0 addresses reads as before. -/
def SameCtrsBut (s t : State) (l : List Nat) : Prop :=
  ∀ a, a ∉ l → Tab.get (fun _ => (0 : BitVec 64)) t.ctrs a = Tab.get (fun _ => (0 : BitVec 64)) s.ctrs a

/-- The address of the register that holds copy `idx` of a field. -/
def fieldAt (f : Fld) (inst : Nat) (idx : Nat := 0) : Nat := regAddr f.t inst (f.off + idx * f.stride)

/-- The address of BLK_ICAUSE of a page (R498). -/
def causeAt (t inst : Nat) : Nat := regAddr t inst 0x18

/-- The addresses of the error log of a page (R498): ERRLOG0 to ERRLOG2 and ERRCNT. -/
def errLogAt (t inst : Nat) : List Nat := [regAddr t inst 0x28, regAddr t inst 0x2C, regAddr t inst 0x30, regAddr t inst 0x34]

/-- Is cause `bit` of a page set in BLK_ICAUSE? -/
def causeSet (s : State) (t inst bit : Nat) : Prop := bitAt (s.rd t inst 0x18) bit = true

/-- A register holds what it held with the listed fields replaced. -/
def FieldsSet (s t : State) (ty inst off : Nat) (l : List (Fld × Nat)) : Prop :=
  t.rd ty inst off = l.foldl (fun v e => setField v e.1.lo e.1.w e.2) (s.rd ty inst off)

/-- Every stone but the listed ones is as before. -/
def SameStonesBut (s t : State) (l : List Nat) : Prop := ∀ n, n ∉ l → t.stone n = s.stone n

/-- The registers that a sample or a change of state may change: TIDE_STAT, TIDE_FREQ, TIDE_HO_TIME, TIDE_JUMP, TIDE_COUNTS, TIDE_STEP_SEC,
TIDE_STEP_NS and BLK_ICAUSE. -/
def servoRegs : List Nat :=
  [fieldAt F.TIDE_STAT_STATE 0, fieldAt F.TIDE_FREQ_ADJ 0, fieldAt F.TIDE_HO_TIME_SEC 0, fieldAt F.TIDE_JUMP_THETA 0, fieldAt F.TIDE_COUNTS_REFUSED 0,
    fieldAt F.TIDE_STEP_SEC_SEC 0, fieldAt F.TIDE_STEP_NS_NS 0, causeAt T.tide 0]

/-- A unicast access of a function reaches a page: the function's requests are taken up (R489, R496, R553), and the page is present and in its
view (R495). A row that is one access of a register is then that access (R493). -/
def Reaches (s : State) (fn t inst : Nat) : Prop := fn ≤ 16 ∧ s.gate fn = .open' ∧ t < 64 ∧ inst < 128 ∧ s.sees fn t inst = true

/-! ## Vorak's commands -/

/-- A taken command of a ring and tag may start (R510): it is the one command of its order, its opcode is the row's, nothing before it holds
it back, and it passes the checks that come before its own: unused fields zero under `masks`, the device RUNNING, and its polder ACTIVE. -/
def Starts (s : State) (p ring tag op : Nat) (useH : Bool) (masks : List Nat) (c : VCmd) : Prop :=
  s.findCmd p ring tag = some c ∧ (∀ x ∈ s.vk.cmds, x.order = c.order → x = c) ∧ c.opcode = op ∧ s.ready c (objName c.handle) = true ∧
    zeroBad c useH masks = false ∧ s.fget F.TRUST_STAT_STATE 0 = 2 ∧ (c.polder = 0 ∨ s.polState c.polder = 2)

/-- A command's completion (R503, R508, R519): of the commands in execution the one of its order is gone, and, unless a function-level reset
took it away, an entry with its tag and the status (ABORTED for an aborted command) is among what was sent. -/
def CompletedWith (s t : State) (c : VCmd) (status : Nat) : Prop :=
  (∀ x ∈ t.vk.cmds, x.order ≠ c.order) ∧
    (c.silent = false → ∃ l addr bytes, t.out = s.out ++ l ∧ Out.dmaWrite c.polder addr bytes ∈ l ∧ bytes.length = 32 ∧
      bytes.take 3 = leBytes 2 c.tag ++ leBytes 1 (if c.aborted then 8 else status))

/-! ## One-syllable bundles -/

/-- The stone a syllable issues on. -/
def issueStone (i : Issue) : Nat := 16 * i.mill + i.stone

/-- A syllable is a whole bundle of its own on a stone that may issue: context c runs below the end of the kernel area, the codes find
nothing, no result, far access or loop is in flight, and the bundle before was no MAC32 or MUL32 and left no step pending. -/
def Lone (s : State) (i : Issue) (slot c : Nat) : Prop :=
  let x := s.stone (issueStone i)
  i.slot = slot ∧ i.last = true ∧ i.check = 0 ∧ i.stone < 16 ∧ s.canIssue (issueStone i) = true ∧ x.active = some c ∧ x.bundle = [] ∧
    x.inflight = [] ∧ x.far = [] ∧ x.ldepth = 0 ∧ x.stepping = false ∧ x.macPass = false ∧ (x.cx c).pc < s.karea i.mill

/-- What a bundle of context c leaves of the whole state: the context is `cx`, the stone's other contexts are as they were, its other
fields are those of `f` over the stone one bundle on with no hazard left, and nothing else changes but the mill's two counters. -/
def StoneAfter (s t : State) (i : Issue) (c : Nat) (cx : Ctx) (f : Stone → Stone) : Prop :=
  let x := s.stone (issueStone i)
  let y := t.stone (issueStone i)
  y.cx c = cx ∧ (∀ k, k ≠ c → y.cx k = x.cx k) ∧
    y = { f { x with now := x.now + 1, halfBank := [], takenBank := [], macPass := false, dbNew := 0 } with ctx := y.ctx } ∧
    SameStonesBut s t [issueStone i] ∧ SameCtrsBut s t [regAddr C.MILL_IBUNDLES.t i.mill C.MILL_IBUNDLES.off, regAddr C.MILL_WAITS.t i.mill C.MILL_WAITS.off] ∧
    t = { s with stones := t.stones, ctrs := t.ctrs }

/-- The context of a bundle as the next one finds it: its PC goes to the next bundle, modulo 2³² (R104). -/
def Ctx.step (cx : Ctx) : Ctx := { cx with pc := (cx.pc + 16) % 2 ^ 32 }

end Sys2Proof.Machine
end

