-- ==== Sys2Proof/Certificates/Slice0/Obligations.lean ====
section
/-!
DEFINITION. The statements for the provers, from the numbered rules of spec/. A command of the object interface is stated under Starts
(Safety.lean): the conditions on its state and operands alone under which it is the next of its order to run.
-/

section

open Sys2Proof Sys2Proof.Machine

/-- One step of the block: the command at the front of the queue runs on the state with the queue's rest, whatever the command; on an empty queue the
block idles (the model's choice: log entry 1). No word of the table spells a command, so a fetch word changes nothing. -/
def Obligations.StepRunsFront : Prop :=
  (∀ (s : State) (c : Instr) (rest : List Instr), s.pending = c :: rest → step s = exec c { s with pending := rest }) ∧
  (∀ (s : State) (c : Instr), step (s.withFront c) = exec c s) ∧
  (∀ s : State, s.pending = [] → step s = .next s) ∧
  (∀ (s : State) (nbits w : Nat), decodeTableWord nbits w = none ∧ s.withFetchWord nbits w = s)

/-- What reset leaves of the registers of page 0 and 1 of each type whose reset value the spec gives as non-zero, of the roles and of the machine's own parts. -/
def Obligations.ResetValues : Prop :=
  (∀ inst, inst < 2 → ∀ e ∈ ([(F.MILL_CTRL_CNT_EN, 1), (F.MILL_BIN_SPLIT_KAREA, 4), (F.BOLT_CTRL_CNT_EN, 1), (F.HOPPER_CTRL_CNT_EN, 1), (F.LOCK_STAT_STATE, 5),
      (F.LOCK_WAKE_LIMIT_LIMIT, 50), (F.MILLER_CTRL_RESERVE, 10), (F.MILLER_CTRL_DEFER_EN, 1), (F.MILLER_CTRL_ADMIT_EN, 1), (F.HBMC_CTRL_LOG_EN, 1),
      (F.STREAM_CTRL_RTCP_EN, 1), (F.QUEUE_WIN_STAT_EMPTY, 1), (F.MAC_CTRL_PFC_RX_EN, 1), (F.MAC_CT_THRESH, 2), (F.MG_CTRL_FD, 1), (F.MG_CTRL_SPEED, 2),
      (F.SERDES_CTRL_LT_EN, 1), (F.SERDES_CTRL_AN_EN, 1), (F.TIDE_CTRL_REF_AUTO, 1), (F.TIDE_SYNCE_SQUELCHED, 1), (F.SCRUB_CTRL_EN, 1), (F.I2CM_CTRL_RETRY, 3),
      (F.SMBT_CTRL_EN, 1), (F.VORAK_CTRL_EN, 1), (F.VORAK_COAL_COUNT, 1), (F.RING_CFG_LOG2SIZE, 4), (F.RX_CFG_LOG2SIZE, 4), (F.VANE_CTRL_SURPLUS_EN, 1),
      (F.RAS_CTRL_DIAG_EN, 1), (F.RAS_CTRL_FAIL_STOP, 1)] : List (Fld × Nat)), State.reset.fget e.1 inst = e.2) ∧
  State.reset.pending = [] ∧ (∀ n, State.reset.stone n = {}) ∧ State.reset.pond = [] ∧ State.reset.mem.hbm = [] ∧ State.reset.vk.cmds = [] ∧
  (∀ i, (State.reset.strm i).st = .idle) ∧ (∀ c, (State.reset.chan c).st = .idle) ∧ (∀ b, (State.reset.bundle b).st = .idle) ∧ State.reset.tideNow = 0 ∧
  State.reset.fget F.TRUST_STAT_STATE 0 = 0

/-- Syllable words written out from the encoding tables, one of each format (R139 to R143), and what each slot reads of them. -/
def Obligations.SyllableWords : Prop :=
  decodeSyl 0 0b000001_00111_0101_001_000_00000000100 = .mem .ldW 7 ⟨5, 1, 0, 4⟩ ∧ decodeSyl 1 0b001011_00110_0010_011_010_11111111000 = .mem .stfD 6 ⟨2, 3, 2, 2040⟩ ∧
  decodeSyl 0 0b001100_00100_1001_000_010_00000000000 = .amo .cas 4 9 ∧ decodeSyl 0 0b001110_01101_00011_0000000000000000 = .mova 13 3 ∧
  decodeSyl 1 0b010000_01010_00001_0000000000000000 = .movc true 2 1 ∧ decodeSyl 0 0b010011_00000000000000000000000000 = .fence ∧
  decodeSyl 2 0b000001_10_00001_00010_01_1_0_0000000000 = .mac .mac4 2 1 2 1 true false ∧ decodeSyl 2 0b000101_11_00101_001111_10_1_0000000000 = .accrd 3 5 15 2 true ∧
  decodeSyl 3 0b000001_00001_00010_00011_00000010100 = .alu .cmpltu 1 2 3 ∧ decodeSyl 3 0b000010_00100_00101_1111111111111111 = .addi 4 5 65535 ∧
  decodeSyl 3 0b001000_010_01000_111111111111111111 = .br 2 8 0x3FFFF ∧ decodeSyl 3 0b001011_01_0_0000000001100100_0001111 = .loop 1 false 0 100 16 ∧
  decodeSyl 3 0b001101_00000_00110_0000000000000111 = .mtsr 6 7 ∧ decodeSyl 3 0b010001_00000000000000000000000000 = .reti ∧
  (∀ slot, slot < 4 → decodeSyl slot 0 = .nop ∧ decodeSyl slot 0xFFFFFFFF = .bad) ∧ decodeSyl 2 0b010001_00000000000000000000000000 = .bad

/-- The words and the syllables of every slot stand for each other (R139 to R143): a syllable whose fields are in their ranges is read from the word that
encodes it, and a word that is read as a syllable is that syllable's word but for the fields that its format has and its operation neither reads nor is told
to find zero (MOVC, ACCCLR, ACCMOV, ACCSH, ACCLD, MFSR, MTSR, DBELL, ENDF; that these may hold anything is the model's reading: log entry 108). -/
def Obligations.SyllableRoundTrip : Prop :=
  (∀ slot v op unread, slot < 4 → v < 2 ^ 32 → op = bitField v 26 6 →
    unread = (if slot < 2 then (if op = 16 then 0xFFFF else 0)
      else if slot = 2 then (if op = 6 then 0x307FC00 else if op = 7 then 0x7FC00 else if op = 8 then 0xF81C00 else if op = 9 then 0x1C00 else 0)
      else if op = 12 then 0x1F0000 else if op = 13 then 0x3E00000 else if op = 14 ∨ op = 16 then 0x3E0FFFF else 0) →
    decodeSyl slot v ≠ .bad → encodeSyl (decodeSyl slot v) = v &&& (unread ^^^ 0xFFFFFFFF)) ∧
  (∀ slot, slot < 2 →
    (∀ op rd (m : Amode), rd < 32 → m.an < 16 → m.mode < 8 → m.cp < 8 → m.off < 2 ^ 11 → (op = .lsave ∨ op = .lrest → slot = 0 ∧ rd = 0 ∧ m.mode = 0) → (op = .lea → rd = 0) →
      decodeSyl slot (encodeSyl (.mem op rd m)) = .mem op rd m) ∧
    (∀ f rd an, rd < 32 → an < 16 → decodeSyl slot (encodeSyl (.amo f rd an)) = .amo f rd an) ∧
    (∀ r a k, r < 32 → a < 16 → k < 8 → decodeSyl slot (encodeSyl (.mova a r)) = .mova a r ∧ decodeSyl slot (encodeSyl (.movd r a)) = .movd r a ∧
      ∀ len, decodeSyl slot (encodeSyl (.movc len k r)) = .movc len k r) ∧
    decodeSyl slot (encodeSyl .fence) = .fence) ∧
  (∀ op n da db sub frac neg, n < 4 → da < 32 → db < 32 → sub < 4 → decodeSyl 2 (encodeSyl (.mac op n da db sub frac neg)) = .mac op n da db sub frac neg) ∧
  (∀ n r sh rnd w, n < 4 → r < 32 → sh < 64 → rnd < 4 → decodeSyl 2 (encodeSyl (.accrd n r sh rnd w)) = .accrd n r sh rnd w ∧
    decodeSyl 2 (encodeSyl (.accsh n sh)) = .accsh n sh ∧ decodeSyl 2 (encodeSyl (.accld n r sh)) = .accld n r sh) ∧
  (∀ mask n m, mask < 16 → n < 4 → m < 4 → decodeSyl 2 (encodeSyl (.accclr mask)) = .accclr mask ∧ decodeSyl 2 (encodeSyl (.accmov n m)) = .accmov n m) ∧
  (∀ f rd rs rt, rd < 32 → rs < 32 → rt < 32 → decodeSyl 3 (encodeSyl (.alu f rd rs rt)) = .alu f rd rs rt) ∧
  (∀ rd rs imm, rd < 32 → rs < 32 → imm < 2 ^ 16 → decodeSyl 3 (encodeSyl (.addi rd rs imm)) = .addi rd rs imm ∧ decodeSyl 3 (encodeSyl (.andi rd rs imm)) = .andi rd rs imm ∧
    decodeSyl 3 (encodeSyl (.movi rd imm)) = .movi rd imm ∧ decodeSyl 3 (encodeSyl (.movhi rd imm)) = .movhi rd imm ∧
    decodeSyl 3 (encodeSyl (.mfsr rd imm)) = .mfsr rd imm ∧ decodeSyl 3 (encodeSyl (.mtsr rs imm)) = .mtsr rs imm) ∧
  (∀ cond rs disp, cond < 8 → rs < 32 → disp < 2 ^ 18 → decodeSyl 3 (encodeSyl (.br cond rs disp)) = .br cond rs disp ∧ decodeSyl 3 (encodeSyl (.call disp)) = .call disp ∧
    decodeSyl 3 (encodeSyl (.dbell rs)) = .dbell rs ∧ decodeSyl 3 (encodeSyl (.endf rs)) = .endf rs) ∧
  (∀ lvl rs count len, lvl < 4 → rs < 32 → count < 2 ^ 16 → 1 ≤ len → len ≤ 128 → decodeSyl 3 (encodeSyl (.loop lvl true rs 0 len)) = .loop lvl true rs 0 len ∧
    decodeSyl 3 (encodeSyl (.loop lvl false 0 count len)) = .loop lvl false 0 count len) ∧
  (∀ y, y = .ret ∨ y = .endU ∨ y = .reti → decodeSyl 3 (encodeSyl y) = y) ∧ (∀ slot, slot < 4 → decodeSyl slot (encodeSyl .nop) = .nop)

/-- The two memories in their canonical form: addresses strictly rising, no byte listed that reads as an unlisted one does. -/
def Obligations.MemoriesCanonicalAtReset : Prop :=
  Tab.wf memDefault State.reset.mem.hbm = true ∧ Tab.wf memDefault State.reset.pond = true

/-- Every step keeps HBM and millpond in their canonical form, so that equal memories are equal data. -/
def Obligations.MemoriesStayCanonical : Prop :=
  ∀ s t : State, Tab.wf memDefault s.mem.hbm = true → Tab.wf memDefault s.pond = true → step s = .next t →
    Tab.wf memDefault t.mem.hbm = true ∧ Tab.wf memDefault t.pond = true

/-- Whole-machine rules: every command of the table answers a next state in every state; none adds to or takes from the queue of commands, and of the fuses no command changes any but the revoked key slots, which only
grow (R549: a reset leaves the fuses and the commands that wait). -/
def Obligations.QueueAndFusesKept : Prop :=
  ∀ (s : State) (c : Instr), ∃ t, exec c s = .next t ∧
    t.pending = s.pending ∧ (∀ k ∈ s.fuse.revoked, k ∈ t.fuse.revoked) ∧ t.fuse = { s.fuse with revoked := t.fuse.revoked }

/-- Register access (R11, R13 to R15, R498). That an access of an odd size is cut into its words is the model's reading (log entry 85). `Uni fn t inst` says that a unicast access of a
function reaches a page: its request is open and the page in its view. -/
def Obligations.BusAccess : Prop :=
  ∀ (s : State) (Uni : Nat → Nat → Nat → Prop), (∀ fn t inst, Uni fn t inst ↔ (fn ≤ 16 ∧ s.gate fn = .open' ∧ t < 64 ∧ inst < 128 ∧ s.sees fn t inst = true)) →
    -- when a request is carried out
    (∀ fn a size d p,
      (s.trust.boot = .held ∨ s.power.standby = true → exec (.registerWrite fn a size d p) s = .next s ∧ exec (.readClear fn a size) s = .next s) ∧
      (s.trust.boot ≠ .held → s.power.standby = false → fn < 16 → s.trust.perst = false →
        ((s.fget F.TRUST_STAT_STATE 0 ≠ 3 ∧ (s.trust.boot = .rom ∨ s.trust.boot = .firmware)) ∨ s.fnPresent fn = false ∨ s.pcie.d3.contains fn = true ∨ s.inFlr fn = true →
          exec (.registerWrite fn a size d p) s = .next (s.unsupportedReq fn a) ∧ exec (.readClear fn a size) s = .next (s.unsupportedReq fn a)) ∧
        (s.trust.boot = .memory ∨ s.trust.boot = .done → s.fnPresent fn = true → s.pcie.d3.contains fn = false → s.inFlr fn = false → s.gate fn = .open')) ∧
      (s.trust.boot ≠ .held → s.power.standby = false → s.gate 16 = .open')) ∧
    -- reads of pairs (R14)
    (∀ fn t inst c i v a, Uni fn t inst → c ∈ ctrsOf t → s.noRegs t inst c.off = false → i = (if t = T.queue then s.fget F.SPILL_SEL_POLDER 0 else 0) → v = s.cget c inst i →
      a = regAddr t inst c.off →
      (∃ u, exec (.latchedPairRead fn a) s = .next u ∧ u.out = s.out ++ [.readData fn a (v % 2 ^ 32)] ∧
        (Tab.get (fun _ => (0 : Word)) u.latch (latchKey fn t inst (c.off + 4))).toNat = v / 2 ^ 32 ∧
        (∀ k, k ≠ latchKey fn t inst (c.off + 4) → Tab.get (fun _ => (0 : Word)) u.latch k = Tab.get (fun _ => (0 : Word)) s.latch k) ∧
        u.cget c inst i = (if c.rc && !s.frozen t inst then 0 else v) ∧ SameCtrsBut s u [regAddr t inst (c.off + 2048 * i)] ∧
        u = { s with latch := u.latch, ctrs := u.ctrs, out := u.out } ∧
        exec (.readClear fn (a + 4) 4) u = .next (u.emit (.readData fn (a + 4) (v / 2 ^ 32)))) ∧
      (∃ u : State, exec (.readClear fn a 8) s = .next u ∧ u.out = s.out ++ [.readData fn a v])) ∧
    -- reads that clear, and reads that do not (R11, R13)
    (∀ fn f inst a k size, f ∈ [F.RX_FCS_ERR_COUNT, F.SERDES_FEC_CORR_COUNT, F.SLUICE_DEFER_COUNT, F.MG_TX_FRAMES_COUNT, F.SCRUB_POISON_COUNT] → Uni fn f.t inst →
      a = regAddr f.t inst f.off → 0 < size → k + size ≤ 4 → (f = F.SERDES_FEC_CORR_COUNT → s.fbit F.SERDES_CTRL_EN inst = false) →
      exec (.readClear fn (a + k) size) s = .next ((s.fset f inst 0).emit (.readData fn (a + k) (s.fget f inst / 2 ^ (8 * k) % 2 ^ (8 * size))))) ∧
    -- a count of line errors on a lane that runs is a value the spec does not state (log entry 335)
    (∀ fn lane a, Uni fn T.serdes lane → a = regAddr T.serdes lane F.SERDES_FEC_CORR_COUNT.off → s.fbit F.SERDES_CTRL_EN lane = true →
      ∃ (u : State) (v : Nat), exec (.readClear fn a 4) s = .next u ∧ v < 2 ^ 32 ∧ u.out = s.out ++ [.readData fn a v] ∧ u.fresh = s.fresh + 1 ∧ u.fget F.SERDES_FEC_CORR_COUNT lane = 0 ∧
        SameRegsBut s u [a] ∧ u = { s with regs := u.regs, out := u.out, fresh := u.fresh }) ∧
    (∀ fn t a, fn ≤ 16 → s.gate fn = .open' → a < 2 ^ 27 → a % 4 = 0 → t = bitField a 19 6 → (t = T.device → fn = 0 ∨ fn = 16) → bitField a 25 2 = 1 ∨ bitField a 25 2 = 2 →
      ∃ x, exec (.readClear fn a 4) s = .next (s.emit (.readData fn a x)) ∧ x < 2 ^ 32 ∧
        ∀ b, b < 32 → (bitAt x b = true ↔ ∃ m, m < instances t ∧ s.sees fn t m = true ∧ (bitField a 25 2 = 1 → s.inGroup t m (bitField a 12 7) = true) ∧ bitAt (s.pageValue fn t m (a % 4096)) b = true)) ∧
    -- accesses that are dropped and logged (R15, R489, R494, R497)
    (∀ fn t inst a v k size, Uni fn t inst → (t = T.device → fn = 0 ∨ fn = 16) → a % 4 = 0 → a / 4096 = 128 * t + inst → v < 2 ^ 32 →
      (0 < size → size < 4 → k + size ≤ 4 →
        (s.frozen t inst = true → exec (.registerWrite fn (a + k) size v false) s = .next (s.logErr T.row (rowOf inst) 3 fn a (v % 2 ^ (8 * size) * 2 ^ (8 * k)))) ∧
        (s.noRegs t inst (a % 4096) = true → exec (.registerWrite fn (a + k) size v false) s = .next s) ∧
        (s.frozen t inst = false → s.noRegs t inst (a % 4096) = false →
          exec (.registerWrite fn (a + k) size v false) s = .next ((s.logErr t inst 3 fn a (v % 2 ^ (8 * size) * 2 ^ (8 * k))).afterDrop t inst (a % 4096)))) ∧
      (s.frozen t inst = false → s.noRegs t inst (a % 4096) = false →
        exec (.registerWrite fn a 4 v true) s = .next ((((s.finc F.PCIE_ERRCNT_POISONED 0).raise T.pcie 0 I.PCIE_POISONED).logErr t inst 7 fn a v).afterDrop t inst (a % 4096)))) ∧
    (∀ (u : State) t inst off, u.afterDrop t inst off = (if t = T.mill ∧ off = 0x21C then u.coefAdvance inst else if t = T.sluice ∧ off = 0x74 then u.gclAdvance inst else u)) ∧
    (∀ fn a v kind, fn ≤ 16 → s.gate fn = .open' → a < 2 ^ 27 → a % 4 = 0 → v < 2 ^ 32 →
      (kind = 1 ∧ bitField a 25 2 = 3) ∨ (kind = 2 ∧ bitField a 25 2 = 0 ∧ s.sees fn (bitField a 19 6) (bitField a 12 7) = false) →
      exec (.registerWrite fn a 4 v false) s = .next (s.logDevice kind fn a v) ∧ exec (.readClear fn a 4) s = .next ((s.logDevice kind fn a 0).emit (.readData fn a 0))) ∧
    -- writes that a page takes, by the host's PF or the Millhouse
    (∀ fn t inst, Uni fn t inst → fn = 0 ∨ fn = 16 → s.frozen t inst = false → (t = T.dike → s.polState inst ≠ 0) → (t = T.vorak → fn = 16 ∨ inst = 0) →
      (∃ u, exec (.blkLock fn t inst) s = .next u ∧ u.rd t inst 0x10 = 2 ^ 31 ∧ SameRegsBut s u [regAddr t inst 0x10] ∧
        u = { s with regs := u.regs, shadow := u.shadow } ∧ (t ≠ T.mill → u.shadow = s.shadow)) ∧
      (∃ u, exec (.errlogClr fn t inst) s = .next u ∧ u.rd t inst 0x28 = 0 ∧ u.rd t inst 0x2C = 0 ∧ u.rd t inst 0x30 = 0 ∧ u.rd t inst 0x34 = 0 ∧ SameRegsBut s u (errLogAt t inst) ∧
        u = { s with regs := u.regs, shadow := u.shadow } ∧ (t ≠ T.mill → u.shadow = s.shadow)) ∧
      (∀ v, v < 2 ^ 32 →
        (t ≠ T.row → t ≠ T.half → ∃ u, exec (.blkIforce fn t inst v) s = .next u ∧
          (∀ b, b < 32 → bitAt (u.rd t inst 0x18) b = (bitAt (s.rd t inst 0x18) b || (bitAt v b && bitAt (causesAt t inst) b))) ∧ SameRegsBut s u [causeAt t inst] ∧ u.ctrs = s.ctrs) ∧
        (t = T.row ∨ t = T.half → ∃ u, exec (.blkIforce fn t inst v) s = .next u ∧ u.ctrs = s.ctrs ∧ SameRegsBut s u ((s.aggMembers t inst).map (causeAt T.mill)) ∧
          ∀ m ∈ s.aggMembers t inst, s.frozen T.mill m = false → ∀ b, b < 32 →
            bitAt (u.rd T.mill m 0x18) b = (bitAt (s.rd T.mill m 0x18) b || (bitAt v b && bitAt (causesAt T.mill m) b)))) ∧
      (∀ off a v held locked w, 0x40 ≤ off → off < 4096 → off % 4 = 0 → isReg t inst off = true → s.noRegs t inst off = false → (t = T.row ∨ t = T.half → 0xC00 ≤ off) → v < 2 ^ 32 →
        a = regAddr t inst off → held = s.rd t inst off → locked = bitAt (s.rd t inst 0x10) 31 →
        w = (if locked then (v &&& (rwlMask t inst off ^^^ 0xFFFFFFFF)) ||| (held &&& rwlMask t inst off) else v) →
        s.valueOk t inst off w = true → (∀ st : State, st.ownWrite fn a t inst off w true = none) →
        ∃ u, exec (.registerWrite fn a 4 v false) s = .next u ∧
          (∀ f ∈ fieldsAt t inst off, ∀ x h, x = bitField v f.lo f.w → h = bitField held f.lo f.w →
            bitField (u.rd t inst off) f.lo f.w = match f.acc with
              | .rw => x
              | .rwl => if locked then h else x
              | .w1c => h &&& ((2 ^ f.w - 1) ^^^ x)
              | .w1s => h ||| x
              | _ => h) ∧
          ((locked = true ∧ ∃ f ∈ fieldsAt t inst off, f.acc = .rwl ∧ bitField v f.lo f.w ≠ bitField held f.lo f.w) →
            bitAt (u.rd t inst 0x28) 31 = true ∧ u.rd t inst 0x34 = min (s.rd t inst 0x34 % 65536 + 1) 0xFFFF ∧
              (bitAt (s.rd t inst 0x28) 31 = false → bitField (u.rd t inst 0x28) 16 4 = 4 ∧ u.rd t inst 0x2C = a ∧ u.rd t inst 0x30 = v) ∧ SameRegsBut s u (a :: errLogAt t inst)) ∧
          ((locked = false ∨ ∀ f ∈ fieldsAt t inst off, f.acc = .rwl → bitField v f.lo f.w = bitField held f.lo f.w) → SameRegsBut s u [a]) ∧
          u = { s with regs := u.regs, shadow := u.shadow } ∧ (t ≠ T.mill → u.shadow = s.shadow)))

/-- HANDSHAKE_TRANSFER, STAGE_STALL and WAIT_STALL (R46, R47, R61, R62, R596). `Det` says what a detection of a kind at a place leaves: its report, CANAL_FAULT where a
router or a lock at one of its ports saw it, and a mill stopped (R64, R90, R126). How a tag names a stone's access, and who waits for memory, are the model's (log entry 350); that a detection at a lock with no single lane leaves VL open is too (log entry 371). -/
def Obligations.HandshakesAndStalls : Prop :=
  ∀ (s : State) (Det : State → Nat → Place → Prop), (∀ t k pl, Det t k pl ↔
      ((∀ m, pl = .mill m → s.role m = 4 → t.out = s.out ∧ t.mills = s.mills ∧ t.regs = s.regs) ∧
       ((∀ m, pl = .mill m → s.role m ≠ 4) → t.out = s.out ++ [.detection k pl]) ∧
       (∀ m, pl = .mill m → s.role m ≠ 4 → (t.mill m).stopped = true ∧ t.regs = s.regs ∧ ∀ n, n ≠ m → t.mill n = s.mill n) ∧ ((∀ m, pl ≠ .mill m) → t.mills = s.mills) ∧
       (∀ r q, (∃ vl, pl = .router r q vl) ∨ (∃ h n, pl = .lock h n ∧ lockRouter h n = some (r, q)) →
          SameRegsBut s t [regAddr T.row r 0xC48] ∧ (s.fbit F.CANAL_FAULT_VALID r = true → t.regs = s.regs) ∧
          (s.fbit F.CANAL_FAULT_VALID r = false → ∃ v, v < 32 ∧ t.rd T.row r 0xC48 = 2 ^ 31 + v * 65536 + q % 16 * 256 + k % 16 ∧ ∀ vl, pl = .router r q vl → v = vl % 32)) ∧
       ((∀ h n, pl ≠ .lock h n) → t.fresh = s.fresh) ∧
       ((∀ r q vl, pl ≠ .router r q vl) → (∀ h n, pl = .lock h n → lockRouter h n = none) → t.regs = s.regs))) →
  (∀ (pl : Place) (n : Nat) (rails : List Rail), (s.stage pl n).ack = false → (∀ r ∈ rails, r.t ≠ r.f) →
    exec (.handshakeTransfer pl n rails true) s = .next (s.setStage pl n { started := false, ack := false, ticks := 0, word := rails.map (·.t) }) ∧
    exec (.handshakeTransfer pl n rails false) s =
      .next (s.setStage pl n { started := true, ack := true, ticks := (s.stage pl n).ticks, word := rails.map (·.t) })) ∧
  (∀ (pl : Place) (n : Nat) (rails : List Rail) (c : Bool), (s.stage pl n).ack = true ∨ (∃ r ∈ rails, r.t = true ∧ r.f = true) →
    ∃ t, exec (.handshakeTransfer pl n rails c) s = .next t ∧ (t.stage pl n).word = (s.stage pl n).word ∧ (t.stage pl n).ack = (s.stage pl n).ack ∧ Det t 1 pl ∧
      (∀ p k, stageKey p k ≠ stageKey pl n → t.stage p k = s.stage p k) ∧ t = { s with regs := t.regs, out := t.out, mills := t.mills, fresh := t.fresh, fab := { s.fab with stages := t.fab.stages } }) ∧
  (∀ (pl : Place) (n : Nat) (rails : List Rail) (c : Bool), (s.stage pl n).ack = false → (∀ r ∈ rails, ¬ (r.t = true ∧ r.f = true)) →
    (∃ r ∈ rails, r.t = false ∧ r.f = false) → exec (.handshakeTransfer pl n rails c) s = .next (s.setStage pl n { s.stage pl n with started := true })) ∧
  (∀ (pl : Place) (n : Nat),
    ((s.stage pl n).started = true → s.fget F.VANE_WD_STAGE (placeHalf pl) ≤ (s.stage pl n).ticks ∨ s.tickLost (placeHalf pl) = true →
      ∃ t, exec (.stageStall pl n) s = .next t ∧ Det t 2 pl ∧ t = { s with regs := t.regs, out := t.out, mills := t.mills, fresh := t.fresh }) ∧
    ((s.stage pl n).started = false ∨ ((s.stage pl n).ticks < s.fget F.VANE_WD_STAGE (placeHalf pl) ∧ s.tickLost (placeHalf pl) = false) → exec (.stageStall pl n) s = .next s)) ∧
  (∀ (h : Nat) (l : List Waiter), l = s.timedWaiters →
    ((∀ w ∈ l, w.half = h → w.ticks < s.fget F.VANE_WD_WAIT h) → s.tickLost h = false → exec (.waitStall ⟨h⟩) s = .next s) ∧
    (∀ w0 ∈ l, w0.half = h → s.fget F.VANE_WD_WAIT h ≤ w0.ticks ∨ s.tickLost h = true →
      ∃ t w o, exec (.waitStall ⟨h⟩) s = .next t ∧ w ∈ l ∧ (s.fget F.VANE_WD_WAIT w.half ≤ 2 * w.ticks ∨ s.tickLost w.half = true) ∧
        (∀ v ∈ l, s.fget F.VANE_WD_WAIT v.half ≤ 2 * v.ticks ∨ s.tickLost v.half = true → w.ticks ≤ v.ticks ∧ (w.ticks = v.ticks → unitNo w.who ≤ unitNo v.who)) ∧
        t.out = s.out ++ .errorResponse w.who (waitTag w) :: o ∧
        t.fget F.RAS_COUNTS_WAIT_ABORT 0 = min (s.fget F.RAS_COUNTS_WAIT_ABORT 0 + 1) (2 ^ F.RAS_COUNTS_WAIT_ABORT.w - 1) ∧ causeSet t T.ras 0 I.RAS_WAIT_ABORT ∧
        (∀ r q f, w.on = .lane r q f → s.fbit F.CANAL_FAULT_VALID r = false → Out.detection 3 (.router r q (2 * f.polder + f.cls)) ∈ o ∧
          t.rd T.row r 0xC48 = 2 ^ 31 + (2 * f.polder + f.cls) % 32 * 65536 + q % 16 * 256 + 3) ∧
        (∀ hh k x r q f, w.on = .lock hh k x → x.flit = some f → lockRouter hh k = some (r, q) → s.fbit F.CANAL_FAULT_VALID r = false → Out.detection 3 (.lock hh k) ∈ o ∧
          t.rd T.row r 0xC48 = 2 ^ 31 + (2 * f.polder + f.cls) % 32 * 65536 + q % 16 * 256 + 3) ∧
        (∀ n, w.who = .stone n → (∀ hh k x, w.on ≠ .lock hh k x) → t.fab = { s.fab with waiters := s.fab.waiters.erase w }) ∧
        (∀ n, w.who = .unit n → (∀ hh k x, w.on ≠ .lock hh k x) → t.fab = { s.fab with waiters := s.fab.waiters.erase w } ∧
          (s.flog.length < 16 → t.flog.length = s.flog.length + 1) ∧
          SameRegsBut s t [regAddr T.row (waitBlock w).2 0xC48, fieldAt F.RAS_COUNTS_WAIT_ABORT 0, fieldAt F.RAS_FLOG_CTRL_OVF 0, causeAt T.ras 0] ∧
          t = { s with regs := t.regs, out := t.out, fab := t.fab, flog := t.flog }) ∧
        (∀ p ring tag c, w.who = .vorak p ring tag → s.findCmd p ring tag = some c → (∀ x ∈ s.vk.cmds, x.order = c.order → x = c) → CompletedWith s t c 0xA) ∧
        (w.who = .millhouse → s.ras.retried.contains (waitTag w) = true → t.fget F.RAS_STAT_DEVICE_FAULT 0 = 1)))

/-- LOCK_WORD_CROSS, LOCK_STOP_REQUEST, LOCK_STOPPED, LOCK_WAKE, LOCK_RUN, LOCK_WAKE_TIMEOUT, CLOCKED_SIDE_RESET and
CLOCKED_SIDE_RESET_RELEASE (R64, R69, R72 to R74, R95). `Now` says what one lock, the waits and the outputs come to, with everything else kept. What a flush does
with a request that has crossed is the model's (log entry 46). -/
def Obligations.Locks : Prop :=
  ∀ (s : State) (h n : Nat), h < 2 → n < 19 → ∀ (l : LockSt) (Now : State → LockSt → List Waiter → List Out → Prop), s.lock h n = l →
    (∀ t x ws os, Now t x ws os ↔ (t.lock h n = x ∧ (∀ k, k ≠ 32 * h + n → Tab.get (fun _ => ({} : LockSt)) t.fab.locks k = Tab.get (fun _ => ({} : LockSt)) s.fab.locks k) ∧
      t = { s with fab := { s.fab with locks := t.fab.locks, waiters := ws }, out := s.out ++ os })) →
    -- a word of the self-timed side arrives
    (∀ w,
      (l.st = .run → l.tx.length < 32 → l.waiting = [] → exec (.lockWordCross h n (.pushTx w) false) s = .next (s.setLock h n { l with tx := l.tx ++ [w] })) ∧
      (l.st = .run → 32 ≤ l.tx.length ∨ l.waiting ≠ [] →
        ∃ t, exec (.lockWordCross h n (.pushTx w) false) s = .next t ∧ Now t { l with waiting := l.waiting ++ [w] } (s.fab.waiters ++ [⟨h, .lock h n w, w.who, 0⟩]) []) ∧
      (l.st = .drain → w.kind = .response → l.tx.length < 32 → exec (.lockWordCross h n (.pushTx w) false) s = .next (s.setLock h n { l with tx := l.tx ++ [w] })) ∧
      ((l.st = .drain ∧ (w.kind ≠ .response ∨ 32 ≤ l.tx.length)) ∨ l.st = .stopped ∨ l.st = .waking →
        ∃ t, exec (.lockWordCross h n (.pushTx w) false) s = .next t ∧
          Now t { l with st := if l.st = .stopped then .waking else l.st, waiting := l.waiting ++ [w], wake := true, wakeTicks := if l.wake then l.wakeTicks else 0 }
            (s.fab.waiters ++ [⟨h, .lock h n w, w.who, 0⟩]) [.lockWake h n]) ∧
      (l.st = .flush ∨ l.st = .held → exec (.lockWordCross h n (.pushTx w) false) s = .next (if w.kind = .request then s.emit (.lockError h n w.tag) else s)) ∧
      (l.st = .drain ∨ l.st = .stopped ∨ l.st = .waking → exec (.lockWake h n w) s = exec (.lockWordCross h n (.pushTx w) false) s) ∧
      (l.st = .run ∨ l.st = .flush ∨ l.st = .held → exec (.lockWake h n w) s = .next s)) ∧
    -- a word of the clocked side arrives, and words leave at each end
    (∀ w, (l.rx.length < 32 ∧ (l.st = .run ∨ (l.st = .drain ∧ w.kind = .response)) → exec (.lockWordCross h n (.pushRx w) false) s =
        .next (s.setLock h n { l with rx := l.rx ++ [w], inbound := if w.kind = .request then l.inbound ++ [w.tag] else l.inbound })) ∧
      (32 ≤ l.rx.length ∨ ¬ (l.st = .run ∨ (l.st = .drain ∧ w.kind = .response)) → exec (.lockWordCross h n (.pushRx w) false) s = .next s) ∧
      (∀ ws, l.tx = w :: ws → n ≠ 16 → ∃ t, exec (.lockWordCross h n .popTx false) s = .next t ∧ t.out = s.out ++ [.lockDelivered h n true w.tag] ∧
        (l.st ≠ .run ∨ l.waiting = [] → Now t { l with tx := ws, outstanding := if w.kind = .request then l.outstanding ++ [w.tag] else l.outstanding, inbound := if w.kind = .response then l.inbound.erase w.tag else l.inbound } s.fab.waiters [.lockDelivered h n true w.tag]) ∧
        (l.st = .run → (t.lock h n).tx = ws ++ l.waiting.take (32 - ws.length) ∧ (t.lock h n).waiting = l.waiting.drop (32 - ws.length) ∧ t.fab.waiters.Sublist s.fab.waiters)) ∧
      (∀ ws m, l.tx = w :: ws → n = 16 → m = s.lock (1 - h) 16 →
        (m.rx.length < 32 ∧ (m.st = .run ∨ (m.st = .drain ∧ w.kind = .response)) → ∃ t, exec (.lockWordCross h 16 .popTx false) s = .next t ∧
          (t.lock (1 - h) 16).rx = m.rx ++ [w] ∧ (l.st ≠ .run ∨ l.waiting = [] → (t.lock h 16).tx = ws) ∧ t.out = s.out ++ [.lockDelivered h 16 true w.tag]) ∧
        (32 ≤ m.rx.length ∨ ¬ (m.st = .run ∨ (m.st = .drain ∧ w.kind = .response)) → exec (.lockWordCross h 16 .popTx false) s = .next s)) ∧
      (∀ ws, l.rx = w :: ws →
        (w.flit = none → ∃ t, exec (.lockWordCross h n .popRx false) s = .next t ∧
          Now t { l with rx := ws, outstanding := if w.kind = .response then l.outstanding.erase w.tag else l.outstanding } s.fab.waiters [.lockDelivered h n false w.tag]) ∧
        (∀ f r q, w.flit = some f → lockRouter h n = some (r, q) →
          (s.laneRoom r q f.cls f.polder = true → ∃ t, exec (.lockWordCross h n .popRx false) s = .next t ∧ (t.lock h n).rx = ws ∧
            t.lane r q f.cls f.polder = s.lane r q f.cls f.polder ++ [f] ∧ t.out = s.out ++ [.lockDelivered h n false w.tag]) ∧
          (s.laneRoom r q f.cls f.polder = false → exec (.lockWordCross h n .popRx false) s = .next s)))) ∧
    (∀ op, ∃ t, exec (.lockWordCross h n op true) s = .next t ∧ t.fget F.LOCK_STAT_PERR h n = 1 ∧ t.out = s.out ++ [.detection 5 (.lock h n)] ∧
      SameRegsBut s t ([fieldAt F.LOCK_STAT_PERR h n, fieldAt F.LOCK_ERRCNT_COUNT h] ++ match lockRouter h n with | some (r, _) => [regAddr T.row r 0xC48] | none => []) ∧
      t = { s with regs := t.regs, out := t.out, fresh := t.fresh }) ∧
    -- stopping and waking
    (l.st = .run → (l.waiting = [] → exec (.lockStopRequest h n none) s = .next (s.setLock h n { l with st := .drain })) ∧
      (l.waiting ≠ [] → ∃ t, exec (.lockStopRequest h n none) s = .next t ∧
        Now t { l with st := .drain, wake := true, wakeTicks := if l.wake then l.wakeTicks else 0 } s.fab.waiters [.lockWake h n]) ∧
      ∀ w, l.tx.length < 32 → l.waiting = [] → exec (.lockStopRequest h n (some w)) s = .next ((s.setLock h n { l with tx := l.tx ++ [w] }).emit (.stopRefused h n))) ∧
    (l.st ≠ .run → ∀ w, exec (.lockStopRequest h n w) s = .next s) ∧
    (l.st = .drain → l.tx = [] → l.rx = [] → l.outstanding = [] → l.inbound = [] → exec (.lockStopped h n) s = .next (s.setLock h n { l with st := .stopped })) ∧
    (l.st ≠ .drain ∨ l.tx ≠ [] ∨ l.rx ≠ [] ∨ l.outstanding ≠ [] ∨ l.inbound ≠ [] → exec (.lockStopped h n) s = .next s) ∧
    (l.st = .drain ∨ l.st = .waking ∨ l.st = .stopped → ∃ t, exec (.lockRun h n) s = .next t ∧
      t.lock h n = { l with st := .run, wake := false, wakeTicks := 0, tx := l.tx ++ l.waiting.take (32 - l.tx.length), waiting := l.waiting.drop (32 - l.tx.length) } ∧
      (∀ k, k ≠ 32 * h + n → Tab.get (fun _ => ({} : LockSt)) t.fab.locks k = Tab.get (fun _ => ({} : LockSt)) s.fab.locks k) ∧ t.fab.waiters.Sublist s.fab.waiters ∧
      t = { s with ras := t.ras, fab := { s.fab with locks := t.fab.locks, waiters := t.fab.waiters } }) ∧
    (l.st = .run ∨ l.st = .flush ∨ l.st = .held → exec (.lockRun h n) s = .next s) ∧
    (l.wake = true → l.st ≠ .run → 10 * s.fget F.LOCK_WAKE_LIMIT_LIMIT h ≤ l.wakeTicks ∨ s.tickLost h = true → ∃ t, exec (.lockWakeTimeout h n) s = .next t ∧
      t.out = s.out ++ [.detection 4 (.lock h n)] ∧ SameRegsBut s t (match lockRouter h n with | some (r, _) => [regAddr T.row r 0xC48] | none => []) ∧
      t = { s with regs := t.regs, out := t.out, fresh := t.fresh }) ∧
    (l.wake = false ∨ l.st = .run ∨ (l.wakeTicks < 10 * s.fget F.LOCK_WAKE_LIMIT_LIMIT h ∧ s.tickLost h = false) → exec (.lockWakeTimeout h n) s = .next s) ∧
    -- resets of the clocked side
    (l.st = .stopped → exec (.clockedSideReset h n none) s = .next s) ∧
    (l.st ≠ .stopped → ∃ t, exec (.clockedSideReset h n none) s = .next t ∧ t.lock h n = { st := .held } ∧
      (∀ k, k ≠ 32 * h + n → Tab.get (fun _ => ({} : LockSt)) t.fab.locks k = Tab.get (fun _ => ({} : LockSt)) s.fab.locks k) ∧
      t.out = s.out ++ (((l.tx ++ l.waiting).filter (·.kind == .request)).map (fun w => Out.lockError h n w.tag) ++ l.rx.map (fun w => Out.lockDelivered h n false w.tag)) ∧
      ((∀ w ∈ l.rx, w.flit = none) → t = { s with ras := t.ras, out := t.out, fab := { s.fab with locks := t.fab.locks, waiters := t.fab.waiters } })) ∧
    (l.st ≠ .stopped → n < 16 → ∀ line req, ∃ t, exec (.clockedSideReset h n (some (line, req))) s = .next t ∧ t.lock h n = { st := .held } ∧
      t.fget F.HBMC_TORN_ADDR_VALID (16 * h + n) = 1 ∧ t.fget F.HBMC_TORN_ADDR_LINE (16 * h + n) = line % 2 ^ F.HBMC_TORN_ADDR_LINE.w ∧ causeSet t T.hbmc (16 * h + n) I.HBMC_TORN) ∧
    (l.st = .held → exec (.clockedSideResetRelease h n) s = .next (s.setLock h n { l with st := .run })) ∧
    (l.st ≠ .held → exec (.clockedSideResetRelease h n) s = .next s)

/-- CANAL_FLIT, TICK_LOSS, VANE_SAMPLE and PACE_LOG_RECORD (R50, R52, R53, R59, R63, R66 to R68). Where a lane may be served from several input ports
the model takes the lowest (log entry 41); the statement takes one ready flit alone. -/
def Obligations.CanalAndVanes : Prop :=
  (∀ (s : State) (r q : Nat) (f : Flit) (port : Nat), portLock r port = none →
    s.roundRobin r port (Tab.get (fun _ => 31) s.fab.served (16 * r + port)) = none → s.fbit F.CANAL_CTRL_ARB r = false →
    ((s.lane r q f.cls f.polder).length < s.laneCredit r f.cls f.polder → s.portUsed r q f.cls < 64 → s.lane r q f.cls f.polder ≠ [] ∨ routePort r f.dst ≠ port →
      exec (.canalFlit r port (some (q, f))) s = .next (s.setLane r q f.cls f.polder (s.lane r q f.cls f.polder ++ [f]))) ∧
    (s.laneCredit r f.cls f.polder ≤ (s.lane r q f.cls f.polder).length ∨ 64 ≤ s.portUsed r q f.cls →
      exec (.canalFlit r port (some (q, f))) s = .next { s with fab := { s.fab with waiters := s.fab.waiters ++ [⟨r / 8, .lane r q f, f.who, 0⟩] } })) ∧
  (∀ (s : State) (r port v q : Nat) (f : Flit) (l : List Flit), s.fbit F.CANAL_CTRL_ARB r = false →
    s.roundRobin r port (Tab.get (fun _ => 31) s.fab.served (16 * r + port)) = some (v, q, f) → s.lane r q f.cls f.polder = f :: l →
    portPeer r port = none → portLock r port = none → (∀ w ∈ s.fab.waiters, ∀ g, w.on ≠ .lane r q g) →
    ∃ t, exec (.canalFlit r port none) s = .next t ∧ t.lane r q f.cls f.polder = l ∧ t.out = s.out ++ [.flitOut r port f] ∧
      t.cget C.CANAL_FLITS r = (s.cget C.CANAL_FLITS r + 1) % 2 ^ 64 ∧ Tab.get (fun _ => 31) t.fab.served (16 * r + port) = v ∧
      (∀ k, k ≠ laneKey r q f.cls f.polder → Tab.get (fun _ => []) t.fab.lanes k = Tab.get (fun _ => []) s.fab.lanes k) ∧
      t = { s with ctrs := t.ctrs, out := t.out, fab := { s.fab with lanes := t.fab.lanes, served := t.fab.served } }) ∧
  (∀ (s : State) (r port v q r' q' : Nat) (f : Flit) (l : List Flit), s.fbit F.CANAL_CTRL_ARB r = true → v < 32 →
    Tab.get (fun _ => 0) s.fab.slot (16 * r + port) = v → s.laneReady r port v = some (q, f) → s.lane r q f.cls f.polder = f :: l →
    portPeer r port = some (r', q') → laneKey r' q' f.cls f.polder ≠ laneKey r q f.cls f.polder → (∀ w ∈ s.fab.waiters, ∀ g, w.on ≠ .lane r q g) →
    ∃ t, exec (.canalFlit r port none) s = .next t ∧ t.lane r q f.cls f.polder = l ∧ t.lane r' q' f.cls f.polder = s.lane r' q' f.cls f.polder ++ [f] ∧
      Tab.get (fun _ => 0) t.fab.slot (16 * r + port) = (v + 1) % 32 ∧ t.out = s.out ∧
      t = { s with ctrs := t.ctrs, fab := { s.fab with lanes := t.fab.lanes, slot := t.fab.slot } }) ∧
  -- the locks behind a router's ports
  (∀ (s : State) (r port v q h n : Nat) (f : Flit) (l : List Flit), s.fbit F.CANAL_CTRL_ARB r = false → portLock r port = some (h, n) → portPeer r port = none → s.fab.waiters = [] →
    s.lane r q f.cls f.polder = f :: l →
    ((s.lock h n).st = .run → s.roundRobin r port (Tab.get (fun _ => 31) s.fab.served (16 * r + port)) = some (v, q, f) →
      ∃ t, exec (.canalFlit r port none) s = .next t ∧ t.lane r q f.cls f.polder = l ∧ (t.lock h n).tx = (s.lock h n).tx ++ [flitWord f] ∧ t.out = s.out) ∧
    ((s.lock h n).st = .stopped → f.cls < 2 → f.polder < 16 → s.laneHead r port f.cls f.polder = some (q, f) →
      ∃ t, exec (.canalFlit r port none) s = .next t ∧ (t.lock h n).st = .waking ∧ (t.lock h n).wake = true ∧ Out.lockWake h n ∈ t.out ∧
        (∃ w ∈ t.fab.waiters, w.on = .lock h n (flitWord f)) ∧ t.fab.lanes = s.fab.lanes)) ∧
  (∀ (s : State) (h : Nat), h < 2 → ∃ t, exec (.tickLoss h) s = .next t ∧ t.tickLost h = true ∧ t.tickLost (1 - h) = s.tickLost (1 - h) ∧
      causeSet t T.vane h I.VANE_TICK_LOSS ∧ SameRegsBut s t [causeAt T.vane h] ∧
      t = { s with regs := t.regs, out := t.out, fab := { s.fab with tickLost0 := t.fab.tickLost0, tickLost1 := t.fab.tickLost1 } }) ∧
  (∀ (s : State) (m a b c d : Nat), m < 80 → s.member m = true → ∀ v, v = min (min (min (min a b) c) d) 0xFFF →
    ∃ t, exec (.vaneSample (m / 40) [(m, [a, b, c, d])]) s = .next t ∧ t.fget F.VANE_MILL_PACE_NOW (m / 40) (m % 40) = v ∧
      (v < s.fget F.VANE_THRESH_LOW (m / 40) → causeSet t T.vane (m / 40) I.VANE_PACE_LOW) ∧ (v < 1400 → causeSet t T.vane (m / 40) I.VANE_PACE_FLOOR) ∧
      (v < Tab.get (fun _ => 0) s.fab.paceUsed m → causeSet t T.vane (m / 40) I.VANE_PACE_DROP ∧ ∀ k, k < 16 → Tab.get (fun _ => 0) t.sch.accounts (16 * m + k) = 0) ∧
      (Tab.get (fun _ => 0) s.fab.paceUsed m ≤ v → t.sch = s.sch) ∧
      Tab.get (fun _ => none) t.fab.turnMin m = some (match Tab.get (fun _ => (none : Option Nat)) s.fab.turnMin m with | some w => min w v | none => v) ∧
      (∀ k, k < 16 * m ∨ 16 * m + 16 ≤ k → Tab.get (fun _ => 0) t.sch.accounts k = Tab.get (fun _ => 0) s.sch.accounts k) ∧
      SameRegsBut s t [fieldAt F.VANE_MILL_PACE_NOW (m / 40) (m % 40), causeAt T.vane (m / 40)] ∧
      t = { s with regs := t.regs, out := t.out, sch := { s.sch with accounts := t.sch.accounts }, fab := { s.fab with turnMin := t.fab.turnMin } }) ∧
  (∀ (s : State) (m : Nat) (l : List Nat) (h : Nat), s.member m = false → exec (.vaneSample h [(m, l)]) s = .next s) ∧
  (∀ s : State, ∃ t pay, exec .paceLogRecord s = .next t ∧ pay.length = 160 ∧
      (∀ m, m < 80 → memRead (memPut [] 0 pay) (2 * m) 2 = (Tab.get (fun _ => (none : Option Nat)) s.fab.dayMin m).getD 0 % 65536) ∧
      t = { s with fab := { s.fab with dayMin := [] }, led := { s.led with reqs := s.led.reqs ++ [⟨5, 0, pay, .none⟩] } })

/-- The 23 ALU syllables of slot 3 (R103, R108, R115, R143): the result is readable from the next bundle, SAT is set by a clamp and by nothing else. -/
def Obligations.AluSyllables : Prop :=
  ∀ (s : State) (i : Issue) (c rd rs rt : Nat) (cx : Ctx) (sat32 sat16 : Int → Int) (halves : (Int → Int → Int) → Word → Word → Word × Bool) (clamp : Int → Word × Bool),
    Lone s i 3 c → rd < 32 → rs < 32 → rt < 32 → cx = (s.stone (issueStone i)).cx c →
    (∀ x, sat32 x = max (-2 ^ 31) (min x (2 ^ 31 - 1))) → (∀ x, sat16 x = max (-2 ^ 15) (min x (2 ^ 15 - 1))) →
    (∀ x, clamp x = (BitVec.ofInt 32 (sat32 x), decide (sat32 x ≠ x))) →
    (∀ f a b, halves f a b =
      let lo := f (a.setWidth 16).toInt (b.setWidth 16).toInt
      let hi := f (a.extractLsb' 16 16).toInt (b.extractLsb' 16 16).toInt
      (BitVec.ofInt 16 (sat16 hi) ++ BitVec.ofInt 16 (sat16 lo), decide (sat16 lo ≠ lo) || decide (sat16 hi ≠ hi))) →
    ∀ e ∈ ([(.add i rd rs rt, fun _ a b => (a + b, false)), (.sub i rd rs rt, fun _ a b => (a - b, false)), (.andR i rd rs rt, fun _ a b => (a &&& b, false)),
        (.orR i rd rs rt, fun _ a b => (a ||| b, false)), (.xor i rd rs rt, fun _ a b => (a ^^^ b, false)),
        (.shl i rd rs rt, fun _ a b => (if b.toNat % 64 < 32 then a <<< (b.toNat % 64) else 0, false)),
        (.shr i rd rs rt, fun _ a b => (if b.toNat % 64 < 32 then a >>> (b.toNat % 64) else 0, false)),
        (.sar i rd rs rt, fun _ a b => (if b.toNat % 64 < 32 then a.sshiftRight (b.toNat % 64) else if a.msb then BitVec.allOnes 32 else 0, false)),
        (.minR i rd rs rt, fun _ a b => (if a.toInt ≤ b.toInt then a else b, false)), (.maxR i rd rs rt, fun _ a b => (if a.toInt ≤ b.toInt then b else a, false)),
        (.minu i rd rs rt, fun _ a b => (if a ≤ b then a else b, false)), (.maxu i rd rs rt, fun _ a b => (if a ≤ b then b else a, false)),
        (.absR i rd rs, fun _ a _ => clamp |a.toInt|), (.adds i rd rs rt, fun _ a b => clamp (a.toInt + b.toInt)), (.subs i rd rs rt, fun _ a b => clamp (a.toInt - b.toInt)),
        (.add2s i rd rs rt, fun _ a b => halves (· + ·) a b), (.sub2s i rd rs rt, fun _ a b => halves (· - ·) a b),
        (.clz i rd rs, fun _ a _ => (BitVec.ofNat 32 ((List.range 32).takeWhile fun k => !a.getMsbD k).length, false)),
        (.cmpeq i rd rs rt, fun _ a b => (if a = b then 1 else 0, false)), (.cmplt i rd rs rt, fun _ a b => (if a.toInt < b.toInt then 1 else 0, false)),
        (.cmpltu i rd rs rt, fun _ a b => (if a < b then 1 else 0, false)), (.sel i rd rs rt, fun d a b => (if d = 0 then b else a, false)),
        (.pack i rd rs rt, fun _ a b => (a.setWidth 16 ++ b.setWidth 16, false))] : List (Instr × (Word → Word → Word → Word × Bool))),
      ∃ t, exec e.1 s = .next t ∧ ∀ r, r = e.2 (cx.dr rd) (cx.dr rs) (cx.dr rt) →
        StoneAfter s t i c { cx.step with d := regSet cx.d rd r.1, sr := if r.2 then setBitN cx.sr 0 else cx.sr } id

/-- ADDI, MOVI, MOVHI, ANDI, MOVD, MOVA, MOVC, LEA and MFSR (R108, R117 to R120, R139, R141, R143, R144), and NOP (R104, R105). -/
def Obligations.MovesAndImmediates : Prop :=
  ∀ (s : State) (i : Issue) (c : Nat) (x : Stone) (cx : Ctx), x = s.stone (issueStone i) → cx = x.cx c →
    (Lone s i 3 c → ∀ rd rs imm, rd < 32 → rs < 32 → imm < 65536 →
      (∃ t, exec (.addi i rd rs imm) s = .next t ∧ StoneAfter s t i c { cx.step with d := regSet cx.d rd (cx.dr rs + (BitVec.ofNat 16 imm).signExtend 32) } id) ∧
      (∃ t, exec (.movi i rd imm) s = .next t ∧ StoneAfter s t i c { cx.step with d := regSet cx.d rd ((BitVec.ofNat 16 imm).signExtend 32) } id) ∧
      (∃ t, exec (.movhi i rd imm) s = .next t ∧ StoneAfter s t i c { cx.step with d := regSet cx.d rd (BitVec.ofNat 16 imm ++ (cx.dr rd).setWidth 16) } id) ∧
      (∃ t, exec (.andi i rd rs imm) s = .next t ∧ StoneAfter s t i c { cx.step with d := regSet cx.d rd (cx.dr rs &&& (BitVec.ofNat 16 imm).setWidth 32) } id)) ∧
    (Lone s i 3 c → ∀ rd idx, rd < 32 → idx ≤ 9 → ∃ t, exec (.mfsr i rd idx) s = .next t ∧ StoneAfter s t i c { cx.step with d := regSet cx.d rd (BitVec.ofNat 32
      (match idx with
        | 0 => x.srOf c | 1 => x.epc | 2 => x.ecause | 3 => x.eaddr | 4 => (x.cx (if x.handler then x.running.getD c else c)).wuid
        | 5 => issueStone i | 6 => s.turn (issueStone i / 640) % 2 ^ 32 | 7 => x.dbpend | 8 => x.dbmask | _ => s.fget F.MILL_ROLE_EPOCH i.mill)) } id) ∧
    (∀ slot, slot < 2 → Lone s i slot c → ∀ r k, r < 32 → k < 8 →
      (∀ ra, ra < 16 → (∃ t, exec (.mova i ra r) s = .next t ∧ StoneAfter s t i c { cx.step with a := regSet cx.a ra (cx.dr r) } id) ∧
        (∃ t, exec (.movd i r ra) s = .next t ∧ StoneAfter s t i c { cx.step with d := regSet cx.d r (cx.ar ra) } id)) ∧
      (∃ t, exec (.movc i false k r) s = .next t ∧ StoneAfter s t i c { cx.step with cb := regSet cx.cb k (cx.dr r) } id) ∧
      (∃ t, exec (.movc i true k r) s = .next t ∧ StoneAfter s t i c { cx.step with cl := regSet cx.cl k (cx.dr r) } id)) ∧
    (∀ slot am, slot < 2 → Lone s i slot c → am.an < 16 → am.cp < 8 → am.off < 2 ^ 11 → (am.mode = 2 → am.off < 32) → am.mode ≤ 4 → circFault cx am = false →
      ∃ t, exec (.lea i am) s = .next t ∧ StoneAfter s t i c { cx.step with a := match addrUpdate cx am with | some v => regSet cx.a am.an (BitVec.ofNat 32 v) | none => cx.a } id) ∧
    (∀ am : Amode, am.an < 16 → am.off < 2 ^ 11 →
      (am.mode = 1 → addrUpdate cx am = some ((cx.ar am.an + (BitVec.ofNat 11 am.off).signExtend 32).toNat) ∧ effAddr cx am = (cx.ar am.an).toNat) ∧
      (am.mode = 0 → addrUpdate cx am = none ∧ effAddr cx am = (cx.ar am.an + (BitVec.ofNat 11 am.off).signExtend 32).toNat) ∧
      (am.mode = 2 → addrUpdate cx am = none ∧ effAddr cx am = (cx.ar am.an + cx.dr (am.off % 32)).toNat) ∧
      (∀ b l, am.mode = 3 → b = (regGet cx.cb (am.cp % 8)).toNat → l = (regGet cx.cl (am.cp % 8)).toNat → 0 < l → b + l ≤ 2 ^ 32 →
        ∃ v, addrUpdate cx am = some v ∧ b ≤ v ∧ v < b + l ∧ (l : Int) ∣ ((v : Int) - ((cx.ar am.an).toNat + (BitVec.ofNat 11 am.off).toInt)) ∧ effAddr cx am = (cx.ar am.an).toNat)) ∧
    (∀ slot, slot < 4 → Lone s i slot c → ∃ t, exec (.nop i 0) s = .next t ∧ StoneAfter s t i c cx.step id)

/-- LD.W, LD.H, LD.HU, LD.D, ST.W, ST.H, ST.D, LSAVE and LREST (R99, R108, R120, R123, R133, R141): near accesses to the stone's data memory. A load reads
the memory of before the bundle and is readable two bundles on. A store changes its own bytes and no other (`memPut` over the little-endian bytes). -/
def Obligations.NearAccesses : Prop :=
  ∀ (s : State) (i : Issue) (c slot rd : Nat) (am : Amode) (x : Stone) (cx cx' : Ctx) (ea : Nat) (ld : List (Nat × Nat) → Stone → Stone),
    slot < 2 → Lone s i slot c → rd < 32 → am.an < 16 → am.cp < 8 → am.off < 2 ^ 11 → (am.mode = 2 → am.off < 32) → am.mode ≤ 4 → x = s.stone (issueStone i) → cx = x.cx c →
    circFault cx am = false → ea = effAddr cx am → ea + 8 ≤ 2 ^ 16 →
    cx' = { cx.step with a := match addrUpdate cx am with | some v => regSet cx.a am.an (BitVec.ofNat 32 v) | none => cx.a } →
    (∀ l y, ld l y = { y with inflight := l.map fun e => ⟨x.now + 2, c, .d e.1, e.2⟩ }) →
    (ea % 4 = 0 → ∃ t, exec (.ldW i rd am) s = .next t ∧ StoneAfter s t i c cx' (ld [(rd, ofLeBytes (memBytes x.dm ea 4))])) ∧
    (ea % 2 = 0 → (∃ t, exec (.ldH i rd am) s = .next t ∧ StoneAfter s t i c cx' (ld [(rd, ((BitVec.ofNat 16 (ofLeBytes (memBytes x.dm ea 2))).signExtend 32).toNat)])) ∧
      (∃ t, exec (.ldHu i rd am) s = .next t ∧ StoneAfter s t i c cx' (ld [(rd, ofLeBytes (memBytes x.dm ea 2))]))) ∧
    (ea % 8 = 0 → rd % 2 = 0 → ∃ t, exec (.ldD i rd am) s = .next t ∧
      StoneAfter s t i c cx' (ld [(rd, ofLeBytes (memBytes x.dm ea 4)), (rd + 1, ofLeBytes (memBytes x.dm (ea + 4) 4))])) ∧
    (ea % 4 = 0 → (∀ u, x.running = some u → ea ≠ (x.cx u).win + 0x41F8) → ∃ t, exec (.stW i rd am) s = .next t ∧
      StoneAfter s t i c cx' fun y => { y with dm := memPut x.dm ea (leBytes 4 (cx.dr rd).toNat) }) ∧
    (ea % 2 = 0 → ∃ t, exec (.stH i rd am) s = .next t ∧
      StoneAfter s t i c cx' fun y => { y with dm := memPut x.dm ea (leBytes 2 (cx.dr rd).toNat), halfBank := [ea / 0x8000] }) ∧
    (ea % 8 = 0 → rd % 2 = 0 → ∃ t, exec (.stD i rd am) s = .next t ∧
      StoneAfter s t i c cx' fun y => { y with dm := memPut x.dm ea (leBytes 8 ((cx.dr (rd + 1) ++ cx.dr rd).toNat)) }) ∧
    (ea % 8 = 0 → ea + 40 ≤ 2 ^ 16 → slot = 0 → am.mode = 0 →
      (∃ t, exec (.lsave i am) s = .next t ∧ StoneAfter s t i c cx.step fun y => { y with dm := putWord32s x.dm ea x.loopImage }) ∧
      ((∀ l, l < 3 → memRead x.dm (ea + 8 + 12 * l) 4 ≠ cx.pc) → ∃ t, exec (.lrest i am) s = .next t ∧
        StoneAfter s t i c cx.step fun y => y.loadLoops ((List.range 10).map fun k => memRead x.dm (ea + 4 * k) 4)))

/-- LDF.W, LDF.D, STF.W, STF.D, the five AMOs, FENCE and FAR_ACCESS_COMPLETE (R99, R109, R135 to R138, R141, R430, R431, R439). That the hopper and the Bolter do not change the order of
the stones at a bank is the model's reading (log entry 369). -/
def Obligations.FarAccesses : Prop :=
  (∀ (s : State) (i : Issue) (c slot rd : Nat) (am : Amode) (x : Stone) (cx cx' : Ctx) (ea : Nat) (put : FarKind → Stone → Stone),
    slot < 2 → Lone s i slot c → rd < 32 → am.an < 16 → am.cp < 8 → am.off < 2 ^ 11 → (am.mode = 2 → am.off < 32) → am.mode ≤ 4 → x = s.stone (issueStone i) → cx = x.cx c →
    circFault cx am = false → ea = effAddr cx am →
    cx' = { cx.step with a := match addrUpdate cx am with | some v => regSet cx.a am.an (BitVec.ofNat 32 v) | none => cx.a } →
    (∀ k y, put k y = { y with far := [⟨c, rd, ea, k, 0⟩] }) →
    (s.farFault i.mill ea 4 false = none → ∃ t, exec (.ldfW i rd am) s = .next t ∧ StoneAfter s t i c cx' (put (.load false))) ∧
    (s.farFault i.mill ea 8 false = none → rd % 2 = 0 → ∃ t, exec (.ldfD i rd am) s = .next t ∧ StoneAfter s t i c cx' (put (.load true))) ∧
    (s.farFault i.mill ea 4 true = none → ∃ t, exec (.stfW i rd am) s = .next t ∧ StoneAfter s t i c cx' (put (.store 4 (cx.dr rd).toNat))) ∧
    (s.farFault i.mill ea 8 true = none → rd % 2 = 0 → ∃ t, exec (.stfD i rd am) s = .next t ∧ StoneAfter s t i c cx' (put (.store 8 (cx.dr (rd + 1) ++ cx.dr rd).toNat))) ∧
    (s.farFault i.mill (cx.ar am.an).toNat 4 true = none → rd % 2 = 0 → ∀ e ∈ ([(.amoAdd i rd am.an, .add), (.amoSwap i rd am.an, .swap), (.amoCas i rd am.an, .cas),
        (.amoMax i rd am.an, .max), (.amoOr i rd am.an, .or)] : List (Instr × AmoFn)),
      ∃ t, exec e.1 s = .next t ∧ StoneAfter s t i c cx.step fun y => { y with far := [⟨c, rd, (cx.ar am.an).toNat, .amo e.2 (cx.dr rd).toNat (cx.dr (rd + 1)).toNat, 0⟩] }) ∧
    (∃ t, exec (.fence i) s = .next t ∧ StoneAfter s t i c cx.step id)) ∧
  (∀ (s : State) (m ea size : Nat) (w : Bool), 0 < size →
    (s.farFault m ea size w = none ↔ ea % size = 0 ∧ ((0x100000 ≤ ea ∧ ea < 0x200000 ∧ (w = true → s.karea m ≤ ea - 0x100000)) ∨
      (0x10000000 ≤ ea ∧ ea < 0x14000000 ∧ s.inWindow (s.fget F.MILL_ROLE_POLDER m) (ea - 0x10000000) = true)))) ∧
  (∀ (s : State) (n k m : Nat) (up : WordUpset) (x : Stone), x = s.stone n → m = n / 16 →
    ((s.mill m).stopped = true ∨ x.far[k]? = none → exec (.farAccessComplete n k up) s = .next s) ∧
    (∀ f g, x.far[k]? = some f → g ∈ x.far.take k → g.ea / 64 = f.ea / 64 → exec (.farAccessComplete n k up) s = .next s) ∧
    (∀ f, x.far[k]? = some f → s.binTurnOf n f = false → exec (.farAccessComplete n k up) s = .next s) ∧
    (∀ f last, x.far[k]? = some f → (binBank f.ea = none → s.binTurnOf n f = true) ∧
      ∀ b, binBank f.ea = some b → last = Tab.get (fun _ => 15) (s.mill m).binTurn b → last < 16 →
        (s.binTurnOf n f = true ↔ ∀ j g, j < 16 → g ∈ (s.stone (16 * m + j)).far → binBank g.ea = some b → (n % 16 + 15 - last) % 16 ≤ (j + 15 - last) % 16)) ∧
    (∀ ln fk, (s.pondGranted m ln fk = true ↔ match fk with | .load _ => s.cached m ln ≠ .i | .store _ _ => s.cached m ln = .m | .amo _ _ _ => s.dirEnt ln = {})) ∧
    (∀ f, (s.mill m).stopped = false → x.far[k]? = some f → (∀ g ∈ x.far.take k, g.ea / 64 ≠ f.ea / 64) → s.binTurnOf n f = true → x.held = false →
      (0x100000 ≤ f.ea → f.ea < 0x200000 → (wordCode up ((f.ea - 0x100000) / 8) = .bad → exec (.farAccessComplete n k up) s = .next (s.hwFault m 0x12)) ∧
        (∀ b, up = ⟨[b], none⟩ → b < 72 → exec (.farAccessComplete n k up) s = exec (.farAccessComplete n k {}) (s.millCorrected m)) ∧
        s.millCorrected m = (s.finc F.MILL_ECC_CE m).emit (.fault T.mill m)) ∧
      (∀ w ln, 0x10000000 ≤ f.ea → f.ea < 0x14000000 → w = (f.ea - 0x10000000) / 8 → ln = w / 8 →
        (s.pondGranted m ln f.kind = false → exec (.farAccessComplete n k up) s = .next s) ∧
        (s.pondGranted m ln f.kind = true → (∀ fn c v, f.kind ≠ .amo fn c v) →
          (wordCode up w = .bad → s.cached m ln ≠ .m → exec (.farAccessComplete n k up) s = .next (s.loseLine m ln) ∧ (s.loseLine m ln).cached m ln = .i ∧
            (s.loseLine m ln).stones = s.stones ∧ (s.loseLine m ln).pondPoison = s.pondPoison) ∧
          (wordCode up w = .bad → s.cached m ln = .m → ∃ t, exec (.farAccessComplete n k up) s = .next t ∧ (t.stone n).far = x.far.eraseIdx k ∧
            (t.stone n).faults = x.faults ++ [⟨7, f.ea, 0, x.handler⟩] ∧ t.pond = s.pond ∧ t.cached m ln = .i ∧ (∀ j, j < 8 → 8 * ln + j ∈ t.pondPoison) ∧ SameStonesBut s t [n]) ∧
          (wordCode up w ≠ .bad → s.farPoison f.ea f.kind = true → ∃ t, exec (.farAccessComplete n k up) s = .next t ∧ (t.stone n).far = x.far.eraseIdx k ∧
            (t.stone n).faults = x.faults ++ [⟨7, f.ea, 0, x.handler⟩] ∧ SameStonesBut s t [n] ∧ t = { s with stones := t.stones, fresh := t.fresh })) ∧
        (∀ fn c v, f.kind = .amo fn c v → s.dirEnt ln = {} →
          (wordCode up w = .bad → s.pondPoison.contains w = false → ∃ t, exec (.farAccessComplete n k up) s = .next t ∧ (t.stone n).far = x.far.eraseIdx k ∧
            (t.stone n).faults = x.faults ++ [⟨7, f.ea, 0, x.handler⟩] ∧ t.pond = s.pond ∧ t.pondPoison = s.pondPoison ++ [w] ∧ causeSet t T.pond (w / 2 ^ 18) I.POND_UE) ∧
          (up = {} → s.farPoison f.ea f.kind = true → ∃ t, exec (.farAccessComplete n k up) s = .next t ∧ (t.stone n).far = x.far.eraseIdx k ∧
            (t.stone n).faults = x.faults ++ [⟨7, f.ea, 0, x.handler⟩] ∧ SameStonesBut s t [n] ∧ t = { s with stones := t.stones, fresh := t.fresh }))) ∧
      (up = {} → (0x100000 ≤ f.ea ∧ f.ea < 0x200000) ∨ (0x10000000 ≤ f.ea ∧ f.ea < 0x14000000 ∧ s.pondGranted m ((f.ea - 0x10000000) / 64) f.kind = true ∧ s.farPoison f.ea f.kind = false) →
        ∃ t, exec (.farAccessComplete n k up) s = .next t ∧ (t.stone n).far = x.far.eraseIdx k ∧ (t.stone n).faults = x.faults ∧ SameStonesBut s t [n] ∧ t.mem = s.mem ∧
          t = { s with stones := t.stones, mills := t.mills, pond := t.pond, pondPoison := t.pondPoison } ∧ (0x10000000 ≤ f.ea → t.mills = s.mills) ∧
          (∀ b, binBank f.ea = some b → Tab.get (fun _ => 15) (t.mill m).binTurn b = n % 16 ∧ t.pond = s.pond) ∧
          (f.ctx < 4 → f.rd < 32 →
            (∀ r, r < 32 → (∀ q ∈ farDest f, q ≠ r) → regGet ((t.stone n).cx f.ctx).d r = regGet (x.cx f.ctx).d r) ∧
            (∀ v, v = (if f.ea < 0x200000 then memRead (s.mill m).bin (f.ea - 0x100000) 4 else memRead s.pond (f.ea - 0x10000000) 4) →
              (f.kind = .load false → regGet ((t.stone n).cx f.ctx).d f.rd = BitVec.ofNat 32 v ∧ t.pond = s.pond) ∧
              (∀ fn cmp u new, f.kind = .amo fn cmp u → new = (match fn with
                  | .add => (v + u) % 2 ^ 32 | .swap => u | .cas => if v = cmp then u else v
                  | .max => if (BitVec.ofNat 32 v).toInt < (BitVec.ofNat 32 u).toInt then u else v | .or => v ||| u) →
                regGet ((t.stone n).cx f.ctx).d f.rd = BitVec.ofNat 32 v ∧ (0x10000000 ≤ f.ea → t.pond = (s.pondPut (f.ea - 0x10000000) (leBytes 4 new)).1.pond))) ∧
            (∀ len v, f.kind = .store len v → 0x10000000 ≤ f.ea → t.pond = (s.pondPut (f.ea - 0x10000000) (leBytes len v)).1.pond)))))

/-- MAC4, MUL4, MAC32 and MUL32 (R103, R108, R110 to R113, R142): the sums go to the accumulators at once for a following accumulation and three or four
bundles on for ACCRD, ACCMOV and ACCSH. With NEG in the complex sub-mode each whole contribution is negated (log entry 104). -/
def Obligations.Products : Prop :=
  ∀ (s : State) (i : Issue) (c n da db sub : Nat) (frac neg : Bool) (x : Stone) (cx : Ctx) (clamp72 sgn : Int → Int),
    Lone s i 2 c → n < 4 → da < 32 → db < 32 → x = s.stone (issueStone i) → cx = x.cx c →
    (∀ v, clamp72 v = max (-2 ^ 71) (min v (2 ^ 71 - 1))) → (∀ v, sgn v = if neg then -v else v) →
    (∀ (a b : Nat → Int) (p : Int → Int → Int) (T : List (Nat × Int)),
      (∀ k, a k = ((cx.dr da).extractLsb' (16 * k) 16).toInt) → (∀ k, b k = ((cx.dr db).extractLsb' (16 * k) 16).toInt) →
      (∀ u v, p u v = if frac then min (2 * (u * v)) (2 ^ 31 - 1) else u * v) →
      ((sub = 0 ∧ n = 0 ∧ T = [(0, p (a 0) (b 0)), (1, p (a 1) (b 0)), (2, p (a 0) (b 1)), (3, p (a 1) (b 1))]) ∨ (sub = 1 ∧ T = [(n, p (a 0) (b 0) + p (a 1) (b 1))]) ∨
        (sub = 2 ∧ n % 2 = 0 ∧ T = [(n, p (a 0) (b 0) - p (a 1) (b 1)), (n + 1, p (a 0) (b 1) + p (a 1) (b 0))]) ∨
        (sub = 3 ∧ n % 2 = 0 ∧ T = [(n, p (a 0) (b 0)), (n + 1, p (a 1) (b 1))])) →
      ∀ e ∈ ([(.mac4 i n da db sub frac neg, false), (.mul4 i n da db sub frac neg, true)] : List (Instr × Bool)),
        ∃ t cx' l, exec e.1 s = .next t ∧ StoneAfter s t i c cx' (fun y => { y with inflight := l }) ∧ cx' = { cx.step with accF := cx'.accF, sr := cx'.sr } ∧
          l = T.map (fun w => ⟨x.now + 3, c, .acc w.1, (accGet cx'.accF w.1).toNat⟩) ∧
          (∀ w ∈ T, (accGet cx'.accF w.1).toInt = clamp72 ((if e.2 then 0 else (accGet cx.accF w.1).toInt) + sgn w.2)) ∧
          (∀ k, (∀ w ∈ T, w.1 ≠ k) → accGet cx'.accF k = accGet cx.accF k) ∧
          ((frac = false ∨ ∀ j k, j < 2 → k < 2 → ¬ (a j = -2 ^ 15 ∧ b k = -2 ^ 15)) → (∀ w ∈ T, (accGet cx'.accF w.1).toInt = (if e.2 then 0 else (accGet cx.accF w.1).toInt) + sgn w.2) → cx'.sr = cx.sr) ∧
          ((∃ w ∈ T, (accGet cx'.accF w.1).toInt ≠ (if e.2 then 0 else (accGet cx.accF w.1).toInt) + sgn w.2) → bitAt cx'.sr 1 = true) ∧
          (frac = true → a 0 = -2 ^ 15 → b 0 = -2 ^ 15 → bitAt cx'.sr 0 = true)) ∧
    (∀ (a b : Nat → Int) (p : Int → Int → Int) (T : List (Nat × Int)), n % 2 = 0 → da % 2 = 0 → db % 2 = 0 → sub < 3 →
      (∀ k, a k = if sub = 1 then ((cx.dr (da + k)).toNat : Int) else (cx.dr (da + k)).toInt) → (∀ k, b k = if sub = 0 then (cx.dr (db + k)).toInt else ((cx.dr (db + k)).toNat : Int)) →
      (∀ u v, p u v = if frac then max (-2 ^ 63) (min (2 * (u * v)) (2 ^ 63 - 1)) else u * v) → T = [(n, p (a 0) (b 0)), (n + 1, p (a 1) (b 1))] →
      ∀ e ∈ ([(.mac32 i n da db sub frac neg, false), (.mul32 i n da db sub frac neg, true)] : List (Instr × Bool)),
        ∃ t cx', exec e.1 s = .next t ∧ cx' = { cx.step with accF := cx'.accF, sr := cx'.sr } ∧
          StoneAfter s t i c cx' (fun y => { y with macPass := true, inflight := T.map fun w => ⟨x.now + 4, c, .acc w.1, (accGet cx'.accF w.1).toNat⟩ }) ∧
          (∀ w ∈ T, (accGet cx'.accF w.1).toInt = clamp72 ((if e.2 then 0 else (accGet cx.accF w.1).toInt) + sgn w.2)) ∧
          (∀ k, k ≠ n → k ≠ n + 1 → accGet cx'.accF k = accGet cx.accF k) ∧
          (frac = true → sub = 0 → cx.dr da = 0x80000000 → cx.dr db = 0x80000000 → bitAt cx'.sr 0 = true ∧ p (a 0) (b 0) = 2 ^ 63 - 1))

/-- ACCRD, ACCCLR, ACCMOV, ACCSH and ACCLD (R103, R108, R113, R114, R142). -/
def Obligations.AccumulatorMoves : Prop :=
  ∀ (s : State) (i : Issue) (c n : Nat) (x : Stone) (cx : Ctx) (clamp72 : Int → Int) (acc put : Nat → Int → Ctx) (fly : Nat → Int → Stone → Stone),
    Lone s i 2 c → n < 4 → x = s.stone (issueStone i) → cx = x.cx c → (∀ v, clamp72 v = max (-2 ^ 71) (min v (2 ^ 71 - 1))) →
    (∀ k v, acc k v = { cx.step with accF := accSet cx.accF k (BitVec.ofInt 72 v) }) →
    (∀ k v, put k v = { acc k (clamp72 v) with sr := if clamp72 v = v then cx.sr else setBitN cx.sr 1 }) →
    (∀ k v y, fly k v y = { y with inflight := [⟨x.now + 3, c, .acc k, (BitVec.ofInt 72 v).toNat⟩] }) →
    (∀ rd sh rnd w v q lim, rd < 32 → sh < 64 → rnd < 3 → v = (accGet cx.acc n).toInt → lim = (if w then (2 ^ 31 : Int) else 2 ^ 15) →
      (rnd = 0 → q = v.fdiv (2 ^ sh)) → (rnd = 1 → q = (2 * v + 2 ^ sh).fdiv (2 * 2 ^ sh)) →
      (rnd = 2 → |2 * (q * 2 ^ sh - v)| ≤ 2 ^ sh ∧ (|2 * (q * 2 ^ sh - v)| = 2 ^ sh → q % 2 = 0)) →
      ∃ t, exec (.accrd i n rd sh rnd w) s = .next t ∧ ∀ r, r = max (-lim) (min q (lim - 1)) →
        StoneAfter s t i c { cx.step with sr := if r = q then cx.sr else setBitN cx.sr 0 } fun y => { y with inflight := [⟨x.now + 3, c, .d rd, (BitVec.ofInt 32 r).toNat⟩] }) ∧
    (∀ m, m < 4 → ∃ t, exec (.accmov i n m) s = .next t ∧ StoneAfter s t i c (acc n (accGet cx.acc m).toInt) (fly n (accGet cx.acc m).toInt)) ∧
    (∀ sh v k, sh < 64 → k = (BitVec.ofNat 6 sh).toInt → v = (if 0 ≤ k then (accGet cx.acc n).toInt * 2 ^ k.toNat else (accGet cx.acc n).toInt.fdiv (2 ^ (-k).toNat)) →
      ∃ t, exec (.accsh i n sh) s = .next t ∧ StoneAfter s t i c (put n v) (fly n (clamp72 v))) ∧
    (∀ rs sh v, rs < 32 → sh < 64 → v = (cx.dr rs).toInt * 2 ^ sh → ∃ t, exec (.accld i n rs sh) s = .next t ∧ StoneAfter s t i c (put n v) (fly n (clamp72 v))) ∧
    (∀ mask, mask < 16 → ∃ t cx', exec (.accclr i mask) s = .next t ∧ cx' = { cx.step with accF := cx'.accF } ∧ (∀ k, k < 4 → accGet cx'.accF k = if bitAt mask k then 0 else accGet cx.accF k) ∧
      StoneAfter s t i c cx' fun y => { y with inflight := ((List.range 4).filter (bitAt mask)).map fun k => ⟨x.now + 3, c, .acc k, 0⟩ })

/-- BR, CALL, RET and LOOP (R121, R122, R139, R140, R143). That RET and a loop's start drop bits 3:0 is the model's reading (log entry 338). Loop ends and exits are the operations `loopEnd` and `loopLeave`, stated by themselves for every depth. -/
def Obligations.ControlFlow : Prop :=
  (∀ (s : State) (i : Issue) (c : Nat) (x : Stone) (cx : Ctx), Lone s i 3 c → x = s.stone (issueStone i) → cx = x.cx c →
    (∀ cond rs disp v tgt, cond < 7 → rs < 32 → disp < 2 ^ 18 → v = (cx.dr rs).toInt → tgt = ((cx.pc : Int) + 16 * (BitVec.ofNat 18 disp).toInt) % 2 ^ 32 →
      (∃ t, exec (.call i disp) s = .next t ∧ StoneAfter s t i c { cx with pc := tgt.toNat, a := regSet cx.a 15 (BitVec.ofNat 32 (cx.pc + 16)) } id) ∧
      ∃ t, exec (.br i cond rs disp) s = .next t ∧
        ((cond = 0 ∨ (cond = 1 ∧ v = 0) ∨ (cond = 2 ∧ v ≠ 0) ∨ (cond = 3 ∧ v < 0) ∨ (cond = 4 ∧ 0 ≤ v) ∨ (cond = 5 ∧ 0 < v) ∨ (cond = 6 ∧ v ≤ 0)) →
          StoneAfter s t i c { cx with pc := tgt.toNat } id) ∧
        (¬ (cond = 0 ∨ (cond = 1 ∧ v = 0) ∨ (cond = 2 ∧ v ≠ 0) ∨ (cond = 3 ∧ v < 0) ∨ (cond = 4 ∧ 0 ≤ v) ∨ (cond = 5 ∧ 0 < v) ∨ (cond = 6 ∧ v ≤ 0)) →
          StoneAfter s t i c cx.step id)) ∧
    (∃ t, exec (.ret i) s = .next t ∧ StoneAfter s t i c { cx with pc := pcOf (cx.ar 15).toNat } id) ∧
    (∀ byReg rs count len n, rs < 32 → count < 65536 → 1 ≤ len → len ≤ 128 → n = (if byReg then (cx.dr rs).toNat % 65536 else count) →
      (n = 0 → ∃ t, exec (.loop i 0 byReg rs count len) s = .next t ∧ StoneAfter s t i c { cx with pc := (cx.pc + 16 * (len + 1)) % 2 ^ 32 } id) ∧
      (n ≠ 0 → ∃ t, exec (.loop i 0 byReg rs count len) s = .next t ∧ StoneAfter s t i c cx.step fun y =>
        { y with lc := Tab.set (fun _ => 0) x.lc 0 n, ls := Tab.set (fun _ => 0) x.ls 0 (cx.pc + 16), le := Tab.set (fun _ => 0) x.le 0 (cx.pc + 16 * len), ldepth := 1 }))) ∧
  (∀ (x : Stone) (pc l cnt : Nat), x.ldepth = l + 1 → l < 3 → cnt = Tab.get (fun _ => 0) x.lc l →
    (Tab.get (fun _ => 0) x.le l ≠ pc → loopEnd 3 x pc = (x, pc + 16)) ∧
    (Tab.get (fun _ => 0) x.le l = pc → 1 < cnt → loopEnd 3 x pc = ({ x with lc := Tab.set (fun _ => 0) x.lc l (cnt - 1) }, pcOf (Tab.get (fun _ => 0) x.ls l))) ∧
    (Tab.get (fun _ => 0) x.le l = pc → cnt ≤ 1 → (∀ k, k < l → Tab.get (fun _ => 0) x.le k ≠ pc) →
      loopEnd 3 x pc = ({ x with lc := Tab.set (fun _ => 0) x.lc l 0, ldepth := l }, pc + 16))) ∧
  (∀ (x : Stone) (tgt : Nat), x.ldepth ≤ 3 → ∃ y, loopLeave 3 x tgt = y ∧ y = { x with ldepth := y.ldepth } ∧ y.ldepth ≤ x.ldepth ∧
    (∀ l, y.ldepth ≤ l → l < x.ldepth → ¬ (Tab.get (fun _ => 0) x.ls l ≤ tgt ∧ tgt ≤ Tab.get (fun _ => 0) x.le l)) ∧
    (∀ l, y.ldepth = l + 1 → Tab.get (fun _ => 0) x.ls l ≤ tgt ∧ tgt ≤ Tab.get (fun _ => 0) x.le l))

/-- END, ENDF, RETI, MTSR and DBELL (R103, R108, R125, R128, R131, R144, R635). That RETI drops bits 3:0 of EPC (log entry 338) and that a BVEC of 0 leaves
a doorbell pending (log entry 362) are the model's readings. -/
def Obligations.UnitEndsAndSpecialRegisters : Prop :=
  (∀ (s : State) (i : Issue) (c u rs : Nat) (status : Option Nat) (x : Stone) (e : Instr), Lone s i 3 c → x = s.stone (issueStone i) → x.running = some u → u < 3 → u ∉ x.staged → rs < 32 →
    (e = .endU i ∧ status = none) ∨ (e = .endf i rs ∧ status = some (((x.cx c).dr rs).toNat % 256)) →
    ∃ t y, exec e s = .next t ∧ y = t.stone (issueStone i) ∧ y.ended = x.ended ++ [⟨(x.cx u).wu, u, (x.cx u).win, status, false⟩] ∧ y.handler = false ∧ y.ldepth = 0 ∧ (y.cx u).st = .free ∧
      (y.cx u).d = (x.cx u).d ∧ y.dm = x.dm ∧ (x.staged = [] → y.running = none) ∧
      (∀ k l, x.staged = k :: l → x.dbpend &&& x.dbmask = 0 ∨ x.lastBvec.getD 0 = 0 → y.running = some k ∧ y.staged = l ∧ (y.cx k).st = .running) ∧
      (x.dbpend &&& x.dbmask ≠ 0 → x.lastBvec.getD 0 ≠ 0 → y.running = none ∧ y.staged = x.staged) ∧
      (t.mill i.mill).jobs = (s.mill i.mill).jobs.filter (fun j => j.stone != i.stone) ∧ SameStonesBut s t [issueStone i] ∧
      t = { s with stones := t.stones, mills := t.mills, ctrs := t.ctrs }) ∧
  (∀ (s : State) (i : Issue) (x : Stone), Lone s i 3 3 → x = s.stone (issueStone i) → x.handler = true → x.running = none → x.staged = [] →
    ∀ e ∈ [Instr.endU i, .endf i 0, .reti i], ∃ t y, exec e s = .next t ∧ y = t.stone (issueStone i) ∧ y.handler = false ∧ y.running = none ∧ y.ended = x.ended ∧ y.dm = x.dm ∧
      SameStonesBut s t [issueStone i]) ∧
  (∀ (s : State) (i : Issue) (x : Stone) (u : Nat), Lone s i 3 3 → x = s.stone (issueStone i) → x.handler = true → x.running = some u → u < 3 → x.epc ≠ 0xFFFFFFFF →
    ∃ t y, exec (.reti i) s = .next t ∧ y = t.stone (issueStone i) ∧ y.handler = false ∧ y.running = some u ∧ y.cx u = { x.cx u with pc := pcOf x.epc } ∧
      (∀ k, k ≠ u → k ≠ 3 → y.cx k = x.cx k) ∧ y.dm = x.dm ∧ y.ldepth = x.ldepth ∧ SameStonesBut s t [issueStone i] ∧ t = { s with stones := t.stones, ctrs := t.ctrs }) ∧
  (∀ (s : State) (i : Issue) (c rs v : Nat) (x : Stone) (fly : PDst → Nat → Stone → Stone), Lone s i 3 c → x = s.stone (issueStone i) → rs < 32 → v = ((x.cx c).dr rs).toNat →
    (∀ p w y, fly p w y = { y with inflight := [⟨x.now + 2, c, p, w⟩] }) →
    (∃ t, exec (.mtsr i rs 0) s = .next t ∧ StoneAfter s t i c (x.cx c).step (fly .sr (v &&& 0x103))) ∧
    (c = 3 → ∃ t, exec (.mtsr i rs 1) s = .next t ∧ StoneAfter s t i c (x.cx c).step (fly .epc v)) ∧
    (∃ t, exec (.mtsr i rs 7) s = .next t ∧ StoneAfter s t i c (x.cx c).step (fly .dbclear (v % 256))) ∧
    (∃ t, exec (.mtsr i rs 8) s = .next t ∧ StoneAfter s t i c (x.cx c).step (fly .dbmask (v % 256))) ∧
    (∀ k y, k = 16 * i.mill + v % 16 → y = s.stone k → k ≠ issueStone i → ∃ t, exec (.dbell i rs) s = .next t ∧ t.stone k = { y with dbpend := y.dbpend ||| v / 256 % 256, dbNew := y.dbNew ||| v / 256 % 256 } ∧
      SameStonesBut s t [issueStone i, k] ∧ (t.stone (issueStone i)).cx c = (x.cx c).step ∧ (t.stone (issueStone i)).dbpend = x.dbpend ∧ (t.stone (issueStone i)).dm = x.dm ∧
      t = { s with stones := t.stones, ctrs := t.ctrs }) ∧
    (issueStone i = 16 * i.mill + v % 16 → ∃ t, exec (.dbell i rs) s = .next t ∧
      StoneAfter s t i c (x.cx c).step fun y => { y with dbpend := x.dbpend ||| v / 256 % 256 })) ∧
  (∀ (x : Stone) (p : Pend), (p.dst = .dbclear → (x.land p).dbpend = x.dbpend &&& ((p.val ^^^ 0xFF) ||| x.dbNew)) ∧ (p.dst = .sr → ((x.land p).cx p.ctx).sr = p.val) ∧
    (p.dst = .epc → (x.land p).epc = p.val) ∧ (p.dst = .dbmask → (x.land p).dbmask = p.val))

/-- Program faults, INTERRUPT_ENTRY, WORK_UNIT_OVERRUN, ICACHE_FILL and HOPPER_BANK_TAKE (R99, R104, R105, R121, R126 to R131, R134, R135, R138, R170). ECAUSE
and EADDR at a doorbell are free values, and a doorbell whose image has a BVEC of 0 stays pending (log entry 362); the EPC of a BUS_ERROR is the PC of the unit
that runs as it is taken, and a fault raised before its handler began waits for the handler's end (log entry 340). -/
def Obligations.FaultsAndInterrupts : Prop :=
  (∀ (s : State) (i : Issue) (c slot : Nat) (x : Stone) (cx : Ctx) (fault : Nat → Nat → State), Lone s i slot c → x = s.stone (issueStone i) → cx = x.cx c →
    (∀ k ea, fault k ea = s.setStone (issueStone i) { x with faults := x.faults ++ [⟨k, ea, cx.pc, x.handler⟩] }) →
    (∀ w, slot < 4 → decodeSyl slot w = .bad → exec (.nop i w) s = .next (fault 1 0)) ∧
    (∀ rd am ea, slot < 2 → am.mode ≤ 4 → (am.mode = 2 → am.off % 2048 < 32) → circFault cx am = false → ea = effAddr cx am →
      (0x10000 < ea + 4 → exec (.ldW i rd am) s = .next (fault 2 ea) ∧ exec (.stW i rd am) s = .next (fault 2 ea)) ∧
      (ea + 4 ≤ 0x10000 → ea % 4 ≠ 0 → exec (.ldW i rd am) s = .next (fault 3 ea) ∧ exec (.stW i rd am) s = .next (fault 3 ea)) ∧
      (0x100000 ≤ ea → ea < 0x100000 + s.karea i.mill → ea < 0x200000 → ea % 4 = 0 → exec (.stfW i rd am) s = .next (fault 6 ea)) ∧
      (0x10000000 ≤ ea → ea < 0x14000000 → ea % 4 = 0 → s.inWindow (s.fget F.MILL_ROLE_POLDER i.mill) (ea - 0x10000000) = false → exec (.ldfW i rd am) s = .next (fault 6 ea))) ∧
    (∀ rd am, slot < 2 → am.mode = 3 ∨ am.mode = 4 → circFault cx am = true → effAddr cx am + 4 ≤ 0x10000 → effAddr cx am % 4 = 0 →
      exec (.ldW i rd am) s = .next (fault 4 (effAddr cx am))) ∧
    (∀ lvl b rs n len, slot = 3 → 0 < lvl → lvl < 4 → exec (.loop i lvl b rs n len) s = .next (fault 5 0)) ∧
    (slot = 3 → c ≠ 3 → exec (.reti i) s = .next (fault 1 0) ∧ ∀ rs, exec (.mtsr i rs 1) s = .next (fault 1 0)) ∧
    (∀ rs k, slot = 3 → 2 ≤ k → k ≤ 6 → exec (.mtsr i rs k) s = .next (fault 1 0))) ∧
  (∀ (s : State) (n : Nat) (x : Stone), x = s.stone n → x.halted = true ∨ (s.mill (n / 16)).stopped = true → exec (.interruptEntry n) s = .next s) ∧
  (∀ (s : State) (n u : Nat) (f : PFault) (l : List PFault) (x : Stone) (rec' : Nat → State), x = s.stone n → x.halted = false → (s.mill (n / 16)).stopped = false → x.faults = f :: l →
    x.inflight = [] → x.running = some u → u < 3 → (∀ k, rec' k = (s.setStone n { x with faults := l }).recordFault n k (x.cx u).wuid) →
    (x.handler = false → f.inh = false → (x.cx u).fvec ≠ 0 → ∃ t, exec (.interruptEntry n) s = .next t ∧ t = { rec' f.cause with stones := t.stones } ∧ SameStonesBut s t [n] ∧
      (t.stone n).handler = true ∧ ((t.stone n).cx 3).pc = (x.cx u).fvec ∧ (t.stone n).epc = (if f.cause = 7 then (x.cx u).pc else f.epc) ∧ (t.stone n).ecause = f.cause ∧ (t.stone n).eaddr = f.eaddr ∧
      (t.stone n).running = some u ∧ (t.stone n).cx u = x.cx u ∧ (t.stone n).dm = x.dm) ∧
    (x.handler = false → f.inh = false → (x.cx u).fvec = 0 → exec (.interruptEntry n) s = .next ((rec' f.cause).endUnit n (some f.cause))) ∧
    (f.inh = true → ∃ (v : State) (t : Stone), exec (.interruptEntry n) s = .next (v.endUnit n (some 8)) ∧ t = v.stone n ∧ t.handler = false ∧ t.cx 3 = ({ sr := 0 } : Ctx) ∧ t.epc = 0 ∧ t.ecause = 0 ∧
      t.eaddr = 0 ∧ t.cx u = x.cx u ∧ v.regs = (rec' 8).regs)) ∧
  (∀ (s : State) (n : Nat) (x : Stone), x = s.stone n → x.handler = true → (∀ f ∈ x.faults, f.inh = false) → exec (.interruptEntry n) s = .next s) ∧
  (∀ (s : State) (n : Nat) (f : PFault) (l : List PFault) (x : Stone), x = s.stone n → x.halted = false → (s.mill (n / 16)).stopped = false → x.faults = f :: l → x.inflight = [] →
    x.running = none → x.handler = false → f.inh = false → x.lastFvec ≠ 0 → ∃ t y, exec (.interruptEntry n) s = .next t ∧ y = t.stone n ∧ y.handler = true ∧ (y.cx 3).pc = x.lastFvec ∧
      y.epc = (if f.cause = 7 then 0xFFFFFFFF else f.epc) ∧ y.ecause = f.cause ∧ y.eaddr = f.eaddr ∧ y.faults = l ∧ SameStonesBut s t [n]) ∧
  (∀ (s : State) (n k : Nat) (c : Nat), ∃ t, s.recordFault n k c = t ∧ t.rd T.mill (n / 16) (0x10C + 16 * (n % 16)) = (2 ^ 31 + c % 65536 * 256 + k) % 2 ^ 32 ∧
    causeSet t T.mill (n / 16) I.MILL_PFAULT ∧ (s.fbit F.MILL_PFAULT_VALID (n / 16) = false → t.rd T.mill (n / 16) 0x74 = (2 ^ 31 + n % 16 * 65536 + k) % 2 ^ 32)) ∧
  (∀ (s : State) (n : Nat) (x : Stone), x = s.stone n → x.halted = false → (s.mill (n / 16)).stopped = false → x.faults = [] → x.handler = false → x.inflight = [] →
    (x.dbpend &&& x.dbmask = 0 → exec (.interruptEntry n) s = .next s) ∧
    (∀ u, x.running = some u → u < 3 → x.dbpend &&& x.dbmask ≠ 0 → bitAt (x.cx u).sr 8 = true → (x.cx u).bvec ≠ 0 → ∃ t y, exec (.interruptEntry n) s = .next t ∧ y = t.stone n ∧ y.handler = true ∧
      (y.cx 3).pc = (x.cx u).bvec ∧ y.epc = (x.cx u).pc ∧ y.dbpend = x.dbpend ∧ y.cx u = x.cx u ∧ t = { s with stones := t.stones, fresh := t.fresh } ∧ SameStonesBut s t [n]) ∧
    (∀ u, x.running = some u → bitAt (x.cx u).sr 8 = false ∨ (x.cx u).bvec = 0 → exec (.interruptEntry n) s = .next s) ∧
    (∀ b, x.running = none → x.lastBvec = some b → b ≠ 0 → x.dbpend &&& x.dbmask ≠ 0 → ∃ t y, exec (.interruptEntry n) s = .next t ∧ y = t.stone n ∧ y.handler = true ∧ (y.cx 3).pc = b ∧ y.epc = 0xFFFFFFFF)) ∧
  (∀ (s : State) (n c : Nat) (x : Stone) (w : WU), x = s.stone n → (s.mill (n / 16)).stopped = false → x.running = some c → x.halted = false → s.wu (x.cx c).wu = some w →
    (x.ticks < ceilDiv (s.klass w.cls).cost 140 + 1 → exec (.workUnitOverrun n) s = .next s) ∧
    (ceilDiv (s.klass w.cls).cost 140 + 1 ≤ x.ticks → exec (.workUnitOverrun n) s =
      .next (((s.endUnit n (some 0xF1)).finc F.MILLER_FAILED_OVERRUN (n / 640)).raise T.miller (n / 640) I.MILLER_OVERRUN))) ∧
  (∀ (s : State) (n line v : Nat), line * 64 < s.karea (n / 16) → (s.mill (n / 16)).stopped = false →
    (∃ t, exec (.icacheFill n line v true) s = .next t ∧ causeSet t T.mill (n / 16) I.MILL_IC_REFILL ∧ Tab.get (fun _ => ([] : List Byte)) (t.stone n).ic line = memBytes (s.mill (n / 16)).bin (line * 64) 64 ∧
      SameStonesBut s t [n] ∧ t.ctrs = s.ctrs) ∧
    (∃ t, exec (.icacheFill n line v false) s = .next t ∧ Tab.get (fun _ => ([] : List Byte)) (t.stone n).ic line = memBytes (s.mill (n / 16)).bin (line * 64) 64 ∧ t.regs = s.regs ∧
      SameStonesBut s t [n] ∧ SameCtrsBut s t [regAddr C.MILL_WAITS.t (n / 16) C.MILL_WAITS.off])) ∧
  (∀ (s : State) (n bank : Nat) (hopper bolter job : Bool) (x : Stone), x = s.stone n → job = (bolter && (s.mill (n / 16)).jobs.any fun j => j.stone == n % 16) →
    (hopper = false → job = false → exec (.hopperBankTake n ⟨bank, hopper, bolter⟩) s = .next s) ∧
    (hopper = true ∨ job = true → ∃ t y, exec (.hopperBankTake n ⟨bank, hopper, bolter⟩) s = .next t ∧ y = t.stone n ∧ bank ∈ y.takenBank ∧ (∀ b ∈ x.takenBank, b ∈ y.takenBank) ∧
      y = { x with takenBank := y.takenBank, bolterTook := y.bolterTook } ∧ t = { s with stones := t.stones } ∧ SameStonesBut s t [n] ∧
      (x.bolterTook.Nodup → (bank ∈ y.bolterTook ↔ job = true ∧ (hopper = false ∨ ¬ bank ∈ x.bolterTook)))) ∧
    ∀ (k : Nat) (cx : Ctx) (e : Nat × Syl), bankOf cx e.2 = some k → bankWaits x cx [e] = (if k ∈ x.halfBank then 1 else 0) + (if k ∈ x.takenBank then 1 else 0))

/-- TURN_BOUNDARY, MARK_LOSS and SUBSTITUTE_BOUNDARY, the releases of a turn and the seals that a commit takes (R60, R160, R162 to R164, R167,
R172, R176, R185, R187, R207, R240, R246). While a half's own count is ahead of the marks' it makes no boundary (`ownTurn`); before Tide's time is valid a mark adds
one to the count (log entry 372). -/
def Obligations.TurnsAndSeals : Prop :=
  (∀ (s : State) (h : Nat) (early : Bool) (x : Miller), x = s.miller h →
    (x.marks = [] ∨ s.tickRuns h = false → exec (.turnBoundary h early) s = .next s) ∧
    (∀ v time rest, x.marks = (v, time) :: rest → s.tickRuns h = true →
      (s.fbit F.MILLER_STAT_MARK_LOSS h = true → early = true → exec (.turnBoundary h early) s = .next (s.setMiller h { x with marks := rest })) ∧
      (s.fbit F.MILLER_STAT_MARK_LOSS h = false ∨ early = false → ∀ u : State, u = (s.setMiller h { x with marks := rest }).fset F.MILLER_STAT_MARK_LOSS h 0 →
        (x.loaded = false → s.fbit F.TIDE_STAT_TIME_VALID 0 = true →
          exec (.turnBoundary h early) s = .next ((u.setMiller h { x with marks := rest, loaded := true }).boundary h (time / (1000000 * unitNs)) time)) ∧
        (x.loaded = false → s.fbit F.TIDE_STAT_TIME_VALID 0 = false → s.fbit F.MILLER_STAT_MARK_LOSS h = false → exec (.turnBoundary h early) s = .next (u.boundary h (s.turn h + 1) time)) ∧
        (x.loaded = true ∨ s.fbit F.TIDE_STAT_TIME_VALID 0 = false ∧ s.fbit F.MILLER_STAT_MARK_LOSS h = true → ∀ d, 0 < d → d ≤ 32768 → v % 65536 = (s.turn h + d) % 65536 →
          (s.ownTurn h < s.turn h + d → exec (.turnBoundary h early) s = .next (u.boundary h (s.turn h + d) time)) ∧
          (s.turn h + d ≤ s.ownTurn h → exec (.turnBoundary h early) s = .next (u.cset C.MILLER_TURN h (s.turn h + d)))) ∧
        (x.loaded = true ∨ s.fbit F.TIDE_STAT_TIME_VALID 0 = false ∧ s.fbit F.MILLER_STAT_MARK_LOSS h = true → ∀ d, d < 32768 → d ≤ s.turn h → v % 65536 = (s.turn h - d) % 65536 → exec (.turnBoundary h early) s = .next (u.cset C.MILLER_TURN h (s.turn h - d)))))) ∧
  (∀ (s : State) (h : Nat), (∃ t, exec (.markLoss h) s = .next t ∧ t.fbit F.MILLER_STAT_MARK_LOSS h = true ∧ causeSet t T.miller h I.MILLER_MARK_LOSS ∧ (t.miller h).marks = [] ∧
      (t.miller h).lastB = (s.miller h).lastB ∧ (∀ k, k ≠ h → t.miller k = s.miller k) ∧ SameRegsBut s t [fieldAt F.MILLER_STAT_MARK_LOSS h, causeAt T.miller h] ∧
      t = { s with sch := t.sch, regs := t.regs, out := t.out }) ∧
    (s.fbit F.MILLER_STAT_MARK_LOSS h = false → exec (.substituteBoundary h) s = .next s) ∧
    (s.fbit F.MILLER_STAT_MARK_LOSS h = true → exec (.substituteBoundary h) s = .next (s.boundary h (s.ownTurn h + 1) s.nowUnits))) ∧
  (∀ (s : State) (turn time : Nat), s.sch.classes = [] → s.sch.chans = [] → s.sch.bundles = [] → s.sch.logs = [] → s.sch.fx = [] → s.sch.takeover = [] → s.qs.q = [] → s.ras.claimedAt = [] →
    turn < 2 ^ 64 → ∃ t, s.boundary 1 turn time = t ∧ t.turn 1 = turn ∧ (t.miller 1).lastB = time ∧ t.fget F.MILLER_SURPLUS_GRAINS 1 = t.fget F.VANE_SURPLUS_GRAINS 1 ∧
      (s.fbit F.VANE_CTRL_SURPLUS_EN 1 = false → t.fget F.MILLER_SURPLUS_GRAINS 1 = 0) ∧ t.streams = s.streams ∧ t.stones = s.stones ∧ t.mills = s.mills ∧
      t.sch.wus = s.sch.wus.map fun e => if e.2.stone / 640 = 1 ∧ e.2.defer = false ∧ e.2.deadline ≤ turn ∧ e.2.depart = none then (e.1, { e.2 with depart := some (time + 4000 * unitNs) }) else e) ∧
  (∀ (s : State) (key turn n : Nat) (k : Klass) (pre : Option WU), k = s.klass key → n = k.count + 1 → pre = (s.sch.early.find? fun e => e.1 == key).map (·.2) → pre.map (·.bad) ≠ some true → ∃ t w, s.releaseUnit key turn = t ∧ t.wu s.sch.nextWu = some w ∧ w.cls = key ∧ w.stone = k.stone ∧
    w.wuid = key % 65536 + n % 65536 * 65536 ∧ w.deadline = (if k.defer then 0 else turn + k.period) ∧ w.defer = k.defer ∧ w.st = (pre.map (·.st)).getD .released ∧ w.seen = s.qs.nextSeen ∧ w.held = (pre.map (·.held)).getD false ∧
    w.start = (s.miller (k.stone / 640)).lastB ∧ w.flows = s.flowsOf k.owner turn ∧ (∀ c, k.owner = .chan c → w.tones = (s.chan c).tones) ∧ t.klass key = { k with count := n, last := n } ∧
    (∀ j, j ≠ key → t.klass j = s.klass j) ∧ (∀ j, j ≠ s.sch.nextWu → t.wu j = s.wu j) ∧ t = { s with sch := t.sch, streams := t.streams }) ∧
  (∀ (s : State) (q upto : Nat), (s.commitRole q upto).log q = (s.log q).filter fun e => decide (upto < e.turn)) ∧
  (∀ (s : State) (n wu : Nat) (status : Option Nat) (w : WU) (slot : Option Nat) (f : SealEntry → SealEntry) (h : Nat), h = n / 640 → ∃ t, s.sealUnit n wu w status slot f = t ∧
    t.log (s.roleOfStone n) = s.log (s.roleOfStone n) ++ [f { turn := s.ownTurn h, wu := wu, wuid := w.wuid, cls := w.cls, status := status, slot := slot, taken := w.taken }] ∧
    t.wu wu = none ∧ (∀ j, j ≠ wu → t.wu j = s.wu j) ∧
    (w.defer = false → w.deadline ≤ s.ownTurn h → t.cget C.MILLER_MISS h = (s.cget C.MILLER_MISS h + 1) % 2 ^ 64 ∧ causeSet t T.miller h I.MILLER_DEADLINE_MISS) ∧
    (w.defer = true ∨ s.ownTurn h < w.deadline → t.ctrs = s.ctrs) ∧
    (∀ v, status = some v → v < 256 → t.fget F.MILLER_FAILED_FAILED h = min (s.fget F.MILLER_FAILED_FAILED h + 1) 0xFFFF ∧ t.fbit F.MILLER_LASTFAIL_VALID h = true ∧
      t.fget F.MILLER_LASTFAIL_CLASS h = w.cls % 65536 ∧ t.fget F.MILLER_LASTFAIL_STATUS h = v ∧ causeSet t T.miller h I.MILLER_WU_FAILED) ∧
    SameRegsBut s t [causeAt T.miller h, fieldAt F.MILLER_FAILED_FAILED h, fieldAt F.MILLER_LASTFAIL_VALID h] ∧ t = { s with sch := t.sch, regs := t.regs, ctrs := t.ctrs, out := t.out })

/-- CONTEXT_PREFETCH, PREFETCH_COMPLETE, WORK_UNIT_STAGE, WORK_UNIT_SEALED, FLUME_WRITEBACK_DONE and DEFERRABLE_START (R168, R169, R180 to R185, R190,
R207, R217, R254). The order that puts the units of one turn before release after the released ones, and the deferrable units' staging as they start, are the
model's reading (log entry 351), as is which lines of the I/O area are copied (log entry 353). -/
def Obligations.WorkUnitsThroughTheHopper : Prop :=
  (∀ (s : State) (n : Nat) (meas : List SideMeas) (levels : List (Nat × Nat)) (bad : BadInputs) (slot : Nat) (poison : Bool), (s.mill (n / 16)).stopped = true →
    exec (.contextPrefetch n) s = .next s ∧ exec (.prefetchComplete n slot poison) s = .next s ∧ exec (.workUnitStage n bad) s = .next s ∧
    exec (.workUnitSealed n meas levels) s = .next s ∧ exec (.deferrableStart ⟨n, bad⟩) s = .next s) ∧
  (∀ (s : State) (n m size : Nat) (next : List Fetch) (waits wants : Fetch → Bool) (got : State → Fetch → WU), m = n / 16 → size = s.binSlots m → (s.mill m).stopped = false →
    (s.sch.wus.map (·.1)).Nodup → (s.sch.classes.map (·.1)).Nodup → next = (s.fetchOrder n).take size →
    (∀ f, wants f = (f.wu.st == .released && !f.wu.bad)) → (∀ f, waits f = (wants f && s.fetchHeld f)) →
    (∀ t f, got t f = if f.early then ((t.sch.early.find? fun e => e.1 == f.id).map (·.2)).getD f.wu else (t.wu f.id).getD f.wu) →
    ∃ t, exec (.contextPrefetch n) s = .next t ∧ t = { s with sch := t.sch, regs := t.regs } ∧ SameRegsBut s t [fieldAt F.HOPPER_WAITS_FLUME_HOLD m] ∧
      (∀ f ∈ (s.fetchOrder n).drop size, got t f = if f.wu.slot.isSome then { f.wu with st := .released } else f.wu) ∧
      t.fget F.HOPPER_WAITS_FLUME_HOLD m = (if s.fbit F.HOPPER_CTRL_CNT_EN m then min (s.fget F.HOPPER_WAITS_FLUME_HOLD m + (next.filter fun f => waits f && !f.wu.held).length)
        (2 ^ F.HOPPER_WAITS_FLUME_HOLD.w - 1) else s.fget F.HOPPER_WAITS_FLUME_HOLD m) ∧
      (∀ f j, next.find? (fun f => wants f && !s.fetchHeld f) = some f → j < size → (∀ g ∈ next, g.wu.slot ≠ some j) → (∀ i, i < j → ∃ g ∈ next, g.wu.slot = some i) →
        got t f = { f.wu with st := .fetching j, held := false } ∧ ∀ g ∈ next, g ≠ f → got t g = { g.wu with held := g.wu.held || waits g }) ∧
      (next.find? (fun f => wants f && !s.fetchHeld f) = none ∨ (∀ j, j < size → ∃ g ∈ next, g.wu.slot = some j) → ∀ g ∈ next, got t g = { g.wu with held := g.wu.held || waits g })) ∧
  (∀ (s : State) (n slot m : Nat) (poison : Bool), m = n / 16 → (s.mill m).stopped = false →
    ((∀ f ∈ s.fetchOrder n, f.wu.st ≠ .fetching slot) → exec (.prefetchComplete n slot poison) s = .next s) ∧
    (∀ f, (s.fetchOrder n).find? (fun f => f.wu.st == .fetching slot) = some f →
      (poison = true ∨ f.wu.cls ∈ s.sch.ctxPoison →
        (f.early = true → ∃ t, exec (.prefetchComplete n slot poison) s = .next t ∧ t = { s with sch := { s.sch with early := t.sch.early } } ∧
          (t.sch.early.find? fun e => e.1 == f.id) = some (f.id, { f.wu with st := .released, bad := true })) ∧
        (f.early = false → ∃ r, r = (s.hopperErr m f.wu.cls 1).takeInputs n f.id f.wu ∧ exec (.prefetchComplete n slot poison) s =
          .next ((r.1.sealUnit n f.id r.2 (some 0xF2) none).notice (s.klass f.wu.cls).polder 1 (s.ownerHandle (s.klass f.wu.cls)) (f.wu.cls % 65536 + 65536)))) ∧
      (poison = false → f.wu.cls ∉ s.sch.ctxPoison → Tab.wf memDefault (s.ctxOf f.wu.cls) = true → ∃ t c, exec (.prefetchComplete n slot poison) s = .next t ∧
        c = (match f.wu.params with | some d => memPut (s.ctxOf f.wu.cls) 0x3E00 d | none => s.ctxOf f.wu.cls) ∧
        (∀ o, o < 0x4000 → memByte (t.mill m).bin (s.slotBase n slot + o) = memByte c o) ∧
        (∀ a, a < s.slotBase n slot ∨ s.slotBase n slot + 0x4000 ≤ a → memByte (t.mill m).bin a = memByte (s.mill m).bin a) ∧
        (f.early = false → t.wu f.id = some { f.wu with st := .inBin slot } ∧ (∀ j, j ≠ f.id → t.wu j = s.wu j) ∧ t.sch.early = s.sch.early) ∧
        (f.early = true → (t.sch.early.find? fun e => e.1 == f.id) = some (f.id, { f.wu with st := .inBin slot }) ∧ t.sch.wus = s.sch.wus) ∧
        t.regs = s.regs ∧ (s.fbit F.HOPPER_CTRL_CNT_EN m = true → t.cget C.HOPPER_IN m = (s.cget C.HOPPER_IN m + 0x4000) % 2 ^ 64) ∧
        t = { s with mills := t.mills, sch := t.sch, ctrs := t.ctrs }))) ∧
  (∀ (s : State) (n m slot c wu win : Nat) (w : WU) (x : Stone) (bad : BadInputs), m = n / 16 → x = s.stone n → (s.mill m).stopped = false → win = x.nextWin % 2 →
    (s.stoneOrder n).head? = some (wu, w) → w.st = .inBin slot →
    ((∀ k, k < 3 → (x.cx k).st ≠ .free) ∨ x.winFree win = false ∨ w.defer = true → exec (.workUnitStage n bad) s = .next s) ∧
    (c < 3 → (x.cx c).st = .free → (∀ k, k < c → (x.cx k).st ≠ .free) → x.winFree win = true →
      (w.defer = false → exec (.workUnitStage n bad) s = .next (s.stageUnit n wu w slot c bad)) ∧
      (∀ cost h, cost = max (s.klass w.cls).cost 14000 → h = n / 640 → s.fbit F.MILLER_CTRL_DEFER_EN h = true → s.deferIdle n = true →
        (s.account n < cost → exec (.deferrableStart ⟨n, bad⟩) s = .next s) ∧
        (cost ≤ s.account n → ∃ u : State, exec (.deferrableStart ⟨n, bad⟩) s = .next (u.stageUnit n wu { w with started := true } slot c bad) ∧ u.account n = s.account n - cost ∧
          (∀ k, k ≠ n → u.account k = s.account k) ∧ (u.miller h).defer = (s.miller h).defer + cost ∧ u.sch.wus = s.sch.wus ∧ u = { s with sch := u.sch })))) ∧
  (∀ (s : State) (n : Nat) (bad : BadInputs), s.fbit F.MILLER_CTRL_DEFER_EN (n / 640) = false ∨ (s.stone n).running.isSome = true ∨ (s.stone n).staged ≠ [] ∨
    (∃ e ∈ s.sch.wus, e.2.stone = n ∧ e.2.defer = false) → exec (.deferrableStart ⟨n, bad⟩) s = .next s) ∧
  (∀ (s : State) (n m slot c wu base : Nat) (w : WU) (x : Stone) (st : Bool) (bad : BadInputs), m = n / 16 → x = s.stone n → base = winBase (x.nextWin % 2) → c < 3 →
    Tab.wf memDefault (s.mill m).bin = true →
    (st = false ∧ x.running.isSome = true) ∨ (st = true ∧ x.running = none ∧ x.handler = false ∧ x.halted = false ∧ x.staged = [] ∧ x.dbReady = false) →
    ∃ t k, s.stageUnit n wu w slot c bad = t ∧ k ≤ 32 ∧
      (t.stone n).cx c = { st := if st then .running else .staged, a := (t.stone n).cx c |>.a, pc := (s.klass w.cls).entry, sr := 0x100, wuid := w.wuid, wu := wu, win := base, fvec := (s.klass w.cls).fvec, bvec := (s.klass w.cls).bvec } ∧
      regGet ((t.stone n).cx c).a 0 = BitVec.ofNat 32 base ∧ regGet ((t.stone n).cx c).a 1 = BitVec.ofNat 32 (base + 0x4000) ∧ regGet ((t.stone n).cx c).a 2 = BitVec.ofNat 32 k ∧
      regGet ((t.stone n).cx c).a 3 = BitVec.ofNat 32 w.deadline ∧ (∀ r, 4 ≤ r → regGet ((t.stone n).cx c).a r = 0) ∧ (∀ d, d ≠ c → (t.stone n).cx d = x.cx d) ∧
      (∀ o, o < 0x4000 → memByte (t.stone n).dm (base + o) = memByte (s.mill m).bin (s.slotBase n slot + o)) ∧
      (∀ a, a < base ∨ base + 0x5000 ≤ a ∨ (base + 0x4100 ≤ a ∧ a < base + 0x4200) → memByte (t.stone n).dm a = memByte x.dm a) ∧
      (t.stone n).nextWin = x.nextWin % 2 + 1 ∧ (st = false → (t.stone n).staged = x.staged ++ [c] ∧ (t.stone n).running = x.running) ∧ (st = true → (t.stone n).staged = [] ∧ (t.stone n).running = some c) ∧
      (∃ w', t.wu wu = some w' ∧ w' = { w with st := .staged, taken := w'.taken, os := w'.os }) ∧ (∀ j, j ≠ wu → t.wu j = s.wu j) ∧ SameStonesBut s t [n] ∧ t.mills = s.mills) ∧
  (∀ (s : State) (n m : Nat) (meas : List SideMeas) (levels : List (Nat × Nat)) (x : Stone) (e : EndedWU) (rest : List EndedWU) (w : WU), m = n / 16 → x = s.stone n → (s.mill m).stopped = false →
    (x.ended = [] → exec (.workUnitSealed n meas levels) s = .next s) ∧
    (x.ended = e :: rest → s.wu e.wu = some w →
      ((x.cx e.ctx).st = .draining → exec (.workUnitSealed n meas levels) s = .next s) ∧
      (∀ v, (x.cx e.ctx).st ≠ .draining → e.status = some v → exec (.workUnitSealed n meas levels) s = .next ((s.setStone n { x with ended := rest }).sealUnit n e.wu w (some v) none)) ∧
      ((x.cx e.ctx).st ≠ .draining → e.status = none → (∀ j, j < 4 → ∃ y ∈ s.sch.slots, y.1 = 4 * s.roleOfStone n + j) →
        (e.waited = true → exec (.workUnitSealed n meas levels) s = .next s) ∧
        (e.waited = false → ∀ u, u = s.setStone n { x with ended := { e with waited := true } :: rest } →
          exec (.workUnitSealed n meas levels) s = .next (if s.fbit F.HOPPER_CTRL_CNT_EN m then u.finc F.HOPPER_WAITS_SEAL_FULL m else u))) ∧
      ((x.cx e.ctx).st ≠ .draining → e.status = none → ∀ j k, k = s.klass w.cls → j < 4 → (∀ y ∈ s.sch.slots, y.1 ≠ 4 * s.roleOfStone n + j) → (∀ i, i < j → ∃ y ∈ s.sch.slots, y.1 = 4 * s.roleOfStone n + i) →
        ∃ (u v : State) (f : SealEntry → SealEntry) (told : List (List Byte)) (kst : KState) (dm : Tab Byte), exec (.workUnitSealed n meas levels) s = .next (v.sealUnit n e.wu w none (some j) f) ∧
          v = (((u.outputs w.cls e.wu dm (e.win + 0x4000)).sendNotices (n / 640) k.polder e.wu told).sealEval k).1 ∧
          (k.kern.isSome = true → dm = x.dm ∧ told = [] ∧ kst = {} ∧ ∀ y, f y = { y with sides := [], levels := [] }) ∧
          (∀ r, k.kern.isSome = false → r = (s.setStone n { x with ended := rest }).runKernel w.cls e.wu w meas → dm = r.write x.dm (e.win + 0x4000) ∧ told = r.notices ∧ kst = r.kst) ∧
          u.stone n = { x with ended := rest, dm := dm } ∧ SameStonesBut s u [n] ∧
          (u.sch.slots.find? fun y => y.1 == 4 * s.roleOfStone n + j) = some (4 * s.roleOfStone n + j, ⟨e.wu, w.cls, memBytes dm e.win (64 * ceilDiv k.w 64),
            (outLines dm (e.win + 0x4000)).map fun l => (64 * l, memBytes dm (e.win + 0x4000 + 64 * l) 64), kst⟩) ∧
          (s.fbit F.HOPPER_CTRL_CNT_EN m = true → u.cget C.HOPPER_OUT m = (s.cget C.HOPPER_OUT m + 64 * ceilDiv k.w 64 + 64 * (outLines dm (e.win + 0x4000)).length) % 2 ^ 64) ∧
          u = { s with stones := u.stones, sch := { s.sch with slots := u.sch.slots }, ctrs := u.ctrs }))) ∧
  (∀ (s : State) (q j : Nat) (poison : Bool),
    ((∀ y ∈ s.sch.slots, y.1 ≠ 4 * q + j) → exec (.flumeWritebackDone q j poison) s = .next s) ∧
    (∀ y, s.sch.slots.find? (fun e => e.1 == 4 * q + j) = some y → ∃ t, exec (.flumeWritebackDone q j poison) s = .next t ∧ (∀ e ∈ t.sch.slots, e.1 ≠ 4 * q + j) ∧
      (∀ k, k ≠ y.2.cls → t.ctxOf k = s.ctxOf k ∧ t.kst k = s.kst k) ∧ (poison = true → t.ctxOf y.2.cls = s.ctxOf y.2.cls ∧ t.kst y.2.cls = s.kst y.2.cls) ∧
      (poison = false → (∀ a, y.2.data.length ≤ a → memByte (t.ctxOf y.2.cls) a = memByte (s.ctxOf y.2.cls) a) ∧ memBytes (t.ctxOf y.2.cls) 0 y.2.data.length = y.2.data ∧ t.kst y.2.cls = y.2.kst) ∧
      t = { s with sch := { s.sch with slots := t.sch.slots, ctxMem := t.sch.ctxMem, kst := t.sch.kst } }))

/-- Alignment (R120): halves to 2, words and AMOs to 4, pairs, LSAVE and LREST to 8, for every form of access whose address its map holds; else the bundle
ends with ALIGN (cause 3) and its effective address, and nothing else of it takes effect. The updates of addresses wrap modulo 2³². -/
def Obligations.AlignmentRule : Prop :=
  ∀ (s : State) (i : Issue) (c slot rd ea : Nat) (am : Amode) (x : Stone) (cx : Ctx) (align : Nat → State), Lone s i slot c → slot < 2 →
    x = s.stone (issueStone i) → cx = x.cx c → am.mode ≤ 4 → (am.mode = 2 → am.off % 2048 < 32) → circFault cx am = false → ea = effAddr cx am →
    (∀ a, align a = s.setStone (issueStone i) { x with faults := x.faults ++ [⟨3, a, cx.pc, x.handler⟩] }) →
    (∀ e ∈ ([(2, .ldH i rd am), (2, .ldHu i rd am), (2, .stH i rd am), (4, .ldW i rd am), (4, .stW i rd am)] : List (Nat × Instr)),
      ea + e.1 ≤ 0x10000 → ea % e.1 ≠ 0 → exec e.2 s = .next (align ea)) ∧
    (rd % 2 = 0 → ea + 8 ≤ 0x10000 → ea % 8 ≠ 0 → exec (.ldD i rd am) s = .next (align ea) ∧ exec (.stD i rd am) s = .next (align ea)) ∧
    (slot = 0 → am.mode = 0 → ea + 40 ≤ 0x10000 → ea % 8 ≠ 0 → exec (.lsave i am) s = .next (align ea) ∧ exec (.lrest i am) s = .next (align ea)) ∧
    ((0x100000 ≤ ea ∧ ea < 0x200000) ∨ (0x10000000 ≤ ea ∧ ea < 0x14000000) →
      (ea % 4 ≠ 0 → exec (.ldfW i rd am) s = .next (align ea) ∧ exec (.stfW i rd am) s = .next (align ea)) ∧
      (rd % 2 = 0 → ea % 8 ≠ 0 → exec (.ldfD i rd am) s = .next (align ea) ∧ exec (.stfD i rd am) s = .next (align ea))) ∧
    (∀ an a, a = (cx.ar an).toNat → rd % 2 = 0 → a % 4 ≠ 0 → (0x100000 ≤ a ∧ a < 0x200000) ∨ (0x10000000 ≤ a ∧ a < 0x14000000) →
      ∀ e ∈ ([.amoAdd i rd an, .amoSwap i rd an, .amoCas i rd an, .amoMax i rd an, .amoOr i rd an] : List Instr), exec e s = .next (align a)) ∧
    (∀ v, addrUpdate cx am = some v → v < 2 ^ 32) ∧
    (am.mode = 1 → addrUpdate cx am = some (((cx.ar am.an).toNat + ((BitVec.ofNat 11 am.off).signExtend 32).toNat) % 2 ^ 32))

/-- RESERVE_WRITE (R176): what the Miller drops and logs, what it takes, and the budget that the next admission sees. The row is a write of MILLER_CTRL, so
one that does not reach the page is what BusAccess says of that write. -/
def Obligations.ReserveWriteRule : Prop :=
  (∀ (s : State) (fn h data : Nat), h < 2 → exec (.reserveWrite fn h data) s = exec (.registerWrite fn (regAddr T.miller h 0x40) 4 data false) s) ∧
  ∀ (s : State) (fn h data r : Nat), r = data / 256 % 256 → h < 2 → data < 2 ^ 32 → Reaches s fn T.miller h →
    (s.noRegs T.miller h 0x40 = true → exec (.reserveWrite fn h data) s = .next s) ∧ (s.noRegs T.miller h 0x40 = false →
    ((r < 5 ∨ 30 < r) →
      exec (.reserveWrite fn h data) s = .next ((s.logErr T.miller h 5 fn (regAddr T.miller h 0x40) data).raise T.miller h I.MILLER_RESERVE_REFUSED)) ∧
    (5 ≤ r → r ≤ 30 → (∃ k, k < 640 ∧ 1400 - 14 * r - 44 < s.stoneGrains (640 * h + k)) →
      exec (.reserveWrite fn h data) s = .next ((s.logErr T.miller h 5 fn (regAddr T.miller h 0x40) data).raise T.miller h I.MILLER_RESERVE_REFUSED)) ∧
    (∀ t, t = (s.logErr T.miller h 5 fn (regAddr T.miller h 0x40) data).raise T.miller h I.MILLER_RESERVE_REFUSED →
      causeSet t T.miller h I.MILLER_RESERVE_REFUSED ∧ t.fget F.MILLER_CTRL_RESERVE h = s.fget F.MILLER_CTRL_RESERVE h ∧ t.budget h = s.budget h ∧ t.sch = s.sch ∧
        SameRegsBut s t (causeAt T.miller h :: errLogAt T.miller h)) ∧
    (5 ≤ r → r ≤ 30 → (∀ k, k < 640 → s.stoneGrains (640 * h + k) ≤ 1400 - 14 * r - 44) →
      ∃ t, exec (.reserveWrite fn h data) s = .next t ∧ t.fget F.MILLER_CTRL_RESERVE h = r ∧ t.budget h = 1400 - 14 * r - 44 ∧
        t.fget F.MILLER_CTRL_ADMIT_EN h = data % 2 ∧ t.fget F.MILLER_CTRL_DEFER_EN h = data / 2 % 2 ∧ (r < s.fget F.MILLER_CTRL_RESERVE h → s.fget F.MILLER_CTRL_RESERVE h ≤ 96 → s.budget h < t.budget h) ∧
        (∀ n, t.stoneGrains n = s.stoneGrains n) ∧ SameRegsBut s t [fieldAt F.MILLER_CTRL_RESERVE h] ∧ t = { s with regs := t.regs }))

/-- BOLTER_JOB_DONE and the doorway store (R254, R259 to R261, R266 to R274, R283, R292, R434). -/
def Obligations.BolterJobs : Prop :=
  (∀ (c : SecCoef) (st : SecSt) (x v q y : Int), v = c.b0 * x + c.b1 * st.x1 + c.b2 * st.x2 - c.a1 * st.y1 - c.a2 * st.y2 →
    |2 * (q * 2 ^ 29 - v)| ≤ 2 ^ 29 → (|2 * (q * 2 ^ 29 - v)| = 2 ^ 29 → q % 2 = 0) → y = max (-2 ^ 39) (min q (2 ^ 39 - 1)) →
    runSection c st x = (y, ⟨x, st.x1, y, st.y1⟩, decide (y ≠ q))) ∧
  (∀ (s : State) (i : Issue) (c slot rd u n win v : Nat) (am : Amode) (x : Stone) (cx : Ctx), slot < 2 → Lone s i slot c → rd < 32 → am.mode ≤ 4 → (am.mode = 2 → am.off % 2048 < 32) →
    n = issueStone i → x = s.stone n → cx = x.cx c → x.running = some u → win = (x.cx u).win → effAddr cx am = win + 0x41F8 → win + 0x4200 ≤ 2 ^ 16 → win % 4 = 0 →
    circFault cx am = false → v = (cx.dr rd).toNat →
    ∃ t, exec (.stW i rd am) s = .next t ∧ (t.stone n).dm = ((s.boltSubmit n win v).stone n).dm ∧ t.mills = (s.boltSubmit n win v).mills ∧ t.regs = (s.boltSubmit n win v).regs ∧
      SameStonesBut s t [n]) ∧
  (∀ (s : State) (n win desc m : Nat) (dm : Tab Byte), m = n / 16 → dm = (s.stone n).dm →
    (desc % 8 ≠ 0 ∨ inWin win desc 16 = false → ∃ t, s.boltSubmit n win desc = t ∧ t.fget F.BOLT_ERRCNT_COUNT m = min (s.fget F.BOLT_ERRCNT_COUNT m + 1) (2 ^ F.BOLT_ERRCNT_COUNT.w - 1) ∧
      (s.fbit F.BOLT_ERR_VALID m = false → t.rd T.mill m 0x234 = 2 ^ 31 + n % 16 * 65536 + 0x14) ∧ t = { s with regs := t.regs } ∧
      SameRegsBut s t [fieldAt F.BOLT_ERRCNT_COUNT m, fieldAt F.BOLT_ERR_VALID m]) ∧
    (desc % 8 = 0 → inWin win desc 16 = true → inWin win desc (16 + 16 * memRead dm (desc + 2) 1) = true →
      (∀ code, jobCheck (s.mill m) dm (n % 16) win (s.karea m) desc = some code → ∃ t, s.boltSubmit n win desc = t ∧ (t.stone n).dm = memWrite dm (desc + 8) 4 code ∧
        t.fget F.BOLT_ERRCNT_COUNT m = min (s.fget F.BOLT_ERRCNT_COUNT m + 1) (2 ^ F.BOLT_ERRCNT_COUNT.w - 1) ∧ t.mills = s.mills ∧ SameStonesBut s t [n] ∧
        t = { s with regs := t.regs, stones := t.stones }) ∧
      (jobCheck (s.mill m) dm (n % 16) win (s.karea m) desc = none → ∃ t j, s.boltSubmit n win desc = t ∧ (t.mill m).jobs = (s.mill m).jobs ++ [j] ∧ j.stone = n % 16 ∧ j.desc = desc ∧
        j.nsamp = memRead dm desc 2 ∧ j.inp = memRead dm (desc + 4) 4 ∧ j.entries.length = memRead dm (desc + 2) 1 ∧ j.beforeSwap = [] ∧ t = { s with mills := t.mills }))) ∧
  (∀ (x : MillSt) (dm : Tab Byte) (stone win karea desc : Nat),
    ((∃ j ∈ x.jobs, j.stone = stone) → jobCheck x dm stone win karea desc = some 0x13) ∧
    ((∀ j ∈ x.jobs, j.stone ≠ stone) → memRead dm desc 2 = 0 ∨ 1024 < memRead dm desc 2 ∨ memRead dm (desc + 2) 1 = 0 ∨ 8 < memRead dm (desc + 2) 1 → jobCheck x dm stone win karea desc = some 0x10)) ∧
  (∀ (s : State) (n : Nat), (s.mill (n / 16)).stopped = true ∨ (∀ j ∈ (s.mill (n / 16)).jobs, j.stone ≠ n % 16) → ∀ chk, exec (.bolterJobDone ⟨n, chk⟩) s = .next s) ∧
  (∀ (s : State) (n d : Nat), (s.mill (n / 16)).stopped = false → (∃ j ∈ (s.mill (n / 16)).jobs, j.stone = n % 16) →
    exec (.bolterJobDone ⟨n, .bad⟩) s = .next (s.hwFault (n / 16) 0x15) ∧ exec (.bolterJobDone ⟨n, .corrected d⟩) s = exec (.bolterJobDone ⟨n, .ok⟩) ((s.finc F.MILL_ECC_CE (n / 16)).emit (.fault T.mill (n / 16)))) ∧
  (∀ (s : State) (n m : Nat) (x : MillSt) (j : Job) (e : JobEntry) (r : ChainRun) (cfg : Nat) (dm : Tab Byte), m = n / 16 → x = s.mill m → x.stopped = false → x.jobs = [j] → j.stone = n % 16 →
    j.entries = [e] → dm = (s.stone n).dm → r = runEntry x dm (jobInput dm x.bin j) e → cfg = (x.chain e.chain).cfg0 →
    ∃ t, exec (.bolterJobDone ⟨n, .ok⟩) s = .next t ∧ (t.mill m) = { x with jobs := [] } ∧ memRead (t.stone n).dm (j.desc + 8) 4 = (if r.secSat = 0 ∧ r.outSat = 0 then 1 else 2) ∧
      (∀ a, (a < e.out ∨ e.out + r.outs.length * (if cfgOfmt cfg = 0 then 2 else 4) ≤ a) → (a < e.state ∨ e.state + 16 + 32 * r.secs.length ≤ a) → (a < j.desc + 8 ∨ j.desc + 12 ≤ a) →
        (a < j.desc + 28 ∨ j.desc + 32 ≤ a) → memByte (t.stone n).dm a = memByte dm a) ∧
      SameStonesBut s t [n] ∧ t = { s with stones := t.stones, mills := t.mills, ctrs := t.ctrs, regs := t.regs } ∧ (s.fbit F.BOLT_CTRL_CNT_EN m = false → t.ctrs = s.ctrs ∧ t.regs = s.regs) ∧
      (s.fbit F.BOLT_CTRL_CNT_EN m = true → t.cget C.BOLT_JOBS m = (s.cget C.BOLT_JOBS m + 1) % 2 ^ 64 ∧ t.cget C.BOLT_SS m = (s.cget C.BOLT_SS m + entrySamples cfg j.nsamp) % 2 ^ 64 ∧
        SameRegsBut s t [fieldAt F.BOLT_SAT_SEC_SAT m, fieldAt F.BOLT_SAT_OUT_SAT m]))

/-- STONE_HALT, STONE_STEP, STONE_RESUME, ICINV, BIN_SPLIT_WRITE, WINDOW_READ, WINDOW_WRITE, CHAIN_CONFIG_WRITE, BANK_SWAP, COEF_ACCESS and DOORBELL_MESSAGE
(R24, R131, R132, R147, R150, R153, R154, R158, R258, R263 to R265, R281, R289, R482, R483). Each row but the message is one access of its register, so one that
does not reach the page is what BusAccess says of that access; `keepShadow` is R23's. That STEP takes a pending fault first and starts a staged context is the model's reading
(log entry 339), as is what an index of no register reads (log entry 111). -/
def Obligations.MillPageAccesses : Prop :=
  (∀ (s : State) (fn m k data : Nat), m < 128 → k < 16 →
    (∀ e ∈ ([(.stoneHalt fn m k, 0x104 + 16 * k, 1), (.stoneStep fn m k, 0x104 + 16 * k, 2), (.stoneResume fn m k, 0x104 + 16 * k, 4), (.icinv fn m data, 0x40, setBitN data 8),
        (.binSplitWrite fn m data, 0x4C, data), (.windowWrite fn m data, 0x84, data), (.chainConfigWrite fn m data, 0x20C, data), (.bankSwap fn m data, 0x214, data),
        (.coefAccess fn m (some data), 0x21C, data)] : List (Instr × Nat × Nat)),
      exec e.1 s = exec (.registerWrite fn (regAddr T.mill m e.2.1) 4 e.2.2 false) s ∧
      (Reaches s fn T.mill m → s.frozen T.mill m = true → data < 2 ^ 32 → exec e.1 s = .next (s.logErr T.row (rowOf m) 5 fn (regAddr T.mill m e.2.1) e.2.2))) ∧
    (∀ e ∈ ([(.windowRead fn m, 0x84), (.coefAccess fn m none, 0x21C)] : List (Instr × Nat)), exec e.1 s = exec (.readClear fn (regAddr T.mill m e.2) 4) s)) ∧
  (∀ (s : State) (fn m k n off : Nat) (x : Stone), Reaches s fn T.mill m → s.frozen T.mill m = false → k < 16 → n = 16 * m + k → off = 0x104 + 16 * k → x = s.stone n →
    (s.debugUnlocked = false → ∀ e ∈ [(Instr.stoneHalt fn m k, 1), (.stoneStep fn m k, 2), (.stoneResume fn m k, 4)], exec e.1 s =
      .next (((s.fset F.MILL_WIN_STAT_DENIED m 1).logErr T.mill m 5 fn (regAddr T.mill m off) e.2).keepShadow m off)) ∧
    (s.debugUnlocked = true →
      (x.halted = false → exec (.stoneStep fn m k) s = .next (s.keepShadow m off) ∧ exec (.stoneResume fn m k) s = .next (s.keepShadow m off) ∧
        (x.nextFault = none → ∃ t, exec (.stoneHalt fn m k) s = .next t ∧ t.stone n = { x.drain with halted := true } ∧ causeSet t T.mill m I.MILL_HALTED ∧ SameRegsBut s t [causeAt T.mill m] ∧ SameStonesBut s t [n] ∧
          t = { s with stones := t.stones, regs := t.regs, out := t.out, shadow := t.shadow }) ∧
        (∀ f u, x.nextFault = some f → u = takeFault n f s → exec (.stoneHalt fn m k) s =
          .next (((u.setStone n { (u.stone n).drain with halted := true }).raise T.mill m I.MILL_HALTED).keepShadow m off))) ∧
      (x.halted = true → exec (.stoneHalt fn m k) s = .next (s.keepShadow m off) ∧
        (∀ (u : State) (y z : Stone), u = (match x.nextFault with | some f => takeFault n f s | none => s) → y = u.stone n → z = { { y with halted := false }.startNext with halted := true } → z.held = false →
          exec (.stoneStep fn m k) s = .next ((u.setStone n { z with stepping := z.active.isSome }).keepShadow m off)) ∧
        (x.held = false → exec (.stoneResume fn m k) s = .next ((s.setStone n { x with halted := false, stepping := false }.startNext).keepShadow m off))))) ∧
  (∀ (s : State) (fn m data : Nat), Reaches s fn T.mill m → s.frozen T.mill m = false → data < 2 ^ 32 →
    (s.millBusy m ≠ 0 → exec (.icinv fn m data) s = .next ((s.logErr T.mill m 5 fn (regAddr T.mill m 0x40) (setBitN data 8)).keepShadow m 0x40)) ∧
    (s.millBusy m = 0 → ∃ t, exec (.icinv fn m data) s = .next t ∧ (∀ k, k < 16 → t.stone (16 * m + k) = { s.stone (16 * m + k) with ic := [] }) ∧ t.fget F.MILL_CTRL_CNT_EN m = setBitN data 8 % 2 ∧
      SameRegsBut s t [fieldAt F.MILL_CTRL_CNT_EN m] ∧ (∀ n, n / 16 ≠ m → t.stone n = s.stone n) ∧ t = { s with stones := t.stones, regs := t.regs, shadow := t.shadow }) ∧
    (bitAt (s.rd T.mill m 0x10) 31 = false →
      (data % 16 = 0 ∨ 8 < data % 16 ∨ s.millBusy m ≠ 0 → exec (.binSplitWrite fn m data) s = .next ((s.logErr T.mill m 5 fn (regAddr T.mill m 0x4C) data).keepShadow m 0x4C)) ∧
      (0 < data % 16 → data % 16 ≤ 8 → s.millBusy m = 0 → ∃ t, exec (.binSplitWrite fn m data) s = .next t ∧ t.karea m = data % 16 * 65536 ∧
        (∀ k, k < 16 → t.stone (16 * m + k) = { s.stone (16 * m + k) with ic := [] }) ∧ SameRegsBut s t [fieldAt F.MILL_BIN_SPLIT_KAREA m] ∧
        t = { s with stones := t.stones, regs := t.regs, shadow := t.shadow })) ∧
    (bitAt (s.rd T.mill m 0x10) 31 = true →
      (data % 16 ≠ s.fget F.MILL_BIN_SPLIT_KAREA m → exec (.binSplitWrite fn m data) s = .next ((s.logErr T.mill m 4 fn (regAddr T.mill m 0x4C) data).keepShadow m 0x4C)) ∧
      (data % 16 = s.fget F.MILL_BIN_SPLIT_KAREA m → exec (.binSplitWrite fn m data) s = .next (s.keepShadow m 0x4C)))) ∧
  (∀ (s : State) (fn m reg c : Nat) (x : Stone), Reaches s fn T.mill m → s.frozen T.mill m = false → reg = s.fget F.MILL_WIN_SEL_REG m → c = s.fget F.MILL_WIN_SEL_CTX m → x = s.stone (16 * m + s.fget F.MILL_WIN_SEL_STONE m) →
    (winGuarded reg = true → s.windowRights fn m = false → exec (.windowRead fn m) s = .next ((s.deny m).emit (.readData fn (regAddr T.mill m 0x84) 0))) ∧
    (x.halted = true → s.windowRights fn m = true → (∀ r, r < 32 → reg = r → exec (.windowRead fn m) s = .next (s.emit (.readData fn (regAddr T.mill m 0x84) ((x.cx c).dr r).toNat))) ∧
      (reg = 0x50 → exec (.windowRead fn m) s = .next (s.emit (.readData fn (regAddr T.mill m 0x84) (x.cx c).pc)))) ∧
    (x.halted = false → s.windowRights fn m = true → reg < 0x20 → c ≠ 3 → (x.cx c).st = .running →
      exec (.windowRead fn m) s = .next ((s.fset F.MILL_WIN_STAT_BUSY m 1).emit (.readData fn (regAddr T.mill m 0x84) 0))) ∧
    (0x55 ≤ reg → reg ≤ 0x57 → s.windowRights fn m = true → exec (.windowRead fn m) s = .next (s.emit (.readData fn (regAddr T.mill m 0x84) 0))) ∧
    (∀ v, v < 2 ^ 32 → x.halted = false ∨ s.debugUnlocked = false → exec (.windowWrite fn m v) s = .next (((s.deny m).logErr T.mill m 6 fn (regAddr T.mill m 0x84) v).keepShadow m 0x84)) ∧
    (∀ v, v < 2 ^ 32 → x.halted = true → s.debugUnlocked = true → winKnown reg = false →
      exec (.windowWrite fn m v) s = .next ((s.logErr T.mill m 5 fn (regAddr T.mill m 0x84) v).keepShadow m 0x84)) ∧
    (∀ v r, v < 2 ^ 32 → x.halted = true → s.debugUnlocked = true → reg = r → r < 32 → ∃ t, exec (.windowWrite fn m v) s = .next t ∧
      t = (s.setStone (16 * m + s.fget F.MILL_WIN_SEL_STONE m) (x.setCx c { x.cx c with d := regSet (x.cx c).d r (BitVec.ofNat 32 v) })).keepShadow m 0x84)) ∧
  (∀ (s : State) (fn m data c : Nat) (x : MillSt) (ch : Chain) (logged : Nat → Nat → State), Reaches s fn T.mill m → s.frozen T.mill m = false → data < 2 ^ 32 → c = s.fget F.BOLT_CHAIN_SEL_CHAIN m → x = s.mill m → ch = x.chain c →
    (∀ off v, logged off v = s.logErr T.mill m 5 fn (regAddr T.mill m off) v) →
    (s.windowRights fn m = false → exec (.chainConfigWrite fn m data) s = .next (((s.deny m).logErr T.mill m 6 fn (regAddr T.mill m 0x20C) data).keepShadow m 0x20C) ∧
      exec (.bankSwap fn m data) s = .next (((s.deny m).logErr T.mill m 6 fn (regAddr T.mill m 0x214) data).keepShadow m 0x214) ∧
      exec (.coefAccess fn m (some data)) s = .next ((((s.deny m).logErr T.mill m 6 fn (regAddr T.mill m 0x21C) data).coefAdvance m).keepShadow m 0x21C) ∧
      exec (.coefAccess fn m none) s = .next (((s.deny m).coefAdvance m).emit (.readData fn (regAddr T.mill m 0x21C) 0))) ∧
    (s.windowRights fn m = true →
      (c < 16 → exec (.chainConfigWrite fn m data) s = .next ((logged 0x20C data).keepShadow m 0x20C) ∧ exec (.bankSwap fn m data) s = .next ((logged 0x214 data).keepShadow m 0x214)) ∧
      (16 ≤ c → cfgEn ch.cfg0 = true ∨ x.inUse c = true → cfgMask data ≠ ch.cfg0 → cfgMask data + 2 ^ 31 ≠ ch.cfg0 → exec (.chainConfigWrite fn m data) s = .next ((logged 0x20C data).keepShadow m 0x20C)) ∧
      (16 ≤ c → cfgEn ch.cfg0 = false → x.inUse c = false → cfgRangeOk (cfgMask data) = true → cfgMask data + 2 ^ 31 ≠ ch.cfg0 → cfgMask data ≠ ch.cfg0 →
        ∃ t, exec (.chainConfigWrite fn m data) s = .next t ∧ ((t.mill m).chain c).cfg0 = cfgMask data ∧ (∀ d, d ≠ c → (t.mill m).chain d = x.chain d) ∧ (t.mill m).jobs = x.jobs ∧
          t = { s with mills := t.mills, image := t.image, shadow := t.shadow }) ∧
      (16 ≤ c → bitAt data 0 = false → exec (.bankSwap fn m data) s = .next (s.keepShadow m 0x214)) ∧
      (16 ≤ c → bitAt data 0 = true → x.swapPend c = true → exec (.bankSwap fn m data) s = .next ((logged 0x214 data).keepShadow m 0x214)) ∧
      (16 ≤ c → bitAt data 0 = true → x.swapPend c = false → ∃ t, exec (.bankSwap fn m data) s = .next t ∧ ((t.mill m).chain c).active = 1 - ch.active ∧
        ((t.mill m).chain c).swapgen = (ch.swapgen + 1) % 256 ∧ ((t.mill m).chain c).cfg0 = ch.cfg0 ∧ (∀ d, d ≠ c → (t.mill m).chain d = x.chain d) ∧ ((t.mill m).swapPend c = x.inUse c) ∧
        t = { s with mills := t.mills, image := t.image, shadow := t.shadow }) ∧
      (∃ t, exec (.coefAccess fn m none) s = .next t ∧ t.out = s.out ++ [.readData fn (regAddr T.mill m 0x21C) (x.coefAt (s.fget F.BOLT_COEF_SEL_BANK m) (s.fget F.BOLT_COEF_SEL_SECTION m) (s.fget F.BOLT_COEF_SEL_COEF m))] ∧
        (s.fget F.BOLT_COEF_SEL_COEF m < 4 → t.fget F.BOLT_COEF_SEL_COEF m = s.fget F.BOLT_COEF_SEL_COEF m + 1 ∧ t.fget F.BOLT_COEF_SEL_SECTION m = s.fget F.BOLT_COEF_SEL_SECTION m) ∧
        (4 ≤ s.fget F.BOLT_COEF_SEL_COEF m → t.fget F.BOLT_COEF_SEL_COEF m = 0 ∧ t.fget F.BOLT_COEF_SEL_SECTION m = (s.fget F.BOLT_COEF_SEL_SECTION m + 1) % 256) ∧
        SameRegsBut s t [fieldAt F.BOLT_COEF_SEL_COEF m] ∧ t = { s with regs := t.regs, out := t.out }) ∧
      (∀ sec b, sec = s.fget F.BOLT_COEF_SEL_SECTION m → b = s.fget F.BOLT_COEF_SEL_BANK m →
        (x.coefWritable sec b = false → exec (.coefAccess fn m (some data)) s = .next (((logged 0x21C data).coefAdvance m).keepShadow m 0x21C)) ∧
        (x.coefWritable sec b = true → s.fget F.BOLT_COEF_SEL_COEF m < 5 → ∃ t, exec (.coefAccess fn m (some data)) s = .next t ∧
          (t.mill m).coef = Tab.set (fun _ => 0) x.coef ((b * 256 + sec) * 8 + s.fget F.BOLT_COEF_SEL_COEF m) (data % 2 ^ 32) ∧ (t.mill m).chains = x.chains ∧
          t = { s with mills := t.mills, image := t.image, regs := t.regs, shadow := t.shadow })))) ∧
  (∀ (s : State) (who m k bits epoch : Nat), (s.fuse.mills ≤ m ∨ 16 ≤ k → exec (.doorbellMessage who m k bits epoch) s = .next s) ∧
    (m < s.fuse.mills → k < 16 → s.roleOfMill m = none → ∃ t, exec (.doorbellMessage who m k bits epoch) s = .next t ∧ .nack who ∈ t.out ∧ causeSet t T.dike who I.DIKE_STALE ∧
      t.fget F.DIKE_COUNTS_STALE who = min (s.fget F.DIKE_COUNTS_STALE who + 1) (2 ^ F.DIKE_COUNTS_STALE.w - 1) ∧ t.stones = s.stones)) ∧
  (∀ (s : State) (who m k bits epoch q : Nat), s.roleOfMill m = some q →
    (m < s.fuse.mills → k < 16 →
      (s.roleHeld q = true → exec (.doorbellMessage who m k bits epoch) s = .next { s with pol := { s.pol with held := s.pol.held ++ [⟨who, q, epoch, k, bits, none, none⟩] } }) ∧
      (s.roleHeld q = false → epoch ≠ s.fget F.MILL_ROLE_EPOCH m → ∃ t, exec (.doorbellMessage who m k bits epoch) s = .next t ∧ .nack who ∈ t.out ∧ causeSet t T.dike who I.DIKE_STALE ∧
        t.fget F.DIKE_COUNTS_STALE who = min (s.fget F.DIKE_COUNTS_STALE who + 1) (2 ^ F.DIKE_COUNTS_STALE.w - 1) ∧ t.stones = s.stones) ∧
      (s.roleHeld q = false → epoch = s.fget F.MILL_ROLE_EPOCH m →
        (s.frozen T.mill m = true → exec (.doorbellMessage who m k bits epoch) s = .next s) ∧
        (s.frozen T.mill m = false → exec (.doorbellMessage who m k bits epoch) s = .next (s.setStone (16 * m + k)
          { s.stone (16 * m + k) with dbpend := (s.stone (16 * m + k)).dbpend ||| bits % 256, dbNew := (s.stone (16 * m + k)).dbNew ||| bits % 256 })))))

/-- LOOKUP, CLASSIFIER_SLOT_REWRITE, CLASSIFIER_COMPARE and RTCP_SEND (R293 to R301, R304, R305, R308, R322, R346). The order of a frame's checks and LOOKUP_BUSY with
EN = 0 are readings (log entries 180 and 182), a frame waiting while the engine does not run is the model's choice (log entry 33); the hashes are opaque
(log entry 179). -/
def Obligations.LookupAndRtcp : Prop :=
  (∀ (s : State) (h : Nat) (up : Option ClsUpset) (bo cb : Bool), (s.clsf h).waiting = [] → exec (.lookup h up bo cb) s = .next s) ∧
  (∀ (s s0 : State) (h : Nat) (up : Option ClsUpset) (bo cb : Bool) (f : RxFrame) (rest : List RxFrame) (q : Parsed), (s.clsf h).waiting = f :: rest → s0 = s.setCls h { s.clsf h with waiting := rest } →
    q = parseFrame f.data →
    (s.fbit F.CLS_CTRL_EN h = false → exec (.lookup h up bo cb) s = .next (s0.exception h ((s.framePolder h f).getD 0) 0x0C 0 f)) ∧
    (s.fbit F.CLS_CTRL_EN h = true →
      (s.framePolder h f = none → exec (.lookup h up bo cb) s = .next (s0.exception h 0 5 0 f)) ∧
      (∀ p, s.framePolder h f = some p →
        (f.flags ≠ 0 → exec (.lookup h up bo cb) s = .next (s0.exception h p 7 0 f)) ∧
        (∀ j ok, f.flags = 0 → s.bulkRule f = some (j, ok) → exec (.lookup h up bo cb) s = .next (s0.bulkIn h p j ok f)) ∧
        (f.flags = 0 → s.bulkRule f = none →
          (q.bad ≠ 0 → exec (.lookup h up bo cb) s = .next (s0.exception h p q.bad 0 f)) ∧
          (∀ (u : State) (own r : Look), q.bad = 0 →
            u = (match up with
              | none => s0.cinc C.CLS_LOOKUPS h
              | some e => if e.pos ∈ s.candidates q.key then
                  (if bo then ((s0.cinc C.CLS_LOOKUPS h).upsetAt h e.pos e.tag).upsetAt (1 - h) e.pos e.tag else (s0.cinc C.CLS_LOOKUPS h).upsetAt h e.pos e.tag)
                else s0.cinc C.CLS_LOOKUPS h) →
            own = u.look h q.key → r = (if own = .bad then u.look (1 - h) q.key else own) → ∀ v, v = (if own = .bad then (u.finc F.CLS_EVENTS_PSLOT h).raise T.classifier h I.CLASSIFIER_PSLOT else u) →
            (r = .miss ∨ r = .bad → exec (.lookup h up bo cb) s = .next (v.exception h p 1 0 f)) ∧
            (∀ x, r = .hit x →
              (x.st = 1 → exec (.lookup h up bo cb) s = .next (v.exception h p 2 x.stream f)) ∧
              (x.st ≠ 1 → exec (.lookup h up bo cb) s = .next (v.byStamp x.stream f.stamp fun t => t.deliver h x.stream x.portmode cb f q p)))))))) ∧
  (∀ (s : State) (h : Nat) (f : RxFrame) (vlan : Nat), vlan = (if f.flags = 0 then (parseFrame f.data).vlan else 0) →
    (∀ p, s.framePolder h f = some p ↔ s.vlanPolder h vlan = some p ∧ s.fget F.DIKE_STAT_STATE p = 2)) ∧
  (∀ (s : State) (h : Nat) (k : ClsKey) (stash : List (Nat × Slot)) (skip : Nat → Prop), stash = (s.clsf h).slots.filter (fun e => decide (clsSlots ≤ e.1) && e.2.st != 0 && e.2.key == k) →
    (∀ pos, skip pos ↔ (s.tagAt h pos = s.clsTag k → (s.slot h pos).bad = false ∧ ((s.slot h pos).st = 0 ∨ (s.slot h pos).key ≠ k))) →
    (s.candidates k).Pairwise (· < ·) ∧ (s.candidates k).length = 8 ∧ (∀ pos ∈ s.candidates k, pos < clsSlots) ∧
    (∀ e l, stash = e :: l → s.look h k = .hit e.2) ∧
    (stash = [] →
      ((∃ pos ∈ s.candidates k, (s.clsf h).badTags.contains pos = true) → s.look h k = .bad) ∧
      ((∀ pos ∈ s.candidates k, (s.clsf h).badTags.contains pos = false) →
        ((∀ pos ∈ s.candidates k, skip pos) → s.look h k = .miss) ∧
        (∀ l pos m, s.candidates k = l ++ pos :: m → (∀ a ∈ l, skip a) → ¬ skip pos →
          ((s.slot h pos).bad = true → s.look h k = .bad) ∧ ((s.slot h pos).bad = false → s.look h k = .hit (s.slot h pos)))))) ∧
  (∀ (s : State) (h p reason stream : Nat) (f : RxFrame), reason ≠ 1 → reason ≠ 0x0C →
    ((s.excWeir h p f.stamp).2 = false → (s.exception h p reason stream f).cget C.SPILL_EWEIR 0 p = (s.cget C.SPILL_EWEIR 0 p + 1) % 2 ^ 64 ∧ (s.exception h p reason stream f).qs = s.qs) ∧
    ((s.excWeir h p f.stamp).2 = true → ∃ (u : State) (it : QItem), s.exception h p reason stream f = (u.qAppend (qHost p 0) h it none).1 ∧ u.qs = s.qs ∧ it.stream = stream ∧
      it.data.length = 16 + min f.data.length 1648 ∧ it.data.drop 16 = f.data.take 1648 ∧ it.data[12]? = some (BitVec.ofNat 8 f.port) ∧ it.data[13]? = some (BitVec.ofNat 8 reason))) ∧
  (∀ (pm dport : Nat) (pl : List Byte) (b0 b1 : Nat), b0 = leAt pl 0 1 → b1 = leAt pl 1 1 →
    (b0 < 128 ∨ 191 < b0 → matchOf pm dport pl = .nonRtp) ∧
    (128 ≤ b0 → b0 ≤ 191 →
      (pm = 0 → matchOf pm dport pl = if dport % 2 = 0 then .rtp else .none) ∧ (pm = 1 → matchOf pm dport pl = if dport % 2 = 0 then .rtp else .rtcp) ∧
      (pm = 2 → matchOf pm dport pl = if dport % 2 = 1 then .none else if 192 ≤ b1 ∧ b1 ≤ 223 then .rtcp else .rtp))) ∧
  (∀ (s : State) (h i pm p : Nat) (cb : Bool) (f : RxFrame) (q : Parsed),
    (matchOf pm q.dport q.payload = .none → s.deliver h i pm cb f q p = s.exception h p 1 0 f) ∧
    (matchOf pm q.dport q.payload ≠ .none → s.fbit F.STREAM_CTRL_EN h = false → s.deliver h i pm cb f q p = s.setCls h { s.clsf h with waiting := f :: (s.clsf h).waiting }) ∧
    (∀ m, s.fbit F.STREAM_CTRL_EN h = true → m = matchOf pm q.dport q.payload → m = .rtp ∨ m = .rtcp → srcOk (s.strm i) q (m == .rtcp) = false → s.deliver h i pm cb f q p = s.streamExc h i 9 f) ∧
    (∀ m, s.fbit F.STREAM_CTRL_EN h = true → m = matchOf pm q.dport q.payload → m = .nonRtp ∨ ((m = .rtp ∨ m = .rtcp) ∧ srcOk (s.strm i) q (m == .rtcp) = true) → (s.weirs h i (f.data.length + 4) f.stamp).2 = false →
      s.deliver h i pm cb f q p = (s.weirs h i (f.data.length + 4) f.stamp).1 ∧ (s.weirs h i (f.data.length + 4) f.stamp).1.qs = s.qs)) ∧
  (∀ (s : State) (pos : Nat),
    (∀ h, h < 2 → s.posBad h pos = true → s.posBad (1 - h) pos = false → ∃ t, exec (.classifierSlotRewrite pos) s = .next t ∧ t.slot h pos = s.slot (1 - h) pos ∧
      t.tagAt h pos = s.tagAt (1 - h) pos ∧ t.posBad h pos = false ∧ t.clsf (1 - h) = s.clsf (1 - h) ∧ (∀ a, a ≠ pos → t.slot h a = s.slot h a ∧ t.tagAt h a = s.tagAt h a) ∧ t = { s with cls := t.cls }) ∧
    (s.posBad 0 pos = s.posBad 1 pos → ∃ t x, exec (.classifierSlotRewrite pos) s = .next t ∧
      (∀ h, h < 2 → t.slot h pos = x ∧ t.posBad h pos = false ∧ t.tagAt h pos = (if x.st = 0 ∨ clsSlots ≤ pos then 0 else s.clsTag x.key) ∧
        ∀ a, a ≠ pos → t.slot h a = s.slot h a ∧ t.tagAt h a = s.tagAt h a) ∧
      (x.st ≠ 0 → ∃ k, x = s.slotFromStream k ∧ (clsSlots ≤ pos ∨ pos ∈ s.candidates x.key)) ∧ t = { s with cls := t.cls })) ∧
  (∀ (s : State) (pos : Nat) (clean : Option Nat) (a b : Slot) (ta tb : Nat) (used : Prop), a = s.slot 0 pos → b = s.slot 1 pos → ta = s.tagAt 0 pos → tb = s.tagAt 1 pos →
    (used ↔ a.st = b.st ∧ ta = tb ∧ (a.st ≠ 0 → a.key = b.key ∧ a.polder = b.polder ∧ a.stream = b.stream) ∧ (a.st = 2 → a.portmode = b.portmode ∧ a.isAlias = b.isAlias)) →
    (∀ d, exec (.classifierCompare pos (some d) clean) s = exec (.classifierCompare pos none clean) ((s.setSlot (d.copy % 2) pos d.slot).setTag (d.copy % 2) pos d.tag)) ∧
    (s.fbit F.SCRUB_CTRL_CMP_EN 0 = false ∨ s.posBad 0 pos = true ∨ s.posBad 1 pos = true ∨ (used ∧ a = b) → exec (.classifierCompare pos none clean) s = .next s) ∧
    (s.fbit F.SCRUB_CTRL_CMP_EN 0 = true → s.posBad 0 pos = false → s.posBad 1 pos = false →
      (used → a ≠ b → ∃ t, exec (.classifierCompare pos none clean) s = .next t ∧ t.slot 0 pos = (if clean.getD 0 % 2 = 0 then a else b) ∧ t.slot 1 pos = t.slot 0 pos ∧
        (∀ h, h < 2 → t.fget F.CLS_DIVERGE_BENIGN h = min (s.fget F.CLS_DIVERGE_BENIGN h + 1) (2 ^ F.CLS_DIVERGE_BENIGN.w - 1)) ∧ t.out = s.out) ∧
      (¬ used → ∃ t, exec (.classifierCompare pos none clean) s = .next t ∧ t.cls = s.cls ∧ Out.fault T.classifier 0 ∈ t.out ∧ (s.flog.length < 16 → ∃ e, t.flog = s.flog ++ [e] ∧ e.kind = 0x23 ∧ e.inst = 0) ∧
        (∀ h, h < 2 → t.fget F.CLS_DIVERGE_MAJOR h = min (s.fget F.CLS_DIVERGE_MAJOR h + 1) (2 ^ F.CLS_DIVERGE_MAJOR.w - 1) ∧ causeSet t T.classifier h I.CLASSIFIER_DIVERGE_MAJOR)))) ∧
  (∀ (s : State) (n sfd now : Nat) (data : List Byte), n < 16 → s.fbit F.MAC_CTRL_RX_EN n = true → s.linkUp n = true → s.trafficOk n = true → 60 ≤ data.length →
    data.length + 4 ≤ s.fget F.MAC_MAXFRAME_MAX n → beAt data 12 2 ≠ 0x8808 → (s.clsf (n / 8)).waiting.length < 16384 → ∃ t f, exec (.frameReceive n data false false sfd now) s = .next t ∧
      (t.clsf (n / 8)).waiting = (s.clsf (n / 8)).waiting ++ [f] ∧ f.port = n ∧ f.data = data ∧ f.flags = 0) ∧
  (∀ (s : State) (i next n : Nat) (x : Stream), x = s.strm i → n = 1000 * leAt x.desc 0x75 1 →
    (x.st ≠ .active ∨ s.rtcpOn i = false ∨ x.exhausted = true ∨ s.turn < x.rtcpTurn.getD 0 → exec (.rtcpSend i next) s = .next s) ∧
    (x.st = .active → s.rtcpOn i = true → x.exhausted = false → x.rtcpTurn.getD 0 ≤ s.turn → n / 2 ≤ next → next < 3 * n / 2 → ∃ t, exec (.rtcpSend i next) s = .next t ∧
      (t.strm i).rtcpTurn = some (s.turn + next) ∧ (t.strm i).desc = x.desc ∧ (∀ j, j ≠ i → t.strm j = { s.strm j with rrBase := (t.strm j).rrBase } ∧ (s.pairOf i ≠ some j → t.strm j = s.strm j)) ∧
      t.fresh = s.fresh + 1 ∧ t.mem = s.mem ∧ t.sch = s.sch))

/-- PMODE_WRITE, LINK_DOWN, LINK_UP, PCS_LOCK, AN_DONE, LINK_TRAINING_DONE and LT_FAIL, and the squelch of the SyncE outputs (R357, R358, R360, R385, R386,
R389, R390, R401). That LINK_UP clears both faults is the model's reading of R360, step 3 (log entry 173).
PMODE_WRITE is a write of MAC_CTRL, so one that does not reach the page is what BusAccess says of that write. -/
def Obligations.LinkAndLanes : Prop :=
  (∀ (s : State) (j : Nat), j < 2 → ∃ t l, s.synceUpdate = t ∧ l = s.fget F.TIDE_SYNCE_LANE 0 j ∧
    (t.fbit F.TIDE_SYNCE_SQUELCHED 0 j = true ↔ (s.fbit F.TIDE_SYNCE_EN 0 j = false ∨ (s.fbit F.TIDE_SYNCE_SQ_LINK 0 j = true ∧
      (s.fbit F.SERDES_STAT_CDR_LOCK l = false ∨ s.linkUp (if s.pmode l = 3 then l / 2 * 2 else l) = false)))) ∧
    SameRegsBut s t [fieldAt F.TIDE_SYNCE_SQUELCHED 0 0, fieldAt F.TIDE_SYNCE_SQUELCHED 0 1] ∧ t = { s with regs := t.regs }) ∧
  (∀ (s : State) (l pre post : Nat) (sq : List Nat), l < 16 → sq = [fieldAt F.TIDE_SYNCE_SQUELCHED 0 0, fieldAt F.TIDE_SYNCE_SQUELCHED 0 1] →
    (s.fbit F.SERDES_CTRL_EN l = false → exec (.pcsLock l) s = .next s) ∧
    (s.fbit F.SERDES_CTRL_EN l = true → ∃ t, exec (.pcsLock l) s = .next t ∧ t.fbit F.SERDES_STAT_SIGNAL l = true ∧ t.fbit F.SERDES_STAT_CDR_LOCK l = true ∧
      t.fbit F.SERDES_STAT_BLOCK_LOCK l = true ∧ (t.fbit F.SERDES_STAT_AM_LOCK l = true ↔ 2 ≤ s.pmode l) ∧ (t.fbit F.SERDES_STAT_FEC_LOCK l = true ↔ s.fecOf l ≠ 0) ∧
      SameRegsBut s t (fieldAt F.SERDES_STAT_SIGNAL l :: sq) ∧ t = { s with regs := t.regs }) ∧
    (s.fbit F.SERDES_CTRL_EN l = false ∨ s.fbit F.SERDES_CTRL_AN_EN (s.ruleLane l) = false → exec (.anDone l) s = .next s) ∧
    (s.fbit F.SERDES_CTRL_EN l = true → s.fbit F.SERDES_CTRL_AN_EN (s.ruleLane l) = true → ∃ t, exec (.anDone l) s = .next t ∧ t.fbit F.SERDES_STAT_AN_DONE l = true ∧
      causeSet t T.serdes l I.SERDES_AN_DONE ∧ SameRegsBut s t [fieldAt F.SERDES_STAT_AN_DONE l, causeAt T.serdes l] ∧ t = { s with regs := t.regs, out := t.out }) ∧
    (s.fbit F.SERDES_CTRL_EN l = false ∨ s.fbit F.SERDES_CTRL_LT_EN (s.ruleLane l) = false → exec (.linkTrainingDone l pre post) s = .next s ∧ exec (.ltFail l) s = .next s) ∧
    (s.fbit F.SERDES_CTRL_EN l = true → s.fbit F.SERDES_CTRL_LT_EN (s.ruleLane l) = true →
      (pre < 16 → post < 16 → ∃ t, exec (.linkTrainingDone l pre post) s = .next t ∧ t.fbit F.SERDES_STAT_LT_DONE l = true ∧ t.fget F.SERDES_TXEQ_PRE l = pre ∧ t.fget F.SERDES_TXEQ_POST l = post ∧
        t.fget F.SERDES_TXEQ_MAIN l + pre + post = 48 ∧ SameRegsBut s t [fieldAt F.SERDES_STAT_LT_DONE l, fieldAt F.SERDES_TXEQ_PRE l] ∧ t = { s with regs := t.regs }) ∧
      (s.fbit F.SERDES_STAT_LT_DONE l = true → exec (.ltFail l) s = .next s) ∧
      (s.fbit F.SERDES_STAT_LT_DONE l = false → exec (.ltFail l) s = .next (s.raise T.serdes l I.SERDES_LT_FAIL)))) ∧
  (∀ (s : State) (n : Nat) (c : LinkCause) (own : List Nat), n < 16 → own = [fieldAt F.MAC_STAT_LINK n, causeAt T.mac n, fieldAt F.TIDE_SYNCE_SQUELCHED 0 0, fieldAt F.TIDE_SYNCE_SQUELCHED 0 1] →
    (∃ t, exec (.linkDown n c) s = .next t ∧ t.fbit F.MAC_STAT_LINK n = false ∧ (s.fbit F.MAC_STAT_LINK n = true → causeSet t T.mac n I.MAC_LINK_CHANGE) ∧
      (c = .lock → ∀ l ∈ s.lanesOf n, t.fbit F.SERDES_STAT_CDR_LOCK l = false ∧ t.fbit F.SERDES_STAT_BLOCK_LOCK l = false ∧ t.fbit F.SERDES_STAT_AM_LOCK l = false ∧
        t.fbit F.SERDES_STAT_FEC_LOCK l = false ∧ (s.fbit F.SERDES_STAT_BLOCK_LOCK l = true → causeSet t T.serdes l I.SERDES_LOCK_LOSS)) ∧
      (c = .localFault → t.fbit F.MAC_STAT_LFAULT n = true ∧ t.fbit F.MAC_STAT_RFAULT n = s.fbit F.MAC_STAT_RFAULT n ∧ (s.fbit F.MAC_STAT_LFAULT n = false → causeSet t T.mac n I.MAC_FAULT)) ∧
      (c = .remoteFault → t.fbit F.MAC_STAT_RFAULT n = true ∧ t.fbit F.MAC_STAT_LFAULT n = s.fbit F.MAC_STAT_LFAULT n ∧ (s.fbit F.MAC_STAT_RFAULT n = false → causeSet t T.mac n I.MAC_FAULT)) ∧
      (c ≠ .lock → SameRegsBut s t own) ∧ SameRegsBut s t (own ++ (s.lanesOf n).flatMap fun l => [fieldAt F.SERDES_STAT_CDR_LOCK l, causeAt T.serdes l]) ∧ t = { s with regs := t.regs, out := t.out }) ∧
    ((n % 2 = 1 ∧ s.pmode n = 3) ∨ s.trafficOk n = false ∨ (∃ l ∈ s.lanesOf n, s.fbit F.SERDES_CTRL_EN l = false ∨ s.fbit F.SERDES_STAT_BLOCK_LOCK l = false ∨
      (2 ≤ s.pmode l ∧ s.fbit F.SERDES_STAT_AM_LOCK l = false) ∨ (s.fecOf l ≠ 0 ∧ s.fbit F.SERDES_STAT_FEC_LOCK l = false) ∨
      (s.fbit F.SERDES_CTRL_AN_EN (s.ruleLane l) = true ∧ s.fbit F.SERDES_STAT_AN_DONE (s.ruleLane l) = false) ∨
      (s.fbit F.SERDES_CTRL_LT_EN (s.ruleLane l) = true ∧ s.fbit F.SERDES_STAT_LT_DONE (s.ruleLane l) = false)) → exec (.linkUp n) s = .next s) ∧
    (¬ (n % 2 = 1 ∧ s.pmode n = 3) → s.trafficOk n = true → (∀ l ∈ s.lanesOf n, s.fbit F.SERDES_CTRL_EN l = true ∧ s.fbit F.SERDES_STAT_BLOCK_LOCK l = true ∧
        (2 ≤ s.pmode l → s.fbit F.SERDES_STAT_AM_LOCK l = true) ∧ (s.fecOf l ≠ 0 → s.fbit F.SERDES_STAT_FEC_LOCK l = true) ∧
        (s.fbit F.SERDES_CTRL_AN_EN (s.ruleLane l) = true → s.fbit F.SERDES_STAT_AN_DONE (s.ruleLane l) = true) ∧
        (s.fbit F.SERDES_CTRL_LT_EN (s.ruleLane l) = true → s.fbit F.SERDES_STAT_LT_DONE (s.ruleLane l) = true)) →
      ∃ t, exec (.linkUp n) s = .next t ∧ t.fbit F.MAC_STAT_LINK n = true ∧ t.fbit F.MAC_STAT_LFAULT n = false ∧ t.fbit F.MAC_STAT_RFAULT n = false ∧
        (s.fbit F.MAC_STAT_LINK n = false → causeSet t T.mac n I.MAC_LINK_CHANGE) ∧
        (s.fbit F.MAC_STAT_LFAULT n = true ∨ s.fbit F.MAC_STAT_RFAULT n = true → causeSet t T.mac n I.MAC_FAULT) ∧ SameRegsBut s t own ∧ t = { s with regs := t.regs, out := t.out })) ∧
  (∀ (s : State) (fn n data e want : Nat) (strict : List Nat), e = n / 2 * 2 → want = bitField data 8 2 → strict = [fieldAt F.DIKE_ISO_STRICT_OK 0, causeAt T.dike 0] →
    (16 ≤ n → exec (.pmodeWrite fn n data) s = .next s) ∧ (n < 16 → exec (.pmodeWrite fn n data) s = exec (.registerWrite fn (regAddr T.mac n 0x40) 4 data false) s) ∧
    (n < 16 → Reaches s fn T.mac n → data < 2 ^ 32 → ∃ t, exec (.pmodeWrite fn n data) s = .next t ∧ t.fget F.MAC_CTRL_PFC_RX_EN n = data / 16 % 2 ∧ t.fget F.MAC_CTRL_KEEP_BAD n = data / 4 % 2 ∧
      t.fget F.MAC_CTRL_RX_EN n = data / 2 % 2 ∧ t.fget F.MAC_CTRL_TX_EN n = data % 2 ∧ t = { s with regs := t.regs, out := t.out, ports := t.ports } ∧
      (∀ m, t.port m = { s.port m with past := (t.port m).past } ∧ (m ≠ n ∨ (t.fget F.MAC_CTRL_KEEP_BAD n = s.fget F.MAC_CTRL_KEEP_BAD n) → t.port m = s.port m)) ∧
      (want = s.pmode n → t.pmode n = s.pmode n ∧ SameRegsBut s t (fieldAt F.MAC_CTRL_PMODE n :: strict)) ∧
      (want ≠ s.pmode n → (n % 2 = 1 ∨ ∃ m, (m = e ∨ m = e + 1) ∧ (s.fbit F.MAC_CTRL_TX_EN m = true ∨ s.fbit F.MAC_CTRL_RX_EN m = true)) →
        t.pmode n = s.pmode n ∧ t.rd T.mac n 0x34 = min (s.rd T.mac n 0x34 % 65536 + 1) 0xFFFF ∧ SameRegsBut s t (fieldAt F.MAC_CTRL_PMODE n :: errLogAt T.mac n ++ strict)) ∧
      (want ≠ s.pmode n → n % 2 = 0 → (∀ m, (m = e ∨ m = e + 1) → s.fbit F.MAC_CTRL_TX_EN m = false ∧ s.fbit F.MAC_CTRL_RX_EN m = false) → t.pmode n = want ∧
        ∀ m, (m = e ∨ m = e + 1) → t.fbit F.MAC_STAT_LINK m = false ∧ t.fbit F.SERDES_STAT_BLOCK_LOCK m = false ∧ t.fbit F.SERDES_STAT_AN_DONE m = false ∧
          t.fbit F.SERDES_STAT_LT_DONE m = false ∧ (s.fbit F.MAC_STAT_LINK m = true → causeSet t T.mac m I.MAC_LINK_CHANGE))))

/-- FRAME_RECEIVE, PFC_FRAME_RECEIVE, PFC_PAUSE_EXPIRE and PFC_TX_REQUEST (R299, R355, R361 to R363, R367, R368, R382, R387, R388, R402, R417). KEEP_BAD and RX_ADJ
are those of the frame's first byte (`portAt`; that they are kept for the frames in flight is the model's reading, log entry 376). The stamp of a mode and FEC outside
the table of R402 is a free value (log entry 172), and so is LOOKUP_BUSY with EN = 0 a reading (log entry 182). PFC_TX_REQUEST is a write of MAC_PFC_TX, so one that does not reach the page is what BusAccess says of that write. -/
def Obligations.ReceiveAndPause : Prop :=
  (∀ (s : State) (n t : Nat),
    ((∀ e ∈ (s.port n).past, e.at' < t) → s.portAt n t = ⟨t, s.fbit F.MAC_CTRL_KEEP_BAD n, s.fget F.TIDE_PORT_ADJ_RX_ADJ 0 n⟩) ∧
    (∀ l e r, (s.port n).past = l ++ e :: r → t ≤ e.at' → (∀ x ∈ r, x.at' < t) → s.portAt n t = e)) ∧
  (∀ (s : State) (n sfd now : Nat) (data : List Byte) (fcsBad codeErr : Bool), n < 16 →
    (s.fbit F.MAC_CTRL_RX_EN n = false ∨ s.linkUp n = false ∨ s.trafficOk n = false → exec (.frameReceive n data fcsBad codeErr sfd now) s = .next s) ∧
    (s.fbit F.MAC_CTRL_RX_EN n = true → s.linkUp n = true → s.trafficOk n = true →
      (fcsBad = false → codeErr = false → 60 ≤ data.length → data.length + 4 ≤ s.fget F.MAC_MAXFRAME_MAX n →
        (beAt data 12 2 ≠ 0x8808 → ∀ c, c = s.clsf (n / 8) →
          (c.waiting.length < 16384 → ∃ t f, exec (.frameReceive n data fcsBad codeErr sfd now) s = .next t ∧ (t.clsf (n / 8)) = { c with waiting := c.waiting ++ [f] } ∧ f.port = n ∧ f.data = data ∧ f.flags = 0 ∧
            (∀ lt lr, latency (s.pmode n) (s.fecOf n) = some (lt, lr) → t.fresh = s.fresh ∧
              f.stamp = (Int.ofNat sfd - Int.ofNat (lr * unitNs / 10) + signedOf 16 (s.portAt n sfd).rxAdj * 4096).toNat) ∧
            t.cget C.RX_FRAMES n = (s.cget C.RX_FRAMES n + 1) % 2 ^ 64 ∧ t.cget C.RX_OCTETS n = (s.cget C.RX_OCTETS n + data.length + 4) % 2 ^ 64 ∧ t.tideNow = max s.tideNow now ∧
            (∀ h, h ≠ n / 8 → t.clsf h = s.clsf h) ∧ t = { s with cls := t.cls, ctrs := t.ctrs, tideNow := t.tideNow, fresh := t.fresh }) ∧
          (16384 ≤ c.waiting.length → ∃ (u : State) (f : RxFrame), f.port = n ∧ f.data = data ∧ f.flags = 0 ∧ u = { s with ctrs := u.ctrs, tideNow := max s.tideNow now, fresh := u.fresh } ∧
            exec (.frameReceive n data fcsBad codeErr sfd now) s = .next (match u.framePolder (n / 8) f with
              | some p => u.exception (n / 8) p 0x0C 0 f
              | none => u.exception (n / 8) 0 (if s.fbit F.CLS_CTRL_EN (n / 8) then 5 else 0x0C) 0 f))) ∧
        (beAt data 12 2 = 0x8808 → ∃ u : State, u.cget C.RX_FRAMES n = (s.cget C.RX_FRAMES n + 1) % 2 ^ 64 ∧ u.cget C.RX_OCTETS n = (s.cget C.RX_OCTETS n + data.length + 4) % 2 ^ 64 ∧
          u = { s with ctrs := u.ctrs, tideNow := max s.tideNow now, fresh := u.fresh } ∧ exec (.frameReceive n data fcsBad codeErr sfd now) s =
            .next (if beAt data 14 2 = 0x0101 then u.pfcIn n (beAt data 16 2 % 256) ((List.range 8).map fun k => beAt data (18 + 2 * k) 2) else u.finc F.RX_CTRL_OTHER_COUNT n))) ∧
      (fcsBad = true ∨ codeErr = true ∨ data.length < 60 ∨ s.fget F.MAC_MAXFRAME_MAX n < data.length + 4 →
        ∃ (u : State) (f : RxFrame), u.fget F.RX_FCS_ERR_COUNT n = min (s.fget F.RX_FCS_ERR_COUNT n + (if fcsBad ∨ codeErr then 1 else 0)) 0xFFFFFFFF ∧
          u.fget F.RX_RUNT_COUNT n = min (s.fget F.RX_RUNT_COUNT n + (if data.length < 60 then 1 else 0)) 0xFFFFFFFF ∧
          u.fget F.RX_OVERSIZE_COUNT n = min (s.fget F.RX_OVERSIZE_COUNT n + (if s.fget F.MAC_MAXFRAME_MAX n < data.length + 4 then 1 else 0)) 0xFFFFFFFF ∧ u.ctrs = s.ctrs ∧ u.cls = s.cls ∧
          SameRegsBut s u [fieldAt F.RX_FCS_ERR_COUNT n, fieldAt F.RX_RUNT_COUNT n, fieldAt F.RX_OVERSIZE_COUNT n] ∧ u = { s with regs := u.regs, tideNow := max s.tideNow now, fresh := u.fresh } ∧
          f.port = n ∧ f.data = data.take (s.fget F.MAC_MAXFRAME_MAX n) ∧ f.flags ≠ 0 ∧ bitAt f.flags 0 = fcsBad ∧ bitAt f.flags 1 = codeErr ∧ (bitAt f.flags 2 = true ↔ data.length < 60) ∧
          (bitAt f.flags 3 = true ↔ s.fget F.MAC_MAXFRAME_MAX n < data.length + 4) ∧ exec (.frameReceive n data fcsBad codeErr sfd now) s =
            .next (if (s.portAt n sfd).keepBad = true ∧ beAt data 12 2 ≠ 0x8808 then u.toClassifier f else u)))) ∧
  (∀ (s : State) (n classes now : Nat) (quanta : List Nat), n < 16 →
    (s.fbit F.MAC_CTRL_RX_EN n = false ∨ s.linkUp n = false ∨ s.trafficOk n = false → exec (.pfcFrameReceive n classes quanta now) s = .next s) ∧
    (s.fbit F.MAC_CTRL_RX_EN n = true → s.linkUp n = true → s.trafficOk n = true → ∃ t, exec (.pfcFrameReceive n classes quanta now) s = .next t ∧ t.tideNow = max s.tideNow now ∧
      t.fget F.RX_PAUSE_COUNT n = min (s.fget F.RX_PAUSE_COUNT n + 1) 0xFFFFFFFF ∧ t.ctrs = ((s.cinc C.RX_FRAMES n).cinc C.RX_OCTETS n 64).ctrs ∧ (s.fbit F.MAC_CTRL_PFC_RX_EN n = false → t.ports = s.ports ∧ t.fget F.MAC_STAT_PAUSED n = s.fget F.MAC_STAT_PAUSED n) ∧
      (s.fbit F.MAC_CTRL_PFC_RX_EN n = true → ∀ k q, k < 8 → q = quanta.getD k 0 % 65536 →
        (bitAt classes k = true → q = 0 → (∀ e ∈ (t.port n).pause, e.1 ≠ k) ∧ bitAt (t.fget F.MAC_STAT_PAUSED n) k = false) ∧
        (bitAt classes k = true → q ≠ 0 → (t.port n).pause.find? (fun e => e.1 == k) = some (k, t.tideNow + s.bitTime n (512 * q)) ∧ bitAt (t.fget F.MAC_STAT_PAUSED n) k = true) ∧
        (bitAt classes k = false → (t.port n).pause.find? (fun e => e.1 == k) = (s.port n).pause.find? (fun e => e.1 == k) ∧ bitAt (t.fget F.MAC_STAT_PAUSED n) k = bitAt (s.fget F.MAC_STAT_PAUSED n) k)) ∧
      SameRegsBut s t [fieldAt F.RX_PAUSE_COUNT n, fieldAt F.MAC_STAT_PAUSED n] ∧ (∀ m, m ≠ n → t.port m = s.port m) ∧ t = { s with regs := t.regs, ports := t.ports, ctrs := t.ctrs, tideNow := t.tideNow })) ∧
  (∀ (s : State) (n k now : Nat), n < 16 → k < 8 → ∃ t, exec (.pfcPauseExpire n k now) s = .next t ∧ t.tideNow = max s.tideNow now ∧ SameRegsBut s t [fieldAt F.MAC_STAT_PAUSED n] ∧
    (∀ m, m ≠ n → t.port m = s.port m) ∧ t = { s with regs := t.regs, ports := t.ports, tideNow := t.tideNow } ∧
    (∀ e, (s.port n).pause.find? (fun e => e.1 == k) = some e →
      (e.2 ≤ max s.tideNow now → (∀ f ∈ (t.port n).pause, f.1 ≠ k) ∧ bitAt (t.fget F.MAC_STAT_PAUSED n) k = false ∧ (∀ j, j ≠ k → bitAt (t.fget F.MAC_STAT_PAUSED n) j = bitAt (s.fget F.MAC_STAT_PAUSED n) j)) ∧
      (max s.tideNow now < e.2 → t.ports = s.ports ∧ t.regs = s.regs)) ∧
    ((∀ e ∈ (s.port n).pause, e.1 ≠ k) → t.ports = s.ports ∧ t.regs = s.regs)) ∧
  (∀ (s : State) (fn n quanta classes : Nat), n < 16 → quanta < 65536 → classes < 256 →
    exec (.pfcTxRequest fn n quanta classes) s = exec (.registerWrite fn (regAddr T.mac n 0x58) 4 (quanta * 65536 + classes) false) s ∧ (Reaches s fn T.mac n →
    (classes = 0 ∨ (s.port n).pfc.isSome = true → exec (.pfcTxRequest fn n quanta classes) s = .next (s.logErr T.mac n 5 fn (regAddr T.mac n 0x58) (quanta * 65536 + classes))) ∧
    (classes ≠ 0 → (s.port n).pfc = none → ∃ t, exec (.pfcTxRequest fn n quanta classes) s = .next t ∧ t.port n = { s.port n with pfc := some (quanta, classes) } ∧ t.fbit F.MAC_STAT_PFC_TX_PEND n = true ∧
      (∀ m, m ≠ n → t.port m = s.port m) ∧ SameRegsBut s t [fieldAt F.MAC_STAT_PFC_TX_PEND n] ∧ t = { s with regs := t.regs, ports := t.ports })))

/-- FRAME_TRANSMIT_START, TRANSMIT_UNDERRUN, FRAME_TRANSMIT_END and TAILRACE_LINK_DISCARD (R333, R336, R338, R341, R364, R365, R368 to R371, R387, R388, R402, R404, R598). -/
def Obligations.Transmission : Prop :=
  (∀ (s : State) (n sfd now : Nat) (u : State), n < 16 → u = s.clock now →
    (s.fbit F.MAC_CTRL_TX_EN n = false ∨ s.linkUp n = false ∨ s.trafficOk n = false ∨ (s.port n).tx.isSome = true ∨ (s.port n).pfcNow = true ∨ s.ras.stopping = true ∨ s.power.standby = true →
      ∀ bad, exec (.frameTransmitStart ⟨n, bad⟩ sfd now) s = .next u) ∧
    (s.fbit F.MAC_CTRL_TX_EN n = true → s.linkUp n = true → s.trafficOk n = true → (s.port n).tx = none → (s.port n).pfcNow = false → s.ras.stopping = false → s.power.standby = false →
      ((s.port n).pfc.isSome = true → ∀ bad, exec (.frameTransmitStart ⟨n, bad⟩ sfd now) s = .next (u.upPort n fun y => { y with pfcNow := true })) ∧
      ((s.port n).pfc = none → ∀ v : State, v = u.cleanPort n →
        ((v.pickFrame n u.nowUnits).1 = none → exec (.frameTransmitStart ⟨n, true⟩ sfd now) s = exec (.frameTransmitStart ⟨n, false⟩ sfd now) s) ∧
        (∀ qid i w, (v.pickFrame n u.nowUnits).1 = some (qid, i, w) →
          exec (.frameTransmitStart ⟨n, true⟩ sfd now) s = .next (((v.poisonItem qid i.id).cleanPort n).startNextFrame n u.nowUnits sfd)) ∧
        ((s.port n).retry = none → ∀ o, (v.chooseTx n u.nowUnits [7, 6, 5, 4, 3, 2, 1, 0] [] = (none, o) → exec (.frameTransmitStart ⟨n, false⟩ sfd now) s = .next (v.countDefer n o)) ∧
          (∀ c, v.chooseTx n u.nowUnits [7, 6, 5, 4, 3, 2, 1, 0] [] = (some c, o) → ∃ t f, exec (.frameTransmitStart ⟨n, false⟩ sfd now) s = .next t ∧ (t.port n).tx = some f ∧ f.qid = c.qid ∧ f.item = c.item.id ∧
            (f.whole = true ↔ s.fget F.MAC_CT_THRESH n = 0 ∨ c.item.data.length ≤ s.fget F.MAC_CT_THRESH n * 256) ∧ (t.port n).retry = none ∧
            (∀ lt lr, latency (s.pmode n) (s.fecOf n) = some (lt, lr) → f.stamp = (Int.ofNat sfd + Int.ofNat (lt * unitNs / 10) + signedOf 16 (s.fget F.TIDE_PORT_ADJ_TX_ADJ 0 n) * 4096).toNat) ∧
            (∀ m, m ≠ n → t.port m = v.port m) ∧ t.queue c.qid = { v.queue c.qid with read := 1 } ∧ (∀ j, j ≠ c.qid → t.queue j = v.queue j) ∧ SameRegsBut v t [fieldAt F.SLUICE_DEFER_COUNT n] ∧
            t = { v with regs := t.regs, ports := t.ports, fresh := t.fresh, qs := { v.qs with q := t.qs.q } })) ∧
        (∀ qid id, (s.port n).retry = some (qid, id) →
          ((∀ i ∈ (v.queue qid).items, i.id ≠ id) → exec (.frameTransmitStart ⟨n, false⟩ sfd now) s = .next (v.upPort n fun y => { y with retry := none })) ∧
          (∀ i p k, (v.queue qid).items.find? (fun i => i.id == id) = some i → p = (qid - 2048) / 8 % 16 → k = (qid - 2048) % 8 →
            (bitAt (s.fget F.MAC_STAT_PAUSED n) k = true ∨ v.gateOpen n p k u.nowUnits = false → exec (.frameTransmitStart ⟨n, false⟩ sfd now) s = .next v) ∧
            (bitAt (s.fget F.MAC_STAT_PAUSED n) k = false → v.gateOpen n p k u.nowUnits = true → v.fitsWindow n i.data.length u.nowUnits = false →
              exec (.frameTransmitStart ⟨n, false⟩ sfd now) s = .next (v.countDefer n [i.id])) ∧
            (bitAt (s.fget F.MAC_STAT_PAUSED n) k = false → v.gateOpen n p k u.nowUnits = true → v.fitsWindow n i.data.length u.nowUnits = true →
              ∃ t f, exec (.frameTransmitStart ⟨n, false⟩ sfd now) s = .next t ∧ (t.port n).tx = some f ∧ f.qid = qid ∧ f.item = id ∧ f.whole = true ∧ (t.port n).retry = none ∧
                t.queue qid = { v.queue qid with read := 1 } ∧ (∀ j, j ≠ qid → t.queue j = v.queue j) ∧ t = { v with ports := t.ports, fresh := t.fresh, qs := { v.qs with q := t.qs.q } })))))) ∧
  (∀ (s : State) (id fuel : Nat) (i : QItem), (s.queue id).nextOut = some i →
    (i.gap = false → i.poison = false → s.cleanHead id (fuel + 1) = s) ∧ (i.gap = true → s.cleanHead id (fuel + 1) = (s.qRemove id fun x => x.id == i.id).cleanHead id fuel) ∧
    (i.gap = false → i.poison = true → s.cleanHead id (fuel + 1) = (((s.qRemove id fun x => x.id == i.id).spill C.SPILL_POISON (s.qPolder id)).raise T.queue 0 I.QUEUE_POISON).cleanHead id fuel)) ∧
  (∀ (q : Queue),
    ((∀ i ∈ q.items, i.seen = none) → q.nextOut = none) ∧
    (∀ i, q.nextOut = some i → i ∈ q.items ∧ i.seen.isSome = true ∧ ∀ j ∈ q.items, j.seen.isSome = true →
      i.seen.getD 0 < j.seen.getD 0 ∨ (i.seen.getD 0 = j.seen.getD 0 ∧ i.half ≤ j.half))) ∧
  (∀ (s : State) (n t : Nat) (ks l o : List Nat) (c : TxChoice), s.chooseTx n t ks l = (some c, o) → ∃ p, c.prio ∈ ks ∧ c.qid = qTail n p c.prio ∧ (s.queue c.qid).nextOut = some c.item ∧
    bitAt (s.fget F.MAC_STAT_PAUSED n) c.prio = false ∧ s.gateOpen n p c.prio t = true ∧ s.fitsWindow n c.item.data.length t = true ∧
    (s.fbit F.DIKE_ISO_STRICT_OK 0 = true → c.item.dep = none ∧ c.item.release ≤ t)) ∧
  (∀ (s : State) (n p k t i : Nat), s.inGcl n = true → s.gateOpen n p k t = true → i = (s.gclAt n t).1 →
    bitAt (s.gclWord n (s.gclActive n) i 1) p = true ∧ bitAt (s.gclWord n (s.gclActive n) i 1) (16 + k) = true) ∧
  (∀ (s : State) (n len t : Nat), s.inGcl n = true → s.fitsWindow n len t = true → (8 + max len 60 + 16) * 8 * unitNs ≤ ((s.gclAt n t).2 - t) * s.portRate n ∧ t ≤ (s.gclAt n t).2) ∧
  (∀ (s : State) (n : Nat), n < 16 →
    ((s.port n).tx = none → exec (.transmitUnderrun n) s = .next s) ∧
    (∀ f, (s.port n).tx = some f → (f.whole = true → exec (.transmitUnderrun n) s = .next s) ∧
      (f.whole = false → ∃ t l, exec (.transmitUnderrun n) s = .next t ∧ t.port n = { s.port n with tx := none, retry := some (f.qid, f.item) } ∧ (∀ m, m ≠ n → t.port m = s.port m) ∧
        t.queue f.qid = { s.queue f.qid with read := 0 } ∧ (∀ j, j ≠ f.qid → t.queue j = s.queue j) ∧
        t.out = s.out ++ l ∧ Out.frameCut n ∈ l ∧ t.fget F.TX_UNDERRUN_COUNT n = min (s.fget F.TX_UNDERRUN_COUNT n + 1) 0xFFFFFFFF ∧ causeSet t T.mac n I.MAC_UNDERRUN ∧
        (s.fget F.MAC_MAXFRAME_MAX n ≤ (s.fget F.MAC_CT_THRESH n + 1) * 256 → t.fget F.MAC_CT_THRESH n = 0 ∧ causeSet t T.mac n I.MAC_SAF_REACHED) ∧
        ((s.fget F.MAC_CT_THRESH n + 1) * 256 < s.fget F.MAC_MAXFRAME_MAX n → t.fget F.MAC_CT_THRESH n = s.fget F.MAC_CT_THRESH n + 1) ∧
        SameRegsBut s t [fieldAt F.TX_UNDERRUN_COUNT n, causeAt T.mac n, fieldAt F.MAC_CT_THRESH n] ∧ t = { s with regs := t.regs, ports := t.ports, out := t.out, qs := { s.qs with q := t.qs.q } }))) ∧
  (∀ (s : State) (n now : Nat), n < 16 →
    ((s.port n).pfcNow = false → (s.port n).tx = none → exec (.frameTransmitEnd n now) s = .next (s.clock now)) ∧
    (∀ q c, (s.port n).pfcNow = true → (s.port n).pfc = some (q, c) → ∃ t l d, exec (.frameTransmitEnd n now) s = .next t ∧ t.port n = { s.port n with pfcNow := false, pfc := none } ∧
      t.fbit F.MAC_STAT_PFC_TX_PEND n = false ∧ t.fget F.TX_PAUSE_COUNT n = min (s.fget F.TX_PAUSE_COUNT n + 1) 0xFFFFFFFF ∧ t.out = s.out ++ l ∧ Out.frameOut n (d ++ fcsOf d) ∈ l ∧ d.length = 60 ∧
      d.take 6 = bytesOf [1, 0x80, 0xC2, 0, 0, 1] ∧ sub d 6 6 = beBytes 2 (s.fget F.MAC_ADDR_HI_OCTETS0_1 n) ++ beBytes 4 (s.fget F.MAC_ADDR_LO_OCTETS2_5 n) ∧ beAt d 12 2 = 0x8808 ∧ beAt d 14 2 = 0x0101 ∧
      beAt d 16 2 = c % 65536 ∧ (∀ k, k < 8 → beAt d (18 + 2 * k) 2 = if bitAt c k then q % 65536 else 0) ∧
      t.cget C.TX_FRAMES n = (s.cget C.TX_FRAMES n + 1) % 2 ^ 64 ∧ t.cget C.TX_OCTETS n = (s.cget C.TX_OCTETS n + 64) % 2 ^ 64 ∧
      SameRegsBut s t [fieldAt F.MAC_STAT_PFC_TX_PEND n, fieldAt F.TX_PAUSE_COUNT n, fieldAt F.RAS_STAT_FAIL_STOPPED 0] ∧
      t = { s with regs := t.regs, ports := t.ports, ctrs := t.ctrs, out := t.out, tideNow := t.tideNow }) ∧
    (∀ f i p, (s.port n).pfcNow = false → (s.port n).tx = some f → (s.queue f.qid).items.find? (fun i => i.id == f.item) = some i → p = padded i.data → ∃ t l, exec (.frameTransmitEnd n now) s = .next t ∧
      (t.port n) = { s.port n with tx := none } ∧ t.out = s.out ++ l ∧ Out.frameOut n (p ++ fcsOf p) ∈ l ∧ 60 ≤ p.length ∧ t.cget C.TX_FRAMES n = (s.cget C.TX_FRAMES n + 1) % 2 ^ 64 ∧
      t.cget C.TX_OCTETS n = (s.cget C.TX_OCTETS n + p.length + 4) % 2 ^ 64 ∧
      ((f.qid - 2048) / 8 % 16 ≠ 0 ∨ bitAt i.tag 8 = false → t.tide = s.tide) ∧
      ((f.qid - 2048) / 8 % 16 = 0 → bitAt i.tag 8 = true → ∀ q, q = Tab.get (fun _ => []) s.tide.ts n →
        (q.length < 64 → Tab.get (fun _ => []) t.tide.ts n = q ++ [⟨i.tag % 256, f.stamp⟩]) ∧
        (64 ≤ q.length → t.tide.ts = s.tide.ts ∧ Tab.get (fun _ => 0) t.tide.tsOvf n = 1 ∧ causeSet t T.tide 0 I.TIDE_TS_OVF)) ∧ t.streams = s.streams ∧ t.sch = s.sch)) ∧
  (∀ (s : State) (n k q now : Nat), n < 16 → k < 8 → 0 < q → q < 65536 → s.fbit F.MAC_CTRL_RX_EN n = true → s.fbit F.MAC_CTRL_PFC_RX_EN n = true → s.linkUp n = true → s.trafficOk n = true →
    ∃ t, exec (.pfcFrameReceive n (2 ^ k) (List.replicate 8 q) now) s = .next t ∧ bitAt (t.fget F.MAC_STAT_PAUSED n) k = true) ∧
  (∀ (s : State) (n k now : Nat) (e : Nat × Nat), n < 16 → k < 8 → (s.port n).pause.find? (fun e => e.1 == k) = some e → e.2 ≤ now →
    ∃ t, exec (.pfcPauseExpire n k now) s = .next t ∧ bitAt (t.fget F.MAC_STAT_PAUSED n) k = false ∧ ∀ f ∈ (t.port n).pause, f.1 ≠ k) ∧
  (∀ (s : State) (fn n quanta classes : Nat), n < 16 → quanta < 65536 → 0 < classes → classes < 256 → Reaches s fn T.mac n → (s.port n).pfc = none →
    ∃ t, exec (.pfcTxRequest fn n quanta classes) s = .next t ∧ (t.port n).pfc = some (quanta, classes) ∧ t.fbit F.MAC_STAT_PFC_TX_PEND n = true) ∧
  (∀ (s : State) (n p k id : Nat), id = qTail n p k →
    (s.linkUp n = true ∨ 16 ≤ n ∨ 16 ≤ p ∨ 8 ≤ k → exec (.tailraceLinkDiscard n p k) s = .next s) ∧
    (∀ i, s.linkUp n = false → n < 16 → p < 16 → k < 8 → (s.queue id).nextOut = some i → i.gap = false → i.poison = false →
      (∀ f, (s.port n).tx = some f → f.item = i.id → exec (.tailraceLinkDiscard n p k) s = .next s) ∧
      ((∀ f, (s.port n).tx = some f → f.item ≠ i.id) → ∃ t, exec (.tailraceLinkDiscard n p k) s = .next t ∧ (∀ j ∈ (t.queue id).items, j.id ≠ i.id) ∧
        (∀ j ∈ (s.queue id).items, j.id ≠ i.id → j ∈ (t.queue id).items) ∧ t.cget C.SPILL_LINK 0 p = (s.cget C.SPILL_LINK 0 p + 1) % 2 ^ 64 ∧ t.ports = s.ports ∧ t.sch = s.sch)))

/-- SLUICE_SWAP_REQUEST, SLUICE_MODE_WRITE, GATE_WINDOW_START and GCL_DATA_ACCESS (R370 to R372, R391, R392, R470). The first, the second and the last are accesses of
SLUICE_CTRL and SLUICE_GCL_DATA, so one that does not reach the page is what BusAccess says of that access. -/
def Obligations.SluiceLists : Prop :=
  (∀ (s : State) (fn n : Nat) (mode : Bool) (e : Option Nat), 16 ≤ n → exec (.sluiceSwapRequest fn n) s = .next s ∧ exec (.sluiceModeWrite fn n mode) s = .next s ∧ exec (.gclDataAccess fn n e) s = .next s) ∧
  (∀ (s : State) (fn n : Nat) (strict : List Nat), n < 16 → strict = [fieldAt F.DIKE_ISO_STRICT_OK 0, causeAt T.dike 0] →
    exec (.sluiceSwapRequest fn n) s = exec (.registerWrite fn (regAddr T.sluice n 0x40) 4 (256 + s.fget F.SLUICE_CTRL_MODE n) false) s ∧
    (∀ mode, exec (.sluiceModeWrite fn n mode) s = exec (.registerWrite fn (regAddr T.sluice n 0x40) 4 (b2n mode) false) s) ∧
    (∀ v, exec (.gclDataAccess fn n (some v)) s = exec (.registerWrite fn (regAddr T.sluice n 0x74) 4 v false) s) ∧
    exec (.gclDataAccess fn n none) s = exec (.readClear fn (regAddr T.sluice n 0x74) 4) s ∧
    (Reaches s fn T.sluice n → ∃ t, exec (.sluiceSwapRequest fn n) s = .next t ∧ t.fget F.SLUICE_CTRL_MODE n = s.fget F.SLUICE_CTRL_MODE n ∧ t.gclActive n = s.gclActive n ∧ (∀ m, m ≠ n → t.port m = s.port m) ∧
      (s.fbit F.SLUICE_CTRL_SWAP_PEND n = true → t.fbit F.SLUICE_CTRL_SWAP_PEND n = true ∧ t.port n = s.port n ∧ t.rd T.sluice n 0x34 = min (s.rd T.sluice n 0x34 % 65536 + 1) 0xFFFF) ∧
      (s.fbit F.SLUICE_CTRL_SWAP_PEND n = false → s.bankOk n (1 - s.gclActive n) = false → t.fbit F.SLUICE_CTRL_SWAP_PEND n = false ∧ t.port n = s.port n ∧ causeSet t T.sluice n I.SLUICE_SWAP_REFUSED) ∧
      (s.fbit F.SLUICE_CTRL_SWAP_PEND n = false → s.bankOk n (1 - s.gclActive n) = true → t.fbit F.SLUICE_CTRL_SWAP_PEND n = true ∧
        t.port n = { s.port n with swapSec := s.nowUnits / unitSec / 2 ^ 32 * 2 ^ 32 + s.fget F.SLUICE_SWAP_TIME_SEC n } ∧ t.rd T.sluice n 0x34 = s.rd T.sluice n 0x34) ∧
      SameRegsBut s t ([fieldAt F.SLUICE_CTRL_SWAP_PEND n, fieldAt F.SLUICE_STAT_IN_GCL n, causeAt T.sluice n] ++ errLogAt T.sluice n ++ strict) ∧ t = { s with regs := t.regs, ports := t.ports, out := t.out }) ∧
    (Reaches s fn T.sluice n → ∃ t, exec (.sluiceModeWrite fn n false) s = .next t ∧ t.fbit F.SLUICE_CTRL_MODE n = false ∧ t.inGcl n = false ∧ t.fget F.SLUICE_STAT_ENTRY n = 0 ∧ t.fbit F.SLUICE_CTRL_SWAP_PEND n = s.fbit F.SLUICE_CTRL_SWAP_PEND n ∧
      SameRegsBut s t ([fieldAt F.SLUICE_CTRL_MODE n, fieldAt F.SLUICE_STAT_IN_GCL n] ++ strict) ∧ t = { s with regs := t.regs, out := t.out }) ∧
    (Reaches s fn T.sluice n → ∃ t, exec (.sluiceModeWrite fn n true) s = .next t ∧ t.inGcl n = s.inGcl n ∧ t.fget F.SLUICE_STAT_ENTRY n = s.fget F.SLUICE_STAT_ENTRY n ∧ (∀ m, m ≠ n → t.port m = s.port m) ∧
      (s.fbit F.SLUICE_CTRL_MODE n = true → t.fbit F.SLUICE_CTRL_MODE n = true ∧ t.ports = s.ports ∧ SameRegsBut s t strict) ∧
      (s.fbit F.SLUICE_CTRL_MODE n = false → s.bankOk n (s.gclActive n) = true → t.fbit F.SLUICE_CTRL_MODE n = true ∧ t.port n = { s.port n with modeAt := s.nowUnits } ∧
        SameRegsBut s t (fieldAt F.SLUICE_CTRL_MODE n :: strict)) ∧
      (s.fbit F.SLUICE_CTRL_MODE n = false → s.bankOk n (s.gclActive n) = false → t.fbit F.SLUICE_CTRL_MODE n = false ∧ t.ports = s.ports ∧
        t.rd T.sluice n 0x34 = min (s.rd T.sluice n 0x34 % 65536 + 1) 0xFFFF ∧ SameRegsBut s t (errLogAt T.sluice n ++ strict)) ∧ t = { s with regs := t.regs, ports := t.ports, out := t.out }) ∧
    (∀ now x b swap, x = max s.tideNow now → b = s.gclActive n → (swap = true ↔ s.fbit F.SLUICE_CTRL_SWAP_PEND n = true ∧ s.cycleStart n (1 - b) x = true ∧ (s.port n).swapSec * unitSec ≤ x) →
      ∃ t, exec (.gateWindowStart n now) s = .next t ∧ t.tideNow = x ∧ t.fbit F.SLUICE_CTRL_MODE n = s.fbit F.SLUICE_CTRL_MODE n ∧
        (swap = true → t.fbit F.SLUICE_CTRL_SWAP_PEND n = false ∧ t.gclActive n = 1 - b ∧ causeSet t T.sluice n I.SLUICE_SWAP_DONE) ∧
        (swap = false → t.fbit F.SLUICE_CTRL_SWAP_PEND n = s.fbit F.SLUICE_CTRL_SWAP_PEND n ∧ t.gclActive n = b) ∧
        (s.inGcl n = true → t.inGcl n = true) ∧
        (s.inGcl n = false → (t.inGcl n = true ↔ s.fbit F.SLUICE_CTRL_MODE n = true ∧ s.cycleStart n (t.gclActive n) x = true ∧ (s.port n).modeAt < x)) ∧
        (t.inGcl n = true → t.fget F.SLUICE_STAT_ENTRY n = (t.gclAt n x).1 % 256 ∧ t.port n = { s.port n with deferred := [] }) ∧
        (t.inGcl n = false → t.fget F.SLUICE_STAT_ENTRY n = s.fget F.SLUICE_STAT_ENTRY n ∧ t.ports = s.ports) ∧ (∀ m, m ≠ n → t.port m = s.port m) ∧
        SameRegsBut s t ([fieldAt F.SLUICE_CTRL_MODE n, fieldAt F.SLUICE_STAT_IN_GCL n, causeAt T.sluice n] ++ strict) ∧ t = { s with regs := t.regs, ports := t.ports, out := t.out, tideNow := t.tideNow }) ∧
    (∀ (data : Option Nat) b e w, Reaches s fn T.sluice n → (∀ v, data = some v → v < 2 ^ 32) → b = s.fget F.SLUICE_GCL_SEL_BANK n → e = s.fget F.SLUICE_GCL_SEL_ENTRY n → w = s.fget F.SLUICE_GCL_SEL_WORD n → ∃ t, exec (.gclDataAccess fn n data) s = .next t ∧
      t.fget F.SLUICE_GCL_SEL_WORD n = 1 - w ∧ t.fget F.SLUICE_GCL_SEL_ENTRY n = (if w = 0 then e else (e + 1) % 256) ∧ t.fget F.SLUICE_GCL_SEL_BANK n = b ∧
      (data = none → t.out = s.out ++ [.readData fn (regAddr T.sluice n 0x74) (s.gclWord n b e w % 2 ^ 32)] ∧ t.ports = s.ports) ∧
      (∀ v, data = some v → t.out = s.out ∧ (b = s.gclActive n ∨ s.fbit F.SLUICE_CTRL_SWAP_PEND n = true → t.ports = s.ports ∧ t.rd T.sluice n 0x34 = min (s.rd T.sluice n 0x34 % 65536 + 1) 0xFFFF) ∧
        (b ≠ s.gclActive n → s.fbit F.SLUICE_CTRL_SWAP_PEND n = false → t.gclWord n b e w = v % 2 ^ 24 ∧ (∀ b' e' w', e' < 256 → w' < 2 → (b', e', w') ≠ (b, e, w) → t.gclWord n b' e' w' = s.gclWord n b' e' w') ∧
          (∀ m, m ≠ n → t.port m = s.port m) ∧ t.rd T.sluice n 0x34 = s.rd T.sluice n 0x34)) ∧
      SameRegsBut s t (fieldAt F.SLUICE_GCL_SEL_BANK n :: errLogAt T.sluice n) ∧ t = { s with regs := t.regs, ports := t.ports, out := t.out }))

/-- MG_TX_TAIL_WRITE, MG_TX_COMPLETE, MG_FRAME_RECEIVE, MG_COLLISION, MG_BACKOFF_EXPIRE, MG_PLCA_BEACON, MG_PLCA_TIMEOUT, MDIO_START and MDIO_DONE (R378 to R381, R393,
R394). What a LENGTH outside 14 to 1,518 does is left open by R381. MG_TX_TAIL_WRITE and MDIO_START are writes of MG_TX_TAIL and MG_MDIO,
so one that does not reach the page is what BusAccess says of that write. With IF = 0 the MAC is off. -/
def Obligations.ManagementMac : Prop :=
  (∀ (s : State) (fn tail : Nat), exec (.mgTxTailWrite fn tail) s = exec (.registerWrite fn (regAddr T.mgmac 0 0x5C) 4 tail false) s ∧ (Reaches s fn T.mgmac 0 → tail < 4096 → ∃ t, exec (.mgTxTailWrite fn tail) s = .next t ∧ t.fget F.MG_TX_TAIL_TAIL 0 = tail ∧
    (t.fbit F.MG_STAT_TX_BUSY 0 = true ↔ s.fget F.MG_TX_HEAD_HEAD 0 ≠ tail ∧ s.fbit F.MG_CTRL_TX_EN 0 = true ∧ s.fget F.MG_CTRL_IF 0 ≠ 0 ∧ s.mg.backoff = none) ∧
    SameRegsBut s t [fieldAt F.MG_TX_TAIL_TAIL 0, fieldAt F.MG_STAT_TX_BUSY 0] ∧ t = { s with regs := t.regs })) ∧
  (∀ (s : State) (desc frame : Option (List Byte)) (h : Nat) (own : List Nat), h = s.fget F.MG_TX_HEAD_HEAD 0 →
    own = [fieldAt F.MG_TX_HEAD_HEAD 0, fieldAt F.MG_STAT_TX_BUSY 0, fieldAt F.MG_TX_FRAMES_COUNT 0, causeAt T.mgmac 0] →
    (s.fbit F.MG_CTRL_TX_EN 0 = false ∨ s.fget F.MG_CTRL_IF 0 = 0 ∨ h = s.fget F.MG_TX_TAIL_TAIL 0 ∨ s.mg.backoff.isSome = true → exec (.mgTxComplete desc frame) s = .next s) ∧
    (s.fbit F.MG_CTRL_TX_EN 0 = true → s.fget F.MG_CTRL_IF 0 ≠ 0 → h ≠ s.fget F.MG_TX_TAIL_TAIL 0 → s.mg.backoff = none → ∃ t l, exec (.mgTxComplete desc frame) s = .next t ∧ t.out = s.out ++ l ∧
      (s.fget F.MG_TXR_SIZE_SIZE 0 ≤ 4096 → 0 < s.fget F.MG_TXR_SIZE_SIZE 0 → t.fget F.MG_TX_HEAD_HEAD 0 = (h + 1) % s.fget F.MG_TXR_SIZE_SIZE 0) ∧ causeSet t T.mgmac 0 I.MGMAC_TX_DONE ∧
      SameRegsBut s t own ∧ t = { s with regs := t.regs, mg := t.mg, out := t.out, fresh := t.fresh } ∧
      (desc = none ∨ frame = none → Out.dmaWrite 0 (s.mgDesc true h + 10) (leBytes 2 0x8004) ∈ l ∧ causeSet t T.mgmac 0 I.MGMAC_ERR ∧ t.fget F.MG_TX_FRAMES_COUNT 0 = s.fget F.MG_TX_FRAMES_COUNT 0) ∧
      (∀ d f p, desc = some d → frame = some f → 14 ≤ leAt d 8 2 → leAt d 8 2 ≤ 1518 → p = padded (f.take (leAt d 8 2)) → Out.mgFrameOut (p ++ fcsOf p) ∈ l ∧
        Out.dmaWrite 0 (s.mgDesc true h + 10) (leBytes 2 0x8000) ∈ l ∧ t.fget F.MG_TX_FRAMES_COUNT 0 = min (s.fget F.MG_TX_FRAMES_COUNT 0 + 1) 0xFFFFFFFF))) ∧
  (∀ (s : State) (data : List Byte) (fcsBad written : Bool) (desc : Option (List Byte)) (h : Nat), h = s.fget F.MG_RX_HEAD_HEAD 0 →
    (s.fbit F.MG_CTRL_RX_EN 0 = false ∨ s.fget F.MG_CTRL_IF 0 = 0 → exec (.mgFrameReceive data fcsBad desc written) s = .next s) ∧
    (s.fbit F.MG_CTRL_RX_EN 0 = true → s.fget F.MG_CTRL_IF 0 ≠ 0 → fcsBad = true → exec (.mgFrameReceive data fcsBad desc written) s = .next (s.finc F.MG_RX_ERR_COUNT 0)) ∧
    (s.fbit F.MG_CTRL_RX_EN 0 = true → s.fget F.MG_CTRL_IF 0 ≠ 0 → fcsBad = false →
      (s.fbit F.MG_CTRL_PROMISC 0 = false → leAt data 0 1 % 2 = 0 → data.take 6 ≠ beBytes 2 (s.fget F.MG_ADDR_HI_OCTETS0_1 0) ++ beBytes 4 (s.fget F.MG_ADDR_LO_OCTETS2_5 0) →
        exec (.mgFrameReceive data fcsBad desc written) s = .next s) ∧
      (s.fbit F.MG_CTRL_PROMISC 0 = true ∨ leAt data 0 1 % 2 = 1 ∨ data.take 6 = beBytes 2 (s.fget F.MG_ADDR_HI_OCTETS0_1 0) ++ beBytes 4 (s.fget F.MG_ADDR_LO_OCTETS2_5 0) →
        (h = s.fget F.MG_RX_TAIL_TAIL 0 → exec (.mgFrameReceive data fcsBad desc written) s = .next (s.finc F.MG_RX_ERR_COUNT 0)) ∧
        (h ≠ s.fget F.MG_RX_TAIL_TAIL 0 → ∃ t l st, exec (.mgFrameReceive data fcsBad desc written) s = .next t ∧ t.out = s.out ++ l ∧
          st = (if desc = none ∨ written = false then 4 else if 2048 < data.length then 3 else 0) ∧
          Out.dmaWrite 0 (s.mgDesc false h + 8) (leBytes 2 (min 2048 data.length) ++ leBytes 2 (0x8000 + st)) ∈ l ∧
          (∀ d, desc = some d → written = true → Out.dmaWrite 0 (leAt d 0 8) (data.take 2048) ∈ l) ∧
          (s.fget F.MG_RXR_SIZE_SIZE 0 ≤ 4096 → 0 < s.fget F.MG_RXR_SIZE_SIZE 0 → t.fget F.MG_RX_HEAD_HEAD 0 = (h + 1) % s.fget F.MG_RXR_SIZE_SIZE 0) ∧
          t.fget F.MG_RX_FRAMES_COUNT 0 = min (s.fget F.MG_RX_FRAMES_COUNT 0 + 1) 0xFFFFFFFF ∧ causeSet t T.mgmac 0 I.MGMAC_RX_DONE ∧ (st ≠ 0 → causeSet t T.mgmac 0 I.MGMAC_ERR) ∧
          SameRegsBut s t [fieldAt F.MG_RX_HEAD_HEAD 0, fieldAt F.MG_RX_FRAMES_COUNT 0, causeAt T.mgmac 0] ∧ t = { s with regs := t.regs, out := t.out })))) ∧
  (∀ (s : State) (late : Bool) (draw n : Nat), n = s.mg.attempt + 1 →
    (s.fbit F.MG_CTRL_FD 0 = true ∨ s.fget F.MG_CTRL_IF 0 ≠ 2 ∨ s.fbit F.MG_STAT_TX_BUSY 0 = false → exec (.mgCollision late draw) s = .next s) ∧
    (s.fbit F.MG_CTRL_FD 0 = false → s.fget F.MG_CTRL_IF 0 = 2 → s.fbit F.MG_STAT_TX_BUSY 0 = true → ∃ t l, exec (.mgCollision late draw) s = .next t ∧ t.out = s.out ++ l ∧
      t.fget F.MG_COLL_COUNT 0 = min (s.fget F.MG_COLL_COUNT 0 + 1) 0xFFFFFFFF ∧
      (late = true → t.fget F.MG_LATE_COUNT 0 = min (s.fget F.MG_LATE_COUNT 0 + 1) 0xFFFFFFFF ∧ Out.dmaWrite 0 (s.mgDesc true (s.fget F.MG_TX_HEAD_HEAD 0) + 10) (leBytes 2 0x8002) ∈ l ∧ causeSet t T.mgmac 0 I.MGMAC_ERR) ∧
      (late = false → 16 ≤ n → t.fget F.MG_EXCESS_COUNT 0 = min (s.fget F.MG_EXCESS_COUNT 0 + 1) 0xFFFFFFFF ∧
        Out.dmaWrite 0 (s.mgDesc true (s.fget F.MG_TX_HEAD_HEAD 0) + 10) (leBytes 2 0x8001) ∈ l ∧ causeSet t T.mgmac 0 I.MGMAC_ERR) ∧
      (late = false → n < 16 → l = [] ∧ t.mg.attempt = n ∧ (∃ k, t.mg.backoff = some k ∧ k < 2 ^ min n 10) ∧ t.fbit F.MG_STAT_TX_BUSY 0 = false ∧
        SameRegsBut s t [fieldAt F.MG_COLL_COUNT 0, fieldAt F.MG_STAT_TX_BUSY 0]) ∧ t = { s with regs := t.regs, mg := t.mg, out := t.out })) ∧
  (∀ s : State, (s.mg.backoff = none → exec .mgBackoffExpire s = .next s) ∧
    (s.mg.backoff.isSome = true → ∃ t, exec .mgBackoffExpire s = .next t ∧ t.mg.backoff = none ∧ t.mg.attempt = s.mg.attempt ∧
      (t.fbit F.MG_STAT_TX_BUSY 0 = true ↔ s.fget F.MG_TX_HEAD_HEAD 0 ≠ s.fget F.MG_TX_TAIL_TAIL 0 ∧ s.fbit F.MG_CTRL_TX_EN 0 = true ∧ s.fget F.MG_CTRL_IF 0 ≠ 0) ∧
      SameRegsBut s t [fieldAt F.MG_STAT_TX_BUSY 0] ∧ t = { s with regs := t.regs, mg := t.mg }) ∧
    (s.fbit F.MG_CTRL_PLCA_EN 0 = false ∨ s.fget F.MG_PLCA_NODE_ID 0 = 255 → exec .mgPlcaBeacon s = .next s) ∧
    (s.fbit F.MG_CTRL_PLCA_EN 0 = true → s.fget F.MG_PLCA_NODE_ID 0 ≠ 255 → s.fget F.MG_PLCA_NODE_ID 0 ≠ 0 → exec .mgPlcaBeacon s = .next (s.fset F.MG_STAT_PLCA_ACTIVE 0 1)) ∧
    (s.fbit F.MG_CTRL_PLCA_EN 0 = true → s.fget F.MG_PLCA_NODE_ID 0 = 0 → exec .mgPlcaBeacon s = .next ((s.emit .mgBeacon).fset F.MG_STAT_PLCA_ACTIVE 0 1)) ∧
    (∀ v, (s.mgPlcaWrite v).rd T.mgmac 0 0x48 = v % 2 ^ 32 ∧ (v % 256 = 255 → (s.mgPlcaWrite v).fbit F.MG_STAT_PLCA_ACTIVE 0 = false)) ∧
    exec .mgPlcaTimeout s = .next (s.fset F.MG_STAT_PLCA_ACTIVE 0 0)) ∧
  (∀ (s : State) (fn data : Nat), data < 2 ^ 31 → exec (.mdioStart fn data) s = exec (.registerWrite fn (regAddr T.mgmac 0 0x90) 4 (2 ^ 31 + data) false) s ∧
    (Reaches s fn T.mgmac 0 → s.fbit F.MG_MDIO_GO 0 = true ∨ bitField data 26 2 = 0 ∨ bitField data 26 2 = 3 → exec (.mdioStart fn data) s = .next (s.logErr T.mgmac 0 5 fn (regAddr T.mgmac 0 0x90) (2 ^ 31 + data))) ∧
    (Reaches s fn T.mgmac 0 → s.fbit F.MG_MDIO_GO 0 = false → bitField data 26 2 = 1 ∨ bitField data 26 2 = 2 → ∃ t, exec (.mdioStart fn data) s = .next t ∧ t.fbit F.MG_MDIO_GO 0 = true ∧ t.fget F.MG_MDIO_OP 0 = bitField data 26 2 ∧
      t.fget F.MG_MDIO_PHY 0 = bitField data 21 5 ∧ t.fget F.MG_MDIO_REG 0 = bitField data 16 5 ∧ t.fget F.MG_MDIO_DATA 0 = data % 65536 ∧ SameRegsBut s t [fieldAt F.MG_MDIO_GO 0] ∧ t = { s with regs := t.regs }) ∧
    (s.fbit F.MG_MDIO_GO 0 = false → exec (.mdioDone data) s = .next s) ∧
    (s.fbit F.MG_MDIO_GO 0 = true → ∃ t, exec (.mdioDone data) s = .next t ∧ t.fbit F.MG_MDIO_GO 0 = false ∧
      t.fget F.MG_MDIO_DATA 0 = (if s.fget F.MG_MDIO_OP 0 = 2 then data % 65536 else s.fget F.MG_MDIO_DATA 0) ∧ causeSet t T.mgmac 0 I.MGMAC_MDIO_DONE ∧
      SameRegsBut s t [fieldAt F.MG_MDIO_GO 0, causeAt T.mgmac 0] ∧ t = { s with regs := t.regs, out := t.out }))

/-- BULK_SEND (R376, R377), under the checks of R510. Bulk frames use half 0's pool (log entry 177). -/
def Obligations.BulkFrames : Prop :=
  (∀ (s : State) (p ring tag port prio : Nat) (c : VCmd) (tm pl : Option (List Byte)), Starts s p ring tag 0x29 false [m32, m32, 0x7F037F, 0x7FF, 0x1FF] c → port = c.w 2 % 16 →
    prio = c.w 2 / 16 % 8 →
    (prio ≠ s.fget F.MAC_BULK_PRIO port → exec (.bulkSend p ring tag tm pl) s = .next (s.complete c 6)) ∧
    (prio = s.fget F.MAC_BULK_PRIO port → tm = none ∨ pl = none → exec (.bulkSend p ring tag tm pl) s = .next (s.complete c 0xA)) ∧
    (∀ t d, prio = s.fget F.MAC_BULK_PRIO port → tm = some t → pl = some d →
      ((bulkFrames c t d).1 ≠ 0 → exec (.bulkSend p ring tag tm pl) s = .next (s.complete c (bulkFrames c t d).1)) ∧
      (∀ f, bulkFrames c t d = (0, [f]) → c.progress = 0 →
        (s.canTake (qTail port p prio) 0 f.length = true → exec (.bulkSend p ring tag tm pl) s =
          .next (((s.qAppend (qTail port p prio) 0 { id := 0, tag := c.w 4 % 512, data := f } none).1).complete c 0 0 0 1)) ∧
        (s.canTake (qTail port p prio) 0 f.length = false → ∃ t', exec (.bulkSend p ring tag tm pl) s = .next t' ∧
          (∀ x ∈ t'.vk.cmds, x.order = c.order → x.started = true ∧ x.progress = 0) ∧ t'.vk.cmds.length = s.vk.cmds.length ∧ t' = { s with vk := t'.vk })))) ∧
  (∀ (c : VCmd) (tm d t pl : List Byte) (mss : Nat) (fr : List (List Byte)), bitAt (c.w 2) 8 = true → t = tm.take (c.w 2 / 2 ^ 16 % 128) → pl = d.take c.len → mss = c.w 3 % 2048 →
    (mss < 64 ∨ 1664 < mss + t.length ∨ pl = [] ∨ 262144 < pl.length ∨ t.length < 42 ∨ 4096 * mss < pl.length → (bulkFrames c tm d).1 = 6) ∧
    (bulkFrames c tm d = (0, fr) → fr.length * mss < pl.length + mss ∧ pl.length ≤ fr.length * mss ∧ fr.length ≤ 4096 ∧ (∀ f ∈ fr, f.length ≤ mss + t.length) ∧
      fr.flatMap (fun f => f.drop t.length) = pl)) ∧
  (∀ (c : VCmd) (tm d t pl : List Byte), bitAt (c.w 2) 8 = false → t = tm.take (c.w 2 / 2 ^ 16 % 128) → pl = d.take c.len →
    (1664 < t.length + pl.length → (bulkFrames c tm d).1 = 6) ∧ (t.length + pl.length ≤ 1664 → bulkFrames c tm d = (0, [if bitAt (c.w 2) 9 then sumFrame (t ++ pl) else t ++ pl]))) ∧
  (∀ (f : List Byte), (sumFrame f).length = f.length ∧ (beAt f 12 2 ≠ 0x8100 → beAt f 12 2 ≠ 0x0800 → beAt f 12 2 ≠ 0x86DD → sumFrame f = f) ∧
    (∀ n, beAt f 12 2 = 0x0800 → leAt f 14 1 / 16 = 4 → n = 4 * (leAt f 14 1 % 16) → 20 ≤ n → 14 + n ≤ f.length →
      beAt (sumFrame f) 24 2 = csum (sum16 (sub f 14 10 ++ beBytes 2 0 ++ sub f 26 (n - 12))) ∧ ∀ i, i < 14 + n → i ≠ 24 → i ≠ 25 → (sumFrame f)[i]? = f[i]?))

/-- TICK and TIDE_TURN_MARK (R60, R61, R62, R63, R70, R95, R170, R396, R397, R160, R161). The tick's own time and what a mark does to the two Millers' queues are
the model's reading of R60 and R160. -/
def Obligations.TideTicksAndMarks : Prop :=
  (∀ s : State, ∃ t, exec .tick s = .next t ∧
    t = { s with tide := { s.tide with tick := s.tide.tick + tickStep s.tide.adj },
                 tideNow := max s.tideNow ((s.tide.tick + tickStep s.tide.adj) / 2 ^ 32),
                 stones := t.stones, sch := { s.sch with wus := t.sch.wus, early := t.sch.early }, fab := { s.fab with stages := t.fab.stages, waiters := t.fab.waiters, locks := t.fab.locks, tickLost0 := t.fab.tickLost0, tickLost1 := t.fab.tickLost1 } } ∧
    (∀ h, h < 2 → (s.tickRuns h = true ↔ (s.lock h 18).st = .run) ∧ (t.tickLost h = true ↔ s.tickLost h = true ∧ s.tickRuns h = false)) ∧
    (∀ n x, x = s.stone n → t.stone n = if s.tickRuns (n / 640) then
      { x with ticks := x.ticks + (if x.running.isSome ∧ ¬ x.halted then 1 else 0), far := x.far.map fun f => { f with wait := f.wait + 1 } } else x) ∧
    t.sch.wus = s.sch.wus.map (fun e => (e.1, { e.2 with wait := match e.2.st, s.tickRuns (e.2.stone / 640) with | .fetching _, true => e.2.wait + 1 | _, _ => e.2.wait })) ∧
    t.sch.early = s.sch.early.map (fun e => (e.1, { e.2 with wait := match e.2.st, s.tickRuns (e.2.stone / 640) with | .fetching _, true => e.2.wait + 1 | _, _ => e.2.wait })) ∧
    t.fab.waiters = s.fab.waiters.map (fun w => if s.timed w ∧ s.tickRuns w.half then { w with ticks := w.ticks + 1 } else w) ∧
    (∀ h n, h < 2 → n < 19 → t.lock h n = if (s.lock h n).wake ∧ s.tickRuns h then { s.lock h n with wakeTicks := (s.lock h n).wakeTicks + 1 } else s.lock h n) ∧
    ∀ k x, Tab.get (fun _ => ({} : StageSt)) s.fab.stages k = x →
      Tab.get (fun _ => ({} : StageSt)) t.fab.stages k = if x.started ∧ s.tickRuns (stageHalf k) then { x with ticks := x.ticks + 1 } else x) ∧
  (∀ s : State, ¬ (s.fbit F.TIDE_STAT_STEP_PEND 0 = true ∧ s.tide.stepAt < s.tide.nextMark) →
    ∃ t, exec .tideTurnMark s = .next t ∧ t = { s with tide := t.tide, tideNow := max s.tideNow s.tide.nextMark, sch := t.sch } ∧
      t.tide = { s.tide with turns := t.tide.turns, loaded := t.tide.loaded, lastMark := Int.ofNat s.tide.nextMark, nextMark := t.tide.nextMark } ∧
      t.tide.turns = (if s.fbit F.TIDE_STAT_TIME_VALID 0 = true ∧ s.tide.loaded = false then s.tide.nextMark / (1000000 * unitNs) else s.tide.turns + 1) ∧
      s.tide.nextMark + 999000 * unitNs ≤ t.tide.nextMark ∧ t.tide.nextMark ≤ s.tide.nextMark + 1001000 * unitNs ∧
      (s.tide.nextMark % (1000000 * unitNs) = 0 → t.tide.nextMark = s.tide.nextMark + 1000000 * unitNs) ∧
      ∀ h, h < 2 → (t.miller h) = { s.miller h with marks := (s.miller h).marks ++ [(t.tide.turns % 65536, s.tide.nextMark)] })

/-- REF_WINDOW_END, REF_LOSS and REFSEL_WRITE (R400). A window that was not good changes nothing (R400 gives it no effect). REFSEL_WRITE is a
write of TIDE_CTRL with its other fields as they stand, so one that does not reach the page is what BusAccess says of that write. -/
def Obligations.TideReferences : Prop :=
  (∀ (s : State) (ref : Nat), exec (.refWindowEnd ref false) s = .next s ∧
    (ref < 2 → ∃ t, exec (.refWindowEnd ref true) s = .next t ∧ t.refOk ref = true ∧ t.refOk (1 - ref) = s.refOk (1 - ref) ∧
      FieldsSet s t T.tide 0 0x44 [(if ref = 0 then F.TIDE_STAT_REF_A_OK else F.TIDE_STAT_REF_B_OK, 1)] ∧
      SameRegsBut s t [fieldAt F.TIDE_STAT_STATE 0] ∧ t = { s with regs := t.regs })) ∧
  (∀ (s : State) (ref now : Nat), ref < 2 → ∃ t, exec (.refLoss ref now) s = .next t ∧ t.refOk ref = false ∧ t.refOk (1 - ref) = s.refOk (1 - ref) ∧
      SameRegsBut s t [fieldAt F.TIDE_STAT_STATE 0, fieldAt F.TIDE_CTRL_REFSEL 0, causeAt T.tide 0] ∧
      t = { s with tideNow := max s.tideNow now, regs := t.regs, out := t.out, tide := { s.tide with follows := t.tide.follows } } ∧
      (s.fget F.TIDE_CTRL_REFSEL 0 ≠ ref → t.tide.follows = s.tide.follows ∧ t.out = s.out ∧
        SameRegsBut s t [fieldAt F.TIDE_STAT_STATE 0]) ∧
      (s.fget F.TIDE_CTRL_REFSEL 0 = ref → causeSet t T.tide 0 I.TIDE_REF_LOSS ∧
        (if s.fbit F.TIDE_CTRL_REF_AUTO 0 = true ∧ s.refOk (1 - ref) = true then t.fget F.TIDE_CTRL_REFSEL 0 = 1 - ref ∧ t.tide.follows = true
          else t.fget F.TIDE_CTRL_REFSEL 0 = ref ∧ t.tide.follows = false))) ∧
  (∀ (s : State) (fn sel : Nat), exec (.refselWrite fn sel) s = exec (.registerWrite fn (regAddr T.tide 0 0x40) 4 (setField (s.rd T.tide 0 0x40) 8 1 sel) false) s) ∧
  (∀ (s : State) (fn sel : Nat), Reaches s fn T.tide 0 → sel < 2 → s.fget F.TIDE_CTRL_SRC 0 < 6 → s.fget F.TIDE_CTRL_SRC2 0 < 6 → s.fget F.TIDE_CTRL_SRC_TIMEOUT 0 ≠ 0 →
    ∃ t, exec (.refselWrite fn sel) s = .next t ∧ t.fget F.TIDE_CTRL_REFSEL 0 = sel ∧ (∀ k, k < 2 → t.refOk k = s.refOk k) ∧
      SameRegsBut s t (fieldAt F.TIDE_CTRL_REFSEL 0 :: servoRegs) ∧ t = { s with regs := t.regs, out := t.out, tide := t.tide })

/-- OFFSET_SAMPLE_WRITE, CAPTURE_EDGE and SOURCE_LOSS (R398, R406 to R410). OFFSET_SAMPLE_WRITE is a write of TIDE_OFS_NS at a time, so one that does not reach the page
is what BusAccess says of that write. The rounding of adj to 2⁻¹⁶ ppb is a free choice of its two
neighbours (log entry 60). -/
def Obligations.TideSamples : Prop :=
  (∀ (s : State) (fn ns now : Nat), exec (.offsetSampleWrite fn ns now) s = exec (.registerWrite fn (regAddr T.tide 0 0x64) 4 ns false) (s.clock now)) ∧
  (∀ (s : State) (fn ns now : Nat), Reaches (s.clock now) fn T.tide 0 → ns < 2 ^ 32 → s.fget F.TIDE_CTRL_SRC 0 ≠ 1 → s.fget F.TIDE_CTRL_SRC2 0 ≠ 1 →
    ∃ t, exec (.offsetSampleWrite fn ns now) s = .next t ∧ SameRegsBut s t (errLogAt T.tide 0) ∧ t = { s with tideNow := max s.tideNow now, regs := t.regs }) ∧
  (∀ (s : State) (fn ns now : Nat), Reaches (s.clock now) fn T.tide 0 → ns < 2 ^ 32 →
      s.fget F.TIDE_CTRL_SRC 0 = 1 ∨ (s.fget F.TIDE_CTRL_SRC2 0 = 1 ∧ ∀ e ∈ s.tide.alive, e.1 ≠ s.fget F.TIDE_CTRL_SRC 0) →
    ∃ t, exec (.offsetSampleWrite fn ns now) s = .next t ∧ t.fget F.TIDE_OFS_FRAC_FRAC 0 = 0 ∧
      SameRegsBut s t (fieldAt F.TIDE_OFS_FRAC_FRAC 0 :: servoRegs) ∧
      t = { s with tideNow := max s.tideNow now, tide := t.tide, regs := t.regs, out := t.out } ∧
      (let theta := signedOf 32 ns * 65536 + Int.ofNat (s.fget F.TIDE_OFS_FRAC_FRAC 0)
       let mx := Int.ofNat (s.fget F.TIDE_MAXADJ_MAXADJ 0) * 2 ^ 24
       let jump := s.fget F.TIDE_THRESH_JUMP 0 * unitNs
       let v := clampI (s.tide.integ + theta * Int.ofNat (s.fget F.TIDE_SERVO_KI 0)) mx
       let a := clampI (v + theta * Int.ofNat (s.fget F.TIDE_SERVO_KP 0)) mx
       (s.fbit F.TIDE_STAT_TIME_VALID 0 = false ∨ s.fbit F.TIDE_CTRL_SERVO_EN 0 = false →
          t.tide.adj = s.tide.adj ∧ t.tide.integ = s.tide.integ ∧ t.fget F.TIDE_STAT_JUMP_PEND 0 = s.fget F.TIDE_STAT_JUMP_PEND 0) ∧
       (s.fbit F.TIDE_STAT_TIME_VALID 0 = true → s.fbit F.TIDE_CTRL_SERVO_EN 0 = true → s.fbit F.TIDE_STAT_STEP_PEND 0 = false → theta.natAbs ≤ jump →
          t.tide.integ = v ∧ (t.tide.adj * 256 ≤ a ∧ a < t.tide.adj * 256 + 256 ∨ a < t.tide.adj * 256 ∧ t.tide.adj * 256 < a + 256) ∧
          t.fget F.TIDE_STAT_JUMP_PEND 0 = 0) ∧
       (s.fbit F.TIDE_STAT_TIME_VALID 0 = true → s.fbit F.TIDE_CTRL_SERVO_EN 0 = true → jump < theta.natAbs →
          t.tide.integ = s.tide.integ ∧ t.fget F.TIDE_STAT_JUMP_PEND 0 = 1 ∧ causeSet t T.tide 0 I.TIDE_JUMP_REFUSED ∧
          t.fget F.TIDE_COUNTS_REFUSED 0 = min (s.fget F.TIDE_COUNTS_REFUSED 0 + 1) 65535))) ∧
  (∀ (s : State) (fn ns now : Nat), Reaches (s.clock now) fn T.tide 0 → ns < 2 ^ 32 → s.fget F.TIDE_CTRL_SRC 0 ≠ 1 → s.fget F.TIDE_CTRL_SRC 0 ≠ 0 → s.fget F.TIDE_CTRL_SRC2 0 = 1 →
      (∃ e ∈ s.tide.alive, e.1 = s.fget F.TIDE_CTRL_SRC 0) →
    ∃ t, exec (.offsetSampleWrite fn ns now) s = .next t ∧ t.fget F.TIDE_OFS_FRAC_FRAC 0 = 0 ∧ t.tide.adj = s.tide.adj ∧ t.tide.integ = s.tide.integ ∧
      (1, max s.tideNow now) ∈ t.tide.alive ∧ SameRegsBut s t (fieldAt F.TIDE_OFS_FRAC_FRAC 0 :: servoRegs)) ∧
  (∀ (s : State) (input : Nat) (falling : Bool) (now : Nat), input < 4 → s.fbit F.TIDE_CAP_EN 0 input = true →
    s.fget F.TIDE_CAP_EDGE 0 input ≠ (if falling then 0 else 1) →
    ∃ t, exec (.captureEdge input falling now) s = .next t ∧ SameRegsBut s t servoRegs ∧
      t = { s with tideNow := max s.tideNow now, tide := t.tide, regs := t.regs, out := t.out } ∧
      (let l := Tab.get (fun _ => []) s.tide.ts (16 + input)
       let c := Int.ofNat (max s.tideNow now) + signedOf 16 (s.fget F.TIDE_CAP_ADJ 0 input) * 4096
       if l.length < 16 then Tab.get (fun _ => []) t.tide.ts (16 + input) = l ++ [⟨if falling then 1 else 0, c.toNat⟩]
       else Tab.get (fun _ => []) t.tide.ts (16 + input) = l ∧ causeSet t T.tide 0 I.TIDE_TS_OVF ∧
         Tab.get (fun _ => 0) t.tide.tsDrops (16 + input) = min (Tab.get (fun _ => 0) s.tide.tsDrops (16 + input) + 1) 65535) ∧
      (∀ k, k ≠ 16 + input → Tab.get (fun _ => []) t.tide.ts k = Tab.get (fun _ => []) s.tide.ts k) ∧
      (falling = true → t.tide.adj = s.tide.adj ∧ t.tide.integ = s.tide.integ)) ∧
  (∀ (s : State) (input : Nat) (falling : Bool) (now : Nat),
    4 ≤ input ∨ s.fbit F.TIDE_CAP_EN 0 input = false ∨ s.fget F.TIDE_CAP_EDGE 0 input = (if falling then 0 else 1) →
    exec (.captureEdge input falling now) s = .next { s with tideNow := max s.tideNow now }) ∧
  (∀ (s : State) (src now : Nat),
    ∃ t, exec (.sourceLoss src now) s = .next t ∧ SameRegsBut s t servoRegs ∧
      t = { s with tideNow := max s.tideNow now, tide := t.tide, regs := t.regs, out := t.out } ∧
      (∀ e, e ∈ t.tide.alive ↔ e ∈ s.tide.alive ∧ ¬ (e.1 = src ∧ e.2 + s.fget F.TIDE_CTRL_SRC_TIMEOUT 0 * 100000000 * unitNs ≤ max s.tideNow now)) ∧
      ((∀ e, e ∈ t.tide.alive → e.1 = 0 ∨ (e.1 ≠ s.fget F.TIDE_CTRL_SRC 0 ∧ e.1 ≠ s.fget F.TIDE_CTRL_SRC2 0)) →
        t.fget F.TIDE_STAT_SRC_USED 0 = 0 ∧ (s.tideState = 1 ∨ s.tideState = 2 → t.tideState = 3 ∧ causeSet t T.tide 0 I.TIDE_HOLDOVER)))

/-- STEP_AUTH, TIME_STEP and HOLDOVER_BUDGET_EXPIRE (R411, R413). STEP_AUTH is a write of 1 to TIDE_STEP_CTRL at a time, so one that does not reach the page is what
BusAccess says of that write. -/
def Obligations.TideStepsAndHoldover : Prop :=
  (∀ (s : State) (fn now : Nat), exec (.stepAuth fn now) s = exec (.registerWrite fn (regAddr T.tide 0 0x80) 4 1 false) (s.clock now)) ∧
  (∀ (s : State) (fn now : Nat), Reaches (s.clock now) fn T.tide 0 → s.fbit F.TIDE_STAT_STEP_PEND 0 = false →
    ∃ t, exec (.stepAuth fn now) s = .next t ∧ FieldsSet s t T.tide 0 0x44 [(F.TIDE_STAT_STEP_PEND, 1)] ∧ SameRegsBut s t [fieldAt F.TIDE_STAT_STATE 0] ∧
      t = { s with tideNow := max s.tideNow now, regs := t.regs, tide := { s.tide with stepAt := t.tide.stepAt } } ∧
      t.tide.stepAt % unitSec = 0 ∧ max s.tideNow now + 2000 * unitNs ≤ t.tide.stepAt ∧ t.tide.stepAt < max s.tideNow now + 2000 * unitNs + unitSec) ∧
  (∀ (s : State) (fn now : Nat), Reaches (s.clock now) fn T.tide 0 → s.fbit F.TIDE_STAT_STEP_PEND 0 = true →
    ∃ t, exec (.stepAuth fn now) s = .next t ∧ SameRegsBut s t (errLogAt T.tide 0) ∧ t = { s with tideNow := max s.tideNow now, regs := t.regs }) ∧
  (∀ s : State, s.fbit F.TIDE_STAT_STEP_PEND 0 = true →
    ∃ t, exec .timeStep s = .next t ∧
      t.fget F.TIDE_STAT_STEP_PEND 0 = 0 ∧ t.fget F.TIDE_STAT_JUMP_PEND 0 = 0 ∧ t.fget F.TIDE_STAT_TIME_VALID 0 = 1 ∧ t.tideState = 1 ∧
      causeSet t T.tide 0 I.TIDE_STEP_DONE ∧ t.tide.integ = s.tide.integ ∧ t.tide.adj = s.tide.adj ∧
      (let d := (signedOf 32 (s.fget F.TIDE_STEP_SEC_SEC 0) * 1000000000 + signedOf 32 (s.fget F.TIDE_STEP_NS_NS 0)) * 65536
       t.tideNow = ((Int.ofNat s.tide.stepAt + d).emod (2 ^ 48 * Int.ofNat unitSec)).toNat) ∧
      SameRegsBut s t (servoRegs ++ [fieldAt F.TIDE_COUNTS_SUPPRESSED 0] ++ (List.range 16).map (causeAt T.sluice) ++ (List.range 16).map fun n => fieldAt F.SLUICE_STAT_ENTRY n) ∧
      (∀ n, n < 16 → t.inGcl n = s.inGcl n ∧ (s.inGcl n = true → t.fget F.SLUICE_STAT_ENTRY n = (t.gclAt n t.tideNow).1 % 256 ∧ causeSet t T.sluice n I.SLUICE_STEP_REALIGN) ∧
        (s.inGcl n = false → t.fget F.SLUICE_STAT_ENTRY n = s.fget F.SLUICE_STAT_ENTRY n)) ∧
      t = { s with tideNow := t.tideNow, tide := t.tide, regs := t.regs, out := t.out, ports := t.ports, sch := { s.sch with miller := t.sch.miller } }) ∧
  (∀ (s : State) (now : Nat), s.tideState = 3 → s.fget F.TIDE_HOLDOVER_BUDGET 0 ≠ 0 →
    s.fget F.TIDE_HOLDOVER_BUDGET 0 * unitSec + s.tide.hoStart ≤ max s.tideNow now → s.fbit F.TIDE_STAT_HO_EXPIRED 0 = false →
    ∃ t, exec (.holdoverBudgetExpire now) s = .next t ∧ FieldsSet s t T.tide 0 0x44 [(F.TIDE_STAT_HO_EXPIRED, 1)] ∧ causeSet t T.tide 0 I.TIDE_HO_EXPIRED ∧
      SameRegsBut s t [fieldAt F.TIDE_STAT_STATE 0, causeAt T.tide 0] ∧
      t = { s with tideNow := max s.tideNow now, regs := t.regs, out := t.out, tide := { s.tide with squelchAt := some ((max s.tideNow now / unitSec + 1) * unitSec) } })

/-- PULSE_EDGE, PULSE_END, TS_POP and TIDE_NOW_READ (R405, R412, R413, R415, R422). TS_POP and TIDE_NOW_READ are reads of TIDE_TS_W0 and TIDE_NOW_NS, so one that does
not reach the page is what BusAccess says of that read. -/
def Obligations.TidePulsesAndReads : Prop :=
  (∀ (s : State) (k now : Nat), k < 4 → s.pulseRuns k (max s.tideNow now) = true → s.pulseDue k (Int.ofNat (max s.tideNow now)) = true →
    s.fbit F.TIDE_STAT_STEP_PEND 0 = false → s.squelched k (max s.tideNow now) = false →
    ((s.pulse k).active = false ∧ (∀ o, (s.pulse k).off = some o → o + 100 * Int.ofNat unitNs ≤ Int.ofNat (max s.tideNow now)) →
      ∃ t, exec (.pulseEdge k now) s = .next t ∧ (t.pulse k) = { s.pulse k with active := true, edge := Int.ofNat (max s.tideNow now), width := s.fget F.TIDE_PULSE_WIDTH_NS 0 k } ∧
        (∀ j, j ≠ k → t.pulse j = s.pulse j) ∧ t.out = s.out ++ [.pulse k (!s.fbit F.TIDE_PULSE_CTRL_POL 0 k) (Int.ofNat (max s.tideNow now) - signedOf 16 (s.fget F.TIDE_PULSE_CTRL_OUT_ADJ 0 k) * 4096)] ∧
        t = { s with tideNow := max s.tideNow now, out := t.out, tide := { s.tide with pulses := t.tide.pulses } }) ∧
    ((s.pulse k).active = true ∨ (∃ o, (s.pulse k).off = some o ∧ Int.ofNat (max s.tideNow now) < o + 100 * Int.ofNat unitNs) →
      ∃ t, exec (.pulseEdge k now) s = .next t ∧ t.fget F.TIDE_COUNTS_SUPPRESSED 0 = min (s.fget F.TIDE_COUNTS_SUPPRESSED 0 + 1) 65535 ∧
        causeSet t T.tide 0 I.TIDE_PULSE_SUPPRESSED ∧ SameRegsBut s t [fieldAt F.TIDE_COUNTS_SUPPRESSED 0, causeAt T.tide 0] ∧
        t = { s with tideNow := max s.tideNow now, regs := t.regs, out := t.out })) ∧
  (∀ (s : State) (k now : Nat), 4 ≤ k ∨ s.pulseRuns k (max s.tideNow now) = false ∨ s.pulseDue k (Int.ofNat (max s.tideNow now)) = false ∨ s.squelched k (max s.tideNow now) = true ∨
      (s.fbit F.TIDE_STAT_STEP_PEND 0 = true ∧ s.tide.stepAt = max s.tideNow now) → exec (.pulseEdge k now) s = .next { s with tideNow := max s.tideNow now }) ∧
  (∀ (s : State) (k now : Nat), (s.pulse k).active = true →
    (let e := (s.pulse k).edge + Int.ofNat ((s.pulse k).width * unitNs)
     (e ≤ Int.ofNat (max s.tideNow now) →
       ∃ t, exec (.pulseEnd k now) s = .next t ∧ t.pulse k = { s.pulse k with active := false, off := some e } ∧ (∀ j, j ≠ k → t.pulse j = s.pulse j) ∧
         t.out = s.out ++ [.pulse k (s.fbit F.TIDE_PULSE_CTRL_POL 0 k) (e - signedOf 16 (s.fget F.TIDE_PULSE_CTRL_OUT_ADJ 0 k) * 4096)] ∧ t = { s with tideNow := max s.tideNow now, out := t.out, tide := { s.tide with pulses := t.tide.pulses } }) ∧
     (Int.ofNat (max s.tideNow now) < e → exec (.pulseEnd k now) s = .next { s with tideNow := max s.tideNow now }))) ∧
  (∀ (s : State) (fn now : Nat), exec (.tsPop fn) s = exec (.readClear fn (regAddr T.tide 0 0xA4) 4) s ∧ exec (.tideNowRead fn now) s = exec (.readClear fn (regAddr T.tide 0 0x48) 4) (s.clock now)) ∧
  (∀ (s : State) (fn : Nat), Reaches s fn T.tide 0 →
    ∃ t, exec (.tsPop fn) s = .next t ∧ t = { s with out := t.out, tide := { s.tide with ts := t.tide.ts, tsLatch := t.tide.tsLatch } } ∧
      (let src := s.fget F.TIDE_TS_SEL_SRC 0
       (∀ j, j ≠ src → Tab.get (fun _ => []) t.tide.ts j = Tab.get (fun _ => []) s.tide.ts j) ∧
       (∀ f, f ≠ fn → Tab.get (fun _ => []) t.tide.tsLatch f = Tab.get (fun _ => []) s.tide.tsLatch f) ∧
       match Tab.get (fun _ => []) s.tide.ts src with
       | [] => Tab.get (fun _ => []) t.tide.tsLatch fn = [] ∧ Tab.get (fun _ => []) t.tide.ts src = [] ∧ t.out = s.out ++ [.readData fn (regAddr T.tide 0 0xA4) 0]
       | e :: l => Tab.get (fun _ => []) t.tide.ts src = l ∧
         (∃ w0, t.out = s.out ++ [.readData fn (regAddr T.tide 0 0xA4) w0] ∧ bitAt w0 31 = true ∧ bitField w0 0 16 = e.units % 65536 ∧
           Tab.get (fun _ => []) t.tide.tsLatch fn =
             [w0, e.units % unitSec / unitNs, e.units / unitSec % 2 ^ 32, e.units / unitSec / 2 ^ 32 % 65536]))) ∧
  (∀ (s : State) (fn now : Nat), Reaches (s.clock now) fn T.tide 0 →
    ∃ t, exec (.tideNowRead fn now) s = .next t ∧ t.out = s.out ++ [.readData fn (regAddr T.tide 0 0x48) (max s.tideNow now % unitSec / unitNs)] ∧
      Tab.get (fun _ => 0) t.tide.nowLatch fn = max s.tideNow now ∧ (∀ f, f ≠ fn → Tab.get (fun _ => 0) t.tide.nowLatch f = Tab.get (fun _ => 0) s.tide.nowLatch f) ∧
      t = { s with tideNow := max s.tideNow now, out := t.out, tide := { s.tide with nowLatch := t.tide.nowLatch } })

/-- HBM_READ, HBM_WRITE, POND_ACCESS, SCRUB_READ and LOG_CLEAR (R426 to R429, R431 to R436, R443 to R446, R449, R460, R474). Lines of HBM and words of
the millpond; `hbmSee` is what the die-loss code makes of a read of a line and `wordCode` what SEC-DED makes of one of a word; the order in which rsDecode tries is a
reading (log entry 383), as is the order of the walks (log entry 247); `hbmPut` and `pondPut` write a burst, and the byte law says which bytes that changes. LOG_CLEAR is a write of a log's CLEAR, so one that
does not reach the page is what BusAccess says of that write. -/
def Obligations.MemoryAccess : Prop :=
  (∀ (s : State) (a : Nat) (l : List Byte), ∃ t ok, s.hbmPut a l = (t, ok) ∧ t = { s with mem := t.mem } ∧
    t.mem = { s.mem with hbm := t.mem.hbm, poison := t.mem.poison } ∧
    (∀ x, x < a ∨ a + l.length ≤ x → memByte t.mem.hbm x = memByte s.mem.hbm x) ∧
    ((∀ w ∈ s.mem.poison, w * 64 + 64 ≤ a ∨ a + l.length ≤ w * 64) → ok = true ∧ t.mem.poison = s.mem.poison ∧ ∀ i, i < l.length → memByte t.mem.hbm (a + i) = l.getD i 0)) ∧
  (∀ (s : State) (a : Nat) (l : List Byte), ∃ t ok, s.pondPut a l = (t, ok) ∧ t = { s with pond := t.pond, pondPoison := t.pondPoison } ∧
    (∀ x, x < a ∨ a + l.length ≤ x → memByte t.pond x = memByte s.pond x) ∧
    ((∀ w ∈ s.pondPoison, w * 8 + 8 ≤ a ∨ a + l.length ≤ w * 8) → ok = true ∧ t.pondPoison = s.pondPoison ∧ ∀ i, i < l.length → memByte t.pond (a + i) = l.getD i 0)) ∧
  (∀ (s : State) (ln : Nat) (up : HbmUpset), up.elsewhere = none → up.lost = none →
    (s.lostOf ln = [] → up.errs = [] → s.hbmSee ln up = (.ok, memBytes s.mem.hbm (ln * 64) 64)) ∧
    (∀ d, (∀ e ∈ up.errs, dieOf e.1 = d) → (s.lostOf ln = [] ∧ (∃ e ∈ up.errs, e.1 < 88 ∧ e.2 % 256 ≠ 0)) ∨ s.lostOf ln = [d] →
      s.hbmSee ln up = (.corrected d, memBytes s.mem.hbm (ln * 64) 64))) ∧
  (∀ (s : State) (ln d : Nat), d < 4 → d ∈ (s.loseDie ln (some d)).lostOf ln) ∧
  (∀ w : Nat, wordCode {} w = .ok ∧ (∀ b, b < 72 → wordCode ⟨[b], none⟩ w = .corrected 0) ∧ (∀ a b, a < 72 → b < 72 → a ≠ b → wordCode ⟨[a, b], none⟩ w = .bad) ∧
    (∀ x l, onesOf (w ^^^ x) = 1 ∨ onesOf (w ^^^ x) = 2 → wordCode ⟨l, some x⟩ w = .bad)) ∧
  (∀ (s : State) (req polder addr : Nat) (up : HbmUpset),
    (hbmInSpace addr = false → exec (.hbmRead req polder addr up) s = .next (s.emit (.memError req addr))) ∧
    (∀ sl ln d, hbmInSpace addr = true → sl = sliceOf addr → s.fbit F.HBMC_CTRL_EN sl = true → ln = addr / 64 → d = memBytes s.mem.hbm (ln * 64) 64 →
      (isRegion (parcelOf addr) = true → s.parcelOwner (parcelOf addr) ≠ some polder → polder < 16 → ∃ t pa, exec (.hbmRead req polder addr up) s = .next t ∧
        t = (({ s with fresh := s.fresh + 1 } : State).walkFault polder 3 5 pa).emit (.memError req addr)) ∧
      (isRegion (parcelOf addr) = false ∨ s.parcelOwner (parcelOf addr) = some polder →
        (s.mem.poison.contains ln = true → exec (.hbmRead req polder addr up) s = .next (s.emit (.memData req addr d true))) ∧
        (s.mem.poison.contains ln = false → up.lost = none →
          (s.hbmSee ln up = (.ok, d) → exec (.hbmRead req polder addr up) s = .next (s.emit (.memData req addr d false))) ∧
          (∀ die, s.hbmSee ln up = (.corrected die, d) → ∃ t, exec (.hbmRead req polder addr up) s = .next t ∧ .memData req addr d false ∈ t.out ∧ .fault T.hbmc sl ∈ t.out ∧ causeSet t T.hbmc sl I.HBMC_CE ∧
            t.fget F.HBMC_ERRCNT_CE sl = min (s.fget F.HBMC_ERRCNT_CE sl + 1) (2 ^ F.HBMC_ERRCNT_CE.w - 1) ∧ bitAt (t.fget F.HBMC_STAT_DIE_ERR sl) (4 * groupOf ln + die % 4) = true ∧
            t.mem.hbm = s.mem.hbm ∧ t.mem.poison = s.mem.poison) ∧
          ((s.hbmSee ln up).1 = .bad → ∃ t, exec (.hbmRead req polder addr up) s = .next t ∧ .memError req addr ∈ t.out ∧ causeSet t T.hbmc sl I.HBMC_UE ∧ t.mem = { s.mem with poison := s.mem.poison ++ [ln] } ∧
            t.fget F.HBMC_ERRCNT_UE sl = min (s.fget F.HBMC_ERRCNT_UE sl + 1) (2 ^ F.HBMC_ERRCNT_UE.w - 1)))))) ∧
  (∀ (s : State) (req polder addr : Nat) (data : List Byte) (up : HbmEdges), data ≠ [] →
    (hbmInSpace addr = false ∨ hbmInSpace (addr + (data.length - 1)) = false → ∀ torn, exec (.hbmWrite req polder addr data torn up) s = .next (s.emit (.memError req addr))) ∧
    (hbmInSpace addr = true → hbmInSpace (addr + (data.length - 1)) = true → s.fbit F.HBMC_CTRL_EN (sliceOf addr) = true → s.sliceDenies polder addr = false → s.sliceDenies polder (addr + (data.length - 1)) = false →
      (addr % 64 = 0 → data.length % 64 = 0 → ∀ t, (t, true) = s.hbmPut addr data → exec (.hbmWrite req polder addr data none up) s = .next t) ∧
      (s.lostOf (addr / 64) = [] → s.lostOf ((addr + data.length - 1) / 64) = [] →
        (∀ t, (t, true) = s.hbmPut addr data → exec (.hbmWrite req polder addr data none {}) s = .next t) ∧
        (∀ t, (t, false) = s.hbmPut addr data → exec (.hbmWrite req polder addr data none {}) s = .next (t.emit (.memError req addr)))) ∧
      (∀ ln, ln = addr / 64 → ln = (addr + data.length - 1) / 64 → data.length < 64 → s.mem.poison.contains ln = false → up.first.lost = none → (s.hbmSee ln up.first).1 = .bad →
        ∃ t, exec (.hbmWrite req polder addr data none up) s = .next t ∧ .memError req addr ∈ t.out ∧ t.mem = { s.mem with poison := s.mem.poison ++ [ln] }) ∧
      (∀ k t, 64 * k < data.length → addr % 64 = 0 → (t, true) = s.hbmPut addr (data.take (64 * k)) →
        ∃ u, exec (.hbmWrite req polder addr data (some k) up) s = .next u ∧ u.mem = t.mem ∧ causeSet u T.hbmc (sliceOf (addr + 64 * k)) I.HBMC_TORN ∧
          u.fget F.HBMC_TORN_ADDR_LINE (sliceOf (addr + 64 * k)) = (addr / 64 + k) % 2 ^ 29))) ∧
  (∀ (s : State) (req off : Nat), off < 2 ^ 26 →
    (s.pondPoison.contains (off / 8) = true → ∀ up, exec (.pondAccess req off none none up) s = .next (s.emit (.memData req off (memBytes s.pond (off / 8 * 8) 8) true))) ∧
    (s.pondPoison.contains (off / 8) = false →
      exec (.pondAccess req off none none {}) s = .next (s.emit (.memData req off (memBytes s.pond (off / 8 * 8) 8) false)) ∧
      (∀ b, b < 72 → ∃ t, exec (.pondAccess req off none none ⟨⟨[b], none⟩, {}⟩) s = .next t ∧ .memData req off (memBytes s.pond (off / 8 * 8) 8) false ∈ t.out ∧
        causeSet t T.pond (off / 2 ^ 21) I.POND_CE ∧ t.pond = s.pond ∧ t.pondPoison = s.pondPoison) ∧
      (∀ up, wordCode up (off / 8) = .bad → ∃ t, exec (.pondAccess req off none none ⟨up, {}⟩) s = .next t ∧ .memError req off ∈ t.out ∧ causeSet t T.pond (off / 2 ^ 21) I.POND_UE ∧ t.pond = s.pond ∧
        t.pondPoison = s.pondPoison ++ [off / 8])) ∧
    (∀ d t ok, off + d.length ≤ 2 ^ 26 → (t, ok) = s.pondPut off d →
      exec (.pondAccess req off (some d) none {}) s = .next (if ok then t else t.emit (.memError req off)))) ∧
  (∀ (s : State) (h : Nat) (b : ScrubWhat) (up : ScrubUpset), 2 ≤ h ∨ s.fbit F.SCRUB_CTRL_EN h = false ∨ (b = .hbm ∧ s.fget F.SCRUB_RATE_MBPS h = 0) → exec (.scrubRead h b up) s = .next s) ∧
  (∀ (s : State) (h off : Nat), h < 2 → s.fbit F.SCRUB_CTRL_EN h = true → off = Tab.get (fun _ => 0) s.mem.pondPos h → 2 ^ 22 ≤ off → off < 2 ^ 22 + 2 ^ 18 - 1 → s.dirAt h (off - 2 ^ 22) = none →
    ∀ up, ∃ t, exec (.scrubRead h .pond up) s = .next t ∧ Tab.get (fun _ => 0) t.mem.pondPos h = off + 1 ∧ t = { s with mem := { s.mem with pondPos := t.mem.pondPos } }) ∧
  (∀ (s : State) (h off ln : Nat), h < 2 → s.fbit F.SCRUB_CTRL_EN h = true → off = Tab.get (fun _ => 0) s.mem.pondPos h → 2 ^ 22 ≤ off → s.dirAt h (off - 2 ^ 22) = some ln →
    (∃ t, exec (.scrubRead h .pond {}) s = .next t ∧ t.mem.coh = s.mem.coh ∧ t.pond = s.pond ∧ t.pondPoison = s.pondPoison ∧ Tab.get (fun _ => 0) t.mem.pondPos h = (off + 1) % (2 ^ 22 + 2 ^ 18)) ∧
    (∀ b, b < 72 → ∃ t, exec (.scrubRead h .pond { word := ⟨[b], none⟩ }) s = .next t ∧ t.mem.coh = s.mem.coh ∧ causeSet t T.pond (ln / 32768) I.POND_CE ∧
      t.fget F.SCRUB_COUNTS_CE h = min (s.fget F.SCRUB_COUNTS_CE h + 1) (2 ^ F.SCRUB_COUNTS_CE.w - 1) ∧ t.pond = s.pond ∧ t.pondPoison = s.pondPoison) ∧
    (∀ a b, a < 72 → b < 72 → a ≠ b → ∃ t, exec (.scrubRead h .pond { word := ⟨[a, b], none⟩ }) s = .next t ∧ t.dirEnt ln = ⟨none, 0⟩ ∧ (∀ m, t.cached m ln = .i) ∧ t.mem.coh.txns = s.mem.coh.txns ∧
      t.fget F.POND_DIR_RECALL (ln / 32768) = min (s.fget F.POND_DIR_RECALL (ln / 32768) + 1) (2 ^ F.POND_DIR_RECALL.w - 1) ∧ t.pond = s.pond ∧ t.pondPoison = s.pondPoison)) ∧
  (∀ (s : State) (h off w : Nat), h < 2 → s.fbit F.SCRUB_CTRL_EN h = true → off = Tab.get (fun _ => 0) s.mem.pondPos h → off + 1 < 2 ^ 22 → w = h * 2 ^ 22 + off → s.pondPoison.contains w = false →
    (∃ t, exec (.scrubRead h .pond {}) s = .next t ∧ Tab.get (fun _ => 0) t.mem.pondPos h = off + 1 ∧ t = { s with mem := { s.mem with pondPos := t.mem.pondPos } }) ∧
    (∀ up, wordCode up w = .bad → ∃ t, exec (.scrubRead h .pond { word := up }) s = .next t ∧ Tab.get (fun _ => 0) t.mem.pondPos h = off + 1 ∧ t.pondPoison = s.pondPoison ++ [w] ∧ causeSet t T.scrub h I.SCRUB_UE ∧ t.pond = s.pond)) ∧
  (∀ (s : State) (h pos : Nat), (pos < hbmLines → s.walkLine h pos = pos) ∧
    (∀ i k, k < 64 → pos = hbmLines + 64 * i + k → i < (s.sparesOf h).length → s.walkLine h pos = 64 * (s.sparesOf h).getD i 0 + k)) ∧
  (∀ (s : State) (h pos key nx : Nat), h < 2 → s.fbit F.SCRUB_CTRL_EN h = true → s.fget F.SCRUB_RATE_MBPS h ≠ 0 →
    pos = s.scrubNext h (s.mem.retired.length + 1) (s.fget F.SCRUB_POS_LINE h) → pos < s.walkEnd h → key = h * 2 ^ 29 + s.walkLine h pos →
    nx = s.scrubNext h (s.mem.retired.length + 1) (pos + 1) →
    (s.mem.poison.contains key = false → s.lostOf key = [] → nx < s.walkEnd h → exec (.scrubRead h .hbm {}) s = .next (s.fset F.SCRUB_POS_LINE h nx)) ∧
    (s.mem.poison.contains key = true → nx < s.walkEnd h → ∀ up, ∃ t, exec (.scrubRead h .hbm up) s = .next t ∧ t.fget F.SCRUB_POS_LINE h = nx % 2 ^ F.SCRUB_POS_LINE.w ∧
      t.fget F.SCRUB_POISON_COUNT h = min (s.fget F.SCRUB_POISON_COUNT h + 1) (2 ^ F.SCRUB_POISON_COUNT.w - 1) ∧ t = { s with regs := t.regs }) ∧
    (∀ up : HbmUpset, s.mem.poison.contains key = false → up.lost = none → (s.hbmSee key up).1 = .bad → nx < s.walkEnd h →
      ∃ t, exec (.scrubRead h .hbm { line := up }) s = .next t ∧ t.mem = { s.mem with poison := s.mem.poison ++ [key] } ∧ causeSet t T.scrub h I.SCRUB_UE ∧ t.fget F.SCRUB_POS_LINE h = nx % 2 ^ F.SCRUB_POS_LINE.w) ∧
    (s.mem.poison.contains key = false → s.lostOf key = [] → s.walkEnd h ≤ nx → ∃ t, exec (.scrubRead h .hbm {}) s = .next t ∧ t.fget F.SCRUB_POS_LINE h = 0 ∧
      causeSet t T.scrub h I.SCRUB_PASS_DONE ∧ t.fget F.SCRUB_PASSES_HBM h = (s.fget F.SCRUB_PASSES_HBM h + 1) % 2 ^ F.SCRUB_PASSES_HBM.w ∧ t.mem = s.mem)) ∧
  (∀ (s : State) (fn typ inst : Nat), ¬ ((typ = T.hbmc ∨ typ = T.pond) ∧ inst < 32) → exec (.logClear fn typ inst) s = .next s) ∧
  (∀ (s : State) (fn typ inst : Nat), (typ = T.hbmc ∨ typ = T.pond) → inst < 32 →
    exec (.logClear fn typ inst) s = exec (.registerWrite fn (regAddr typ inst (if typ = T.hbmc then 0x58 else 0x4C)) 4 1 false) s ∧
    (Reaches s fn typ inst → ∃ t, exec (.logClear fn typ inst) s = .next t ∧ t.memLog typ inst = [] ∧ t = { s with mem := t.mem } ∧ t.mem = { s.mem with logs := t.mem.logs } ∧
      ∀ i, i < 32 → i ≠ inst → t.memLog typ i = s.memLog typ i))

/-- DIRECTORY_REQUEST, SNOOP_ANSWER, EVICT_NOTICE and EVICT_ACK (R438 to R441, R443); PAGE_RETIRE and RETIRE_DONE (R447, R448). Which lines share a set, and
that a request which finds no way free waits, are the model's readings (log entry 358). PAGE_RETIRE is a write of HBMC_RETIRE, so one that does not reach the page is what BusAccess says of that write. -/
def Obligations.CoherenceAndRetirement : Prop :=
  (∀ (s : State) (mill line p : Nat), s.member mill = true → line < 2 ^ 20 → p = s.fget F.MILL_ROLE_POLDER mill →
    (∀ (w : Nat) (r : DirReads), s.cached mill line = CacheSt.m → (s.evictBuf mill).length < 8 → cacheBad r.dirty mill line = true → ∃ t : State, exec (.directoryRequest mill line .evict w r) s = .next t ∧
      t.cached mill line = CacheSt.i ∧ t.evictBuf mill = s.evictBuf mill ++ [⟨line, true, false⟩] ∧ (∀ k, k < 8 → 8 * line + k ∈ t.pondPoison) ∧
      (∀ x ∈ t.pondPoison, x ∈ s.pondPoison ∨ x / 8 = line) ∧ t = { s with mem := t.mem, pondPoison := t.pondPoison }) ∧
    (∀ (w : Nat) (r : DirReads), s.cached mill line ≠ CacheSt.i → (s.evictBuf mill).length < 8 → cacheBad r.dirty mill line = false ∨ s.cached mill line = CacheSt.s →
      exec (.directoryRequest mill line .evict w r) s = .next ((s.setCached mill line .i).setEvictBuf mill (s.evictBuf mill ++ [⟨line, s.cached mill line == CacheSt.m, false⟩]))) ∧
    (∀ (w : Nat) (r : DirReads), s.cached mill line = CacheSt.i ∨ 8 ≤ (s.evictBuf mill).length → exec (.directoryRequest mill line .evict w r) s = .next s) ∧
    (s.inWindow p (line * 64) = false ∨ (∃ t ∈ s.mem.coh.txns, t.line = line) → ∀ (w : Nat) (r : DirReads) (k : DirReq), k ≠ DirReq.evict → exec (.directoryRequest mill line k w r) s = .next s)) ∧
  (∀ (s : State) (mill line p w : Nat) (room dir : Prop) (free : List Nat), s.member mill = true → line < 2 ^ 20 → p = s.fget F.MILL_ROLE_POLDER mill →
    s.inWindow p (line * 64) = true → (∀ t ∈ s.mem.coh.txns, t.line ≠ line) → (room ↔ s.cached mill line ≠ CacheSt.i ∨ (s.cacheSet mill line).length + (s.cacheKept mill line).length < 8) →
      (dir ↔ s.dirEnt line ≠ (⟨none, 0⟩ : DirEnt) ∨ (s.dirSet line).length + (s.dirKept line).length < 16) → free = (s.cacheSet mill line).filter (fun x => !s.awaits mill x) →
      (∀ (k : DirReq), k = DirReq.load ∨ k = DirReq.store → ¬ room → dir → 8 ≤ (s.evictBuf mill).length ∨ free = [] → exec (.directoryRequest mill line k w {}) s = .next s) ∧
      (¬ room → dir → (s.evictBuf mill).length < 8 → free ≠ [] → (s.dirEnt line).owner = none → ∃ (t : State) (v : Nat), exec (.directoryRequest mill line .load w {}) s = .next t ∧ v ∈ free ∧
        t.evictBuf mill = s.evictBuf mill ++ [⟨v, s.cached mill v == CacheSt.m, false⟩] ∧ t.cached mill v = CacheSt.i ∧ t.cached mill line = CacheSt.s) ∧
      (∀ (k : DirReq), k = DirReq.load ∨ k = DirReq.store → ¬ dir → (s.mem.coh.lru.find? fun x => (s.dirSet line).contains x && !s.mem.coh.txns.any fun t => t.line == x) = none →
        exec (.directoryRequest mill line k w {}) s = .next s) ∧
      (∀ v : Nat, room → ¬ dir → (s.mem.coh.lru.find? fun x => (s.dirSet line).contains x && !s.mem.coh.txns.any fun t => t.line == x) = some v → v < 2 ^ 20 →
        ∃ t : State, exec (.directoryRequest mill line .load w {}) s = .next t ∧ t.dirEnt v = (⟨none, 0⟩ : DirEnt) ∧ (∀ m, t.cached m v = CacheSt.i) ∧ t.cached mill line = CacheSt.s ∧
          t.fget F.POND_DIR_RECALL (v / 32768) = min (s.fget F.POND_DIR_RECALL (v / 32768) + 1) (2 ^ F.POND_DIR_RECALL.w - 1)) ∧
      (room → dir →
      ((s.dirEnt line).owner = none ∨ (s.dirEnt line).owner = some mill → ∃ t : State, exec (.directoryRequest mill line .load w {}) s = .next t ∧
        t.cached mill line = CacheSt.s ∧ (t.dirEnt line).owner = none ∧ bitAt (t.dirEnt line).rows (mill / 5) = true ∧ t.out = s.out ++ [Out.dirGrant mill line 1] ∧
        t = { s with mem := t.mem, out := t.out }) ∧
      (∀ o : Nat, (s.dirEnt line).owner = some o → o ≠ mill → ∃ (t : State) (x : CohTxn), exec (.directoryRequest mill line .load w {}) s = .next t ∧
        t.mem.coh.txns = s.mem.coh.txns ++ [x] ∧ x.line = line ∧ x.mill = mill ∧ x.kind = DirReq.load ∧ x.wait = [o] ∧ x.tag = s.mem.coh.nextTag ∧ t.out = s.out ++ [Out.snoop o line x.tag]) ∧
      (s.snoopMills mill line = [] → ∃ t : State, exec (.directoryRequest mill line .store w {}) s = .next t ∧ t.cached mill line = CacheSt.m ∧ t.dirEnt line = (⟨some mill, 0⟩ : DirEnt) ∧
        t.out = s.out ++ [Out.dirGrant mill line 2] ∧ t = { s with mem := t.mem, out := t.out }) ∧
      (∀ (m : Nat) (l : List Nat), s.snoopMills mill line = m :: l → ∃ (t : State) (x : CohTxn), exec (.directoryRequest mill line .store w {}) s = .next t ∧
        t.mem.coh.txns = s.mem.coh.txns ++ [x] ∧ x.line = line ∧ x.wait = m :: l ∧ t.out = s.out ++ (m :: l).map fun k => Out.snoop k line x.tag)) ∧
      (s.snoopMills mill line = [] → ∃ t : State, exec (.directoryRequest mill line .amo w {}) s = .next t ∧ t.dirEnt line = (⟨none, 0⟩ : DirEnt) ∧ t.cached mill line = CacheSt.i ∧ t.out = s.out ++ [Out.dirGrant mill line 0] ∧
        t = { s with mem := t.mem, out := t.out }) ∧
      (∀ (k : DirReq) (b : Nat), k ≠ .evict → b < 72 → ∃ t : State, exec (.directoryRequest mill line k w { entry := ⟨[b], none⟩ }) s = .next t ∧ causeSet t T.pond (line / 32768) I.POND_CE ∧
        t.fget F.POND_ERRCNT_CE (line / 32768) = min (s.fget F.POND_ERRCNT_CE (line / 32768) + 1) (2 ^ F.POND_ERRCNT_CE.w - 1)) ∧
      (∀ (k : DirReq) (a b : Nat), k ≠ .evict → a < 72 → b < 72 → a ≠ b → ∃ t : State, exec (.directoryRequest mill line k w { entry := ⟨[a, b], none⟩ }) s = .next t ∧ t.dirEnt line = (⟨none, 0⟩ : DirEnt) ∧
        (∀ m, t.cached m line = CacheSt.i) ∧ t.mem.coh.txns = s.mem.coh.txns)) ∧
  (∀ (s : State) (mill tag : Nat) (dirty : List CacheUpset) (t : CohTxn), (s.mem.coh.txns.find? fun t => t.tag == tag && t.wait.contains mill) = some t → t.wait = [mill] →
    (∀ x ∈ s.mem.coh.txns, x.tag = tag → x = t) →
    ∃ u, exec (.snoopAnswer mill ⟨tag, dirty⟩) s = .next u ∧ (∀ x ∈ u.mem.coh.txns, x.tag ≠ tag) ∧
      (s.cached mill t.line = CacheSt.m → cacheBad dirty mill t.line = true → ∀ k, k < 8 → 8 * t.line + k ∈ u.pondPoison) ∧
      (s.cached mill t.line ≠ CacheSt.m ∨ cacheBad dirty mill t.line = false → u.pondPoison = s.pondPoison) ∧
      (t.kind = DirReq.load → u.cached t.mill t.line = CacheSt.s ∧ (t.mill ≠ mill → s.cached mill t.line ≠ CacheSt.i → u.cached mill t.line = CacheSt.s) ∧ .dirGrant t.mill t.line 1 ∈ u.out) ∧
      (t.kind = DirReq.store → u.cached t.mill t.line = CacheSt.m ∧ (t.mill ≠ mill → u.cached mill t.line = CacheSt.i) ∧ .dirGrant t.mill t.line 2 ∈ u.out)) ∧
  (∀ (s : State) (mill tag ln : Nat) (dirty : List CacheUpset), (∀ t ∈ s.mem.coh.txns, t.tag = tag → mill ∉ t.wait) → s.mem.coh.late = [(mill, tag, ln)] →
    exec (.snoopAnswer mill ⟨tag, dirty⟩) s = .next ((s.upCoh fun c => { c with late := [] }).finc F.POND_DIR_CROSS (ln / 32768))) ∧
  (∀ (s : State) (mill line : Nat),
    ((∀ e ∈ s.evictBuf mill, e.line = line → e.noticed = true) → exec (.evictNotice mill line) s = .next s) ∧
    (∀ l e r, s.evictBuf mill = l ++ e :: r → e.line = line → e.noticed = false → (∀ x ∈ l, x.line = line → x.noticed = true) →
      ∃ t : State, exec (.evictNotice mill line) s = .next t ∧ (mill, line) ∈ t.mem.coh.acks ∧ t.evictBuf mill = l ++ { e with noticed := true } :: r ∧
        ((∀ x ∈ s.mem.coh.txns, x.line ≠ line) →
          (e.dirty = true → (s.dirEnt line).owner = some mill → t.dirEnt line = (⟨none, 0⟩ : DirEnt) ∧ t.regs = s.regs) ∧
          (e.dirty = false → (s.dirEnt line).owner = none → bitAt (s.dirEnt line).rows (mill / 5) = true → (t.dirEnt line).owner = none ∧ t.regs = s.regs) ∧
          ((s.dirEnt line).holds mill e = false → t.mem.coh.dir = s.mem.coh.dir ∧
            t.fget F.POND_DIR_CROSS (line / 32768) = min (s.fget F.POND_DIR_CROSS (line / 32768) + 1) (2 ^ F.POND_DIR_CROSS.w - 1))))) ∧
  (∀ (s : State) (mill line : Nat),
    ((mill, line) ∈ s.mem.coh.acks → ∃ t : State, exec (.evictAck mill line) s = .next t ∧ t.mem.coh.acks = s.mem.coh.acks.erase (mill, line) ∧
      (∀ l e r, s.evictBuf mill = l ++ e :: r → e.line = line → e.noticed = true → (∀ x ∈ l, x.line = line → x.noticed = false) → t.evictBuf mill = l ++ r) ∧
      (∀ m, m ≠ mill → t.evictBuf m = s.evictBuf m) ∧ t.mem.coh.cache = s.mem.coh.cache ∧ t.mem.coh.dir = s.mem.coh.dir) ∧
    ((mill, line) ∉ s.mem.coh.acks → exec (.evictAck mill line) s = .next s)) ∧
  (∀ (s : State) (fn slice page key : Nat) (copies : List (Nat × HbmUpset)) (s0 : State), slice < 32 → page < 2 ^ 23 → key = slice / 16 * 2 ^ 23 + page → s0 = s.fset F.HBMC_RETIRE_STAT_PAGE slice page →
    exec (.pageRetire fn slice ⟨page, []⟩) s = exec (.registerWrite fn (regAddr T.hbmc slice 0x60) 4 page false) s ∧ (Reaches s fn T.hbmc slice →
    (s.fbit F.HBMC_RETIRE_STAT_BUSY slice = true → exec (.pageRetire fn slice ⟨page, copies⟩) s = .next (s.logErr T.hbmc slice 5 fn (regAddr T.hbmc slice 0x60) page)) ∧
    (s.fbit F.HBMC_RETIRE_STAT_BUSY slice = false →
      (page % 16 ≠ slice % 16 ∨ hbmLines / 64 ≤ page → exec (.pageRetire fn slice ⟨page, copies⟩) s = .next (s0.fset F.HBMC_RETIRE_STAT_RESULT slice 3)) ∧
      (page % 16 = slice % 16 → page < hbmLines / 64 →
        (key ∈ s.mem.retired → exec (.pageRetire fn slice ⟨page, copies⟩) s = .next (s0.fset F.HBMC_RETIRE_STAT_RESULT slice 4)) ∧
        (key ∉ s.mem.retired → 3200 ≤ s.fget F.HBMC_STAT_SPARES_USED slice → exec (.pageRetire fn slice ⟨page, copies⟩) s = .next (s0.fset F.HBMC_RETIRE_STAT_RESULT slice 2)) ∧
        (key ∉ s.mem.retired → s.fget F.HBMC_STAT_SPARES_USED slice < 3200 → ∃ t : State, exec (.pageRetire fn slice ⟨page, []⟩) s = .next t ∧ t.mem.retired = s.mem.retired ++ [key] ∧
          t.fbit F.HBMC_RETIRE_STAT_BUSY slice = true ∧ t.fget F.HBMC_STAT_SPARES_USED slice = s.fget F.HBMC_STAT_SPARES_USED slice + 1 ∧
          t.fget F.HBMC_RETIRE_STAT_PAGE slice = page ∧ t.led.reqs = s.led.reqs ++ [⟨3, s.listed.length / 56, retiredPayload t.listed (s.listed.length / 56), .retire slice⟩] ∧
          t.mem.hbm = s.mem.hbm ∧ t = { s with regs := t.regs, mem := t.mem, led := t.led } ∧
          (Tab.get (fun _ => (none : Option Nat)) s.mem.retiring slice = none → exec (.pageRetire fn slice ⟨page, copies⟩) s = .next (t.copyPage key copies))))))) ∧
  (∀ (s : State) (key k ln : Nat) (up : HbmUpset), k < 64 → ln = key / 2 ^ 23 * 2 ^ 29 + 64 * (key % 2 ^ 23) + k → s.mem.poison.contains ln = false → up.lost = none → (s.hbmSee ln up).1 = .bad →
    (s.copyPage key [(k, up)]).mem = { s.mem with poison := s.mem.poison ++ [ln] }) ∧
  (∀ (s : State) (slice key : Nat) (ok : Bool), Tab.get (fun _ => (none : Option Nat)) s.mem.retiring slice = some key → Tab.get (fun _ => (none : Option Bool)) s.mem.retireRec slice = some ok →
    ∃ t : State, exec (.retireDone slice) s = .next t ∧ t.fbit F.HBMC_RETIRE_STAT_BUSY slice = false ∧ t.fget F.HBMC_RETIRE_STAT_RESULT slice = (if ok then 1 else 5) ∧
      (ok = true → causeSet t T.hbmc slice I.HBMC_RETIRE_DONE) ∧ t.mem.retired = s.mem.retired ∧ SameRegsBut s t [fieldAt F.HBMC_RETIRE_STAT_BUSY slice, causeAt T.hbmc slice])

/-- LEDGER_RECORD_WRITE, LEDGER_COMMIT, LEDGER_RECOVERY, LEDGER_RD_ACCESS, COUNTER_WRITE and COUNTER_READ (R451 to R458, R463, R516). The CRC-8 of the commit
word starts from zero by the model's choice (log entry 246), and which of the records asked for comes first is their order (log entry 242). A fault
record beyond its limit is counted in a counter record whose key and layout are the model's (log entry 359). A slot whose commit word cannot be read counts as one without a commit word, a reading (log entry 386). LEDGER_RD_ACCESS is a read of LEDGER_RD_DATA. -/
def Obligations.LedgerRecords : Prop :=
  (∀ (s : State) (r : LReq) (l : List LReq) (slot : Nat), s.led.reqs = r :: l → s.ledgerWaits r = false → s.led.writing = none →
    (s.fget F.LEDGER_STAT_STATE 0 = 1 → s.ledgerOver r = false → s.ledgerSlot r.typ r.index = some slot → r.payload.length = 240 →
      ∃ t i, exec (.ledgerRecordWrite none) s = .next t ∧ t.led.reqs = l ∧ t.led.writing = some (slot, { r with index := i }) ∧ (circRegion r.typ = none → i = r.index) ∧
        ((circRegion r.typ).isSome = true → i = s.circNext r.typ ∧ t.circNext r.typ = s.circNext r.typ + 1) ∧
        (∀ b, b = r.payload ++ leBytes 4 (ledgerKey r.typ i) → t.slotBytes slot = b ++ leBytes 4 (crc32c b) ++ leBytes 8 0) ∧
        (∀ n, n ≠ slot → t.slotBytes n = s.slotBytes n) ∧ t.led.current = s.led.current ∧ t = { s with led := t.led }) ∧
    (s.fget F.LEDGER_STAT_STATE 0 = 2 ∨ (s.fget F.LEDGER_STAT_STATE 0 = 1 ∧ s.ledgerOver r = true) → r.who = .none →
      ∃ t, exec (.ledgerRecordWrite none) s = .next t ∧ (r.typ ≠ 4 ∨ s.fget F.LEDGER_STAT_STATE 0 = 2 → t.led = { s.led with reqs := l }) ∧
        (r.typ = 4 → s.fget F.LEDGER_STAT_STATE 0 = 1 → t.led = { s.led with reqs := t.led.reqs, faultsOver := s.led.faultsOver + 1 } ∧
          (∀ q ∈ t.led.reqs, q ∈ l ∨ (q.typ = 6 ∧ q.who = .none ∧ q.payload = leBytes 8 (s.led.faultsOver + 1))) ∧ ∃ q ∈ t.led.reqs, q.typ = 6 ∧ q.who = .none ∧ q.payload = leBytes 8 (s.led.faultsOver + 1)) ∧ causeSet t T.ledger 0 I.LEDGER_REFUSED ∧
        t.fget F.LEDGER_COUNTS_REFUSED 0 = min (s.fget F.LEDGER_COUNTS_REFUSED 0 + 1) (2 ^ F.LEDGER_COUNTS_REFUSED.w - 1) ∧
        SameRegsBut s t [fieldAt F.LEDGER_COUNTS_REFUSED 0, causeAt T.ledger 0] ∧ t = { s with led := t.led, regs := t.regs, out := t.out })) ∧
  (∀ (s : State) (own : Option (Nat × Nat × List Byte)), s.led.writing.isSome = true ∨ (s.fget F.LEDGER_STAT_STATE 0 ≠ 1 ∧ s.fget F.LEDGER_STAT_STATE 0 ≠ 2) →
    exec (.ledgerRecordWrite own) s = .next s) ∧
  (∀ s : State, s.led.reqs = [] → exec (.ledgerRecordWrite none) s = .next s) ∧
  (∀ (s : State) (typ index : Nat) (d : List Byte) (slot : Nat), s.led.writing = none → s.fget F.LEDGER_STAT_STATE 0 = 1 → s.ledgerOver { typ := typ, index := index, payload := d } = false →
    s.ledgerSlot typ index = some slot → exec (.ledgerRecordWrite (some (typ, index, d))) s = .next (s.ledgerFill slot { typ := typ, index := index, payload := d })) ∧
  (∀ (s : State) (r : LReq), r.typ = 3 → (s.ledgerOver r = true ↔ 102400 < 56 * r.index + retiredUsed r.payload)) ∧
  (∀ s : State, s.led.writing = none → exec .ledgerCommit s = .next s) ∧
  (∀ (s : State) (slot : Nat) (r : LReq), s.led.writing = some (slot, r) → ¬ (r.typ = 1 ∧ r.index = 0) → s.cget C.LEDGER_SEQ 0 + 1 < 2 ^ 48 →
    ∃ u : State, exec .ledgerCommit s = .next (u.ledgerTell r.who 0) ∧ u.led.writing = none ∧ u.currentSlot (ledgerKey r.typ r.index) = some slot ∧
      (∀ k, k ≠ ledgerKey r.typ r.index → u.currentSlot k = s.currentSlot k) ∧ u.cget C.LEDGER_SEQ 0 = s.cget C.LEDGER_SEQ 0 + 1 ∧
      u.slotBytes slot = (s.slotBytes slot).take 248 ++ leBytes 8 (commitWord (s.cget C.LEDGER_SEQ 0 + 1)) ∧ (∀ n, n ≠ slot → u.slotBytes n = s.slotBytes n) ∧
      u = { s with led := u.led, ctrs := u.ctrs } ∧ SameCtrsBut s u [regAddr C.LEDGER_SEQ.t 0 C.LEDGER_SEQ.off]) ∧
  (∀ (s : State) (slot : Nat) (r : LReq), s.led.writing = some (slot, r) → r.typ = 1 → r.index = 0 → r.who = .none → r.payload.length = 240 → (s.slotBytes slot).take 240 = r.payload →
    (s.slotBytes slot).length = 256 → ∃ t, exec .ledgerCommit s = .next t ∧ t.fget F.TRUST_SVN_MIN 0 = max s.fuse.svnFloor (leAt r.payload 4 4) % 2 ^ F.TRUST_SVN_MIN.w ∧ t.fuse = s.fuse) ∧
  (∀ w : Nat, ∀ n < 48, bitAt w n = bitAt (commitWord w) (n + 8)) ∧
  (∀ (s : State) (words : List (Nat × WordUpset)),
    (s.led.recovered = true ∨ (s.fget F.LEDGER_STAT_STATE 0 ≠ 0 ∧ s.fget F.LEDGER_STAT_STATE 0 ≠ 2) ∨ s.fbit F.POWER_STAT_PWRFAIL_N 0 = false → ∀ u, exec (.ledgerRecovery words u) s = .next s) ∧
    (s.led.recovered = false → s.fget F.LEDGER_STAT_STATE 0 = 0 ∨ s.fget F.LEDGER_STAT_STATE 0 = 2 → s.fbit F.POWER_STAT_PWRFAIL_N 0 = true →
      (s.fget F.LEDGER_STAT_STATE 0 = 0 → exec (.ledgerRecovery words true) s = .next ((({ s with led := { s.led with recovered := true } } : State).fset F.LEDGER_STAT_STATE 0 3).emit (.fault T.ledger 0))) ∧
      ∃ t, exec (.ledgerRecovery words false) s = .next t ∧ t.fget F.LEDGER_STAT_STATE 0 = (if s.fget F.LEDGER_STAT_STATE 0 = 2 then 2 else 1) ∧ causeSet t T.ledger 0 I.LEDGER_READY ∧
        t.led.writing = none ∧ t.led.slots = s.led.slots ∧ t.led.recovered = true ∧
        (Tab.wf (fun _ => List.replicate 256 0) s.led.slots = true → ∀ (good : Nat → Nat → Nat → Prop),
          (∀ n k q, good n k q ↔ (∀ w ∈ badWords words, w / 32 ≠ n) ∧ commitSeq (slotRead words n (s.slotBytes n)) = some q ∧ slotCrcOk (slotRead words n (s.slotBytes n)) = true ∧
            leAt (slotRead words n (s.slotBytes n)) 240 4 = k) →
          ∀ k n, t.currentSlot k = some n → ∃ q, good n k q ∧ ∀ m q', Tab.get (fun _ => List.replicate 256 0) s.led.slots m ≠ List.replicate 256 0 → good m k q' → q' ≤ q) ∧
        t = { s with led := t.led, regs := t.regs, ctrs := t.ctrs, out := t.out })) ∧
  (∀ (s : State) (fn : Nat) (up : WordUpset), up = {} ∨ s.gate fn ≠ .open' ∨ s.sees fn T.ledger 0 = false → exec (.ledgerRdAccess fn up) s = exec (.readClear fn (regAddr T.ledger 0 0x54) 4) s) ∧
  (∀ (s : State) (fn w slot : Nat), Reaches s fn T.ledger 0 → w = s.fget F.LEDGER_RD_SEL_WORD 0 → slot = s.fget F.LEDGER_RD_SEL_SLOT 0 →
    (∃ t, exec (.ledgerRdAccess fn {}) s = .next t ∧ t.out = s.out ++ [.readData fn (regAddr T.ledger 0 0x54) (leAt (s.slotBytes slot) (4 * w) 4)] ∧
      t.fget F.LEDGER_RD_SEL_WORD 0 = (w + 1) % 64 ∧ t.fget F.LEDGER_RD_SEL_SLOT 0 = (if w = 63 then (slot + 1) % 32768 else slot) ∧
      SameRegsBut s t [fieldAt F.LEDGER_RD_SEL_WORD 0] ∧ t = { s with regs := t.regs, out := t.out }) ∧
    (∀ b, b < 72 → ∃ t, exec (.ledgerRdAccess fn ⟨[b], none⟩) s = .next t ∧ .readData fn (regAddr T.ledger 0 0x54) (leAt (s.slotBytes slot) (4 * w) 4) ∈ t.out ∧ .fault T.ledger 0 ∈ t.out ∧
      t.fget F.LEDGER_COUNTS_CE 0 = min (s.fget F.LEDGER_COUNTS_CE 0 + 1) (2 ^ F.LEDGER_COUNTS_CE.w - 1) ∧ t.led = s.led) ∧
    (∀ up, wordCode up (32 * slot + w / 2) = .bad → ∃ t, exec (.ledgerRdAccess fn up) s = .next t ∧ .completerAbort fn (regAddr T.ledger 0 0x54) ∈ t.out ∧ causeSet t T.ledger 0 I.LEDGER_UE ∧ t.led = s.led)) ∧
  (∀ (s : State) (p ring tag : Nat) (c : VCmd) (d : List Byte), Starts s p ring tag 0x38 false [7] c →
    exec (.counterWrite p ring tag none) s = .next (s.complete c 0xA) ∧ (d.length ≠ 240 → exec (.counterWrite p ring tag (some d)) s = .next (s.complete c 6)) ∧
    (d.length = 240 → exec (.counterWrite p ring tag (some d)) s = .next ((s.markStarted c).ledgerAsk ⟨6, 8 * p + c.w 0 % 8, d, .cmd c.order⟩))) ∧
  (∀ (s : State) (p ring tag : Nat) (c : VCmd), Starts s p ring tag 0x39 false [7] c →
    (∀ b, s.ledgerPayload 6 (8 * p + c.w 0 % 8) = some b → exec (.counterRead p ring tag) s = .next ((s.emit (.dmaWrite p c.addr b)).complete c 0)) ∧
    (s.ledgerPayload 6 (8 * p + c.w 0 % 8) = none → ∃ (b : List Byte) (n : Nat), b.length = 240 ∧
      exec (.counterRead p ring tag) s = .next ((({ s with fresh := n } : State).emit (.dmaWrite p c.addr b)).complete c 0)))

/-- CREATE, ENABLE, GRANT_MILL, REVOKE_MILL, RESET, DESTROY, ROLE_CHANGE_COMPLETE and ZERO_DONE (R471 to R473, R476, R477, R482, R484, R510, R562, R581). The digest of
the library in the role record is a free value. -/
def Obligations.PolderLifecycle : Prop :=
  (∀ (s : State) (p ring tag : Nat) (c : VCmd), p ≠ 0 → s.polderTurn c = true → ∀ e ∈ [(Instr.create p ring tag, 0x40, [15]), (.enable p ring tag, 0x41, [15]), (.grantMill p ring tag, 0x42, [15, m32]),
      (.revokeMill p ring tag, 0x43, [15, m32]), (.grantParcels p ring tag, 0x44, [15, m32, m32]), (.revokeParcels p ring tag, 0x45, [15, m32]), (.setStreams p ring tag, 0x46, [15, m32, m32]),
      (.setPwin p ring tag, 0x47, [15, 0xFF13]), (.keyEnrol p ring tag none, 0x48, [15]), (.keyRemove p ring tag none, 0x49, [15]), (.reset p ring tag, 0x4A, [15]), (.destroy p ring tag, 0x4B, [15])],
    Starts s p ring tag e.2.1 false e.2.2 c → exec e.1 s = .next (s.complete c 7)) ∧
  (∀ (s : State) (ring tag q : Nat) (c : VCmd), s.polderTurn c = true → q = c.w 0 % 16 →
    (Starts s 0 ring tag 0x40 false [15] c →
      (q = 0 → exec (.create 0 ring tag) s = .next (s.complete c 6)) ∧ (q ≠ 0 → s.debugUnlocked = true → exec (.create 0 ring tag) s = .next (s.complete c 7)) ∧
      (q ≠ 0 → s.debugUnlocked = false → s.polState q ≠ 0 → exec (.create 0 ring tag) s = .next (s.complete c 1)) ∧
      (q ≠ 0 → s.debugUnlocked = false → s.polState q = 0 → s.pol.rngFail = true → exec (.create 0 ring tag) s = .next (s.complete c 0xA)) ∧
      (q ≠ 0 → s.debugUnlocked = false → s.polState q = 0 → s.pol.rngFail = false → ∃ u : State, exec (.create 0 ring tag) s = .next (u.complete c 0) ∧ u.polState q = 1 ∧ causeSet u T.dike q I.DIKE_STATE_CHANGE ∧
        u.pol = { s.pol with draws := s.pol.draws + 1, slotKey := u.pol.slotKey } ∧ Tab.get (fun _ => 0) u.pol.slotKey q = s.pol.draws + 1 ∧
        (∀ r, r ≠ q → Tab.get (fun _ => 0) u.pol.slotKey r = Tab.get (fun _ => 0) s.pol.slotKey r) ∧ u.mrValue 6 = sha384 (s.mrValue 6 ++ sha384 (bytesOf [0x40, q])) ∧
        SameRegsBut s u [fieldAt F.DIKE_STAT_STATE q, causeAt T.dike q] ∧ u = { s with pol := u.pol, meas := u.meas, regs := u.regs, out := u.out })) ∧
    (Starts s 0 ring tag 0x41 false [15] c → (s.polState q ≠ 1 → exec (.enable 0 ring tag) s = .next (s.complete c 1)) ∧
      (s.polState q = 1 → ∃ u : State, exec (.enable 0 ring tag) s = .next (u.complete c 0) ∧ u.polState q = 2 ∧ causeSet u T.dike q I.DIKE_STATE_CHANGE ∧
        SameRegsBut s u [fieldAt F.DIKE_STAT_STATE q, causeAt T.dike q] ∧ u = { s with regs := u.regs, out := u.out })) ∧
    (∀ m, m = c.w 1 → Starts s 0 ring tag 0x42 false [15, m32] c →
      (q = 0 ∨ (s.notLive q = false ∧ s.fuse.mills ≤ m) → exec (.grantMill 0 ring tag) s = .next (s.complete c 6)) ∧
      (q ≠ 0 → (s.notLive q = true ∨ (m < s.fuse.mills ∧ (s.role m ≠ 1 ∨ s.fget F.MILL_ROLE_POLDER m ≠ 0 ∨ s.holdsClasses m = true ∨ s.changing m = true))) →
        exec (.grantMill 0 ring tag) s = .next (s.complete c 1)) ∧
      (q ≠ 0 → s.notLive q = false → m < s.fuse.mills → s.role m = 1 → s.fget F.MILL_ROLE_POLDER m = 0 → s.holdsClasses m = false → s.changing m = false →
        ∃ t, exec (.grantMill 0 ring tag) s = .next t ∧ t.mill m = { s.mill m with stopped := true } ∧ (∀ k, k ≠ m → t.mill k = s.mill k) ∧ t.pol = { s.pol with changes := s.pol.changes ++ [⟨m, 0, q, c.order, .grant⟩] } ∧
          t.vk = (s.markStarted c).vk ∧ t = { s with mills := t.mills, pol := t.pol, vk := t.vk })) ∧
    (∀ m, m = c.w 1 → Starts s 0 ring tag 0x43 false [15, m32] c →
      (q = 0 ∨ (s.notLive q = false ∧ s.fuse.mills ≤ m) → exec (.revokeMill 0 ring tag) s = .next (s.complete c 6)) ∧
      (q ≠ 0 → (s.notLive q = true ∨ (m < s.fuse.mills ∧ (s.role m ≠ 1 ∨ s.fget F.MILL_ROLE_POLDER m ≠ q ∨ s.holdsClasses m = true ∨ s.changing m = true))) →
        exec (.revokeMill 0 ring tag) s = .next (s.complete c 1)) ∧
      (q ≠ 0 → s.notLive q = false → m < s.fuse.mills → s.role m = 1 → s.fget F.MILL_ROLE_POLDER m = q → s.holdsClasses m = false → s.changing m = false →
        ∃ t, exec (.revokeMill 0 ring tag) s = .next t ∧ t.mill m = { s.mill m with stopped := true } ∧ (∀ k, k ≠ m → t.mill k = s.mill k) ∧ t.pol = { s.pol with changes := s.pol.changes ++ [⟨m, q, 0, c.order, .grant⟩] } ∧
          t.vk = (s.markStarted c).vk ∧ t = { s with mills := t.mills, pol := t.pol, vk := t.vk })) ∧
    (Starts s 0 ring tag 0x4A false [15] c →
      (q = 0 → exec (.reset 0 ring tag) s = .next (s.complete c 6)) ∧ (q ≠ 0 → s.polState q ≠ 2 → exec (.reset 0 ring tag) s = .next (s.complete c 1)) ∧
      (q ≠ 0 → s.polState q = 2 → s.pol.rngFail = true → exec (.reset 0 ring tag) s = .next (s.complete c 0xA)) ∧
      (q ≠ 0 → s.polState q = 2 → s.pol.rngFail = false → s.millsOf q ≠ [] → (∀ m ∈ s.millsOf q, s.changing m = false) → ∃ t, exec (.reset 0 ring tag) s = .next t ∧ t.polState q = 3 ∧
        (∀ m ∈ s.millsOf q, (t.mill m).stopped = true ∧ ⟨m, q, q, c.order, .reset⟩ ∈ t.pol.changes) ∧ (∀ m, m ∉ s.millsOf q → t.mill m = s.mill m) ∧ (∀ x ∈ t.vk.cmds, x.polder = q → x.aborted = true) ∧
        t.mrValue 6 = sha384 (s.mrValue 6 ++ sha384 (bytesOf [0x4A, q]))) ∧
      (q ≠ 0 → s.polState q = 2 → s.pol.rngFail = false → s.millsOf q = [] → s.pol.changes = [] → ∃ t, exec (.reset 0 ring tag) s = .next t ∧ t.polState q = 2 ∧ (∀ x ∈ t.vk.cmds, x.order ≠ c.order) ∧
        t.fbit F.DIKE_STAT_ZEROISING q = true ∧ ∀ g ∈ s.parcelsOf q, ∀ o, o < 2 ^ 21 → memByte t.mem.hbm (parcelAddr g + o) = 0)) ∧
    (Starts s 0 ring tag 0x4B false [15] c →
      (q = 0 → exec (.destroy 0 ring tag) s = .next (s.complete c 6)) ∧ (q ≠ 0 → s.notLive q = true → exec (.destroy 0 ring tag) s = .next (s.complete c 1)) ∧
      (q ≠ 0 → s.notLive q = false → s.millsOf q ≠ [] → (∀ m ∈ s.millsOf q, s.changing m = false) → ∃ t, exec (.destroy 0 ring tag) s = .next t ∧ t.polState q = 4 ∧
        (∀ m ∈ s.millsOf q, (t.mill m).stopped = true ∧ ⟨m, q, q, c.order, .destroy⟩ ∈ t.pol.changes) ∧ (∀ m, m ∉ s.millsOf q → t.mill m = s.mill m) ∧ ∀ x ∈ t.vk.cmds, x.polder = q → x.aborted = true) ∧
      (q ≠ 0 → s.notLive q = false → s.millsOf q = [] → s.pol.changes = [] → s.pol.rngFail = true → ∃ t, exec (.destroy 0 ring tag) s = .next t ∧ t.polState q = 4 ∧
        t.pol = { s.pol with keyWaits := s.pol.keyWaits ++ [(q, c.order, .destroy)] }) ∧
      (q ≠ 0 → s.notLive q = false → s.millsOf q = [] → s.pol.changes = [] → s.pol.rngFail = false → ∃ t, exec (.destroy 0 ring tag) s = .next t ∧ t.polState q = 4 ∧ (q, c.order, true) ∈ t.pol.waits ∧ (∀ e ∈ t.pol.keys, e.1 ≠ q) ∧
        (∀ e ∈ t.pol.pages, e.1 / 32768 ≠ q) ∧ t.fbit F.DIKE_STAT_ZEROISING q = true ∧ t.fget F.DIKE_STREAM_COUNT_COUNT q = 0 ∧ t.fget F.DIKE_KEYS_ENROLLED q = 0 ∧
        ∀ g ∈ s.parcelsOf q, ∀ o, o < 2 ^ 21 → memByte t.mem.hbm (parcelAddr g + o) = 0))) ∧
  (∀ (s : State) (m : Nat) (bad : Bool),
    ((∀ r ∈ s.pol.changes, r.mill ≠ m) → exec (.roleChangeComplete m bad) s = .next s) ∧
    (∀ r, s.pol.changes.find? (fun r => r.mill == m) = some r →
      (r.why ≠ .giveUp → rowOf m ∈ s.sch.takeover → exec (.roleChangeComplete m bad) s = .next s) ∧
      (∀ role epoch, role = (s.roleOfMill m).getD 0 → epoch = (s.fget F.MILL_ROLE_EPOCH m + 1) % 65536 → r.why = .grant → rowOf m ∉ s.sch.takeover → bad = false → m < s.fuse.mills → r.polder < 16 → r.old < 16 →
        (∀ h ∈ s.pol.held, h.role ≠ role) → ∃ t : State, exec (.roleChangeComplete m bad) s = .next (t.completeOrder r.order 0) ∧ t.fget F.MILL_ROLE_EPOCH m = epoch ∧ t.fget F.MILL_ROLE_POLDER m = r.polder ∧
          t.mill m = { library := true } ∧ (∀ k, k ≠ m → t.mill k = s.mill k ∧ (k < 80 → t.fget F.MILL_ROLE_EPOCH k = s.fget F.MILL_ROLE_EPOCH k ∧ t.fget F.MILL_ROLE_POLDER k = s.fget F.MILL_ROLE_POLDER k)) ∧
          (∀ n, n / 16 = m → t.stone n = {}) ∧ (∀ n, n / 16 ≠ m → t.stone n = s.stone n) ∧ t.placedIn m = [] ∧ (∀ c ∈ t.pol.changes, c.mill ≠ m) ∧
          t.mrValue 5 = sha384 (s.mrValue 5 ++ sha384 (leBytes 1 m ++ leBytes 1 role ++ leBytes 1 r.polder ++ leBytes 2 epoch ++ libDigest)) ∧ t.vk = s.vk))) ∧
  (∀ (s : State) (q : Nat), (16 ≤ q ∨ s.fbit F.DIKE_STAT_ZEROISING q = false → exec (.zeroDone q) s = .next s) ∧
    (q < 16 → s.fbit F.DIKE_STAT_ZEROISING q = true → ∃ u : State, u.fbit F.DIKE_STAT_ZEROISING q = false ∧ causeSet u T.dike q I.DIKE_ZERO_DONE ∧ u.pol.zero = s.pol.zero.filter (fun j => j.polder != q) ∧
      (∀ j ∈ s.pol.zero, j.polder = q → j.free = true → u.parcelOwner j.parcel = none) ∧ (∀ g, (∀ j ∈ s.pol.zero, j.polder = q → j.free = true → j.parcel ≠ g) → u.parcelOwner g = s.parcelOwner g) ∧
      u = { s with pol := u.pol, regs := u.regs, out := u.out } ∧
      ((∀ w ∈ s.pol.waits, w.1 ≠ q) → exec (.zeroDone q) s = .next u) ∧
      (∀ o, s.pol.waits.filter (fun w => w.1 == q) = [(q, o, false)] → exec (.zeroDone q) s = .next (u.completeOrder o 0)) ∧
      (∀ o, s.pol.waits.filter (fun w => w.1 == q) = [(q, o, true)] → ∃ t, exec (.zeroDone q) s = .next t ∧ t.polState q = 0 ∧ causeSet t T.dike q I.DIKE_STATE_CHANGE ∧ Tab.get (fun _ => 0) t.pol.slotKey q = 0 ∧
        ∀ x ∈ t.vk.cmds, x.order ≠ o)))

/-- GRANT_PARCELS, REVOKE_PARCELS, SET_STREAMS, SET_PWIN, KEY_ENROL, KEY_REMOVE, MAP, UNMAP, DMA_WRITE and DMA_READ (R437, R471, R475 to R478, R481, R484, R489, R510, R516). -/
def Obligations.PolderResources : Prop :=
  (∀ (s : State) (ring tag q : Nat) (c : VCmd), s.polderTurn c = true → q = c.w 0 % 16 →
    (∀ (keys id : Option (List Byte)), s.notLive q = true → ∀ e ∈ [(Instr.grantParcels 0 ring tag, 0x44, [15, m32, m32]), (.setStreams 0 ring tag, 0x46, [15, m32, m32]), (.setPwin 0 ring tag, 0x47, [15, 0xFF13]),
        (.keyEnrol 0 ring tag keys, 0x48, [15]), (.keyRemove 0 ring tag id, 0x49, [15])], Starts s 0 ring tag e.2.1 false e.2.2 c → exec e.1 s = .next (s.complete c 1)) ∧
    (s.notLive q = false →
      (∀ st n free pick, Starts s 0 ring tag 0x44 false [15, m32, m32] c → st = c.w 1 → n = c.w 2 → free = 8288 - (s.pol.owner.filter fun e => e.1 / 9728 == st).length →
        pick = (((List.range 8288).map (9728 * st + 1440 + ·)).filter fun g => (s.parcelOwner g).isNone).take n →
        (2 ≤ st → exec (.grantParcels 0 ring tag) s = .next (s.complete c 6)) ∧ (st < 2 → free < n → exec (.grantParcels 0 ring tag) s = .next (s.complete c 4)) ∧
        (st < 2 → n ≤ free → ∃ u : State, exec (.grantParcels 0 ring tag) s = .next (u.complete c 0) ∧ (∀ g ∈ pick, u.parcelOwner g = some q ∧ ∀ o, o < 2 ^ 21 → memByte u.mem.hbm (parcelAddr g + o) = 0) ∧
          (∀ g, g ∉ pick → u.parcelOwner g = s.parcelOwner g) ∧ (∀ a, (∀ g ∈ pick, a < parcelAddr g ∨ parcelAddr g + 2 ^ 21 ≤ a) → memByte u.mem.hbm a = memByte s.mem.hbm a) ∧
          (st = 0 → u.fget F.DIKE_REGION0_PARCELS q = (s.fget F.DIKE_REGION0_PARCELS q + pick.length) % 2 ^ 14) ∧ (st = 1 → u.fget F.DIKE_REGION1_PARCELS q = (s.fget F.DIKE_REGION1_PARCELS q + pick.length) % 2 ^ 14) ∧
          SameRegsBut s u [fieldAt F.DIKE_REGION0_PARCELS q, fieldAt F.DIKE_REGION1_PARCELS q] ∧ u = { s with mem := u.mem, pol := u.pol, regs := u.regs })) ∧
      (∀ b n, Starts s 0 ring tag 0x46 false [15, m32, m32] c → b = c.w 1 → n = c.w 2 →
        (s.polState q = 2 → (∃ e ∈ s.streams, e.2.st ≠ .idle ∧ e.2.polder = q ∧ (e.1 < b ∨ b + n ≤ e.1)) → exec (.setStreams 0 ring tag) s = .next (s.complete c 1)) ∧
        (s.polState q ≠ 2 ∨ (∀ e ∈ s.streams, e.2.st ≠ .idle → e.2.polder = q → b ≤ e.1 ∧ e.1 < b + n) →
          (262144 < b + n ∨ 262144 ≤ b ∨ (∃ o, o < 16 ∧ o ≠ q ∧ n ≠ 0 ∧ s.fget F.DIKE_STREAM_COUNT_COUNT o ≠ 0 ∧ b < s.fget F.DIKE_STREAM_BASE_BASE o + s.fget F.DIKE_STREAM_COUNT_COUNT o ∧
            s.fget F.DIKE_STREAM_BASE_BASE o < b + n) → exec (.setStreams 0 ring tag) s = .next (s.complete c 6)) ∧
          (b + n ≤ 262144 → b < 262144 → (∀ o, o < 16 → o ≠ q → n ≠ 0 → s.fget F.DIKE_STREAM_COUNT_COUNT o ≠ 0 → s.fget F.DIKE_STREAM_BASE_BASE o + s.fget F.DIKE_STREAM_COUNT_COUNT o ≤ b ∨
            b + n ≤ s.fget F.DIKE_STREAM_BASE_BASE o) → ∃ u : State, exec (.setStreams 0 ring tag) s = .next (u.complete c 0) ∧ u.fget F.DIKE_STREAM_BASE_BASE q = b ∧ u.fget F.DIKE_STREAM_COUNT_COUNT q = n ∧
            SameRegsBut s u [fieldAt F.DIKE_STREAM_BASE_BASE q, fieldAt F.DIKE_STREAM_COUNT_COUNT q] ∧ u = { s with regs := u.regs }))) ∧
      (∀ a w h lo hi, Starts s 0 ring tag 0x47 false [15, 0xFF13] c → a = c.w 1 → w = a % 4 → h = bitField a 4 1 → lo = bitField a 8 4 → hi = bitField a 12 4 →
        ((∃ k, lo ≤ k ∧ k ≤ hi ∧ (h, k) ∈ (s.otherWindows q w).flatMap pwinUnits) → exec (.setPwin 0 ring tag) s = .next (s.complete c 4)) ∧
        ((∀ k, lo ≤ k → k ≤ hi → (h, k) ∉ (s.otherWindows q w).flatMap pwinUnits) → ∃ u : State, exec (.setPwin 0 ring tag) s = .next (u.complete c 0) ∧
          u.sch.fx = s.sch.fx ++ [(s.turn + 1, .pwin q h w (if hi < lo then 0 else 2 ^ 31 + h * 256 + lo * 16 + hi))] ∧ u = { s with sch := { s.sch with fx := u.sch.fx } })) ∧
      (∀ keys, Starts s 0 ring tag 0x48 false [15] c → (keys = none → exec (.keyEnrol 0 ring tag keys) s = .next (s.complete c 0xA)) ∧
        (∀ d, keys = some d → ((q, d) ∈ s.pol.keys → exec (.keyEnrol 0 ring tag keys) s = .next (s.complete c 1)) ∧ ((q, d) ∉ s.pol.keys →
          (d.length ≠ 2689 → exec (.keyEnrol 0 ring tag keys) s = .next (s.complete c 6)) ∧
          (d.length = 2689 → 4 ≤ (s.pol.keys.filter fun e => e.1 == q).length → exec (.keyEnrol 0 ring tag keys) s = .next (s.complete c 3)) ∧
          (d.length = 2689 → (s.pol.keys.filter fun e => e.1 == q).length < 4 → ∃ u : State, exec (.keyEnrol 0 ring tag keys) s = .next (u.complete c 0) ∧ u.pol = { s.pol with keys := s.pol.keys ++ [(q, d)] } ∧
            u.fget F.DIKE_KEYS_ENROLLED q = min (s.fget F.DIKE_KEYS_ENROLLED q + 1) 7 ∧ u.mrValue 6 = sha384 (s.mrValue 6 ++ sha384 d) ∧ SameRegsBut s u [fieldAt F.DIKE_KEYS_ENROLLED q] ∧
            u = { s with pol := u.pol, regs := u.regs, meas := u.meas })))) ∧
      (∀ id, Starts s 0 ring tag 0x49 false [15] c → (id = none → exec (.keyRemove 0 ring tag id) s = .next (s.complete c 0xA)) ∧
        (∀ x, id = some x → ((∀ e ∈ s.pol.keys, e.1 = q → (sha384 e.2).take 32 ≠ x) → exec (.keyRemove 0 ring tag id) s = .next (s.complete c 1)) ∧
          ((∃ e ∈ s.pol.keys, e.1 = q ∧ (sha384 e.2).take 32 = x) → ∃ u : State, exec (.keyRemove 0 ring tag id) s = .next (u.complete c 0) ∧
            (∀ e, e ∈ u.pol.keys ↔ e ∈ s.pol.keys ∧ ¬ (e.1 = q ∧ (sha384 e.2).take 32 = x)) ∧ u.fget F.DIKE_KEYS_ENROLLED q = s.fget F.DIKE_KEYS_ENROLLED q - 1 ∧
            u.mrValue 6 = sha384 (s.mrValue 6 ++ sha384 x) ∧ SameRegsBut s u [fieldAt F.DIKE_KEYS_ENROLLED q] ∧ u = { s with pol := u.pol, regs := u.regs, meas := u.meas })))) ∧
    (∀ g, Starts s 0 ring tag 0x45 false [15, m32] c → g = c.w 1 →
      (∀ o, o ≠ q → s.parcelOwner g = some o → exec (.revokeParcels 0 ring tag) s = .next (s.complete c 7)) ∧
      (s.parcelOwner g = some q → (s.notLive q = true ∨ s.parcelMapped q g = true ∨ ∃ j ∈ s.pol.zero, j.parcel = g ∧ j.free = true) → exec (.revokeParcels 0 ring tag) s = .next (s.complete c 1)) ∧
      (s.notLive q = false → s.parcelOwner g = none → s.parcelMapped q g = false → (∀ j ∈ s.pol.zero, j.parcel = g → j.free = false) → exec (.revokeParcels 0 ring tag) s = .next (s.complete c 6)) ∧
      (s.notLive q = false → s.parcelOwner g = some q → s.parcelMapped q g = false → (∀ j ∈ s.pol.zero, j.parcel = g → j.free = false) → ∃ t, exec (.revokeParcels 0 ring tag) s = .next t ∧
        (∀ o, o < 2 ^ 21 → memByte t.mem.hbm (parcelAddr g + o) = 0) ∧ ⟨g, q, true⟩ ∈ t.pol.zero ∧ (q, c.order, false) ∈ t.pol.waits ∧ t.pol.owner = s.pol.owner ∧ t.fbit F.DIKE_STAT_ZEROISING q = true ∧
        (∀ a, a < parcelAddr g ∨ parcelAddr g + 2 ^ 21 ≤ a → memByte t.mem.hbm a = memByte s.mem.hbm a) ∧ t.vk = (s.markStarted c).vk ∧ SameRegsBut s t [fieldAt F.DIKE_STAT_ZEROISING q] ∧
        t = { s with mem := t.mem, pol := t.pol, regs := t.regs, vk := t.vk }))) ∧
  (∀ (s : State) (p ring tag n g : Nat) (c : VCmd), n = c.w 0 → g = c.w 1 % 32768 →
    (Starts s p ring tag 0x32 false [0x7FFF, 0x80007FFF] c →
      (s.parcelOwner g ≠ some p → exec (.map p ring tag) s = .next (s.complete c 7)) ∧ (s.parcelOwner g = some p → s.revoking g = true → exec (.map p ring tag) s = .next (s.complete c 7)) ∧
      (s.parcelOwner g = some p → s.revoking g = false → (s.page p n).isSome = true → exec (.map p ring tag) s = .next (s.complete c 1)) ∧
      (s.parcelOwner g = some p → s.revoking g = false → s.page p n = none → ∃ u : State, exec (.map p ring tag) s = .next (u.complete c 0) ∧ u.page p n = some (g, bitAt (c.w 1) 31) ∧
        (∀ r k, k < 32768 → (r, k) ≠ (p, n) → u.page r k = s.page r k) ∧ SameRegsBut s u [fieldAt F.DIKE_REGION0_MAPPED p, fieldAt F.DIKE_REGION1_MAPPED p] ∧ u = { s with pol := u.pol, regs := u.regs })) ∧
    (Starts s p ring tag 0x33 false [0x7FFF] c →
      (s.page p n = none → exec (.unmap p ring tag) s = .next (s.complete c 1)) ∧
      ((s.page p n).isSome = true → ∃ u : State, exec (.unmap p ring tag) s = .next (u.complete c 0) ∧ u.page p n = none ∧ (∀ r k, k < 32768 → (r, k) ≠ (p, n) → u.page r k = s.page r k) ∧
        SameRegsBut s u [fieldAt F.DIKE_REGION0_MAPPED p, fieldAt F.DIKE_REGION1_MAPPED p] ∧ u = { s with pol := u.pol, regs := u.regs }))) ∧
  (∀ (s : State) (p ring tag pa len : Nat) (bt : Option Nat) (c : VCmd), pa = c.pair 0 → len = c.len →
    (Starts s p ring tag 0x30 false [m32, m32] c → ∀ d : List Byte,
      (len = 0 ∨ 67108864 < len → ∀ e, exec (.dmaWrite p ring tag e bt) s = .next (s.complete c 6)) ∧
      (0 < len → len ≤ 67108864 → exec (.dmaWrite p ring tag none bt) s = .next (s.complete c 0xA) ∧
        (d.length = len → ∀ k a, s.walk p pa true (bt == some 0) = (k, a) →
          (k ≠ 0 → exec (.dmaWrite p ring tag (some d) bt) s = .next ((s.walkFault p 1 k pa).complete c (if 3 ≤ k ∧ k ≤ 5 then 0xA else 7) 0 0 0 k)) ∧
          (k = 0 → pa % 2 ^ 21 + len ≤ 2 ^ 21 → (∀ w ∈ s.mem.poison, w * 64 + 64 ≤ a ∨ a + len ≤ w * 64) → ∃ u : State, exec (.dmaWrite p ring tag (some d) bt) s = .next (u.complete c 0 0 0 len 0) ∧
            (∀ i, i < len → memByte u.mem.hbm (a + i) = d.getD i 0) ∧ (∀ x, x < a ∨ a + len ≤ x → memByte u.mem.hbm x = memByte s.mem.hbm x) ∧ u.regs = s.regs ∧
            u = { s with mem := u.mem, pol := { s.pol with zero := u.pol.zero } })) ∧
        (∀ n, d.length < len → n = wholeLines pa d.length → 0 < n → ∀ a, s.walk p pa true (bt == some 0) = (0, a) → pa % 2 ^ 21 + n ≤ 2 ^ 21 → (∀ w ∈ s.mem.poison, w * 64 + 64 ≤ a ∨ a + n ≤ w * 64) →
          ∃ t, exec (.dmaWrite p ring tag (some d) bt) s = .next t ∧ { c with started := true, progress := n } ∈ t.vk.cmds ∧ t.out = s.out ∧ t.regs = s.regs ∧
            (∀ i, i < n → memByte t.mem.hbm (a + i) = d.getD i 0) ∧ (∀ x, x < a ∨ a + n ≤ x → memByte t.mem.hbm x = memByte s.mem.hbm x)))) ∧
    (s.findCmd p ring tag = some c → c.opcode = 0x30 → c.started = true → c.progress < len →
      exec (.dmaWrite p ring tag none bt) s = .next (s.complete c 0xA 0 0 c.progress) ∧
      (∀ (d : List Byte) a q, q = pa + c.progress → c.progress + d.length = len → s.walk p q true (bt == some 0) = (0, a) → q % 2 ^ 21 + d.length ≤ 2 ^ 21 →
        (∀ w ∈ s.mem.poison, w * 64 + 64 ≤ a ∨ a + d.length ≤ w * 64) → ∃ u : State, exec (.dmaWrite p ring tag (some d) bt) s = .next (u.complete c 0 0 0 len 0) ∧
          (∀ i, i < d.length → memByte u.mem.hbm (a + i) = d.getD i 0) ∧ (∀ x, x < a ∨ a + d.length ≤ x → memByte u.mem.hbm x = memByte s.mem.hbm x))) ∧
    (Starts s p ring tag 0x31 false [m32, m32] c →
      (len = 0 ∨ 67108864 < len → exec (.dmaRead p ring tag bt) s = .next (s.complete c 6)) ∧
      (0 < len → len ≤ 67108864 → ∀ k a, s.walk p pa false (bt == some 0) = (k, a) →
        (k ≠ 0 → exec (.dmaRead p ring tag bt) s = .next (((s.walkFault p 1 k pa).emit (.dmaWrite p c.addr [])).complete c (if 3 ≤ k ∧ k ≤ 5 then 0xA else 7) 0 0 0 k)) ∧
        (k = 0 → pa % 2 ^ 21 + len ≤ 2 ^ 21 → (∀ w ∈ s.mem.poison, w * 64 + 64 ≤ a ∨ a + len ≤ w * 64) →
          exec (.dmaRead p ring tag bt) s = .next ((s.emit (.dmaWrite p c.addr (memBytes s.mem.hbm a len))).complete c 0 0 0 len 0))))) ∧
  (∀ (s : State) (p pa g : Nat) (write w : Bool), pa < 2 ^ 36 → s.page p (pa / 2 ^ 21) = some (g, w) →
    (s.walk p pa write true = (3, 0)) ∧ (isRegion g = true → s.parcelOwner g ≠ some p → s.walk p pa write false = (5, 0)) ∧
    (isRegion g = true → s.parcelOwner g = some p → write = true → w = false → s.walk p pa write false = (6, 0)) ∧
    (isRegion g = true → s.parcelOwner g = some p → (write = true → w = true) → s.walk p pa write false = (0, g / 9728 * 2 ^ 35 + g % 9728 * 2 ^ 21 + pa % 2 ^ 21)))

/-- A completion, the commands NOP, QUERY, STATUS, SNAPSHOT and ABORT, and the rows of a command ring where they do their work (R502, R503, R508, R510, R511, R516 to R520). What a completed command leaves is
said once, for every status; the commands' own clauses name the completion. -/
def Obligations.PlainObjectCommands : Prop :=
  (∀ (s : State) (c : VCmd) (st r e pr d : Nat), (s.vk.cmds.find? fun y => y.order == c.order) = some c →
    ∃ t, s.complete c st r e pr d = t ∧ CompletedWith s t c st ∧ t = { s with vk := t.vk, qs := t.qs, out := t.out, ctrs := t.ctrs } ∧
      (c.silent = false → t.cget C.VORAK_CMDS c.polder = (s.cget C.VORAK_CMDS c.polder + 1) % 2 ^ 64) ∧ (c.silent = true → t.ctrs = s.ctrs ∧ ((s.queue (qPriv c.polder 0)).notice = false → (s.queue (qPriv c.polder 1)).notice = false → t.out = s.out)) ∧
      t.vk.takes = s.vk.takes ∧ t.vk.gens = s.vk.gens ∧ t.vk.quar = s.vk.quar) ∧
  (∀ (s : State) (p ring tag : Nat) (c : VCmd), Starts s p ring tag 0 false [] c → exec (.nopCommand p ring tag) s = .next (s.complete c 0)) ∧
  (∀ (s : State) (p ring tag : Nat) (c : VCmd), Starts s p ring tag 8 false [15, m32] c → ∀ ty i, ty = c.w 0 % 16 → i = c.w 1 →
    (ty = 1 → i < 262144 → (s.strm i).st = .idle ∨ (s.strm i).polder = p →
      exec (.query p ring tag) s = .next (s.complete c 0 (s.handleOf 1 p i) 0 0 (s.strm i).st.code)) ∧
    (ty = 2 → i < 65536 → (s.chan i).st = .idle ∨ (s.chan i).polder = p →
      exec (.query p ring tag) s = .next (s.complete c 0 (s.handleOf 2 p i) 0 0 (s.chan i).st.code)) ∧
    (ty = 3 → i < 16384 → (s.bundle i).st = .idle ∨ (s.bundle i).polder = p →
      exec (.query p ring tag) s = .next (s.complete c 0 (s.handleOf 3 p i) 0 0 (s.bundle i).st.code)) ∧
    (ty = 4 → i < 64 → exec (.query p ring tag) s = .next (s.complete c 0 (s.handleOf 4 p i) 0 0 (if s.sch.kerns.any (fun e => e.1 == 64 * p + i) then 2 else 0))) ∧
    (ty = 6 → i < 80 → s.fget F.MILL_ROLE_POLDER i = p → exec (.query p ring tag) s =
      .next (s.complete c 0 (6 * 2 ^ 60 + p * 2 ^ 56 + s.fget F.MILL_ROLE_EPOCH i * 2 ^ 32 + i) 0 0 2)) ∧
    ((ty = 1 ∧ (s.strm i).st ≠ .idle ∧ (s.strm i).polder ≠ p) ∨ (ty = 2 ∧ (s.chan i).st ≠ .idle ∧ (s.chan i).polder ≠ p) → exec (.query p ring tag) s = .next (s.complete c 7)) ∧
    (ty = 0 ∨ 6 < ty → exec (.query p ring tag) s = .next (s.complete c 6))) ∧
  (∀ (s : State) (p ring tag : Nat) (c : VCmd), Starts s p ring tag 0x16 true [] c → ∀ ty i, ty = hTyp c.handle → i = hIdx c.handle →
    (ty ≠ 1 → ty ≠ 2 → ty ≠ 3 → exec (.status p ring tag) s = .next (s.complete c 6)) ∧
    (ty = 1 ∨ ty = 2 ∨ ty = 3 →
      (hPol c.handle ≠ p → exec (.status p ring tag) s = .next (s.complete c 7)) ∧
      (hPol c.handle = p → hGen c.handle ≠ s.gen ty p i → exec (.status p ring tag) s = .next (s.complete c 2)) ∧
      (hPol c.handle = p → hGen c.handle = s.gen ty p i → s.objState c.handle = .idle → exec (.status p ring tag) s = .next (s.complete c 1)) ∧
      (hPol c.handle = p → hGen c.handle = s.gen ty p i → s.objState c.handle ≠ .idle →
        (ty = 1 → 64 ≤ c.len → exec (.status p ring tag) s = .next ((s.emit (.dmaWrite p c.addr (s.streamBlock i))).complete c 0)) ∧
        (ty = 2 → 96 ≤ c.len → exec (.status p ring tag) s = .next ((s.emit (.dmaWrite p c.addr (s.chanBlock i))).complete c 0)) ∧
        (ty = 3 → 32 ≤ c.len → exec (.status p ring tag) s = .next ((s.emit (.dmaWrite p c.addr (s.bundleBlock i))).complete c 0)) ∧
        (c.len < 32 → exec (.status p ring tag) s = .next (s.complete c 6))))) ∧
  (∀ (s : State) (p ring tag : Nat) (c : VCmd), Starts s p ring tag 0x28 false [] c →
    exec (.snapshot p ring tag) s = .next (if 64 * (s.fget F.DIKE_STREAM_COUNT_COUNT p + 1) ≤ c.len then s.markStarted c else s.complete c 6)) ∧
  (∀ (s : State) (p ring tag : Nat) (c : VCmd), Starts s p ring tag 1 false [0xFFFF000F] c →
    ∀ o, o = (s.vk.cmds.find? fun x => x.polder == p && x.ring == c.w 0 % 16 && x.tag == c.w 0 / 65536 && decide (x.bell < c.bell)) →
    (o = none → exec (.abort p ring tag) s = .next (s.complete c 9)) ∧
    (∀ x, o = some x → x.opcode = 1 → exec (.abort p ring tag) s = .next (s.complete c 6)) ∧
    (∀ x, o = some x → x.opcode ≠ 1 → s.privRoom p 3 1 = false → exec (.abort p ring tag) s = .next s) ∧
    (∀ x v, o = some x → x.opcode ≠ 1 → s.privRoom p 3 1 = true → v = s.passPacket p 3 (cmdTag c) (leBytes 4 (x.ring + x.tag * 65536)) →
      (x.started = false → x.opcode ≠ 0x31 → exec (.abort p ring tag) s = .next ((v.complete x 8 0 0 x.progress).complete c 0)) ∧
      (x.started = false → x.opcode = 0x31 → v.ready x (objName x.handle) = false → exec (.abort p ring tag) s = .next ((v.complete x 8 0 0 x.progress).complete c 0)) ∧
      (x.started = false → x.opcode = 0x31 → v.ready x (objName x.handle) = true → ∃ (u : State) (n : Nat), exec (.abort p ring tag) s = .next ((u.complete x 8 0 0 n).complete c 0) ∧
        u.vk = v.vk ∧ u.mem = v.mem ∧ u.regs = v.regs ∧ n ≤ x.progress + x.len) ∧
      (x.started = true → (x.opcode = 0x28 ∨ x.opcode = 0x29 ∨ x.opcode = 0x30) → exec (.abort p ring tag) s = .next ((v.complete x 8 0 0 x.progress).complete c 0)) ∧
      (x.started = true → x.opcode ≠ 0x28 → x.opcode ≠ 0x29 → x.opcode ≠ 0x30 → exec (.abort p ring tag) s = .next ((v.markAborted fun y => y.order == x.order).complete c 0)))) ∧
  (∀ (s : State) (p j tag : Nat) (d : List Byte), p < 16 → j < 4 → ∃ t, s.passPacket p j tag d = t ∧ t = { s with qs := t.qs, out := t.out } ∧
    (∀ k, k ≠ qPriv p j → t.queue k = s.queue k) ∧ ((∀ i ∈ (s.queue (qPriv p j)).items, i.id < s.qs.nextId) → ∀ k, t.poolUsed k = s.poolUsed k) ∧ ((s.queue (qPriv p j)).notice = true → .queueNotice (qPriv p j) ∈ t.out.drop s.out.length) ∧
    (s.qs.q = [] → (t.queue (qPriv p j)).items = [])) ∧
  (∀ (s : State) (fn ring tail x : Nat), Reaches s fn T.vorak fn → fn < 16 → ring < 16 → tail < 2 ^ 32 → x = tail % 65536 → x < s.ringSize fn ring →
    ∃ t, exec (.sqDoorbell fn ring tail) s = .next t ∧ t.fget F.SQ_TAIL_TAIL fn ring = x ∧ SameRegsBut s t [fieldAt F.SQ_TAIL_TAIL fn ring]) ∧
  (∀ (s : State) (fn ring head x n : Nat), Reaches s fn T.vorak fn → fn < 16 → ring < 16 → head < 2 ^ 32 → x = head % 65536 → n = s.ringSize fn ring → x < n →
    (x + n - s.fget F.CQ_HEAD_HEAD fn ring) % n ≤ ((s.ring fn ring).cqTail + n - s.fget F.CQ_HEAD_HEAD fn ring) % n →
    ∃ t, exec (.cqHeadWrite fn ring head) s = .next t ∧ t.fget F.CQ_HEAD_HEAD fn ring = x ∧ SameRegsBut s t [fieldAt F.CQ_HEAD_HEAD fn ring]) ∧
  (∀ (s : State) (p r : Nat) (b : List Byte), p < 16 → s.fbit F.VORAK_CTRL_EN p = true → s.inFlight p < 256 → s.inFlr p = false → s.writing p = none → s.nextRing p = some r →
    s.takeRoom p = true → b.length = 64 → s.tagHeld p r (leAt b 2 2) = false → knownOpcode (leAt b 0 1) = true → (∀ x ∈ s.vk.cmds, knownOpcode x.opcode = true) →
    ∃ t c, exec (.commandTake p (some b)) s = .next t ∧ t.vk.cmds = s.vk.cmds ++ [c] ∧ c.polder = p ∧ c.ring = r ∧ c.tag = leAt b 2 2 ∧ c.opcode = leAt b 0 1 ∧ c.handle = leAt b 8 8 ∧ c.started = false ∧
      t.fget F.SQ_HEAD_HEAD p r = (s.fget F.SQ_HEAD_HEAD p r + 1) % s.ringSize p r % 65536 ∧ SameRegsBut s t [fieldAt F.SQ_HEAD_HEAD p r]) ∧
  (∀ (s : State) (p r : Nat), r < 16 → s.fget F.VORAK_COAL_TIME p ≠ 0 → (s.ring p r).unsig ≠ 0 → ∃ t, exec (.coalTimer p r) s = .next t ∧ (t.ring p r).unsig = 0 ∧ t.regs = s.regs ∧
    (s.inFlr p = false → t.out = s.out ++ [.msi p (s.fget F.RING_CFG_VEC p r)]))

/-- BIND_STREAM, ALIAS_ADD, ALIAS_REMOVE, ACTIVATE, MODIFY and DRAIN (R302, R312 to R314, R510, R514 to R516). Which position an entry takes is
the model's (log entry 179). -/
def Obligations.StreamAndObjectLife : Prop :=
  (∀ (s : State) (p ring tag : Nat) (c : VCmd) (d : List Byte), Starts s p ring tag 0x10 false [] c → ∀ i, i = leAt d 0 4 → i < 2 ^ 18 →
    s.ready c (2 ^ 32 + i) = true → d.length = 256 → descZeros d = true →
    (s.ownIndex p i = false → exec (.bindStream p ring tag (some d)) s = .next (s.complete c 7)) ∧
    (s.ownIndex p i = true → s.descVlanBad p d = false → (s.strm i).st ≠ .idle → exec (.bindStream p ring tag (some d)) s = .next (s.complete c 1)) ∧
    (s.ownIndex p i = true → s.descVlanBad p d = false → (s.strm i).st = .idle → descBad d = false → s.quarantined 1 p i = false →
      (leAt d 4 1 ≠ 3 → s.keyHeld (descKey d) (2 * i) = false ∧ s.polEntries p < s.fget F.DIKE_ENTRIES_QUOTA p ∧ s.tableEntries < 262144) →
      ∃ u : State, exec (.bindStream p ring tag (some d)) s = .next (u.complete c 0 (s.handleOf 1 p i)) ∧ u.vk = s.vk ∧
        (u.strm i).st = .bound ∧ (u.strm i).polder = p ∧ (u.strm i).desc = d ∧ (u.strm i).ctr = [] ∧ (∀ j, j ≠ i → u.strm j = s.strm j) ∧
        u = { s with streams := u.streams, cls := u.cls, regs := u.regs, out := u.out, fresh := u.fresh } ∧ SameRegsBut s u [causeAt T.classifier 0, causeAt T.classifier 1] ∧
        (leAt d 4 1 ≠ 3 → ∃ pos, u.slot 0 pos = { st := 1, key := descKey d, polder := p, stream := i, portmode := (u.strm i).portmode, isAlias := false } ∧ u.slot 1 pos = u.slot 0 pos) ∧
        (leAt d 4 1 = 3 → u.cls = s.cls))) ∧
  (∀ (s : State) (p ring tag : Nat) (c : VCmd), Starts s p ring tag 0x10 false [] c → exec (.bindStream p ring tag none) s = .next (s.complete c 0xA)) ∧
  (∀ (s : State) (p ring tag : Nat) (c : VCmd), Starts s p ring tag 0x1B true [] c → hTyp c.handle = 1 → hPol c.handle = p → ∀ i, i = hIdx c.handle →
    hGen c.handle = s.gen 1 p i → ∀ (d : List Byte) (k : ClsKey), d.length = 32 → zeroAt d 3 1 = true → zeroAt d 6 10 = true →
    k = ⟨leAt d 0 2 % 4096, leAt d 2 1, sub d 16 16, beAt d 4 2 / 2⟩ → leAt d 0 2 < 4096 → k.ipv = 4 ∨ k.ipv = 6 → s.vlanPolder 0 k.vlan = some p → s.vlanPolder 1 k.vlan = some p →
    ((s.strm i).akey.isSome = true → exec (.aliasAdd p ring tag (some d)) s = .next (s.complete c 1)) ∧
    ((s.strm i).st = .bound ∨ (s.strm i).st = .active → (s.strm i).akey = none → (s.strm i).kind ≠ 3 → s.keyHeld k (2 * i + 1) = false →
      s.polEntries p < s.fget F.DIKE_ENTRIES_QUOTA p → s.tableEntries < 262144 →
      ∃ u : State, exec (.aliasAdd p ring tag (some d)) s = .next (u.complete c 0) ∧ u.vk = s.vk ∧ u.strm i = { s.strm i with akey := some k } ∧ (∀ j, j ≠ i → u.strm j = s.strm j) ∧
        (∃ pos, u.slot 0 pos = { st := if (s.strm i).st = .active then 2 else 1, key := k, polder := (s.strm i).polder, stream := i, portmode := (s.strm i).portmode, isAlias := true } ∧ u.slot 1 pos = u.slot 0 pos) ∧
        u = { s with streams := u.streams, cls := u.cls, regs := u.regs, out := u.out, fresh := u.fresh } ∧ SameRegsBut s u [causeAt T.classifier 0, causeAt T.classifier 1])) ∧
  (∀ (s : State) (p ring tag : Nat) (c : VCmd), Starts s p ring tag 0x1C true [] c → hTyp c.handle = 1 → hPol c.handle = p → ∀ i, i = hIdx c.handle →
    hGen c.handle = s.gen 1 p i →
    ((s.strm i).akey = none → exec (.aliasRemove p ring tag) s = .next (s.complete c 1)) ∧
    ((s.strm i).st = .bound ∨ (s.strm i).st = .active → (s.strm i).akey.isSome = true →
      exec (.aliasRemove p ring tag) s = .next (((s.upStrm i fun y => { y with akey := none }).removeSlot (2 * i + 1)).complete c 0))) ∧
  (∀ (s : State) (p ring tag : Nat) (c : VCmd), Starts s p ring tag 0x13 true [] c → hPol c.handle = p → ∀ i, i = hIdx c.handle →
    (hTyp c.handle = 1 ∨ hTyp c.handle = 2 ∨ hTyp c.handle = 3) → hGen c.handle = s.gen (hTyp c.handle) p i →
    (s.objState c.handle ≠ .bound → exec (.activate p ring tag) s = .next (s.complete c 1)) ∧
    (hTyp c.handle = 1 → (s.strm i).st = .bound → ∃ u : State, exec (.activate p ring tag) s = .next (u.complete c 0 0 s.turn) ∧ u = { s with streams := u.streams, cls := u.cls } ∧
      (u.strm i).st = .active ∧ (u.strm i).weir.level = leAt (s.strm i).desc 0x34 1 * tokenUnit ∧ ∀ j, j ≠ i → u.strm j = s.strm j) ∧
    (hTyp c.handle = 2 → (s.chan i).st = .bound →
      ((s.strm (leAt (s.chan i).params 4 4)).st = .active → (s.strm (leAt (s.chan i).params 8 4)).st = .active →
        ∃ u : State, exec (.activate p ring tag) s = .next (u.complete c 0 0 (s.turn + 1)) ∧ u.chan i = { s.chan i with st := .active } ∧ (∀ j, j ≠ i → u.chan j = s.chan j) ∧
          (∀ j, u.strm j = if j = leAt (s.chan i).params 4 4 ∨ j = leAt (s.chan i).params 8 4 then (s.strm j).freshPlayout else s.strm j) ∧ u = { s with streams := u.streams, sch := u.sch }) ∧
      ((s.strm (leAt (s.chan i).params 4 4)).st ≠ .active ∨ (s.strm (leAt (s.chan i).params 8 4)).st ≠ .active →
        exec (.activate p ring tag) s = .next (s.complete c 1))) ∧
    (hTyp c.handle = 3 → (s.bundle i).st = .bound →
      exec (.activate p ring tag) s = .next ((s.setBundle i { s.bundle i with st := .active }).complete c 0 0 (s.turn + 1)))) ∧
  (∀ x : Stream, x.freshPlayout = { x with o := none, target := none, delay := 0, consumed := [], probation := none, lastStamp := none }) ∧
  (∀ (s : State) (p ring tag : Nat) (c : VCmd), Starts s p ring tag 0x14 true [] c →
    (hTyp c.handle ≠ 1 → hTyp c.handle ≠ 2 → ∀ data, exec (.modify p ring tag data) s = .next (s.complete c 6)) ∧
    (hTyp c.handle = 1 → hPol c.handle = p → ∀ i, i = hIdx c.handle → hGen c.handle = s.gen 1 p i → ∀ d : List Byte, d.length = 256 → descZeros d = true →
      (s.ownIndex p (leAt d 0 4) = false → exec (.modify p ring tag (some d)) s = .next (s.complete c 7)) ∧ (s.ownIndex p (leAt d 0 4) = true →
      s.descVlanBad p d = false → leAt d 0 4 = i → descBad d = false → (leAt d 4 1 ≠ 3 → s.keyHeld (descKey d) (2 * i) = false ∧ ((s.posOf (2 * i)).isSome = true ∨ i ∈ s.entriesDue ∨ (s.polEntries p < s.fget F.DIKE_ENTRIES_QUOTA p ∧ s.tableEntries < 262144))) →
      ((s.strm i).st = .draining ∨ (s.strm i).st = .idle → exec (.modify p ring tag (some d)) s = .next (s.complete c 1)) ∧
      ((s.strm i).st = .active → descBoundDiff (s.strm i).desc d = true → exec (.modify p ring tag (some d)) s = .next (s.complete c 1)) ∧
      ((s.strm i).st = .bound ∨ (s.strm i).st = .active ∧ descBoundDiff (s.strm i).desc d = false →
        exec (.modify p ring tag (some d)) s = .next ((s.schedule (s.turn + 2) (.streamDesc i d)).complete c 0 0 (s.turn + 2)))))) ∧
  (∀ (s : State) (p ring tag : Nat) (c : VCmd), Starts s p ring tag 0x15 true [] c → hPol c.handle = p → ∀ i, i = hIdx c.handle →
    (hTyp c.handle = 1 ∨ hTyp c.handle = 2 ∨ hTyp c.handle = 3) → hGen c.handle = s.gen (hTyp c.handle) p i →
    (s.objState c.handle = .idle ∨ s.objState c.handle = .draining → exec (.drain p ring tag) s = .next (s.complete c 1)) ∧
    (hTyp c.handle = 1 → (s.strm i).chan.isSome = true → exec (.drain p ring tag) s = .next (s.complete c 1)) ∧
    (hTyp c.handle = 1 → (s.strm i).chan = none → (s.strm i).st = .bound ∨ (s.strm i).st = .active → ∀ u : State,
      u = (if s.rtcpOn i then (s.markStarted c).sendRtcp i s.nowUnits true else s.markStarted c) →
      exec (.drain p ring tag) s = .next (((u.upStrm i fun y => { y with st := .draining }).slotState i 1).schedule (s.turn + 2) (.streamIdle i))) ∧
    (hTyp c.handle = 2 → (s.chan i).st = .bound ∨ (s.chan i).st = .active →
      exec (.drain p ring tag) s = .next ((s.markStarted c).setChan i { s.chan i with st := .draining })) ∧
    (hTyp c.handle = 3 → (s.bundle i).st = .bound ∨ (s.bundle i).st = .active →
      exec (.drain p ring tag) s = .next ((s.markStarted c).setBundle i { s.bundle i with st := .draining })))

/-- BIND_CHANNEL, BIND_BUNDLE, MODIFY of a channel, JOIN, LEAVE, TONE, CONTROL and CP_DEFINE (R173, R174, R210, R214 to R217, R239 to R246, R510, R513, R515,
R516). Which of equally good stones is chosen is the model's `admitTo`. -/
def Obligations.ChannelsAndBundles : Prop :=
  (∀ (s : State) (p ring tag : Nat) (c : VCmd) (d : List Byte), Starts s p ring tag 0x11 false [m32, m32] c →
    (c.pair 0 = 0 ∨ (hTyp (c.pair 0) = 6 ∧ hPol (c.pair 0) = p ∧ s.fget F.MILL_ROLE_POLDER (hIdx (c.pair 0)) = p ∧ hGen (c.pair 0) = s.fget F.MILL_ROLE_EPOCH (hIdx (c.pair 0)))) →
    ∀ typ ab ba adm i, typ = leAt d 0 1 → ab = leAt d 4 4 → ba = leAt d 8 4 → ab < 2 ^ 18 → ba < 2 ^ 18 →
    adm = s.admitTo p typ (if c.pair 0 = 0 then none else some (hIdx (c.pair 0))) (s.classSpecs 0 p d) →
    s.allocIndex 2 p 65536 ((s.sch.chans.filter fun e => e.2.st != .idle).map fun e => e.1) = (0, i) →
    d.length = 512 → (libType typ = true → paramZeros d = true) → s.ownIndex p ab = true → s.ownIndex p ba = true →
    ((s.streamTaken ab none = true ∨ s.streamTaken ba none = true) → exec (.bindChannel p ring tag (some d)) s = .next (s.complete c 1)) ∧
    (s.streamTaken ab none = false → s.streamTaken ba none = false → (libType typ = true ∨ (128 ≤ typ ∧ s.sch.types.any (fun e => e.1 == 256 * p + typ) = true)) →
      (paramBad d = true ∨ s.kindsBad d = true → exec (.bindChannel p ring tag (some d)) s = .next (s.complete c 6)) ∧
      (paramBad d = false → s.kindsBad d = false →
        (adm.1 ≠ 0 → exec (.bindChannel p ring tag (some d)) s = .next (s.complete c adm.1)) ∧
        (adm.1 = 0 → (s.addClasses ((s.classSpecs i p d).map fun k => { k with stone := adm.2 })).isSome = true →
          ∃ u : State, exec (.bindChannel p ring tag (some d)) s = .next (u.complete c 0 (s.handleOf 2 p i) 0 0 adm.2) ∧ u.vk = s.vk ∧ u.out = s.out ∧ u.regs = s.regs ∧
            (u.chan i).st = .bound ∧ (u.chan i).polder = p ∧ (u.chan i).stone = adm.2 ∧ (∀ j, j ≠ i → u.chan j = s.chan j) ∧
            (u.strm ab).chan = some i ∧ (u.strm ba).chan = some i ∧ ∀ j, j ≠ ab → j ≠ ba → u.strm j = s.strm j)))) ∧
  (∀ (s : State) (p ring tag : Nat) (c : VCmd), Starts s p ring tag 0x12 false [3, m32, m32] c → c.pair 1 = 0 →
    (c.w 0 = 0 → exec (.bindBundle p ring tag) s = .next (s.complete c 6)) ∧
    (∀ n, n = (s.sch.bundles.filter fun e => e.2.st != .idle && e.2.polder == p).length → c.w 0 ≠ 0 →
      (s.fget F.DIKE_OBJQ_BUNDLES p ≤ n → exec (.bindBundle p ring tag) s = .next (s.complete c 4)) ∧
      (∀ i at', n < s.fget F.DIKE_OBJQ_BUNDLES p → s.allocIndex 3 p 16384 ((s.sch.bundles.filter fun e => e.2.st != .idle).map fun e => e.1) = (0, i) →
        s.admitTo p 0x10 none [] = (0, at') → exec (.bindBundle p ring tag) s =
          .next ((s.setBundle i { st := .bound, polder := p, speakers := c.w 0, stone := at', commitTurn := s.turn }).complete c 0 (s.handleOf 3 p i) 0 0 at')))) ∧
  (∀ (s : State) (p ring tag : Nat) (c : VCmd) (d : List Byte), Starts s p ring tag 0x14 true [] c → hTyp c.handle = 2 → hPol c.handle = p → ∀ i, i = hIdx c.handle →
    hGen c.handle = s.gen 2 p i → d.length = 512 → (libType (leAt d 0 1) = true → paramZeros d = true) → leAt d 4 4 < 2 ^ 18 → leAt d 8 4 < 2 ^ 18 →
    s.ownIndex p (leAt d 4 4) = true → s.ownIndex p (leAt d 8 4) = true →
    ((s.chan i).st = .active → paramBoundDiff (s.chan i).params d = true → exec (.modify p ring tag (some d)) s = .next (s.complete c 1)) ∧
    ((s.chan i).st = .idle ∨ (s.chan i).st = .draining → exec (.modify p ring tag (some d)) s = .next (s.complete c 1)) ∧
    ((s.chan i).st = .bound ∨ ((s.chan i).st = .active ∧ paramBoundDiff (s.chan i).params d = false) →
      s.streamTaken (leAt d 4 4) (some i) = false → s.streamTaken (leAt d 8 4) (some i) = false → paramBad d = false → s.kindsBad d = false →
      leAt d 0 1 = (s.chan i).typ → typeClasses d = typeClasses (s.chan i).params → (libType (leAt d 0 1) = true ∨ (128 ≤ leAt d 0 1 ∧ s.sch.types.any (fun e => e.1 == 256 * p + leAt d 0 1) = true)) →
      s.halfOut p ((s.chan i).stone / 640) 1 = 0 →
      ∃ u : State, exec (.modify p ring tag (some d)) s = .next (u.complete c 0 0 (s.turn + 2)) ∧ u.vk = s.vk ∧ u.out = s.out ∧ u.regs = s.regs ∧
        (s.turn + 2, TurnFx.chanParams i d) ∈ u.sch.fx ∧ (u.chan i).stone = (s.chan i).stone ∧ (u.chan i).classes = (s.chan i).classes) ∧
    (∀ r, r = s.remakeBad i d → (s.chan i).st = .bound → s.streamTaken (leAt d 4 4) (some i) = false → s.streamTaken (leAt d 8 4) (some i) = false → paramBad d = false → s.kindsBad d = false →
      (libType (leAt d 0 1) = true ∨ (128 ≤ leAt d 0 1 ∧ s.sch.types.any (fun e => e.1 == 256 * p + leAt d 0 1) = true)) →
      leAt d 0 1 ≠ (s.chan i).typ ∨ typeClasses d ≠ typeClasses (s.chan i).params →
      (r ≠ 0 → exec (.modify p ring tag (some d)) s = .next (s.complete c r)) ∧
      (r = 0 → ∃ u : State, exec (.modify p ring tag (some d)) s = .next (u.complete c 0 0 (s.turn + 2)) ∧ u.vk = s.vk ∧ u.out = s.out ∧ u.regs = s.regs ∧ (u.chan i).st = .bound ∧
        (u.chan i).stone = (s.chan i).stone ∧ (u.chan i).typ = leAt d 0 1 ∧ (s.turn + 2, TurnFx.chanParams i d) ∈ u.sch.fx))) ∧
  (∀ (s : State) (p ring tag : Nat) (c : VCmd), Starts s p ring tag 0x17 true [m32, m32] c → ∀ b mh m, b = hIdx c.handle → mh = c.pair 0 → m = memberOf mh →
    hTyp c.handle = 3 → hPol c.handle = p → hGen c.handle = s.gen 3 p b → (hTyp mh = 2 ∨ hTyp mh = 3) → hPol mh = p → hGen mh = s.gen (hTyp mh) p (hIdx mh) →
    ((s.memberAt m).isSome = true → exec (.join p ring tag) s = .next (s.complete c 1)) ∧
    ((s.bundle b).st = .bound ∨ (s.bundle b).st = .active → s.objState mh = .bound ∨ s.objState mh = .active → s.memberAt m = none →
      s.depth 9 m + (s.above' 9 b).length ≤ 8 → (∀ k, m = .bundle k → k ∉ s.above' 9 b) → (∀ k, m = .chan k → leAt (s.chan k).params 3 1 = 1) →
      ∀ slot, slot < 1024 → (∀ e ∈ (s.bundle b).members, e.1 ≠ slot) → (∀ j, j < slot → ∃ e ∈ (s.bundle b).members, e.1 = j) →
      ∀ fit, fit = s.mixFits b (Tab.insert (s.bundle b).members slot m) →
      (fit ≠ 0 → (fit = 3 ∨ fit = 4 ∨ fit = 5 ∨ fit = 0xB) ∧ exec (.join p ring tag) s = .next (s.complete c fit)) ∧
      (fit = 0 →
        ∃ u : State, exec (.join p ring tag) s = .next (u.complete c 0 0 (s.turn + 2)) ∧ u.vk = s.vk ∧ u.out = s.out ∧ u.regs = s.regs ∧
          (u.bundle b).members = Tab.insert (s.bundle b).members slot m ∧ u.memberAt m = some (b, slot) ∧ Tab.get (fun _ => 0) (u.bundle b).from' slot = s.turn + 2))) ∧
  (∀ (s : State) (p ring tag : Nat) (c : VCmd), Starts s p ring tag 0x18 true [m32, m32] c → ∀ b mh, b = hIdx c.handle → mh = c.pair 0 →
    hTyp c.handle = 3 → hPol c.handle = p → hGen c.handle = s.gen 3 p b → (hTyp mh = 2 ∨ hTyp mh = 3) → hPol mh = p → hGen mh = s.gen (hTyp mh) p (hIdx mh) →
    (∀ slot, s.memberAt (memberOf mh) = some (b, slot) → exec (.leave p ring tag) s = .next ((s.schedule (s.turn + 2) (.leave (memberOf mh))).complete c 0 0 (s.turn + 2))) ∧
    (s.memberAt (memberOf mh) = none → exec (.leave p ring tag) s = .next (s.complete c 1))) ∧
  (∀ (s : State) (p ring tag : Nat) (c : VCmd), Starts s p ring tag 0x19 true [0x1FFFF0F, m32] c → hTyp c.handle = 2 → hPol c.handle = p → ∀ i, i = hIdx c.handle →
    hGen c.handle = s.gen 2 p i → ∀ kind dig lvl, kind = bitField (c.w 0) 1 3 → dig = bitField (c.w 0) 8 8 → lvl = bitField (c.w 0) 16 8 →
    ((s.chan i).st ≠ .active → exec (.tone p ring tag) s = .next (s.complete c 1)) ∧
    ((s.chan i).st = .active →
      (kind = 0 → exec (.tone p ring tag) s = .next ((s.schedule (s.turn + 2) (.tone i (c.w 0 % 2) none)).complete c 0 0 (s.turn + 2))) ∧
      (0 < kind → kind ≤ 4 → 3 ≤ lvl → lvl ≤ 20 → (kind = 1 → dig ≤ 15 ∧ 40 ≤ c.w 1 % 65536 ∧ c.w 1 % 65536 ≤ 2000 ∧ 40 ≤ c.w 1 / 65536 ∧ c.w 1 / 65536 ≤ 2000) →
        (kind = 2 → dig ≤ 15 ∧ (s.cpDef p dig).isSome = true) →
        exec (.tone p ring tag) s =
          .next ((s.schedule (s.turn + 2) (.tone i (c.w 0 % 2) (some { kind := kind, digit := dig, level := lvl, repeats := bitAt (c.w 0) 24, on := c.w 1 % 65536, off := c.w 1 / 65536 }))).complete c 0 0 (s.turn + 2))) ∧
      (4 < kind ∨ (kind ≠ 0 ∧ (lvl < 3 ∨ 20 < lvl)) → exec (.tone p ring tag) s = .next (s.complete c 6)))) ∧
  (∀ (s : State) (p ring tag : Nat) (c : VCmd), Starts s p ring tag 0x1A true [7, m32] c → hTyp c.handle = 2 → hPol c.handle = p → ∀ i, i = hIdx c.handle →
    hGen c.handle = s.gen 2 p i → ∀ (d : List Byte) (it : QItem) (q : Nat), q = s.roleOfStone (s.chan i).stone →
    it = { id := 0, cls := ((s.chan i).classes.getD (c.w 0 % 8) 0) % 65536, port := 15, tag := c.w 1, data := d.take c.len } →
    ((s.chan i).st ≠ .active → exec (.control p ring tag (some d)) s = .next (s.complete c 1)) ∧
    ((s.chan i).st = .active → 1664 < c.len ∨ (s.chan i).classes.getD (c.w 0 % 8) noKey = noKey → exec (.control p ring tag (some d)) s = .next (s.complete c 6)) ∧
    ((s.chan i).st = .active → c.len ≤ 1664 → (s.chan i).classes.getD (c.w 0 % 8) noKey ≠ noKey →
      exec (.control p ring tag none) s = .next (s.complete c 0xA) ∧
      (s.roleHeld q = false → exec (.control p ring tag (some d)) s = .next ((s.qAppend (qHeadrace q) ((s.chan i).stone / 640) it none).1.complete c 0)) ∧
      (s.roleHeld q = true → ∃ h, exec (.control p ring tag (some d)) s = .next { s.markStarted c with pol := { s.pol with held := s.pol.held ++ [h] } } ∧ h.role = q ∧ h.polder = p))) ∧
  (∀ (s : State) (p ring tag : Nat) (c : VCmd) (d : List Byte), Starts s p ring tag 0x1D false [15] c →
    exec (.cpDefine p ring tag none) s = .next (s.complete c 0xA) ∧
    (cpBad d = true → exec (.cpDefine p ring tag (some d)) s = .next (s.complete c 6)) ∧
    (cpBad d = false → exec (.cpDefine p ring tag (some d)) s =
      .next ((s.schedule (s.turn + 2) (.cpDefine p (c.w 0 % 16) (if bitAt (leAt d 5 1) 0 then d else []))).complete c 0 0 (s.turn + 2))))

/-- LOAD_KERNEL, UNLOAD_KERNEL, CREATE_TYPE and DELETE_TYPE (R247 to R253, R512, R513, R516, R633). Whether signatures verify is Config's (log entry 12). -/
def Obligations.KernelsAndTypes : Prop :=
  (∀ (s : State) (p ring tag : Nat) (c : VCmd), Starts s p ring tag 0x20 false [] c →
    exec (.loadKernel p ring tag none) s = .next (s.complete c 0xA) ∧
    ∀ (d keep : List Byte) (ix : Nat × Nat) (ok : Bool), keep = d.take (0x140 + leAt d 8 4) →
    ix = s.allocIndex 4 p 64 ((s.sch.kerns.filter fun e => e.1 / 64 == p).map fun e => e.1 % 64) →
    ok = (match s.pol.keys.find? fun e => e.1 == p && (sha384 e.2).take 32 == sub d 0x20 32 with
      | some e => Config.verify (10 :: (e.2 ++ d).map (·.toNat)) && Config.verify (11 :: (e.2 ++ d).map (·.toNat))
      | none => false) →
    (ok = false ∨ bitAt (leAt d 0xC 4) 1 = true → exec (.loadKernel p ring tag (some d)) s = .next (s.complete c 7)) ∧
    (ok = true → bitAt (leAt d 0xC 4) 1 = false → imageBad d c.len = true → exec (.loadKernel p ring tag (some d)) s = .next (s.complete c 6)) ∧
    (ok = true → bitAt (leAt d 0xC 4) 1 = false → imageBad d c.len = false →
      (s.fget F.DIKE_OBJQ_KSTORE p * 256 < s.storeBlocks (some p) + ceilDiv keep.length 4096 → exec (.loadKernel p ring tag (some d)) s = .next (s.complete c 4)) ∧
      (s.storeBlocks (some p) + ceilDiv keep.length 4096 ≤ s.fget F.DIKE_OBJQ_KSTORE p * 256 → ix.1 = 0 → s.storeBlocks none + ceilDiv keep.length 4096 ≤ 16384 →
        ∃ (u : State) (k : Kern), exec (.loadKernel p ring tag (some d)) s = .next (u.complete c 0 (s.handleOf 4 p ix.2)) ∧ k.image = keep ∧ k.classes = imageClasses d ∧
          k.freeArea = bitAt (leAt d 0xC 4) 0 ∧ u.sch = { s.sch with kerns := Tab.insert s.sch.kerns (64 * p + ix.2) k } ∧
          u.mrValue 7 = sha384 (s.mrValue 7 ++ sha384 keep) ∧ u = { s with sch := u.sch, meas := u.meas }))) ∧
  (∀ (s : State) (p ring tag : Nat) (c : VCmd), Starts s p ring tag 0x21 true [] c → hTyp c.handle = 4 → hPol c.handle = p → ∀ i, i = hIdx c.handle → hGen c.handle = s.gen 4 p i →
    (64 ≤ i → (∀ e ∈ s.sch.kerns, e.1 < 1024) → exec (.unloadKernel p ring tag) s = .next (s.complete c 1)) ∧
    (i < 64 → s.kernUsed (64 * p + i) = true → exec (.unloadKernel p ring tag) s = .next (s.complete c 1)) ∧
    (i < 64 → s.kernUsed (64 * p + i) = false → s.sch.kerns.any (fun e => e.1 == 64 * p + i) = true →
      ∃ u : State, exec (.unloadKernel p ring tag) s = .next (u.complete c 0) ∧ u.sch = { s.sch with kerns := Tab.erase s.sch.kerns (64 * p + i) } ∧
        u.gen 4 p i = (s.gen 4 p i + 1) % 2 ^ 24 ∧ (u.quarantined 4 p i = true) ∧ u = { s with sch := u.sch, vk := u.vk } ∧ u.vk.cmds = s.vk.cmds)) ∧
  (∀ (s : State) (p ring tag : Nat) (c : VCmd), Starts s p ring tag 0x22 false [0x00FFFF0F, 0x77FF] c →
    exec (.createType p ring tag none) s = .next (s.complete c 0xA) ∧
    ∀ (d : List Byte) (n code : Nat), (∀ j, j < n → hTyp (leAt d (16 * j) 8) = 4 ∧ zeroAt d (16 * j + 9) 1 = true ∧ zeroAt d (16 * j + 12) 4 = true) →
    n = c.w 0 % 16 → code = bitField (c.w 0) 8 8 → d.length = 16 * n → (∀ j, j < n → hPol (leAt d (16 * j) 8) = p ∧ hGen (leAt d (16 * j) 8) = s.genOf (leAt d (16 * j) 8)) →
    (s.sch.types.any (fun e => e.1 == 256 * p + code) = true → exec (.createType p ring tag (some d)) s = .next (s.complete c 1)) ∧
    (s.sch.types.any (fun e => e.1 == 256 * p + code) = false →
      (n = 0 ∨ 8 < n ∨ code < 0x80 ∨ 64 < bitField (c.w 0) 16 8 ∨ 5 < c.w 1 % 16 ∨ 5 < bitField (c.w 1) 4 4 → exec (.createType p ring tag (some d)) s = .next (s.complete c 6)) ∧
      (∀ cd : Nat → ClassDesc, 0 < n → n ≤ 8 → 0x80 ≤ code → bitField (c.w 0) 16 8 ≤ 64 → c.w 1 % 16 ≤ 5 → bitField (c.w 1) 4 4 ≤ 5 →
        (∀ j, j < n → hIdx (leAt d (16 * j) 8) < 64 ∧ ∃ k, Tab.get (fun _ => (none : Option Kern)) (s.sch.kerns.map fun e => (e.1, some e.2)) (64 * p + hIdx (leAt d (16 * j) 8)) = some k ∧
          k.classes[leAt d (16 * j + 8) 1]? = some (cd j) ∧ leAt d (16 * j + 10) 2 ≤ 240 ∧ ((cd j).pmin ≤ leAt d (16 * j + 10) 2 ∧ 5 ≤ leAt d (16 * j + 10) 2 ∨ (cd j).defer = true ∧ (leAt d (16 * j + 10) 2 = 0 ∨ (cd j).pmin ≤ leAt d (16 * j + 10) 2))) →
        bitField (c.w 1) 8 3 < n → bitField (c.w 1) 12 3 < n → (cd (bitField (c.w 1) 8 3)).defer = false → (cd (bitField (c.w 1) 12 3)).defer = false →
        (s.quarantined 5 p code = true → exec (.createType p ring tag (some d)) s = .next (s.complete c 0xB)) ∧
        (s.quarantined 5 p code = false → ∃ y : CType, exec (.createType p ring tag (some d)) s =
          .next ((s.upSch fun q => { q with types := Tab.insert q.types (256 * p + code) y }).complete c 0 (s.handleOf 5 p code)) ∧
          y.limit = bitField (c.w 0) 16 8 ∧ y.entries = (List.range n).map fun j => (64 * p + hIdx (leAt d (16 * j) 8), leAt d (16 * j + 8) 1, leAt d (16 * j + 10) 2))))) ∧
  (∀ (s : State) (p ring tag : Nat) (c : VCmd), Starts s p ring tag 0x23 true [] c → hTyp c.handle = 5 → hPol c.handle = p → ∀ i, i = hIdx c.handle → hGen c.handle = s.gen 5 p i →
    (256 ≤ i → (∀ e ∈ s.sch.types, e.1 < 4096) → exec (.deleteType p ring tag) s = .next (s.complete c 1)) ∧
    ((∃ e ∈ s.sch.chans, e.2.st ≠ .idle ∧ e.2.polder = p ∧ e.2.typ = i) → exec (.deleteType p ring tag) s = .next (s.complete c 1)) ∧
    (i < 256 → (∀ e ∈ s.sch.chans, e.2.st = .idle ∨ e.2.polder ≠ p ∨ e.2.typ ≠ i) → s.sch.types.any (fun e => e.1 == 256 * p + i) = true →
      ∃ u : State, exec (.deleteType p ring tag) s = .next (u.complete c 0) ∧ u.sch = { s.sch with types := Tab.erase s.sch.types (256 * p + i) } ∧
        u.gen 5 p i = (s.gen 5 p i + 1) % 2 ^ 24 ∧ u.quarantined 5 p i = true ∧ u = { s with sch := u.sch, vk := u.vk } ∧ u.vk.cmds = s.vk.cmds))

/-- SQ_DOORBELL, CQ_HEAD_WRITE, RX_CONS_WRITE, RING_ENABLE, COMMAND_TAKE and COAL_TIMER (R491, R501 to R503, R507, R510, R527, R528). The first four are
writes of registers of the function's own page; one that does not reach the page is what BusAccess says. -/
def Obligations.CommandRings : Prop :=
  (∀ (s : State) (fn addr p ring v : Nat), ring < 32 → ∃ t, s.badIndex fn addr p ring v = t ∧ causeSet t T.vorak p I.VORAK_RING_ERR ∧ t.fbit F.VORAK_ERR_VALID p = true ∧
    (s.fbit F.VORAK_ERR_VALID p = false → t.fget F.VORAK_ERR_RING p = ring ∧ t.fget F.VORAK_ERR_KIND p = 1) ∧
    (bitAt (s.rd T.vorak p 0x28) 31 = false → t.rd T.vorak p 0x28 = 2 ^ 31 + 5 * 65536 + fn % 256 * 256) ∧
    SameRegsBut s t (fieldAt F.VORAK_ERR_VALID p :: causeAt T.vorak p :: errLogAt T.vorak p) ∧ t = { s with regs := t.regs, out := t.out }) ∧
  (∀ (s : State) (fn ring v : Nat), fn < 16 →
    (ring < 16 → exec (.sqDoorbell fn ring v) s = exec (.registerWrite fn (regAddr T.vorak fn (0x114 + 32 * ring)) 4 v false) s ∧
      exec (.cqHeadWrite fn ring v) s = exec (.registerWrite fn (regAddr T.vorak fn (0x11C + 32 * ring)) 4 v false) s ∧
      exec (.ringEnable fn ring v) s = exec (.registerWrite fn (regAddr T.vorak fn (0x110 + 32 * ring)) 4 v false) s) ∧
    (ring < 9 → exec (.ringEnable fn (16 + ring) v) s = exec (.registerWrite fn (regAddr T.vorak fn (0x308 + 16 * ring)) 4 v false) s ∧
      exec (.rxConsWrite fn ring v) s = exec (.registerWrite fn (regAddr T.vorak fn (0x30C + 16 * ring)) 4 v false) s)) ∧
  (∀ (s : State) (fn ring tail : Nat), Reaches s fn T.vorak fn → fn < 16 → ring < 16 → tail < 2 ^ 32 → ∀ x, x = tail % 65536 →
    (s.ringSize fn ring ≤ x → exec (.sqDoorbell fn ring tail) s = .next (s.badIndex fn (regAddr T.vorak fn (0x114 + 32 * ring)) fn ring tail)) ∧
    (x < s.ringSize fn ring → ∃ t, exec (.sqDoorbell fn ring tail) s = .next t ∧ t.fget F.SQ_TAIL_TAIL fn ring = x ∧ SameRegsBut s t [fieldAt F.SQ_TAIL_TAIL fn ring] ∧
      t = { s with regs := t.regs, vk := t.vk } ∧ t.vk.cmds = s.vk.cmds ∧
      (x ≠ s.fget F.SQ_TAIL_TAIL fn ring → (t.ring fn ring).bells = (s.ring fn ring).bells ++ [(x, s.vk.bells)] ∧ t.vk.bells = s.vk.bells + 1))) ∧
  (∀ (s : State) (fn ring head x n passed written : Nat), Reaches s fn T.vorak fn → fn < 16 → ring < 16 → head < 2 ^ 32 → x = head % 65536 → n = s.ringSize fn ring →
    passed = (x + n - s.fget F.CQ_HEAD_HEAD fn ring) % n → written = ((s.ring fn ring).cqTail + n - s.fget F.CQ_HEAD_HEAD fn ring) % n →
    (n ≤ x ∨ written < passed → exec (.cqHeadWrite fn ring head) s = .next (s.badIndex fn (regAddr T.vorak fn (0x11C + 32 * ring)) fn ring head)) ∧
    (x < n → passed ≤ written → ∃ t, exec (.cqHeadWrite fn ring head) s = .next t ∧ t.fget F.CQ_HEAD_HEAD fn ring = x ∧ SameRegsBut s t [fieldAt F.CQ_HEAD_HEAD fn ring] ∧
      t = { s with regs := t.regs })) ∧
  (∀ (s : State) (fn k cons x n passed written : Nat), Reaches s fn T.vorak fn → fn < 16 → k < 9 → cons < 2 ^ 32 → x = cons % 65536 → n = s.rxSize fn k →
    passed = (x + n - s.fget F.RX_IDX_CONS fn k) % n → written = (s.fget F.RX_IDX_PROD fn k + n - s.fget F.RX_IDX_CONS fn k) % n →
    (n ≤ x ∨ written < passed → exec (.rxConsWrite fn k cons) s = .next (s.badIndex fn (regAddr T.vorak fn (0x30C + 16 * k)) fn (16 + k) cons)) ∧
    (x < n → passed ≤ written → ∃ t, exec (.rxConsWrite fn k cons) s = .next t ∧ t.fget F.RX_IDX_CONS fn k = x ∧ t.fget F.RX_IDX_PROD fn k = s.fget F.RX_IDX_PROD fn k ∧
      SameRegsBut s t [fieldAt F.RX_IDX_CONS fn k] ∧ t = { s with regs := t.regs })) ∧
  (∀ (s : State) (fn ring data sz vec : Nat), Reaches s fn T.vorak fn → fn < 16 → ring < 16 → data < 2 ^ 32 → sz = bitField data 20 5 → vec = bitField data 0 11 →
    (fn ≠ 0 → 128 ≤ vec → exec (.ringEnable fn ring data) s = .next (s.logErr T.vorak fn 5 fn (regAddr T.vorak fn (0x110 + 32 * ring)) data)) ∧
    (fn = 0 ∨ vec < 128 →
      (s.fbit F.RING_CFG_EN fn ring = true → sz ≠ s.fget F.RING_CFG_LOG2SIZE fn ring ∨ vec ≠ s.fget F.RING_CFG_VEC fn ring →
        exec (.ringEnable fn ring data) s = .next (s.logErr T.vorak fn 5 fn (regAddr T.vorak fn (0x110 + 32 * ring)) data)) ∧
      (s.fbit F.RING_CFG_EN fn ring = true → sz = s.fget F.RING_CFG_LOG2SIZE fn ring → vec = s.fget F.RING_CFG_VEC fn ring →
        ∃ t, exec (.ringEnable fn ring data) s = .next t ∧ t.fbit F.RING_CFG_EN fn ring = bitAt data 31 ∧ SameRegsBut s t [fieldAt F.RING_CFG_EN fn ring] ∧ t.vk = s.vk ∧
          (bitAt data 31 = true ∨ s.writing fn = none → t = { s with regs := t.regs })) ∧
      (s.fbit F.RING_CFG_EN fn ring = false → 4 ≤ sz → sz ≤ 16 → ∃ t, exec (.ringEnable fn ring data) s = .next t ∧ t.fbit F.RING_CFG_EN fn ring = bitAt data 31 ∧
        t.fget F.RING_CFG_LOG2SIZE fn ring = sz ∧ t.fget F.RING_CFG_VEC fn ring = vec ∧ t = { s with regs := t.regs, vk := t.vk } ∧ t.vk.cmds = s.vk.cmds ∧
        SameRegsBut s t [fieldAt F.RING_CFG_EN fn ring, fieldAt F.SQ_TAIL_TAIL fn ring, fieldAt F.SQ_HEAD_HEAD fn ring, fieldAt F.CQ_HEAD_HEAD fn ring] ∧
        (bitAt data 31 = true → t.fget F.SQ_TAIL_TAIL fn ring = 0 ∧ t.fget F.SQ_HEAD_HEAD fn ring = 0 ∧ t.fget F.CQ_HEAD_HEAD fn ring = 0 ∧
          (t.ring fn ring).cqTail = 0 ∧ (t.ring fn ring).phase = true) ∧
        (bitAt data 31 = false → t.vk = s.vk ∧ SameRegsBut s t [fieldAt F.RING_CFG_EN fn ring])))) ∧
  (∀ (s : State) (fn k data sz vec : Nat), Reaches s fn T.vorak fn → fn < 16 → k < 9 → data < 2 ^ 32 → sz = bitField data 20 5 → vec = bitField data 0 11 → (fn = 0 ∨ vec < 128) → s.fbit F.RX_CFG_EN fn k = false →
    4 ≤ sz → sz ≤ 12 → bitAt data 31 = true → ∃ t, exec (.ringEnable fn (16 + k) data) s = .next t ∧ t.fbit F.RX_CFG_EN fn k = true ∧ t.rxSize fn k = 2 ^ sz ∧
      t.fget F.RX_IDX_PROD fn k = 0 ∧ t.fget F.RX_IDX_CONS fn k = 0 ∧ (t.ring fn (16 + k)).phase = true ∧
      SameRegsBut s t [fieldAt F.RX_CFG_EN fn k, fieldAt F.RX_IDX_PROD fn k]) ∧
  (∀ (s : State) (p : Nat) (read : Option (List Byte)), p < 16 →
    (s.fbit F.VORAK_CTRL_EN p = false ∨ 256 ≤ s.inFlight p ∨ s.inFlr p = true ∨ (s.writing p = none ∧ s.nextRing p = none) → exec (.commandTake p read) s = .next (s.endReserved p)) ∧
    ((∀ x ∈ s.vk.cmds, x.polder = p → knownOpcode x.opcode = true) → s.endReserved p = s ∧
    (∀ i more, s.fbit F.VORAK_CTRL_EN p = true → s.inFlight p < 256 → s.inFlr p = false → s.writing p = some i → read = some more → (i.data ++ more).length < 64 →
      ∃ t, exec (.commandTake p read) s = .next t ∧ (∃ j, t.writing p = some j ∧ j.id = i.id ∧ j.tag = i.tag ∧ j.data = i.data ++ more) ∧ t = { s with qs := t.qs }) ∧
    (∀ r, s.fbit F.VORAK_CTRL_EN p = true → s.inFlight p < 256 → s.inFlr p = false → s.writing p = none → s.nextRing p = some r →
      (read = none → ∃ t, exec (.commandTake p read) s = .next t ∧ t.fbit F.RING_CFG_EN p r = false ∧ causeSet t T.vorak p I.VORAK_RING_ERR ∧
        (s.fbit F.VORAK_ERR_VALID p = false → t.fget F.VORAK_ERR_RING p = r ∧ t.fget F.VORAK_ERR_KIND p = 2) ∧ t.vk.cmds = s.vk.cmds ∧ t.vk.rings = s.vk.rings ∧
        SameRegsBut s t [fieldAt F.RING_CFG_EN p r, fieldAt F.VORAK_ERR_VALID p, causeAt T.vorak p] ∧ t = { s with regs := t.regs, vk := t.vk, out := t.out }) ∧
      (∀ b, read = some b → b.length < 64 → s.takeRoom p = true → ∃ t j, exec (.commandTake p read) s = .next t ∧ t.writing p = some j ∧ j.tag = r * 65536 ∧ j.data = b ∧ t.vk = s.vk ∧
        t.regs = s.regs) ∧
      (∀ (b : List Byte) (c : VCmd), read = some b → b.length = 64 → c.polder = p → c.ring = r → c.tag = leAt b 2 2 → c.opcode = leAt b 0 1 → c.flags = leAt b 1 1 → c.zero = leAt b 4 4 →
        c.handle = leAt b 8 8 → c.addr = leAt b 0x10 8 → c.len = leAt b 0x18 4 → c.a = ((List.range 9).map fun i => leAt b (0x1C + 4 * i) 4) →
        c.sqHead = (s.fget F.SQ_HEAD_HEAD p r + 1) % s.ringSize p r → c.order = s.vk.takes → c.started = false → c.progress = 0 → c.silent = false → c.aborted = false →
        c.bell = ((s.ring p r).bells.head?.map (·.2)).getD s.vk.bells →
        (s.tagHeld p r c.tag = false → knownOpcode c.opcode = true → s.takeRoom p = true → ∃ t, exec (.commandTake p read) s = .next t ∧
          t.vk.cmds = s.vk.cmds ++ [c] ∧ t.vk.takes = s.vk.takes + 1 ∧ t.fget F.SQ_HEAD_HEAD p r = c.sqHead % 65536 ∧ SameRegsBut s t [fieldAt F.SQ_HEAD_HEAD p r]) ∧
        (s.tagHeld p r c.tag = true → ∃ u : State, exec (.commandTake p read) s = .next (u.writeCompletion c 6 0 0 0 0) ∧
          u.vk.cmds = s.vk.cmds ∧ u.vk.takes = s.vk.takes + 1 ∧ u.fget F.SQ_HEAD_HEAD p r = c.sqHead % 65536 ∧ u = { s with regs := u.regs, vk := u.vk } ∧
          SameRegsBut s u [fieldAt F.SQ_HEAD_HEAD p r]) ∧
        (s.tagHeld p r c.tag = false → knownOpcode c.opcode = false → s.takeRoom p = true →
          ((∀ x ∈ s.vk.cmds, x.polder ≠ p) → ∃ u : State, exec (.commandTake p read) s = .next (u.complete c 6) ∧ u.vk.cmds = s.vk.cmds ++ [c] ∧ u.vk.takes = s.vk.takes + 1 ∧
            u.fget F.SQ_HEAD_HEAD p r = c.sqHead % 65536 ∧ SameRegsBut s u [fieldAt F.SQ_HEAD_HEAD p r]) ∧
          ((∃ x ∈ s.vk.cmds, x.polder = p ∧ x.ring = r ∧ x.order < s.vk.takes ∧ (x.started = false ∨ c.flags % 2 = 1)) → ∃ t, exec (.commandTake p read) s = .next t ∧
            t.vk.cmds = s.vk.cmds ++ [c] ∧ t.fget F.SQ_HEAD_HEAD p r = c.sqHead % 65536 ∧ SameRegsBut s t [fieldAt F.SQ_HEAD_HEAD p r])) ∧
        (s.tagHeld p r c.tag = false → s.takeRoom p = false → exec (.commandTake p read) s = .next s))))) ∧
  (∀ (s : State) (p r : Nat), r < 16 →
    (s.fget F.VORAK_COAL_TIME p ≠ 0 → (s.ring p r).unsig ≠ 0 → ∃ t, exec (.coalTimer p r) s = .next t ∧ (t.ring p r).unsig = 0 ∧ (t.ring p r).cqTail = (s.ring p r).cqTail ∧
      t.regs = s.regs ∧ t.vk.cmds = s.vk.cmds ∧ (s.inFlr p = false → t.out = s.out ++ [.msi p (s.fget F.RING_CFG_VEC p r)])) ∧
    (s.fget F.VORAK_COAL_TIME p = 0 ∨ (s.ring p r).unsig = 0 → exec (.coalTimer p r) s = .next s))

/-- RX_DELIVER and NOTICE_DELIVER (R337, R338, R504 to R506; that NOTICE_EN gates the ring's message is the model's reading: log entry 375), and QUEUE_WIN_READ, QUEUE_MARK, QUEUE_REWIND and QUEUE_RELEASE (R335, R336, R353). The last four are accesses of
registers of the QUEUE page; one that does not reach the page is what BusAccess says. -/
def Obligations.DeliveryAndWindow : Prop :=
  (∀ (s : State) (p k : Nat) (bad : Bool), p < 16 → k < 8 →
    (s.rxRoom p k = false → exec (.rxDeliver p ⟨k, bad⟩) s = .next s) ∧
    (s.rxRoom p k = true → (s.queue (qHost p k)).items = [] → (s.queue (qHost p k)).gapPend = 0 → exec (.rxDeliver p ⟨k, bad⟩) s = .next s) ∧
    (∀ i l n at', s.rxRoom p k = true → (s.queue (qHost p k)).items = i :: l → i.seen.isSome = true → (s.queue (qHost p k)).gapPend = 0 → (∀ x ∈ l, x.id ≠ i.id) → n = s.rxSize p k → n ≤ 65536 →
      at' = s.rxBase p k + 2048 * s.fget F.RX_IDX_PROD p k →
      (i.poison = true ∨ (bad = true ∧ i.gap = false) → ∃ t, exec (.rxDeliver p ⟨k, bad⟩) s = .next t ∧ (t.queue (qHost p k)).items = l ∧ t.fget F.RX_IDX_PROD p k = (s.fget F.RX_IDX_PROD p k + 1) % n ∧
        .dmaWrite p at' ((descWords { i with poison := true }).flatMap (leBytes 4)) ∈ t.out ∧ causeSet t T.queue 0 I.QUEUE_POISON ∧
        t.cget C.SPILL_POISON 0 p = (s.cget C.SPILL_POISON 0 p + 1) % 2 ^ 64 ∧ SameRegsBut s t [fieldAt F.RX_IDX_PROD p k, causeAt T.queue 0]) ∧
      (i.poison = false → bad = false ∨ i.gap = true →
      ∃ t, exec (.rxDeliver p ⟨k, bad⟩) s = .next t ∧ (t.queue (qHost p k)).items = l ∧ t.fget F.RX_IDX_PROD p k = (s.fget F.RX_IDX_PROD p k + 1) % n ∧
        SameRegsBut s t [fieldAt F.RX_IDX_PROD p k] ∧ t = { s with regs := t.regs, qs := t.qs, vk := t.vk, out := t.out } ∧
        (∀ j, j ≠ qHost p k → t.queue j = s.queue j) ∧
        ((t.ring p (16 + k)).phase = if s.fget F.RX_IDX_PROD p k + 1 = n then !(s.ring p (16 + k)).phase else (s.ring p (16 + k)).phase) ∧
        t.out = s.out ++ [.dmaWrite p at' ((descWords i).flatMap (leBytes 4) ++ (if i.gap then [] else i.data)), .dmaWrite p (at' + 0x7FC) (leBytes 4 (b2n (s.ring p (16 + k)).phase))] ++
          (if (s.queue (qHost p k)).notice then [.msi p (s.fget F.RX_CFG_VEC p k)] else [])))) ∧
  (∀ (s : State) (p : Nat) (bad : Bool), p < 16 →
    (s.rxRoom p 8 = false → exec (.noticeDeliver ⟨p, bad⟩) s = .next s) ∧
    (∀ i l lost, s.rxRoom p 8 = true → (s.queue (qPriv p 2)).items = i :: l → (∀ x ∈ i :: l, x.seen.isSome = true) → (s.queue (qPriv p 2)).gapPend = 0 →
      (∀ x ∈ l, x.id ≠ i.id) → s.rxSize p 8 ≤ 65536 →
      lost = (fun n => leBytes 1 0x0F ++ leBytes 1 (b2n (s.ring p 24).phase) ++ leBytes 2 n ++ leBytes 12 0 ++ leBytes 8 s.turn ++ leBytes 8 0) →
      (i.poison = false → bad = false ∨ i.gap = true → ∃ t, exec (.noticeDeliver ⟨p, bad⟩) s = .next t ∧ (t.queue (qPriv p 2)).items = l ∧
        t.fget F.RX_IDX_PROD p 8 = (s.fget F.RX_IDX_PROD p 8 + 1) % s.rxSize p 8 ∧ SameRegsBut s t [fieldAt F.RX_IDX_PROD p 8] ∧
        t.out = s.out ++ [.dmaWrite p (s.rxBase p 8 + 32 * s.fget F.RX_IDX_PROD p 8)
          (if i.gap then lost i.gaps else i.data.take 1 ++ leBytes 1 (b2n (s.ring p 24).phase) ++ i.data.drop 2)] ++
          (if (s.queue (qPriv p 2)).notice then [.msi p (s.fget F.RX_CFG_VEC p 8)] else [])) ∧
      (i.gap = false → i.poison = true ∨ bad = true → ∃ t, exec (.noticeDeliver ⟨p, bad⟩) s = .next t ∧ (t.queue (qPriv p 2)).items = l ∧
        t.fget F.RX_IDX_PROD p 8 = (s.fget F.RX_IDX_PROD p 8 + 1) % s.rxSize p 8 ∧ .dmaWrite p (s.rxBase p 8 + 32 * s.fget F.RX_IDX_PROD p 8) (lost 1) ∈ t.out ∧
        causeSet t T.queue 0 I.QUEUE_POISON))) ∧
  (∀ (s : State) (fn ring cons x n : Nat), Reaches s fn T.vorak fn → fn < 16 → ring < 9 → cons < 2 ^ 32 → x = cons % 65536 → n = s.rxSize fn ring → x < n →
    (x + n - s.fget F.RX_IDX_CONS fn ring) % n ≤ (s.fget F.RX_IDX_PROD fn ring + n - s.fget F.RX_IDX_CONS fn ring) % n →
    ∃ t, exec (.rxConsWrite fn ring cons) s = .next t ∧ t.fget F.RX_IDX_CONS fn ring = x ∧ t.fget F.RX_IDX_PROD fn ring = s.fget F.RX_IDX_PROD fn ring) ∧
  (∀ (s : State) (fn ring data sz vec : Nat), Reaches s fn T.vorak fn → fn < 16 → ring < 16 → data < 2 ^ 32 → sz = bitField data 20 5 → vec = bitField data 0 11 → (fn = 0 ∨ vec < 128) →
    s.fbit F.RING_CFG_EN fn ring = false → 4 ≤ sz → sz ≤ 16 → bitAt data 31 = true → ∃ t, exec (.ringEnable fn ring data) s = .next t ∧ t.fbit F.RING_CFG_EN fn ring = true ∧
      t.ringSize fn ring = 2 ^ sz ∧ t.fget F.SQ_TAIL_TAIL fn ring = 0 ∧ t.fget F.SQ_HEAD_HEAD fn ring = 0 ∧ t.fget F.CQ_HEAD_HEAD fn ring = 0) ∧
  (∀ (s : State) (fn : Nat), exec (.queueWinRead ⟨fn, false⟩) s = exec (.readClear fn (regAddr T.queue 0 0x54) 4) s ∧
    exec (.queueMark fn) s = exec (.registerWrite fn (regAddr T.queue 0 0x5C) 4 1 false) s ∧
    exec (.queueRewind fn) s = exec (.registerWrite fn (regAddr T.queue 0 0x5C) 4 2 false) s ∧
    exec (.queueRelease fn) s = exec (.registerWrite fn (regAddr T.queue 0 0x5C) 4 4 false) s) ∧
  (∀ (s : State) (fn id k : Nat), Reaches s fn T.queue 0 → id = s.fget F.QUEUE_SEL_QID 0 → k = qKind s.fuse id →
    (k ≠ 2 → k ≠ 3 → exec (.queueWinRead ⟨fn, false⟩) s = .next ((s.logErr T.queue 0 5 fn (regAddr T.queue 0 0x54) 0).emit (.readData fn (regAddr T.queue 0 0x54) 0)) ∧
      exec (.queueMark fn) s = .next (s.logErr T.queue 0 5 fn (regAddr T.queue 0 0x5C) 1) ∧
      exec (.queueRewind fn) s = .next (s.logErr T.queue 0 5 fn (regAddr T.queue 0 0x5C) 2) ∧
      exec (.queueRelease fn) s = .next (s.logErr T.queue 0 5 fn (regAddr T.queue 0 0x5C) 4)) ∧
    (k = 2 ∨ k = 3 →
      exec (.queueMark fn) s = .next (s.setQueue id { s.queue id with mark := (s.queue id).read }) ∧
      exec (.queueRewind fn) s = .next (s.setQueue id { s.queue id with read := (s.queue id).mark, word := 0 }) ∧
      (∃ t, exec (.queueRelease fn) s = .next t ∧ t.queue id = { s.queue id with items := (s.queue id).items.drop (s.queue id).mark, read := (s.queue id).read - (s.queue id).mark, mark := 0 } ∧
        (∀ j, j ≠ id → t.queue j = s.queue j) ∧ t = { s with qs := t.qs }) ∧
      (∀ bad, (s.queue id).winEmpty = true → ∃ t, exec (.queueWinRead ⟨fn, bad⟩) s = .next t ∧ t.fbit F.QUEUE_WIN_STAT_UNDERRUN 0 = true ∧
        causeSet t T.queue 0 I.QUEUE_UNDERRUN ∧ t.qs = s.qs ∧ .readData fn (regAddr T.queue 0 0x54) (s.qs.lastWord % 2 ^ 32) ∈ t.out ∧
        SameRegsBut s t [fieldAt F.QUEUE_WIN_STAT_UNDERRUN 0, causeAt T.queue 0] ∧ t = { s with regs := t.regs, out := t.out }) ∧
      (∀ i l, (s.queue id).items.drop (s.queue id).read = i :: l → (s.queue id).winEmpty = false → (s.queue id).gapPend = 0 →
        (∃ t, exec (.queueWinRead ⟨fn, true⟩) s = .next t ∧ t.fbit F.QUEUE_WIN_STAT_POISON 0 = true ∧ causeSet t T.queue 0 I.QUEUE_POISON ∧ ∀ x ∈ (t.queue id).items, x.id = i.id → x.poison = true) ∧
        (i.poison = false → ∃ t v, exec (.queueWinRead ⟨fn, false⟩) s = .next t ∧ v = (itemWords k i).getD (s.queue id).word 0 ∧ t.out = s.out ++ [.readData fn (regAddr T.queue 0 0x54) (v % 2 ^ 32)] ∧ t.regs = s.regs ∧
          t.qs.lastWord = v ∧ t.qs.used = s.qs.used ∧ (∀ j, j ≠ id → t.queue j = s.queue j) ∧ (t.queue id).items = (s.queue id).items ∧ (t.queue id).mark = (s.queue id).mark ∧
          (i.done = true → (itemWords k i).length ≤ (s.queue id).word + 1 → (t.queue id).read = (s.queue id).read + 1 ∧ (t.queue id).word = 0) ∧
          (i.done = false ∨ (s.queue id).word + 1 < (itemWords k i).length → (t.queue id).read = (s.queue id).read ∧ (t.queue id).word = (s.queue id).word + 1)))))

/-- The Press's rings, slots and jobs and the mate mirror (R533, R536, R539, R540, R542, R544, R548, R600, R601).
A write of a PRESS_RING that does not reach the page is what BusAccess says. -/
def Obligations.PressJobs : Prop :=
  (∀ (s : State) (fn p data : Nat), p < 16 → exec (.pressRingWrite fn p data) s = exec (.registerWrite fn (regAddr T.press 0 (0x80 + 4 * p)) 4 data false) s) ∧
  (∀ (s : State) (fn p data n : Nat), Reaches s fn T.press 0 → p < 16 → data < 2 ^ 32 → n = data % 16 →
    (n < 4 ∨ 12 < n ∨ (s.fbit F.PRESS_RING_EN 0 p = true ∧ n ≠ s.fget F.PRESS_RING_LOG2SIZE 0 p) →
      exec (.pressRingWrite fn p data) s = .next (s.logErr T.press 0 5 fn (regAddr T.press 0 (0x80 + 4 * p)) data)) ∧
    (4 ≤ n → n ≤ 12 → s.fbit F.PRESS_RING_EN 0 p = false ∨ n = s.fget F.PRESS_RING_LOG2SIZE 0 p →
      (data < 2 ^ 31 ∨ s.fbit F.PRESS_RING_EN 0 p = true → ∃ t, exec (.pressRingWrite fn p data) s = .next t ∧ t.fget F.PRESS_RING_LOG2SIZE 0 p = n ∧
        t.fget F.PRESS_RING_EN 0 p = data / 2 ^ 31 ∧ SameRegsBut s t [fieldAt F.PRESS_RING_EN 0 p] ∧ t = { s with regs := t.regs }) ∧
      (2 ^ 31 ≤ data → s.fbit F.PRESS_RING_EN 0 p = false → ∀ s1 : State, s1 = (s.fset F.PRESS_RING_LOG2SIZE 0 n p).fset F.PRESS_RING_EN 0 1 p → ∃ t : State,
        exec (.pressRingWrite fn p data) s = .next t ∧ t.fget F.PRESS_RING_LOG2SIZE 0 p = n ∧
        ((s1.paRead p 2 (pagesOf 4) 4 4 none []).status = 0 → t.fbit F.PRESS_RING_EN 0 p = true ∧
          Tab.get (fun _ => 0) t.press.cons p = ofLeBytes (s1.paRead p 2 (pagesOf 4) 4 4 none []).data) ∧
        ((s1.paRead p 2 (pagesOf 4) 4 4 none []).status ≠ 0 → t.fbit F.PRESS_RING_EN 0 p = false ∧ causeSet t T.press 0 I.PRESS_RING_ERR ∧ t.fget F.PRESS_LASTERR_POLDER 0 = p ∧
          t.fget F.PRESS_LASTERR_RING 0 = 1 ∧ t.press = s.press)))) ∧
  (∀ (s : State) (k : Nat), (16 ≤ k → exec (.pressSlotStart k) s = .next s) ∧
    (k < 16 → s.fbit F.PRESS_CTRL_EN 0 = false ∨ s.press.mode = false → ∃ t, exec (.pressSlotStart k) s = .next t ∧ t.fget F.PRESS_STAT_SLOT 0 = k ∧ SameRegsBut s t [fieldAt F.PRESS_STAT_SLOT 0] ∧
      t = { s with regs := t.regs }) ∧
    (k < 16 → s.fbit F.PRESS_CTRL_EN 0 = true → s.press.mode = true →
      (s.press.sloten.testBit k = false → ∃ t, exec (.pressSlotStart k) s = .next t ∧ t.fget F.PRESS_STAT_SLOT 0 = k ∧ t.press.running = none ∧
        t.press.suspended = s.press.suspended ++ s.press.running.toList ∧ t.press.timeUp = false ∧ (s.press.running.isSome = true → t.fbit F.PRESS_STAT_BUSY 0 = false) ∧
        t.fbit F.PRESS_STAT_MIRROR 0 = false ∧ SameRegsBut s t [fieldAt F.PRESS_STAT_SLOT 0] ∧ t = { s with regs := t.regs, press := t.press }) ∧
      (∀ j, s.press.sloten.testBit k = true → s.press.due.find? (fun j => j.polder == s.press.slotmap / 16 ^ k % 16) = some j → ∃ t, exec (.pressSlotStart k) s = .next t ∧
        t.press.running = some j ∧ t.press.due = s.press.due.filter (fun i => i.polder != j.polder) ∧ t.press.suspended = s.press.suspended ++ s.press.running.toList ∧
        t.fbit F.PRESS_STAT_BUSY 0 = true ∧ t.fget F.PRESS_STAT_POLDER 0 = j.polder ∧ t.fbit F.PRESS_STAT_MIRROR 0 = j.mirror))) ∧
  (∀ s : State, (s.fbit F.PRESS_CTRL_EN 0 = false ∨ s.press.running.isSome = true → exec .pressJobStart s = .next s) ∧
    (s.press.mode = true → s.press.timeUp = true ∨ s.press.sloten.testBit (s.fget F.PRESS_STAT_SLOT 0) = false → exec .pressJobStart s = .next s) ∧
    (∀ j, s.fbit F.PRESS_CTRL_EN 0 = true → s.press.running = none → s.press.mode = false → s.press.timeUp = false →
      s.press.due.find? (fun j => j.polder == s.fget F.PRESS_STAT_POLDER 0) = some j → ∃ t, exec .pressJobStart s = .next t ∧ t.press.running = some j ∧ t.fbit F.PRESS_STAT_BUSY 0 = true ∧
        t.fget F.PRESS_STAT_POLDER 0 = j.polder ∧ t.fbit F.PRESS_STAT_MIRROR 0 = j.mirror ∧ t.press.suspended = s.press.suspended ∧ SameRegsBut s t [fieldAt F.PRESS_STAT_BUSY 0] ∧
        t = { s with regs := t.regs, press := t.press })) ∧
  (∀ (s : State) (p : Nat) (r : Xfer), r = s.pressRead p 0 4 none →
    (s.fbit F.PRESS_RING_EN 0 p = false → s.ringJob p = (s, none)) ∧
    (s.fbit F.PRESS_RING_EN 0 p = true → r.status ≠ 0 ∨ 2 ^ s.fget F.PRESS_RING_LOG2SIZE 0 p ≤ ofLeBytes r.data → s.ringJob p = (r.s.pressRingErr p, none)) ∧
    (s.fbit F.PRESS_RING_EN 0 p = true → r.status = 0 → ofLeBytes r.data < 2 ^ s.fget F.PRESS_RING_LOG2SIZE 0 p → ofLeBytes r.data = Tab.get (fun _ => 0) s.press.cons p →
      s.ringJob p = (r.s, none))) ∧
  (∀ (s : State) (bt torn : Option Nat), (s.press.running = none → exec (.pressJobDone bt torn) s = .next s) ∧
    (∀ j, s.press.running = some j → j.polder < 16 → ∃ t, exec (.pressJobDone bt torn) s = .next t ∧ t.press.running = none ∧ t.fbit F.PRESS_STAT_BUSY 0 = false ∧
      t.fbit F.PRESS_STAT_MIRROR 0 = false ∧ t.press.suspended = s.press.suspended ∧
      (j.mirror = false → torn.isSome = true → t.press.cons = s.press.cons ∧ t.press.timeUp = true ∧ t.ctrs = s.ctrs) ∧
      (j.mirror = false → torn = none → Tab.get (fun _ => 0) t.press.cons j.polder = (j.idx + 1) % 2 ^ s.fget F.PRESS_RING_LOG2SIZE 0 j.polder ∨ causeSet t T.press 0 I.PRESS_RING_ERR) ∧
      (j.mirror = true → t.cget C.PRESS_JOBS 0 = (s.cget C.PRESS_JOBS 0 + 1) % 2 ^ 64) ∧
      (j.mirror = true → s.fbit F.RAS_MIR_EN 0 j.polder = false → t.press.copies = s.press.copies) ∧
      (j.mirror = true → s.fbit F.RAS_MIR_EN 0 j.polder = true → (∃ m, Tab.get (fun _ => none) t.press.copies j.polder = some m ∧ m.count = j.count ∧ m.turn = j.turn) ∧
        (Tab.get (fun _ => none) s.press.copies j.polder ≠ none → causeSet t T.ras 0 I.RAS_MIRROR_SKIP)))) ∧
  (∀ s : State, (s.fbit F.PRESS_CTRL_EN 0 = false → exec .pressSuspend s = .next s) ∧
    (s.fbit F.PRESS_CTRL_EN 0 = true → ∃ t, exec .pressSuspend s = .next t ∧ t.press.running = none ∧ t.press.suspended = s.press.suspended ++ s.press.running.toList ∧ t.press.timeUp = true ∧
      (s.press.running.isSome = true → t.fbit F.PRESS_STAT_BUSY 0 = false) ∧ t.fbit F.PRESS_STAT_MIRROR 0 = false ∧ SameRegsBut s t [fieldAt F.PRESS_STAT_BUSY 0] ∧
      t = { s with regs := t.regs, press := t.press })) ∧
  (∀ (s : State) (p : Nat), (16 ≤ p ∨ s.mirrorChans p = [] ∨ s.fbit F.PRESS_CTRL_EN 0 = false → exec (.mirrorJob p) s = .next s) ∧
    (p < 16 → s.mirrorChans p ≠ [] → s.fbit F.PRESS_CTRL_EN 0 = true → ∃ t j, exec (.mirrorJob p) s = .next t ∧ j ∈ t.press.due ∧ j.mirror = true ∧ j.polder = p ∧ j.turn = s.turn ∧
      j.count = (s.mirrorChans p).length ∧ (∀ k ∈ t.press.due, k.mirror = true → k.polder = p → k = j) ∧ (∀ k ∈ t.press.suspended, k.mirror = false ∨ k.polder ≠ p) ∧
      (∀ k, t.press.running = some k → k.mirror = false ∨ k.polder ≠ p) ∧
      ((∃ k, (s.press.running = some k ∨ k ∈ s.press.suspended ∨ k ∈ s.press.due) ∧ k.mirror = true ∧ k.polder = p) → causeSet t T.press 0 I.PRESS_MIRROR_LATE) ∧
      ((∀ k, s.press.running = some k ∨ k ∈ s.press.suspended ∨ k ∈ s.press.due → k.mirror = false ∨ k.polder ≠ p) → t = { s with press := t.press }))) ∧
  (∀ (s : State) (p : Nat), p < 16 → (Tab.get (fun _ => none) s.press.copies p = none → exec (.mirrorCopyDone p) s = .next s) ∧
    (∀ m, Tab.get (fun _ => none) s.press.copies p = some m → ∃ t, exec (.mirrorCopyDone p) s = .next t ∧ Tab.get (fun _ => none) t.press.copies p = none ∧
      ((Tab.get (fun _ => 0) t.press.seq p = Tab.get (fun _ => 0) s.press.seq p + 1 ∧ t.press.running = s.press.running) ∨ (causeSet t T.ras 0 I.RAS_MIRROR_SKIP ∧ t.press.seq = s.press.seq))))

/-- DOMAIN_SHUTDOWN, DOMAIN_OFF, DOMAIN_WAKE, DOMAIN_ON and DOM_FAULT (R569 to R571, R583). -/
def Obligations.PowerDomains : Prop :=
  ∀ (s : State) (d : Nat), d < 184 →
    (s.mayCut d = true →
      (s.dom d = 3 → exec (.domainShutdown d) s = .next (s.setDom d 4)) ∧ (s.dom d = 4 → exec (.domainShutdown d) s = .next (s.setDom d 5)) ∧
      (s.dom d = 5 → exec (.domainShutdown d) s = .next (s.setDom d 6)) ∧
      (s.dom d = 1 → ∃ t, exec (.domainShutdown d) s = .next t ∧ d ∈ t.power.later ∧ (∀ k, t.dom k = s.dom k) ∧
        t = { s with power := { s.power with later := t.power.later } })) ∧
    (s.mayCut d = false → exec (.domainShutdown d) s = .next s) ∧
    (s.dom d = 6 → ∃ t, exec (.domainOff d) s = .next t ∧ t.dom d = (if d ∈ s.power.queued then 1 else 0) ∧ (∀ k, k ≠ d → t.dom k = s.dom k) ∧
      d ∉ t.power.queued ∧ t = { s with power := { s.power with dom := t.power.dom, queued := t.power.queued } }) ∧
    (s.mayWake d = true →
      (s.dom d = 0 → exec (.domainWake d) s = .next (s.setDom d 1)) ∧
      (s.dom d = 4 ∨ s.dom d = 5 → ∃ t, exec (.domainWake d) s = .next t ∧ t.dom d = 3 ∧ (∀ k, k ≠ d → t.dom k = s.dom k) ∧
        t.fget F.POWER_RACE_CANCELLED 0 = min (s.fget F.POWER_RACE_CANCELLED 0 + 1) (2 ^ F.POWER_RACE_CANCELLED.w - 1) ∧
        SameRegsBut s t [fieldAt F.POWER_RACE_CANCELLED 0] ∧ t = { s with regs := t.regs, power := { s.power with dom := t.power.dom } }) ∧
      (s.dom d = 6 → d ∉ s.power.queued → ∃ t, exec (.domainWake d) s = .next t ∧ t.power = { s.power with queued := s.power.queued ++ [d] } ∧
        t.fget F.POWER_RACE_QUEUED 0 = min (s.fget F.POWER_RACE_QUEUED 0 + 1) (2 ^ F.POWER_RACE_QUEUED.w - 1) ∧ causeSet t T.power 0 I.POWER_WAKE_QUEUED ∧
        SameRegsBut s t [fieldAt F.POWER_RACE_QUEUED 0, causeAt T.power 0] ∧ t = { s with regs := t.regs, out := t.out, power := t.power }) ∧
      (s.dom d = 6 → d ∈ s.power.queued → exec (.domainWake d) s = .next s) ∧ (s.dom d = 3 → exec (.domainWake d) s = .next s)) ∧
    (s.mayWake d = false → exec (.domainWake d) s = .next s) ∧
    (s.dom d = 1 → d ∉ s.power.later → ∃ t, exec (.domainOn d) s = .next t ∧ t.dom d = 3 ∧ (∀ k, k ≠ d → t.dom k = s.dom k) ∧
      (d < 80 → (∀ n, 16 * d ≤ n → n < 16 * d + 16 → t.stone n = {}) ∧ t.fget F.MILL_ROLE_ROLE d = s.fget F.MILL_ROLE_ROLE d ∧ SameStonesBut s t ((List.range 16).map (16 * d + ·))) ∧
      (96 ≤ d → d < 128 → ∀ a, memByte t.pond a = if (d - 96) * 2 ^ 21 ≤ a ∧ a < (d - 96) * 2 ^ 21 + 2 ^ 21 then 0 else memByte s.pond a) ∧ (80 ≤ d → t.stones = s.stones) ∧
      (d < 96 ∨ 128 ≤ d → t.pond = s.pond) ∧ t.out = s.out) ∧
    (s.dom d = 1 → ∃ t, exec (.domFault d) s = .next t ∧ causeSet t T.power 0 I.POWER_DOM_FAULT ∧
      (∃ l, t.out = s.out ++ l ++ [.fault (if d < 80 then T.mill else T.power) d]) ∧ SameRegsBut s t [causeAt T.power 0] ∧ t = { s with regs := t.regs, out := t.out })

/-- PWRFAIL_FALL, PWRFAIL_GLITCH, WAKE, THERMTRIP, SUPPLY_COLLAPSE, POWER_ON_RESET, SYS_RST_N_ASSERT and WATCHDOG_EXPIRE (R395, R456, R549 to R551,
R572, R573, R615, R618, R625). That SUPPLY_COLLAPSE keeps RST_CAUSE is the model's choice (log entry 216), and so is that STATE reads PWRFAIL from every other value (log entry 388). -/
def Obligations.PinsAndResets : Prop :=
  (∀ s : State, s.fget F.LEDGER_STAT_STATE 0 = 2 → ∃ t, exec .pwrfailFall s = .next t ∧
    FieldsSet s t T.power 0 F.POWER_STAT_PWRFAIL_N.off [(F.POWER_STAT_PWRFAIL_N, 0), (F.POWER_STAT_PWRFAIL, 1)] ∧
    FieldsSet s t T.power 0 0x54 [(F.POWER_STBY_CAUSE_PWRFAIL, 1)] ∧ causeSet t T.power 0 I.POWER_PWRFAIL ∧
    SameRegsBut s t [fieldAt F.POWER_STAT_PWRFAIL 0, fieldAt F.POWER_STBY_CAUSE_PWRFAIL 0, causeAt T.power 0] ∧ t = { s with regs := t.regs, out := t.out }) ∧
  (∀ s : State, s.fget F.LEDGER_STAT_STATE 0 ≠ 2 → ∃ t, exec .pwrfailFall s = .next t ∧ t.fget F.LEDGER_STAT_STATE 0 = 2 ∧ t.led.reqs = [] ∧ t.led.writing = none ∧
    causeSet t T.ledger 0 I.LEDGER_PWRFAIL ∧ causeSet t T.power 0 I.POWER_PWRFAIL ∧ t.fget F.POWER_STBY_CAUSE_PWRFAIL 0 = 1) ∧
  (∀ s : State, s.fbit F.POWER_STAT_PWRFAIL_N 0 = false → ∃ t, exec .pwrfailGlitch s = .next t ∧ t.fget F.POWER_STAT_PWRFAIL_N 0 = 1 ∧
    t.fget F.LEDGER_STAT_STATE 0 = s.fget F.LEDGER_STAT_STATE 0 ∧ (s.fbit F.POWER_STAT_PWRFAIL 0 = true → causeSet t T.power 0 I.POWER_PWRFAIL_GLITCH) ∧
    SameRegsBut s t [fieldAt F.POWER_STAT_PWRFAIL_N 0, causeAt T.power 0] ∧ t = { s with regs := t.regs, out := t.out }) ∧
  (∀ s : State, ∃ t, exec .wake s = .next t ∧ FieldsSet s t T.power 0 0x54 [(F.POWER_STBY_CAUSE_WAKE, 1)] ∧ SameRegsBut s t [fieldAt F.POWER_STBY_CAUSE_WAKE 0] ∧
    t = { s with regs := t.regs }) ∧
  (∀ s : State, s.power.trip = false → exec .thermtrip s = .next { s with power := { s.power with trip := true }, out := s.out ++ [.thermtrip] }) ∧
  (∀ s : State, ∀ c t, (c = .powerOnReset ∨ c = .sysRstNAssert ∨ c = .supplyCollapse ∨ (c = .watchdogExpire ∧ s.power.standby = false ∧ s.trust.boot ≠ .held)) →
    exec c s = .next t →
    t.fuse = s.fuse ∧ t.led = { slots := s.led.slots } ∧ t.tideNow = 0 ∧ t.tide = {} ∧ t.fget F.TIDE_STAT_TIME_VALID 0 = 0 ∧ t.meas = {} ∧ t.vk = {} ∧ t.stones = [] ∧
    t.mem = { lostDies := s.mem.lostDies } ∧ t.pond = [] ∧ t.qs = {} ∧ t.streams = [] ∧ t.sch = {} ∧ t.trust.boot = .held ∧ t.pol = { draws := s.pol.draws } ∧ (∀ h n, (t.lock h n).st = .held) ∧
    SameRegsBut { State.reset with fuse := s.fuse } t [fieldAt F.POWER_STBY_CAUSE_WAKE 0, fieldAt F.POWER_STAT_PWRFAIL_N 0]) ∧
  (∀ s : State, (∃ t, exec .powerOnReset s = .next t ∧ t.fget F.POWER_STAT_RST_CAUSE 0 = 1 ∧ t.rd T.power 0 0x54 = 0) ∧
    (∃ t, exec .sysRstNAssert s = .next t ∧ t.fget F.POWER_STAT_RST_CAUSE 0 = (if s.power.standby then 6 else 2) ∧ t.rd T.power 0 0x54 = s.rd T.power 0 0x54) ∧
    (∃ t, exec .supplyCollapse s = .next t ∧ t.rd T.power 0 0x54 = s.rd T.power 0 0x54) ∧
    (s.power.standby = false → s.trust.boot ≠ .held → ∃ t, exec .watchdogExpire s = .next t ∧ t.fget F.POWER_STAT_RST_CAUSE 0 = 5 ∧ t.trust.watchdog = true ∧
      t.rd T.power 0 0x54 = s.rd T.power 0 0x54))

/-- I2C_GO, I2C_TRANSACTION_DONE, I2C_RETRY, I2C_BUS_CLEAR, BUS_CLEAR_RETRY and I2C_TIMEOUT (R575, R576, R584), each for a host transaction or an idle
bus with nothing else waiting. A GO that does not reach its page is what BusAccess says. -/
def Obligations.I2cMasters : Prop :=
  ∀ (s : State) (k : Nat), k < 2 → ∀ x, s.i2cm k = x →
    (∀ fn data, s.fbit F.I2CM_XFER_GO k = false → bitField data 16 6 ≤ 32 → bitField data 8 6 ≤ 32 → x.cur = none → x.avsWaits = none → s.fbit F.I2CM_CTRL_EN k = true →
      s.fbit F.I2CM_STAT_CLEARING k = false → s.fbit F.I2CM_STAT_BUS_STUCK k = false → s.hostSlot k = true → Reaches s fn T.i2cm k →
      ∃ t speed bytes rlen, exec (.i2cGo fn k data) s = .next t ∧ t.fbit F.I2CM_XFER_GO k = true ∧ t.fbit F.I2CM_STAT_BUSY k = true ∧ (t.i2cm k).cur = some .host ∧
        (t.i2cm k).tries = 0 ∧ t.fget F.I2CM_XFER_RLEN k = bitField data 16 6 ∧ t.fget F.I2CM_XFER_WLEN k = bitField data 8 6 ∧
        t.out = s.out ++ [.i2cAttempt k speed (t.fget F.I2CM_XFER_ADDR k) bytes rlen] ∧
        (s.fbit F.I2CM_CTRL_PEC k = false → bytes = s.txBytes k (bitField data 8 6) ∧ rlen = bitField data 16 6) ∧
        SameRegsBut s t [fieldAt F.I2CM_XFER_GO k, fieldAt F.I2CM_STAT_BUSY k] ∧ t = { s with regs := t.regs, out := t.out, i2c := t.i2c }) ∧
    (∀ fn data, s.fbit F.I2CM_XFER_GO k = false → bitField data 16 6 ≤ 32 → bitField data 8 6 ≤ 32 → x.cur = none → x.avsWaits = none → s.hostSlot k = false → Reaches s fn T.i2cm k →
      ∃ t, exec (.i2cGo fn k data) s = .next t ∧ t.fbit F.I2CM_XFER_GO k = true ∧ t.i2cm k = { x with goWaits := true } ∧ t.out = s.out ∧
        SameRegsBut s t [fieldAt F.I2CM_XFER_GO k] ∧ t = { s with regs := t.regs, i2c := t.i2c }) ∧
    (s.hostSlot k = true ↔ k = 1 ∨ s.fbit F.VANE_AVS_CTRL_MODE 0 = false ∨ ((s.i2cm 0).slot = some s.turn ∧ s.tideNow ≤ (s.miller 0).lastB + 300000 * unitNs)) ∧
    (∀ fn data, exec (.i2cGo fn k data) s = exec (.registerWrite fn (regAddr T.i2cm k 0x48) 4 (2 ^ 31 + data % 2 ^ 31) false) s) ∧
    (∀ fn data, s.fbit F.I2CM_XFER_GO k = true → Reaches s fn T.i2cm k → ∃ t, exec (.i2cGo fn k data) s = .next t ∧ SameRegsBut s t (errLogAt T.i2cm k) ∧ t = { s with regs := t.regs }) ∧
    (∀ rx, x.cur = some .host → x.again = false → x.goWaits = false → x.avsWaits = none → s.fbit F.I2CM_STAT_CLEARING k = false → s.fbit F.I2CM_CTRL_PEC k = false →
      ∃ t, exec (.i2cTransactionDone k 1 rx) s = .next t ∧ t.fget F.I2CM_RESULT_STATUS k = 1 ∧ t.fget F.I2CM_RESULT_TRIES k = min (x.tries + 1) 15 ∧
        t.fbit F.I2CM_XFER_GO k = false ∧ t.fbit F.I2CM_STAT_BUSY k = false ∧ (t.i2cm k).cur = none ∧ causeSet t T.i2cm k I.I2CM_DONE ∧
        t.fget F.I2CM_COUNTS_ERR k = s.fget F.I2CM_COUNTS_ERR k) ∧
    (∀ st rx, 2 ≤ st → st ≤ 4 → x.cur = some .host → x.again = false → s.fbit F.I2CM_STAT_CLEARING k = false → x.tries < s.fget F.I2CM_CTRL_RETRY k →
      ∃ t, exec (.i2cTransactionDone k st rx) s = .next t ∧ (t.i2cm k) = { x with tries := x.tries + 1, again := true } ∧
        t.fget F.I2CM_COUNTS_ERR k = min (s.fget F.I2CM_COUNTS_ERR k + 1) (2 ^ F.I2CM_COUNTS_ERR.w - 1) ∧
        SameRegsBut s t [fieldAt F.I2CM_COUNTS_ERR k] ∧ t = { s with regs := t.regs, i2c := t.i2c }) ∧
    (∀ st rx, 2 ≤ st → st ≤ 4 → x.cur = some .host → x.again = false → x.goWaits = false → x.avsWaits = none → s.fbit F.I2CM_STAT_CLEARING k = false →
      s.fget F.I2CM_CTRL_RETRY k ≤ x.tries →
      ∃ t, exec (.i2cTransactionDone k st rx) s = .next t ∧ t.fget F.I2CM_RESULT_STATUS k = st ∧ t.fbit F.I2CM_XFER_GO k = false ∧ (t.i2cm k).cur = none ∧
        causeSet t T.i2cm k I.I2CM_DONE ∧ causeSet t T.i2cm k I.I2CM_ERR) ∧
    (x.cur = some .host → x.again = true → s.fbit F.I2CM_STAT_CLEARING k = false → s.fbit F.I2CM_STAT_BUS_STUCK k = false →
      ∃ t o, exec (.i2cRetry k) s = .next t ∧ (t.i2cm k) = { x with again := false } ∧ t.out = s.out ++ [o] ∧ t = { s with out := t.out, i2c := t.i2c }) ∧
    (s.fbit F.I2CM_CTRL_EN k = true → x.cur = none →
      ∃ t, exec (.i2cBusClear k none) s = .next t ∧ t.fbit F.I2CM_STAT_CLEARING k = true ∧ t.fget F.I2CM_STAT_SDA k = 0 ∧ SameRegsBut s t [fieldAt F.I2CM_STAT_SDA k] ∧
        t = { s with regs := t.regs }) ∧
    (s.fbit F.I2CM_STAT_CLEARING k = true → x.cur = none → x.goWaits = false → x.avsWaits = none →
      ∀ b, ∃ t, exec (.i2cBusClear k (some b)) s = .next t ∧ t.fbit F.I2CM_STAT_CLEARING k = false ∧ t.fbit F.I2CM_STAT_BUS_STUCK k = !b ∧
        t.fget F.I2CM_STAT_SDA k = (if b then 1 else 0) ∧ (t.i2cm k).clrLeft = (if b then 0 else s.fget F.I2CM_CTRL_CLR_TRIES k) ∧
        (b = false → causeSet t T.i2cm k I.I2CM_BUS_STUCK) ∧ SameRegsBut s t [fieldAt F.I2CM_STAT_SDA k, fieldAt F.I2CM_COUNTS_CLEARS k, causeAt T.i2cm k]) ∧
    (s.fbit F.I2CM_STAT_BUS_STUCK k = true → x.clrLeft ≠ 0 → x.cur = none → x.goWaits = false → x.avsWaits = none →
      ∀ b, ∃ t, exec (.busClearRetry k b) s = .next t ∧ t.fbit F.I2CM_STAT_BUS_STUCK k = !b ∧ (t.i2cm k).clrLeft = (if b then 0 else x.clrLeft - 1)) ∧
    (x.clrLeft = 0 → ∀ b, exec (.busClearRetry k b) s = .next s) ∧
    (x.cur = some .host → x.again = false → x.tries < s.fget F.I2CM_CTRL_RETRY k →
      ∃ t, exec (.i2cTimeout k) s = .next t ∧ (t.i2cm k) = { x with tries := x.tries + 1, again := true } ∧ causeSet t T.i2cm k I.I2CM_TIMEOUT ∧
        SameRegsBut s t [fieldAt F.I2CM_COUNTS_ERR k, causeAt T.i2cm k])

/-- AVS_MODE_SET and AVS_UPDATE (R56 to R58, R577). AVS_MODE_SET is a write of VANE_AVS_CTRL with MODE set; one that does not reach the page is
what BusAccess says. That the rail stands at the last value the VRM accepted is R58's; what it is before the first one, a value from VMIN to VMAX, is open (log entry 204). -/
def Obligations.AdaptiveVoltage : Prop :=
  (∀ (s : State) (fn data : Nat), exec (.avsModeSet fn data) s = exec (.registerWrite fn (regAddr T.vane 0 0x60) 4 (setField data 0 1 1) false) s) ∧
  (∀ (s : State) (fn data : Nat), Reaches s fn T.vane 0 → bitField data 4 12 < 1400 ∨ 2600 < bitField data 4 12 →
    ∃ t, exec (.avsModeSet fn data) s = .next t ∧ SameRegsBut s t (errLogAt T.vane 0) ∧ t = { s with regs := t.regs }) ∧
  (∀ (s : State) (fn data : Nat), Reaches s fn T.vane 0 → 1400 ≤ bitField data 4 12 → bitField data 4 12 ≤ 2600 → s.fbit F.VANE_AVS_CTRL_MODE 0 = false → (s.i2cm 0).cur ≠ none →
    (s.avsV = 0 → s.fget F.VANE_AVS_VLIM_VMIN 0 ≤ s.fget F.VANE_AVS_VLIM_VMAX 0 → ∃ t, exec (.avsModeSet fn data) s = .next t ∧ t.fbit F.VANE_AVS_CTRL_MODE 0 = true ∧
      s.fget F.VANE_AVS_VLIM_VMIN 0 ≤ t.fab.rail ∧ t.fab.rail ≤ s.fget F.VANE_AVS_VLIM_VMAX 0 ∧ t = { s with regs := t.regs, out := t.out, i2c := t.i2c, fab := t.fab, fresh := s.fresh + 1 }) ∧
    (s.avsV ≠ 0 → ∃ t, exec (.avsModeSet fn data) s = .next t ∧ t.fbit F.VANE_AVS_CTRL_MODE 0 = true ∧ t.fget F.VANE_AVS_CTRL_TARGET 0 = bitField data 4 12 ∧
      t.fget F.VANE_AVS_CTRL_HYST 0 = bitField data 16 8 ∧ t.fget F.VANE_AVS_STAT_AVS_FAULT 0 = 0 ∧
      (t.i2cm 0) = { s.i2cm 0 with ready := false, avsWaits := some .voutMode } ∧
      SameRegsBut s t [fieldAt F.VANE_AVS_CTRL_MODE 0, fieldAt F.VANE_AVS_STAT_AVS_FAULT 0, causeAt T.vane 0] ∧
      (s.avsV ≠ s.fget F.VANE_AVS_VLIM_VMAX 0 → t.rd T.vane 0 0x18 = s.rd T.vane 0 0x18 ∧ t.out = s.out) ∧
      t = { s with regs := t.regs, out := t.out, i2c := t.i2c })) ∧
  (∀ (s : State) (fn data w : Nat), Reaches s fn T.vane 0 → data < 2 ^ 32 → bitAt data 0 = false → 1400 ≤ bitField data 4 12 → bitField data 4 12 ≤ 2600 →
    (s.i2cm 0).cur = some (.voutCommand w) → (s.i2cm 0).again = true → (s.i2cm 0).goWaits = false →
    ∃ t, exec (.registerWrite fn (regAddr T.vane 0 0x60) 4 data false) s = .next t ∧ t.fbit F.VANE_AVS_CTRL_MODE 0 = false ∧ (t.i2cm 0).cur = none ∧ (t.i2cm 0).avsWaits = none ∧
      t.fbit F.I2CM_STAT_BUSY 0 = false ∧ exec (.i2cRetry 0) t = .next t ∧ t.out = s.out ∧ t.fab = s.fab) ∧
  (∀ (s : State) (fn data : Nat), Reaches s fn T.vane 0 → 1400 ≤ bitField data 4 12 → bitField data 4 12 ≤ 2600 → s.fbit F.VANE_AVS_CTRL_MODE 0 = false → s.i2cm 0 = {} →
    s.fbit F.I2CM_STAT_CLEARING 0 = false → s.fbit F.I2CM_STAT_BUS_STUCK 0 = false → s.fbit F.I2CM_AVS_PAGE_EN 0 = false → s.fbit F.I2CM_CTRL_PEC 0 = false →
    ∃ t l, exec (.avsModeSet fn data) s = .next t ∧ (t.i2cm 0).cur = some .voutMode ∧ t.fbit F.I2CM_STAT_BUSY 0 = true ∧
      t.out = s.out ++ l ++ [.i2cAttempt 0 2 (s.fget F.I2CM_AVS_ADDR 0) [0x20] 1] ∧ (s.fab.rail ≠ 0 → s.fab.rail ≠ s.fget F.VANE_AVS_VLIM_VMAX 0 → l = [])) ∧
  (∀ (s : State) (v : Nat), s.fbit F.VANE_AVS_CTRL_MODE 0 = true → (s.i2cm 0).ready = true → (s.i2cm 0).cur ≠ none → s.avsV = v → v < 1024 →
    ∃ t w, exec .avsUpdate s = .next t ∧
      (let lo := s.fget F.VANE_AVS_VLIM_VMIN 0
       let hi := s.fget F.VANE_AVS_VLIM_VMAX 0
       let tg := s.fget F.VANE_AVS_CTRL_TARGET 0
       (∀ p, s.avsPace = some p →
         (p < tg → w = min (v + 5) hi) ∧ (tg + s.fget F.VANE_AVS_CTRL_HYST 0 ≤ p → w = max (v - 5) lo) ∧ (tg ≤ p → p < tg + s.fget F.VANE_AVS_CTRL_HYST 0 → w = v) ∧
         (bitAt (t.pageValue 0 T.vane 0 0x68) 16 = decide (w = hi ∧ p < tg)) ∧ (w = hi → p < tg → causeSet t T.vane 0 I.VANE_AVS_LIMIT)) ∧
       (s.avsPace = none → w = v) ∧ bitAt (t.pageValue 0 T.vane 0 0x68) 17 = decide (w = lo)) ∧
      t.fget F.VANE_AVS_STAT_VCMD 0 = w ∧ t.fab = s.fab ∧ (t.i2cm 0) = { s.i2cm 0 with avsWaits := some (.voutCommand w) } ∧
      SameRegsBut s t [fieldAt F.VANE_AVS_STAT_VCMD 0, causeAt T.vane 0] ∧ t = { s with regs := t.regs, out := t.out, i2c := t.i2c }) ∧
  (∀ (s : State) (w : Nat) (rx : List Byte), (s.i2cm 0).cur = some (.voutCommand w) → (s.i2cm 0).again = false → (s.i2cm 0).goWaits = false → (s.i2cm 0).avsWaits = none →
    s.fbit F.I2CM_STAT_CLEARING 0 = false → ∃ t, exec (.i2cTransactionDone 0 1 rx) s = .next t ∧ t.fab = { s.fab with rail := w } ∧ (t.i2cm 0).cur = none ∧
      t.fbit F.I2CM_STAT_BUSY 0 = false ∧ SameRegsBut s t [fieldAt F.I2CM_STAT_BUSY 0] ∧ t = { s with regs := t.regs, fab := t.fab, i2c := t.i2c }) ∧
  (∀ s : State, s.fbit F.VANE_AVS_CTRL_MODE 0 = false → exec .avsUpdate s = .next s) ∧
  voutWord 720 23 = 0x0171

/-- SYS_RST_N_RELEASE, BOOT_FIRMWARE_START, RECOVERY_GO, HBM_INIT_DONE and BOOT_DONE (R297, R553 to R559, R562). -/
def Obligations.Boot : Prop :=
  (∀ s : State, s.power.standby = false → s.trust.boot = .held →
    (∃ t, exec (.sysRstNRelease true) s = .next t ∧ t.trust = { s.trust with boot := .rom, hashKey := t.trust.hashKey } ∧ t.trust.hashKey < 2 ^ 256 ∧ t.mrValue 0 = sha384 (s.mrValue 0 ++ s.romValue) ∧
      (∀ i, i ≠ 0 → t.mrValue i = s.mrValue i) ∧ t.regs = s.regs ∧ t.out = s.out) ∧
    (∃ t, exec (.sysRstNRelease false) s = .next t ∧ t.fget F.TRUST_STAT_STATE 0 = 4 ∧ SameRegsBut s t [fieldAt F.TRUST_STAT_STATE 0])) ∧
  (∀ (s : State) (ok : Bool), s.power.standby = false → s.trust.boot ≠ .held → exec (.sysRstNRelease ok) s = .next s) ∧
  (∀ (s : State) (x0 x1 : Option (List Byte)) (a : Nat), s.trust.boot = .rom → s.fget F.TRUST_STAT_STATE 0 = 0 → s.led.recovered = true → s.fget F.LEDGER_STAT_STATE 0 = 1 →
    s.bootActive % 2 = a → s.fwCheck (s.slotImage a) = 0 →
    ∃ t, exec (.bootFirmwareStart x0 x1) s = .next t ∧ t.fget F.TRUST_STAT_STATE 0 = 1 ∧ t.fget F.TRUST_STAT_SRC 0 = a ∧ t.trust.boot = .firmware ∧
      t.trust.digest = fwDigest (s.slotImage a) ∧ t.fget F.TRUST_SVN_SVN 0 = leAt (s.slotImage a) 8 4 % 65536 ∧
      t.mrValue 1 = sha384 (s.mrValue 1 ++ fwDigest (s.slotImage a)) ∧ t.out = s.out) ∧
  (∀ (s : State), s.trust.boot = .rom → s.fget F.TRUST_STAT_STATE 0 = 0 → s.led.recovered = true → s.fget F.LEDGER_STAT_STATE 0 = 3 →
    ∃ t, exec (.bootFirmwareStart none none) s = .next t ∧ t.fget F.TRUST_STAT_STATE 0 = 3 ∧ t.trust = s.trust ∧ causeSet t T.trust 0 I.TRUST_BOOT_FALLBACK ∧
      causeSet t T.trust 0 I.TRUST_RECOVERY ∧ t.led.reqs.length = s.led.reqs.length + 4 ∧ t.meas = s.meas) ∧
  (∀ (s : State) (x0 x1 : Option (List Byte)), s.led.recovered = false → exec (.bootFirmwareStart x0 x1) s = .next s) ∧
  (∀ (s : State) (fn data : Nat) (img : Option (List Byte)), (s.gate fn = .silent → exec (.recoveryGo fn data img) s = .next s) ∧
    (s.gate fn = .unsupported → exec (.recoveryGo fn data img) s = .next (s.unsupportedReq fn (regAddr T.trust 0 0x78))) ∧
    (s.gate fn = .open' → s.sees fn T.trust 0 = false → exec (.recoveryGo fn data img) s = .next (s.logDevice 2 fn (regAddr T.trust 0 0x78) data))) ∧
  (∀ (s : State) (fn data : Nat) (img : Option (List Byte)), Reaches s fn T.trust 0 → s.fget F.TRUST_STAT_STATE 0 ≠ 3 →
    ∃ t, exec (.recoveryGo fn data img) s = .next t ∧ SameRegsBut s t (errLogAt T.trust 0) ∧ t = { s with regs := t.regs }) ∧
  (∀ (s : State) (fn data : Nat), Reaches s fn T.trust 0 → s.fget F.TRUST_STAT_STATE 0 = 3 →
    (∃ t, exec (.recoveryGo fn data none) s = .next t ∧ t.fget F.TRUST_RECOV_CTRL_RESULT 0 = 5 ∧ t.fget F.TRUST_STAT_STATE 0 = 3 ∧
      SameRegsBut s t [fieldAt F.TRUST_RECOV_CTRL_RESULT 0] ∧ t = { s with regs := t.regs }) ∧
    (∀ img, data % 2 ^ 21 ≤ 1966080 → s.fwCheck (img.take (data % 2 ^ 21)) = 0 → s.fget F.LEDGER_STAT_STATE 0 ≠ 1 →
      ∃ t, exec (.recoveryGo fn data (some img)) s = .next t ∧ t.fget F.TRUST_RECOV_CTRL_RESULT 0 = 1 ∧ t.fget F.TRUST_STAT_STATE 0 = 1 ∧
        t.fget F.TRUST_STAT_SRC 0 = 4 ∧ t.trust.boot = .firmware ∧ t.trust.digest = fwDigest (img.take (data % 2 ^ 21)))) ∧
  (∀ s : State, s.trust.boot = .firmware →
    ∃ t, exec .hbmInitDone s = .next t ∧ t.trust = { s.trust with boot := .memory } ∧ t.mem.retired = s.ledgerRetired ∧
      (∀ h n, h < 2 → n < 19 → (t.lock h n).st = if (s.lock h n).st = .held then .run else (s.lock h n).st) ∧
      (((s.ledgerPayload 1 1).getD [] = [] ∧ s.ledgerRetired = []) → t.regs = s.regs ∧ t.power = s.power)) ∧
  (∀ s : State, s.trust.boot = .memory →
    ∃ t, exec .bootDone s = .next t ∧ t.trust = { s.trust with boot := .done } ∧ t.fget F.TRUST_STAT_STATE 0 = 2 ∧ causeSet t T.trust 0 I.TRUST_BOOT_DONE ∧
      t.polState 0 = 2 ∧ (∀ i, i < 32 → t.fget F.HBMC_CTRL_EN i = 1 ∧ t.hget F.BLK_CTRL_LOCK T.hbmc i = 1) ∧
      (∀ h, h < 2 → t.fget F.CLS_CTRL_EN h = 1 ∧ t.fget F.STREAM_CTRL_EN h = 1 ∧ t.hget F.BLK_CTRL_LOCK T.half h = 1) ∧ t.fget F.PRESS_CTRL_EN 0 = 1 ∧
      t.mrValue 4 = sha384 (s.mrValue 4 ++ libDigest) ∧ (∀ i, i < 16 → t.hget F.BLK_CTRL_LOCK T.row i = s.hget F.BLK_CTRL_LOCK T.row i))

/-- FW_STAGE, FW_ACTIVATE, FW_COMMIT_SVN, MR_EXTEND, DEBUG_CHALLENGE and DEBUG_UNLOCK (R557, R561, R562, R567, R579). What the signatures and digests
are is Config's (log entry 12). -/
def Obligations.TrustCommands : Prop :=
  ∀ (s : State) (ring tag : Nat) (c : VCmd),
    (Starts s 0 ring tag 0x70 false [] c → ∀ img d, d = img.take c.len →
      (s.fwCheck d = 0 → d.length = fwLen d → s.fget F.LEDGER_STAT_STATE 0 = 1 →
        exec (.fwStage 0 ring tag (some img)) s =
          .next ((((s.writeFwSlot (1 - s.bootActive % 2) d).extendMr 9 0 0x70 (fwDigest d)).raise T.trust 0 I.TRUST_FW_STAGED).complete c 0 0 0 0 (1 - s.bootActive % 2))) ∧
      (s.fwCheck d = 2 ∨ d.length ≠ fwLen d → exec (.fwStage 0 ring tag (some img)) s = .next (s.complete c 6)) ∧
      (s.fwCheck d = 3 ∨ s.fwCheck d = 4 → d.length = fwLen d → exec (.fwStage 0 ring tag (some img)) s = .next (s.complete c 7))) ∧
    (Starts s 0 ring tag 0x71 false [1] c → ∀ f d, f = c.w 0 % 2 → d = s.slotImage f →
      (s.fwCheck d ≠ 0 → exec (.fwActivate 0 ring tag) s = .next (s.complete c 7)) ∧
      (s.fwCheck d = 0 → s.fget F.LEDGER_STAT_STATE 0 = 1 → s.key0Over = true → exec (.fwActivate 0 ring tag) s = .next (s.complete c 0xB)) ∧
      (s.fwCheck d = 0 → s.fget F.LEDGER_STAT_STATE 0 = 1 → s.key0Over = false → ∃ t pay, exec (.fwActivate 0 ring tag) s = .next t ∧
        t.led = { s.led with reqs := s.led.reqs ++ [⟨1, 0, pay, .cmd c.order⟩] } ∧ leAt pay 0 4 = f ∧ leAt pay 4 4 = s.minSvn % 2 ^ 32 ∧
        t.mrValue 9 = sha384 (s.mrValue 9 ++ fwDigest d) ∧ t.regs = s.regs ∧ t.out = s.out)) ∧
    (Starts s 0 ring tag 0x72 false [1] c → s.fget F.LEDGER_STAT_STATE 0 = 1 →
      (s.key0Over = true → exec (.fwCommitSvn 0 ring tag) s = .next (s.complete c 0xB)) ∧
      (s.key0Over = false → ∃ t pay, exec (.fwCommitSvn 0 ring tag) s = .next t ∧
        t.led = { s.led with reqs := s.led.reqs ++ [⟨1, 0, pay, .cmd c.order⟩] } ∧ leAt pay 0 4 = s.bootActive % 2 ^ 32 ∧
        leAt pay 4 4 = max s.minSvn (s.fget F.TRUST_SVN_SVN 0) % 2 ^ 32 ∧ t.regs = s.regs ∧ t.out = s.out)) ∧
    (Starts s 0 ring tag 0x75 false [m32] c → ∀ d : List Byte, d.length = 48 →
      (10 ≤ c.w 0 → c.w 0 ≤ 15 → exec (.mrExtend 0 ring tag (some d)) s = .next ((s.extendMr (c.w 0) 0 0x75 d).complete c 0)) ∧
      (c.w 0 < 10 ∨ 15 < c.w 0 → exec (.mrExtend 0 ring tag (some d)) s = .next (s.complete c 6))) ∧
    (Starts s 0 ring tag 0x76 false [] c → ∃ (n : List Byte) (u : State), n.length = 32 ∧ u.trust = { s.trust with nonce := some n } ∧ u.out = s.out ++ [.dmaWrite 0 c.addr n] ∧
      u = { s with trust := u.trust, out := u.out, fresh := u.fresh } ∧ exec (.debugChallenge 0 ring tag) s = .next (u.complete c 0)) ∧
    (Starts s 0 ring tag 0x77 false [] c → ∀ tok d, d = tok.take c.len →
      (s.tokenOk d = true → exec (.debugUnlock 0 ring tag (some tok)) s = .next ((s.unlock d).complete c 0) ∧ (s.unlock d).fget F.TRUST_STAT_DEBUG 0 = 1 ∧
        (s.unlock d).trust.nonce = none ∧ (s.unlock d).mrValue 8 = sha384 (s.mrValue 8 ++ sha384 d) ∧ causeSet (s.unlock d) T.trust 0 I.TRUST_DEBUG_UNLOCKED) ∧
      (s.tokenOk d = false → exec (.debugUnlock 0 ring tag (some tok)) s = .next (s.complete c 7)) ∧
      (d.length ≠ 7507 ∨ s.trust.nonce = none ∨ (∃ p, 0 < p ∧ p < 16 ∧ s.polState p ≠ 0) → s.tokenOk d = false))

/-- REPORT, LOG_READ, STANDBY and DEVICE_RESET (R549, R563, R566, R573, R579); TRUST_MR_READ, RNG_FAIL, TAP_INSTRUCTION, SPDM_REQUEST, MCTP_PACKET and
SMBUS_TARGET_TIMEOUT (R565, R568, R578, R581, R582, R585). A TRUST_MR_READ that does not reach the page is what BusAccess says. -/
def Obligations.TrustReportsAndPorts : Prop :=
  (∀ (s : State) (p ring tag : Nat) (c : VCmd), Starts s p ring tag 0x73 false (List.replicate 8 m32) c → ∀ body,
    body = s.reportBytes ((List.range 8).flatMap fun i => leBytes 4 (c.w i)) (s.visible p) →
    (body.length + 4723 ≤ c.len → exec (.report p ring tag) s =
      .next ((s.emit (.dmaWrite p c.addr (body ++ s.aliasSign false body ++ s.aliasSign true body))).complete c 0)) ∧
    (c.len < body.length + 4723 → exec (.report p ring tag) s = .next (s.complete c 6))) ∧
  (∀ (s : State) (p : Nat), 0 < p → p < 16 → (s.visible p).map (·.1) = (List.range 17).map (· + 1) ∧ (s.visible 0).map (·.1) = (List.range 32).map (· + 1)) ∧
  (∀ (s : State) (p ring tag : Nat) (c : VCmd), Starts s p ring tag 0x74 false [m32] c → ∀ l, l = ((s.logFor p).drop (c.w 0)).take (c.len / 64) →
    exec (.logRead p ring tag) s = .next ((s.emit (.dmaWrite p c.addr (l.flatMap MRec.bytes))).complete c 0 0 0 l.length) ∧
    (p ≠ 0 → ∀ r ∈ l, 5 ≤ r.mr → r.mr ≤ 7 → r.polder = p)) ∧
  (∀ (s : State) (ring tag : Nat) (c : VCmd), Starts s 0 ring tag 0x78 false [] c →
    ((∀ p, 0 < p → p < 16 → s.polState p = 0) → ∃ t, exec (.standby 0 ring tag) s = .next t ∧ t.power.standby = true ∧ t.fget F.CLS_CTRL_EN 0 = 0 ∧ t.fget F.CLS_CTRL_EN 1 = 0 ∧
      t.fget F.POWER_STBY_CAUSE_STBY 0 = 1 ∧ t.fget F.PCIE_STAT_LINK 0 = 0 ∧
      (∀ h n, h < 2 → n < 16 → (s.lock h n).st = .run → (t.lock h n).st = .drain) ∧ ∀ d, d < 184 → d ≠ 176 → t.dom d = if s.locksStopped d then 0 else s.dom d) ∧
    ((∃ p, 0 < p ∧ p < 16 ∧ s.polState p ≠ 0) → exec (.standby 0 ring tag) s = .next (s.complete c 1))) ∧
  (∀ (s : State) (ring tag : Nat) (c : VCmd), Starts s 0 ring tag 0x79 false [] c → exec (.deviceReset 0 ring tag) s = .next ((s.complete c 0).deviceReset 4)) ∧
  (∀ (s : State) (fn : Nat), exec (.trustMrRead fn) s = exec (.readClear fn (regAddr T.trust 0 0x54) 4) s) ∧
  (∀ (s : State) (fn : Nat), Reaches s fn T.trust 0 → ∃ t, exec (.trustMrRead fn) s = .next t ∧
    t.out = s.out ++ [.readData fn (regAddr T.trust 0 0x54) (leAt (s.mrValue (s.fget F.TRUST_MR_SEL_MR 0)) (4 * s.fget F.TRUST_MR_SEL_WORD 0) 4)] ∧
    (let w := s.fget F.TRUST_MR_SEL_WORD 0
     (w < 11 → t.fget F.TRUST_MR_SEL_WORD 0 = w + 1 ∧ t.fget F.TRUST_MR_SEL_MR 0 = s.fget F.TRUST_MR_SEL_MR 0) ∧
     (w = 11 → t.fget F.TRUST_MR_SEL_WORD 0 = 0 ∧ t.fget F.TRUST_MR_SEL_MR 0 = (s.fget F.TRUST_MR_SEL_MR 0 + 1) % 16)) ∧
    SameRegsBut s t [fieldAt F.TRUST_MR_SEL_MR 0] ∧ t = { s with regs := t.regs, out := t.out }) ∧
  (∀ s : State, (s.pol.keyWaits = [] → exec (.rngFail true) s = .next { s with pol := { s.pol with rngFail := false } }) ∧
    (∀ q order, s.pol.keyWaits = [(q, order, .reset)] → q < 16 → ∃ t, exec (.rngFail true) s = .next t ∧ t.pol.rngFail = false ∧ t.pol.keyWaits = [] ∧ t.pol.draws = s.pol.draws + 1 ∧
      t.polState q = 2 ∧ t.fbit F.DIKE_STAT_ZEROISING q = true) ∧
    ∃ t, exec (.rngFail false) s = .next t ∧ t.pol = { s.pol with rngFail := true } ∧ causeSet t T.trust 0 I.TRUST_RNG_FAIL ∧ SameRegsBut s t [causeAt T.trust 0] ∧
      t = { s with pol := t.pol, regs := t.regs, out := t.out }) ∧
  (∀ s : State, exec (.tapInstruction .bypass) s = .next { s with trust := { s.trust with tap := .bypass } } ∧
    exec (.tapInstruction .sample) s = .next { s with trust := { s.trust with tap := .sample } } ∧
    (∃ v, exec (.tapInstruction .idcode) s = .next { s with trust := { s.trust with tap := .idcode }, out := s.out ++ [.idcode v] } ∧ v % 2 = 1 ∧
      v / 2 ^ 12 % 2 ^ 16 = (if s.fuse.is6480 then 0x6480 else 0x6440) ∧ v / 2 ^ 28 = s.fuse.stepIndex % 16) ∧
    (∀ i, (i = .extest ∨ i = .clamp ∨ i = .highz) →
      exec (.tapInstruction i) s = .next { s with trust := { s.trust with tap := if s.trust.boot = .held then i else .bypass } }) ∧
    (s.debugUnlocked = false → exec (.tapInstruction (.internal none)) s = .next { s with trust := { s.trust with tap := .bypass } })) ∧
  (∀ (s : State) (who i : Nat), s.firmwareRuns = true → who = 16 → s.power.standby = false →
    exec (.spdmRequest who (.getMeasurements i false)) s =
      .next { s with out := s.out ++ [.spdm who (.getMeasurements i false) (if i = 0xFF then s.visible who else (s.visible who).filter fun e => e.1 == i) []] }) ∧
  (∀ (s : State) (r : SpdmReq) (who : Nat), s.firmwareRuns = false → exec (.spdmRequest who r) s = .next s) ∧
  (∀ s : State, s.fbit F.SMBT_CTRL_EN 0 = true → s.trust.boot ≠ .held → s.power.standby = false →
    (∀ m b, ∃ t, exec (.mctpPacket true b m) s = .next t ∧ t.fget F.SMBT_COUNTS_PEC_ERR 0 = min (s.fget F.SMBT_COUNTS_PEC_ERR 0 + 1) (2 ^ F.SMBT_COUNTS_PEC_ERR.w - 1) ∧
      t.fget F.SMBT_COUNTS_DROPPED 0 = min (s.fget F.SMBT_COUNTS_DROPPED 0 + 1) (2 ^ F.SMBT_COUNTS_DROPPED.w - 1) ∧ causeSet t T.smbt 0 I.SMBT_PEC_ERR ∧
      SameRegsBut s t [fieldAt F.SMBT_COUNTS_PEC_ERR 0, fieldAt F.SMBT_COUNTS_DROPPED 0, causeAt T.smbt 0] ∧ t = { s with regs := t.regs, out := t.out }) ∧
    (∀ e, e < 256 → ∃ t, exec (.mctpPacket false false (.setEid e)) s = .next t ∧ t.fget F.SMBT_STAT_EID 0 = e ∧ causeSet t T.smbt 0 I.SMBT_EID_SET ∧
      .mctp (.setEid e) e ∈ t.out)) ∧
  (∀ s : State, s.fbit F.SMBT_CTRL_EN 0 = true → ∃ t, exec .smbusTargetTimeout s = .next t ∧ causeSet t T.smbt 0 I.SMBT_TIMEOUT ∧ SameRegsBut s t [causeAt T.smbt 0] ∧
    t = { s with regs := t.regs, out := t.out })

/-- MILL_FAULT, SPARE_CLAIM, TAKEOVER_COMPLETE and CHANNEL_PLACEMENT_DONE (R20, R189, R482, R588 to R590, R593, R594). The order of these steps as commands is
the model's reading (log entries 310 to 313). -/
def Obligations.TakeOver : Prop :=
  (∀ (s : State) (m kind : Nat) (bad : List Nat), ((kind < 1 ∨ (5 < kind ∧ kind < 0x10) ∨ 0x15 < kind) ∨ (s.member m = false ∧ ∀ c ∈ s.ras.claims, c.spare ≠ m)) →
    exec (.millFault m kind bad) s = .next s) ∧
  (∀ (s : State) (m kind q : Nat) (bad : List Nat), m < s.fuse.mills → m < 80 → (1 ≤ kind ∧ kind ≤ 5) ∨ (0x10 ≤ kind ∧ kind ≤ 0x15) → s.member m = true → (∀ c ∈ s.ras.claims, c.spare ≠ m) →
    (∀ g ∈ s.ras.given, g.mill ≠ m) → s.changing m = false → s.roleOfMill m = some q →
    (∀ sp, s.idleSpare (rowOf m) = some sp → ∃ (t : State) (r : LReq), exec (.millFault m kind bad) s = .next t ∧ t.role m = 4 ∧ (t.mill m).stopped = true ∧ ⟨q, m, sp, false⟩ ∈ t.ras.claims ∧
      rowOf m ∈ t.sch.takeover ∧ causeSet t T.ras 0 I.RAS_MILL_FAULT ∧ t.sch = { s.sch with takeover := t.sch.takeover } ∧ t.led.reqs = s.led.reqs ++ [r] ∧ r.typ = 4 ∧
      (∀ k, k ≠ m → t.mill k = s.mill k ∧ (k < 80 → t.role k = s.role k)) ∧ t.stones = s.stones ∧ t.streams = s.streams) ∧
    (s.idleSpare (rowOf m) = none → (∀ k g, k / 4 = q / 4 → k ≠ q → s.millOfRole k = some g →
        s.fget F.DIKE_CTRL_PRIO (s.fget F.MILL_ROLE_POLDER m) ≤ s.fget F.DIKE_CTRL_PRIO (s.fget F.MILL_ROLE_POLDER g)) →
      ∃ t l, exec (.millFault m kind bad) s = .next t ∧ t.role m = 4 ∧ (t.mill m).stopped = true ∧ t.millOfRole q = none ∧ causeSet t T.ras 0 I.RAS_MILL_FAULT ∧ causeSet t T.ras 0 I.RAS_DEGRADED ∧
        l ∈ t.ras.lost ∧ l.role = q ∧ l.polder = s.fget F.MILL_ROLE_POLDER m ∧ l.chans = s.chansOn m ∧ l.buns = s.bunsOn m ∧ l.keys = s.keysOn m ∧ l.mills = [m] ∧ rowOf m ∈ t.sch.takeover)) ∧
  (∀ (s : State) (row : Nat) (c : Claim), s.ras.claims.find? (fun c => !c.claimed && rowOf c.spare == row) = some c →
    (s.dom c.spare ≠ 3 ∨ s.role c.spare ≠ 2 → exec (.spareClaim row) s = .next s) ∧
    (s.dom c.spare = 3 → s.role c.spare = 2 → c.spare < 80 → c.role / 4 = rowOf c.spare → c.role < 64 → ∃ t, exec (.spareClaim row) s = .next t ∧ t.role c.spare = 3 ∧
      t.fget F.MILL_ROLE_POLDER c.spare = s.fget F.MILL_ROLE_POLDER c.old ∧ t.millOfRole c.role = some c.spare ∧
      t.fget F.MILL_ROLE_EPOCH c.spare = ((match s.millOfRole c.role with | some h => s.fget F.MILL_ROLE_EPOCH h | none => 0) + 1) % 65536 ∧
      (∀ k, k < 16 → t.stone (16 * c.spare + k) = {}) ∧ (∀ n, n / 16 ≠ c.spare → t.stone n = s.stone n) ∧ (∀ k, k < 80 → k ≠ c.spare → t.role k = s.role k) ∧ t.sch = s.sch ∧
      (∀ d ∈ t.ras.claims, d.spare = c.spare → d.claimed = true))) ∧
  (∀ (s : State) (row : Nat), s.ras.claims.find? (fun c => !c.claimed && rowOf c.spare == row) = none → exec (.spareClaim row) s = .next s) ∧
  (∀ (s : State) (q old m : Nat), ∃ t, s.adoptRole q old m = t ∧
    (∀ k ∈ s.keysOn old, t.klass k = { s.klass k with stone := 16 * m + (s.klass k).stone % 16 }) ∧ (∀ k, k ∉ s.keysOn old → t.klass k = s.klass k) ∧
    (∀ c ∈ s.chansOn old, (t.chan c).stone = 16 * m + (s.chan c).stone % 16) ∧ (∀ c, c ∉ s.chansOn old → t.chan c = s.chan c) ∧
    (∀ n w, s.wu n = some w → w.cls ∈ s.keysOn old → t.wu n = some { w with stone := 16 * m + w.stone % 16, st := .released, taken := [], held := false, params := none, os := [] }) ∧
    (∀ n w, s.wu n = some w → w.cls ∉ s.keysOn old → (∀ e ∈ s.sch.wus, e.1 = n → e.2 = w) → t.wu n = some w)) ∧
  (∀ (s : State) (row c : Nat), s.ras.claims.find? (fun x => x.claimed && rowOf x.spare == row) = none → exec (.takeoverComplete row c) s = .next s) ∧
  (∀ (s : State) (row c : Nat) (x : Claim), s.ras.claims.find? (fun x => x.claimed && rowOf x.spare == row) = some x → x.spare < 80 → x.old < 80 → x.role < 64 →
    ∃ t, exec (.takeoverComplete row c) s = .next t ∧ (∀ d ∈ t.ras.claims, d.spare ≠ x.spare) ∧ t.ras.claims ⊆ s.ras.claims ∧ causeSet t T.ras 0 I.RAS_TAKEOVER_DONE ∧
      t.fget F.RAS_TO_TIME_LAST 0 = min c 0xFFFF ∧ t.fget F.RAS_TO_TIME_MAX 0 = max (min c 0xFFFF) (s.fget F.RAS_TO_TIME_MAX 0) ∧
      (s.fbit F.RAS_CTRL_DIAG_EN 0 = true → (∀ l ∈ s.ras.lost, x.old ∉ l.mills) → x.old ∈ t.ras.testing)) ∧
  (∀ (s : State) (role : Nat), (s.ras.lost.find? (fun l => l.role == role) = none ∨ (∃ c ∈ s.ras.claims, c.role / 4 = role / 4) ∨ (∃ g ∈ s.ras.given, g.role / 4 = role / 4)) →
    exec (.channelPlacementDone role) s = .next s) ∧
  (∀ (s : State) (role : Nat) (l : LostRole), s.ras.lost.find? (fun l => l.role == role) = some l → (∀ c ∈ s.ras.claims, c.role / 4 ≠ role / 4) → (∀ g ∈ s.ras.given, g.role / 4 ≠ role / 4) →
    ∃ t, exec (.channelPlacementDone role) s = .next t ∧ (∀ x ∈ t.ras.lost, x.role ≠ role) ∧ (∀ x ∈ s.ras.lost, x.role ≠ role → x ∈ t.ras.lost)) ∧
  (∀ (s : State) (h turn c : Nat) (l : List Klass), l = (s.chan c).keys.map s.klass →
    (∀ n, mostFree (s.openStones (s.chan c).polder h (s.chan c).typ l) = some n → ((s.placeChan h turn c).chan c).stone = n ∧
      (s.placeChan h turn c).fget F.RAS_SHED_PLACED 0 = min (s.fget F.RAS_SHED_PLACED 0 + 1) (2 ^ F.RAS_SHED_PLACED.w - 1)) ∧
    (mostFree (s.openStones (s.chan c).polder h (s.chan c).typ l) = none →
      (s.placeChan h turn c).fget F.RAS_SHED_SHED 0 = min (s.fget F.RAS_SHED_SHED 0 + 1) (2 ^ F.RAS_SHED_SHED.w - 1) ∧ ((s.placeChan h turn c).chan c).st ≠ .active))

/-- SELF_TEST_DONE, DEVICE_FAULT, BARRIER, BARRIER_DONE, FAULT_LOG_CLEAR, RESUME_WALK and RESUME_DONE (R592, R597, R598, R602, R607). FAULT_LOG_CLEAR leaves OVF
and GO is not held (log entries 316 and 317). BARRIER, FAULT_LOG_CLEAR and RESUME_WALK are writes of registers of the RAS page; one that does not
reach the page is what BusAccess says. -/
def Obligations.RasPages : Prop :=
  (∀ (s : State) (m : Nat) (passes : Bool), m < 80 →
    (m ∉ s.ras.testing ∨ s.role m ≠ 4 → exec (.selfTestDone m passes) s = .next s) ∧
    (m ∈ s.ras.testing → s.role m = 4 → passes = true → m ∉ s.ras.again → ∃ (t : State) (r : LReq), exec (.selfTestDone m passes) s = .next t ∧ t.role m = 2 ∧ t.fget F.MILL_ROLE_EPOCH m = 0 ∧
      t.fget F.MILL_ROLE_POLDER m = 0 ∧ m ∉ t.ras.testing ∧ causeSet t T.ras 0 I.RAS_DIAG_DONE ∧ t.led.reqs = s.led.reqs ++ [r] ∧ r.typ = 4 ∧
      SameRegsBut s t [fieldAt F.MILL_ROLE_ROLE m, causeAt T.ras 0] ∧ t = { s with ras := t.ras, regs := t.regs, out := t.out, led := t.led }) ∧
    (m ∈ s.ras.testing → s.role m = 4 → passes = false ∨ m ∈ s.ras.again → ∃ (t : State) (r r' : LReq), exec (.selfTestDone m passes) s = .next t ∧ t.role m = 5 ∧ m ∉ t.ras.testing ∧
      causeSet t T.ras 0 I.RAS_DIAG_DONE ∧ t.led.reqs = s.led.reqs ++ [r, r'] ∧ r.typ = 1 ∧ r.index = 1 ∧ r'.typ = 4 ∧
      SameRegsBut s t [fieldAt F.MILL_ROLE_ROLE m, causeAt T.ras 0] ∧ t = { s with ras := t.ras, regs := t.regs, out := t.out, led := t.led })) ∧
  (∀ (s : State) (kind typ inst detail : Nat), ∃ t, exec (.deviceFault kind typ inst detail) s = .next t ∧ t.fbit F.RAS_STAT_DEVICE_FAULT 0 = true ∧ causeSet t T.ras 0 I.RAS_DEVICE_FAULT ∧
    (s.flog.length < 16 → t.flog = s.flog ++ [⟨kind, 2, typ, inst, s.turn % 2 ^ 32, detail⟩]) ∧
    (16 ≤ s.flog.length → t.flog = s.flog ∧ t.fget F.RAS_FLOG_CTRL_OVF 0 = min (s.fget F.RAS_FLOG_CTRL_OVF 0 + 1) (2 ^ F.RAS_FLOG_CTRL_OVF.w - 1)) ∧
    (s.fbit F.RAS_CTRL_FAIL_STOP 0 = false → t.ras = s.ras ∧ t.fget F.RAS_STAT_FAIL_STOPPED 0 = s.fget F.RAS_STAT_FAIL_STOPPED 0) ∧
    (s.fbit F.RAS_CTRL_FAIL_STOP 0 = true → t.ras.stopping = true ∧ ((∀ n, n < 16 → (s.port n).tx = none ∧ (s.port n).pfcNow = false) → t.fbit F.RAS_STAT_FAIL_STOPPED 0 = true) ∧
      ((∃ n, n < 16 ∧ ((s.port n).tx ≠ none ∨ (s.port n).pfcNow = true)) → t.fget F.RAS_STAT_FAIL_STOPPED 0 = s.fget F.RAS_STAT_FAIL_STOPPED 0)) ∧
    t = { s with flog := t.flog, regs := t.regs, out := t.out, led := t.led, ras := t.ras }) ∧
  (∀ (s : State) (fn p data : Nat), exec (.barrier fn data) s = exec (.registerWrite fn (regAddr T.ras 0 0x70) 4 data false) s ∧
    exec (.faultLogClear fn) s = exec (.registerWrite fn (regAddr T.ras 0 0x58) 4 1 false) s ∧
    (p < 16 → exec (.resumeWalk fn p data) s = exec (.registerWrite fn (regAddr T.ras 0 (0x108 + 16 * p)) 4 (setBitN data 31) false) s)) ∧
  (∀ s : State, ∃ t, exec .barrierDone s = .next t ∧ t.fbit F.RAS_BARRIER_GO 0 = false ∧ SameRegsBut s t [fieldAt F.RAS_BARRIER_GO 0] ∧ t = { s with regs := t.regs }) ∧
  (∀ (s : State) (fn data : Nat), Reaches s fn T.ras 0 → data < 2 ^ 32 →
    (s.fbit F.RAS_BARRIER_GO 0 = true → exec (.barrier fn data) s = .next (s.logErr T.ras 0 5 fn (regAddr T.ras 0 0x70) data)) ∧
    (s.fbit F.RAS_BARRIER_GO 0 = false → data < 2 ^ 31 → exec (.barrier fn data) s = .next s) ∧
    (s.fbit F.RAS_BARRIER_GO 0 = false → 2 ^ 31 ≤ data → ∃ t, exec (.barrier fn data) s = .next t ∧ t.fbit F.RAS_BARRIER_GO 0 = true ∧
      SameRegsBut s t [fieldAt F.RAS_BARRIER_GO 0] ∧ t = { s with regs := t.regs }) ∧
    (∃ t, exec (.faultLogClear fn) s = .next t ∧ t.flog = [] ∧ t = { s with flog := t.flog })) ∧
  (∀ (s : State) (fn p data n : Nat), Reaches s fn T.ras 0 → p < 16 → data < 2 ^ 32 → n = data % 2 ^ 17 →
    (s.fbit F.RAS_RES_CTRL_BUSY 0 p = true ∨ s.polState p ≠ 2 ∨ n = 0 ∨ 65536 < n →
      exec (.resumeWalk fn p data) s = .next (s.logErr T.ras 0 5 fn (regAddr T.ras 0 (0x108 + 16 * p)) (setBitN data 31))) ∧
    (s.fbit F.RAS_RES_CTRL_BUSY 0 p = false → s.polState p = 2 → 0 < n → n ≤ 65536 → ∃ t, exec (.resumeWalk fn p data) s = .next t ∧ t.fget F.RAS_RES_CTRL_COUNT 0 p = n ∧
      t.fbit F.RAS_RES_CTRL_BUSY 0 p = true ∧ SameRegsBut s t [fieldAt F.RAS_RES_CTRL_COUNT 0 p] ∧ t = { s with regs := t.regs })) ∧
  (∀ (s : State) (p : Nat) (bt : Option Nat), p < 16 →
    (s.fbit F.RAS_RES_CTRL_BUSY 0 p = false → exec (.resumeDone p bt) s = .next s) ∧
    (s.fbit F.RAS_RES_CTRL_BUSY 0 p = true → ∃ t ok bad, exec (.resumeDone p bt) s = .next t ∧ ok + bad = s.fget F.RAS_RES_CTRL_COUNT 0 p ∧ t.fget F.RAS_RES_STAT_APPLIED 0 p = ok ∧
      t.fget F.RAS_RES_STAT_FAILED 0 p = min bad 0x7FFF ∧ t.fbit F.RAS_RES_CTRL_BUSY 0 p = false ∧ causeSet t T.ras 0 I.RAS_RESUME_DONE)) ∧
  (∀ (s : State) (p n : Nat) (data : List Byte), (∀ i, i < n → s.recordChan p (sub data (1024 * i) 1024) = none) → s.walkRecords p data n 0 = (s, 0, n))

/-- Function-level resets, host resets, the link, completion timeouts and configuration requests (R489, R522 to R525, R549, R552, R553, R559). Log entries 330
to 332 say what of them is the model's reading. -/
def Obligations.PcieEvents : Prop :=
  (∀ (s : State) (fn : Nat) (cut : List DmaCut),
    (16 ≤ fn ∨ s.inFlr fn = true → exec (.flrInitiate fn cut) s = .next s) ∧
    (0 < fn → fn < 16 → s.inFlr fn = false → ∃ t, exec (.flrInitiate fn cut) s = .next t ∧ t.inFlr fn = true ∧ (∀ g, g < 16 → g ≠ fn → t.inFlr g = s.inFlr g) ∧ fn ∉ t.pcie.d3 ∧
      (∀ c ∈ t.vk.cmds, c.polder = fn → c.silent = true ∧ c.started = true ∧ c.opcode ≠ 0x28 ∧ c.opcode ≠ 0x30) ∧ (∀ c ∈ s.vk.cmds, c.polder ≠ fn → c ∈ t.vk.cmds) ∧
      t.fget F.PCIE_STAT_NUMVFS 0 = s.fget F.PCIE_STAT_NUMVFS 0) ∧
    (fn = 0 → s.inFlr 0 = false → ∃ t, exec (.flrInitiate fn cut) s = .next t ∧ (∀ g, g < 16 → t.inFlr g = true) ∧ t.fget F.PCIE_STAT_VF_EN 0 = 0 ∧ t.fget F.PCIE_STAT_NUMVFS 0 = 0 ∧
      (∀ c ∈ t.vk.cmds, c.polder < 16 → s.inFlr c.polder = false → c.silent = true ∧ c.started = true ∧ c.opcode ≠ 0x28 ∧ c.opcode ≠ 0x30))) ∧
  (∀ (s : State) (fn : Nat), (16 ≤ fn ∨ s.inFlr fn = false → exec (.flrDone fn) s = .next s) ∧
    (fn < 16 → s.inFlr fn = true → ∃ t, exec (.flrDone fn) s = .next t ∧ t.inFlr fn = false ∧ (∀ g, g < 16 → g ≠ fn → t.inFlr g = s.inFlr g) ∧ causeSet t T.pcie 0 I.PCIE_FLR_DONE ∧
      (∀ off, off < 4096 → t.rd T.vorak fn off = (regReset s.fuse (regAddr T.vorak fn off)).toNat) ∧ (∀ r, r < 32 → t.ring fn r = {}) ∧
      (∀ g r, g ≠ fn → r < 32 → t.ring g r = s.ring g r) ∧ t.vk.cmds = s.vk.cmds ∧ t.sch = s.sch ∧ t.mem = s.mem ∧ t.streams = s.streams)) ∧
  (∀ (s : State) (late : Bool), ∃ t, exec (.completionTimeout late) s = .next t ∧ t.fget F.PCIE_ERRCNT_CTO 0 = min (s.fget F.PCIE_ERRCNT_CTO 0 + 1) 255 ∧
    (late = false → causeSet t T.pcie 0 I.PCIE_CTO) ∧ (late = true → t.out = s.out ∧ t.rd T.pcie 0 0x18 = s.rd T.pcie 0 0x18) ∧
    SameRegsBut s t [fieldAt F.PCIE_ERRCNT_CTO 0, causeAt T.pcie 0] ∧ t = { s with regs := t.regs, out := t.out }) ∧
  (∀ s : State, ∃ t, exec .pcieLinkDown s = .next t ∧ t.fget F.PCIE_STAT_LINK 0 = 0 ∧ t.fget F.PCIE_STAT_SPEED 0 = 0 ∧ t.fget F.PCIE_STAT_WIDTH 0 = 0 ∧ causeSet t T.pcie 0 I.PCIE_LINK_DOWN ∧
    t.fget F.PCIE_STAT_NUMVFS 0 = s.fget F.PCIE_STAT_NUMVFS 0 ∧ SameRegsBut s t [fieldAt F.PCIE_STAT_LINK 0, causeAt T.pcie 0] ∧ t = { s with regs := t.regs, out := t.out }) ∧
  (∀ (s : State) (speed width : Nat),
    (s.trust.perst = true ∨ s.power.standby = true ∨ s.trust.boot = .held ∨ s.led.recovered = false ∨ speed = 0 ∨ 5 < speed ∨ width ∉ [1, 2, 4, 8, 16] →
      exec (.pcieLinkUp speed width) s = .next s) ∧
    (s.trust.perst = false → s.power.standby = false → s.trust.boot ≠ .held → s.led.recovered = true → 1 ≤ speed → speed ≤ 5 → width ∈ [1, 2, 4, 8, 16] →
      ∃ t, exec (.pcieLinkUp speed width) s = .next t ∧ t.fget F.PCIE_STAT_LINK 0 = 1 ∧ t.fget F.PCIE_STAT_SPEED 0 = speed ∧ t.fget F.PCIE_STAT_WIDTH 0 = width ∧
        SameRegsBut s t [fieldAt F.PCIE_STAT_LINK 0] ∧ t = { s with regs := t.regs })) ∧
  (∀ s : State, exec .perstNRelease s = .next { s with trust := { s.trust with perst := false } }) ∧
  (∀ (s s1 : State), s1 = { s with trust := { s.trust with perst := true } } →
    (s.power.standby = true ∨ s.trust.boot = .held → exec .perstNAssert s = .next s1) ∧
    (s.power.standby = false → s.trust.boot ≠ .held → s.fbit F.POWER_CTRL_PERST_FULL 0 = true → exec .perstNAssert s = .next (s1.deviceReset 3)) ∧
    (s.power.standby = false → s.trust.boot ≠ .held → s.fbit F.POWER_CTRL_PERST_FULL 0 = false → ∃ t, exec .perstNAssert s = .next t ∧ t.trust = s1.trust ∧ t.pcie = {} ∧
      (∀ f off, f < 16 → off < 4096 → t.rd T.vorak f off = (regReset s.fuse (regAddr T.vorak f off)).toNat) ∧ (∀ off, off < 4096 → t.rd T.pcie 0 off = (regReset s.fuse (regAddr T.pcie 0 off)).toNat) ∧
      (∀ c ∈ t.vk.cmds, c.polder < 16 → c.silent = true ∧ c.started = true ∧ c.opcode ≠ 0x28 ∧ c.opcode ≠ 0x30) ∧ t.sch = s.sch ∧ t.mem = s.mem ∧ t.streams = s.streams ∧ t.tide = s.tide ∧ t.fuse = s.fuse)) ∧
  (∀ (s : State) (fn : Nat) (req : CfgReq),
    (s.trust.perst = true ∨ s.trust.boot = .held ∨ s.power.standby = true ∨ 16 ≤ fn → exec (.configurationRequest fn req) s = .next s) ∧
    (s.trust.perst = false → s.power.standby = false → fn < 16 →
      (s.fget F.TRUST_STAT_STATE 0 ≠ 3 → s.trust.boot = .rom ∨ s.trust.boot = .firmware → exec (.configurationRequest fn req) s = .next (s.emit (.cfgRetry fn))) ∧
      (s.trust.boot ≠ .held → s.fget F.TRUST_STAT_STATE 0 = 3 ∨ (s.trust.boot ≠ .rom ∧ s.trust.boot ≠ .firmware) →
        (fn ≠ 0 → s.fbit F.PCIE_STAT_VF_EN 0 = false ∨ s.fget F.PCIE_STAT_NUMVFS 0 < fn → ∃ t, exec (.configurationRequest fn req) s = .next t ∧ t.out = s.out ++ [.unsupported fn 0] ∧
          t.fget F.PCIE_ERRCNT_UR 0 = min (s.fget F.PCIE_ERRCNT_UR 0 + 1) 255 ∧ SameRegsBut s t [fieldAt F.PCIE_ERRCNT_UR 0] ∧ t = { s with regs := t.regs, out := t.out }) ∧
        (fn = 0 ∨ (s.fbit F.PCIE_STAT_VF_EN 0 = true ∧ fn ≤ s.fget F.PCIE_STAT_NUMVFS 0) →
          (req = .other → exec (.configurationRequest fn req) s = .next (s.emit (.cfgDone fn))) ∧
          (∀ c, req = .timeoutRange c → ∃ t, exec (.configurationRequest fn req) s = .next t ∧ Tab.get (fun _ => 0) t.pcie.timeout fn = c ∧ t.regs = s.regs ∧ t.out = s.out ++ [.cfgDone fn]) ∧
          (∀ d, req = .powerState d → ∃ t, exec (.configurationRequest fn req) s = .next t ∧ (fn ∈ t.pcie.d3 ↔ d = true) ∧ (∀ g, g ≠ fn → (g ∈ t.pcie.d3 ↔ g ∈ s.pcie.d3)) ∧ t.regs = s.regs) ∧
          (∀ on n, req = .vfEnable on n → fn ≠ 0 → exec (.configurationRequest fn req) s = .next (s.emit (.cfgDone fn))) ∧
          (∀ on n, req = .vfEnable on n → fn = 0 → s.fbit F.PCIE_STAT_VF_EN 0 = false → n ≤ 15 → ∃ t, exec (.configurationRequest fn req) s = .next t ∧ t.fget F.PCIE_STAT_NUMVFS 0 = n ∧
            t.fbit F.PCIE_STAT_VF_EN 0 = on ∧ SameRegsBut s t [fieldAt F.PCIE_STAT_VF_EN 0] ∧ t = { s with regs := t.regs, out := t.out }) ∧
          (∀ n, req = .vfEnable false n → fn = 0 → s.fbit F.PCIE_STAT_VF_EN 0 = true → ∃ t, exec (.configurationRequest fn req) s = .next t ∧ t.fbit F.PCIE_STAT_VF_EN 0 = false ∧
            ∀ g, 0 < g → g < 16 → t.inFlr g = true)))))

end
end

