-- ==== Sys2Proof/Laws/Tables.lean ====
section
/-!
SUPPORT. The laws of the sparse tables and of the byte memories: reading after setting, and the canonical form each
operation keeps.
-/

namespace Sys2Proof.Machine

set_option linter.unusedSectionVars false

variable {α : Type} [DecidableEq α] {d : Nat → α}

@[simp] theorem Tab.get_nil (d : Nat → α) (k : Nat) : Tab.get d [] k = d k := rfl

theorem Tab.get_insert_same (m : Tab α) (k : Nat) (v : α) : Tab.get d (Tab.insert m k v) k = v := by
  induction m with
  | nil => simp [Tab.insert, Tab.get]
  | cons e m ih =>
    obtain ⟨a, w⟩ := e
    simp only [Tab.insert]
    split
    · simp [Tab.get]
    · split
      · simp [Tab.get]
      · simp_all [Tab.get]

theorem Tab.get_insert_ne (m : Tab α) {k j : Nat} (v : α) (h : j ≠ k) : Tab.get d (Tab.insert m k v) j = Tab.get d m j := by
  induction m with
  | nil => simp [Tab.insert, Tab.get, Ne.symm h]
  | cons e m ih =>
    obtain ⟨a, w⟩ := e
    simp only [Tab.insert]
    split
    · subst_vars; simp [Tab.get, Ne.symm h]
    · split
      · simp [Tab.get, Ne.symm h]
      · simp_all [Tab.get]

theorem Tab.get_erase_same (m : Tab α) (k : Nat) : Tab.get d (Tab.erase m k) k = d k := by
  induction m with
  | nil => rfl
  | cons e m ih =>
    obtain ⟨a, w⟩ := e
    simp only [Tab.erase]
    split
    · exact ih
    · simp_all [Tab.get]

theorem Tab.get_erase_ne (m : Tab α) {k j : Nat} (h : j ≠ k) : Tab.get d (Tab.erase m k) j = Tab.get d m j := by
  induction m with
  | nil => rfl
  | cons e m ih =>
    obtain ⟨a, w⟩ := e
    simp only [Tab.erase]
    split
    · subst_vars; simp [Tab.get, Ne.symm h, ih]
    · simp_all [Tab.get]

/-- A table reads what was set. -/
@[simp] theorem Tab.get_set_same (m : Tab α) (k : Nat) (v : α) : Tab.get d (Tab.set d m k v) k = v := by
  unfold Tab.set
  split
  · rw [Tab.get_erase_same]; exact (‹v = d k›).symm
  · exact Tab.get_insert_same m k v

/-- Setting a key leaves every other key. -/
theorem Tab.get_set_ne (m : Tab α) {k j : Nat} (v : α) (h : j ≠ k) : Tab.get d (Tab.set d m k v) j = Tab.get d m j := by
  unfold Tab.set
  split
  · exact Tab.get_erase_ne m h
  · exact Tab.get_insert_ne m v h

/-- Both laws at once. -/
theorem Tab.get_set (m : Tab α) (k j : Nat) (v : α) : Tab.get d (Tab.set d m k v) j = if j = k then v else Tab.get d m j := by
  split
  · subst_vars; exact Tab.get_set_same m _ v
  · exact Tab.get_set_ne m v ‹_›

/-- A cleared range reads its defaults, every other key what it did. -/
theorem Tab.get_clearRange (m : Tab α) (lo hi j : Nat) :
    Tab.get d (Tab.clearRange m lo hi) j = if lo ≤ j ∧ j < hi then d j else Tab.get d m j := by
  induction m with
  | nil => simp [Tab.clearRange, Tab.get]
  | cons e m ih =>
    obtain ⟨a, w⟩ := e
    simp only [Tab.clearRange, List.filter_cons] at ih ⊢
    by_cases h : lo ≤ a ∧ a < hi
    · have : (!(decide (lo ≤ a) && decide (a < hi))) = false := by simp [h]
      simp only [this, Bool.false_eq_true, if_false, ih, Tab.get]
      by_cases hj : a = j
      · subst hj; simp [h]
      · simp [hj]
    · have : (!(decide (lo ≤ a) && decide (a < hi))) = true := by
        simp only [Bool.not_eq_true', Bool.and_eq_false_iff, decide_eq_false_iff_not]; omega
      simp only [this, if_true, Tab.get, ih]
      by_cases hj : a = j
      · subst hj; simp [h]
      · simp [hj]

/-! ## The canonical form -/

theorem Tab.wfFrom_mono (m : Tab α) {lo lo' : Nat} (h : lo' ≤ lo) (w : Tab.wfFrom d lo m = true) : Tab.wfFrom d lo' m = true := by
  cases m with
  | nil => rfl
  | cons e m => obtain ⟨a, v⟩ := e; simp [Tab.wfFrom] at w ⊢; exact ⟨⟨by omega, w.1.2⟩, w.2⟩

theorem Tab.wfFrom_insert (m : Tab α) {lo k : Nat} {v : α} (h : lo ≤ k) (hv : v ≠ d k) (w : Tab.wfFrom d lo m = true) :
    Tab.wfFrom d lo (Tab.insert m k v) = true := by
  induction m generalizing lo with
  | nil => simp [Tab.insert, Tab.wfFrom, h, hv]
  | cons e m ih =>
    obtain ⟨a, x⟩ := e
    simp only [Tab.wfFrom, Bool.and_eq_true, decide_eq_true_eq, Bool.not_eq_true', decide_eq_false_iff_not] at w
    simp only [Tab.insert]
    split
    · subst_vars; simp [Tab.wfFrom, h, hv, w.2]
    · split
      · simp only [Tab.wfFrom, Bool.and_eq_true, decide_eq_true_eq, Bool.not_eq_true', decide_eq_false_iff_not]
        exact ⟨⟨h, hv⟩, ⟨by omega, w.1.2⟩, w.2⟩
      · simp only [Tab.wfFrom, Bool.and_eq_true, decide_eq_true_eq, Bool.not_eq_true', decide_eq_false_iff_not]
        exact ⟨w.1, ih (by omega) w.2⟩

theorem Tab.wfFrom_filter (m : Tab α) (p : Nat × α → Bool) {lo : Nat} (w : Tab.wfFrom d lo m = true) :
    Tab.wfFrom d lo (m.filter p) = true := by
  induction m generalizing lo with
  | nil => rfl
  | cons e m ih =>
    obtain ⟨a, x⟩ := e
    simp only [Tab.wfFrom, Bool.and_eq_true, decide_eq_true_eq, Bool.not_eq_true', decide_eq_false_iff_not] at w
    simp only [List.filter_cons]
    split
    · simp only [Tab.wfFrom, Bool.and_eq_true, decide_eq_true_eq, Bool.not_eq_true', decide_eq_false_iff_not]
      exact ⟨w.1, ih w.2⟩
    · exact Tab.wfFrom_mono _ (by omega) (ih w.2)

theorem Tab.erase_eq_filter (m : Tab α) (k : Nat) : Tab.erase m k = m.filter fun e => !(e.1 == k) := by
  induction m with
  | nil => rfl
  | cons e m ih => obtain ⟨a, x⟩ := e; by_cases h : a = k <;> simp [Tab.erase, h, ih]

/-- Setting keeps the canonical form. -/
theorem Tab.wf_set (m : Tab α) (k : Nat) (v : α) (w : Tab.wf d m = true) : Tab.wf d (Tab.set d m k v) = true := by
  unfold Tab.set Tab.wf at *
  split
  · rw [Tab.erase_eq_filter]; exact Tab.wfFrom_filter _ _ w
  · exact Tab.wfFrom_insert _ (Nat.zero_le _) ‹_› w

/-- Erasing keeps the canonical form. -/
theorem Tab.wf_erase (m : Tab α) (k : Nat) (w : Tab.wf d m = true) : Tab.wf d (Tab.erase m k) = true := by
  rw [Tab.erase_eq_filter]; exact Tab.wfFrom_filter _ _ w

/-- Clearing a range keeps the canonical form. -/
theorem Tab.wf_clearRange (m : Tab α) (lo hi : Nat) (w : Tab.wf d m = true) : Tab.wf d (Tab.clearRange m lo hi) = true :=
  Tab.wfFrom_filter _ _ w

@[simp] theorem Tab.wf_nil (d : Nat → α) : Tab.wf d ([] : Tab α) = true := rfl

/-! ## Byte memories -/

/-- A byte written is read. -/
theorem memByte_memSet (m : Tab Byte) (a j : Nat) (b : Byte) : memByte (memSet m a b) j = if j = a then b else memByte m j :=
  Tab.get_set m a j b

/-- What a byte reads after a list of bytes was written. -/
theorem memByte_memPut (l : List Byte) : ∀ (m : Tab Byte) (a j : Nat),
    memByte (memPut m a l) j = if a ≤ j ∧ j < a + l.length then l.getD (j - a) 0 else memByte m j := by
  induction l with
  | nil =>
    intro m a j
    rw [if_neg (by simp only [List.length_nil]; omega)]
    rfl
  | cons b l ih =>
    intro m a j
    simp only [memPut, ih, memByte_memSet, List.length_cons]
    by_cases h : j = a
    · subst h
      rw [if_neg (by omega), if_pos rfl, if_pos (by omega)]
      simp
    · rw [if_neg h]
      by_cases h2 : a + 1 ≤ j ∧ j < a + 1 + l.length
      · obtain ⟨k, rfl⟩ : ∃ k, j = a + 1 + k := ⟨j - (a + 1), by omega⟩
        rw [if_pos h2, if_pos (by omega)]
        have e1 : a + 1 + k - (a + 1) = k := by omega
        have e2 : a + 1 + k - a = k + 1 := by omega
        simp [e1, e2]
      · rw [if_neg h2, if_neg (by omega)]

/-- A write outside a byte leaves it. -/
theorem memByte_memPut_ne (m : Tab Byte) (a j : Nat) (l : List Byte) (h : j < a ∨ a + l.length ≤ j) :
    memByte (memPut m a l) j = memByte m j := by
  rw [memByte_memPut, if_neg (by omega)]

theorem leBytes_length (n v : Nat) : (leBytes n v).length = n := by
  induction n generalizing v with
  | zero => rfl
  | succ n ih => simp [leBytes, ih]

/-- A write of a value leaves every byte outside it. -/
theorem memByte_memWrite_ne (m : Tab Byte) (a n v j : Nat) (h : j < a ∨ a + n ≤ j) : memByte (memWrite m a n v) j = memByte m j :=
  memByte_memPut_ne m a j _ (by rw [leBytes_length]; exact h)

theorem memBytes_memPut (l : List Byte) (m : Tab Byte) (a : Nat) : memBytes (memPut m a l) a l.length = l := by
  have key : ∀ (n k : Nat) (q : Tab Byte), (∀ i, i < n → memByte q (k + i) = l.getD (k - a + i) 0) → a ≤ k → k - a + n = l.length →
      memBytes q k n = l.drop (k - a) := by
    intro n
    induction n with
    | zero => intro k q _ _ h; rw [memBytes, List.drop_eq_nil_of_le (by omega)]
    | succ n ih =>
      intro k q hq hk hl
      have hb := hq 0 (by omega)
      simp only [Nat.add_zero] at hb
      have hlt : k - a < l.length := by omega
      rw [memBytes, List.drop_eq_getElem_cons hlt, hb]
      have : l.getD (k - a) 0 = l[k - a] := by simp [hlt]
      rw [this]
      congr 1
      have e : k - a + 1 = k + 1 - a := by omega
      rw [e]
      refine ih (k + 1) q ?_ (by omega) (by omega)
      intro i hi
      have := hq (i + 1) (by omega)
      rw [show k + (i + 1) = k + 1 + i by omega, show k - a + (i + 1) = k + 1 - a + i by omega] at this
      exact this
  have := key l.length a (memPut m a l) (by
    intro i hi
    rw [memByte_memPut, if_pos ⟨by omega, by omega⟩]; congr 1; omega) (Nat.le_refl _) (by omega)
  simpa using this

theorem ofLeBytes_leBytes (n v : Nat) : ofLeBytes (leBytes n v) = v % 256 ^ n := by
  induction n generalizing v with
  | zero => simp [leBytes, ofLeBytes, Nat.mod_one]
  | succ n ih =>
    have e : (256 : Nat) ^ (n + 1) = 256 * 256 ^ n := by rw [Nat.pow_succ, Nat.mul_comm]
    rw [leBytes, ofLeBytes, ih, BitVec.toNat_ofNat, e, Nat.mod_mul]

/-- A value written is read back, cut to the width of the write. -/
theorem memRead_memWrite (m : Tab Byte) (a n v : Nat) : memRead (memWrite m a n v) a n = v % 256 ^ n := by
  have h := memBytes_memPut (leBytes n v) m a
  rw [leBytes_length] at h
  rw [memRead, memWrite, h, ofLeBytes_leBytes]

/-- Every write keeps the canonical form of a memory. -/
theorem wf_memPut (l : List Byte) : ∀ (m : Tab Byte) (a : Nat), Tab.wf memDefault m = true → Tab.wf memDefault (memPut m a l) = true := by
  induction l with
  | nil => intro m a h; exact h
  | cons b l ih => intro m a h; exact ih _ _ (Tab.wf_set m a b h)

theorem wf_memWrite (m : Tab Byte) (a n v : Nat) (h : Tab.wf memDefault m = true) : Tab.wf memDefault (memWrite m a n v) = true :=
  wf_memPut _ m a h

theorem wf_memZero (m : Tab Byte) (a n : Nat) (h : Tab.wf memDefault m = true) : Tab.wf memDefault (memZero m a n) = true :=
  Tab.wf_clearRange m _ _ h

/-- A write to code words keeps the canonical form of the memory. -/
theorem wf_codeWrite (unit : Nat) : ∀ (n : Nat) (m : Tab Byte) (bad : List Nat) (a : Nat) (l : List Byte),
    Tab.wf memDefault m = true → Tab.wf memDefault (codeWrite unit n m bad a l).1 = true := by
  intro n
  induction n with
  | zero => intro m bad a l h; exact h
  | succ n ih =>
    intro m bad a l h
    simp only [codeWrite]
    split
    · exact h
    · split
      · exact ih _ _ _ _ h
      · exact ih _ _ _ _ (wf_memPut _ _ _ h)

end Sys2Proof.Machine
end

