-- ==== Sys2Proof/Laws/Fields.lean ====
section
/-!
SUPPORT. The laws of bit fields and of the registers: a field reads what was written to it, every other field and every other
register keeps its value.
-/

namespace Sys2Proof.Machine

/-! ## Bit fields -/

theorem bitField_lt (v lo w : Nat) : bitField v lo w < 2 ^ w := Nat.mod_lt _ (Nat.two_pow_pos w)

theorem bitField_eq_extract (v lo w : Nat) : bitField v lo w = (v >>> lo) % 2 ^ w := by
  rw [bitField, Nat.shiftRight_eq_div_pow]

theorem testBit_bitField (v lo w i : Nat) : (bitField v lo w).testBit i = (decide (i < w) && v.testBit (lo + i)) := by
  rw [bitField_eq_extract, Nat.testBit_mod_two_pow, Nat.testBit_shiftRight]

/-- A value is its low bits, a field and its high bits. -/
theorem split_field (v lo w : Nat) :
    v = v % 2 ^ lo + 2 ^ lo * (bitField v lo w + 2 ^ w * (v / 2 ^ (lo + w))) := by
  have e1 := Nat.mod_add_div v (2 ^ lo)
  have e2 := Nat.mod_add_div (v / 2 ^ lo) (2 ^ w)
  have e3 : v / 2 ^ (lo + w) = v / 2 ^ lo / 2 ^ w := by rw [Nat.pow_add, Nat.div_div_eq_div_mul]
  rw [bitField, e3, e2, e1]

/-- The three parts of a value with a field replaced. -/
theorem setField_eq (v lo w x : Nat) :
    setField v lo w x = v % 2 ^ lo + 2 ^ lo * (x % 2 ^ w + 2 ^ w * (v / 2 ^ (lo + w))) := by
  have h := split_field v lo w
  unfold setField
  generalize bitField v lo w = f at h ⊢
  generalize hq : v / 2 ^ (lo + w) = q at h ⊢
  generalize hm : v % 2 ^ lo = m at h ⊢
  rw [h]
  generalize x % 2 ^ w = y
  have e1 : 2 ^ lo * (f + 2 ^ w * q) = f * 2 ^ lo + 2 ^ lo * (2 ^ w * q) := by rw [Nat.mul_add, Nat.mul_comm f]
  have e2 : 2 ^ lo * (y + 2 ^ w * q) = y * 2 ^ lo + 2 ^ lo * (2 ^ w * q) := by rw [Nat.mul_add, Nat.mul_comm y]
  rw [e1, e2]
  omega

/-- A field reads what was written to it. -/
theorem bitField_setField_same (v lo w x : Nat) : bitField (setField v lo w x) lo w = x % 2 ^ w := by
  rw [setField_eq, bitField, Nat.add_mul_div_left _ _ (Nat.two_pow_pos lo), Nat.div_eq_of_lt (Nat.mod_lt _ (Nat.two_pow_pos lo)),
    Nat.zero_add, Nat.add_mul_mod_self_left, Nat.mod_mod]

/-- A field below the one written keeps its value. -/
theorem bitField_setField_below (v lo w x lo' w' : Nat) (h : lo' + w' ≤ lo) :
    bitField (setField v lo w x) lo' w' = bitField v lo' w' := by
  apply Nat.eq_of_testBit_eq
  intro i
  rw [testBit_bitField, testBit_bitField]
  by_cases hi : i < w'
  · have hlt : lo' + i < lo := by omega
    have : (setField v lo w x) % 2 ^ lo = v % 2 ^ lo := by
      rw [setField_eq, Nat.add_mul_mod_self_left, Nat.mod_mod]
    have h2 := congrArg (fun n => n.testBit (lo' + i)) this
    simp only [Nat.testBit_mod_two_pow, hlt, decide_true, Bool.true_and] at h2
    simp [hi, h2]
  · simp [hi]

/-- A field above the one written keeps its value. -/
theorem bitField_setField_above (v lo w x lo' w' : Nat) (h : lo + w ≤ lo') :
    bitField (setField v lo w x) lo' w' = bitField v lo' w' := by
  have key : setField v lo w x / 2 ^ (lo + w) = v / 2 ^ (lo + w) := by
    rw [setField_eq, Nat.pow_add, ← Nat.div_div_eq_div_mul, Nat.add_mul_div_left _ _ (Nat.two_pow_pos lo),
      Nat.div_eq_of_lt (Nat.mod_lt _ (Nat.two_pow_pos lo)), Nat.zero_add, Nat.add_mul_div_left _ _ (Nat.two_pow_pos w),
      Nat.div_eq_of_lt (Nat.mod_lt _ (Nat.two_pow_pos w)), Nat.zero_add]
  obtain ⟨k, rfl⟩ : ∃ k, lo' = lo + w + k := ⟨lo' - (lo + w), by omega⟩
  unfold bitField
  rw [Nat.pow_add 2 (lo + w) k, ← Nat.div_div_eq_div_mul, ← Nat.div_div_eq_div_mul, key]

/-- A field of a 32-bit word does not see the bits above it. -/
theorem bitField_word (v lo w : Nat) (h : lo + w ≤ 32) : bitField (v % 2 ^ 32) lo w = bitField v lo w := by
  apply Nat.eq_of_testBit_eq
  intro i
  rw [testBit_bitField, testBit_bitField, Nat.testBit_mod_two_pow]
  by_cases hi : i < w
  · have : lo + i < 32 := by omega
    simp [hi, this]
  · simp [hi]

theorem setField_lt (v lo w x n : Nat) (h : lo + w ≤ n) (hv : v < 2 ^ n) : setField v lo w x < 2 ^ n := by
  rw [setField_eq]
  obtain ⟨k, rfl⟩ : ∃ k, n = lo + w + k := ⟨n - (lo + w), by omega⟩
  have h1 := Nat.mod_lt v (Nat.two_pow_pos lo)
  have h2 := Nat.mod_lt x (Nat.two_pow_pos w)
  have h3 : v / 2 ^ (lo + w) < 2 ^ k := by
    rw [Nat.div_lt_iff_lt_mul (Nat.two_pow_pos _), ← Nat.pow_add, Nat.add_comm k]
    exact hv
  have e : 2 ^ (lo + w + k) = 2 ^ lo * (2 ^ w * 2 ^ k) := by rw [Nat.pow_add, Nat.pow_add, Nat.mul_assoc]
  rw [e]
  calc _ < 2 ^ lo + 2 ^ lo * (x % 2 ^ w + 2 ^ w * (v / 2 ^ (lo + w))) := by omega
    _ = 2 ^ lo * (x % 2 ^ w + 2 ^ w * (v / 2 ^ (lo + w)) + 1) := by ring
    _ ≤ 2 ^ lo * (2 ^ w * 2 ^ k) := by
        apply Nat.mul_le_mul_left
        calc _ ≤ 2 ^ w + 2 ^ w * (v / 2 ^ (lo + w)) := by omega
          _ = 2 ^ w * (v / 2 ^ (lo + w) + 1) := by ring
          _ ≤ 2 ^ w * 2 ^ k := Nat.mul_le_mul_left _ h3

/-! ## Registers -/

/-- The addresses of registers differ where the type, the instance or the offset does. -/
theorem regAddr_inj {t i o t' i' o' : Nat} (hi : i < 128) (hi' : i' < 128) (ho : o < 4096) (ho' : o' < 4096) :
    regAddr t i o = regAddr t' i' o' ↔ t = t' ∧ i = i' ∧ o = o' := by
  unfold regAddr
  omega

theorem State.rd_lt (s : State) (t i o : Nat) : s.rd t i o < 2 ^ 32 := (Tab.get (regReset s.fuse) s.regs (regAddr t i o)).isLt

/-- A register reads what was written, in 32 bits. -/
theorem State.rd_wr_same (s : State) (t i o v : Nat) : (s.wr t i o v).rd t i o = v % 2 ^ 32 := by
  simp [State.rd, State.wr]

/-- A write to one register leaves every other. -/
theorem State.rd_wr_ne (s : State) {t i o t' i' o' : Nat} (v : Nat) (h : regAddr t' i' o' ≠ regAddr t i o) :
    (s.wr t i o v).rd t' i' o' = s.rd t' i' o' := by
  simp only [State.rd, State.wr]
  rw [Tab.get_set_ne _ _ h]

/-- Where a copy of a field's register lies. -/
def Fld.addr (f : Fld) (inst idx : Nat) : Nat := regAddr f.t inst (f.off + idx * f.stride)

/-- A field reads what was written to it. -/
theorem State.fget_fset_same (s : State) (f : Fld) (i v idx : Nat) (h : f.lo + f.w ≤ 32) :
    (s.fset f i v idx).fget f i idx = v % 2 ^ f.w := by
  simp only [State.fget, State.fset, State.rd_wr_same]
  rw [bitField_word _ _ _ h, bitField_setField_same]

/-- Fields of one register that do not overlap. -/
theorem State.fget_fset_disj (s : State) (f g : Fld) (i v idx idx' : Nat) (ha : f.addr i idx = g.addr i idx') (hg : g.lo + g.w ≤ 32)
    (h : f.lo + f.w ≤ g.lo ∨ g.lo + g.w ≤ f.lo) : (s.fset f i v idx).fget g i idx' = s.fget g i idx' := by
  simp only [Fld.addr] at ha
  simp only [State.fget, State.fset, State.rd, State.wr]
  rw [← ha, Tab.get_set_same, BitVec.toNat_ofNat, bitField_word _ _ _ hg]
  rcases h with h | h
  · rw [bitField_setField_above _ _ _ _ _ _ h]
  · rw [bitField_setField_below _ _ _ _ _ _ h]

/-- A field of another register keeps its value. -/
theorem State.fget_fset_ne (s : State) (f g : Fld) (i j v idx idx' : Nat) (h : g.addr j idx' ≠ f.addr i idx) :
    (s.fset f i v idx).fget g j idx' = s.fget g j idx' := by
  simp only [Fld.addr] at h
  simp only [State.fget, State.fset]
  rw [State.rd_wr_ne _ _ h]

theorem State.fget_lt (s : State) (f : Fld) (i idx : Nat) : s.fget f i idx < 2 ^ f.w := bitField_lt _ _ _

/-- A register write leaves the fields of other registers. -/
theorem State.fget_wr_ne (s : State) (g : Fld) {t i o : Nat} (j v idx : Nat) (h : g.addr j idx ≠ regAddr t i o) :
    (s.wr t i o v).fget g j idx = s.fget g j idx := by
  simp only [State.fget]
  rw [State.rd_wr_ne _ _ h]

/-- A counting field counts, and stops at its largest value. -/
theorem State.fget_finc_same (s : State) (f : Fld) (i n idx : Nat) (h : f.lo + f.w ≤ 32) :
    (s.finc f i n idx).fget f i idx = min (s.fget f i idx + n) (2 ^ f.w - 1) := by
  rw [State.finc, State.fget_fset_same _ _ _ _ _ h, Nat.mod_eq_of_lt]
  have := Nat.two_pow_pos f.w
  omega

/-- A wrapping counting field counts. -/
theorem State.fget_fwrap_same (s : State) (f : Fld) (i n idx : Nat) (h : f.lo + f.w ≤ 32) :
    (s.fwrap f i n idx).fget f i idx = (s.fget f i idx + n) % 2 ^ f.w := by
  rw [State.fwrap, State.fget_fset_same _ _ _ _ _ h, Nat.mod_mod]

/-- A 64-bit pair reads what was set. -/
theorem State.cget_cset_same (s : State) (c : Ctr) (i v idx : Nat) : (s.cset c i v idx).cget c i idx = v % 2 ^ 64 := by
  simp [State.cget, State.cset]

/-- A 64-bit counter counts, and wraps. -/
theorem State.cget_cinc_same (s : State) (c : Ctr) (i n idx : Nat) : (s.cinc c i n idx).cget c i idx = (s.cget c i idx + n) % 2 ^ 64 := by
  rw [State.cinc, State.cget_cset_same, Nat.mod_mod]

/-- Another pair keeps its value. -/
theorem State.cget_cset_ne (s : State) (c e : Ctr) (i j v idx idx' : Nat)
    (h : regAddr e.t j (e.off + 2048 * idx') ≠ regAddr c.t i (c.off + 2048 * idx)) :
    (s.cset c i v idx).cget e j idx' = s.cget e j idx' := by
  simp only [State.cget, State.cset]
  rw [Tab.get_set_ne _ _ h]

/-! ## The canonical form of the register tables -/

/-- The register and counter tables are in their canonical form. -/
def State.regsWf (s : State) : Bool := Tab.wf (regReset s.fuse) s.regs && Tab.wf (fun _ => (0 : BitVec 64)) s.ctrs

theorem State.regsWf_wr (s : State) (t i o v : Nat) (h : s.regsWf = true) : (s.wr t i o v).regsWf = true := by
  simp only [State.regsWf, Bool.and_eq_true] at h ⊢
  exact ⟨Tab.wf_set _ _ _ h.1, h.2⟩

theorem State.regsWf_fset (s : State) (f : Fld) (i v idx : Nat) (h : s.regsWf = true) : (s.fset f i v idx).regsWf = true :=
  State.regsWf_wr _ _ _ _ _ h

theorem State.regsWf_cset (s : State) (c : Ctr) (i v idx : Nat) (h : s.regsWf = true) : (s.cset c i v idx).regsWf = true := by
  simp only [State.regsWf, Bool.and_eq_true] at h ⊢
  exact ⟨h.1, Tab.wf_set _ _ _ h.2⟩

theorem State.regsWf_resetPage (s : State) (t i : Nat) (h : s.regsWf = true) : (s.resetPage t i).regsWf = true := by
  simp only [State.regsWf, Bool.and_eq_true] at h ⊢
  exact ⟨Tab.wf_clearRange _ _ _ h.1, Tab.wf_clearRange _ _ _ h.2⟩

end Sys2Proof.Machine
end

