-- ==== Sys2Proof/Laws/State.lean ====
section
/-!
SUPPORT. One lemma for each field and each update: an update leaves every field but its own, and a register reads the same after an
update of anything else. The lemmas about interrupts, logs and free values follow.
-/

namespace Sys2Proof.Machine

/-! ### wr -/

@[simp] theorem State.wr_fuse (s : State) (t i o v : Nat) : (s.wr t i o v).fuse = s.fuse := rfl
@[simp] theorem State.wr_ctrs (s : State) (t i o v : Nat) : (s.wr t i o v).ctrs = s.ctrs := rfl
@[simp] theorem State.wr_latch (s : State) (t i o v : Nat) : (s.wr t i o v).latch = s.latch := rfl
@[simp] theorem State.wr_shadow (s : State) (t i o v : Nat) : (s.wr t i o v).shadow = s.shadow := rfl
@[simp] theorem State.wr_flog (s : State) (t i o v : Nat) : (s.wr t i o v).flog = s.flog := rfl
@[simp] theorem State.wr_fab (s : State) (t i o v : Nat) : (s.wr t i o v).fab = s.fab := rfl
@[simp] theorem State.wr_stones (s : State) (t i o v : Nat) : (s.wr t i o v).stones = s.stones := rfl
@[simp] theorem State.wr_mills (s : State) (t i o v : Nat) : (s.wr t i o v).mills = s.mills := rfl
@[simp] theorem State.wr_image (s : State) (t i o v : Nat) : (s.wr t i o v).image = s.image := rfl
@[simp] theorem State.wr_pond (s : State) (t i o v : Nat) : (s.wr t i o v).pond = s.pond := rfl
@[simp] theorem State.wr_pondPoison (s : State) (t i o v : Nat) : (s.wr t i o v).pondPoison = s.pondPoison := rfl
@[simp] theorem State.wr_qs (s : State) (t i o v : Nat) : (s.wr t i o v).qs = s.qs := rfl
@[simp] theorem State.wr_cls (s : State) (t i o v : Nat) : (s.wr t i o v).cls = s.cls := rfl
@[simp] theorem State.wr_streams (s : State) (t i o v : Nat) : (s.wr t i o v).streams = s.streams := rfl
@[simp] theorem State.wr_ipId (s : State) (t i o v : Nat) : (s.wr t i o v).ipId = s.ipId := rfl
@[simp] theorem State.wr_sch (s : State) (t i o v : Nat) : (s.wr t i o v).sch = s.sch := rfl
@[simp] theorem State.wr_ports (s : State) (t i o v : Nat) : (s.wr t i o v).ports = s.ports := rfl
@[simp] theorem State.wr_mg (s : State) (t i o v : Nat) : (s.wr t i o v).mg = s.mg := rfl
@[simp] theorem State.wr_tideNow (s : State) (t i o v : Nat) : (s.wr t i o v).tideNow = s.tideNow := rfl
@[simp] theorem State.wr_tide (s : State) (t i o v : Nat) : (s.wr t i o v).tide = s.tide := rfl
@[simp] theorem State.wr_mem (s : State) (t i o v : Nat) : (s.wr t i o v).mem = s.mem := rfl
@[simp] theorem State.wr_led (s : State) (t i o v : Nat) : (s.wr t i o v).led = s.led := rfl
@[simp] theorem State.wr_pol (s : State) (t i o v : Nat) : (s.wr t i o v).pol = s.pol := rfl
@[simp] theorem State.wr_meas (s : State) (t i o v : Nat) : (s.wr t i o v).meas = s.meas := rfl
@[simp] theorem State.wr_vk (s : State) (t i o v : Nat) : (s.wr t i o v).vk = s.vk := rfl
@[simp] theorem State.wr_press (s : State) (t i o v : Nat) : (s.wr t i o v).press = s.press := rfl
@[simp] theorem State.wr_pcie (s : State) (t i o v : Nat) : (s.wr t i o v).pcie = s.pcie := rfl
@[simp] theorem State.wr_power (s : State) (t i o v : Nat) : (s.wr t i o v).power = s.power := rfl
@[simp] theorem State.wr_i2c (s : State) (t i o v : Nat) : (s.wr t i o v).i2c = s.i2c := rfl
@[simp] theorem State.wr_trust (s : State) (t i o v : Nat) : (s.wr t i o v).trust = s.trust := rfl
@[simp] theorem State.wr_ras (s : State) (t i o v : Nat) : (s.wr t i o v).ras = s.ras := rfl
@[simp] theorem State.wr_out (s : State) (t i o v : Nat) : (s.wr t i o v).out = s.out := rfl
@[simp] theorem State.wr_fresh (s : State) (t i o v : Nat) : (s.wr t i o v).fresh = s.fresh := rfl
@[simp] theorem State.wr_pending (s : State) (t i o v : Nat) : (s.wr t i o v).pending = s.pending := rfl
@[simp] theorem State.wr_cget (s : State) (t i o v : Nat) (ct : Ctr) (j y : Nat) : (s.wr t i o v).cget ct j y = s.cget ct j y := rfl
@[simp] theorem State.wr_stone (s : State) (t i o v : Nat) (m : Nat) : (s.wr t i o v).stone m = s.stone m := rfl

/-! ### fset -/

@[simp] theorem State.fset_fuse (s : State) (f : Fld) (i v x : Nat) : (s.fset f i v x).fuse = s.fuse := rfl
@[simp] theorem State.fset_ctrs (s : State) (f : Fld) (i v x : Nat) : (s.fset f i v x).ctrs = s.ctrs := rfl
@[simp] theorem State.fset_latch (s : State) (f : Fld) (i v x : Nat) : (s.fset f i v x).latch = s.latch := rfl
@[simp] theorem State.fset_shadow (s : State) (f : Fld) (i v x : Nat) : (s.fset f i v x).shadow = s.shadow := rfl
@[simp] theorem State.fset_flog (s : State) (f : Fld) (i v x : Nat) : (s.fset f i v x).flog = s.flog := rfl
@[simp] theorem State.fset_fab (s : State) (f : Fld) (i v x : Nat) : (s.fset f i v x).fab = s.fab := rfl
@[simp] theorem State.fset_stones (s : State) (f : Fld) (i v x : Nat) : (s.fset f i v x).stones = s.stones := rfl
@[simp] theorem State.fset_mills (s : State) (f : Fld) (i v x : Nat) : (s.fset f i v x).mills = s.mills := rfl
@[simp] theorem State.fset_image (s : State) (f : Fld) (i v x : Nat) : (s.fset f i v x).image = s.image := rfl
@[simp] theorem State.fset_pond (s : State) (f : Fld) (i v x : Nat) : (s.fset f i v x).pond = s.pond := rfl
@[simp] theorem State.fset_pondPoison (s : State) (f : Fld) (i v x : Nat) : (s.fset f i v x).pondPoison = s.pondPoison := rfl
@[simp] theorem State.fset_qs (s : State) (f : Fld) (i v x : Nat) : (s.fset f i v x).qs = s.qs := rfl
@[simp] theorem State.fset_cls (s : State) (f : Fld) (i v x : Nat) : (s.fset f i v x).cls = s.cls := rfl
@[simp] theorem State.fset_streams (s : State) (f : Fld) (i v x : Nat) : (s.fset f i v x).streams = s.streams := rfl
@[simp] theorem State.fset_ipId (s : State) (f : Fld) (i v x : Nat) : (s.fset f i v x).ipId = s.ipId := rfl
@[simp] theorem State.fset_sch (s : State) (f : Fld) (i v x : Nat) : (s.fset f i v x).sch = s.sch := rfl
@[simp] theorem State.fset_ports (s : State) (f : Fld) (i v x : Nat) : (s.fset f i v x).ports = s.ports := rfl
@[simp] theorem State.fset_mg (s : State) (f : Fld) (i v x : Nat) : (s.fset f i v x).mg = s.mg := rfl
@[simp] theorem State.fset_tideNow (s : State) (f : Fld) (i v x : Nat) : (s.fset f i v x).tideNow = s.tideNow := rfl
@[simp] theorem State.fset_tide (s : State) (f : Fld) (i v x : Nat) : (s.fset f i v x).tide = s.tide := rfl
@[simp] theorem State.fset_mem (s : State) (f : Fld) (i v x : Nat) : (s.fset f i v x).mem = s.mem := rfl
@[simp] theorem State.fset_led (s : State) (f : Fld) (i v x : Nat) : (s.fset f i v x).led = s.led := rfl
@[simp] theorem State.fset_pol (s : State) (f : Fld) (i v x : Nat) : (s.fset f i v x).pol = s.pol := rfl
@[simp] theorem State.fset_meas (s : State) (f : Fld) (i v x : Nat) : (s.fset f i v x).meas = s.meas := rfl
@[simp] theorem State.fset_vk (s : State) (f : Fld) (i v x : Nat) : (s.fset f i v x).vk = s.vk := rfl
@[simp] theorem State.fset_press (s : State) (f : Fld) (i v x : Nat) : (s.fset f i v x).press = s.press := rfl
@[simp] theorem State.fset_pcie (s : State) (f : Fld) (i v x : Nat) : (s.fset f i v x).pcie = s.pcie := rfl
@[simp] theorem State.fset_power (s : State) (f : Fld) (i v x : Nat) : (s.fset f i v x).power = s.power := rfl
@[simp] theorem State.fset_i2c (s : State) (f : Fld) (i v x : Nat) : (s.fset f i v x).i2c = s.i2c := rfl
@[simp] theorem State.fset_trust (s : State) (f : Fld) (i v x : Nat) : (s.fset f i v x).trust = s.trust := rfl
@[simp] theorem State.fset_ras (s : State) (f : Fld) (i v x : Nat) : (s.fset f i v x).ras = s.ras := rfl
@[simp] theorem State.fset_out (s : State) (f : Fld) (i v x : Nat) : (s.fset f i v x).out = s.out := rfl
@[simp] theorem State.fset_fresh (s : State) (f : Fld) (i v x : Nat) : (s.fset f i v x).fresh = s.fresh := rfl
@[simp] theorem State.fset_pending (s : State) (f : Fld) (i v x : Nat) : (s.fset f i v x).pending = s.pending := rfl
@[simp] theorem State.fset_cget (s : State) (f : Fld) (i v x : Nat) (ct : Ctr) (j y : Nat) : (s.fset f i v x).cget ct j y = s.cget ct j y := rfl
@[simp] theorem State.fset_stone (s : State) (f : Fld) (i v x : Nat) (m : Nat) : (s.fset f i v x).stone m = s.stone m := rfl

/-! ### hset -/

@[simp] theorem State.hset_fuse (s : State) (f : Fld) (t i v : Nat) : (s.hset f t i v).fuse = s.fuse := rfl
@[simp] theorem State.hset_ctrs (s : State) (f : Fld) (t i v : Nat) : (s.hset f t i v).ctrs = s.ctrs := rfl
@[simp] theorem State.hset_latch (s : State) (f : Fld) (t i v : Nat) : (s.hset f t i v).latch = s.latch := rfl
@[simp] theorem State.hset_shadow (s : State) (f : Fld) (t i v : Nat) : (s.hset f t i v).shadow = s.shadow := rfl
@[simp] theorem State.hset_flog (s : State) (f : Fld) (t i v : Nat) : (s.hset f t i v).flog = s.flog := rfl
@[simp] theorem State.hset_fab (s : State) (f : Fld) (t i v : Nat) : (s.hset f t i v).fab = s.fab := rfl
@[simp] theorem State.hset_stones (s : State) (f : Fld) (t i v : Nat) : (s.hset f t i v).stones = s.stones := rfl
@[simp] theorem State.hset_mills (s : State) (f : Fld) (t i v : Nat) : (s.hset f t i v).mills = s.mills := rfl
@[simp] theorem State.hset_image (s : State) (f : Fld) (t i v : Nat) : (s.hset f t i v).image = s.image := rfl
@[simp] theorem State.hset_pond (s : State) (f : Fld) (t i v : Nat) : (s.hset f t i v).pond = s.pond := rfl
@[simp] theorem State.hset_pondPoison (s : State) (f : Fld) (t i v : Nat) : (s.hset f t i v).pondPoison = s.pondPoison := rfl
@[simp] theorem State.hset_qs (s : State) (f : Fld) (t i v : Nat) : (s.hset f t i v).qs = s.qs := rfl
@[simp] theorem State.hset_cls (s : State) (f : Fld) (t i v : Nat) : (s.hset f t i v).cls = s.cls := rfl
@[simp] theorem State.hset_streams (s : State) (f : Fld) (t i v : Nat) : (s.hset f t i v).streams = s.streams := rfl
@[simp] theorem State.hset_ipId (s : State) (f : Fld) (t i v : Nat) : (s.hset f t i v).ipId = s.ipId := rfl
@[simp] theorem State.hset_sch (s : State) (f : Fld) (t i v : Nat) : (s.hset f t i v).sch = s.sch := rfl
@[simp] theorem State.hset_ports (s : State) (f : Fld) (t i v : Nat) : (s.hset f t i v).ports = s.ports := rfl
@[simp] theorem State.hset_mg (s : State) (f : Fld) (t i v : Nat) : (s.hset f t i v).mg = s.mg := rfl
@[simp] theorem State.hset_tideNow (s : State) (f : Fld) (t i v : Nat) : (s.hset f t i v).tideNow = s.tideNow := rfl
@[simp] theorem State.hset_tide (s : State) (f : Fld) (t i v : Nat) : (s.hset f t i v).tide = s.tide := rfl
@[simp] theorem State.hset_mem (s : State) (f : Fld) (t i v : Nat) : (s.hset f t i v).mem = s.mem := rfl
@[simp] theorem State.hset_led (s : State) (f : Fld) (t i v : Nat) : (s.hset f t i v).led = s.led := rfl
@[simp] theorem State.hset_pol (s : State) (f : Fld) (t i v : Nat) : (s.hset f t i v).pol = s.pol := rfl
@[simp] theorem State.hset_meas (s : State) (f : Fld) (t i v : Nat) : (s.hset f t i v).meas = s.meas := rfl
@[simp] theorem State.hset_vk (s : State) (f : Fld) (t i v : Nat) : (s.hset f t i v).vk = s.vk := rfl
@[simp] theorem State.hset_press (s : State) (f : Fld) (t i v : Nat) : (s.hset f t i v).press = s.press := rfl
@[simp] theorem State.hset_pcie (s : State) (f : Fld) (t i v : Nat) : (s.hset f t i v).pcie = s.pcie := rfl
@[simp] theorem State.hset_power (s : State) (f : Fld) (t i v : Nat) : (s.hset f t i v).power = s.power := rfl
@[simp] theorem State.hset_i2c (s : State) (f : Fld) (t i v : Nat) : (s.hset f t i v).i2c = s.i2c := rfl
@[simp] theorem State.hset_trust (s : State) (f : Fld) (t i v : Nat) : (s.hset f t i v).trust = s.trust := rfl
@[simp] theorem State.hset_ras (s : State) (f : Fld) (t i v : Nat) : (s.hset f t i v).ras = s.ras := rfl
@[simp] theorem State.hset_out (s : State) (f : Fld) (t i v : Nat) : (s.hset f t i v).out = s.out := rfl
@[simp] theorem State.hset_fresh (s : State) (f : Fld) (t i v : Nat) : (s.hset f t i v).fresh = s.fresh := rfl
@[simp] theorem State.hset_pending (s : State) (f : Fld) (t i v : Nat) : (s.hset f t i v).pending = s.pending := rfl
@[simp] theorem State.hset_cget (s : State) (f : Fld) (t i v : Nat) (ct : Ctr) (j y : Nat) : (s.hset f t i v).cget ct j y = s.cget ct j y := rfl
@[simp] theorem State.hset_stone (s : State) (f : Fld) (t i v : Nat) (m : Nat) : (s.hset f t i v).stone m = s.stone m := rfl

/-! ### finc -/

@[simp] theorem State.finc_fuse (s : State) (f : Fld) (i n x : Nat) : (s.finc f i n x).fuse = s.fuse := rfl
@[simp] theorem State.finc_ctrs (s : State) (f : Fld) (i n x : Nat) : (s.finc f i n x).ctrs = s.ctrs := rfl
@[simp] theorem State.finc_latch (s : State) (f : Fld) (i n x : Nat) : (s.finc f i n x).latch = s.latch := rfl
@[simp] theorem State.finc_shadow (s : State) (f : Fld) (i n x : Nat) : (s.finc f i n x).shadow = s.shadow := rfl
@[simp] theorem State.finc_flog (s : State) (f : Fld) (i n x : Nat) : (s.finc f i n x).flog = s.flog := rfl
@[simp] theorem State.finc_fab (s : State) (f : Fld) (i n x : Nat) : (s.finc f i n x).fab = s.fab := rfl
@[simp] theorem State.finc_stones (s : State) (f : Fld) (i n x : Nat) : (s.finc f i n x).stones = s.stones := rfl
@[simp] theorem State.finc_mills (s : State) (f : Fld) (i n x : Nat) : (s.finc f i n x).mills = s.mills := rfl
@[simp] theorem State.finc_image (s : State) (f : Fld) (i n x : Nat) : (s.finc f i n x).image = s.image := rfl
@[simp] theorem State.finc_pond (s : State) (f : Fld) (i n x : Nat) : (s.finc f i n x).pond = s.pond := rfl
@[simp] theorem State.finc_pondPoison (s : State) (f : Fld) (i n x : Nat) : (s.finc f i n x).pondPoison = s.pondPoison := rfl
@[simp] theorem State.finc_qs (s : State) (f : Fld) (i n x : Nat) : (s.finc f i n x).qs = s.qs := rfl
@[simp] theorem State.finc_cls (s : State) (f : Fld) (i n x : Nat) : (s.finc f i n x).cls = s.cls := rfl
@[simp] theorem State.finc_streams (s : State) (f : Fld) (i n x : Nat) : (s.finc f i n x).streams = s.streams := rfl
@[simp] theorem State.finc_ipId (s : State) (f : Fld) (i n x : Nat) : (s.finc f i n x).ipId = s.ipId := rfl
@[simp] theorem State.finc_sch (s : State) (f : Fld) (i n x : Nat) : (s.finc f i n x).sch = s.sch := rfl
@[simp] theorem State.finc_ports (s : State) (f : Fld) (i n x : Nat) : (s.finc f i n x).ports = s.ports := rfl
@[simp] theorem State.finc_mg (s : State) (f : Fld) (i n x : Nat) : (s.finc f i n x).mg = s.mg := rfl
@[simp] theorem State.finc_tideNow (s : State) (f : Fld) (i n x : Nat) : (s.finc f i n x).tideNow = s.tideNow := rfl
@[simp] theorem State.finc_tide (s : State) (f : Fld) (i n x : Nat) : (s.finc f i n x).tide = s.tide := rfl
@[simp] theorem State.finc_mem (s : State) (f : Fld) (i n x : Nat) : (s.finc f i n x).mem = s.mem := rfl
@[simp] theorem State.finc_led (s : State) (f : Fld) (i n x : Nat) : (s.finc f i n x).led = s.led := rfl
@[simp] theorem State.finc_pol (s : State) (f : Fld) (i n x : Nat) : (s.finc f i n x).pol = s.pol := rfl
@[simp] theorem State.finc_meas (s : State) (f : Fld) (i n x : Nat) : (s.finc f i n x).meas = s.meas := rfl
@[simp] theorem State.finc_vk (s : State) (f : Fld) (i n x : Nat) : (s.finc f i n x).vk = s.vk := rfl
@[simp] theorem State.finc_press (s : State) (f : Fld) (i n x : Nat) : (s.finc f i n x).press = s.press := rfl
@[simp] theorem State.finc_pcie (s : State) (f : Fld) (i n x : Nat) : (s.finc f i n x).pcie = s.pcie := rfl
@[simp] theorem State.finc_power (s : State) (f : Fld) (i n x : Nat) : (s.finc f i n x).power = s.power := rfl
@[simp] theorem State.finc_i2c (s : State) (f : Fld) (i n x : Nat) : (s.finc f i n x).i2c = s.i2c := rfl
@[simp] theorem State.finc_trust (s : State) (f : Fld) (i n x : Nat) : (s.finc f i n x).trust = s.trust := rfl
@[simp] theorem State.finc_ras (s : State) (f : Fld) (i n x : Nat) : (s.finc f i n x).ras = s.ras := rfl
@[simp] theorem State.finc_out (s : State) (f : Fld) (i n x : Nat) : (s.finc f i n x).out = s.out := rfl
@[simp] theorem State.finc_fresh (s : State) (f : Fld) (i n x : Nat) : (s.finc f i n x).fresh = s.fresh := rfl
@[simp] theorem State.finc_pending (s : State) (f : Fld) (i n x : Nat) : (s.finc f i n x).pending = s.pending := rfl
@[simp] theorem State.finc_cget (s : State) (f : Fld) (i n x : Nat) (ct : Ctr) (j y : Nat) : (s.finc f i n x).cget ct j y = s.cget ct j y := rfl
@[simp] theorem State.finc_stone (s : State) (f : Fld) (i n x : Nat) (m : Nat) : (s.finc f i n x).stone m = s.stone m := rfl

/-! ### fwrap -/

@[simp] theorem State.fwrap_fuse (s : State) (f : Fld) (i n x : Nat) : (s.fwrap f i n x).fuse = s.fuse := rfl
@[simp] theorem State.fwrap_ctrs (s : State) (f : Fld) (i n x : Nat) : (s.fwrap f i n x).ctrs = s.ctrs := rfl
@[simp] theorem State.fwrap_latch (s : State) (f : Fld) (i n x : Nat) : (s.fwrap f i n x).latch = s.latch := rfl
@[simp] theorem State.fwrap_shadow (s : State) (f : Fld) (i n x : Nat) : (s.fwrap f i n x).shadow = s.shadow := rfl
@[simp] theorem State.fwrap_flog (s : State) (f : Fld) (i n x : Nat) : (s.fwrap f i n x).flog = s.flog := rfl
@[simp] theorem State.fwrap_fab (s : State) (f : Fld) (i n x : Nat) : (s.fwrap f i n x).fab = s.fab := rfl
@[simp] theorem State.fwrap_stones (s : State) (f : Fld) (i n x : Nat) : (s.fwrap f i n x).stones = s.stones := rfl
@[simp] theorem State.fwrap_mills (s : State) (f : Fld) (i n x : Nat) : (s.fwrap f i n x).mills = s.mills := rfl
@[simp] theorem State.fwrap_image (s : State) (f : Fld) (i n x : Nat) : (s.fwrap f i n x).image = s.image := rfl
@[simp] theorem State.fwrap_pond (s : State) (f : Fld) (i n x : Nat) : (s.fwrap f i n x).pond = s.pond := rfl
@[simp] theorem State.fwrap_pondPoison (s : State) (f : Fld) (i n x : Nat) : (s.fwrap f i n x).pondPoison = s.pondPoison := rfl
@[simp] theorem State.fwrap_qs (s : State) (f : Fld) (i n x : Nat) : (s.fwrap f i n x).qs = s.qs := rfl
@[simp] theorem State.fwrap_cls (s : State) (f : Fld) (i n x : Nat) : (s.fwrap f i n x).cls = s.cls := rfl
@[simp] theorem State.fwrap_streams (s : State) (f : Fld) (i n x : Nat) : (s.fwrap f i n x).streams = s.streams := rfl
@[simp] theorem State.fwrap_ipId (s : State) (f : Fld) (i n x : Nat) : (s.fwrap f i n x).ipId = s.ipId := rfl
@[simp] theorem State.fwrap_sch (s : State) (f : Fld) (i n x : Nat) : (s.fwrap f i n x).sch = s.sch := rfl
@[simp] theorem State.fwrap_ports (s : State) (f : Fld) (i n x : Nat) : (s.fwrap f i n x).ports = s.ports := rfl
@[simp] theorem State.fwrap_mg (s : State) (f : Fld) (i n x : Nat) : (s.fwrap f i n x).mg = s.mg := rfl
@[simp] theorem State.fwrap_tideNow (s : State) (f : Fld) (i n x : Nat) : (s.fwrap f i n x).tideNow = s.tideNow := rfl
@[simp] theorem State.fwrap_tide (s : State) (f : Fld) (i n x : Nat) : (s.fwrap f i n x).tide = s.tide := rfl
@[simp] theorem State.fwrap_mem (s : State) (f : Fld) (i n x : Nat) : (s.fwrap f i n x).mem = s.mem := rfl
@[simp] theorem State.fwrap_led (s : State) (f : Fld) (i n x : Nat) : (s.fwrap f i n x).led = s.led := rfl
@[simp] theorem State.fwrap_pol (s : State) (f : Fld) (i n x : Nat) : (s.fwrap f i n x).pol = s.pol := rfl
@[simp] theorem State.fwrap_meas (s : State) (f : Fld) (i n x : Nat) : (s.fwrap f i n x).meas = s.meas := rfl
@[simp] theorem State.fwrap_vk (s : State) (f : Fld) (i n x : Nat) : (s.fwrap f i n x).vk = s.vk := rfl
@[simp] theorem State.fwrap_press (s : State) (f : Fld) (i n x : Nat) : (s.fwrap f i n x).press = s.press := rfl
@[simp] theorem State.fwrap_pcie (s : State) (f : Fld) (i n x : Nat) : (s.fwrap f i n x).pcie = s.pcie := rfl
@[simp] theorem State.fwrap_power (s : State) (f : Fld) (i n x : Nat) : (s.fwrap f i n x).power = s.power := rfl
@[simp] theorem State.fwrap_i2c (s : State) (f : Fld) (i n x : Nat) : (s.fwrap f i n x).i2c = s.i2c := rfl
@[simp] theorem State.fwrap_trust (s : State) (f : Fld) (i n x : Nat) : (s.fwrap f i n x).trust = s.trust := rfl
@[simp] theorem State.fwrap_ras (s : State) (f : Fld) (i n x : Nat) : (s.fwrap f i n x).ras = s.ras := rfl
@[simp] theorem State.fwrap_out (s : State) (f : Fld) (i n x : Nat) : (s.fwrap f i n x).out = s.out := rfl
@[simp] theorem State.fwrap_fresh (s : State) (f : Fld) (i n x : Nat) : (s.fwrap f i n x).fresh = s.fresh := rfl
@[simp] theorem State.fwrap_pending (s : State) (f : Fld) (i n x : Nat) : (s.fwrap f i n x).pending = s.pending := rfl
@[simp] theorem State.fwrap_cget (s : State) (f : Fld) (i n x : Nat) (ct : Ctr) (j y : Nat) : (s.fwrap f i n x).cget ct j y = s.cget ct j y := rfl
@[simp] theorem State.fwrap_stone (s : State) (f : Fld) (i n x : Nat) (m : Nat) : (s.fwrap f i n x).stone m = s.stone m := rfl

/-! ### cset -/

@[simp] theorem State.cset_fuse (s : State) (c : Ctr) (i v x : Nat) : (s.cset c i v x).fuse = s.fuse := rfl
@[simp] theorem State.cset_regs (s : State) (c : Ctr) (i v x : Nat) : (s.cset c i v x).regs = s.regs := rfl
@[simp] theorem State.cset_latch (s : State) (c : Ctr) (i v x : Nat) : (s.cset c i v x).latch = s.latch := rfl
@[simp] theorem State.cset_shadow (s : State) (c : Ctr) (i v x : Nat) : (s.cset c i v x).shadow = s.shadow := rfl
@[simp] theorem State.cset_flog (s : State) (c : Ctr) (i v x : Nat) : (s.cset c i v x).flog = s.flog := rfl
@[simp] theorem State.cset_fab (s : State) (c : Ctr) (i v x : Nat) : (s.cset c i v x).fab = s.fab := rfl
@[simp] theorem State.cset_stones (s : State) (c : Ctr) (i v x : Nat) : (s.cset c i v x).stones = s.stones := rfl
@[simp] theorem State.cset_mills (s : State) (c : Ctr) (i v x : Nat) : (s.cset c i v x).mills = s.mills := rfl
@[simp] theorem State.cset_image (s : State) (c : Ctr) (i v x : Nat) : (s.cset c i v x).image = s.image := rfl
@[simp] theorem State.cset_pond (s : State) (c : Ctr) (i v x : Nat) : (s.cset c i v x).pond = s.pond := rfl
@[simp] theorem State.cset_pondPoison (s : State) (c : Ctr) (i v x : Nat) : (s.cset c i v x).pondPoison = s.pondPoison := rfl
@[simp] theorem State.cset_qs (s : State) (c : Ctr) (i v x : Nat) : (s.cset c i v x).qs = s.qs := rfl
@[simp] theorem State.cset_cls (s : State) (c : Ctr) (i v x : Nat) : (s.cset c i v x).cls = s.cls := rfl
@[simp] theorem State.cset_streams (s : State) (c : Ctr) (i v x : Nat) : (s.cset c i v x).streams = s.streams := rfl
@[simp] theorem State.cset_ipId (s : State) (c : Ctr) (i v x : Nat) : (s.cset c i v x).ipId = s.ipId := rfl
@[simp] theorem State.cset_sch (s : State) (c : Ctr) (i v x : Nat) : (s.cset c i v x).sch = s.sch := rfl
@[simp] theorem State.cset_ports (s : State) (c : Ctr) (i v x : Nat) : (s.cset c i v x).ports = s.ports := rfl
@[simp] theorem State.cset_mg (s : State) (c : Ctr) (i v x : Nat) : (s.cset c i v x).mg = s.mg := rfl
@[simp] theorem State.cset_tideNow (s : State) (c : Ctr) (i v x : Nat) : (s.cset c i v x).tideNow = s.tideNow := rfl
@[simp] theorem State.cset_tide (s : State) (c : Ctr) (i v x : Nat) : (s.cset c i v x).tide = s.tide := rfl
@[simp] theorem State.cset_mem (s : State) (c : Ctr) (i v x : Nat) : (s.cset c i v x).mem = s.mem := rfl
@[simp] theorem State.cset_led (s : State) (c : Ctr) (i v x : Nat) : (s.cset c i v x).led = s.led := rfl
@[simp] theorem State.cset_pol (s : State) (c : Ctr) (i v x : Nat) : (s.cset c i v x).pol = s.pol := rfl
@[simp] theorem State.cset_meas (s : State) (c : Ctr) (i v x : Nat) : (s.cset c i v x).meas = s.meas := rfl
@[simp] theorem State.cset_vk (s : State) (c : Ctr) (i v x : Nat) : (s.cset c i v x).vk = s.vk := rfl
@[simp] theorem State.cset_press (s : State) (c : Ctr) (i v x : Nat) : (s.cset c i v x).press = s.press := rfl
@[simp] theorem State.cset_pcie (s : State) (c : Ctr) (i v x : Nat) : (s.cset c i v x).pcie = s.pcie := rfl
@[simp] theorem State.cset_power (s : State) (c : Ctr) (i v x : Nat) : (s.cset c i v x).power = s.power := rfl
@[simp] theorem State.cset_i2c (s : State) (c : Ctr) (i v x : Nat) : (s.cset c i v x).i2c = s.i2c := rfl
@[simp] theorem State.cset_trust (s : State) (c : Ctr) (i v x : Nat) : (s.cset c i v x).trust = s.trust := rfl
@[simp] theorem State.cset_ras (s : State) (c : Ctr) (i v x : Nat) : (s.cset c i v x).ras = s.ras := rfl
@[simp] theorem State.cset_out (s : State) (c : Ctr) (i v x : Nat) : (s.cset c i v x).out = s.out := rfl
@[simp] theorem State.cset_fresh (s : State) (c : Ctr) (i v x : Nat) : (s.cset c i v x).fresh = s.fresh := rfl
@[simp] theorem State.cset_pending (s : State) (c : Ctr) (i v x : Nat) : (s.cset c i v x).pending = s.pending := rfl
@[simp] theorem State.cset_rd (s : State) (c : Ctr) (i v x : Nat) (ty j off : Nat) : (s.cset c i v x).rd ty j off = s.rd ty j off := rfl
@[simp] theorem State.cset_fget (s : State) (c : Ctr) (i v x : Nat) (fl : Fld) (j y : Nat) : (s.cset c i v x).fget fl j y = s.fget fl j y := rfl
@[simp] theorem State.cset_fbit (s : State) (c : Ctr) (i v x : Nat) (fl : Fld) (j y : Nat) : (s.cset c i v x).fbit fl j y = s.fbit fl j y := rfl
@[simp] theorem State.cset_stone (s : State) (c : Ctr) (i v x : Nat) (m : Nat) : (s.cset c i v x).stone m = s.stone m := rfl

/-! ### cinc -/

@[simp] theorem State.cinc_fuse (s : State) (c : Ctr) (i n x : Nat) : (s.cinc c i n x).fuse = s.fuse := rfl
@[simp] theorem State.cinc_regs (s : State) (c : Ctr) (i n x : Nat) : (s.cinc c i n x).regs = s.regs := rfl
@[simp] theorem State.cinc_latch (s : State) (c : Ctr) (i n x : Nat) : (s.cinc c i n x).latch = s.latch := rfl
@[simp] theorem State.cinc_shadow (s : State) (c : Ctr) (i n x : Nat) : (s.cinc c i n x).shadow = s.shadow := rfl
@[simp] theorem State.cinc_flog (s : State) (c : Ctr) (i n x : Nat) : (s.cinc c i n x).flog = s.flog := rfl
@[simp] theorem State.cinc_fab (s : State) (c : Ctr) (i n x : Nat) : (s.cinc c i n x).fab = s.fab := rfl
@[simp] theorem State.cinc_stones (s : State) (c : Ctr) (i n x : Nat) : (s.cinc c i n x).stones = s.stones := rfl
@[simp] theorem State.cinc_mills (s : State) (c : Ctr) (i n x : Nat) : (s.cinc c i n x).mills = s.mills := rfl
@[simp] theorem State.cinc_image (s : State) (c : Ctr) (i n x : Nat) : (s.cinc c i n x).image = s.image := rfl
@[simp] theorem State.cinc_pond (s : State) (c : Ctr) (i n x : Nat) : (s.cinc c i n x).pond = s.pond := rfl
@[simp] theorem State.cinc_pondPoison (s : State) (c : Ctr) (i n x : Nat) : (s.cinc c i n x).pondPoison = s.pondPoison := rfl
@[simp] theorem State.cinc_qs (s : State) (c : Ctr) (i n x : Nat) : (s.cinc c i n x).qs = s.qs := rfl
@[simp] theorem State.cinc_cls (s : State) (c : Ctr) (i n x : Nat) : (s.cinc c i n x).cls = s.cls := rfl
@[simp] theorem State.cinc_streams (s : State) (c : Ctr) (i n x : Nat) : (s.cinc c i n x).streams = s.streams := rfl
@[simp] theorem State.cinc_ipId (s : State) (c : Ctr) (i n x : Nat) : (s.cinc c i n x).ipId = s.ipId := rfl
@[simp] theorem State.cinc_sch (s : State) (c : Ctr) (i n x : Nat) : (s.cinc c i n x).sch = s.sch := rfl
@[simp] theorem State.cinc_ports (s : State) (c : Ctr) (i n x : Nat) : (s.cinc c i n x).ports = s.ports := rfl
@[simp] theorem State.cinc_mg (s : State) (c : Ctr) (i n x : Nat) : (s.cinc c i n x).mg = s.mg := rfl
@[simp] theorem State.cinc_tideNow (s : State) (c : Ctr) (i n x : Nat) : (s.cinc c i n x).tideNow = s.tideNow := rfl
@[simp] theorem State.cinc_tide (s : State) (c : Ctr) (i n x : Nat) : (s.cinc c i n x).tide = s.tide := rfl
@[simp] theorem State.cinc_mem (s : State) (c : Ctr) (i n x : Nat) : (s.cinc c i n x).mem = s.mem := rfl
@[simp] theorem State.cinc_led (s : State) (c : Ctr) (i n x : Nat) : (s.cinc c i n x).led = s.led := rfl
@[simp] theorem State.cinc_pol (s : State) (c : Ctr) (i n x : Nat) : (s.cinc c i n x).pol = s.pol := rfl
@[simp] theorem State.cinc_meas (s : State) (c : Ctr) (i n x : Nat) : (s.cinc c i n x).meas = s.meas := rfl
@[simp] theorem State.cinc_vk (s : State) (c : Ctr) (i n x : Nat) : (s.cinc c i n x).vk = s.vk := rfl
@[simp] theorem State.cinc_press (s : State) (c : Ctr) (i n x : Nat) : (s.cinc c i n x).press = s.press := rfl
@[simp] theorem State.cinc_pcie (s : State) (c : Ctr) (i n x : Nat) : (s.cinc c i n x).pcie = s.pcie := rfl
@[simp] theorem State.cinc_power (s : State) (c : Ctr) (i n x : Nat) : (s.cinc c i n x).power = s.power := rfl
@[simp] theorem State.cinc_i2c (s : State) (c : Ctr) (i n x : Nat) : (s.cinc c i n x).i2c = s.i2c := rfl
@[simp] theorem State.cinc_trust (s : State) (c : Ctr) (i n x : Nat) : (s.cinc c i n x).trust = s.trust := rfl
@[simp] theorem State.cinc_ras (s : State) (c : Ctr) (i n x : Nat) : (s.cinc c i n x).ras = s.ras := rfl
@[simp] theorem State.cinc_out (s : State) (c : Ctr) (i n x : Nat) : (s.cinc c i n x).out = s.out := rfl
@[simp] theorem State.cinc_fresh (s : State) (c : Ctr) (i n x : Nat) : (s.cinc c i n x).fresh = s.fresh := rfl
@[simp] theorem State.cinc_pending (s : State) (c : Ctr) (i n x : Nat) : (s.cinc c i n x).pending = s.pending := rfl
@[simp] theorem State.cinc_rd (s : State) (c : Ctr) (i n x : Nat) (ty j off : Nat) : (s.cinc c i n x).rd ty j off = s.rd ty j off := rfl
@[simp] theorem State.cinc_fget (s : State) (c : Ctr) (i n x : Nat) (fl : Fld) (j y : Nat) : (s.cinc c i n x).fget fl j y = s.fget fl j y := rfl
@[simp] theorem State.cinc_fbit (s : State) (c : Ctr) (i n x : Nat) (fl : Fld) (j y : Nat) : (s.cinc c i n x).fbit fl j y = s.fbit fl j y := rfl
@[simp] theorem State.cinc_stone (s : State) (c : Ctr) (i n x : Nat) (m : Nat) : (s.cinc c i n x).stone m = s.stone m := rfl

/-! ### resetPage -/

@[simp] theorem State.resetPage_fuse (s : State) (t i : Nat) : (s.resetPage t i).fuse = s.fuse := rfl
@[simp] theorem State.resetPage_shadow (s : State) (t i : Nat) : (s.resetPage t i).shadow = s.shadow := rfl
@[simp] theorem State.resetPage_flog (s : State) (t i : Nat) : (s.resetPage t i).flog = s.flog := rfl
@[simp] theorem State.resetPage_fab (s : State) (t i : Nat) : (s.resetPage t i).fab = s.fab := rfl
@[simp] theorem State.resetPage_stones (s : State) (t i : Nat) : (s.resetPage t i).stones = s.stones := rfl
@[simp] theorem State.resetPage_mills (s : State) (t i : Nat) : (s.resetPage t i).mills = s.mills := rfl
@[simp] theorem State.resetPage_image (s : State) (t i : Nat) : (s.resetPage t i).image = s.image := rfl
@[simp] theorem State.resetPage_pond (s : State) (t i : Nat) : (s.resetPage t i).pond = s.pond := rfl
@[simp] theorem State.resetPage_pondPoison (s : State) (t i : Nat) : (s.resetPage t i).pondPoison = s.pondPoison := rfl
@[simp] theorem State.resetPage_qs (s : State) (t i : Nat) : (s.resetPage t i).qs = s.qs := rfl
@[simp] theorem State.resetPage_cls (s : State) (t i : Nat) : (s.resetPage t i).cls = s.cls := rfl
@[simp] theorem State.resetPage_streams (s : State) (t i : Nat) : (s.resetPage t i).streams = s.streams := rfl
@[simp] theorem State.resetPage_ipId (s : State) (t i : Nat) : (s.resetPage t i).ipId = s.ipId := rfl
@[simp] theorem State.resetPage_sch (s : State) (t i : Nat) : (s.resetPage t i).sch = s.sch := rfl
@[simp] theorem State.resetPage_ports (s : State) (t i : Nat) : (s.resetPage t i).ports = s.ports := rfl
@[simp] theorem State.resetPage_mg (s : State) (t i : Nat) : (s.resetPage t i).mg = s.mg := rfl
@[simp] theorem State.resetPage_tideNow (s : State) (t i : Nat) : (s.resetPage t i).tideNow = s.tideNow := rfl
@[simp] theorem State.resetPage_tide (s : State) (t i : Nat) : (s.resetPage t i).tide = s.tide := rfl
@[simp] theorem State.resetPage_mem (s : State) (t i : Nat) : (s.resetPage t i).mem = s.mem := rfl
@[simp] theorem State.resetPage_led (s : State) (t i : Nat) : (s.resetPage t i).led = s.led := rfl
@[simp] theorem State.resetPage_pol (s : State) (t i : Nat) : (s.resetPage t i).pol = s.pol := rfl
@[simp] theorem State.resetPage_meas (s : State) (t i : Nat) : (s.resetPage t i).meas = s.meas := rfl
@[simp] theorem State.resetPage_vk (s : State) (t i : Nat) : (s.resetPage t i).vk = s.vk := rfl
@[simp] theorem State.resetPage_press (s : State) (t i : Nat) : (s.resetPage t i).press = s.press := rfl
@[simp] theorem State.resetPage_pcie (s : State) (t i : Nat) : (s.resetPage t i).pcie = s.pcie := rfl
@[simp] theorem State.resetPage_power (s : State) (t i : Nat) : (s.resetPage t i).power = s.power := rfl
@[simp] theorem State.resetPage_i2c (s : State) (t i : Nat) : (s.resetPage t i).i2c = s.i2c := rfl
@[simp] theorem State.resetPage_trust (s : State) (t i : Nat) : (s.resetPage t i).trust = s.trust := rfl
@[simp] theorem State.resetPage_ras (s : State) (t i : Nat) : (s.resetPage t i).ras = s.ras := rfl
@[simp] theorem State.resetPage_out (s : State) (t i : Nat) : (s.resetPage t i).out = s.out := rfl
@[simp] theorem State.resetPage_fresh (s : State) (t i : Nat) : (s.resetPage t i).fresh = s.fresh := rfl
@[simp] theorem State.resetPage_pending (s : State) (t i : Nat) : (s.resetPage t i).pending = s.pending := rfl

/-! ### emit -/

@[simp] theorem State.emit_fuse (s : State) (o : Out) : (s.emit o).fuse = s.fuse := rfl
@[simp] theorem State.emit_regs (s : State) (o : Out) : (s.emit o).regs = s.regs := rfl
@[simp] theorem State.emit_ctrs (s : State) (o : Out) : (s.emit o).ctrs = s.ctrs := rfl
@[simp] theorem State.emit_latch (s : State) (o : Out) : (s.emit o).latch = s.latch := rfl
@[simp] theorem State.emit_shadow (s : State) (o : Out) : (s.emit o).shadow = s.shadow := rfl
@[simp] theorem State.emit_flog (s : State) (o : Out) : (s.emit o).flog = s.flog := rfl
@[simp] theorem State.emit_fab (s : State) (o : Out) : (s.emit o).fab = s.fab := rfl
@[simp] theorem State.emit_stones (s : State) (o : Out) : (s.emit o).stones = s.stones := rfl
@[simp] theorem State.emit_mills (s : State) (o : Out) : (s.emit o).mills = s.mills := rfl
@[simp] theorem State.emit_image (s : State) (o : Out) : (s.emit o).image = s.image := rfl
@[simp] theorem State.emit_pond (s : State) (o : Out) : (s.emit o).pond = s.pond := rfl
@[simp] theorem State.emit_pondPoison (s : State) (o : Out) : (s.emit o).pondPoison = s.pondPoison := rfl
@[simp] theorem State.emit_qs (s : State) (o : Out) : (s.emit o).qs = s.qs := rfl
@[simp] theorem State.emit_cls (s : State) (o : Out) : (s.emit o).cls = s.cls := rfl
@[simp] theorem State.emit_streams (s : State) (o : Out) : (s.emit o).streams = s.streams := rfl
@[simp] theorem State.emit_ipId (s : State) (o : Out) : (s.emit o).ipId = s.ipId := rfl
@[simp] theorem State.emit_sch (s : State) (o : Out) : (s.emit o).sch = s.sch := rfl
@[simp] theorem State.emit_ports (s : State) (o : Out) : (s.emit o).ports = s.ports := rfl
@[simp] theorem State.emit_mg (s : State) (o : Out) : (s.emit o).mg = s.mg := rfl
@[simp] theorem State.emit_tideNow (s : State) (o : Out) : (s.emit o).tideNow = s.tideNow := rfl
@[simp] theorem State.emit_tide (s : State) (o : Out) : (s.emit o).tide = s.tide := rfl
@[simp] theorem State.emit_mem (s : State) (o : Out) : (s.emit o).mem = s.mem := rfl
@[simp] theorem State.emit_led (s : State) (o : Out) : (s.emit o).led = s.led := rfl
@[simp] theorem State.emit_pol (s : State) (o : Out) : (s.emit o).pol = s.pol := rfl
@[simp] theorem State.emit_meas (s : State) (o : Out) : (s.emit o).meas = s.meas := rfl
@[simp] theorem State.emit_vk (s : State) (o : Out) : (s.emit o).vk = s.vk := rfl
@[simp] theorem State.emit_press (s : State) (o : Out) : (s.emit o).press = s.press := rfl
@[simp] theorem State.emit_pcie (s : State) (o : Out) : (s.emit o).pcie = s.pcie := rfl
@[simp] theorem State.emit_power (s : State) (o : Out) : (s.emit o).power = s.power := rfl
@[simp] theorem State.emit_i2c (s : State) (o : Out) : (s.emit o).i2c = s.i2c := rfl
@[simp] theorem State.emit_trust (s : State) (o : Out) : (s.emit o).trust = s.trust := rfl
@[simp] theorem State.emit_ras (s : State) (o : Out) : (s.emit o).ras = s.ras := rfl
@[simp] theorem State.emit_fresh (s : State) (o : Out) : (s.emit o).fresh = s.fresh := rfl
@[simp] theorem State.emit_pending (s : State) (o : Out) : (s.emit o).pending = s.pending := rfl
@[simp] theorem State.emit_rd (s : State) (o : Out) (ty j off : Nat) : (s.emit o).rd ty j off = s.rd ty j off := rfl
@[simp] theorem State.emit_fget (s : State) (o : Out) (fl : Fld) (j y : Nat) : (s.emit o).fget fl j y = s.fget fl j y := rfl
@[simp] theorem State.emit_fbit (s : State) (o : Out) (fl : Fld) (j y : Nat) : (s.emit o).fbit fl j y = s.fbit fl j y := rfl
@[simp] theorem State.emit_cget (s : State) (o : Out) (ct : Ctr) (j y : Nat) : (s.emit o).cget ct j y = s.cget ct j y := rfl
@[simp] theorem State.emit_stone (s : State) (o : Out) (m : Nat) : (s.emit o).stone m = s.stone m := rfl

/-! ### emits -/

@[simp] theorem State.emits_fuse (s : State) (l : List Out) : (s.emits l).fuse = s.fuse := rfl
@[simp] theorem State.emits_regs (s : State) (l : List Out) : (s.emits l).regs = s.regs := rfl
@[simp] theorem State.emits_ctrs (s : State) (l : List Out) : (s.emits l).ctrs = s.ctrs := rfl
@[simp] theorem State.emits_latch (s : State) (l : List Out) : (s.emits l).latch = s.latch := rfl
@[simp] theorem State.emits_shadow (s : State) (l : List Out) : (s.emits l).shadow = s.shadow := rfl
@[simp] theorem State.emits_flog (s : State) (l : List Out) : (s.emits l).flog = s.flog := rfl
@[simp] theorem State.emits_fab (s : State) (l : List Out) : (s.emits l).fab = s.fab := rfl
@[simp] theorem State.emits_stones (s : State) (l : List Out) : (s.emits l).stones = s.stones := rfl
@[simp] theorem State.emits_mills (s : State) (l : List Out) : (s.emits l).mills = s.mills := rfl
@[simp] theorem State.emits_image (s : State) (l : List Out) : (s.emits l).image = s.image := rfl
@[simp] theorem State.emits_pond (s : State) (l : List Out) : (s.emits l).pond = s.pond := rfl
@[simp] theorem State.emits_pondPoison (s : State) (l : List Out) : (s.emits l).pondPoison = s.pondPoison := rfl
@[simp] theorem State.emits_qs (s : State) (l : List Out) : (s.emits l).qs = s.qs := rfl
@[simp] theorem State.emits_cls (s : State) (l : List Out) : (s.emits l).cls = s.cls := rfl
@[simp] theorem State.emits_streams (s : State) (l : List Out) : (s.emits l).streams = s.streams := rfl
@[simp] theorem State.emits_ipId (s : State) (l : List Out) : (s.emits l).ipId = s.ipId := rfl
@[simp] theorem State.emits_sch (s : State) (l : List Out) : (s.emits l).sch = s.sch := rfl
@[simp] theorem State.emits_ports (s : State) (l : List Out) : (s.emits l).ports = s.ports := rfl
@[simp] theorem State.emits_mg (s : State) (l : List Out) : (s.emits l).mg = s.mg := rfl
@[simp] theorem State.emits_tideNow (s : State) (l : List Out) : (s.emits l).tideNow = s.tideNow := rfl
@[simp] theorem State.emits_tide (s : State) (l : List Out) : (s.emits l).tide = s.tide := rfl
@[simp] theorem State.emits_mem (s : State) (l : List Out) : (s.emits l).mem = s.mem := rfl
@[simp] theorem State.emits_led (s : State) (l : List Out) : (s.emits l).led = s.led := rfl
@[simp] theorem State.emits_pol (s : State) (l : List Out) : (s.emits l).pol = s.pol := rfl
@[simp] theorem State.emits_meas (s : State) (l : List Out) : (s.emits l).meas = s.meas := rfl
@[simp] theorem State.emits_vk (s : State) (l : List Out) : (s.emits l).vk = s.vk := rfl
@[simp] theorem State.emits_press (s : State) (l : List Out) : (s.emits l).press = s.press := rfl
@[simp] theorem State.emits_pcie (s : State) (l : List Out) : (s.emits l).pcie = s.pcie := rfl
@[simp] theorem State.emits_power (s : State) (l : List Out) : (s.emits l).power = s.power := rfl
@[simp] theorem State.emits_i2c (s : State) (l : List Out) : (s.emits l).i2c = s.i2c := rfl
@[simp] theorem State.emits_trust (s : State) (l : List Out) : (s.emits l).trust = s.trust := rfl
@[simp] theorem State.emits_ras (s : State) (l : List Out) : (s.emits l).ras = s.ras := rfl
@[simp] theorem State.emits_fresh (s : State) (l : List Out) : (s.emits l).fresh = s.fresh := rfl
@[simp] theorem State.emits_pending (s : State) (l : List Out) : (s.emits l).pending = s.pending := rfl
@[simp] theorem State.emits_rd (s : State) (l : List Out) (ty j off : Nat) : (s.emits l).rd ty j off = s.rd ty j off := rfl
@[simp] theorem State.emits_fget (s : State) (l : List Out) (fl : Fld) (j y : Nat) : (s.emits l).fget fl j y = s.fget fl j y := rfl
@[simp] theorem State.emits_fbit (s : State) (l : List Out) (fl : Fld) (j y : Nat) : (s.emits l).fbit fl j y = s.fbit fl j y := rfl
@[simp] theorem State.emits_cget (s : State) (l : List Out) (ct : Ctr) (j y : Nat) : (s.emits l).cget ct j y = s.cget ct j y := rfl
@[simp] theorem State.emits_stone (s : State) (l : List Out) (m : Nat) : (s.emits l).stone m = s.stone m := rfl

/-! ### takeFree -/

@[simp] theorem State.takeFree_fuse (s : State) : (s.takeFree.2).fuse = s.fuse := rfl
@[simp] theorem State.takeFree_regs (s : State) : (s.takeFree.2).regs = s.regs := rfl
@[simp] theorem State.takeFree_ctrs (s : State) : (s.takeFree.2).ctrs = s.ctrs := rfl
@[simp] theorem State.takeFree_latch (s : State) : (s.takeFree.2).latch = s.latch := rfl
@[simp] theorem State.takeFree_shadow (s : State) : (s.takeFree.2).shadow = s.shadow := rfl
@[simp] theorem State.takeFree_flog (s : State) : (s.takeFree.2).flog = s.flog := rfl
@[simp] theorem State.takeFree_fab (s : State) : (s.takeFree.2).fab = s.fab := rfl
@[simp] theorem State.takeFree_stones (s : State) : (s.takeFree.2).stones = s.stones := rfl
@[simp] theorem State.takeFree_mills (s : State) : (s.takeFree.2).mills = s.mills := rfl
@[simp] theorem State.takeFree_image (s : State) : (s.takeFree.2).image = s.image := rfl
@[simp] theorem State.takeFree_pond (s : State) : (s.takeFree.2).pond = s.pond := rfl
@[simp] theorem State.takeFree_pondPoison (s : State) : (s.takeFree.2).pondPoison = s.pondPoison := rfl
@[simp] theorem State.takeFree_qs (s : State) : (s.takeFree.2).qs = s.qs := rfl
@[simp] theorem State.takeFree_cls (s : State) : (s.takeFree.2).cls = s.cls := rfl
@[simp] theorem State.takeFree_streams (s : State) : (s.takeFree.2).streams = s.streams := rfl
@[simp] theorem State.takeFree_ipId (s : State) : (s.takeFree.2).ipId = s.ipId := rfl
@[simp] theorem State.takeFree_sch (s : State) : (s.takeFree.2).sch = s.sch := rfl
@[simp] theorem State.takeFree_ports (s : State) : (s.takeFree.2).ports = s.ports := rfl
@[simp] theorem State.takeFree_mg (s : State) : (s.takeFree.2).mg = s.mg := rfl
@[simp] theorem State.takeFree_tideNow (s : State) : (s.takeFree.2).tideNow = s.tideNow := rfl
@[simp] theorem State.takeFree_tide (s : State) : (s.takeFree.2).tide = s.tide := rfl
@[simp] theorem State.takeFree_mem (s : State) : (s.takeFree.2).mem = s.mem := rfl
@[simp] theorem State.takeFree_led (s : State) : (s.takeFree.2).led = s.led := rfl
@[simp] theorem State.takeFree_pol (s : State) : (s.takeFree.2).pol = s.pol := rfl
@[simp] theorem State.takeFree_meas (s : State) : (s.takeFree.2).meas = s.meas := rfl
@[simp] theorem State.takeFree_vk (s : State) : (s.takeFree.2).vk = s.vk := rfl
@[simp] theorem State.takeFree_press (s : State) : (s.takeFree.2).press = s.press := rfl
@[simp] theorem State.takeFree_pcie (s : State) : (s.takeFree.2).pcie = s.pcie := rfl
@[simp] theorem State.takeFree_power (s : State) : (s.takeFree.2).power = s.power := rfl
@[simp] theorem State.takeFree_i2c (s : State) : (s.takeFree.2).i2c = s.i2c := rfl
@[simp] theorem State.takeFree_trust (s : State) : (s.takeFree.2).trust = s.trust := rfl
@[simp] theorem State.takeFree_ras (s : State) : (s.takeFree.2).ras = s.ras := rfl
@[simp] theorem State.takeFree_out (s : State) : (s.takeFree.2).out = s.out := rfl
@[simp] theorem State.takeFree_pending (s : State) : (s.takeFree.2).pending = s.pending := rfl
@[simp] theorem State.takeFree_rd (s : State) (ty j off : Nat) : (s.takeFree.2).rd ty j off = s.rd ty j off := rfl
@[simp] theorem State.takeFree_fget (s : State) (fl : Fld) (j y : Nat) : (s.takeFree.2).fget fl j y = s.fget fl j y := rfl
@[simp] theorem State.takeFree_fbit (s : State) (fl : Fld) (j y : Nat) : (s.takeFree.2).fbit fl j y = s.fbit fl j y := rfl
@[simp] theorem State.takeFree_cget (s : State) (ct : Ctr) (j y : Nat) : (s.takeFree.2).cget ct j y = s.cget ct j y := rfl
@[simp] theorem State.takeFree_stone (s : State) (m : Nat) : (s.takeFree.2).stone m = s.stone m := rfl

/-! ### pondPut -/

@[simp] theorem State.pondPut_fuse (s : State) (a : Nat) (l : List Byte) : ((s.pondPut a l).1).fuse = s.fuse := rfl
@[simp] theorem State.pondPut_regs (s : State) (a : Nat) (l : List Byte) : ((s.pondPut a l).1).regs = s.regs := rfl
@[simp] theorem State.pondPut_ctrs (s : State) (a : Nat) (l : List Byte) : ((s.pondPut a l).1).ctrs = s.ctrs := rfl
@[simp] theorem State.pondPut_latch (s : State) (a : Nat) (l : List Byte) : ((s.pondPut a l).1).latch = s.latch := rfl
@[simp] theorem State.pondPut_shadow (s : State) (a : Nat) (l : List Byte) : ((s.pondPut a l).1).shadow = s.shadow := rfl
@[simp] theorem State.pondPut_flog (s : State) (a : Nat) (l : List Byte) : ((s.pondPut a l).1).flog = s.flog := rfl
@[simp] theorem State.pondPut_fab (s : State) (a : Nat) (l : List Byte) : ((s.pondPut a l).1).fab = s.fab := rfl
@[simp] theorem State.pondPut_stones (s : State) (a : Nat) (l : List Byte) : ((s.pondPut a l).1).stones = s.stones := rfl
@[simp] theorem State.pondPut_mills (s : State) (a : Nat) (l : List Byte) : ((s.pondPut a l).1).mills = s.mills := rfl
@[simp] theorem State.pondPut_image (s : State) (a : Nat) (l : List Byte) : ((s.pondPut a l).1).image = s.image := rfl
@[simp] theorem State.pondPut_qs (s : State) (a : Nat) (l : List Byte) : ((s.pondPut a l).1).qs = s.qs := rfl
@[simp] theorem State.pondPut_cls (s : State) (a : Nat) (l : List Byte) : ((s.pondPut a l).1).cls = s.cls := rfl
@[simp] theorem State.pondPut_streams (s : State) (a : Nat) (l : List Byte) : ((s.pondPut a l).1).streams = s.streams := rfl
@[simp] theorem State.pondPut_ipId (s : State) (a : Nat) (l : List Byte) : ((s.pondPut a l).1).ipId = s.ipId := rfl
@[simp] theorem State.pondPut_sch (s : State) (a : Nat) (l : List Byte) : ((s.pondPut a l).1).sch = s.sch := rfl
@[simp] theorem State.pondPut_ports (s : State) (a : Nat) (l : List Byte) : ((s.pondPut a l).1).ports = s.ports := rfl
@[simp] theorem State.pondPut_mg (s : State) (a : Nat) (l : List Byte) : ((s.pondPut a l).1).mg = s.mg := rfl
@[simp] theorem State.pondPut_tideNow (s : State) (a : Nat) (l : List Byte) : ((s.pondPut a l).1).tideNow = s.tideNow := rfl
@[simp] theorem State.pondPut_tide (s : State) (a : Nat) (l : List Byte) : ((s.pondPut a l).1).tide = s.tide := rfl
@[simp] theorem State.pondPut_mem (s : State) (a : Nat) (l : List Byte) : ((s.pondPut a l).1).mem = s.mem := rfl
@[simp] theorem State.pondPut_led (s : State) (a : Nat) (l : List Byte) : ((s.pondPut a l).1).led = s.led := rfl
@[simp] theorem State.pondPut_pol (s : State) (a : Nat) (l : List Byte) : ((s.pondPut a l).1).pol = s.pol := rfl
@[simp] theorem State.pondPut_meas (s : State) (a : Nat) (l : List Byte) : ((s.pondPut a l).1).meas = s.meas := rfl
@[simp] theorem State.pondPut_vk (s : State) (a : Nat) (l : List Byte) : ((s.pondPut a l).1).vk = s.vk := rfl
@[simp] theorem State.pondPut_press (s : State) (a : Nat) (l : List Byte) : ((s.pondPut a l).1).press = s.press := rfl
@[simp] theorem State.pondPut_pcie (s : State) (a : Nat) (l : List Byte) : ((s.pondPut a l).1).pcie = s.pcie := rfl
@[simp] theorem State.pondPut_power (s : State) (a : Nat) (l : List Byte) : ((s.pondPut a l).1).power = s.power := rfl
@[simp] theorem State.pondPut_i2c (s : State) (a : Nat) (l : List Byte) : ((s.pondPut a l).1).i2c = s.i2c := rfl
@[simp] theorem State.pondPut_trust (s : State) (a : Nat) (l : List Byte) : ((s.pondPut a l).1).trust = s.trust := rfl
@[simp] theorem State.pondPut_ras (s : State) (a : Nat) (l : List Byte) : ((s.pondPut a l).1).ras = s.ras := rfl
@[simp] theorem State.pondPut_out (s : State) (a : Nat) (l : List Byte) : ((s.pondPut a l).1).out = s.out := rfl
@[simp] theorem State.pondPut_fresh (s : State) (a : Nat) (l : List Byte) : ((s.pondPut a l).1).fresh = s.fresh := rfl
@[simp] theorem State.pondPut_pending (s : State) (a : Nat) (l : List Byte) : ((s.pondPut a l).1).pending = s.pending := rfl
@[simp] theorem State.pondPut_rd (s : State) (a : Nat) (l : List Byte) (ty j off : Nat) : ((s.pondPut a l).1).rd ty j off = s.rd ty j off := rfl
@[simp] theorem State.pondPut_fget (s : State) (a : Nat) (l : List Byte) (fl : Fld) (j y : Nat) : ((s.pondPut a l).1).fget fl j y = s.fget fl j y := rfl
@[simp] theorem State.pondPut_fbit (s : State) (a : Nat) (l : List Byte) (fl : Fld) (j y : Nat) : ((s.pondPut a l).1).fbit fl j y = s.fbit fl j y := rfl
@[simp] theorem State.pondPut_cget (s : State) (a : Nat) (l : List Byte) (ct : Ctr) (j y : Nat) : ((s.pondPut a l).1).cget ct j y = s.cget ct j y := rfl
@[simp] theorem State.pondPut_stone (s : State) (a : Nat) (l : List Byte) (m : Nat) : ((s.pondPut a l).1).stone m = s.stone m := rfl

/-! ### pondZero -/

@[simp] theorem State.pondZero_fuse (s : State) (a n : Nat) : (s.pondZero a n).fuse = s.fuse := rfl
@[simp] theorem State.pondZero_regs (s : State) (a n : Nat) : (s.pondZero a n).regs = s.regs := rfl
@[simp] theorem State.pondZero_ctrs (s : State) (a n : Nat) : (s.pondZero a n).ctrs = s.ctrs := rfl
@[simp] theorem State.pondZero_latch (s : State) (a n : Nat) : (s.pondZero a n).latch = s.latch := rfl
@[simp] theorem State.pondZero_shadow (s : State) (a n : Nat) : (s.pondZero a n).shadow = s.shadow := rfl
@[simp] theorem State.pondZero_flog (s : State) (a n : Nat) : (s.pondZero a n).flog = s.flog := rfl
@[simp] theorem State.pondZero_fab (s : State) (a n : Nat) : (s.pondZero a n).fab = s.fab := rfl
@[simp] theorem State.pondZero_stones (s : State) (a n : Nat) : (s.pondZero a n).stones = s.stones := rfl
@[simp] theorem State.pondZero_mills (s : State) (a n : Nat) : (s.pondZero a n).mills = s.mills := rfl
@[simp] theorem State.pondZero_image (s : State) (a n : Nat) : (s.pondZero a n).image = s.image := rfl
@[simp] theorem State.pondZero_qs (s : State) (a n : Nat) : (s.pondZero a n).qs = s.qs := rfl
@[simp] theorem State.pondZero_cls (s : State) (a n : Nat) : (s.pondZero a n).cls = s.cls := rfl
@[simp] theorem State.pondZero_streams (s : State) (a n : Nat) : (s.pondZero a n).streams = s.streams := rfl
@[simp] theorem State.pondZero_ipId (s : State) (a n : Nat) : (s.pondZero a n).ipId = s.ipId := rfl
@[simp] theorem State.pondZero_sch (s : State) (a n : Nat) : (s.pondZero a n).sch = s.sch := rfl
@[simp] theorem State.pondZero_ports (s : State) (a n : Nat) : (s.pondZero a n).ports = s.ports := rfl
@[simp] theorem State.pondZero_mg (s : State) (a n : Nat) : (s.pondZero a n).mg = s.mg := rfl
@[simp] theorem State.pondZero_tideNow (s : State) (a n : Nat) : (s.pondZero a n).tideNow = s.tideNow := rfl
@[simp] theorem State.pondZero_tide (s : State) (a n : Nat) : (s.pondZero a n).tide = s.tide := rfl
@[simp] theorem State.pondZero_mem (s : State) (a n : Nat) : (s.pondZero a n).mem = s.mem := rfl
@[simp] theorem State.pondZero_led (s : State) (a n : Nat) : (s.pondZero a n).led = s.led := rfl
@[simp] theorem State.pondZero_pol (s : State) (a n : Nat) : (s.pondZero a n).pol = s.pol := rfl
@[simp] theorem State.pondZero_meas (s : State) (a n : Nat) : (s.pondZero a n).meas = s.meas := rfl
@[simp] theorem State.pondZero_vk (s : State) (a n : Nat) : (s.pondZero a n).vk = s.vk := rfl
@[simp] theorem State.pondZero_press (s : State) (a n : Nat) : (s.pondZero a n).press = s.press := rfl
@[simp] theorem State.pondZero_pcie (s : State) (a n : Nat) : (s.pondZero a n).pcie = s.pcie := rfl
@[simp] theorem State.pondZero_power (s : State) (a n : Nat) : (s.pondZero a n).power = s.power := rfl
@[simp] theorem State.pondZero_i2c (s : State) (a n : Nat) : (s.pondZero a n).i2c = s.i2c := rfl
@[simp] theorem State.pondZero_trust (s : State) (a n : Nat) : (s.pondZero a n).trust = s.trust := rfl
@[simp] theorem State.pondZero_ras (s : State) (a n : Nat) : (s.pondZero a n).ras = s.ras := rfl
@[simp] theorem State.pondZero_out (s : State) (a n : Nat) : (s.pondZero a n).out = s.out := rfl
@[simp] theorem State.pondZero_fresh (s : State) (a n : Nat) : (s.pondZero a n).fresh = s.fresh := rfl
@[simp] theorem State.pondZero_pending (s : State) (a n : Nat) : (s.pondZero a n).pending = s.pending := rfl
@[simp] theorem State.pondZero_rd (s : State) (a n : Nat) (ty j off : Nat) : (s.pondZero a n).rd ty j off = s.rd ty j off := rfl
@[simp] theorem State.pondZero_fget (s : State) (a n : Nat) (fl : Fld) (j y : Nat) : (s.pondZero a n).fget fl j y = s.fget fl j y := rfl
@[simp] theorem State.pondZero_fbit (s : State) (a n : Nat) (fl : Fld) (j y : Nat) : (s.pondZero a n).fbit fl j y = s.fbit fl j y := rfl
@[simp] theorem State.pondZero_cget (s : State) (a n : Nat) (ct : Ctr) (j y : Nat) : (s.pondZero a n).cget ct j y = s.cget ct j y := rfl
@[simp] theorem State.pondZero_stone (s : State) (a n : Nat) (m : Nat) : (s.pondZero a n).stone m = s.stone m := rfl

/-! ### setStone -/

@[simp] theorem State.setStone_fuse (s : State) (n : Nat) (x : Stone) : (s.setStone n x).fuse = s.fuse := rfl
@[simp] theorem State.setStone_regs (s : State) (n : Nat) (x : Stone) : (s.setStone n x).regs = s.regs := rfl
@[simp] theorem State.setStone_ctrs (s : State) (n : Nat) (x : Stone) : (s.setStone n x).ctrs = s.ctrs := rfl
@[simp] theorem State.setStone_latch (s : State) (n : Nat) (x : Stone) : (s.setStone n x).latch = s.latch := rfl
@[simp] theorem State.setStone_shadow (s : State) (n : Nat) (x : Stone) : (s.setStone n x).shadow = s.shadow := rfl
@[simp] theorem State.setStone_flog (s : State) (n : Nat) (x : Stone) : (s.setStone n x).flog = s.flog := rfl
@[simp] theorem State.setStone_fab (s : State) (n : Nat) (x : Stone) : (s.setStone n x).fab = s.fab := rfl
@[simp] theorem State.setStone_mills (s : State) (n : Nat) (x : Stone) : (s.setStone n x).mills = s.mills := rfl
@[simp] theorem State.setStone_image (s : State) (n : Nat) (x : Stone) : (s.setStone n x).image = s.image := rfl
@[simp] theorem State.setStone_pond (s : State) (n : Nat) (x : Stone) : (s.setStone n x).pond = s.pond := rfl
@[simp] theorem State.setStone_pondPoison (s : State) (n : Nat) (x : Stone) : (s.setStone n x).pondPoison = s.pondPoison := rfl
@[simp] theorem State.setStone_qs (s : State) (n : Nat) (x : Stone) : (s.setStone n x).qs = s.qs := rfl
@[simp] theorem State.setStone_cls (s : State) (n : Nat) (x : Stone) : (s.setStone n x).cls = s.cls := rfl
@[simp] theorem State.setStone_streams (s : State) (n : Nat) (x : Stone) : (s.setStone n x).streams = s.streams := rfl
@[simp] theorem State.setStone_ipId (s : State) (n : Nat) (x : Stone) : (s.setStone n x).ipId = s.ipId := rfl
@[simp] theorem State.setStone_sch (s : State) (n : Nat) (x : Stone) : (s.setStone n x).sch = s.sch := rfl
@[simp] theorem State.setStone_ports (s : State) (n : Nat) (x : Stone) : (s.setStone n x).ports = s.ports := rfl
@[simp] theorem State.setStone_mg (s : State) (n : Nat) (x : Stone) : (s.setStone n x).mg = s.mg := rfl
@[simp] theorem State.setStone_tideNow (s : State) (n : Nat) (x : Stone) : (s.setStone n x).tideNow = s.tideNow := rfl
@[simp] theorem State.setStone_tide (s : State) (n : Nat) (x : Stone) : (s.setStone n x).tide = s.tide := rfl
@[simp] theorem State.setStone_mem (s : State) (n : Nat) (x : Stone) : (s.setStone n x).mem = s.mem := rfl
@[simp] theorem State.setStone_led (s : State) (n : Nat) (x : Stone) : (s.setStone n x).led = s.led := rfl
@[simp] theorem State.setStone_pol (s : State) (n : Nat) (x : Stone) : (s.setStone n x).pol = s.pol := rfl
@[simp] theorem State.setStone_meas (s : State) (n : Nat) (x : Stone) : (s.setStone n x).meas = s.meas := rfl
@[simp] theorem State.setStone_vk (s : State) (n : Nat) (x : Stone) : (s.setStone n x).vk = s.vk := rfl
@[simp] theorem State.setStone_press (s : State) (n : Nat) (x : Stone) : (s.setStone n x).press = s.press := rfl
@[simp] theorem State.setStone_pcie (s : State) (n : Nat) (x : Stone) : (s.setStone n x).pcie = s.pcie := rfl
@[simp] theorem State.setStone_power (s : State) (n : Nat) (x : Stone) : (s.setStone n x).power = s.power := rfl
@[simp] theorem State.setStone_i2c (s : State) (n : Nat) (x : Stone) : (s.setStone n x).i2c = s.i2c := rfl
@[simp] theorem State.setStone_trust (s : State) (n : Nat) (x : Stone) : (s.setStone n x).trust = s.trust := rfl
@[simp] theorem State.setStone_ras (s : State) (n : Nat) (x : Stone) : (s.setStone n x).ras = s.ras := rfl
@[simp] theorem State.setStone_out (s : State) (n : Nat) (x : Stone) : (s.setStone n x).out = s.out := rfl
@[simp] theorem State.setStone_fresh (s : State) (n : Nat) (x : Stone) : (s.setStone n x).fresh = s.fresh := rfl
@[simp] theorem State.setStone_pending (s : State) (n : Nat) (x : Stone) : (s.setStone n x).pending = s.pending := rfl
@[simp] theorem State.setStone_rd (s : State) (n : Nat) (x : Stone) (ty j off : Nat) : (s.setStone n x).rd ty j off = s.rd ty j off := rfl
@[simp] theorem State.setStone_fget (s : State) (n : Nat) (x : Stone) (fl : Fld) (j y : Nat) : (s.setStone n x).fget fl j y = s.fget fl j y := rfl
@[simp] theorem State.setStone_fbit (s : State) (n : Nat) (x : Stone) (fl : Fld) (j y : Nat) : (s.setStone n x).fbit fl j y = s.fbit fl j y := rfl
@[simp] theorem State.setStone_cget (s : State) (n : Nat) (x : Stone) (ct : Ctr) (j y : Nat) : (s.setStone n x).cget ct j y = s.cget ct j y := rfl

/-! ### upStone -/

@[simp] theorem State.upStone_fuse (s : State) (n : Nat) (g : Stone → Stone) : (s.upStone n g).fuse = s.fuse := rfl
@[simp] theorem State.upStone_regs (s : State) (n : Nat) (g : Stone → Stone) : (s.upStone n g).regs = s.regs := rfl
@[simp] theorem State.upStone_ctrs (s : State) (n : Nat) (g : Stone → Stone) : (s.upStone n g).ctrs = s.ctrs := rfl
@[simp] theorem State.upStone_latch (s : State) (n : Nat) (g : Stone → Stone) : (s.upStone n g).latch = s.latch := rfl
@[simp] theorem State.upStone_shadow (s : State) (n : Nat) (g : Stone → Stone) : (s.upStone n g).shadow = s.shadow := rfl
@[simp] theorem State.upStone_flog (s : State) (n : Nat) (g : Stone → Stone) : (s.upStone n g).flog = s.flog := rfl
@[simp] theorem State.upStone_fab (s : State) (n : Nat) (g : Stone → Stone) : (s.upStone n g).fab = s.fab := rfl
@[simp] theorem State.upStone_mills (s : State) (n : Nat) (g : Stone → Stone) : (s.upStone n g).mills = s.mills := rfl
@[simp] theorem State.upStone_image (s : State) (n : Nat) (g : Stone → Stone) : (s.upStone n g).image = s.image := rfl
@[simp] theorem State.upStone_pond (s : State) (n : Nat) (g : Stone → Stone) : (s.upStone n g).pond = s.pond := rfl
@[simp] theorem State.upStone_pondPoison (s : State) (n : Nat) (g : Stone → Stone) : (s.upStone n g).pondPoison = s.pondPoison := rfl
@[simp] theorem State.upStone_qs (s : State) (n : Nat) (g : Stone → Stone) : (s.upStone n g).qs = s.qs := rfl
@[simp] theorem State.upStone_cls (s : State) (n : Nat) (g : Stone → Stone) : (s.upStone n g).cls = s.cls := rfl
@[simp] theorem State.upStone_streams (s : State) (n : Nat) (g : Stone → Stone) : (s.upStone n g).streams = s.streams := rfl
@[simp] theorem State.upStone_ipId (s : State) (n : Nat) (g : Stone → Stone) : (s.upStone n g).ipId = s.ipId := rfl
@[simp] theorem State.upStone_sch (s : State) (n : Nat) (g : Stone → Stone) : (s.upStone n g).sch = s.sch := rfl
@[simp] theorem State.upStone_ports (s : State) (n : Nat) (g : Stone → Stone) : (s.upStone n g).ports = s.ports := rfl
@[simp] theorem State.upStone_mg (s : State) (n : Nat) (g : Stone → Stone) : (s.upStone n g).mg = s.mg := rfl
@[simp] theorem State.upStone_tideNow (s : State) (n : Nat) (g : Stone → Stone) : (s.upStone n g).tideNow = s.tideNow := rfl
@[simp] theorem State.upStone_tide (s : State) (n : Nat) (g : Stone → Stone) : (s.upStone n g).tide = s.tide := rfl
@[simp] theorem State.upStone_mem (s : State) (n : Nat) (g : Stone → Stone) : (s.upStone n g).mem = s.mem := rfl
@[simp] theorem State.upStone_led (s : State) (n : Nat) (g : Stone → Stone) : (s.upStone n g).led = s.led := rfl
@[simp] theorem State.upStone_pol (s : State) (n : Nat) (g : Stone → Stone) : (s.upStone n g).pol = s.pol := rfl
@[simp] theorem State.upStone_meas (s : State) (n : Nat) (g : Stone → Stone) : (s.upStone n g).meas = s.meas := rfl
@[simp] theorem State.upStone_vk (s : State) (n : Nat) (g : Stone → Stone) : (s.upStone n g).vk = s.vk := rfl
@[simp] theorem State.upStone_press (s : State) (n : Nat) (g : Stone → Stone) : (s.upStone n g).press = s.press := rfl
@[simp] theorem State.upStone_pcie (s : State) (n : Nat) (g : Stone → Stone) : (s.upStone n g).pcie = s.pcie := rfl
@[simp] theorem State.upStone_power (s : State) (n : Nat) (g : Stone → Stone) : (s.upStone n g).power = s.power := rfl
@[simp] theorem State.upStone_i2c (s : State) (n : Nat) (g : Stone → Stone) : (s.upStone n g).i2c = s.i2c := rfl
@[simp] theorem State.upStone_trust (s : State) (n : Nat) (g : Stone → Stone) : (s.upStone n g).trust = s.trust := rfl
@[simp] theorem State.upStone_ras (s : State) (n : Nat) (g : Stone → Stone) : (s.upStone n g).ras = s.ras := rfl
@[simp] theorem State.upStone_out (s : State) (n : Nat) (g : Stone → Stone) : (s.upStone n g).out = s.out := rfl
@[simp] theorem State.upStone_fresh (s : State) (n : Nat) (g : Stone → Stone) : (s.upStone n g).fresh = s.fresh := rfl
@[simp] theorem State.upStone_pending (s : State) (n : Nat) (g : Stone → Stone) : (s.upStone n g).pending = s.pending := rfl
@[simp] theorem State.upStone_rd (s : State) (n : Nat) (g : Stone → Stone) (ty j off : Nat) : (s.upStone n g).rd ty j off = s.rd ty j off := rfl
@[simp] theorem State.upStone_fget (s : State) (n : Nat) (g : Stone → Stone) (fl : Fld) (j y : Nat) : (s.upStone n g).fget fl j y = s.fget fl j y := rfl
@[simp] theorem State.upStone_fbit (s : State) (n : Nat) (g : Stone → Stone) (fl : Fld) (j y : Nat) : (s.upStone n g).fbit fl j y = s.fbit fl j y := rfl
@[simp] theorem State.upStone_cget (s : State) (n : Nat) (g : Stone → Stone) (ct : Ctr) (j y : Nat) : (s.upStone n g).cget ct j y = s.cget ct j y := rfl

/-! ### setMill -/

@[simp] theorem State.setMill_fuse (s : State) (n : Nat) (x : MillSt) : (s.setMill n x).fuse = s.fuse := rfl
@[simp] theorem State.setMill_regs (s : State) (n : Nat) (x : MillSt) : (s.setMill n x).regs = s.regs := rfl
@[simp] theorem State.setMill_ctrs (s : State) (n : Nat) (x : MillSt) : (s.setMill n x).ctrs = s.ctrs := rfl
@[simp] theorem State.setMill_latch (s : State) (n : Nat) (x : MillSt) : (s.setMill n x).latch = s.latch := rfl
@[simp] theorem State.setMill_shadow (s : State) (n : Nat) (x : MillSt) : (s.setMill n x).shadow = s.shadow := rfl
@[simp] theorem State.setMill_flog (s : State) (n : Nat) (x : MillSt) : (s.setMill n x).flog = s.flog := rfl
@[simp] theorem State.setMill_fab (s : State) (n : Nat) (x : MillSt) : (s.setMill n x).fab = s.fab := rfl
@[simp] theorem State.setMill_stones (s : State) (n : Nat) (x : MillSt) : (s.setMill n x).stones = s.stones := rfl
@[simp] theorem State.setMill_image (s : State) (n : Nat) (x : MillSt) : (s.setMill n x).image = s.image := rfl
@[simp] theorem State.setMill_pond (s : State) (n : Nat) (x : MillSt) : (s.setMill n x).pond = s.pond := rfl
@[simp] theorem State.setMill_pondPoison (s : State) (n : Nat) (x : MillSt) : (s.setMill n x).pondPoison = s.pondPoison := rfl
@[simp] theorem State.setMill_qs (s : State) (n : Nat) (x : MillSt) : (s.setMill n x).qs = s.qs := rfl
@[simp] theorem State.setMill_cls (s : State) (n : Nat) (x : MillSt) : (s.setMill n x).cls = s.cls := rfl
@[simp] theorem State.setMill_streams (s : State) (n : Nat) (x : MillSt) : (s.setMill n x).streams = s.streams := rfl
@[simp] theorem State.setMill_ipId (s : State) (n : Nat) (x : MillSt) : (s.setMill n x).ipId = s.ipId := rfl
@[simp] theorem State.setMill_sch (s : State) (n : Nat) (x : MillSt) : (s.setMill n x).sch = s.sch := rfl
@[simp] theorem State.setMill_ports (s : State) (n : Nat) (x : MillSt) : (s.setMill n x).ports = s.ports := rfl
@[simp] theorem State.setMill_mg (s : State) (n : Nat) (x : MillSt) : (s.setMill n x).mg = s.mg := rfl
@[simp] theorem State.setMill_tideNow (s : State) (n : Nat) (x : MillSt) : (s.setMill n x).tideNow = s.tideNow := rfl
@[simp] theorem State.setMill_tide (s : State) (n : Nat) (x : MillSt) : (s.setMill n x).tide = s.tide := rfl
@[simp] theorem State.setMill_mem (s : State) (n : Nat) (x : MillSt) : (s.setMill n x).mem = s.mem := rfl
@[simp] theorem State.setMill_led (s : State) (n : Nat) (x : MillSt) : (s.setMill n x).led = s.led := rfl
@[simp] theorem State.setMill_pol (s : State) (n : Nat) (x : MillSt) : (s.setMill n x).pol = s.pol := rfl
@[simp] theorem State.setMill_meas (s : State) (n : Nat) (x : MillSt) : (s.setMill n x).meas = s.meas := rfl
@[simp] theorem State.setMill_vk (s : State) (n : Nat) (x : MillSt) : (s.setMill n x).vk = s.vk := rfl
@[simp] theorem State.setMill_press (s : State) (n : Nat) (x : MillSt) : (s.setMill n x).press = s.press := rfl
@[simp] theorem State.setMill_pcie (s : State) (n : Nat) (x : MillSt) : (s.setMill n x).pcie = s.pcie := rfl
@[simp] theorem State.setMill_power (s : State) (n : Nat) (x : MillSt) : (s.setMill n x).power = s.power := rfl
@[simp] theorem State.setMill_i2c (s : State) (n : Nat) (x : MillSt) : (s.setMill n x).i2c = s.i2c := rfl
@[simp] theorem State.setMill_trust (s : State) (n : Nat) (x : MillSt) : (s.setMill n x).trust = s.trust := rfl
@[simp] theorem State.setMill_ras (s : State) (n : Nat) (x : MillSt) : (s.setMill n x).ras = s.ras := rfl
@[simp] theorem State.setMill_out (s : State) (n : Nat) (x : MillSt) : (s.setMill n x).out = s.out := rfl
@[simp] theorem State.setMill_fresh (s : State) (n : Nat) (x : MillSt) : (s.setMill n x).fresh = s.fresh := rfl
@[simp] theorem State.setMill_pending (s : State) (n : Nat) (x : MillSt) : (s.setMill n x).pending = s.pending := rfl
@[simp] theorem State.setMill_rd (s : State) (n : Nat) (x : MillSt) (ty j off : Nat) : (s.setMill n x).rd ty j off = s.rd ty j off := rfl
@[simp] theorem State.setMill_fget (s : State) (n : Nat) (x : MillSt) (fl : Fld) (j y : Nat) : (s.setMill n x).fget fl j y = s.fget fl j y := rfl
@[simp] theorem State.setMill_fbit (s : State) (n : Nat) (x : MillSt) (fl : Fld) (j y : Nat) : (s.setMill n x).fbit fl j y = s.fbit fl j y := rfl
@[simp] theorem State.setMill_cget (s : State) (n : Nat) (x : MillSt) (ct : Ctr) (j y : Nat) : (s.setMill n x).cget ct j y = s.cget ct j y := rfl
@[simp] theorem State.setMill_stone (s : State) (n : Nat) (x : MillSt) (m : Nat) : (s.setMill n x).stone m = s.stone m := rfl

/-! ### upSch -/

@[simp] theorem State.upSch_fuse (s : State) (g : Sched → Sched) : (s.upSch g).fuse = s.fuse := rfl
@[simp] theorem State.upSch_regs (s : State) (g : Sched → Sched) : (s.upSch g).regs = s.regs := rfl
@[simp] theorem State.upSch_ctrs (s : State) (g : Sched → Sched) : (s.upSch g).ctrs = s.ctrs := rfl
@[simp] theorem State.upSch_latch (s : State) (g : Sched → Sched) : (s.upSch g).latch = s.latch := rfl
@[simp] theorem State.upSch_shadow (s : State) (g : Sched → Sched) : (s.upSch g).shadow = s.shadow := rfl
@[simp] theorem State.upSch_flog (s : State) (g : Sched → Sched) : (s.upSch g).flog = s.flog := rfl
@[simp] theorem State.upSch_fab (s : State) (g : Sched → Sched) : (s.upSch g).fab = s.fab := rfl
@[simp] theorem State.upSch_stones (s : State) (g : Sched → Sched) : (s.upSch g).stones = s.stones := rfl
@[simp] theorem State.upSch_mills (s : State) (g : Sched → Sched) : (s.upSch g).mills = s.mills := rfl
@[simp] theorem State.upSch_image (s : State) (g : Sched → Sched) : (s.upSch g).image = s.image := rfl
@[simp] theorem State.upSch_pond (s : State) (g : Sched → Sched) : (s.upSch g).pond = s.pond := rfl
@[simp] theorem State.upSch_pondPoison (s : State) (g : Sched → Sched) : (s.upSch g).pondPoison = s.pondPoison := rfl
@[simp] theorem State.upSch_qs (s : State) (g : Sched → Sched) : (s.upSch g).qs = s.qs := rfl
@[simp] theorem State.upSch_cls (s : State) (g : Sched → Sched) : (s.upSch g).cls = s.cls := rfl
@[simp] theorem State.upSch_streams (s : State) (g : Sched → Sched) : (s.upSch g).streams = s.streams := rfl
@[simp] theorem State.upSch_ipId (s : State) (g : Sched → Sched) : (s.upSch g).ipId = s.ipId := rfl
@[simp] theorem State.upSch_ports (s : State) (g : Sched → Sched) : (s.upSch g).ports = s.ports := rfl
@[simp] theorem State.upSch_mg (s : State) (g : Sched → Sched) : (s.upSch g).mg = s.mg := rfl
@[simp] theorem State.upSch_tideNow (s : State) (g : Sched → Sched) : (s.upSch g).tideNow = s.tideNow := rfl
@[simp] theorem State.upSch_tide (s : State) (g : Sched → Sched) : (s.upSch g).tide = s.tide := rfl
@[simp] theorem State.upSch_mem (s : State) (g : Sched → Sched) : (s.upSch g).mem = s.mem := rfl
@[simp] theorem State.upSch_led (s : State) (g : Sched → Sched) : (s.upSch g).led = s.led := rfl
@[simp] theorem State.upSch_pol (s : State) (g : Sched → Sched) : (s.upSch g).pol = s.pol := rfl
@[simp] theorem State.upSch_meas (s : State) (g : Sched → Sched) : (s.upSch g).meas = s.meas := rfl
@[simp] theorem State.upSch_vk (s : State) (g : Sched → Sched) : (s.upSch g).vk = s.vk := rfl
@[simp] theorem State.upSch_press (s : State) (g : Sched → Sched) : (s.upSch g).press = s.press := rfl
@[simp] theorem State.upSch_pcie (s : State) (g : Sched → Sched) : (s.upSch g).pcie = s.pcie := rfl
@[simp] theorem State.upSch_power (s : State) (g : Sched → Sched) : (s.upSch g).power = s.power := rfl
@[simp] theorem State.upSch_i2c (s : State) (g : Sched → Sched) : (s.upSch g).i2c = s.i2c := rfl
@[simp] theorem State.upSch_trust (s : State) (g : Sched → Sched) : (s.upSch g).trust = s.trust := rfl
@[simp] theorem State.upSch_ras (s : State) (g : Sched → Sched) : (s.upSch g).ras = s.ras := rfl
@[simp] theorem State.upSch_out (s : State) (g : Sched → Sched) : (s.upSch g).out = s.out := rfl
@[simp] theorem State.upSch_fresh (s : State) (g : Sched → Sched) : (s.upSch g).fresh = s.fresh := rfl
@[simp] theorem State.upSch_pending (s : State) (g : Sched → Sched) : (s.upSch g).pending = s.pending := rfl
@[simp] theorem State.upSch_rd (s : State) (g : Sched → Sched) (ty j off : Nat) : (s.upSch g).rd ty j off = s.rd ty j off := rfl
@[simp] theorem State.upSch_fget (s : State) (g : Sched → Sched) (fl : Fld) (j y : Nat) : (s.upSch g).fget fl j y = s.fget fl j y := rfl
@[simp] theorem State.upSch_fbit (s : State) (g : Sched → Sched) (fl : Fld) (j y : Nat) : (s.upSch g).fbit fl j y = s.fbit fl j y := rfl
@[simp] theorem State.upSch_cget (s : State) (g : Sched → Sched) (ct : Ctr) (j y : Nat) : (s.upSch g).cget ct j y = s.cget ct j y := rfl
@[simp] theorem State.upSch_stone (s : State) (g : Sched → Sched) (m : Nat) : (s.upSch g).stone m = s.stone m := rfl

/-! ### setLock -/

@[simp] theorem State.setLock_fuse (s : State) (h n : Nat) (x : LockSt) : (s.setLock h n x).fuse = s.fuse := rfl
@[simp] theorem State.setLock_regs (s : State) (h n : Nat) (x : LockSt) : (s.setLock h n x).regs = s.regs := rfl
@[simp] theorem State.setLock_ctrs (s : State) (h n : Nat) (x : LockSt) : (s.setLock h n x).ctrs = s.ctrs := rfl
@[simp] theorem State.setLock_latch (s : State) (h n : Nat) (x : LockSt) : (s.setLock h n x).latch = s.latch := rfl
@[simp] theorem State.setLock_shadow (s : State) (h n : Nat) (x : LockSt) : (s.setLock h n x).shadow = s.shadow := rfl
@[simp] theorem State.setLock_flog (s : State) (h n : Nat) (x : LockSt) : (s.setLock h n x).flog = s.flog := rfl
@[simp] theorem State.setLock_stones (s : State) (h n : Nat) (x : LockSt) : (s.setLock h n x).stones = s.stones := rfl
@[simp] theorem State.setLock_mills (s : State) (h n : Nat) (x : LockSt) : (s.setLock h n x).mills = s.mills := rfl
@[simp] theorem State.setLock_image (s : State) (h n : Nat) (x : LockSt) : (s.setLock h n x).image = s.image := rfl
@[simp] theorem State.setLock_pond (s : State) (h n : Nat) (x : LockSt) : (s.setLock h n x).pond = s.pond := rfl
@[simp] theorem State.setLock_pondPoison (s : State) (h n : Nat) (x : LockSt) : (s.setLock h n x).pondPoison = s.pondPoison := rfl
@[simp] theorem State.setLock_qs (s : State) (h n : Nat) (x : LockSt) : (s.setLock h n x).qs = s.qs := rfl
@[simp] theorem State.setLock_cls (s : State) (h n : Nat) (x : LockSt) : (s.setLock h n x).cls = s.cls := rfl
@[simp] theorem State.setLock_streams (s : State) (h n : Nat) (x : LockSt) : (s.setLock h n x).streams = s.streams := rfl
@[simp] theorem State.setLock_ipId (s : State) (h n : Nat) (x : LockSt) : (s.setLock h n x).ipId = s.ipId := rfl
@[simp] theorem State.setLock_sch (s : State) (h n : Nat) (x : LockSt) : (s.setLock h n x).sch = s.sch := rfl
@[simp] theorem State.setLock_ports (s : State) (h n : Nat) (x : LockSt) : (s.setLock h n x).ports = s.ports := rfl
@[simp] theorem State.setLock_mg (s : State) (h n : Nat) (x : LockSt) : (s.setLock h n x).mg = s.mg := rfl
@[simp] theorem State.setLock_tideNow (s : State) (h n : Nat) (x : LockSt) : (s.setLock h n x).tideNow = s.tideNow := rfl
@[simp] theorem State.setLock_tide (s : State) (h n : Nat) (x : LockSt) : (s.setLock h n x).tide = s.tide := rfl
@[simp] theorem State.setLock_mem (s : State) (h n : Nat) (x : LockSt) : (s.setLock h n x).mem = s.mem := rfl
@[simp] theorem State.setLock_led (s : State) (h n : Nat) (x : LockSt) : (s.setLock h n x).led = s.led := rfl
@[simp] theorem State.setLock_pol (s : State) (h n : Nat) (x : LockSt) : (s.setLock h n x).pol = s.pol := rfl
@[simp] theorem State.setLock_meas (s : State) (h n : Nat) (x : LockSt) : (s.setLock h n x).meas = s.meas := rfl
@[simp] theorem State.setLock_vk (s : State) (h n : Nat) (x : LockSt) : (s.setLock h n x).vk = s.vk := rfl
@[simp] theorem State.setLock_press (s : State) (h n : Nat) (x : LockSt) : (s.setLock h n x).press = s.press := rfl
@[simp] theorem State.setLock_pcie (s : State) (h n : Nat) (x : LockSt) : (s.setLock h n x).pcie = s.pcie := rfl
@[simp] theorem State.setLock_power (s : State) (h n : Nat) (x : LockSt) : (s.setLock h n x).power = s.power := rfl
@[simp] theorem State.setLock_i2c (s : State) (h n : Nat) (x : LockSt) : (s.setLock h n x).i2c = s.i2c := rfl
@[simp] theorem State.setLock_trust (s : State) (h n : Nat) (x : LockSt) : (s.setLock h n x).trust = s.trust := rfl
@[simp] theorem State.setLock_ras (s : State) (h n : Nat) (x : LockSt) : (s.setLock h n x).ras = s.ras := rfl
@[simp] theorem State.setLock_out (s : State) (h n : Nat) (x : LockSt) : (s.setLock h n x).out = s.out := rfl
@[simp] theorem State.setLock_fresh (s : State) (h n : Nat) (x : LockSt) : (s.setLock h n x).fresh = s.fresh := rfl
@[simp] theorem State.setLock_pending (s : State) (h n : Nat) (x : LockSt) : (s.setLock h n x).pending = s.pending := rfl
@[simp] theorem State.setLock_rd (s : State) (h n : Nat) (x : LockSt) (ty j off : Nat) : (s.setLock h n x).rd ty j off = s.rd ty j off := rfl
@[simp] theorem State.setLock_fget (s : State) (h n : Nat) (x : LockSt) (fl : Fld) (j y : Nat) : (s.setLock h n x).fget fl j y = s.fget fl j y := rfl
@[simp] theorem State.setLock_fbit (s : State) (h n : Nat) (x : LockSt) (fl : Fld) (j y : Nat) : (s.setLock h n x).fbit fl j y = s.fbit fl j y := rfl
@[simp] theorem State.setLock_cget (s : State) (h n : Nat) (x : LockSt) (ct : Ctr) (j y : Nat) : (s.setLock h n x).cget ct j y = s.cget ct j y := rfl
@[simp] theorem State.setLock_stone (s : State) (h n : Nat) (x : LockSt) (m : Nat) : (s.setLock h n x).stone m = s.stone m := rfl

/-! ### setStage -/

@[simp] theorem State.setStage_fuse (s : State) (p : Place) (n : Nat) (x : StageSt) : (s.setStage p n x).fuse = s.fuse := rfl
@[simp] theorem State.setStage_regs (s : State) (p : Place) (n : Nat) (x : StageSt) : (s.setStage p n x).regs = s.regs := rfl
@[simp] theorem State.setStage_ctrs (s : State) (p : Place) (n : Nat) (x : StageSt) : (s.setStage p n x).ctrs = s.ctrs := rfl
@[simp] theorem State.setStage_latch (s : State) (p : Place) (n : Nat) (x : StageSt) : (s.setStage p n x).latch = s.latch := rfl
@[simp] theorem State.setStage_shadow (s : State) (p : Place) (n : Nat) (x : StageSt) : (s.setStage p n x).shadow = s.shadow := rfl
@[simp] theorem State.setStage_flog (s : State) (p : Place) (n : Nat) (x : StageSt) : (s.setStage p n x).flog = s.flog := rfl
@[simp] theorem State.setStage_stones (s : State) (p : Place) (n : Nat) (x : StageSt) : (s.setStage p n x).stones = s.stones := rfl
@[simp] theorem State.setStage_mills (s : State) (p : Place) (n : Nat) (x : StageSt) : (s.setStage p n x).mills = s.mills := rfl
@[simp] theorem State.setStage_image (s : State) (p : Place) (n : Nat) (x : StageSt) : (s.setStage p n x).image = s.image := rfl
@[simp] theorem State.setStage_pond (s : State) (p : Place) (n : Nat) (x : StageSt) : (s.setStage p n x).pond = s.pond := rfl
@[simp] theorem State.setStage_pondPoison (s : State) (p : Place) (n : Nat) (x : StageSt) : (s.setStage p n x).pondPoison = s.pondPoison := rfl
@[simp] theorem State.setStage_qs (s : State) (p : Place) (n : Nat) (x : StageSt) : (s.setStage p n x).qs = s.qs := rfl
@[simp] theorem State.setStage_cls (s : State) (p : Place) (n : Nat) (x : StageSt) : (s.setStage p n x).cls = s.cls := rfl
@[simp] theorem State.setStage_streams (s : State) (p : Place) (n : Nat) (x : StageSt) : (s.setStage p n x).streams = s.streams := rfl
@[simp] theorem State.setStage_ipId (s : State) (p : Place) (n : Nat) (x : StageSt) : (s.setStage p n x).ipId = s.ipId := rfl
@[simp] theorem State.setStage_sch (s : State) (p : Place) (n : Nat) (x : StageSt) : (s.setStage p n x).sch = s.sch := rfl
@[simp] theorem State.setStage_ports (s : State) (p : Place) (n : Nat) (x : StageSt) : (s.setStage p n x).ports = s.ports := rfl
@[simp] theorem State.setStage_mg (s : State) (p : Place) (n : Nat) (x : StageSt) : (s.setStage p n x).mg = s.mg := rfl
@[simp] theorem State.setStage_tideNow (s : State) (p : Place) (n : Nat) (x : StageSt) : (s.setStage p n x).tideNow = s.tideNow := rfl
@[simp] theorem State.setStage_tide (s : State) (p : Place) (n : Nat) (x : StageSt) : (s.setStage p n x).tide = s.tide := rfl
@[simp] theorem State.setStage_mem (s : State) (p : Place) (n : Nat) (x : StageSt) : (s.setStage p n x).mem = s.mem := rfl
@[simp] theorem State.setStage_led (s : State) (p : Place) (n : Nat) (x : StageSt) : (s.setStage p n x).led = s.led := rfl
@[simp] theorem State.setStage_pol (s : State) (p : Place) (n : Nat) (x : StageSt) : (s.setStage p n x).pol = s.pol := rfl
@[simp] theorem State.setStage_meas (s : State) (p : Place) (n : Nat) (x : StageSt) : (s.setStage p n x).meas = s.meas := rfl
@[simp] theorem State.setStage_vk (s : State) (p : Place) (n : Nat) (x : StageSt) : (s.setStage p n x).vk = s.vk := rfl
@[simp] theorem State.setStage_press (s : State) (p : Place) (n : Nat) (x : StageSt) : (s.setStage p n x).press = s.press := rfl
@[simp] theorem State.setStage_pcie (s : State) (p : Place) (n : Nat) (x : StageSt) : (s.setStage p n x).pcie = s.pcie := rfl
@[simp] theorem State.setStage_power (s : State) (p : Place) (n : Nat) (x : StageSt) : (s.setStage p n x).power = s.power := rfl
@[simp] theorem State.setStage_i2c (s : State) (p : Place) (n : Nat) (x : StageSt) : (s.setStage p n x).i2c = s.i2c := rfl
@[simp] theorem State.setStage_trust (s : State) (p : Place) (n : Nat) (x : StageSt) : (s.setStage p n x).trust = s.trust := rfl
@[simp] theorem State.setStage_ras (s : State) (p : Place) (n : Nat) (x : StageSt) : (s.setStage p n x).ras = s.ras := rfl
@[simp] theorem State.setStage_out (s : State) (p : Place) (n : Nat) (x : StageSt) : (s.setStage p n x).out = s.out := rfl
@[simp] theorem State.setStage_fresh (s : State) (p : Place) (n : Nat) (x : StageSt) : (s.setStage p n x).fresh = s.fresh := rfl
@[simp] theorem State.setStage_pending (s : State) (p : Place) (n : Nat) (x : StageSt) : (s.setStage p n x).pending = s.pending := rfl
@[simp] theorem State.setStage_rd (s : State) (p : Place) (n : Nat) (x : StageSt) (ty j off : Nat) : (s.setStage p n x).rd ty j off = s.rd ty j off := rfl
@[simp] theorem State.setStage_fget (s : State) (p : Place) (n : Nat) (x : StageSt) (fl : Fld) (j y : Nat) : (s.setStage p n x).fget fl j y = s.fget fl j y := rfl
@[simp] theorem State.setStage_fbit (s : State) (p : Place) (n : Nat) (x : StageSt) (fl : Fld) (j y : Nat) : (s.setStage p n x).fbit fl j y = s.fbit fl j y := rfl
@[simp] theorem State.setStage_cget (s : State) (p : Place) (n : Nat) (x : StageSt) (ct : Ctr) (j y : Nat) : (s.setStage p n x).cget ct j y = s.cget ct j y := rfl
@[simp] theorem State.setStage_stone (s : State) (p : Place) (n : Nat) (x : StageSt) (m : Nat) : (s.setStage p n x).stone m = s.stone m := rfl

/-! ### setLane -/

@[simp] theorem State.setLane_fuse (s : State) (r p c q : Nat) (l : List Flit) : (s.setLane r p c q l).fuse = s.fuse := rfl
@[simp] theorem State.setLane_regs (s : State) (r p c q : Nat) (l : List Flit) : (s.setLane r p c q l).regs = s.regs := rfl
@[simp] theorem State.setLane_ctrs (s : State) (r p c q : Nat) (l : List Flit) : (s.setLane r p c q l).ctrs = s.ctrs := rfl
@[simp] theorem State.setLane_latch (s : State) (r p c q : Nat) (l : List Flit) : (s.setLane r p c q l).latch = s.latch := rfl
@[simp] theorem State.setLane_shadow (s : State) (r p c q : Nat) (l : List Flit) : (s.setLane r p c q l).shadow = s.shadow := rfl
@[simp] theorem State.setLane_flog (s : State) (r p c q : Nat) (l : List Flit) : (s.setLane r p c q l).flog = s.flog := rfl
@[simp] theorem State.setLane_stones (s : State) (r p c q : Nat) (l : List Flit) : (s.setLane r p c q l).stones = s.stones := rfl
@[simp] theorem State.setLane_mills (s : State) (r p c q : Nat) (l : List Flit) : (s.setLane r p c q l).mills = s.mills := rfl
@[simp] theorem State.setLane_image (s : State) (r p c q : Nat) (l : List Flit) : (s.setLane r p c q l).image = s.image := rfl
@[simp] theorem State.setLane_pond (s : State) (r p c q : Nat) (l : List Flit) : (s.setLane r p c q l).pond = s.pond := rfl
@[simp] theorem State.setLane_pondPoison (s : State) (r p c q : Nat) (l : List Flit) : (s.setLane r p c q l).pondPoison = s.pondPoison := rfl
@[simp] theorem State.setLane_qs (s : State) (r p c q : Nat) (l : List Flit) : (s.setLane r p c q l).qs = s.qs := rfl
@[simp] theorem State.setLane_cls (s : State) (r p c q : Nat) (l : List Flit) : (s.setLane r p c q l).cls = s.cls := rfl
@[simp] theorem State.setLane_streams (s : State) (r p c q : Nat) (l : List Flit) : (s.setLane r p c q l).streams = s.streams := rfl
@[simp] theorem State.setLane_ipId (s : State) (r p c q : Nat) (l : List Flit) : (s.setLane r p c q l).ipId = s.ipId := rfl
@[simp] theorem State.setLane_sch (s : State) (r p c q : Nat) (l : List Flit) : (s.setLane r p c q l).sch = s.sch := rfl
@[simp] theorem State.setLane_ports (s : State) (r p c q : Nat) (l : List Flit) : (s.setLane r p c q l).ports = s.ports := rfl
@[simp] theorem State.setLane_mg (s : State) (r p c q : Nat) (l : List Flit) : (s.setLane r p c q l).mg = s.mg := rfl
@[simp] theorem State.setLane_tideNow (s : State) (r p c q : Nat) (l : List Flit) : (s.setLane r p c q l).tideNow = s.tideNow := rfl
@[simp] theorem State.setLane_tide (s : State) (r p c q : Nat) (l : List Flit) : (s.setLane r p c q l).tide = s.tide := rfl
@[simp] theorem State.setLane_mem (s : State) (r p c q : Nat) (l : List Flit) : (s.setLane r p c q l).mem = s.mem := rfl
@[simp] theorem State.setLane_led (s : State) (r p c q : Nat) (l : List Flit) : (s.setLane r p c q l).led = s.led := rfl
@[simp] theorem State.setLane_pol (s : State) (r p c q : Nat) (l : List Flit) : (s.setLane r p c q l).pol = s.pol := rfl
@[simp] theorem State.setLane_meas (s : State) (r p c q : Nat) (l : List Flit) : (s.setLane r p c q l).meas = s.meas := rfl
@[simp] theorem State.setLane_vk (s : State) (r p c q : Nat) (l : List Flit) : (s.setLane r p c q l).vk = s.vk := rfl
@[simp] theorem State.setLane_press (s : State) (r p c q : Nat) (l : List Flit) : (s.setLane r p c q l).press = s.press := rfl
@[simp] theorem State.setLane_pcie (s : State) (r p c q : Nat) (l : List Flit) : (s.setLane r p c q l).pcie = s.pcie := rfl
@[simp] theorem State.setLane_power (s : State) (r p c q : Nat) (l : List Flit) : (s.setLane r p c q l).power = s.power := rfl
@[simp] theorem State.setLane_i2c (s : State) (r p c q : Nat) (l : List Flit) : (s.setLane r p c q l).i2c = s.i2c := rfl
@[simp] theorem State.setLane_trust (s : State) (r p c q : Nat) (l : List Flit) : (s.setLane r p c q l).trust = s.trust := rfl
@[simp] theorem State.setLane_ras (s : State) (r p c q : Nat) (l : List Flit) : (s.setLane r p c q l).ras = s.ras := rfl
@[simp] theorem State.setLane_out (s : State) (r p c q : Nat) (l : List Flit) : (s.setLane r p c q l).out = s.out := rfl
@[simp] theorem State.setLane_fresh (s : State) (r p c q : Nat) (l : List Flit) : (s.setLane r p c q l).fresh = s.fresh := rfl
@[simp] theorem State.setLane_pending (s : State) (r p c q : Nat) (l : List Flit) : (s.setLane r p c q l).pending = s.pending := rfl
@[simp] theorem State.setLane_rd (s : State) (r p c q : Nat) (l : List Flit) (ty j off : Nat) : (s.setLane r p c q l).rd ty j off = s.rd ty j off := rfl
@[simp] theorem State.setLane_fget (s : State) (r p c q : Nat) (l : List Flit) (fl : Fld) (j y : Nat) : (s.setLane r p c q l).fget fl j y = s.fget fl j y := rfl
@[simp] theorem State.setLane_fbit (s : State) (r p c q : Nat) (l : List Flit) (fl : Fld) (j y : Nat) : (s.setLane r p c q l).fbit fl j y = s.fbit fl j y := rfl
@[simp] theorem State.setLane_cget (s : State) (r p c q : Nat) (l : List Flit) (ct : Ctr) (j y : Nat) : (s.setLane r p c q l).cget ct j y = s.cget ct j y := rfl
@[simp] theorem State.setLane_stone (s : State) (r p c q : Nat) (l : List Flit) (m : Nat) : (s.setLane r p c q l).stone m = s.stone m := rfl

/-! ### setQueue -/

@[simp] theorem State.setQueue_fuse (s : State) (n : Nat) (x : Queue) : (s.setQueue n x).fuse = s.fuse := rfl
@[simp] theorem State.setQueue_regs (s : State) (n : Nat) (x : Queue) : (s.setQueue n x).regs = s.regs := rfl
@[simp] theorem State.setQueue_ctrs (s : State) (n : Nat) (x : Queue) : (s.setQueue n x).ctrs = s.ctrs := rfl
@[simp] theorem State.setQueue_latch (s : State) (n : Nat) (x : Queue) : (s.setQueue n x).latch = s.latch := rfl
@[simp] theorem State.setQueue_shadow (s : State) (n : Nat) (x : Queue) : (s.setQueue n x).shadow = s.shadow := rfl
@[simp] theorem State.setQueue_flog (s : State) (n : Nat) (x : Queue) : (s.setQueue n x).flog = s.flog := rfl
@[simp] theorem State.setQueue_fab (s : State) (n : Nat) (x : Queue) : (s.setQueue n x).fab = s.fab := rfl
@[simp] theorem State.setQueue_stones (s : State) (n : Nat) (x : Queue) : (s.setQueue n x).stones = s.stones := rfl
@[simp] theorem State.setQueue_mills (s : State) (n : Nat) (x : Queue) : (s.setQueue n x).mills = s.mills := rfl
@[simp] theorem State.setQueue_image (s : State) (n : Nat) (x : Queue) : (s.setQueue n x).image = s.image := rfl
@[simp] theorem State.setQueue_pond (s : State) (n : Nat) (x : Queue) : (s.setQueue n x).pond = s.pond := rfl
@[simp] theorem State.setQueue_pondPoison (s : State) (n : Nat) (x : Queue) : (s.setQueue n x).pondPoison = s.pondPoison := rfl
@[simp] theorem State.setQueue_cls (s : State) (n : Nat) (x : Queue) : (s.setQueue n x).cls = s.cls := rfl
@[simp] theorem State.setQueue_streams (s : State) (n : Nat) (x : Queue) : (s.setQueue n x).streams = s.streams := rfl
@[simp] theorem State.setQueue_ipId (s : State) (n : Nat) (x : Queue) : (s.setQueue n x).ipId = s.ipId := rfl
@[simp] theorem State.setQueue_sch (s : State) (n : Nat) (x : Queue) : (s.setQueue n x).sch = s.sch := rfl
@[simp] theorem State.setQueue_ports (s : State) (n : Nat) (x : Queue) : (s.setQueue n x).ports = s.ports := rfl
@[simp] theorem State.setQueue_mg (s : State) (n : Nat) (x : Queue) : (s.setQueue n x).mg = s.mg := rfl
@[simp] theorem State.setQueue_tideNow (s : State) (n : Nat) (x : Queue) : (s.setQueue n x).tideNow = s.tideNow := rfl
@[simp] theorem State.setQueue_tide (s : State) (n : Nat) (x : Queue) : (s.setQueue n x).tide = s.tide := rfl
@[simp] theorem State.setQueue_mem (s : State) (n : Nat) (x : Queue) : (s.setQueue n x).mem = s.mem := rfl
@[simp] theorem State.setQueue_led (s : State) (n : Nat) (x : Queue) : (s.setQueue n x).led = s.led := rfl
@[simp] theorem State.setQueue_pol (s : State) (n : Nat) (x : Queue) : (s.setQueue n x).pol = s.pol := rfl
@[simp] theorem State.setQueue_meas (s : State) (n : Nat) (x : Queue) : (s.setQueue n x).meas = s.meas := rfl
@[simp] theorem State.setQueue_vk (s : State) (n : Nat) (x : Queue) : (s.setQueue n x).vk = s.vk := rfl
@[simp] theorem State.setQueue_press (s : State) (n : Nat) (x : Queue) : (s.setQueue n x).press = s.press := rfl
@[simp] theorem State.setQueue_pcie (s : State) (n : Nat) (x : Queue) : (s.setQueue n x).pcie = s.pcie := rfl
@[simp] theorem State.setQueue_power (s : State) (n : Nat) (x : Queue) : (s.setQueue n x).power = s.power := rfl
@[simp] theorem State.setQueue_i2c (s : State) (n : Nat) (x : Queue) : (s.setQueue n x).i2c = s.i2c := rfl
@[simp] theorem State.setQueue_trust (s : State) (n : Nat) (x : Queue) : (s.setQueue n x).trust = s.trust := rfl
@[simp] theorem State.setQueue_ras (s : State) (n : Nat) (x : Queue) : (s.setQueue n x).ras = s.ras := rfl
@[simp] theorem State.setQueue_out (s : State) (n : Nat) (x : Queue) : (s.setQueue n x).out = s.out := rfl
@[simp] theorem State.setQueue_fresh (s : State) (n : Nat) (x : Queue) : (s.setQueue n x).fresh = s.fresh := rfl
@[simp] theorem State.setQueue_pending (s : State) (n : Nat) (x : Queue) : (s.setQueue n x).pending = s.pending := rfl
@[simp] theorem State.setQueue_rd (s : State) (n : Nat) (x : Queue) (ty j off : Nat) : (s.setQueue n x).rd ty j off = s.rd ty j off := rfl
@[simp] theorem State.setQueue_fget (s : State) (n : Nat) (x : Queue) (fl : Fld) (j y : Nat) : (s.setQueue n x).fget fl j y = s.fget fl j y := rfl
@[simp] theorem State.setQueue_fbit (s : State) (n : Nat) (x : Queue) (fl : Fld) (j y : Nat) : (s.setQueue n x).fbit fl j y = s.fbit fl j y := rfl
@[simp] theorem State.setQueue_cget (s : State) (n : Nat) (x : Queue) (ct : Ctr) (j y : Nat) : (s.setQueue n x).cget ct j y = s.cget ct j y := rfl
@[simp] theorem State.setQueue_stone (s : State) (n : Nat) (x : Queue) (m : Nat) : (s.setQueue n x).stone m = s.stone m := rfl

/-! ### setPoolUsed -/

@[simp] theorem State.setPoolUsed_fuse (s : State) (k v : Nat) : (s.setPoolUsed k v).fuse = s.fuse := rfl
@[simp] theorem State.setPoolUsed_regs (s : State) (k v : Nat) : (s.setPoolUsed k v).regs = s.regs := rfl
@[simp] theorem State.setPoolUsed_ctrs (s : State) (k v : Nat) : (s.setPoolUsed k v).ctrs = s.ctrs := rfl
@[simp] theorem State.setPoolUsed_latch (s : State) (k v : Nat) : (s.setPoolUsed k v).latch = s.latch := rfl
@[simp] theorem State.setPoolUsed_shadow (s : State) (k v : Nat) : (s.setPoolUsed k v).shadow = s.shadow := rfl
@[simp] theorem State.setPoolUsed_flog (s : State) (k v : Nat) : (s.setPoolUsed k v).flog = s.flog := rfl
@[simp] theorem State.setPoolUsed_fab (s : State) (k v : Nat) : (s.setPoolUsed k v).fab = s.fab := rfl
@[simp] theorem State.setPoolUsed_stones (s : State) (k v : Nat) : (s.setPoolUsed k v).stones = s.stones := rfl
@[simp] theorem State.setPoolUsed_mills (s : State) (k v : Nat) : (s.setPoolUsed k v).mills = s.mills := rfl
@[simp] theorem State.setPoolUsed_image (s : State) (k v : Nat) : (s.setPoolUsed k v).image = s.image := rfl
@[simp] theorem State.setPoolUsed_pond (s : State) (k v : Nat) : (s.setPoolUsed k v).pond = s.pond := rfl
@[simp] theorem State.setPoolUsed_pondPoison (s : State) (k v : Nat) : (s.setPoolUsed k v).pondPoison = s.pondPoison := rfl
@[simp] theorem State.setPoolUsed_cls (s : State) (k v : Nat) : (s.setPoolUsed k v).cls = s.cls := rfl
@[simp] theorem State.setPoolUsed_streams (s : State) (k v : Nat) : (s.setPoolUsed k v).streams = s.streams := rfl
@[simp] theorem State.setPoolUsed_ipId (s : State) (k v : Nat) : (s.setPoolUsed k v).ipId = s.ipId := rfl
@[simp] theorem State.setPoolUsed_sch (s : State) (k v : Nat) : (s.setPoolUsed k v).sch = s.sch := rfl
@[simp] theorem State.setPoolUsed_ports (s : State) (k v : Nat) : (s.setPoolUsed k v).ports = s.ports := rfl
@[simp] theorem State.setPoolUsed_mg (s : State) (k v : Nat) : (s.setPoolUsed k v).mg = s.mg := rfl
@[simp] theorem State.setPoolUsed_tideNow (s : State) (k v : Nat) : (s.setPoolUsed k v).tideNow = s.tideNow := rfl
@[simp] theorem State.setPoolUsed_tide (s : State) (k v : Nat) : (s.setPoolUsed k v).tide = s.tide := rfl
@[simp] theorem State.setPoolUsed_mem (s : State) (k v : Nat) : (s.setPoolUsed k v).mem = s.mem := rfl
@[simp] theorem State.setPoolUsed_led (s : State) (k v : Nat) : (s.setPoolUsed k v).led = s.led := rfl
@[simp] theorem State.setPoolUsed_pol (s : State) (k v : Nat) : (s.setPoolUsed k v).pol = s.pol := rfl
@[simp] theorem State.setPoolUsed_meas (s : State) (k v : Nat) : (s.setPoolUsed k v).meas = s.meas := rfl
@[simp] theorem State.setPoolUsed_vk (s : State) (k v : Nat) : (s.setPoolUsed k v).vk = s.vk := rfl
@[simp] theorem State.setPoolUsed_press (s : State) (k v : Nat) : (s.setPoolUsed k v).press = s.press := rfl
@[simp] theorem State.setPoolUsed_pcie (s : State) (k v : Nat) : (s.setPoolUsed k v).pcie = s.pcie := rfl
@[simp] theorem State.setPoolUsed_power (s : State) (k v : Nat) : (s.setPoolUsed k v).power = s.power := rfl
@[simp] theorem State.setPoolUsed_i2c (s : State) (k v : Nat) : (s.setPoolUsed k v).i2c = s.i2c := rfl
@[simp] theorem State.setPoolUsed_trust (s : State) (k v : Nat) : (s.setPoolUsed k v).trust = s.trust := rfl
@[simp] theorem State.setPoolUsed_ras (s : State) (k v : Nat) : (s.setPoolUsed k v).ras = s.ras := rfl
@[simp] theorem State.setPoolUsed_out (s : State) (k v : Nat) : (s.setPoolUsed k v).out = s.out := rfl
@[simp] theorem State.setPoolUsed_fresh (s : State) (k v : Nat) : (s.setPoolUsed k v).fresh = s.fresh := rfl
@[simp] theorem State.setPoolUsed_pending (s : State) (k v : Nat) : (s.setPoolUsed k v).pending = s.pending := rfl
@[simp] theorem State.setPoolUsed_rd (s : State) (k v : Nat) (ty j off : Nat) : (s.setPoolUsed k v).rd ty j off = s.rd ty j off := rfl
@[simp] theorem State.setPoolUsed_fget (s : State) (k v : Nat) (fl : Fld) (j y : Nat) : (s.setPoolUsed k v).fget fl j y = s.fget fl j y := rfl
@[simp] theorem State.setPoolUsed_fbit (s : State) (k v : Nat) (fl : Fld) (j y : Nat) : (s.setPoolUsed k v).fbit fl j y = s.fbit fl j y := rfl
@[simp] theorem State.setPoolUsed_cget (s : State) (k v : Nat) (ct : Ctr) (j y : Nat) : (s.setPoolUsed k v).cget ct j y = s.cget ct j y := rfl
@[simp] theorem State.setPoolUsed_stone (s : State) (k v : Nat) (m : Nat) : (s.setPoolUsed k v).stone m = s.stone m := rfl

/-! ### setJbUsed -/

@[simp] theorem State.setJbUsed_fuse (s : State) (p v : Nat) : (s.setJbUsed p v).fuse = s.fuse := rfl
@[simp] theorem State.setJbUsed_regs (s : State) (p v : Nat) : (s.setJbUsed p v).regs = s.regs := rfl
@[simp] theorem State.setJbUsed_ctrs (s : State) (p v : Nat) : (s.setJbUsed p v).ctrs = s.ctrs := rfl
@[simp] theorem State.setJbUsed_latch (s : State) (p v : Nat) : (s.setJbUsed p v).latch = s.latch := rfl
@[simp] theorem State.setJbUsed_shadow (s : State) (p v : Nat) : (s.setJbUsed p v).shadow = s.shadow := rfl
@[simp] theorem State.setJbUsed_flog (s : State) (p v : Nat) : (s.setJbUsed p v).flog = s.flog := rfl
@[simp] theorem State.setJbUsed_fab (s : State) (p v : Nat) : (s.setJbUsed p v).fab = s.fab := rfl
@[simp] theorem State.setJbUsed_stones (s : State) (p v : Nat) : (s.setJbUsed p v).stones = s.stones := rfl
@[simp] theorem State.setJbUsed_mills (s : State) (p v : Nat) : (s.setJbUsed p v).mills = s.mills := rfl
@[simp] theorem State.setJbUsed_image (s : State) (p v : Nat) : (s.setJbUsed p v).image = s.image := rfl
@[simp] theorem State.setJbUsed_pond (s : State) (p v : Nat) : (s.setJbUsed p v).pond = s.pond := rfl
@[simp] theorem State.setJbUsed_pondPoison (s : State) (p v : Nat) : (s.setJbUsed p v).pondPoison = s.pondPoison := rfl
@[simp] theorem State.setJbUsed_cls (s : State) (p v : Nat) : (s.setJbUsed p v).cls = s.cls := rfl
@[simp] theorem State.setJbUsed_streams (s : State) (p v : Nat) : (s.setJbUsed p v).streams = s.streams := rfl
@[simp] theorem State.setJbUsed_ipId (s : State) (p v : Nat) : (s.setJbUsed p v).ipId = s.ipId := rfl
@[simp] theorem State.setJbUsed_sch (s : State) (p v : Nat) : (s.setJbUsed p v).sch = s.sch := rfl
@[simp] theorem State.setJbUsed_ports (s : State) (p v : Nat) : (s.setJbUsed p v).ports = s.ports := rfl
@[simp] theorem State.setJbUsed_mg (s : State) (p v : Nat) : (s.setJbUsed p v).mg = s.mg := rfl
@[simp] theorem State.setJbUsed_tideNow (s : State) (p v : Nat) : (s.setJbUsed p v).tideNow = s.tideNow := rfl
@[simp] theorem State.setJbUsed_tide (s : State) (p v : Nat) : (s.setJbUsed p v).tide = s.tide := rfl
@[simp] theorem State.setJbUsed_mem (s : State) (p v : Nat) : (s.setJbUsed p v).mem = s.mem := rfl
@[simp] theorem State.setJbUsed_led (s : State) (p v : Nat) : (s.setJbUsed p v).led = s.led := rfl
@[simp] theorem State.setJbUsed_pol (s : State) (p v : Nat) : (s.setJbUsed p v).pol = s.pol := rfl
@[simp] theorem State.setJbUsed_meas (s : State) (p v : Nat) : (s.setJbUsed p v).meas = s.meas := rfl
@[simp] theorem State.setJbUsed_vk (s : State) (p v : Nat) : (s.setJbUsed p v).vk = s.vk := rfl
@[simp] theorem State.setJbUsed_press (s : State) (p v : Nat) : (s.setJbUsed p v).press = s.press := rfl
@[simp] theorem State.setJbUsed_pcie (s : State) (p v : Nat) : (s.setJbUsed p v).pcie = s.pcie := rfl
@[simp] theorem State.setJbUsed_power (s : State) (p v : Nat) : (s.setJbUsed p v).power = s.power := rfl
@[simp] theorem State.setJbUsed_i2c (s : State) (p v : Nat) : (s.setJbUsed p v).i2c = s.i2c := rfl
@[simp] theorem State.setJbUsed_trust (s : State) (p v : Nat) : (s.setJbUsed p v).trust = s.trust := rfl
@[simp] theorem State.setJbUsed_ras (s : State) (p v : Nat) : (s.setJbUsed p v).ras = s.ras := rfl
@[simp] theorem State.setJbUsed_out (s : State) (p v : Nat) : (s.setJbUsed p v).out = s.out := rfl
@[simp] theorem State.setJbUsed_fresh (s : State) (p v : Nat) : (s.setJbUsed p v).fresh = s.fresh := rfl
@[simp] theorem State.setJbUsed_pending (s : State) (p v : Nat) : (s.setJbUsed p v).pending = s.pending := rfl
@[simp] theorem State.setJbUsed_rd (s : State) (p v : Nat) (ty j off : Nat) : (s.setJbUsed p v).rd ty j off = s.rd ty j off := rfl
@[simp] theorem State.setJbUsed_fget (s : State) (p v : Nat) (fl : Fld) (j y : Nat) : (s.setJbUsed p v).fget fl j y = s.fget fl j y := rfl
@[simp] theorem State.setJbUsed_fbit (s : State) (p v : Nat) (fl : Fld) (j y : Nat) : (s.setJbUsed p v).fbit fl j y = s.fbit fl j y := rfl
@[simp] theorem State.setJbUsed_cget (s : State) (p v : Nat) (ct : Ctr) (j y : Nat) : (s.setJbUsed p v).cget ct j y = s.cget ct j y := rfl
@[simp] theorem State.setJbUsed_stone (s : State) (p v : Nat) (m : Nat) : (s.setJbUsed p v).stone m = s.stone m := rfl

/-! ### setStrm -/

@[simp] theorem State.setStrm_fuse (s : State) (n : Nat) (x : Stream) : (s.setStrm n x).fuse = s.fuse := rfl
@[simp] theorem State.setStrm_regs (s : State) (n : Nat) (x : Stream) : (s.setStrm n x).regs = s.regs := rfl
@[simp] theorem State.setStrm_ctrs (s : State) (n : Nat) (x : Stream) : (s.setStrm n x).ctrs = s.ctrs := rfl
@[simp] theorem State.setStrm_latch (s : State) (n : Nat) (x : Stream) : (s.setStrm n x).latch = s.latch := rfl
@[simp] theorem State.setStrm_shadow (s : State) (n : Nat) (x : Stream) : (s.setStrm n x).shadow = s.shadow := rfl
@[simp] theorem State.setStrm_flog (s : State) (n : Nat) (x : Stream) : (s.setStrm n x).flog = s.flog := rfl
@[simp] theorem State.setStrm_fab (s : State) (n : Nat) (x : Stream) : (s.setStrm n x).fab = s.fab := rfl
@[simp] theorem State.setStrm_stones (s : State) (n : Nat) (x : Stream) : (s.setStrm n x).stones = s.stones := rfl
@[simp] theorem State.setStrm_mills (s : State) (n : Nat) (x : Stream) : (s.setStrm n x).mills = s.mills := rfl
@[simp] theorem State.setStrm_image (s : State) (n : Nat) (x : Stream) : (s.setStrm n x).image = s.image := rfl
@[simp] theorem State.setStrm_pond (s : State) (n : Nat) (x : Stream) : (s.setStrm n x).pond = s.pond := rfl
@[simp] theorem State.setStrm_pondPoison (s : State) (n : Nat) (x : Stream) : (s.setStrm n x).pondPoison = s.pondPoison := rfl
@[simp] theorem State.setStrm_qs (s : State) (n : Nat) (x : Stream) : (s.setStrm n x).qs = s.qs := rfl
@[simp] theorem State.setStrm_cls (s : State) (n : Nat) (x : Stream) : (s.setStrm n x).cls = s.cls := rfl
@[simp] theorem State.setStrm_ipId (s : State) (n : Nat) (x : Stream) : (s.setStrm n x).ipId = s.ipId := rfl
@[simp] theorem State.setStrm_sch (s : State) (n : Nat) (x : Stream) : (s.setStrm n x).sch = s.sch := rfl
@[simp] theorem State.setStrm_ports (s : State) (n : Nat) (x : Stream) : (s.setStrm n x).ports = s.ports := rfl
@[simp] theorem State.setStrm_mg (s : State) (n : Nat) (x : Stream) : (s.setStrm n x).mg = s.mg := rfl
@[simp] theorem State.setStrm_tideNow (s : State) (n : Nat) (x : Stream) : (s.setStrm n x).tideNow = s.tideNow := rfl
@[simp] theorem State.setStrm_tide (s : State) (n : Nat) (x : Stream) : (s.setStrm n x).tide = s.tide := rfl
@[simp] theorem State.setStrm_mem (s : State) (n : Nat) (x : Stream) : (s.setStrm n x).mem = s.mem := rfl
@[simp] theorem State.setStrm_led (s : State) (n : Nat) (x : Stream) : (s.setStrm n x).led = s.led := rfl
@[simp] theorem State.setStrm_pol (s : State) (n : Nat) (x : Stream) : (s.setStrm n x).pol = s.pol := rfl
@[simp] theorem State.setStrm_meas (s : State) (n : Nat) (x : Stream) : (s.setStrm n x).meas = s.meas := rfl
@[simp] theorem State.setStrm_vk (s : State) (n : Nat) (x : Stream) : (s.setStrm n x).vk = s.vk := rfl
@[simp] theorem State.setStrm_press (s : State) (n : Nat) (x : Stream) : (s.setStrm n x).press = s.press := rfl
@[simp] theorem State.setStrm_pcie (s : State) (n : Nat) (x : Stream) : (s.setStrm n x).pcie = s.pcie := rfl
@[simp] theorem State.setStrm_power (s : State) (n : Nat) (x : Stream) : (s.setStrm n x).power = s.power := rfl
@[simp] theorem State.setStrm_i2c (s : State) (n : Nat) (x : Stream) : (s.setStrm n x).i2c = s.i2c := rfl
@[simp] theorem State.setStrm_trust (s : State) (n : Nat) (x : Stream) : (s.setStrm n x).trust = s.trust := rfl
@[simp] theorem State.setStrm_ras (s : State) (n : Nat) (x : Stream) : (s.setStrm n x).ras = s.ras := rfl
@[simp] theorem State.setStrm_out (s : State) (n : Nat) (x : Stream) : (s.setStrm n x).out = s.out := rfl
@[simp] theorem State.setStrm_fresh (s : State) (n : Nat) (x : Stream) : (s.setStrm n x).fresh = s.fresh := rfl
@[simp] theorem State.setStrm_pending (s : State) (n : Nat) (x : Stream) : (s.setStrm n x).pending = s.pending := rfl
@[simp] theorem State.setStrm_rd (s : State) (n : Nat) (x : Stream) (ty j off : Nat) : (s.setStrm n x).rd ty j off = s.rd ty j off := rfl
@[simp] theorem State.setStrm_fget (s : State) (n : Nat) (x : Stream) (fl : Fld) (j y : Nat) : (s.setStrm n x).fget fl j y = s.fget fl j y := rfl
@[simp] theorem State.setStrm_fbit (s : State) (n : Nat) (x : Stream) (fl : Fld) (j y : Nat) : (s.setStrm n x).fbit fl j y = s.fbit fl j y := rfl
@[simp] theorem State.setStrm_cget (s : State) (n : Nat) (x : Stream) (ct : Ctr) (j y : Nat) : (s.setStrm n x).cget ct j y = s.cget ct j y := rfl
@[simp] theorem State.setStrm_stone (s : State) (n : Nat) (x : Stream) (m : Nat) : (s.setStrm n x).stone m = s.stone m := rfl

/-! ### upStrm -/

@[simp] theorem State.upStrm_fuse (s : State) (n : Nat) (g : Stream → Stream) : (s.upStrm n g).fuse = s.fuse := rfl
@[simp] theorem State.upStrm_regs (s : State) (n : Nat) (g : Stream → Stream) : (s.upStrm n g).regs = s.regs := rfl
@[simp] theorem State.upStrm_ctrs (s : State) (n : Nat) (g : Stream → Stream) : (s.upStrm n g).ctrs = s.ctrs := rfl
@[simp] theorem State.upStrm_latch (s : State) (n : Nat) (g : Stream → Stream) : (s.upStrm n g).latch = s.latch := rfl
@[simp] theorem State.upStrm_shadow (s : State) (n : Nat) (g : Stream → Stream) : (s.upStrm n g).shadow = s.shadow := rfl
@[simp] theorem State.upStrm_flog (s : State) (n : Nat) (g : Stream → Stream) : (s.upStrm n g).flog = s.flog := rfl
@[simp] theorem State.upStrm_fab (s : State) (n : Nat) (g : Stream → Stream) : (s.upStrm n g).fab = s.fab := rfl
@[simp] theorem State.upStrm_stones (s : State) (n : Nat) (g : Stream → Stream) : (s.upStrm n g).stones = s.stones := rfl
@[simp] theorem State.upStrm_mills (s : State) (n : Nat) (g : Stream → Stream) : (s.upStrm n g).mills = s.mills := rfl
@[simp] theorem State.upStrm_image (s : State) (n : Nat) (g : Stream → Stream) : (s.upStrm n g).image = s.image := rfl
@[simp] theorem State.upStrm_pond (s : State) (n : Nat) (g : Stream → Stream) : (s.upStrm n g).pond = s.pond := rfl
@[simp] theorem State.upStrm_pondPoison (s : State) (n : Nat) (g : Stream → Stream) : (s.upStrm n g).pondPoison = s.pondPoison := rfl
@[simp] theorem State.upStrm_qs (s : State) (n : Nat) (g : Stream → Stream) : (s.upStrm n g).qs = s.qs := rfl
@[simp] theorem State.upStrm_cls (s : State) (n : Nat) (g : Stream → Stream) : (s.upStrm n g).cls = s.cls := rfl
@[simp] theorem State.upStrm_ipId (s : State) (n : Nat) (g : Stream → Stream) : (s.upStrm n g).ipId = s.ipId := rfl
@[simp] theorem State.upStrm_sch (s : State) (n : Nat) (g : Stream → Stream) : (s.upStrm n g).sch = s.sch := rfl
@[simp] theorem State.upStrm_ports (s : State) (n : Nat) (g : Stream → Stream) : (s.upStrm n g).ports = s.ports := rfl
@[simp] theorem State.upStrm_mg (s : State) (n : Nat) (g : Stream → Stream) : (s.upStrm n g).mg = s.mg := rfl
@[simp] theorem State.upStrm_tideNow (s : State) (n : Nat) (g : Stream → Stream) : (s.upStrm n g).tideNow = s.tideNow := rfl
@[simp] theorem State.upStrm_tide (s : State) (n : Nat) (g : Stream → Stream) : (s.upStrm n g).tide = s.tide := rfl
@[simp] theorem State.upStrm_mem (s : State) (n : Nat) (g : Stream → Stream) : (s.upStrm n g).mem = s.mem := rfl
@[simp] theorem State.upStrm_led (s : State) (n : Nat) (g : Stream → Stream) : (s.upStrm n g).led = s.led := rfl
@[simp] theorem State.upStrm_pol (s : State) (n : Nat) (g : Stream → Stream) : (s.upStrm n g).pol = s.pol := rfl
@[simp] theorem State.upStrm_meas (s : State) (n : Nat) (g : Stream → Stream) : (s.upStrm n g).meas = s.meas := rfl
@[simp] theorem State.upStrm_vk (s : State) (n : Nat) (g : Stream → Stream) : (s.upStrm n g).vk = s.vk := rfl
@[simp] theorem State.upStrm_press (s : State) (n : Nat) (g : Stream → Stream) : (s.upStrm n g).press = s.press := rfl
@[simp] theorem State.upStrm_pcie (s : State) (n : Nat) (g : Stream → Stream) : (s.upStrm n g).pcie = s.pcie := rfl
@[simp] theorem State.upStrm_power (s : State) (n : Nat) (g : Stream → Stream) : (s.upStrm n g).power = s.power := rfl
@[simp] theorem State.upStrm_i2c (s : State) (n : Nat) (g : Stream → Stream) : (s.upStrm n g).i2c = s.i2c := rfl
@[simp] theorem State.upStrm_trust (s : State) (n : Nat) (g : Stream → Stream) : (s.upStrm n g).trust = s.trust := rfl
@[simp] theorem State.upStrm_ras (s : State) (n : Nat) (g : Stream → Stream) : (s.upStrm n g).ras = s.ras := rfl
@[simp] theorem State.upStrm_out (s : State) (n : Nat) (g : Stream → Stream) : (s.upStrm n g).out = s.out := rfl
@[simp] theorem State.upStrm_fresh (s : State) (n : Nat) (g : Stream → Stream) : (s.upStrm n g).fresh = s.fresh := rfl
@[simp] theorem State.upStrm_pending (s : State) (n : Nat) (g : Stream → Stream) : (s.upStrm n g).pending = s.pending := rfl
@[simp] theorem State.upStrm_rd (s : State) (n : Nat) (g : Stream → Stream) (ty j off : Nat) : (s.upStrm n g).rd ty j off = s.rd ty j off := rfl
@[simp] theorem State.upStrm_fget (s : State) (n : Nat) (g : Stream → Stream) (fl : Fld) (j y : Nat) : (s.upStrm n g).fget fl j y = s.fget fl j y := rfl
@[simp] theorem State.upStrm_fbit (s : State) (n : Nat) (g : Stream → Stream) (fl : Fld) (j y : Nat) : (s.upStrm n g).fbit fl j y = s.fbit fl j y := rfl
@[simp] theorem State.upStrm_cget (s : State) (n : Nat) (g : Stream → Stream) (ct : Ctr) (j y : Nat) : (s.upStrm n g).cget ct j y = s.cget ct j y := rfl
@[simp] theorem State.upStrm_stone (s : State) (n : Nat) (g : Stream → Stream) (m : Nat) : (s.upStrm n g).stone m = s.stone m := rfl

/-! ### setChan -/

@[simp] theorem State.setChan_fuse (s : State) (n : Nat) (x : Chan) : (s.setChan n x).fuse = s.fuse := rfl
@[simp] theorem State.setChan_regs (s : State) (n : Nat) (x : Chan) : (s.setChan n x).regs = s.regs := rfl
@[simp] theorem State.setChan_ctrs (s : State) (n : Nat) (x : Chan) : (s.setChan n x).ctrs = s.ctrs := rfl
@[simp] theorem State.setChan_latch (s : State) (n : Nat) (x : Chan) : (s.setChan n x).latch = s.latch := rfl
@[simp] theorem State.setChan_shadow (s : State) (n : Nat) (x : Chan) : (s.setChan n x).shadow = s.shadow := rfl
@[simp] theorem State.setChan_flog (s : State) (n : Nat) (x : Chan) : (s.setChan n x).flog = s.flog := rfl
@[simp] theorem State.setChan_fab (s : State) (n : Nat) (x : Chan) : (s.setChan n x).fab = s.fab := rfl
@[simp] theorem State.setChan_stones (s : State) (n : Nat) (x : Chan) : (s.setChan n x).stones = s.stones := rfl
@[simp] theorem State.setChan_mills (s : State) (n : Nat) (x : Chan) : (s.setChan n x).mills = s.mills := rfl
@[simp] theorem State.setChan_image (s : State) (n : Nat) (x : Chan) : (s.setChan n x).image = s.image := rfl
@[simp] theorem State.setChan_pond (s : State) (n : Nat) (x : Chan) : (s.setChan n x).pond = s.pond := rfl
@[simp] theorem State.setChan_pondPoison (s : State) (n : Nat) (x : Chan) : (s.setChan n x).pondPoison = s.pondPoison := rfl
@[simp] theorem State.setChan_qs (s : State) (n : Nat) (x : Chan) : (s.setChan n x).qs = s.qs := rfl
@[simp] theorem State.setChan_cls (s : State) (n : Nat) (x : Chan) : (s.setChan n x).cls = s.cls := rfl
@[simp] theorem State.setChan_streams (s : State) (n : Nat) (x : Chan) : (s.setChan n x).streams = s.streams := rfl
@[simp] theorem State.setChan_ipId (s : State) (n : Nat) (x : Chan) : (s.setChan n x).ipId = s.ipId := rfl
@[simp] theorem State.setChan_ports (s : State) (n : Nat) (x : Chan) : (s.setChan n x).ports = s.ports := rfl
@[simp] theorem State.setChan_mg (s : State) (n : Nat) (x : Chan) : (s.setChan n x).mg = s.mg := rfl
@[simp] theorem State.setChan_tideNow (s : State) (n : Nat) (x : Chan) : (s.setChan n x).tideNow = s.tideNow := rfl
@[simp] theorem State.setChan_tide (s : State) (n : Nat) (x : Chan) : (s.setChan n x).tide = s.tide := rfl
@[simp] theorem State.setChan_mem (s : State) (n : Nat) (x : Chan) : (s.setChan n x).mem = s.mem := rfl
@[simp] theorem State.setChan_led (s : State) (n : Nat) (x : Chan) : (s.setChan n x).led = s.led := rfl
@[simp] theorem State.setChan_pol (s : State) (n : Nat) (x : Chan) : (s.setChan n x).pol = s.pol := rfl
@[simp] theorem State.setChan_meas (s : State) (n : Nat) (x : Chan) : (s.setChan n x).meas = s.meas := rfl
@[simp] theorem State.setChan_vk (s : State) (n : Nat) (x : Chan) : (s.setChan n x).vk = s.vk := rfl
@[simp] theorem State.setChan_press (s : State) (n : Nat) (x : Chan) : (s.setChan n x).press = s.press := rfl
@[simp] theorem State.setChan_pcie (s : State) (n : Nat) (x : Chan) : (s.setChan n x).pcie = s.pcie := rfl
@[simp] theorem State.setChan_power (s : State) (n : Nat) (x : Chan) : (s.setChan n x).power = s.power := rfl
@[simp] theorem State.setChan_i2c (s : State) (n : Nat) (x : Chan) : (s.setChan n x).i2c = s.i2c := rfl
@[simp] theorem State.setChan_trust (s : State) (n : Nat) (x : Chan) : (s.setChan n x).trust = s.trust := rfl
@[simp] theorem State.setChan_ras (s : State) (n : Nat) (x : Chan) : (s.setChan n x).ras = s.ras := rfl
@[simp] theorem State.setChan_out (s : State) (n : Nat) (x : Chan) : (s.setChan n x).out = s.out := rfl
@[simp] theorem State.setChan_fresh (s : State) (n : Nat) (x : Chan) : (s.setChan n x).fresh = s.fresh := rfl
@[simp] theorem State.setChan_pending (s : State) (n : Nat) (x : Chan) : (s.setChan n x).pending = s.pending := rfl
@[simp] theorem State.setChan_rd (s : State) (n : Nat) (x : Chan) (ty j off : Nat) : (s.setChan n x).rd ty j off = s.rd ty j off := rfl
@[simp] theorem State.setChan_fget (s : State) (n : Nat) (x : Chan) (fl : Fld) (j y : Nat) : (s.setChan n x).fget fl j y = s.fget fl j y := rfl
@[simp] theorem State.setChan_fbit (s : State) (n : Nat) (x : Chan) (fl : Fld) (j y : Nat) : (s.setChan n x).fbit fl j y = s.fbit fl j y := rfl
@[simp] theorem State.setChan_cget (s : State) (n : Nat) (x : Chan) (ct : Ctr) (j y : Nat) : (s.setChan n x).cget ct j y = s.cget ct j y := rfl
@[simp] theorem State.setChan_stone (s : State) (n : Nat) (x : Chan) (m : Nat) : (s.setChan n x).stone m = s.stone m := rfl

/-! ### setCls -/

@[simp] theorem State.setCls_fuse (s : State) (h : Nat) (x : Classifier) : (s.setCls h x).fuse = s.fuse := rfl
@[simp] theorem State.setCls_regs (s : State) (h : Nat) (x : Classifier) : (s.setCls h x).regs = s.regs := rfl
@[simp] theorem State.setCls_ctrs (s : State) (h : Nat) (x : Classifier) : (s.setCls h x).ctrs = s.ctrs := rfl
@[simp] theorem State.setCls_latch (s : State) (h : Nat) (x : Classifier) : (s.setCls h x).latch = s.latch := rfl
@[simp] theorem State.setCls_shadow (s : State) (h : Nat) (x : Classifier) : (s.setCls h x).shadow = s.shadow := rfl
@[simp] theorem State.setCls_flog (s : State) (h : Nat) (x : Classifier) : (s.setCls h x).flog = s.flog := rfl
@[simp] theorem State.setCls_fab (s : State) (h : Nat) (x : Classifier) : (s.setCls h x).fab = s.fab := rfl
@[simp] theorem State.setCls_stones (s : State) (h : Nat) (x : Classifier) : (s.setCls h x).stones = s.stones := rfl
@[simp] theorem State.setCls_mills (s : State) (h : Nat) (x : Classifier) : (s.setCls h x).mills = s.mills := rfl
@[simp] theorem State.setCls_image (s : State) (h : Nat) (x : Classifier) : (s.setCls h x).image = s.image := rfl
@[simp] theorem State.setCls_pond (s : State) (h : Nat) (x : Classifier) : (s.setCls h x).pond = s.pond := rfl
@[simp] theorem State.setCls_pondPoison (s : State) (h : Nat) (x : Classifier) : (s.setCls h x).pondPoison = s.pondPoison := rfl
@[simp] theorem State.setCls_qs (s : State) (h : Nat) (x : Classifier) : (s.setCls h x).qs = s.qs := rfl
@[simp] theorem State.setCls_streams (s : State) (h : Nat) (x : Classifier) : (s.setCls h x).streams = s.streams := rfl
@[simp] theorem State.setCls_ipId (s : State) (h : Nat) (x : Classifier) : (s.setCls h x).ipId = s.ipId := rfl
@[simp] theorem State.setCls_sch (s : State) (h : Nat) (x : Classifier) : (s.setCls h x).sch = s.sch := rfl
@[simp] theorem State.setCls_ports (s : State) (h : Nat) (x : Classifier) : (s.setCls h x).ports = s.ports := rfl
@[simp] theorem State.setCls_mg (s : State) (h : Nat) (x : Classifier) : (s.setCls h x).mg = s.mg := rfl
@[simp] theorem State.setCls_tideNow (s : State) (h : Nat) (x : Classifier) : (s.setCls h x).tideNow = s.tideNow := rfl
@[simp] theorem State.setCls_tide (s : State) (h : Nat) (x : Classifier) : (s.setCls h x).tide = s.tide := rfl
@[simp] theorem State.setCls_mem (s : State) (h : Nat) (x : Classifier) : (s.setCls h x).mem = s.mem := rfl
@[simp] theorem State.setCls_led (s : State) (h : Nat) (x : Classifier) : (s.setCls h x).led = s.led := rfl
@[simp] theorem State.setCls_pol (s : State) (h : Nat) (x : Classifier) : (s.setCls h x).pol = s.pol := rfl
@[simp] theorem State.setCls_meas (s : State) (h : Nat) (x : Classifier) : (s.setCls h x).meas = s.meas := rfl
@[simp] theorem State.setCls_vk (s : State) (h : Nat) (x : Classifier) : (s.setCls h x).vk = s.vk := rfl
@[simp] theorem State.setCls_press (s : State) (h : Nat) (x : Classifier) : (s.setCls h x).press = s.press := rfl
@[simp] theorem State.setCls_pcie (s : State) (h : Nat) (x : Classifier) : (s.setCls h x).pcie = s.pcie := rfl
@[simp] theorem State.setCls_power (s : State) (h : Nat) (x : Classifier) : (s.setCls h x).power = s.power := rfl
@[simp] theorem State.setCls_i2c (s : State) (h : Nat) (x : Classifier) : (s.setCls h x).i2c = s.i2c := rfl
@[simp] theorem State.setCls_trust (s : State) (h : Nat) (x : Classifier) : (s.setCls h x).trust = s.trust := rfl
@[simp] theorem State.setCls_ras (s : State) (h : Nat) (x : Classifier) : (s.setCls h x).ras = s.ras := rfl
@[simp] theorem State.setCls_out (s : State) (h : Nat) (x : Classifier) : (s.setCls h x).out = s.out := rfl
@[simp] theorem State.setCls_fresh (s : State) (h : Nat) (x : Classifier) : (s.setCls h x).fresh = s.fresh := rfl
@[simp] theorem State.setCls_pending (s : State) (h : Nat) (x : Classifier) : (s.setCls h x).pending = s.pending := rfl
@[simp] theorem State.setCls_rd (s : State) (h : Nat) (x : Classifier) (ty j off : Nat) : (s.setCls h x).rd ty j off = s.rd ty j off := rfl
@[simp] theorem State.setCls_fget (s : State) (h : Nat) (x : Classifier) (fl : Fld) (j y : Nat) : (s.setCls h x).fget fl j y = s.fget fl j y := rfl
@[simp] theorem State.setCls_fbit (s : State) (h : Nat) (x : Classifier) (fl : Fld) (j y : Nat) : (s.setCls h x).fbit fl j y = s.fbit fl j y := rfl
@[simp] theorem State.setCls_cget (s : State) (h : Nat) (x : Classifier) (ct : Ctr) (j y : Nat) : (s.setCls h x).cget ct j y = s.cget ct j y := rfl
@[simp] theorem State.setCls_stone (s : State) (h : Nat) (x : Classifier) (m : Nat) : (s.setCls h x).stone m = s.stone m := rfl

/-! ### setSlot -/

@[simp] theorem State.setSlot_fuse (s : State) (h k : Nat) (x : Slot) : (s.setSlot h k x).fuse = s.fuse := rfl
@[simp] theorem State.setSlot_regs (s : State) (h k : Nat) (x : Slot) : (s.setSlot h k x).regs = s.regs := rfl
@[simp] theorem State.setSlot_ctrs (s : State) (h k : Nat) (x : Slot) : (s.setSlot h k x).ctrs = s.ctrs := rfl
@[simp] theorem State.setSlot_latch (s : State) (h k : Nat) (x : Slot) : (s.setSlot h k x).latch = s.latch := rfl
@[simp] theorem State.setSlot_shadow (s : State) (h k : Nat) (x : Slot) : (s.setSlot h k x).shadow = s.shadow := rfl
@[simp] theorem State.setSlot_flog (s : State) (h k : Nat) (x : Slot) : (s.setSlot h k x).flog = s.flog := rfl
@[simp] theorem State.setSlot_fab (s : State) (h k : Nat) (x : Slot) : (s.setSlot h k x).fab = s.fab := rfl
@[simp] theorem State.setSlot_stones (s : State) (h k : Nat) (x : Slot) : (s.setSlot h k x).stones = s.stones := rfl
@[simp] theorem State.setSlot_mills (s : State) (h k : Nat) (x : Slot) : (s.setSlot h k x).mills = s.mills := rfl
@[simp] theorem State.setSlot_image (s : State) (h k : Nat) (x : Slot) : (s.setSlot h k x).image = s.image := rfl
@[simp] theorem State.setSlot_pond (s : State) (h k : Nat) (x : Slot) : (s.setSlot h k x).pond = s.pond := rfl
@[simp] theorem State.setSlot_pondPoison (s : State) (h k : Nat) (x : Slot) : (s.setSlot h k x).pondPoison = s.pondPoison := rfl
@[simp] theorem State.setSlot_qs (s : State) (h k : Nat) (x : Slot) : (s.setSlot h k x).qs = s.qs := rfl
@[simp] theorem State.setSlot_streams (s : State) (h k : Nat) (x : Slot) : (s.setSlot h k x).streams = s.streams := rfl
@[simp] theorem State.setSlot_ipId (s : State) (h k : Nat) (x : Slot) : (s.setSlot h k x).ipId = s.ipId := rfl
@[simp] theorem State.setSlot_sch (s : State) (h k : Nat) (x : Slot) : (s.setSlot h k x).sch = s.sch := rfl
@[simp] theorem State.setSlot_ports (s : State) (h k : Nat) (x : Slot) : (s.setSlot h k x).ports = s.ports := rfl
@[simp] theorem State.setSlot_mg (s : State) (h k : Nat) (x : Slot) : (s.setSlot h k x).mg = s.mg := rfl
@[simp] theorem State.setSlot_tideNow (s : State) (h k : Nat) (x : Slot) : (s.setSlot h k x).tideNow = s.tideNow := rfl
@[simp] theorem State.setSlot_tide (s : State) (h k : Nat) (x : Slot) : (s.setSlot h k x).tide = s.tide := rfl
@[simp] theorem State.setSlot_mem (s : State) (h k : Nat) (x : Slot) : (s.setSlot h k x).mem = s.mem := rfl
@[simp] theorem State.setSlot_led (s : State) (h k : Nat) (x : Slot) : (s.setSlot h k x).led = s.led := rfl
@[simp] theorem State.setSlot_pol (s : State) (h k : Nat) (x : Slot) : (s.setSlot h k x).pol = s.pol := rfl
@[simp] theorem State.setSlot_meas (s : State) (h k : Nat) (x : Slot) : (s.setSlot h k x).meas = s.meas := rfl
@[simp] theorem State.setSlot_vk (s : State) (h k : Nat) (x : Slot) : (s.setSlot h k x).vk = s.vk := rfl
@[simp] theorem State.setSlot_press (s : State) (h k : Nat) (x : Slot) : (s.setSlot h k x).press = s.press := rfl
@[simp] theorem State.setSlot_pcie (s : State) (h k : Nat) (x : Slot) : (s.setSlot h k x).pcie = s.pcie := rfl
@[simp] theorem State.setSlot_power (s : State) (h k : Nat) (x : Slot) : (s.setSlot h k x).power = s.power := rfl
@[simp] theorem State.setSlot_i2c (s : State) (h k : Nat) (x : Slot) : (s.setSlot h k x).i2c = s.i2c := rfl
@[simp] theorem State.setSlot_trust (s : State) (h k : Nat) (x : Slot) : (s.setSlot h k x).trust = s.trust := rfl
@[simp] theorem State.setSlot_ras (s : State) (h k : Nat) (x : Slot) : (s.setSlot h k x).ras = s.ras := rfl
@[simp] theorem State.setSlot_out (s : State) (h k : Nat) (x : Slot) : (s.setSlot h k x).out = s.out := rfl
@[simp] theorem State.setSlot_fresh (s : State) (h k : Nat) (x : Slot) : (s.setSlot h k x).fresh = s.fresh := rfl
@[simp] theorem State.setSlot_pending (s : State) (h k : Nat) (x : Slot) : (s.setSlot h k x).pending = s.pending := rfl
@[simp] theorem State.setSlot_rd (s : State) (h k : Nat) (x : Slot) (ty j off : Nat) : (s.setSlot h k x).rd ty j off = s.rd ty j off := rfl
@[simp] theorem State.setSlot_fget (s : State) (h k : Nat) (x : Slot) (fl : Fld) (j y : Nat) : (s.setSlot h k x).fget fl j y = s.fget fl j y := rfl
@[simp] theorem State.setSlot_fbit (s : State) (h k : Nat) (x : Slot) (fl : Fld) (j y : Nat) : (s.setSlot h k x).fbit fl j y = s.fbit fl j y := rfl
@[simp] theorem State.setSlot_cget (s : State) (h k : Nat) (x : Slot) (ct : Ctr) (j y : Nat) : (s.setSlot h k x).cget ct j y = s.cget ct j y := rfl
@[simp] theorem State.setSlot_stone (s : State) (h k : Nat) (x : Slot) (m : Nat) : (s.setSlot h k x).stone m = s.stone m := rfl

/-! ### upPort -/

@[simp] theorem State.upPort_fuse (s : State) (n : Nat) (g : Port → Port) : (s.upPort n g).fuse = s.fuse := rfl
@[simp] theorem State.upPort_regs (s : State) (n : Nat) (g : Port → Port) : (s.upPort n g).regs = s.regs := rfl
@[simp] theorem State.upPort_ctrs (s : State) (n : Nat) (g : Port → Port) : (s.upPort n g).ctrs = s.ctrs := rfl
@[simp] theorem State.upPort_latch (s : State) (n : Nat) (g : Port → Port) : (s.upPort n g).latch = s.latch := rfl
@[simp] theorem State.upPort_shadow (s : State) (n : Nat) (g : Port → Port) : (s.upPort n g).shadow = s.shadow := rfl
@[simp] theorem State.upPort_flog (s : State) (n : Nat) (g : Port → Port) : (s.upPort n g).flog = s.flog := rfl
@[simp] theorem State.upPort_fab (s : State) (n : Nat) (g : Port → Port) : (s.upPort n g).fab = s.fab := rfl
@[simp] theorem State.upPort_stones (s : State) (n : Nat) (g : Port → Port) : (s.upPort n g).stones = s.stones := rfl
@[simp] theorem State.upPort_mills (s : State) (n : Nat) (g : Port → Port) : (s.upPort n g).mills = s.mills := rfl
@[simp] theorem State.upPort_image (s : State) (n : Nat) (g : Port → Port) : (s.upPort n g).image = s.image := rfl
@[simp] theorem State.upPort_pond (s : State) (n : Nat) (g : Port → Port) : (s.upPort n g).pond = s.pond := rfl
@[simp] theorem State.upPort_pondPoison (s : State) (n : Nat) (g : Port → Port) : (s.upPort n g).pondPoison = s.pondPoison := rfl
@[simp] theorem State.upPort_qs (s : State) (n : Nat) (g : Port → Port) : (s.upPort n g).qs = s.qs := rfl
@[simp] theorem State.upPort_cls (s : State) (n : Nat) (g : Port → Port) : (s.upPort n g).cls = s.cls := rfl
@[simp] theorem State.upPort_streams (s : State) (n : Nat) (g : Port → Port) : (s.upPort n g).streams = s.streams := rfl
@[simp] theorem State.upPort_ipId (s : State) (n : Nat) (g : Port → Port) : (s.upPort n g).ipId = s.ipId := rfl
@[simp] theorem State.upPort_sch (s : State) (n : Nat) (g : Port → Port) : (s.upPort n g).sch = s.sch := rfl
@[simp] theorem State.upPort_mg (s : State) (n : Nat) (g : Port → Port) : (s.upPort n g).mg = s.mg := rfl
@[simp] theorem State.upPort_tideNow (s : State) (n : Nat) (g : Port → Port) : (s.upPort n g).tideNow = s.tideNow := rfl
@[simp] theorem State.upPort_tide (s : State) (n : Nat) (g : Port → Port) : (s.upPort n g).tide = s.tide := rfl
@[simp] theorem State.upPort_mem (s : State) (n : Nat) (g : Port → Port) : (s.upPort n g).mem = s.mem := rfl
@[simp] theorem State.upPort_led (s : State) (n : Nat) (g : Port → Port) : (s.upPort n g).led = s.led := rfl
@[simp] theorem State.upPort_pol (s : State) (n : Nat) (g : Port → Port) : (s.upPort n g).pol = s.pol := rfl
@[simp] theorem State.upPort_meas (s : State) (n : Nat) (g : Port → Port) : (s.upPort n g).meas = s.meas := rfl
@[simp] theorem State.upPort_vk (s : State) (n : Nat) (g : Port → Port) : (s.upPort n g).vk = s.vk := rfl
@[simp] theorem State.upPort_press (s : State) (n : Nat) (g : Port → Port) : (s.upPort n g).press = s.press := rfl
@[simp] theorem State.upPort_pcie (s : State) (n : Nat) (g : Port → Port) : (s.upPort n g).pcie = s.pcie := rfl
@[simp] theorem State.upPort_power (s : State) (n : Nat) (g : Port → Port) : (s.upPort n g).power = s.power := rfl
@[simp] theorem State.upPort_i2c (s : State) (n : Nat) (g : Port → Port) : (s.upPort n g).i2c = s.i2c := rfl
@[simp] theorem State.upPort_trust (s : State) (n : Nat) (g : Port → Port) : (s.upPort n g).trust = s.trust := rfl
@[simp] theorem State.upPort_ras (s : State) (n : Nat) (g : Port → Port) : (s.upPort n g).ras = s.ras := rfl
@[simp] theorem State.upPort_out (s : State) (n : Nat) (g : Port → Port) : (s.upPort n g).out = s.out := rfl
@[simp] theorem State.upPort_fresh (s : State) (n : Nat) (g : Port → Port) : (s.upPort n g).fresh = s.fresh := rfl
@[simp] theorem State.upPort_pending (s : State) (n : Nat) (g : Port → Port) : (s.upPort n g).pending = s.pending := rfl
@[simp] theorem State.upPort_rd (s : State) (n : Nat) (g : Port → Port) (ty j off : Nat) : (s.upPort n g).rd ty j off = s.rd ty j off := rfl
@[simp] theorem State.upPort_fget (s : State) (n : Nat) (g : Port → Port) (fl : Fld) (j y : Nat) : (s.upPort n g).fget fl j y = s.fget fl j y := rfl
@[simp] theorem State.upPort_fbit (s : State) (n : Nat) (g : Port → Port) (fl : Fld) (j y : Nat) : (s.upPort n g).fbit fl j y = s.fbit fl j y := rfl
@[simp] theorem State.upPort_cget (s : State) (n : Nat) (g : Port → Port) (ct : Ctr) (j y : Nat) : (s.upPort n g).cget ct j y = s.cget ct j y := rfl
@[simp] theorem State.upPort_stone (s : State) (n : Nat) (g : Port → Port) (m : Nat) : (s.upPort n g).stone m = s.stone m := rfl

/-! ### clock -/

@[simp] theorem State.clock_fuse (s : State) (n : Nat) : (s.clock n).fuse = s.fuse := rfl
@[simp] theorem State.clock_regs (s : State) (n : Nat) : (s.clock n).regs = s.regs := rfl
@[simp] theorem State.clock_ctrs (s : State) (n : Nat) : (s.clock n).ctrs = s.ctrs := rfl
@[simp] theorem State.clock_latch (s : State) (n : Nat) : (s.clock n).latch = s.latch := rfl
@[simp] theorem State.clock_shadow (s : State) (n : Nat) : (s.clock n).shadow = s.shadow := rfl
@[simp] theorem State.clock_flog (s : State) (n : Nat) : (s.clock n).flog = s.flog := rfl
@[simp] theorem State.clock_fab (s : State) (n : Nat) : (s.clock n).fab = s.fab := rfl
@[simp] theorem State.clock_stones (s : State) (n : Nat) : (s.clock n).stones = s.stones := rfl
@[simp] theorem State.clock_mills (s : State) (n : Nat) : (s.clock n).mills = s.mills := rfl
@[simp] theorem State.clock_image (s : State) (n : Nat) : (s.clock n).image = s.image := rfl
@[simp] theorem State.clock_pond (s : State) (n : Nat) : (s.clock n).pond = s.pond := rfl
@[simp] theorem State.clock_pondPoison (s : State) (n : Nat) : (s.clock n).pondPoison = s.pondPoison := rfl
@[simp] theorem State.clock_qs (s : State) (n : Nat) : (s.clock n).qs = s.qs := rfl
@[simp] theorem State.clock_cls (s : State) (n : Nat) : (s.clock n).cls = s.cls := rfl
@[simp] theorem State.clock_streams (s : State) (n : Nat) : (s.clock n).streams = s.streams := rfl
@[simp] theorem State.clock_ipId (s : State) (n : Nat) : (s.clock n).ipId = s.ipId := rfl
@[simp] theorem State.clock_sch (s : State) (n : Nat) : (s.clock n).sch = s.sch := rfl
@[simp] theorem State.clock_ports (s : State) (n : Nat) : (s.clock n).ports = s.ports := rfl
@[simp] theorem State.clock_mg (s : State) (n : Nat) : (s.clock n).mg = s.mg := rfl
@[simp] theorem State.clock_tide (s : State) (n : Nat) : (s.clock n).tide = s.tide := rfl
@[simp] theorem State.clock_mem (s : State) (n : Nat) : (s.clock n).mem = s.mem := rfl
@[simp] theorem State.clock_led (s : State) (n : Nat) : (s.clock n).led = s.led := rfl
@[simp] theorem State.clock_pol (s : State) (n : Nat) : (s.clock n).pol = s.pol := rfl
@[simp] theorem State.clock_meas (s : State) (n : Nat) : (s.clock n).meas = s.meas := rfl
@[simp] theorem State.clock_vk (s : State) (n : Nat) : (s.clock n).vk = s.vk := rfl
@[simp] theorem State.clock_press (s : State) (n : Nat) : (s.clock n).press = s.press := rfl
@[simp] theorem State.clock_pcie (s : State) (n : Nat) : (s.clock n).pcie = s.pcie := rfl
@[simp] theorem State.clock_power (s : State) (n : Nat) : (s.clock n).power = s.power := rfl
@[simp] theorem State.clock_i2c (s : State) (n : Nat) : (s.clock n).i2c = s.i2c := rfl
@[simp] theorem State.clock_trust (s : State) (n : Nat) : (s.clock n).trust = s.trust := rfl
@[simp] theorem State.clock_ras (s : State) (n : Nat) : (s.clock n).ras = s.ras := rfl
@[simp] theorem State.clock_out (s : State) (n : Nat) : (s.clock n).out = s.out := rfl
@[simp] theorem State.clock_fresh (s : State) (n : Nat) : (s.clock n).fresh = s.fresh := rfl
@[simp] theorem State.clock_pending (s : State) (n : Nat) : (s.clock n).pending = s.pending := rfl
@[simp] theorem State.clock_rd (s : State) (n : Nat) (ty j off : Nat) : (s.clock n).rd ty j off = s.rd ty j off := rfl
@[simp] theorem State.clock_fget (s : State) (n : Nat) (fl : Fld) (j y : Nat) : (s.clock n).fget fl j y = s.fget fl j y := rfl
@[simp] theorem State.clock_fbit (s : State) (n : Nat) (fl : Fld) (j y : Nat) : (s.clock n).fbit fl j y = s.fbit fl j y := rfl
@[simp] theorem State.clock_cget (s : State) (n : Nat) (ct : Ctr) (j y : Nat) : (s.clock n).cget ct j y = s.cget ct j y := rfl
@[simp] theorem State.clock_stone (s : State) (n : Nat) (m : Nat) : (s.clock n).stone m = s.stone m := rfl

/-! ### upTide -/

@[simp] theorem State.upTide_fuse (s : State) (g : TideSt → TideSt) : (s.upTide g).fuse = s.fuse := rfl
@[simp] theorem State.upTide_regs (s : State) (g : TideSt → TideSt) : (s.upTide g).regs = s.regs := rfl
@[simp] theorem State.upTide_ctrs (s : State) (g : TideSt → TideSt) : (s.upTide g).ctrs = s.ctrs := rfl
@[simp] theorem State.upTide_latch (s : State) (g : TideSt → TideSt) : (s.upTide g).latch = s.latch := rfl
@[simp] theorem State.upTide_shadow (s : State) (g : TideSt → TideSt) : (s.upTide g).shadow = s.shadow := rfl
@[simp] theorem State.upTide_flog (s : State) (g : TideSt → TideSt) : (s.upTide g).flog = s.flog := rfl
@[simp] theorem State.upTide_fab (s : State) (g : TideSt → TideSt) : (s.upTide g).fab = s.fab := rfl
@[simp] theorem State.upTide_stones (s : State) (g : TideSt → TideSt) : (s.upTide g).stones = s.stones := rfl
@[simp] theorem State.upTide_mills (s : State) (g : TideSt → TideSt) : (s.upTide g).mills = s.mills := rfl
@[simp] theorem State.upTide_image (s : State) (g : TideSt → TideSt) : (s.upTide g).image = s.image := rfl
@[simp] theorem State.upTide_pond (s : State) (g : TideSt → TideSt) : (s.upTide g).pond = s.pond := rfl
@[simp] theorem State.upTide_pondPoison (s : State) (g : TideSt → TideSt) : (s.upTide g).pondPoison = s.pondPoison := rfl
@[simp] theorem State.upTide_qs (s : State) (g : TideSt → TideSt) : (s.upTide g).qs = s.qs := rfl
@[simp] theorem State.upTide_cls (s : State) (g : TideSt → TideSt) : (s.upTide g).cls = s.cls := rfl
@[simp] theorem State.upTide_streams (s : State) (g : TideSt → TideSt) : (s.upTide g).streams = s.streams := rfl
@[simp] theorem State.upTide_ipId (s : State) (g : TideSt → TideSt) : (s.upTide g).ipId = s.ipId := rfl
@[simp] theorem State.upTide_sch (s : State) (g : TideSt → TideSt) : (s.upTide g).sch = s.sch := rfl
@[simp] theorem State.upTide_ports (s : State) (g : TideSt → TideSt) : (s.upTide g).ports = s.ports := rfl
@[simp] theorem State.upTide_mg (s : State) (g : TideSt → TideSt) : (s.upTide g).mg = s.mg := rfl
@[simp] theorem State.upTide_tideNow (s : State) (g : TideSt → TideSt) : (s.upTide g).tideNow = s.tideNow := rfl
@[simp] theorem State.upTide_mem (s : State) (g : TideSt → TideSt) : (s.upTide g).mem = s.mem := rfl
@[simp] theorem State.upTide_led (s : State) (g : TideSt → TideSt) : (s.upTide g).led = s.led := rfl
@[simp] theorem State.upTide_pol (s : State) (g : TideSt → TideSt) : (s.upTide g).pol = s.pol := rfl
@[simp] theorem State.upTide_meas (s : State) (g : TideSt → TideSt) : (s.upTide g).meas = s.meas := rfl
@[simp] theorem State.upTide_vk (s : State) (g : TideSt → TideSt) : (s.upTide g).vk = s.vk := rfl
@[simp] theorem State.upTide_press (s : State) (g : TideSt → TideSt) : (s.upTide g).press = s.press := rfl
@[simp] theorem State.upTide_pcie (s : State) (g : TideSt → TideSt) : (s.upTide g).pcie = s.pcie := rfl
@[simp] theorem State.upTide_power (s : State) (g : TideSt → TideSt) : (s.upTide g).power = s.power := rfl
@[simp] theorem State.upTide_i2c (s : State) (g : TideSt → TideSt) : (s.upTide g).i2c = s.i2c := rfl
@[simp] theorem State.upTide_trust (s : State) (g : TideSt → TideSt) : (s.upTide g).trust = s.trust := rfl
@[simp] theorem State.upTide_ras (s : State) (g : TideSt → TideSt) : (s.upTide g).ras = s.ras := rfl
@[simp] theorem State.upTide_out (s : State) (g : TideSt → TideSt) : (s.upTide g).out = s.out := rfl
@[simp] theorem State.upTide_fresh (s : State) (g : TideSt → TideSt) : (s.upTide g).fresh = s.fresh := rfl
@[simp] theorem State.upTide_pending (s : State) (g : TideSt → TideSt) : (s.upTide g).pending = s.pending := rfl
@[simp] theorem State.upTide_rd (s : State) (g : TideSt → TideSt) (ty j off : Nat) : (s.upTide g).rd ty j off = s.rd ty j off := rfl
@[simp] theorem State.upTide_fget (s : State) (g : TideSt → TideSt) (fl : Fld) (j y : Nat) : (s.upTide g).fget fl j y = s.fget fl j y := rfl
@[simp] theorem State.upTide_fbit (s : State) (g : TideSt → TideSt) (fl : Fld) (j y : Nat) : (s.upTide g).fbit fl j y = s.fbit fl j y := rfl
@[simp] theorem State.upTide_cget (s : State) (g : TideSt → TideSt) (ct : Ctr) (j y : Nat) : (s.upTide g).cget ct j y = s.cget ct j y := rfl
@[simp] theorem State.upTide_stone (s : State) (g : TideSt → TideSt) (m : Nat) : (s.upTide g).stone m = s.stone m := rfl

/-! ### upMem -/

@[simp] theorem State.upMem_fuse (s : State) (g : Mem → Mem) : (s.upMem g).fuse = s.fuse := rfl
@[simp] theorem State.upMem_regs (s : State) (g : Mem → Mem) : (s.upMem g).regs = s.regs := rfl
@[simp] theorem State.upMem_ctrs (s : State) (g : Mem → Mem) : (s.upMem g).ctrs = s.ctrs := rfl
@[simp] theorem State.upMem_latch (s : State) (g : Mem → Mem) : (s.upMem g).latch = s.latch := rfl
@[simp] theorem State.upMem_shadow (s : State) (g : Mem → Mem) : (s.upMem g).shadow = s.shadow := rfl
@[simp] theorem State.upMem_flog (s : State) (g : Mem → Mem) : (s.upMem g).flog = s.flog := rfl
@[simp] theorem State.upMem_fab (s : State) (g : Mem → Mem) : (s.upMem g).fab = s.fab := rfl
@[simp] theorem State.upMem_stones (s : State) (g : Mem → Mem) : (s.upMem g).stones = s.stones := rfl
@[simp] theorem State.upMem_mills (s : State) (g : Mem → Mem) : (s.upMem g).mills = s.mills := rfl
@[simp] theorem State.upMem_image (s : State) (g : Mem → Mem) : (s.upMem g).image = s.image := rfl
@[simp] theorem State.upMem_pond (s : State) (g : Mem → Mem) : (s.upMem g).pond = s.pond := rfl
@[simp] theorem State.upMem_pondPoison (s : State) (g : Mem → Mem) : (s.upMem g).pondPoison = s.pondPoison := rfl
@[simp] theorem State.upMem_qs (s : State) (g : Mem → Mem) : (s.upMem g).qs = s.qs := rfl
@[simp] theorem State.upMem_cls (s : State) (g : Mem → Mem) : (s.upMem g).cls = s.cls := rfl
@[simp] theorem State.upMem_streams (s : State) (g : Mem → Mem) : (s.upMem g).streams = s.streams := rfl
@[simp] theorem State.upMem_ipId (s : State) (g : Mem → Mem) : (s.upMem g).ipId = s.ipId := rfl
@[simp] theorem State.upMem_sch (s : State) (g : Mem → Mem) : (s.upMem g).sch = s.sch := rfl
@[simp] theorem State.upMem_ports (s : State) (g : Mem → Mem) : (s.upMem g).ports = s.ports := rfl
@[simp] theorem State.upMem_mg (s : State) (g : Mem → Mem) : (s.upMem g).mg = s.mg := rfl
@[simp] theorem State.upMem_tideNow (s : State) (g : Mem → Mem) : (s.upMem g).tideNow = s.tideNow := rfl
@[simp] theorem State.upMem_tide (s : State) (g : Mem → Mem) : (s.upMem g).tide = s.tide := rfl
@[simp] theorem State.upMem_led (s : State) (g : Mem → Mem) : (s.upMem g).led = s.led := rfl
@[simp] theorem State.upMem_pol (s : State) (g : Mem → Mem) : (s.upMem g).pol = s.pol := rfl
@[simp] theorem State.upMem_meas (s : State) (g : Mem → Mem) : (s.upMem g).meas = s.meas := rfl
@[simp] theorem State.upMem_vk (s : State) (g : Mem → Mem) : (s.upMem g).vk = s.vk := rfl
@[simp] theorem State.upMem_press (s : State) (g : Mem → Mem) : (s.upMem g).press = s.press := rfl
@[simp] theorem State.upMem_pcie (s : State) (g : Mem → Mem) : (s.upMem g).pcie = s.pcie := rfl
@[simp] theorem State.upMem_power (s : State) (g : Mem → Mem) : (s.upMem g).power = s.power := rfl
@[simp] theorem State.upMem_i2c (s : State) (g : Mem → Mem) : (s.upMem g).i2c = s.i2c := rfl
@[simp] theorem State.upMem_trust (s : State) (g : Mem → Mem) : (s.upMem g).trust = s.trust := rfl
@[simp] theorem State.upMem_ras (s : State) (g : Mem → Mem) : (s.upMem g).ras = s.ras := rfl
@[simp] theorem State.upMem_out (s : State) (g : Mem → Mem) : (s.upMem g).out = s.out := rfl
@[simp] theorem State.upMem_fresh (s : State) (g : Mem → Mem) : (s.upMem g).fresh = s.fresh := rfl
@[simp] theorem State.upMem_pending (s : State) (g : Mem → Mem) : (s.upMem g).pending = s.pending := rfl
@[simp] theorem State.upMem_rd (s : State) (g : Mem → Mem) (ty j off : Nat) : (s.upMem g).rd ty j off = s.rd ty j off := rfl
@[simp] theorem State.upMem_fget (s : State) (g : Mem → Mem) (fl : Fld) (j y : Nat) : (s.upMem g).fget fl j y = s.fget fl j y := rfl
@[simp] theorem State.upMem_fbit (s : State) (g : Mem → Mem) (fl : Fld) (j y : Nat) : (s.upMem g).fbit fl j y = s.fbit fl j y := rfl
@[simp] theorem State.upMem_cget (s : State) (g : Mem → Mem) (ct : Ctr) (j y : Nat) : (s.upMem g).cget ct j y = s.cget ct j y := rfl
@[simp] theorem State.upMem_stone (s : State) (g : Mem → Mem) (m : Nat) : (s.upMem g).stone m = s.stone m := rfl

/-! ### upLed -/

@[simp] theorem State.upLed_fuse (s : State) (g : LedgerSt → LedgerSt) : (s.upLed g).fuse = s.fuse := rfl
@[simp] theorem State.upLed_regs (s : State) (g : LedgerSt → LedgerSt) : (s.upLed g).regs = s.regs := rfl
@[simp] theorem State.upLed_ctrs (s : State) (g : LedgerSt → LedgerSt) : (s.upLed g).ctrs = s.ctrs := rfl
@[simp] theorem State.upLed_latch (s : State) (g : LedgerSt → LedgerSt) : (s.upLed g).latch = s.latch := rfl
@[simp] theorem State.upLed_shadow (s : State) (g : LedgerSt → LedgerSt) : (s.upLed g).shadow = s.shadow := rfl
@[simp] theorem State.upLed_flog (s : State) (g : LedgerSt → LedgerSt) : (s.upLed g).flog = s.flog := rfl
@[simp] theorem State.upLed_fab (s : State) (g : LedgerSt → LedgerSt) : (s.upLed g).fab = s.fab := rfl
@[simp] theorem State.upLed_stones (s : State) (g : LedgerSt → LedgerSt) : (s.upLed g).stones = s.stones := rfl
@[simp] theorem State.upLed_mills (s : State) (g : LedgerSt → LedgerSt) : (s.upLed g).mills = s.mills := rfl
@[simp] theorem State.upLed_image (s : State) (g : LedgerSt → LedgerSt) : (s.upLed g).image = s.image := rfl
@[simp] theorem State.upLed_pond (s : State) (g : LedgerSt → LedgerSt) : (s.upLed g).pond = s.pond := rfl
@[simp] theorem State.upLed_pondPoison (s : State) (g : LedgerSt → LedgerSt) : (s.upLed g).pondPoison = s.pondPoison := rfl
@[simp] theorem State.upLed_qs (s : State) (g : LedgerSt → LedgerSt) : (s.upLed g).qs = s.qs := rfl
@[simp] theorem State.upLed_cls (s : State) (g : LedgerSt → LedgerSt) : (s.upLed g).cls = s.cls := rfl
@[simp] theorem State.upLed_streams (s : State) (g : LedgerSt → LedgerSt) : (s.upLed g).streams = s.streams := rfl
@[simp] theorem State.upLed_ipId (s : State) (g : LedgerSt → LedgerSt) : (s.upLed g).ipId = s.ipId := rfl
@[simp] theorem State.upLed_sch (s : State) (g : LedgerSt → LedgerSt) : (s.upLed g).sch = s.sch := rfl
@[simp] theorem State.upLed_ports (s : State) (g : LedgerSt → LedgerSt) : (s.upLed g).ports = s.ports := rfl
@[simp] theorem State.upLed_mg (s : State) (g : LedgerSt → LedgerSt) : (s.upLed g).mg = s.mg := rfl
@[simp] theorem State.upLed_tideNow (s : State) (g : LedgerSt → LedgerSt) : (s.upLed g).tideNow = s.tideNow := rfl
@[simp] theorem State.upLed_tide (s : State) (g : LedgerSt → LedgerSt) : (s.upLed g).tide = s.tide := rfl
@[simp] theorem State.upLed_mem (s : State) (g : LedgerSt → LedgerSt) : (s.upLed g).mem = s.mem := rfl
@[simp] theorem State.upLed_pol (s : State) (g : LedgerSt → LedgerSt) : (s.upLed g).pol = s.pol := rfl
@[simp] theorem State.upLed_meas (s : State) (g : LedgerSt → LedgerSt) : (s.upLed g).meas = s.meas := rfl
@[simp] theorem State.upLed_vk (s : State) (g : LedgerSt → LedgerSt) : (s.upLed g).vk = s.vk := rfl
@[simp] theorem State.upLed_press (s : State) (g : LedgerSt → LedgerSt) : (s.upLed g).press = s.press := rfl
@[simp] theorem State.upLed_pcie (s : State) (g : LedgerSt → LedgerSt) : (s.upLed g).pcie = s.pcie := rfl
@[simp] theorem State.upLed_power (s : State) (g : LedgerSt → LedgerSt) : (s.upLed g).power = s.power := rfl
@[simp] theorem State.upLed_i2c (s : State) (g : LedgerSt → LedgerSt) : (s.upLed g).i2c = s.i2c := rfl
@[simp] theorem State.upLed_trust (s : State) (g : LedgerSt → LedgerSt) : (s.upLed g).trust = s.trust := rfl
@[simp] theorem State.upLed_ras (s : State) (g : LedgerSt → LedgerSt) : (s.upLed g).ras = s.ras := rfl
@[simp] theorem State.upLed_out (s : State) (g : LedgerSt → LedgerSt) : (s.upLed g).out = s.out := rfl
@[simp] theorem State.upLed_fresh (s : State) (g : LedgerSt → LedgerSt) : (s.upLed g).fresh = s.fresh := rfl
@[simp] theorem State.upLed_pending (s : State) (g : LedgerSt → LedgerSt) : (s.upLed g).pending = s.pending := rfl
@[simp] theorem State.upLed_rd (s : State) (g : LedgerSt → LedgerSt) (ty j off : Nat) : (s.upLed g).rd ty j off = s.rd ty j off := rfl
@[simp] theorem State.upLed_fget (s : State) (g : LedgerSt → LedgerSt) (fl : Fld) (j y : Nat) : (s.upLed g).fget fl j y = s.fget fl j y := rfl
@[simp] theorem State.upLed_fbit (s : State) (g : LedgerSt → LedgerSt) (fl : Fld) (j y : Nat) : (s.upLed g).fbit fl j y = s.fbit fl j y := rfl
@[simp] theorem State.upLed_cget (s : State) (g : LedgerSt → LedgerSt) (ct : Ctr) (j y : Nat) : (s.upLed g).cget ct j y = s.cget ct j y := rfl
@[simp] theorem State.upLed_stone (s : State) (g : LedgerSt → LedgerSt) (m : Nat) : (s.upLed g).stone m = s.stone m := rfl

/-! ### ledgerAsk -/

@[simp] theorem State.ledgerAsk_fuse (s : State) (r : LReq) : (s.ledgerAsk r).fuse = s.fuse := rfl
@[simp] theorem State.ledgerAsk_regs (s : State) (r : LReq) : (s.ledgerAsk r).regs = s.regs := rfl
@[simp] theorem State.ledgerAsk_ctrs (s : State) (r : LReq) : (s.ledgerAsk r).ctrs = s.ctrs := rfl
@[simp] theorem State.ledgerAsk_latch (s : State) (r : LReq) : (s.ledgerAsk r).latch = s.latch := rfl
@[simp] theorem State.ledgerAsk_shadow (s : State) (r : LReq) : (s.ledgerAsk r).shadow = s.shadow := rfl
@[simp] theorem State.ledgerAsk_flog (s : State) (r : LReq) : (s.ledgerAsk r).flog = s.flog := rfl
@[simp] theorem State.ledgerAsk_fab (s : State) (r : LReq) : (s.ledgerAsk r).fab = s.fab := rfl
@[simp] theorem State.ledgerAsk_stones (s : State) (r : LReq) : (s.ledgerAsk r).stones = s.stones := rfl
@[simp] theorem State.ledgerAsk_mills (s : State) (r : LReq) : (s.ledgerAsk r).mills = s.mills := rfl
@[simp] theorem State.ledgerAsk_image (s : State) (r : LReq) : (s.ledgerAsk r).image = s.image := rfl
@[simp] theorem State.ledgerAsk_pond (s : State) (r : LReq) : (s.ledgerAsk r).pond = s.pond := rfl
@[simp] theorem State.ledgerAsk_pondPoison (s : State) (r : LReq) : (s.ledgerAsk r).pondPoison = s.pondPoison := rfl
@[simp] theorem State.ledgerAsk_qs (s : State) (r : LReq) : (s.ledgerAsk r).qs = s.qs := rfl
@[simp] theorem State.ledgerAsk_cls (s : State) (r : LReq) : (s.ledgerAsk r).cls = s.cls := rfl
@[simp] theorem State.ledgerAsk_streams (s : State) (r : LReq) : (s.ledgerAsk r).streams = s.streams := rfl
@[simp] theorem State.ledgerAsk_ipId (s : State) (r : LReq) : (s.ledgerAsk r).ipId = s.ipId := rfl
@[simp] theorem State.ledgerAsk_sch (s : State) (r : LReq) : (s.ledgerAsk r).sch = s.sch := rfl
@[simp] theorem State.ledgerAsk_ports (s : State) (r : LReq) : (s.ledgerAsk r).ports = s.ports := rfl
@[simp] theorem State.ledgerAsk_mg (s : State) (r : LReq) : (s.ledgerAsk r).mg = s.mg := rfl
@[simp] theorem State.ledgerAsk_tideNow (s : State) (r : LReq) : (s.ledgerAsk r).tideNow = s.tideNow := rfl
@[simp] theorem State.ledgerAsk_tide (s : State) (r : LReq) : (s.ledgerAsk r).tide = s.tide := rfl
@[simp] theorem State.ledgerAsk_mem (s : State) (r : LReq) : (s.ledgerAsk r).mem = s.mem := rfl
@[simp] theorem State.ledgerAsk_pol (s : State) (r : LReq) : (s.ledgerAsk r).pol = s.pol := rfl
@[simp] theorem State.ledgerAsk_meas (s : State) (r : LReq) : (s.ledgerAsk r).meas = s.meas := rfl
@[simp] theorem State.ledgerAsk_vk (s : State) (r : LReq) : (s.ledgerAsk r).vk = s.vk := rfl
@[simp] theorem State.ledgerAsk_press (s : State) (r : LReq) : (s.ledgerAsk r).press = s.press := rfl
@[simp] theorem State.ledgerAsk_pcie (s : State) (r : LReq) : (s.ledgerAsk r).pcie = s.pcie := rfl
@[simp] theorem State.ledgerAsk_power (s : State) (r : LReq) : (s.ledgerAsk r).power = s.power := rfl
@[simp] theorem State.ledgerAsk_i2c (s : State) (r : LReq) : (s.ledgerAsk r).i2c = s.i2c := rfl
@[simp] theorem State.ledgerAsk_trust (s : State) (r : LReq) : (s.ledgerAsk r).trust = s.trust := rfl
@[simp] theorem State.ledgerAsk_ras (s : State) (r : LReq) : (s.ledgerAsk r).ras = s.ras := rfl
@[simp] theorem State.ledgerAsk_out (s : State) (r : LReq) : (s.ledgerAsk r).out = s.out := rfl
@[simp] theorem State.ledgerAsk_fresh (s : State) (r : LReq) : (s.ledgerAsk r).fresh = s.fresh := rfl
@[simp] theorem State.ledgerAsk_pending (s : State) (r : LReq) : (s.ledgerAsk r).pending = s.pending := rfl
@[simp] theorem State.ledgerAsk_rd (s : State) (r : LReq) (ty j off : Nat) : (s.ledgerAsk r).rd ty j off = s.rd ty j off := rfl
@[simp] theorem State.ledgerAsk_fget (s : State) (r : LReq) (fl : Fld) (j y : Nat) : (s.ledgerAsk r).fget fl j y = s.fget fl j y := rfl
@[simp] theorem State.ledgerAsk_fbit (s : State) (r : LReq) (fl : Fld) (j y : Nat) : (s.ledgerAsk r).fbit fl j y = s.fbit fl j y := rfl
@[simp] theorem State.ledgerAsk_cget (s : State) (r : LReq) (ct : Ctr) (j y : Nat) : (s.ledgerAsk r).cget ct j y = s.cget ct j y := rfl
@[simp] theorem State.ledgerAsk_stone (s : State) (r : LReq) (m : Nat) : (s.ledgerAsk r).stone m = s.stone m := rfl

/-! ### upPol -/

@[simp] theorem State.upPol_fuse (s : State) (g : Polders → Polders) : (s.upPol g).fuse = s.fuse := rfl
@[simp] theorem State.upPol_regs (s : State) (g : Polders → Polders) : (s.upPol g).regs = s.regs := rfl
@[simp] theorem State.upPol_ctrs (s : State) (g : Polders → Polders) : (s.upPol g).ctrs = s.ctrs := rfl
@[simp] theorem State.upPol_latch (s : State) (g : Polders → Polders) : (s.upPol g).latch = s.latch := rfl
@[simp] theorem State.upPol_shadow (s : State) (g : Polders → Polders) : (s.upPol g).shadow = s.shadow := rfl
@[simp] theorem State.upPol_flog (s : State) (g : Polders → Polders) : (s.upPol g).flog = s.flog := rfl
@[simp] theorem State.upPol_fab (s : State) (g : Polders → Polders) : (s.upPol g).fab = s.fab := rfl
@[simp] theorem State.upPol_stones (s : State) (g : Polders → Polders) : (s.upPol g).stones = s.stones := rfl
@[simp] theorem State.upPol_mills (s : State) (g : Polders → Polders) : (s.upPol g).mills = s.mills := rfl
@[simp] theorem State.upPol_image (s : State) (g : Polders → Polders) : (s.upPol g).image = s.image := rfl
@[simp] theorem State.upPol_pond (s : State) (g : Polders → Polders) : (s.upPol g).pond = s.pond := rfl
@[simp] theorem State.upPol_pondPoison (s : State) (g : Polders → Polders) : (s.upPol g).pondPoison = s.pondPoison := rfl
@[simp] theorem State.upPol_qs (s : State) (g : Polders → Polders) : (s.upPol g).qs = s.qs := rfl
@[simp] theorem State.upPol_cls (s : State) (g : Polders → Polders) : (s.upPol g).cls = s.cls := rfl
@[simp] theorem State.upPol_streams (s : State) (g : Polders → Polders) : (s.upPol g).streams = s.streams := rfl
@[simp] theorem State.upPol_ipId (s : State) (g : Polders → Polders) : (s.upPol g).ipId = s.ipId := rfl
@[simp] theorem State.upPol_sch (s : State) (g : Polders → Polders) : (s.upPol g).sch = s.sch := rfl
@[simp] theorem State.upPol_ports (s : State) (g : Polders → Polders) : (s.upPol g).ports = s.ports := rfl
@[simp] theorem State.upPol_mg (s : State) (g : Polders → Polders) : (s.upPol g).mg = s.mg := rfl
@[simp] theorem State.upPol_tideNow (s : State) (g : Polders → Polders) : (s.upPol g).tideNow = s.tideNow := rfl
@[simp] theorem State.upPol_tide (s : State) (g : Polders → Polders) : (s.upPol g).tide = s.tide := rfl
@[simp] theorem State.upPol_mem (s : State) (g : Polders → Polders) : (s.upPol g).mem = s.mem := rfl
@[simp] theorem State.upPol_led (s : State) (g : Polders → Polders) : (s.upPol g).led = s.led := rfl
@[simp] theorem State.upPol_meas (s : State) (g : Polders → Polders) : (s.upPol g).meas = s.meas := rfl
@[simp] theorem State.upPol_vk (s : State) (g : Polders → Polders) : (s.upPol g).vk = s.vk := rfl
@[simp] theorem State.upPol_press (s : State) (g : Polders → Polders) : (s.upPol g).press = s.press := rfl
@[simp] theorem State.upPol_pcie (s : State) (g : Polders → Polders) : (s.upPol g).pcie = s.pcie := rfl
@[simp] theorem State.upPol_power (s : State) (g : Polders → Polders) : (s.upPol g).power = s.power := rfl
@[simp] theorem State.upPol_i2c (s : State) (g : Polders → Polders) : (s.upPol g).i2c = s.i2c := rfl
@[simp] theorem State.upPol_trust (s : State) (g : Polders → Polders) : (s.upPol g).trust = s.trust := rfl
@[simp] theorem State.upPol_ras (s : State) (g : Polders → Polders) : (s.upPol g).ras = s.ras := rfl
@[simp] theorem State.upPol_out (s : State) (g : Polders → Polders) : (s.upPol g).out = s.out := rfl
@[simp] theorem State.upPol_fresh (s : State) (g : Polders → Polders) : (s.upPol g).fresh = s.fresh := rfl
@[simp] theorem State.upPol_pending (s : State) (g : Polders → Polders) : (s.upPol g).pending = s.pending := rfl
@[simp] theorem State.upPol_rd (s : State) (g : Polders → Polders) (ty j off : Nat) : (s.upPol g).rd ty j off = s.rd ty j off := rfl
@[simp] theorem State.upPol_fget (s : State) (g : Polders → Polders) (fl : Fld) (j y : Nat) : (s.upPol g).fget fl j y = s.fget fl j y := rfl
@[simp] theorem State.upPol_fbit (s : State) (g : Polders → Polders) (fl : Fld) (j y : Nat) : (s.upPol g).fbit fl j y = s.fbit fl j y := rfl
@[simp] theorem State.upPol_cget (s : State) (g : Polders → Polders) (ct : Ctr) (j y : Nat) : (s.upPol g).cget ct j y = s.cget ct j y := rfl
@[simp] theorem State.upPol_stone (s : State) (g : Polders → Polders) (m : Nat) : (s.upPol g).stone m = s.stone m := rfl

/-! ### setRing -/

@[simp] theorem State.setRing_fuse (s : State) (p r : Nat) (x : RingSt) : (s.setRing p r x).fuse = s.fuse := rfl
@[simp] theorem State.setRing_regs (s : State) (p r : Nat) (x : RingSt) : (s.setRing p r x).regs = s.regs := rfl
@[simp] theorem State.setRing_ctrs (s : State) (p r : Nat) (x : RingSt) : (s.setRing p r x).ctrs = s.ctrs := rfl
@[simp] theorem State.setRing_latch (s : State) (p r : Nat) (x : RingSt) : (s.setRing p r x).latch = s.latch := rfl
@[simp] theorem State.setRing_shadow (s : State) (p r : Nat) (x : RingSt) : (s.setRing p r x).shadow = s.shadow := rfl
@[simp] theorem State.setRing_flog (s : State) (p r : Nat) (x : RingSt) : (s.setRing p r x).flog = s.flog := rfl
@[simp] theorem State.setRing_fab (s : State) (p r : Nat) (x : RingSt) : (s.setRing p r x).fab = s.fab := rfl
@[simp] theorem State.setRing_stones (s : State) (p r : Nat) (x : RingSt) : (s.setRing p r x).stones = s.stones := rfl
@[simp] theorem State.setRing_mills (s : State) (p r : Nat) (x : RingSt) : (s.setRing p r x).mills = s.mills := rfl
@[simp] theorem State.setRing_image (s : State) (p r : Nat) (x : RingSt) : (s.setRing p r x).image = s.image := rfl
@[simp] theorem State.setRing_pond (s : State) (p r : Nat) (x : RingSt) : (s.setRing p r x).pond = s.pond := rfl
@[simp] theorem State.setRing_pondPoison (s : State) (p r : Nat) (x : RingSt) : (s.setRing p r x).pondPoison = s.pondPoison := rfl
@[simp] theorem State.setRing_qs (s : State) (p r : Nat) (x : RingSt) : (s.setRing p r x).qs = s.qs := rfl
@[simp] theorem State.setRing_cls (s : State) (p r : Nat) (x : RingSt) : (s.setRing p r x).cls = s.cls := rfl
@[simp] theorem State.setRing_streams (s : State) (p r : Nat) (x : RingSt) : (s.setRing p r x).streams = s.streams := rfl
@[simp] theorem State.setRing_ipId (s : State) (p r : Nat) (x : RingSt) : (s.setRing p r x).ipId = s.ipId := rfl
@[simp] theorem State.setRing_sch (s : State) (p r : Nat) (x : RingSt) : (s.setRing p r x).sch = s.sch := rfl
@[simp] theorem State.setRing_ports (s : State) (p r : Nat) (x : RingSt) : (s.setRing p r x).ports = s.ports := rfl
@[simp] theorem State.setRing_mg (s : State) (p r : Nat) (x : RingSt) : (s.setRing p r x).mg = s.mg := rfl
@[simp] theorem State.setRing_tideNow (s : State) (p r : Nat) (x : RingSt) : (s.setRing p r x).tideNow = s.tideNow := rfl
@[simp] theorem State.setRing_tide (s : State) (p r : Nat) (x : RingSt) : (s.setRing p r x).tide = s.tide := rfl
@[simp] theorem State.setRing_mem (s : State) (p r : Nat) (x : RingSt) : (s.setRing p r x).mem = s.mem := rfl
@[simp] theorem State.setRing_led (s : State) (p r : Nat) (x : RingSt) : (s.setRing p r x).led = s.led := rfl
@[simp] theorem State.setRing_pol (s : State) (p r : Nat) (x : RingSt) : (s.setRing p r x).pol = s.pol := rfl
@[simp] theorem State.setRing_meas (s : State) (p r : Nat) (x : RingSt) : (s.setRing p r x).meas = s.meas := rfl
@[simp] theorem State.setRing_press (s : State) (p r : Nat) (x : RingSt) : (s.setRing p r x).press = s.press := rfl
@[simp] theorem State.setRing_pcie (s : State) (p r : Nat) (x : RingSt) : (s.setRing p r x).pcie = s.pcie := rfl
@[simp] theorem State.setRing_power (s : State) (p r : Nat) (x : RingSt) : (s.setRing p r x).power = s.power := rfl
@[simp] theorem State.setRing_i2c (s : State) (p r : Nat) (x : RingSt) : (s.setRing p r x).i2c = s.i2c := rfl
@[simp] theorem State.setRing_trust (s : State) (p r : Nat) (x : RingSt) : (s.setRing p r x).trust = s.trust := rfl
@[simp] theorem State.setRing_ras (s : State) (p r : Nat) (x : RingSt) : (s.setRing p r x).ras = s.ras := rfl
@[simp] theorem State.setRing_out (s : State) (p r : Nat) (x : RingSt) : (s.setRing p r x).out = s.out := rfl
@[simp] theorem State.setRing_fresh (s : State) (p r : Nat) (x : RingSt) : (s.setRing p r x).fresh = s.fresh := rfl
@[simp] theorem State.setRing_pending (s : State) (p r : Nat) (x : RingSt) : (s.setRing p r x).pending = s.pending := rfl
@[simp] theorem State.setRing_rd (s : State) (p r : Nat) (x : RingSt) (ty j off : Nat) : (s.setRing p r x).rd ty j off = s.rd ty j off := rfl
@[simp] theorem State.setRing_fget (s : State) (p r : Nat) (x : RingSt) (fl : Fld) (j y : Nat) : (s.setRing p r x).fget fl j y = s.fget fl j y := rfl
@[simp] theorem State.setRing_fbit (s : State) (p r : Nat) (x : RingSt) (fl : Fld) (j y : Nat) : (s.setRing p r x).fbit fl j y = s.fbit fl j y := rfl
@[simp] theorem State.setRing_cget (s : State) (p r : Nat) (x : RingSt) (ct : Ctr) (j y : Nat) : (s.setRing p r x).cget ct j y = s.cget ct j y := rfl
@[simp] theorem State.setRing_stone (s : State) (p r : Nat) (x : RingSt) (m : Nat) : (s.setRing p r x).stone m = s.stone m := rfl

/-! ### setCmds -/

@[simp] theorem State.setCmds_fuse (s : State) (l : List VCmd) : (s.setCmds l).fuse = s.fuse := rfl
@[simp] theorem State.setCmds_regs (s : State) (l : List VCmd) : (s.setCmds l).regs = s.regs := rfl
@[simp] theorem State.setCmds_ctrs (s : State) (l : List VCmd) : (s.setCmds l).ctrs = s.ctrs := rfl
@[simp] theorem State.setCmds_latch (s : State) (l : List VCmd) : (s.setCmds l).latch = s.latch := rfl
@[simp] theorem State.setCmds_shadow (s : State) (l : List VCmd) : (s.setCmds l).shadow = s.shadow := rfl
@[simp] theorem State.setCmds_flog (s : State) (l : List VCmd) : (s.setCmds l).flog = s.flog := rfl
@[simp] theorem State.setCmds_fab (s : State) (l : List VCmd) : (s.setCmds l).fab = s.fab := rfl
@[simp] theorem State.setCmds_stones (s : State) (l : List VCmd) : (s.setCmds l).stones = s.stones := rfl
@[simp] theorem State.setCmds_mills (s : State) (l : List VCmd) : (s.setCmds l).mills = s.mills := rfl
@[simp] theorem State.setCmds_image (s : State) (l : List VCmd) : (s.setCmds l).image = s.image := rfl
@[simp] theorem State.setCmds_pond (s : State) (l : List VCmd) : (s.setCmds l).pond = s.pond := rfl
@[simp] theorem State.setCmds_pondPoison (s : State) (l : List VCmd) : (s.setCmds l).pondPoison = s.pondPoison := rfl
@[simp] theorem State.setCmds_qs (s : State) (l : List VCmd) : (s.setCmds l).qs = s.qs := rfl
@[simp] theorem State.setCmds_cls (s : State) (l : List VCmd) : (s.setCmds l).cls = s.cls := rfl
@[simp] theorem State.setCmds_streams (s : State) (l : List VCmd) : (s.setCmds l).streams = s.streams := rfl
@[simp] theorem State.setCmds_ipId (s : State) (l : List VCmd) : (s.setCmds l).ipId = s.ipId := rfl
@[simp] theorem State.setCmds_sch (s : State) (l : List VCmd) : (s.setCmds l).sch = s.sch := rfl
@[simp] theorem State.setCmds_ports (s : State) (l : List VCmd) : (s.setCmds l).ports = s.ports := rfl
@[simp] theorem State.setCmds_mg (s : State) (l : List VCmd) : (s.setCmds l).mg = s.mg := rfl
@[simp] theorem State.setCmds_tideNow (s : State) (l : List VCmd) : (s.setCmds l).tideNow = s.tideNow := rfl
@[simp] theorem State.setCmds_tide (s : State) (l : List VCmd) : (s.setCmds l).tide = s.tide := rfl
@[simp] theorem State.setCmds_mem (s : State) (l : List VCmd) : (s.setCmds l).mem = s.mem := rfl
@[simp] theorem State.setCmds_led (s : State) (l : List VCmd) : (s.setCmds l).led = s.led := rfl
@[simp] theorem State.setCmds_pol (s : State) (l : List VCmd) : (s.setCmds l).pol = s.pol := rfl
@[simp] theorem State.setCmds_meas (s : State) (l : List VCmd) : (s.setCmds l).meas = s.meas := rfl
@[simp] theorem State.setCmds_press (s : State) (l : List VCmd) : (s.setCmds l).press = s.press := rfl
@[simp] theorem State.setCmds_pcie (s : State) (l : List VCmd) : (s.setCmds l).pcie = s.pcie := rfl
@[simp] theorem State.setCmds_power (s : State) (l : List VCmd) : (s.setCmds l).power = s.power := rfl
@[simp] theorem State.setCmds_i2c (s : State) (l : List VCmd) : (s.setCmds l).i2c = s.i2c := rfl
@[simp] theorem State.setCmds_trust (s : State) (l : List VCmd) : (s.setCmds l).trust = s.trust := rfl
@[simp] theorem State.setCmds_ras (s : State) (l : List VCmd) : (s.setCmds l).ras = s.ras := rfl
@[simp] theorem State.setCmds_out (s : State) (l : List VCmd) : (s.setCmds l).out = s.out := rfl
@[simp] theorem State.setCmds_fresh (s : State) (l : List VCmd) : (s.setCmds l).fresh = s.fresh := rfl
@[simp] theorem State.setCmds_pending (s : State) (l : List VCmd) : (s.setCmds l).pending = s.pending := rfl
@[simp] theorem State.setCmds_rd (s : State) (l : List VCmd) (ty j off : Nat) : (s.setCmds l).rd ty j off = s.rd ty j off := rfl
@[simp] theorem State.setCmds_fget (s : State) (l : List VCmd) (fl : Fld) (j y : Nat) : (s.setCmds l).fget fl j y = s.fget fl j y := rfl
@[simp] theorem State.setCmds_fbit (s : State) (l : List VCmd) (fl : Fld) (j y : Nat) : (s.setCmds l).fbit fl j y = s.fbit fl j y := rfl
@[simp] theorem State.setCmds_cget (s : State) (l : List VCmd) (ct : Ctr) (j y : Nat) : (s.setCmds l).cget ct j y = s.cget ct j y := rfl
@[simp] theorem State.setCmds_stone (s : State) (l : List VCmd) (m : Nat) : (s.setCmds l).stone m = s.stone m := rfl

/-! ### upPress -/

@[simp] theorem State.upPress_fuse (s : State) (g : PressSt → PressSt) : (s.upPress g).fuse = s.fuse := rfl
@[simp] theorem State.upPress_regs (s : State) (g : PressSt → PressSt) : (s.upPress g).regs = s.regs := rfl
@[simp] theorem State.upPress_ctrs (s : State) (g : PressSt → PressSt) : (s.upPress g).ctrs = s.ctrs := rfl
@[simp] theorem State.upPress_latch (s : State) (g : PressSt → PressSt) : (s.upPress g).latch = s.latch := rfl
@[simp] theorem State.upPress_shadow (s : State) (g : PressSt → PressSt) : (s.upPress g).shadow = s.shadow := rfl
@[simp] theorem State.upPress_flog (s : State) (g : PressSt → PressSt) : (s.upPress g).flog = s.flog := rfl
@[simp] theorem State.upPress_fab (s : State) (g : PressSt → PressSt) : (s.upPress g).fab = s.fab := rfl
@[simp] theorem State.upPress_stones (s : State) (g : PressSt → PressSt) : (s.upPress g).stones = s.stones := rfl
@[simp] theorem State.upPress_mills (s : State) (g : PressSt → PressSt) : (s.upPress g).mills = s.mills := rfl
@[simp] theorem State.upPress_image (s : State) (g : PressSt → PressSt) : (s.upPress g).image = s.image := rfl
@[simp] theorem State.upPress_pond (s : State) (g : PressSt → PressSt) : (s.upPress g).pond = s.pond := rfl
@[simp] theorem State.upPress_pondPoison (s : State) (g : PressSt → PressSt) : (s.upPress g).pondPoison = s.pondPoison := rfl
@[simp] theorem State.upPress_qs (s : State) (g : PressSt → PressSt) : (s.upPress g).qs = s.qs := rfl
@[simp] theorem State.upPress_cls (s : State) (g : PressSt → PressSt) : (s.upPress g).cls = s.cls := rfl
@[simp] theorem State.upPress_streams (s : State) (g : PressSt → PressSt) : (s.upPress g).streams = s.streams := rfl
@[simp] theorem State.upPress_ipId (s : State) (g : PressSt → PressSt) : (s.upPress g).ipId = s.ipId := rfl
@[simp] theorem State.upPress_sch (s : State) (g : PressSt → PressSt) : (s.upPress g).sch = s.sch := rfl
@[simp] theorem State.upPress_ports (s : State) (g : PressSt → PressSt) : (s.upPress g).ports = s.ports := rfl
@[simp] theorem State.upPress_mg (s : State) (g : PressSt → PressSt) : (s.upPress g).mg = s.mg := rfl
@[simp] theorem State.upPress_tideNow (s : State) (g : PressSt → PressSt) : (s.upPress g).tideNow = s.tideNow := rfl
@[simp] theorem State.upPress_tide (s : State) (g : PressSt → PressSt) : (s.upPress g).tide = s.tide := rfl
@[simp] theorem State.upPress_mem (s : State) (g : PressSt → PressSt) : (s.upPress g).mem = s.mem := rfl
@[simp] theorem State.upPress_led (s : State) (g : PressSt → PressSt) : (s.upPress g).led = s.led := rfl
@[simp] theorem State.upPress_pol (s : State) (g : PressSt → PressSt) : (s.upPress g).pol = s.pol := rfl
@[simp] theorem State.upPress_meas (s : State) (g : PressSt → PressSt) : (s.upPress g).meas = s.meas := rfl
@[simp] theorem State.upPress_vk (s : State) (g : PressSt → PressSt) : (s.upPress g).vk = s.vk := rfl
@[simp] theorem State.upPress_pcie (s : State) (g : PressSt → PressSt) : (s.upPress g).pcie = s.pcie := rfl
@[simp] theorem State.upPress_power (s : State) (g : PressSt → PressSt) : (s.upPress g).power = s.power := rfl
@[simp] theorem State.upPress_i2c (s : State) (g : PressSt → PressSt) : (s.upPress g).i2c = s.i2c := rfl
@[simp] theorem State.upPress_trust (s : State) (g : PressSt → PressSt) : (s.upPress g).trust = s.trust := rfl
@[simp] theorem State.upPress_ras (s : State) (g : PressSt → PressSt) : (s.upPress g).ras = s.ras := rfl
@[simp] theorem State.upPress_out (s : State) (g : PressSt → PressSt) : (s.upPress g).out = s.out := rfl
@[simp] theorem State.upPress_fresh (s : State) (g : PressSt → PressSt) : (s.upPress g).fresh = s.fresh := rfl
@[simp] theorem State.upPress_pending (s : State) (g : PressSt → PressSt) : (s.upPress g).pending = s.pending := rfl
@[simp] theorem State.upPress_rd (s : State) (g : PressSt → PressSt) (ty j off : Nat) : (s.upPress g).rd ty j off = s.rd ty j off := rfl
@[simp] theorem State.upPress_fget (s : State) (g : PressSt → PressSt) (fl : Fld) (j y : Nat) : (s.upPress g).fget fl j y = s.fget fl j y := rfl
@[simp] theorem State.upPress_fbit (s : State) (g : PressSt → PressSt) (fl : Fld) (j y : Nat) : (s.upPress g).fbit fl j y = s.fbit fl j y := rfl
@[simp] theorem State.upPress_cget (s : State) (g : PressSt → PressSt) (ct : Ctr) (j y : Nat) : (s.upPress g).cget ct j y = s.cget ct j y := rfl
@[simp] theorem State.upPress_stone (s : State) (g : PressSt → PressSt) (m : Nat) : (s.upPress g).stone m = s.stone m := rfl

/-! ### upPower -/

@[simp] theorem State.upPower_fuse (s : State) (g : PowerSt → PowerSt) : (s.upPower g).fuse = s.fuse := rfl
@[simp] theorem State.upPower_regs (s : State) (g : PowerSt → PowerSt) : (s.upPower g).regs = s.regs := rfl
@[simp] theorem State.upPower_ctrs (s : State) (g : PowerSt → PowerSt) : (s.upPower g).ctrs = s.ctrs := rfl
@[simp] theorem State.upPower_latch (s : State) (g : PowerSt → PowerSt) : (s.upPower g).latch = s.latch := rfl
@[simp] theorem State.upPower_shadow (s : State) (g : PowerSt → PowerSt) : (s.upPower g).shadow = s.shadow := rfl
@[simp] theorem State.upPower_flog (s : State) (g : PowerSt → PowerSt) : (s.upPower g).flog = s.flog := rfl
@[simp] theorem State.upPower_fab (s : State) (g : PowerSt → PowerSt) : (s.upPower g).fab = s.fab := rfl
@[simp] theorem State.upPower_stones (s : State) (g : PowerSt → PowerSt) : (s.upPower g).stones = s.stones := rfl
@[simp] theorem State.upPower_mills (s : State) (g : PowerSt → PowerSt) : (s.upPower g).mills = s.mills := rfl
@[simp] theorem State.upPower_image (s : State) (g : PowerSt → PowerSt) : (s.upPower g).image = s.image := rfl
@[simp] theorem State.upPower_pond (s : State) (g : PowerSt → PowerSt) : (s.upPower g).pond = s.pond := rfl
@[simp] theorem State.upPower_pondPoison (s : State) (g : PowerSt → PowerSt) : (s.upPower g).pondPoison = s.pondPoison := rfl
@[simp] theorem State.upPower_qs (s : State) (g : PowerSt → PowerSt) : (s.upPower g).qs = s.qs := rfl
@[simp] theorem State.upPower_cls (s : State) (g : PowerSt → PowerSt) : (s.upPower g).cls = s.cls := rfl
@[simp] theorem State.upPower_streams (s : State) (g : PowerSt → PowerSt) : (s.upPower g).streams = s.streams := rfl
@[simp] theorem State.upPower_ipId (s : State) (g : PowerSt → PowerSt) : (s.upPower g).ipId = s.ipId := rfl
@[simp] theorem State.upPower_sch (s : State) (g : PowerSt → PowerSt) : (s.upPower g).sch = s.sch := rfl
@[simp] theorem State.upPower_ports (s : State) (g : PowerSt → PowerSt) : (s.upPower g).ports = s.ports := rfl
@[simp] theorem State.upPower_mg (s : State) (g : PowerSt → PowerSt) : (s.upPower g).mg = s.mg := rfl
@[simp] theorem State.upPower_tideNow (s : State) (g : PowerSt → PowerSt) : (s.upPower g).tideNow = s.tideNow := rfl
@[simp] theorem State.upPower_tide (s : State) (g : PowerSt → PowerSt) : (s.upPower g).tide = s.tide := rfl
@[simp] theorem State.upPower_mem (s : State) (g : PowerSt → PowerSt) : (s.upPower g).mem = s.mem := rfl
@[simp] theorem State.upPower_led (s : State) (g : PowerSt → PowerSt) : (s.upPower g).led = s.led := rfl
@[simp] theorem State.upPower_pol (s : State) (g : PowerSt → PowerSt) : (s.upPower g).pol = s.pol := rfl
@[simp] theorem State.upPower_meas (s : State) (g : PowerSt → PowerSt) : (s.upPower g).meas = s.meas := rfl
@[simp] theorem State.upPower_vk (s : State) (g : PowerSt → PowerSt) : (s.upPower g).vk = s.vk := rfl
@[simp] theorem State.upPower_press (s : State) (g : PowerSt → PowerSt) : (s.upPower g).press = s.press := rfl
@[simp] theorem State.upPower_pcie (s : State) (g : PowerSt → PowerSt) : (s.upPower g).pcie = s.pcie := rfl
@[simp] theorem State.upPower_i2c (s : State) (g : PowerSt → PowerSt) : (s.upPower g).i2c = s.i2c := rfl
@[simp] theorem State.upPower_trust (s : State) (g : PowerSt → PowerSt) : (s.upPower g).trust = s.trust := rfl
@[simp] theorem State.upPower_ras (s : State) (g : PowerSt → PowerSt) : (s.upPower g).ras = s.ras := rfl
@[simp] theorem State.upPower_out (s : State) (g : PowerSt → PowerSt) : (s.upPower g).out = s.out := rfl
@[simp] theorem State.upPower_fresh (s : State) (g : PowerSt → PowerSt) : (s.upPower g).fresh = s.fresh := rfl
@[simp] theorem State.upPower_pending (s : State) (g : PowerSt → PowerSt) : (s.upPower g).pending = s.pending := rfl
@[simp] theorem State.upPower_rd (s : State) (g : PowerSt → PowerSt) (ty j off : Nat) : (s.upPower g).rd ty j off = s.rd ty j off := rfl
@[simp] theorem State.upPower_fget (s : State) (g : PowerSt → PowerSt) (fl : Fld) (j y : Nat) : (s.upPower g).fget fl j y = s.fget fl j y := rfl
@[simp] theorem State.upPower_fbit (s : State) (g : PowerSt → PowerSt) (fl : Fld) (j y : Nat) : (s.upPower g).fbit fl j y = s.fbit fl j y := rfl
@[simp] theorem State.upPower_cget (s : State) (g : PowerSt → PowerSt) (ct : Ctr) (j y : Nat) : (s.upPower g).cget ct j y = s.cget ct j y := rfl
@[simp] theorem State.upPower_stone (s : State) (g : PowerSt → PowerSt) (m : Nat) : (s.upPower g).stone m = s.stone m := rfl

/-! ### upI2c -/

@[simp] theorem State.upI2c_fuse (s : State) (k : Nat) (g : I2cSt → I2cSt) : (s.upI2c k g).fuse = s.fuse := rfl
@[simp] theorem State.upI2c_regs (s : State) (k : Nat) (g : I2cSt → I2cSt) : (s.upI2c k g).regs = s.regs := rfl
@[simp] theorem State.upI2c_ctrs (s : State) (k : Nat) (g : I2cSt → I2cSt) : (s.upI2c k g).ctrs = s.ctrs := rfl
@[simp] theorem State.upI2c_latch (s : State) (k : Nat) (g : I2cSt → I2cSt) : (s.upI2c k g).latch = s.latch := rfl
@[simp] theorem State.upI2c_shadow (s : State) (k : Nat) (g : I2cSt → I2cSt) : (s.upI2c k g).shadow = s.shadow := rfl
@[simp] theorem State.upI2c_flog (s : State) (k : Nat) (g : I2cSt → I2cSt) : (s.upI2c k g).flog = s.flog := rfl
@[simp] theorem State.upI2c_fab (s : State) (k : Nat) (g : I2cSt → I2cSt) : (s.upI2c k g).fab = s.fab := rfl
@[simp] theorem State.upI2c_stones (s : State) (k : Nat) (g : I2cSt → I2cSt) : (s.upI2c k g).stones = s.stones := rfl
@[simp] theorem State.upI2c_mills (s : State) (k : Nat) (g : I2cSt → I2cSt) : (s.upI2c k g).mills = s.mills := rfl
@[simp] theorem State.upI2c_image (s : State) (k : Nat) (g : I2cSt → I2cSt) : (s.upI2c k g).image = s.image := rfl
@[simp] theorem State.upI2c_pond (s : State) (k : Nat) (g : I2cSt → I2cSt) : (s.upI2c k g).pond = s.pond := rfl
@[simp] theorem State.upI2c_pondPoison (s : State) (k : Nat) (g : I2cSt → I2cSt) : (s.upI2c k g).pondPoison = s.pondPoison := rfl
@[simp] theorem State.upI2c_qs (s : State) (k : Nat) (g : I2cSt → I2cSt) : (s.upI2c k g).qs = s.qs := rfl
@[simp] theorem State.upI2c_cls (s : State) (k : Nat) (g : I2cSt → I2cSt) : (s.upI2c k g).cls = s.cls := rfl
@[simp] theorem State.upI2c_streams (s : State) (k : Nat) (g : I2cSt → I2cSt) : (s.upI2c k g).streams = s.streams := rfl
@[simp] theorem State.upI2c_ipId (s : State) (k : Nat) (g : I2cSt → I2cSt) : (s.upI2c k g).ipId = s.ipId := rfl
@[simp] theorem State.upI2c_sch (s : State) (k : Nat) (g : I2cSt → I2cSt) : (s.upI2c k g).sch = s.sch := rfl
@[simp] theorem State.upI2c_ports (s : State) (k : Nat) (g : I2cSt → I2cSt) : (s.upI2c k g).ports = s.ports := rfl
@[simp] theorem State.upI2c_mg (s : State) (k : Nat) (g : I2cSt → I2cSt) : (s.upI2c k g).mg = s.mg := rfl
@[simp] theorem State.upI2c_tideNow (s : State) (k : Nat) (g : I2cSt → I2cSt) : (s.upI2c k g).tideNow = s.tideNow := rfl
@[simp] theorem State.upI2c_tide (s : State) (k : Nat) (g : I2cSt → I2cSt) : (s.upI2c k g).tide = s.tide := rfl
@[simp] theorem State.upI2c_mem (s : State) (k : Nat) (g : I2cSt → I2cSt) : (s.upI2c k g).mem = s.mem := rfl
@[simp] theorem State.upI2c_led (s : State) (k : Nat) (g : I2cSt → I2cSt) : (s.upI2c k g).led = s.led := rfl
@[simp] theorem State.upI2c_pol (s : State) (k : Nat) (g : I2cSt → I2cSt) : (s.upI2c k g).pol = s.pol := rfl
@[simp] theorem State.upI2c_meas (s : State) (k : Nat) (g : I2cSt → I2cSt) : (s.upI2c k g).meas = s.meas := rfl
@[simp] theorem State.upI2c_vk (s : State) (k : Nat) (g : I2cSt → I2cSt) : (s.upI2c k g).vk = s.vk := rfl
@[simp] theorem State.upI2c_press (s : State) (k : Nat) (g : I2cSt → I2cSt) : (s.upI2c k g).press = s.press := rfl
@[simp] theorem State.upI2c_pcie (s : State) (k : Nat) (g : I2cSt → I2cSt) : (s.upI2c k g).pcie = s.pcie := rfl
@[simp] theorem State.upI2c_power (s : State) (k : Nat) (g : I2cSt → I2cSt) : (s.upI2c k g).power = s.power := rfl
@[simp] theorem State.upI2c_trust (s : State) (k : Nat) (g : I2cSt → I2cSt) : (s.upI2c k g).trust = s.trust := rfl
@[simp] theorem State.upI2c_ras (s : State) (k : Nat) (g : I2cSt → I2cSt) : (s.upI2c k g).ras = s.ras := rfl
@[simp] theorem State.upI2c_out (s : State) (k : Nat) (g : I2cSt → I2cSt) : (s.upI2c k g).out = s.out := rfl
@[simp] theorem State.upI2c_fresh (s : State) (k : Nat) (g : I2cSt → I2cSt) : (s.upI2c k g).fresh = s.fresh := rfl
@[simp] theorem State.upI2c_pending (s : State) (k : Nat) (g : I2cSt → I2cSt) : (s.upI2c k g).pending = s.pending := rfl
@[simp] theorem State.upI2c_rd (s : State) (k : Nat) (g : I2cSt → I2cSt) (ty j off : Nat) : (s.upI2c k g).rd ty j off = s.rd ty j off := rfl
@[simp] theorem State.upI2c_fget (s : State) (k : Nat) (g : I2cSt → I2cSt) (fl : Fld) (j y : Nat) : (s.upI2c k g).fget fl j y = s.fget fl j y := rfl
@[simp] theorem State.upI2c_fbit (s : State) (k : Nat) (g : I2cSt → I2cSt) (fl : Fld) (j y : Nat) : (s.upI2c k g).fbit fl j y = s.fbit fl j y := rfl
@[simp] theorem State.upI2c_cget (s : State) (k : Nat) (g : I2cSt → I2cSt) (ct : Ctr) (j y : Nat) : (s.upI2c k g).cget ct j y = s.cget ct j y := rfl
@[simp] theorem State.upI2c_stone (s : State) (k : Nat) (g : I2cSt → I2cSt) (m : Nat) : (s.upI2c k g).stone m = s.stone m := rfl

/-! ### upTrust -/

@[simp] theorem State.upTrust_fuse (s : State) (g : TrustSt → TrustSt) : (s.upTrust g).fuse = s.fuse := rfl
@[simp] theorem State.upTrust_regs (s : State) (g : TrustSt → TrustSt) : (s.upTrust g).regs = s.regs := rfl
@[simp] theorem State.upTrust_ctrs (s : State) (g : TrustSt → TrustSt) : (s.upTrust g).ctrs = s.ctrs := rfl
@[simp] theorem State.upTrust_latch (s : State) (g : TrustSt → TrustSt) : (s.upTrust g).latch = s.latch := rfl
@[simp] theorem State.upTrust_shadow (s : State) (g : TrustSt → TrustSt) : (s.upTrust g).shadow = s.shadow := rfl
@[simp] theorem State.upTrust_flog (s : State) (g : TrustSt → TrustSt) : (s.upTrust g).flog = s.flog := rfl
@[simp] theorem State.upTrust_fab (s : State) (g : TrustSt → TrustSt) : (s.upTrust g).fab = s.fab := rfl
@[simp] theorem State.upTrust_stones (s : State) (g : TrustSt → TrustSt) : (s.upTrust g).stones = s.stones := rfl
@[simp] theorem State.upTrust_mills (s : State) (g : TrustSt → TrustSt) : (s.upTrust g).mills = s.mills := rfl
@[simp] theorem State.upTrust_image (s : State) (g : TrustSt → TrustSt) : (s.upTrust g).image = s.image := rfl
@[simp] theorem State.upTrust_pond (s : State) (g : TrustSt → TrustSt) : (s.upTrust g).pond = s.pond := rfl
@[simp] theorem State.upTrust_pondPoison (s : State) (g : TrustSt → TrustSt) : (s.upTrust g).pondPoison = s.pondPoison := rfl
@[simp] theorem State.upTrust_qs (s : State) (g : TrustSt → TrustSt) : (s.upTrust g).qs = s.qs := rfl
@[simp] theorem State.upTrust_cls (s : State) (g : TrustSt → TrustSt) : (s.upTrust g).cls = s.cls := rfl
@[simp] theorem State.upTrust_streams (s : State) (g : TrustSt → TrustSt) : (s.upTrust g).streams = s.streams := rfl
@[simp] theorem State.upTrust_ipId (s : State) (g : TrustSt → TrustSt) : (s.upTrust g).ipId = s.ipId := rfl
@[simp] theorem State.upTrust_sch (s : State) (g : TrustSt → TrustSt) : (s.upTrust g).sch = s.sch := rfl
@[simp] theorem State.upTrust_ports (s : State) (g : TrustSt → TrustSt) : (s.upTrust g).ports = s.ports := rfl
@[simp] theorem State.upTrust_mg (s : State) (g : TrustSt → TrustSt) : (s.upTrust g).mg = s.mg := rfl
@[simp] theorem State.upTrust_tideNow (s : State) (g : TrustSt → TrustSt) : (s.upTrust g).tideNow = s.tideNow := rfl
@[simp] theorem State.upTrust_tide (s : State) (g : TrustSt → TrustSt) : (s.upTrust g).tide = s.tide := rfl
@[simp] theorem State.upTrust_mem (s : State) (g : TrustSt → TrustSt) : (s.upTrust g).mem = s.mem := rfl
@[simp] theorem State.upTrust_led (s : State) (g : TrustSt → TrustSt) : (s.upTrust g).led = s.led := rfl
@[simp] theorem State.upTrust_pol (s : State) (g : TrustSt → TrustSt) : (s.upTrust g).pol = s.pol := rfl
@[simp] theorem State.upTrust_meas (s : State) (g : TrustSt → TrustSt) : (s.upTrust g).meas = s.meas := rfl
@[simp] theorem State.upTrust_vk (s : State) (g : TrustSt → TrustSt) : (s.upTrust g).vk = s.vk := rfl
@[simp] theorem State.upTrust_press (s : State) (g : TrustSt → TrustSt) : (s.upTrust g).press = s.press := rfl
@[simp] theorem State.upTrust_pcie (s : State) (g : TrustSt → TrustSt) : (s.upTrust g).pcie = s.pcie := rfl
@[simp] theorem State.upTrust_power (s : State) (g : TrustSt → TrustSt) : (s.upTrust g).power = s.power := rfl
@[simp] theorem State.upTrust_i2c (s : State) (g : TrustSt → TrustSt) : (s.upTrust g).i2c = s.i2c := rfl
@[simp] theorem State.upTrust_ras (s : State) (g : TrustSt → TrustSt) : (s.upTrust g).ras = s.ras := rfl
@[simp] theorem State.upTrust_out (s : State) (g : TrustSt → TrustSt) : (s.upTrust g).out = s.out := rfl
@[simp] theorem State.upTrust_fresh (s : State) (g : TrustSt → TrustSt) : (s.upTrust g).fresh = s.fresh := rfl
@[simp] theorem State.upTrust_pending (s : State) (g : TrustSt → TrustSt) : (s.upTrust g).pending = s.pending := rfl
@[simp] theorem State.upTrust_rd (s : State) (g : TrustSt → TrustSt) (ty j off : Nat) : (s.upTrust g).rd ty j off = s.rd ty j off := rfl
@[simp] theorem State.upTrust_fget (s : State) (g : TrustSt → TrustSt) (fl : Fld) (j y : Nat) : (s.upTrust g).fget fl j y = s.fget fl j y := rfl
@[simp] theorem State.upTrust_fbit (s : State) (g : TrustSt → TrustSt) (fl : Fld) (j y : Nat) : (s.upTrust g).fbit fl j y = s.fbit fl j y := rfl
@[simp] theorem State.upTrust_cget (s : State) (g : TrustSt → TrustSt) (ct : Ctr) (j y : Nat) : (s.upTrust g).cget ct j y = s.cget ct j y := rfl
@[simp] theorem State.upTrust_stone (s : State) (g : TrustSt → TrustSt) (m : Nat) : (s.upTrust g).stone m = s.stone m := rfl

/-! ### setTag -/

@[simp] theorem State.setTag_fuse (s : State) (h k v : Nat) : (s.setTag h k v).fuse = s.fuse := rfl
@[simp] theorem State.setTag_regs (s : State) (h k v : Nat) : (s.setTag h k v).regs = s.regs := rfl
@[simp] theorem State.setTag_ctrs (s : State) (h k v : Nat) : (s.setTag h k v).ctrs = s.ctrs := rfl
@[simp] theorem State.setTag_latch (s : State) (h k v : Nat) : (s.setTag h k v).latch = s.latch := rfl
@[simp] theorem State.setTag_shadow (s : State) (h k v : Nat) : (s.setTag h k v).shadow = s.shadow := rfl
@[simp] theorem State.setTag_flog (s : State) (h k v : Nat) : (s.setTag h k v).flog = s.flog := rfl
@[simp] theorem State.setTag_fab (s : State) (h k v : Nat) : (s.setTag h k v).fab = s.fab := rfl
@[simp] theorem State.setTag_stones (s : State) (h k v : Nat) : (s.setTag h k v).stones = s.stones := rfl
@[simp] theorem State.setTag_mills (s : State) (h k v : Nat) : (s.setTag h k v).mills = s.mills := rfl
@[simp] theorem State.setTag_image (s : State) (h k v : Nat) : (s.setTag h k v).image = s.image := rfl
@[simp] theorem State.setTag_pond (s : State) (h k v : Nat) : (s.setTag h k v).pond = s.pond := rfl
@[simp] theorem State.setTag_pondPoison (s : State) (h k v : Nat) : (s.setTag h k v).pondPoison = s.pondPoison := rfl
@[simp] theorem State.setTag_qs (s : State) (h k v : Nat) : (s.setTag h k v).qs = s.qs := rfl
@[simp] theorem State.setTag_streams (s : State) (h k v : Nat) : (s.setTag h k v).streams = s.streams := rfl
@[simp] theorem State.setTag_ipId (s : State) (h k v : Nat) : (s.setTag h k v).ipId = s.ipId := rfl
@[simp] theorem State.setTag_sch (s : State) (h k v : Nat) : (s.setTag h k v).sch = s.sch := rfl
@[simp] theorem State.setTag_ports (s : State) (h k v : Nat) : (s.setTag h k v).ports = s.ports := rfl
@[simp] theorem State.setTag_mg (s : State) (h k v : Nat) : (s.setTag h k v).mg = s.mg := rfl
@[simp] theorem State.setTag_tideNow (s : State) (h k v : Nat) : (s.setTag h k v).tideNow = s.tideNow := rfl
@[simp] theorem State.setTag_tide (s : State) (h k v : Nat) : (s.setTag h k v).tide = s.tide := rfl
@[simp] theorem State.setTag_mem (s : State) (h k v : Nat) : (s.setTag h k v).mem = s.mem := rfl
@[simp] theorem State.setTag_led (s : State) (h k v : Nat) : (s.setTag h k v).led = s.led := rfl
@[simp] theorem State.setTag_pol (s : State) (h k v : Nat) : (s.setTag h k v).pol = s.pol := rfl
@[simp] theorem State.setTag_meas (s : State) (h k v : Nat) : (s.setTag h k v).meas = s.meas := rfl
@[simp] theorem State.setTag_vk (s : State) (h k v : Nat) : (s.setTag h k v).vk = s.vk := rfl
@[simp] theorem State.setTag_press (s : State) (h k v : Nat) : (s.setTag h k v).press = s.press := rfl
@[simp] theorem State.setTag_pcie (s : State) (h k v : Nat) : (s.setTag h k v).pcie = s.pcie := rfl
@[simp] theorem State.setTag_power (s : State) (h k v : Nat) : (s.setTag h k v).power = s.power := rfl
@[simp] theorem State.setTag_i2c (s : State) (h k v : Nat) : (s.setTag h k v).i2c = s.i2c := rfl
@[simp] theorem State.setTag_trust (s : State) (h k v : Nat) : (s.setTag h k v).trust = s.trust := rfl
@[simp] theorem State.setTag_ras (s : State) (h k v : Nat) : (s.setTag h k v).ras = s.ras := rfl
@[simp] theorem State.setTag_out (s : State) (h k v : Nat) : (s.setTag h k v).out = s.out := rfl
@[simp] theorem State.setTag_fresh (s : State) (h k v : Nat) : (s.setTag h k v).fresh = s.fresh := rfl
@[simp] theorem State.setTag_pending (s : State) (h k v : Nat) : (s.setTag h k v).pending = s.pending := rfl
@[simp] theorem State.setTag_rd (s : State) (h k v : Nat) (ty j off : Nat) : (s.setTag h k v).rd ty j off = s.rd ty j off := rfl
@[simp] theorem State.setTag_fget (s : State) (h k v : Nat) (fl : Fld) (j y : Nat) : (s.setTag h k v).fget fl j y = s.fget fl j y := rfl
@[simp] theorem State.setTag_fbit (s : State) (h k v : Nat) (fl : Fld) (j y : Nat) : (s.setTag h k v).fbit fl j y = s.fbit fl j y := rfl
@[simp] theorem State.setTag_cget (s : State) (h k v : Nat) (ct : Ctr) (j y : Nat) : (s.setTag h k v).cget ct j y = s.cget ct j y := rfl
@[simp] theorem State.setTag_stone (s : State) (h k v : Nat) (m : Nat) : (s.setTag h k v).stone m = s.stone m := rfl

/-! ### upCoh -/

@[simp] theorem State.upCoh_fuse (s : State) (g : Coherence → Coherence) : (s.upCoh g).fuse = s.fuse := rfl
@[simp] theorem State.upCoh_regs (s : State) (g : Coherence → Coherence) : (s.upCoh g).regs = s.regs := rfl
@[simp] theorem State.upCoh_ctrs (s : State) (g : Coherence → Coherence) : (s.upCoh g).ctrs = s.ctrs := rfl
@[simp] theorem State.upCoh_latch (s : State) (g : Coherence → Coherence) : (s.upCoh g).latch = s.latch := rfl
@[simp] theorem State.upCoh_shadow (s : State) (g : Coherence → Coherence) : (s.upCoh g).shadow = s.shadow := rfl
@[simp] theorem State.upCoh_flog (s : State) (g : Coherence → Coherence) : (s.upCoh g).flog = s.flog := rfl
@[simp] theorem State.upCoh_fab (s : State) (g : Coherence → Coherence) : (s.upCoh g).fab = s.fab := rfl
@[simp] theorem State.upCoh_stones (s : State) (g : Coherence → Coherence) : (s.upCoh g).stones = s.stones := rfl
@[simp] theorem State.upCoh_mills (s : State) (g : Coherence → Coherence) : (s.upCoh g).mills = s.mills := rfl
@[simp] theorem State.upCoh_image (s : State) (g : Coherence → Coherence) : (s.upCoh g).image = s.image := rfl
@[simp] theorem State.upCoh_pond (s : State) (g : Coherence → Coherence) : (s.upCoh g).pond = s.pond := rfl
@[simp] theorem State.upCoh_pondPoison (s : State) (g : Coherence → Coherence) : (s.upCoh g).pondPoison = s.pondPoison := rfl
@[simp] theorem State.upCoh_qs (s : State) (g : Coherence → Coherence) : (s.upCoh g).qs = s.qs := rfl
@[simp] theorem State.upCoh_cls (s : State) (g : Coherence → Coherence) : (s.upCoh g).cls = s.cls := rfl
@[simp] theorem State.upCoh_streams (s : State) (g : Coherence → Coherence) : (s.upCoh g).streams = s.streams := rfl
@[simp] theorem State.upCoh_ipId (s : State) (g : Coherence → Coherence) : (s.upCoh g).ipId = s.ipId := rfl
@[simp] theorem State.upCoh_sch (s : State) (g : Coherence → Coherence) : (s.upCoh g).sch = s.sch := rfl
@[simp] theorem State.upCoh_ports (s : State) (g : Coherence → Coherence) : (s.upCoh g).ports = s.ports := rfl
@[simp] theorem State.upCoh_mg (s : State) (g : Coherence → Coherence) : (s.upCoh g).mg = s.mg := rfl
@[simp] theorem State.upCoh_tideNow (s : State) (g : Coherence → Coherence) : (s.upCoh g).tideNow = s.tideNow := rfl
@[simp] theorem State.upCoh_tide (s : State) (g : Coherence → Coherence) : (s.upCoh g).tide = s.tide := rfl
@[simp] theorem State.upCoh_led (s : State) (g : Coherence → Coherence) : (s.upCoh g).led = s.led := rfl
@[simp] theorem State.upCoh_pol (s : State) (g : Coherence → Coherence) : (s.upCoh g).pol = s.pol := rfl
@[simp] theorem State.upCoh_meas (s : State) (g : Coherence → Coherence) : (s.upCoh g).meas = s.meas := rfl
@[simp] theorem State.upCoh_vk (s : State) (g : Coherence → Coherence) : (s.upCoh g).vk = s.vk := rfl
@[simp] theorem State.upCoh_press (s : State) (g : Coherence → Coherence) : (s.upCoh g).press = s.press := rfl
@[simp] theorem State.upCoh_pcie (s : State) (g : Coherence → Coherence) : (s.upCoh g).pcie = s.pcie := rfl
@[simp] theorem State.upCoh_power (s : State) (g : Coherence → Coherence) : (s.upCoh g).power = s.power := rfl
@[simp] theorem State.upCoh_i2c (s : State) (g : Coherence → Coherence) : (s.upCoh g).i2c = s.i2c := rfl
@[simp] theorem State.upCoh_trust (s : State) (g : Coherence → Coherence) : (s.upCoh g).trust = s.trust := rfl
@[simp] theorem State.upCoh_ras (s : State) (g : Coherence → Coherence) : (s.upCoh g).ras = s.ras := rfl
@[simp] theorem State.upCoh_out (s : State) (g : Coherence → Coherence) : (s.upCoh g).out = s.out := rfl
@[simp] theorem State.upCoh_fresh (s : State) (g : Coherence → Coherence) : (s.upCoh g).fresh = s.fresh := rfl
@[simp] theorem State.upCoh_pending (s : State) (g : Coherence → Coherence) : (s.upCoh g).pending = s.pending := rfl
@[simp] theorem State.upCoh_rd (s : State) (g : Coherence → Coherence) (ty j off : Nat) : (s.upCoh g).rd ty j off = s.rd ty j off := rfl
@[simp] theorem State.upCoh_fget (s : State) (g : Coherence → Coherence) (fl : Fld) (j y : Nat) : (s.upCoh g).fget fl j y = s.fget fl j y := rfl
@[simp] theorem State.upCoh_fbit (s : State) (g : Coherence → Coherence) (fl : Fld) (j y : Nat) : (s.upCoh g).fbit fl j y = s.fbit fl j y := rfl
@[simp] theorem State.upCoh_cget (s : State) (g : Coherence → Coherence) (ct : Ctr) (j y : Nat) : (s.upCoh g).cget ct j y = s.cget ct j y := rfl
@[simp] theorem State.upCoh_stone (s : State) (g : Coherence → Coherence) (m : Nat) : (s.upCoh g).stone m = s.stone m := rfl

/-! ### setMiller -/

@[simp] theorem State.setMiller_fuse (s : State) (h : Nat) (x : Miller) : (s.setMiller h x).fuse = s.fuse := rfl
@[simp] theorem State.setMiller_regs (s : State) (h : Nat) (x : Miller) : (s.setMiller h x).regs = s.regs := rfl
@[simp] theorem State.setMiller_ctrs (s : State) (h : Nat) (x : Miller) : (s.setMiller h x).ctrs = s.ctrs := rfl
@[simp] theorem State.setMiller_latch (s : State) (h : Nat) (x : Miller) : (s.setMiller h x).latch = s.latch := rfl
@[simp] theorem State.setMiller_shadow (s : State) (h : Nat) (x : Miller) : (s.setMiller h x).shadow = s.shadow := rfl
@[simp] theorem State.setMiller_flog (s : State) (h : Nat) (x : Miller) : (s.setMiller h x).flog = s.flog := rfl
@[simp] theorem State.setMiller_fab (s : State) (h : Nat) (x : Miller) : (s.setMiller h x).fab = s.fab := rfl
@[simp] theorem State.setMiller_stones (s : State) (h : Nat) (x : Miller) : (s.setMiller h x).stones = s.stones := rfl
@[simp] theorem State.setMiller_mills (s : State) (h : Nat) (x : Miller) : (s.setMiller h x).mills = s.mills := rfl
@[simp] theorem State.setMiller_image (s : State) (h : Nat) (x : Miller) : (s.setMiller h x).image = s.image := rfl
@[simp] theorem State.setMiller_pond (s : State) (h : Nat) (x : Miller) : (s.setMiller h x).pond = s.pond := rfl
@[simp] theorem State.setMiller_pondPoison (s : State) (h : Nat) (x : Miller) : (s.setMiller h x).pondPoison = s.pondPoison := rfl
@[simp] theorem State.setMiller_qs (s : State) (h : Nat) (x : Miller) : (s.setMiller h x).qs = s.qs := rfl
@[simp] theorem State.setMiller_cls (s : State) (h : Nat) (x : Miller) : (s.setMiller h x).cls = s.cls := rfl
@[simp] theorem State.setMiller_streams (s : State) (h : Nat) (x : Miller) : (s.setMiller h x).streams = s.streams := rfl
@[simp] theorem State.setMiller_ipId (s : State) (h : Nat) (x : Miller) : (s.setMiller h x).ipId = s.ipId := rfl
@[simp] theorem State.setMiller_ports (s : State) (h : Nat) (x : Miller) : (s.setMiller h x).ports = s.ports := rfl
@[simp] theorem State.setMiller_mg (s : State) (h : Nat) (x : Miller) : (s.setMiller h x).mg = s.mg := rfl
@[simp] theorem State.setMiller_tideNow (s : State) (h : Nat) (x : Miller) : (s.setMiller h x).tideNow = s.tideNow := rfl
@[simp] theorem State.setMiller_tide (s : State) (h : Nat) (x : Miller) : (s.setMiller h x).tide = s.tide := rfl
@[simp] theorem State.setMiller_mem (s : State) (h : Nat) (x : Miller) : (s.setMiller h x).mem = s.mem := rfl
@[simp] theorem State.setMiller_led (s : State) (h : Nat) (x : Miller) : (s.setMiller h x).led = s.led := rfl
@[simp] theorem State.setMiller_pol (s : State) (h : Nat) (x : Miller) : (s.setMiller h x).pol = s.pol := rfl
@[simp] theorem State.setMiller_meas (s : State) (h : Nat) (x : Miller) : (s.setMiller h x).meas = s.meas := rfl
@[simp] theorem State.setMiller_vk (s : State) (h : Nat) (x : Miller) : (s.setMiller h x).vk = s.vk := rfl
@[simp] theorem State.setMiller_press (s : State) (h : Nat) (x : Miller) : (s.setMiller h x).press = s.press := rfl
@[simp] theorem State.setMiller_pcie (s : State) (h : Nat) (x : Miller) : (s.setMiller h x).pcie = s.pcie := rfl
@[simp] theorem State.setMiller_power (s : State) (h : Nat) (x : Miller) : (s.setMiller h x).power = s.power := rfl
@[simp] theorem State.setMiller_i2c (s : State) (h : Nat) (x : Miller) : (s.setMiller h x).i2c = s.i2c := rfl
@[simp] theorem State.setMiller_trust (s : State) (h : Nat) (x : Miller) : (s.setMiller h x).trust = s.trust := rfl
@[simp] theorem State.setMiller_ras (s : State) (h : Nat) (x : Miller) : (s.setMiller h x).ras = s.ras := rfl
@[simp] theorem State.setMiller_out (s : State) (h : Nat) (x : Miller) : (s.setMiller h x).out = s.out := rfl
@[simp] theorem State.setMiller_fresh (s : State) (h : Nat) (x : Miller) : (s.setMiller h x).fresh = s.fresh := rfl
@[simp] theorem State.setMiller_pending (s : State) (h : Nat) (x : Miller) : (s.setMiller h x).pending = s.pending := rfl
@[simp] theorem State.setMiller_rd (s : State) (h : Nat) (x : Miller) (ty j off : Nat) : (s.setMiller h x).rd ty j off = s.rd ty j off := rfl
@[simp] theorem State.setMiller_fget (s : State) (h : Nat) (x : Miller) (fl : Fld) (j y : Nat) : (s.setMiller h x).fget fl j y = s.fget fl j y := rfl
@[simp] theorem State.setMiller_fbit (s : State) (h : Nat) (x : Miller) (fl : Fld) (j y : Nat) : (s.setMiller h x).fbit fl j y = s.fbit fl j y := rfl
@[simp] theorem State.setMiller_cget (s : State) (h : Nat) (x : Miller) (ct : Ctr) (j y : Nat) : (s.setMiller h x).cget ct j y = s.cget ct j y := rfl
@[simp] theorem State.setMiller_stone (s : State) (h : Nat) (x : Miller) (m : Nat) : (s.setMiller h x).stone m = s.stone m := rfl

/-! ### setKlass -/

@[simp] theorem State.setKlass_fuse (s : State) (n : Nat) (x : Klass) : (s.setKlass n x).fuse = s.fuse := rfl
@[simp] theorem State.setKlass_regs (s : State) (n : Nat) (x : Klass) : (s.setKlass n x).regs = s.regs := rfl
@[simp] theorem State.setKlass_ctrs (s : State) (n : Nat) (x : Klass) : (s.setKlass n x).ctrs = s.ctrs := rfl
@[simp] theorem State.setKlass_latch (s : State) (n : Nat) (x : Klass) : (s.setKlass n x).latch = s.latch := rfl
@[simp] theorem State.setKlass_shadow (s : State) (n : Nat) (x : Klass) : (s.setKlass n x).shadow = s.shadow := rfl
@[simp] theorem State.setKlass_flog (s : State) (n : Nat) (x : Klass) : (s.setKlass n x).flog = s.flog := rfl
@[simp] theorem State.setKlass_fab (s : State) (n : Nat) (x : Klass) : (s.setKlass n x).fab = s.fab := rfl
@[simp] theorem State.setKlass_stones (s : State) (n : Nat) (x : Klass) : (s.setKlass n x).stones = s.stones := rfl
@[simp] theorem State.setKlass_mills (s : State) (n : Nat) (x : Klass) : (s.setKlass n x).mills = s.mills := rfl
@[simp] theorem State.setKlass_image (s : State) (n : Nat) (x : Klass) : (s.setKlass n x).image = s.image := rfl
@[simp] theorem State.setKlass_pond (s : State) (n : Nat) (x : Klass) : (s.setKlass n x).pond = s.pond := rfl
@[simp] theorem State.setKlass_pondPoison (s : State) (n : Nat) (x : Klass) : (s.setKlass n x).pondPoison = s.pondPoison := rfl
@[simp] theorem State.setKlass_qs (s : State) (n : Nat) (x : Klass) : (s.setKlass n x).qs = s.qs := rfl
@[simp] theorem State.setKlass_cls (s : State) (n : Nat) (x : Klass) : (s.setKlass n x).cls = s.cls := rfl
@[simp] theorem State.setKlass_streams (s : State) (n : Nat) (x : Klass) : (s.setKlass n x).streams = s.streams := rfl
@[simp] theorem State.setKlass_ipId (s : State) (n : Nat) (x : Klass) : (s.setKlass n x).ipId = s.ipId := rfl
@[simp] theorem State.setKlass_ports (s : State) (n : Nat) (x : Klass) : (s.setKlass n x).ports = s.ports := rfl
@[simp] theorem State.setKlass_mg (s : State) (n : Nat) (x : Klass) : (s.setKlass n x).mg = s.mg := rfl
@[simp] theorem State.setKlass_tideNow (s : State) (n : Nat) (x : Klass) : (s.setKlass n x).tideNow = s.tideNow := rfl
@[simp] theorem State.setKlass_tide (s : State) (n : Nat) (x : Klass) : (s.setKlass n x).tide = s.tide := rfl
@[simp] theorem State.setKlass_mem (s : State) (n : Nat) (x : Klass) : (s.setKlass n x).mem = s.mem := rfl
@[simp] theorem State.setKlass_led (s : State) (n : Nat) (x : Klass) : (s.setKlass n x).led = s.led := rfl
@[simp] theorem State.setKlass_pol (s : State) (n : Nat) (x : Klass) : (s.setKlass n x).pol = s.pol := rfl
@[simp] theorem State.setKlass_meas (s : State) (n : Nat) (x : Klass) : (s.setKlass n x).meas = s.meas := rfl
@[simp] theorem State.setKlass_vk (s : State) (n : Nat) (x : Klass) : (s.setKlass n x).vk = s.vk := rfl
@[simp] theorem State.setKlass_press (s : State) (n : Nat) (x : Klass) : (s.setKlass n x).press = s.press := rfl
@[simp] theorem State.setKlass_pcie (s : State) (n : Nat) (x : Klass) : (s.setKlass n x).pcie = s.pcie := rfl
@[simp] theorem State.setKlass_power (s : State) (n : Nat) (x : Klass) : (s.setKlass n x).power = s.power := rfl
@[simp] theorem State.setKlass_i2c (s : State) (n : Nat) (x : Klass) : (s.setKlass n x).i2c = s.i2c := rfl
@[simp] theorem State.setKlass_trust (s : State) (n : Nat) (x : Klass) : (s.setKlass n x).trust = s.trust := rfl
@[simp] theorem State.setKlass_ras (s : State) (n : Nat) (x : Klass) : (s.setKlass n x).ras = s.ras := rfl
@[simp] theorem State.setKlass_out (s : State) (n : Nat) (x : Klass) : (s.setKlass n x).out = s.out := rfl
@[simp] theorem State.setKlass_fresh (s : State) (n : Nat) (x : Klass) : (s.setKlass n x).fresh = s.fresh := rfl
@[simp] theorem State.setKlass_pending (s : State) (n : Nat) (x : Klass) : (s.setKlass n x).pending = s.pending := rfl
@[simp] theorem State.setKlass_rd (s : State) (n : Nat) (x : Klass) (ty j off : Nat) : (s.setKlass n x).rd ty j off = s.rd ty j off := rfl
@[simp] theorem State.setKlass_fget (s : State) (n : Nat) (x : Klass) (fl : Fld) (j y : Nat) : (s.setKlass n x).fget fl j y = s.fget fl j y := rfl
@[simp] theorem State.setKlass_fbit (s : State) (n : Nat) (x : Klass) (fl : Fld) (j y : Nat) : (s.setKlass n x).fbit fl j y = s.fbit fl j y := rfl
@[simp] theorem State.setKlass_cget (s : State) (n : Nat) (x : Klass) (ct : Ctr) (j y : Nat) : (s.setKlass n x).cget ct j y = s.cget ct j y := rfl
@[simp] theorem State.setKlass_stone (s : State) (n : Nat) (x : Klass) (m : Nat) : (s.setKlass n x).stone m = s.stone m := rfl

/-! ### setWu -/

@[simp] theorem State.setWu_fuse (s : State) (n : Nat) (x : WU) : (s.setWu n x).fuse = s.fuse := rfl
@[simp] theorem State.setWu_regs (s : State) (n : Nat) (x : WU) : (s.setWu n x).regs = s.regs := rfl
@[simp] theorem State.setWu_ctrs (s : State) (n : Nat) (x : WU) : (s.setWu n x).ctrs = s.ctrs := rfl
@[simp] theorem State.setWu_latch (s : State) (n : Nat) (x : WU) : (s.setWu n x).latch = s.latch := rfl
@[simp] theorem State.setWu_shadow (s : State) (n : Nat) (x : WU) : (s.setWu n x).shadow = s.shadow := rfl
@[simp] theorem State.setWu_flog (s : State) (n : Nat) (x : WU) : (s.setWu n x).flog = s.flog := rfl
@[simp] theorem State.setWu_fab (s : State) (n : Nat) (x : WU) : (s.setWu n x).fab = s.fab := rfl
@[simp] theorem State.setWu_stones (s : State) (n : Nat) (x : WU) : (s.setWu n x).stones = s.stones := rfl
@[simp] theorem State.setWu_mills (s : State) (n : Nat) (x : WU) : (s.setWu n x).mills = s.mills := rfl
@[simp] theorem State.setWu_image (s : State) (n : Nat) (x : WU) : (s.setWu n x).image = s.image := rfl
@[simp] theorem State.setWu_pond (s : State) (n : Nat) (x : WU) : (s.setWu n x).pond = s.pond := rfl
@[simp] theorem State.setWu_pondPoison (s : State) (n : Nat) (x : WU) : (s.setWu n x).pondPoison = s.pondPoison := rfl
@[simp] theorem State.setWu_qs (s : State) (n : Nat) (x : WU) : (s.setWu n x).qs = s.qs := rfl
@[simp] theorem State.setWu_cls (s : State) (n : Nat) (x : WU) : (s.setWu n x).cls = s.cls := rfl
@[simp] theorem State.setWu_streams (s : State) (n : Nat) (x : WU) : (s.setWu n x).streams = s.streams := rfl
@[simp] theorem State.setWu_ipId (s : State) (n : Nat) (x : WU) : (s.setWu n x).ipId = s.ipId := rfl
@[simp] theorem State.setWu_ports (s : State) (n : Nat) (x : WU) : (s.setWu n x).ports = s.ports := rfl
@[simp] theorem State.setWu_mg (s : State) (n : Nat) (x : WU) : (s.setWu n x).mg = s.mg := rfl
@[simp] theorem State.setWu_tideNow (s : State) (n : Nat) (x : WU) : (s.setWu n x).tideNow = s.tideNow := rfl
@[simp] theorem State.setWu_tide (s : State) (n : Nat) (x : WU) : (s.setWu n x).tide = s.tide := rfl
@[simp] theorem State.setWu_mem (s : State) (n : Nat) (x : WU) : (s.setWu n x).mem = s.mem := rfl
@[simp] theorem State.setWu_led (s : State) (n : Nat) (x : WU) : (s.setWu n x).led = s.led := rfl
@[simp] theorem State.setWu_pol (s : State) (n : Nat) (x : WU) : (s.setWu n x).pol = s.pol := rfl
@[simp] theorem State.setWu_meas (s : State) (n : Nat) (x : WU) : (s.setWu n x).meas = s.meas := rfl
@[simp] theorem State.setWu_vk (s : State) (n : Nat) (x : WU) : (s.setWu n x).vk = s.vk := rfl
@[simp] theorem State.setWu_press (s : State) (n : Nat) (x : WU) : (s.setWu n x).press = s.press := rfl
@[simp] theorem State.setWu_pcie (s : State) (n : Nat) (x : WU) : (s.setWu n x).pcie = s.pcie := rfl
@[simp] theorem State.setWu_power (s : State) (n : Nat) (x : WU) : (s.setWu n x).power = s.power := rfl
@[simp] theorem State.setWu_i2c (s : State) (n : Nat) (x : WU) : (s.setWu n x).i2c = s.i2c := rfl
@[simp] theorem State.setWu_trust (s : State) (n : Nat) (x : WU) : (s.setWu n x).trust = s.trust := rfl
@[simp] theorem State.setWu_ras (s : State) (n : Nat) (x : WU) : (s.setWu n x).ras = s.ras := rfl
@[simp] theorem State.setWu_out (s : State) (n : Nat) (x : WU) : (s.setWu n x).out = s.out := rfl
@[simp] theorem State.setWu_fresh (s : State) (n : Nat) (x : WU) : (s.setWu n x).fresh = s.fresh := rfl
@[simp] theorem State.setWu_pending (s : State) (n : Nat) (x : WU) : (s.setWu n x).pending = s.pending := rfl
@[simp] theorem State.setWu_rd (s : State) (n : Nat) (x : WU) (ty j off : Nat) : (s.setWu n x).rd ty j off = s.rd ty j off := rfl
@[simp] theorem State.setWu_fget (s : State) (n : Nat) (x : WU) (fl : Fld) (j y : Nat) : (s.setWu n x).fget fl j y = s.fget fl j y := rfl
@[simp] theorem State.setWu_fbit (s : State) (n : Nat) (x : WU) (fl : Fld) (j y : Nat) : (s.setWu n x).fbit fl j y = s.fbit fl j y := rfl
@[simp] theorem State.setWu_cget (s : State) (n : Nat) (x : WU) (ct : Ctr) (j y : Nat) : (s.setWu n x).cget ct j y = s.cget ct j y := rfl
@[simp] theorem State.setWu_stone (s : State) (n : Nat) (x : WU) (m : Nat) : (s.setWu n x).stone m = s.stone m := rfl

/-! ### setBundle -/

@[simp] theorem State.setBundle_fuse (s : State) (n : Nat) (x : Bundle) : (s.setBundle n x).fuse = s.fuse := rfl
@[simp] theorem State.setBundle_regs (s : State) (n : Nat) (x : Bundle) : (s.setBundle n x).regs = s.regs := rfl
@[simp] theorem State.setBundle_ctrs (s : State) (n : Nat) (x : Bundle) : (s.setBundle n x).ctrs = s.ctrs := rfl
@[simp] theorem State.setBundle_latch (s : State) (n : Nat) (x : Bundle) : (s.setBundle n x).latch = s.latch := rfl
@[simp] theorem State.setBundle_shadow (s : State) (n : Nat) (x : Bundle) : (s.setBundle n x).shadow = s.shadow := rfl
@[simp] theorem State.setBundle_flog (s : State) (n : Nat) (x : Bundle) : (s.setBundle n x).flog = s.flog := rfl
@[simp] theorem State.setBundle_fab (s : State) (n : Nat) (x : Bundle) : (s.setBundle n x).fab = s.fab := rfl
@[simp] theorem State.setBundle_stones (s : State) (n : Nat) (x : Bundle) : (s.setBundle n x).stones = s.stones := rfl
@[simp] theorem State.setBundle_mills (s : State) (n : Nat) (x : Bundle) : (s.setBundle n x).mills = s.mills := rfl
@[simp] theorem State.setBundle_image (s : State) (n : Nat) (x : Bundle) : (s.setBundle n x).image = s.image := rfl
@[simp] theorem State.setBundle_pond (s : State) (n : Nat) (x : Bundle) : (s.setBundle n x).pond = s.pond := rfl
@[simp] theorem State.setBundle_pondPoison (s : State) (n : Nat) (x : Bundle) : (s.setBundle n x).pondPoison = s.pondPoison := rfl
@[simp] theorem State.setBundle_qs (s : State) (n : Nat) (x : Bundle) : (s.setBundle n x).qs = s.qs := rfl
@[simp] theorem State.setBundle_cls (s : State) (n : Nat) (x : Bundle) : (s.setBundle n x).cls = s.cls := rfl
@[simp] theorem State.setBundle_streams (s : State) (n : Nat) (x : Bundle) : (s.setBundle n x).streams = s.streams := rfl
@[simp] theorem State.setBundle_ipId (s : State) (n : Nat) (x : Bundle) : (s.setBundle n x).ipId = s.ipId := rfl
@[simp] theorem State.setBundle_ports (s : State) (n : Nat) (x : Bundle) : (s.setBundle n x).ports = s.ports := rfl
@[simp] theorem State.setBundle_mg (s : State) (n : Nat) (x : Bundle) : (s.setBundle n x).mg = s.mg := rfl
@[simp] theorem State.setBundle_tideNow (s : State) (n : Nat) (x : Bundle) : (s.setBundle n x).tideNow = s.tideNow := rfl
@[simp] theorem State.setBundle_tide (s : State) (n : Nat) (x : Bundle) : (s.setBundle n x).tide = s.tide := rfl
@[simp] theorem State.setBundle_mem (s : State) (n : Nat) (x : Bundle) : (s.setBundle n x).mem = s.mem := rfl
@[simp] theorem State.setBundle_led (s : State) (n : Nat) (x : Bundle) : (s.setBundle n x).led = s.led := rfl
@[simp] theorem State.setBundle_pol (s : State) (n : Nat) (x : Bundle) : (s.setBundle n x).pol = s.pol := rfl
@[simp] theorem State.setBundle_meas (s : State) (n : Nat) (x : Bundle) : (s.setBundle n x).meas = s.meas := rfl
@[simp] theorem State.setBundle_vk (s : State) (n : Nat) (x : Bundle) : (s.setBundle n x).vk = s.vk := rfl
@[simp] theorem State.setBundle_press (s : State) (n : Nat) (x : Bundle) : (s.setBundle n x).press = s.press := rfl
@[simp] theorem State.setBundle_pcie (s : State) (n : Nat) (x : Bundle) : (s.setBundle n x).pcie = s.pcie := rfl
@[simp] theorem State.setBundle_power (s : State) (n : Nat) (x : Bundle) : (s.setBundle n x).power = s.power := rfl
@[simp] theorem State.setBundle_i2c (s : State) (n : Nat) (x : Bundle) : (s.setBundle n x).i2c = s.i2c := rfl
@[simp] theorem State.setBundle_trust (s : State) (n : Nat) (x : Bundle) : (s.setBundle n x).trust = s.trust := rfl
@[simp] theorem State.setBundle_ras (s : State) (n : Nat) (x : Bundle) : (s.setBundle n x).ras = s.ras := rfl
@[simp] theorem State.setBundle_out (s : State) (n : Nat) (x : Bundle) : (s.setBundle n x).out = s.out := rfl
@[simp] theorem State.setBundle_fresh (s : State) (n : Nat) (x : Bundle) : (s.setBundle n x).fresh = s.fresh := rfl
@[simp] theorem State.setBundle_pending (s : State) (n : Nat) (x : Bundle) : (s.setBundle n x).pending = s.pending := rfl
@[simp] theorem State.setBundle_rd (s : State) (n : Nat) (x : Bundle) (ty j off : Nat) : (s.setBundle n x).rd ty j off = s.rd ty j off := rfl
@[simp] theorem State.setBundle_fget (s : State) (n : Nat) (x : Bundle) (fl : Fld) (j y : Nat) : (s.setBundle n x).fget fl j y = s.fget fl j y := rfl
@[simp] theorem State.setBundle_fbit (s : State) (n : Nat) (x : Bundle) (fl : Fld) (j y : Nat) : (s.setBundle n x).fbit fl j y = s.fbit fl j y := rfl
@[simp] theorem State.setBundle_cget (s : State) (n : Nat) (x : Bundle) (ct : Ctr) (j y : Nat) : (s.setBundle n x).cget ct j y = s.cget ct j y := rfl
@[simp] theorem State.setBundle_stone (s : State) (n : Nat) (x : Bundle) (m : Nat) : (s.setBundle n x).stone m = s.stone m := rfl

/-! ### setCtx -/

@[simp] theorem State.setCtx_fuse (s : State) (n : Nat) (x : Tab Byte) : (s.setCtx n x).fuse = s.fuse := rfl
@[simp] theorem State.setCtx_regs (s : State) (n : Nat) (x : Tab Byte) : (s.setCtx n x).regs = s.regs := rfl
@[simp] theorem State.setCtx_ctrs (s : State) (n : Nat) (x : Tab Byte) : (s.setCtx n x).ctrs = s.ctrs := rfl
@[simp] theorem State.setCtx_latch (s : State) (n : Nat) (x : Tab Byte) : (s.setCtx n x).latch = s.latch := rfl
@[simp] theorem State.setCtx_shadow (s : State) (n : Nat) (x : Tab Byte) : (s.setCtx n x).shadow = s.shadow := rfl
@[simp] theorem State.setCtx_flog (s : State) (n : Nat) (x : Tab Byte) : (s.setCtx n x).flog = s.flog := rfl
@[simp] theorem State.setCtx_fab (s : State) (n : Nat) (x : Tab Byte) : (s.setCtx n x).fab = s.fab := rfl
@[simp] theorem State.setCtx_stones (s : State) (n : Nat) (x : Tab Byte) : (s.setCtx n x).stones = s.stones := rfl
@[simp] theorem State.setCtx_mills (s : State) (n : Nat) (x : Tab Byte) : (s.setCtx n x).mills = s.mills := rfl
@[simp] theorem State.setCtx_image (s : State) (n : Nat) (x : Tab Byte) : (s.setCtx n x).image = s.image := rfl
@[simp] theorem State.setCtx_pond (s : State) (n : Nat) (x : Tab Byte) : (s.setCtx n x).pond = s.pond := rfl
@[simp] theorem State.setCtx_pondPoison (s : State) (n : Nat) (x : Tab Byte) : (s.setCtx n x).pondPoison = s.pondPoison := rfl
@[simp] theorem State.setCtx_qs (s : State) (n : Nat) (x : Tab Byte) : (s.setCtx n x).qs = s.qs := rfl
@[simp] theorem State.setCtx_cls (s : State) (n : Nat) (x : Tab Byte) : (s.setCtx n x).cls = s.cls := rfl
@[simp] theorem State.setCtx_streams (s : State) (n : Nat) (x : Tab Byte) : (s.setCtx n x).streams = s.streams := rfl
@[simp] theorem State.setCtx_ipId (s : State) (n : Nat) (x : Tab Byte) : (s.setCtx n x).ipId = s.ipId := rfl
@[simp] theorem State.setCtx_ports (s : State) (n : Nat) (x : Tab Byte) : (s.setCtx n x).ports = s.ports := rfl
@[simp] theorem State.setCtx_mg (s : State) (n : Nat) (x : Tab Byte) : (s.setCtx n x).mg = s.mg := rfl
@[simp] theorem State.setCtx_tideNow (s : State) (n : Nat) (x : Tab Byte) : (s.setCtx n x).tideNow = s.tideNow := rfl
@[simp] theorem State.setCtx_tide (s : State) (n : Nat) (x : Tab Byte) : (s.setCtx n x).tide = s.tide := rfl
@[simp] theorem State.setCtx_mem (s : State) (n : Nat) (x : Tab Byte) : (s.setCtx n x).mem = s.mem := rfl
@[simp] theorem State.setCtx_led (s : State) (n : Nat) (x : Tab Byte) : (s.setCtx n x).led = s.led := rfl
@[simp] theorem State.setCtx_pol (s : State) (n : Nat) (x : Tab Byte) : (s.setCtx n x).pol = s.pol := rfl
@[simp] theorem State.setCtx_meas (s : State) (n : Nat) (x : Tab Byte) : (s.setCtx n x).meas = s.meas := rfl
@[simp] theorem State.setCtx_vk (s : State) (n : Nat) (x : Tab Byte) : (s.setCtx n x).vk = s.vk := rfl
@[simp] theorem State.setCtx_press (s : State) (n : Nat) (x : Tab Byte) : (s.setCtx n x).press = s.press := rfl
@[simp] theorem State.setCtx_pcie (s : State) (n : Nat) (x : Tab Byte) : (s.setCtx n x).pcie = s.pcie := rfl
@[simp] theorem State.setCtx_power (s : State) (n : Nat) (x : Tab Byte) : (s.setCtx n x).power = s.power := rfl
@[simp] theorem State.setCtx_i2c (s : State) (n : Nat) (x : Tab Byte) : (s.setCtx n x).i2c = s.i2c := rfl
@[simp] theorem State.setCtx_trust (s : State) (n : Nat) (x : Tab Byte) : (s.setCtx n x).trust = s.trust := rfl
@[simp] theorem State.setCtx_ras (s : State) (n : Nat) (x : Tab Byte) : (s.setCtx n x).ras = s.ras := rfl
@[simp] theorem State.setCtx_out (s : State) (n : Nat) (x : Tab Byte) : (s.setCtx n x).out = s.out := rfl
@[simp] theorem State.setCtx_fresh (s : State) (n : Nat) (x : Tab Byte) : (s.setCtx n x).fresh = s.fresh := rfl
@[simp] theorem State.setCtx_pending (s : State) (n : Nat) (x : Tab Byte) : (s.setCtx n x).pending = s.pending := rfl
@[simp] theorem State.setCtx_rd (s : State) (n : Nat) (x : Tab Byte) (ty j off : Nat) : (s.setCtx n x).rd ty j off = s.rd ty j off := rfl
@[simp] theorem State.setCtx_fget (s : State) (n : Nat) (x : Tab Byte) (fl : Fld) (j y : Nat) : (s.setCtx n x).fget fl j y = s.fget fl j y := rfl
@[simp] theorem State.setCtx_fbit (s : State) (n : Nat) (x : Tab Byte) (fl : Fld) (j y : Nat) : (s.setCtx n x).fbit fl j y = s.fbit fl j y := rfl
@[simp] theorem State.setCtx_cget (s : State) (n : Nat) (x : Tab Byte) (ct : Ctr) (j y : Nat) : (s.setCtx n x).cget ct j y = s.cget ct j y := rfl
@[simp] theorem State.setCtx_stone (s : State) (n : Nat) (x : Tab Byte) (m : Nat) : (s.setCtx n x).stone m = s.stone m := rfl

/-! ### setLog -/

@[simp] theorem State.setLog_fuse (s : State) (q : Nat) (l : List SealEntry) : (s.setLog q l).fuse = s.fuse := rfl
@[simp] theorem State.setLog_regs (s : State) (q : Nat) (l : List SealEntry) : (s.setLog q l).regs = s.regs := rfl
@[simp] theorem State.setLog_ctrs (s : State) (q : Nat) (l : List SealEntry) : (s.setLog q l).ctrs = s.ctrs := rfl
@[simp] theorem State.setLog_latch (s : State) (q : Nat) (l : List SealEntry) : (s.setLog q l).latch = s.latch := rfl
@[simp] theorem State.setLog_shadow (s : State) (q : Nat) (l : List SealEntry) : (s.setLog q l).shadow = s.shadow := rfl
@[simp] theorem State.setLog_flog (s : State) (q : Nat) (l : List SealEntry) : (s.setLog q l).flog = s.flog := rfl
@[simp] theorem State.setLog_fab (s : State) (q : Nat) (l : List SealEntry) : (s.setLog q l).fab = s.fab := rfl
@[simp] theorem State.setLog_stones (s : State) (q : Nat) (l : List SealEntry) : (s.setLog q l).stones = s.stones := rfl
@[simp] theorem State.setLog_mills (s : State) (q : Nat) (l : List SealEntry) : (s.setLog q l).mills = s.mills := rfl
@[simp] theorem State.setLog_image (s : State) (q : Nat) (l : List SealEntry) : (s.setLog q l).image = s.image := rfl
@[simp] theorem State.setLog_pond (s : State) (q : Nat) (l : List SealEntry) : (s.setLog q l).pond = s.pond := rfl
@[simp] theorem State.setLog_pondPoison (s : State) (q : Nat) (l : List SealEntry) : (s.setLog q l).pondPoison = s.pondPoison := rfl
@[simp] theorem State.setLog_qs (s : State) (q : Nat) (l : List SealEntry) : (s.setLog q l).qs = s.qs := rfl
@[simp] theorem State.setLog_cls (s : State) (q : Nat) (l : List SealEntry) : (s.setLog q l).cls = s.cls := rfl
@[simp] theorem State.setLog_streams (s : State) (q : Nat) (l : List SealEntry) : (s.setLog q l).streams = s.streams := rfl
@[simp] theorem State.setLog_ipId (s : State) (q : Nat) (l : List SealEntry) : (s.setLog q l).ipId = s.ipId := rfl
@[simp] theorem State.setLog_ports (s : State) (q : Nat) (l : List SealEntry) : (s.setLog q l).ports = s.ports := rfl
@[simp] theorem State.setLog_mg (s : State) (q : Nat) (l : List SealEntry) : (s.setLog q l).mg = s.mg := rfl
@[simp] theorem State.setLog_tideNow (s : State) (q : Nat) (l : List SealEntry) : (s.setLog q l).tideNow = s.tideNow := rfl
@[simp] theorem State.setLog_tide (s : State) (q : Nat) (l : List SealEntry) : (s.setLog q l).tide = s.tide := rfl
@[simp] theorem State.setLog_mem (s : State) (q : Nat) (l : List SealEntry) : (s.setLog q l).mem = s.mem := rfl
@[simp] theorem State.setLog_led (s : State) (q : Nat) (l : List SealEntry) : (s.setLog q l).led = s.led := rfl
@[simp] theorem State.setLog_pol (s : State) (q : Nat) (l : List SealEntry) : (s.setLog q l).pol = s.pol := rfl
@[simp] theorem State.setLog_meas (s : State) (q : Nat) (l : List SealEntry) : (s.setLog q l).meas = s.meas := rfl
@[simp] theorem State.setLog_vk (s : State) (q : Nat) (l : List SealEntry) : (s.setLog q l).vk = s.vk := rfl
@[simp] theorem State.setLog_press (s : State) (q : Nat) (l : List SealEntry) : (s.setLog q l).press = s.press := rfl
@[simp] theorem State.setLog_pcie (s : State) (q : Nat) (l : List SealEntry) : (s.setLog q l).pcie = s.pcie := rfl
@[simp] theorem State.setLog_power (s : State) (q : Nat) (l : List SealEntry) : (s.setLog q l).power = s.power := rfl
@[simp] theorem State.setLog_i2c (s : State) (q : Nat) (l : List SealEntry) : (s.setLog q l).i2c = s.i2c := rfl
@[simp] theorem State.setLog_trust (s : State) (q : Nat) (l : List SealEntry) : (s.setLog q l).trust = s.trust := rfl
@[simp] theorem State.setLog_ras (s : State) (q : Nat) (l : List SealEntry) : (s.setLog q l).ras = s.ras := rfl
@[simp] theorem State.setLog_out (s : State) (q : Nat) (l : List SealEntry) : (s.setLog q l).out = s.out := rfl
@[simp] theorem State.setLog_fresh (s : State) (q : Nat) (l : List SealEntry) : (s.setLog q l).fresh = s.fresh := rfl
@[simp] theorem State.setLog_pending (s : State) (q : Nat) (l : List SealEntry) : (s.setLog q l).pending = s.pending := rfl
@[simp] theorem State.setLog_rd (s : State) (q : Nat) (l : List SealEntry) (ty j off : Nat) : (s.setLog q l).rd ty j off = s.rd ty j off := rfl
@[simp] theorem State.setLog_fget (s : State) (q : Nat) (l : List SealEntry) (fl : Fld) (j y : Nat) : (s.setLog q l).fget fl j y = s.fget fl j y := rfl
@[simp] theorem State.setLog_fbit (s : State) (q : Nat) (l : List SealEntry) (fl : Fld) (j y : Nat) : (s.setLog q l).fbit fl j y = s.fbit fl j y := rfl
@[simp] theorem State.setLog_cget (s : State) (q : Nat) (l : List SealEntry) (ct : Ctr) (j y : Nat) : (s.setLog q l).cget ct j y = s.cget ct j y := rfl
@[simp] theorem State.setLog_stone (s : State) (q : Nat) (l : List SealEntry) (m : Nat) : (s.setLog q l).stone m = s.stone m := rfl

/-! ### setKst -/

@[simp] theorem State.setKst_fuse (s : State) (k : Nat) (x : KState) : (s.setKst k x).fuse = s.fuse := rfl
@[simp] theorem State.setKst_regs (s : State) (k : Nat) (x : KState) : (s.setKst k x).regs = s.regs := rfl
@[simp] theorem State.setKst_ctrs (s : State) (k : Nat) (x : KState) : (s.setKst k x).ctrs = s.ctrs := rfl
@[simp] theorem State.setKst_latch (s : State) (k : Nat) (x : KState) : (s.setKst k x).latch = s.latch := rfl
@[simp] theorem State.setKst_shadow (s : State) (k : Nat) (x : KState) : (s.setKst k x).shadow = s.shadow := rfl
@[simp] theorem State.setKst_flog (s : State) (k : Nat) (x : KState) : (s.setKst k x).flog = s.flog := rfl
@[simp] theorem State.setKst_fab (s : State) (k : Nat) (x : KState) : (s.setKst k x).fab = s.fab := rfl
@[simp] theorem State.setKst_stones (s : State) (k : Nat) (x : KState) : (s.setKst k x).stones = s.stones := rfl
@[simp] theorem State.setKst_mills (s : State) (k : Nat) (x : KState) : (s.setKst k x).mills = s.mills := rfl
@[simp] theorem State.setKst_image (s : State) (k : Nat) (x : KState) : (s.setKst k x).image = s.image := rfl
@[simp] theorem State.setKst_pond (s : State) (k : Nat) (x : KState) : (s.setKst k x).pond = s.pond := rfl
@[simp] theorem State.setKst_pondPoison (s : State) (k : Nat) (x : KState) : (s.setKst k x).pondPoison = s.pondPoison := rfl
@[simp] theorem State.setKst_qs (s : State) (k : Nat) (x : KState) : (s.setKst k x).qs = s.qs := rfl
@[simp] theorem State.setKst_cls (s : State) (k : Nat) (x : KState) : (s.setKst k x).cls = s.cls := rfl
@[simp] theorem State.setKst_streams (s : State) (k : Nat) (x : KState) : (s.setKst k x).streams = s.streams := rfl
@[simp] theorem State.setKst_ipId (s : State) (k : Nat) (x : KState) : (s.setKst k x).ipId = s.ipId := rfl
@[simp] theorem State.setKst_ports (s : State) (k : Nat) (x : KState) : (s.setKst k x).ports = s.ports := rfl
@[simp] theorem State.setKst_mg (s : State) (k : Nat) (x : KState) : (s.setKst k x).mg = s.mg := rfl
@[simp] theorem State.setKst_tideNow (s : State) (k : Nat) (x : KState) : (s.setKst k x).tideNow = s.tideNow := rfl
@[simp] theorem State.setKst_tide (s : State) (k : Nat) (x : KState) : (s.setKst k x).tide = s.tide := rfl
@[simp] theorem State.setKst_mem (s : State) (k : Nat) (x : KState) : (s.setKst k x).mem = s.mem := rfl
@[simp] theorem State.setKst_led (s : State) (k : Nat) (x : KState) : (s.setKst k x).led = s.led := rfl
@[simp] theorem State.setKst_pol (s : State) (k : Nat) (x : KState) : (s.setKst k x).pol = s.pol := rfl
@[simp] theorem State.setKst_meas (s : State) (k : Nat) (x : KState) : (s.setKst k x).meas = s.meas := rfl
@[simp] theorem State.setKst_vk (s : State) (k : Nat) (x : KState) : (s.setKst k x).vk = s.vk := rfl
@[simp] theorem State.setKst_press (s : State) (k : Nat) (x : KState) : (s.setKst k x).press = s.press := rfl
@[simp] theorem State.setKst_pcie (s : State) (k : Nat) (x : KState) : (s.setKst k x).pcie = s.pcie := rfl
@[simp] theorem State.setKst_power (s : State) (k : Nat) (x : KState) : (s.setKst k x).power = s.power := rfl
@[simp] theorem State.setKst_i2c (s : State) (k : Nat) (x : KState) : (s.setKst k x).i2c = s.i2c := rfl
@[simp] theorem State.setKst_trust (s : State) (k : Nat) (x : KState) : (s.setKst k x).trust = s.trust := rfl
@[simp] theorem State.setKst_ras (s : State) (k : Nat) (x : KState) : (s.setKst k x).ras = s.ras := rfl
@[simp] theorem State.setKst_out (s : State) (k : Nat) (x : KState) : (s.setKst k x).out = s.out := rfl
@[simp] theorem State.setKst_fresh (s : State) (k : Nat) (x : KState) : (s.setKst k x).fresh = s.fresh := rfl
@[simp] theorem State.setKst_pending (s : State) (k : Nat) (x : KState) : (s.setKst k x).pending = s.pending := rfl
@[simp] theorem State.setKst_rd (s : State) (k : Nat) (x : KState) (ty j off : Nat) : (s.setKst k x).rd ty j off = s.rd ty j off := rfl
@[simp] theorem State.setKst_fget (s : State) (k : Nat) (x : KState) (fl : Fld) (j y : Nat) : (s.setKst k x).fget fl j y = s.fget fl j y := rfl
@[simp] theorem State.setKst_fbit (s : State) (k : Nat) (x : KState) (fl : Fld) (j y : Nat) : (s.setKst k x).fbit fl j y = s.fbit fl j y := rfl
@[simp] theorem State.setKst_cget (s : State) (k : Nat) (x : KState) (ct : Ctr) (j y : Nat) : (s.setKst k x).cget ct j y = s.cget ct j y := rfl
@[simp] theorem State.setKst_stone (s : State) (k : Nat) (x : KState) (m : Nat) : (s.setKst k x).stone m = s.stone m := rfl

/-! ### forgetPace -/

@[simp] theorem State.forgetPace_fuse (s : State) (m : Nat) : (s.forgetPace m).fuse = s.fuse := rfl
@[simp] theorem State.forgetPace_regs (s : State) (m : Nat) : (s.forgetPace m).regs = s.regs := rfl
@[simp] theorem State.forgetPace_ctrs (s : State) (m : Nat) : (s.forgetPace m).ctrs = s.ctrs := rfl
@[simp] theorem State.forgetPace_latch (s : State) (m : Nat) : (s.forgetPace m).latch = s.latch := rfl
@[simp] theorem State.forgetPace_shadow (s : State) (m : Nat) : (s.forgetPace m).shadow = s.shadow := rfl
@[simp] theorem State.forgetPace_flog (s : State) (m : Nat) : (s.forgetPace m).flog = s.flog := rfl
@[simp] theorem State.forgetPace_stones (s : State) (m : Nat) : (s.forgetPace m).stones = s.stones := rfl
@[simp] theorem State.forgetPace_mills (s : State) (m : Nat) : (s.forgetPace m).mills = s.mills := rfl
@[simp] theorem State.forgetPace_image (s : State) (m : Nat) : (s.forgetPace m).image = s.image := rfl
@[simp] theorem State.forgetPace_pond (s : State) (m : Nat) : (s.forgetPace m).pond = s.pond := rfl
@[simp] theorem State.forgetPace_pondPoison (s : State) (m : Nat) : (s.forgetPace m).pondPoison = s.pondPoison := rfl
@[simp] theorem State.forgetPace_qs (s : State) (m : Nat) : (s.forgetPace m).qs = s.qs := rfl
@[simp] theorem State.forgetPace_cls (s : State) (m : Nat) : (s.forgetPace m).cls = s.cls := rfl
@[simp] theorem State.forgetPace_streams (s : State) (m : Nat) : (s.forgetPace m).streams = s.streams := rfl
@[simp] theorem State.forgetPace_ipId (s : State) (m : Nat) : (s.forgetPace m).ipId = s.ipId := rfl
@[simp] theorem State.forgetPace_sch (s : State) (m : Nat) : (s.forgetPace m).sch = s.sch := rfl
@[simp] theorem State.forgetPace_ports (s : State) (m : Nat) : (s.forgetPace m).ports = s.ports := rfl
@[simp] theorem State.forgetPace_mg (s : State) (m : Nat) : (s.forgetPace m).mg = s.mg := rfl
@[simp] theorem State.forgetPace_tideNow (s : State) (m : Nat) : (s.forgetPace m).tideNow = s.tideNow := rfl
@[simp] theorem State.forgetPace_tide (s : State) (m : Nat) : (s.forgetPace m).tide = s.tide := rfl
@[simp] theorem State.forgetPace_mem (s : State) (m : Nat) : (s.forgetPace m).mem = s.mem := rfl
@[simp] theorem State.forgetPace_led (s : State) (m : Nat) : (s.forgetPace m).led = s.led := rfl
@[simp] theorem State.forgetPace_pol (s : State) (m : Nat) : (s.forgetPace m).pol = s.pol := rfl
@[simp] theorem State.forgetPace_meas (s : State) (m : Nat) : (s.forgetPace m).meas = s.meas := rfl
@[simp] theorem State.forgetPace_vk (s : State) (m : Nat) : (s.forgetPace m).vk = s.vk := rfl
@[simp] theorem State.forgetPace_press (s : State) (m : Nat) : (s.forgetPace m).press = s.press := rfl
@[simp] theorem State.forgetPace_pcie (s : State) (m : Nat) : (s.forgetPace m).pcie = s.pcie := rfl
@[simp] theorem State.forgetPace_power (s : State) (m : Nat) : (s.forgetPace m).power = s.power := rfl
@[simp] theorem State.forgetPace_i2c (s : State) (m : Nat) : (s.forgetPace m).i2c = s.i2c := rfl
@[simp] theorem State.forgetPace_trust (s : State) (m : Nat) : (s.forgetPace m).trust = s.trust := rfl
@[simp] theorem State.forgetPace_ras (s : State) (m : Nat) : (s.forgetPace m).ras = s.ras := rfl
@[simp] theorem State.forgetPace_out (s : State) (m : Nat) : (s.forgetPace m).out = s.out := rfl
@[simp] theorem State.forgetPace_fresh (s : State) (m : Nat) : (s.forgetPace m).fresh = s.fresh := rfl
@[simp] theorem State.forgetPace_pending (s : State) (m : Nat) : (s.forgetPace m).pending = s.pending := rfl
@[simp] theorem State.forgetPace_rd (s : State) (m : Nat) (ty j off : Nat) : (s.forgetPace m).rd ty j off = s.rd ty j off := rfl
@[simp] theorem State.forgetPace_fget (s : State) (m : Nat) (fl : Fld) (j y : Nat) : (s.forgetPace m).fget fl j y = s.fget fl j y := rfl
@[simp] theorem State.forgetPace_fbit (s : State) (m : Nat) (fl : Fld) (j y : Nat) : (s.forgetPace m).fbit fl j y = s.fbit fl j y := rfl
@[simp] theorem State.forgetPace_cget (s : State) (m : Nat) (ct : Ctr) (j y : Nat) : (s.forgetPace m).cget ct j y = s.cget ct j y := rfl
@[simp] theorem State.forgetPace_stone (s : State) (m : Nat) (m : Nat) : (s.forgetPace m).stone m = s.stone m := rfl

/-! ### upPulse -/

@[simp] theorem State.upPulse_fuse (s : State) (k : Nat) (g : Pulse → Pulse) : (s.upPulse k g).fuse = s.fuse := rfl
@[simp] theorem State.upPulse_regs (s : State) (k : Nat) (g : Pulse → Pulse) : (s.upPulse k g).regs = s.regs := rfl
@[simp] theorem State.upPulse_ctrs (s : State) (k : Nat) (g : Pulse → Pulse) : (s.upPulse k g).ctrs = s.ctrs := rfl
@[simp] theorem State.upPulse_latch (s : State) (k : Nat) (g : Pulse → Pulse) : (s.upPulse k g).latch = s.latch := rfl
@[simp] theorem State.upPulse_shadow (s : State) (k : Nat) (g : Pulse → Pulse) : (s.upPulse k g).shadow = s.shadow := rfl
@[simp] theorem State.upPulse_flog (s : State) (k : Nat) (g : Pulse → Pulse) : (s.upPulse k g).flog = s.flog := rfl
@[simp] theorem State.upPulse_fab (s : State) (k : Nat) (g : Pulse → Pulse) : (s.upPulse k g).fab = s.fab := rfl
@[simp] theorem State.upPulse_stones (s : State) (k : Nat) (g : Pulse → Pulse) : (s.upPulse k g).stones = s.stones := rfl
@[simp] theorem State.upPulse_mills (s : State) (k : Nat) (g : Pulse → Pulse) : (s.upPulse k g).mills = s.mills := rfl
@[simp] theorem State.upPulse_image (s : State) (k : Nat) (g : Pulse → Pulse) : (s.upPulse k g).image = s.image := rfl
@[simp] theorem State.upPulse_pond (s : State) (k : Nat) (g : Pulse → Pulse) : (s.upPulse k g).pond = s.pond := rfl
@[simp] theorem State.upPulse_pondPoison (s : State) (k : Nat) (g : Pulse → Pulse) : (s.upPulse k g).pondPoison = s.pondPoison := rfl
@[simp] theorem State.upPulse_qs (s : State) (k : Nat) (g : Pulse → Pulse) : (s.upPulse k g).qs = s.qs := rfl
@[simp] theorem State.upPulse_cls (s : State) (k : Nat) (g : Pulse → Pulse) : (s.upPulse k g).cls = s.cls := rfl
@[simp] theorem State.upPulse_streams (s : State) (k : Nat) (g : Pulse → Pulse) : (s.upPulse k g).streams = s.streams := rfl
@[simp] theorem State.upPulse_ipId (s : State) (k : Nat) (g : Pulse → Pulse) : (s.upPulse k g).ipId = s.ipId := rfl
@[simp] theorem State.upPulse_sch (s : State) (k : Nat) (g : Pulse → Pulse) : (s.upPulse k g).sch = s.sch := rfl
@[simp] theorem State.upPulse_ports (s : State) (k : Nat) (g : Pulse → Pulse) : (s.upPulse k g).ports = s.ports := rfl
@[simp] theorem State.upPulse_mg (s : State) (k : Nat) (g : Pulse → Pulse) : (s.upPulse k g).mg = s.mg := rfl
@[simp] theorem State.upPulse_tideNow (s : State) (k : Nat) (g : Pulse → Pulse) : (s.upPulse k g).tideNow = s.tideNow := rfl
@[simp] theorem State.upPulse_mem (s : State) (k : Nat) (g : Pulse → Pulse) : (s.upPulse k g).mem = s.mem := rfl
@[simp] theorem State.upPulse_led (s : State) (k : Nat) (g : Pulse → Pulse) : (s.upPulse k g).led = s.led := rfl
@[simp] theorem State.upPulse_pol (s : State) (k : Nat) (g : Pulse → Pulse) : (s.upPulse k g).pol = s.pol := rfl
@[simp] theorem State.upPulse_meas (s : State) (k : Nat) (g : Pulse → Pulse) : (s.upPulse k g).meas = s.meas := rfl
@[simp] theorem State.upPulse_vk (s : State) (k : Nat) (g : Pulse → Pulse) : (s.upPulse k g).vk = s.vk := rfl
@[simp] theorem State.upPulse_press (s : State) (k : Nat) (g : Pulse → Pulse) : (s.upPulse k g).press = s.press := rfl
@[simp] theorem State.upPulse_pcie (s : State) (k : Nat) (g : Pulse → Pulse) : (s.upPulse k g).pcie = s.pcie := rfl
@[simp] theorem State.upPulse_power (s : State) (k : Nat) (g : Pulse → Pulse) : (s.upPulse k g).power = s.power := rfl
@[simp] theorem State.upPulse_i2c (s : State) (k : Nat) (g : Pulse → Pulse) : (s.upPulse k g).i2c = s.i2c := rfl
@[simp] theorem State.upPulse_trust (s : State) (k : Nat) (g : Pulse → Pulse) : (s.upPulse k g).trust = s.trust := rfl
@[simp] theorem State.upPulse_ras (s : State) (k : Nat) (g : Pulse → Pulse) : (s.upPulse k g).ras = s.ras := rfl
@[simp] theorem State.upPulse_out (s : State) (k : Nat) (g : Pulse → Pulse) : (s.upPulse k g).out = s.out := rfl
@[simp] theorem State.upPulse_fresh (s : State) (k : Nat) (g : Pulse → Pulse) : (s.upPulse k g).fresh = s.fresh := rfl
@[simp] theorem State.upPulse_pending (s : State) (k : Nat) (g : Pulse → Pulse) : (s.upPulse k g).pending = s.pending := rfl
@[simp] theorem State.upPulse_rd (s : State) (k : Nat) (g : Pulse → Pulse) (ty j off : Nat) : (s.upPulse k g).rd ty j off = s.rd ty j off := rfl
@[simp] theorem State.upPulse_fget (s : State) (k : Nat) (g : Pulse → Pulse) (fl : Fld) (j y : Nat) : (s.upPulse k g).fget fl j y = s.fget fl j y := rfl
@[simp] theorem State.upPulse_fbit (s : State) (k : Nat) (g : Pulse → Pulse) (fl : Fld) (j y : Nat) : (s.upPulse k g).fbit fl j y = s.fbit fl j y := rfl
@[simp] theorem State.upPulse_cget (s : State) (k : Nat) (g : Pulse → Pulse) (ct : Ctr) (j y : Nat) : (s.upPulse k g).cget ct j y = s.cget ct j y := rfl
@[simp] theorem State.upPulse_stone (s : State) (k : Nat) (g : Pulse → Pulse) (m : Nat) : (s.upPulse k g).stone m = s.stone m := rfl

/-! ### setDom -/

@[simp] theorem State.setDom_fuse (s : State) (d v : Nat) : (s.setDom d v).fuse = s.fuse := rfl
@[simp] theorem State.setDom_regs (s : State) (d v : Nat) : (s.setDom d v).regs = s.regs := rfl
@[simp] theorem State.setDom_ctrs (s : State) (d v : Nat) : (s.setDom d v).ctrs = s.ctrs := rfl
@[simp] theorem State.setDom_latch (s : State) (d v : Nat) : (s.setDom d v).latch = s.latch := rfl
@[simp] theorem State.setDom_shadow (s : State) (d v : Nat) : (s.setDom d v).shadow = s.shadow := rfl
@[simp] theorem State.setDom_flog (s : State) (d v : Nat) : (s.setDom d v).flog = s.flog := rfl
@[simp] theorem State.setDom_fab (s : State) (d v : Nat) : (s.setDom d v).fab = s.fab := rfl
@[simp] theorem State.setDom_stones (s : State) (d v : Nat) : (s.setDom d v).stones = s.stones := rfl
@[simp] theorem State.setDom_mills (s : State) (d v : Nat) : (s.setDom d v).mills = s.mills := rfl
@[simp] theorem State.setDom_image (s : State) (d v : Nat) : (s.setDom d v).image = s.image := rfl
@[simp] theorem State.setDom_pond (s : State) (d v : Nat) : (s.setDom d v).pond = s.pond := rfl
@[simp] theorem State.setDom_pondPoison (s : State) (d v : Nat) : (s.setDom d v).pondPoison = s.pondPoison := rfl
@[simp] theorem State.setDom_qs (s : State) (d v : Nat) : (s.setDom d v).qs = s.qs := rfl
@[simp] theorem State.setDom_cls (s : State) (d v : Nat) : (s.setDom d v).cls = s.cls := rfl
@[simp] theorem State.setDom_streams (s : State) (d v : Nat) : (s.setDom d v).streams = s.streams := rfl
@[simp] theorem State.setDom_ipId (s : State) (d v : Nat) : (s.setDom d v).ipId = s.ipId := rfl
@[simp] theorem State.setDom_sch (s : State) (d v : Nat) : (s.setDom d v).sch = s.sch := rfl
@[simp] theorem State.setDom_ports (s : State) (d v : Nat) : (s.setDom d v).ports = s.ports := rfl
@[simp] theorem State.setDom_mg (s : State) (d v : Nat) : (s.setDom d v).mg = s.mg := rfl
@[simp] theorem State.setDom_tideNow (s : State) (d v : Nat) : (s.setDom d v).tideNow = s.tideNow := rfl
@[simp] theorem State.setDom_tide (s : State) (d v : Nat) : (s.setDom d v).tide = s.tide := rfl
@[simp] theorem State.setDom_mem (s : State) (d v : Nat) : (s.setDom d v).mem = s.mem := rfl
@[simp] theorem State.setDom_led (s : State) (d v : Nat) : (s.setDom d v).led = s.led := rfl
@[simp] theorem State.setDom_pol (s : State) (d v : Nat) : (s.setDom d v).pol = s.pol := rfl
@[simp] theorem State.setDom_meas (s : State) (d v : Nat) : (s.setDom d v).meas = s.meas := rfl
@[simp] theorem State.setDom_vk (s : State) (d v : Nat) : (s.setDom d v).vk = s.vk := rfl
@[simp] theorem State.setDom_press (s : State) (d v : Nat) : (s.setDom d v).press = s.press := rfl
@[simp] theorem State.setDom_pcie (s : State) (d v : Nat) : (s.setDom d v).pcie = s.pcie := rfl
@[simp] theorem State.setDom_i2c (s : State) (d v : Nat) : (s.setDom d v).i2c = s.i2c := rfl
@[simp] theorem State.setDom_trust (s : State) (d v : Nat) : (s.setDom d v).trust = s.trust := rfl
@[simp] theorem State.setDom_ras (s : State) (d v : Nat) : (s.setDom d v).ras = s.ras := rfl
@[simp] theorem State.setDom_out (s : State) (d v : Nat) : (s.setDom d v).out = s.out := rfl
@[simp] theorem State.setDom_fresh (s : State) (d v : Nat) : (s.setDom d v).fresh = s.fresh := rfl
@[simp] theorem State.setDom_pending (s : State) (d v : Nat) : (s.setDom d v).pending = s.pending := rfl
@[simp] theorem State.setDom_rd (s : State) (d v : Nat) (ty j off : Nat) : (s.setDom d v).rd ty j off = s.rd ty j off := rfl
@[simp] theorem State.setDom_fget (s : State) (d v : Nat) (fl : Fld) (j y : Nat) : (s.setDom d v).fget fl j y = s.fget fl j y := rfl
@[simp] theorem State.setDom_fbit (s : State) (d v : Nat) (fl : Fld) (j y : Nat) : (s.setDom d v).fbit fl j y = s.fbit fl j y := rfl
@[simp] theorem State.setDom_cget (s : State) (d v : Nat) (ct : Ctr) (j y : Nat) : (s.setDom d v).cget ct j y = s.cget ct j y := rfl
@[simp] theorem State.setDom_stone (s : State) (d v : Nat) (m : Nat) : (s.setDom d v).stone m = s.stone m := rfl

/-! ### setSlotBytes -/

@[simp] theorem State.setSlotBytes_fuse (s : State) (n : Nat) (b : List Byte) : (s.setSlotBytes n b).fuse = s.fuse := rfl
@[simp] theorem State.setSlotBytes_regs (s : State) (n : Nat) (b : List Byte) : (s.setSlotBytes n b).regs = s.regs := rfl
@[simp] theorem State.setSlotBytes_ctrs (s : State) (n : Nat) (b : List Byte) : (s.setSlotBytes n b).ctrs = s.ctrs := rfl
@[simp] theorem State.setSlotBytes_latch (s : State) (n : Nat) (b : List Byte) : (s.setSlotBytes n b).latch = s.latch := rfl
@[simp] theorem State.setSlotBytes_shadow (s : State) (n : Nat) (b : List Byte) : (s.setSlotBytes n b).shadow = s.shadow := rfl
@[simp] theorem State.setSlotBytes_flog (s : State) (n : Nat) (b : List Byte) : (s.setSlotBytes n b).flog = s.flog := rfl
@[simp] theorem State.setSlotBytes_fab (s : State) (n : Nat) (b : List Byte) : (s.setSlotBytes n b).fab = s.fab := rfl
@[simp] theorem State.setSlotBytes_stones (s : State) (n : Nat) (b : List Byte) : (s.setSlotBytes n b).stones = s.stones := rfl
@[simp] theorem State.setSlotBytes_mills (s : State) (n : Nat) (b : List Byte) : (s.setSlotBytes n b).mills = s.mills := rfl
@[simp] theorem State.setSlotBytes_image (s : State) (n : Nat) (b : List Byte) : (s.setSlotBytes n b).image = s.image := rfl
@[simp] theorem State.setSlotBytes_pond (s : State) (n : Nat) (b : List Byte) : (s.setSlotBytes n b).pond = s.pond := rfl
@[simp] theorem State.setSlotBytes_pondPoison (s : State) (n : Nat) (b : List Byte) : (s.setSlotBytes n b).pondPoison = s.pondPoison := rfl
@[simp] theorem State.setSlotBytes_qs (s : State) (n : Nat) (b : List Byte) : (s.setSlotBytes n b).qs = s.qs := rfl
@[simp] theorem State.setSlotBytes_cls (s : State) (n : Nat) (b : List Byte) : (s.setSlotBytes n b).cls = s.cls := rfl
@[simp] theorem State.setSlotBytes_streams (s : State) (n : Nat) (b : List Byte) : (s.setSlotBytes n b).streams = s.streams := rfl
@[simp] theorem State.setSlotBytes_ipId (s : State) (n : Nat) (b : List Byte) : (s.setSlotBytes n b).ipId = s.ipId := rfl
@[simp] theorem State.setSlotBytes_sch (s : State) (n : Nat) (b : List Byte) : (s.setSlotBytes n b).sch = s.sch := rfl
@[simp] theorem State.setSlotBytes_ports (s : State) (n : Nat) (b : List Byte) : (s.setSlotBytes n b).ports = s.ports := rfl
@[simp] theorem State.setSlotBytes_mg (s : State) (n : Nat) (b : List Byte) : (s.setSlotBytes n b).mg = s.mg := rfl
@[simp] theorem State.setSlotBytes_tideNow (s : State) (n : Nat) (b : List Byte) : (s.setSlotBytes n b).tideNow = s.tideNow := rfl
@[simp] theorem State.setSlotBytes_tide (s : State) (n : Nat) (b : List Byte) : (s.setSlotBytes n b).tide = s.tide := rfl
@[simp] theorem State.setSlotBytes_mem (s : State) (n : Nat) (b : List Byte) : (s.setSlotBytes n b).mem = s.mem := rfl
@[simp] theorem State.setSlotBytes_pol (s : State) (n : Nat) (b : List Byte) : (s.setSlotBytes n b).pol = s.pol := rfl
@[simp] theorem State.setSlotBytes_meas (s : State) (n : Nat) (b : List Byte) : (s.setSlotBytes n b).meas = s.meas := rfl
@[simp] theorem State.setSlotBytes_vk (s : State) (n : Nat) (b : List Byte) : (s.setSlotBytes n b).vk = s.vk := rfl
@[simp] theorem State.setSlotBytes_press (s : State) (n : Nat) (b : List Byte) : (s.setSlotBytes n b).press = s.press := rfl
@[simp] theorem State.setSlotBytes_pcie (s : State) (n : Nat) (b : List Byte) : (s.setSlotBytes n b).pcie = s.pcie := rfl
@[simp] theorem State.setSlotBytes_power (s : State) (n : Nat) (b : List Byte) : (s.setSlotBytes n b).power = s.power := rfl
@[simp] theorem State.setSlotBytes_i2c (s : State) (n : Nat) (b : List Byte) : (s.setSlotBytes n b).i2c = s.i2c := rfl
@[simp] theorem State.setSlotBytes_trust (s : State) (n : Nat) (b : List Byte) : (s.setSlotBytes n b).trust = s.trust := rfl
@[simp] theorem State.setSlotBytes_ras (s : State) (n : Nat) (b : List Byte) : (s.setSlotBytes n b).ras = s.ras := rfl
@[simp] theorem State.setSlotBytes_out (s : State) (n : Nat) (b : List Byte) : (s.setSlotBytes n b).out = s.out := rfl
@[simp] theorem State.setSlotBytes_fresh (s : State) (n : Nat) (b : List Byte) : (s.setSlotBytes n b).fresh = s.fresh := rfl
@[simp] theorem State.setSlotBytes_pending (s : State) (n : Nat) (b : List Byte) : (s.setSlotBytes n b).pending = s.pending := rfl
@[simp] theorem State.setSlotBytes_rd (s : State) (n : Nat) (b : List Byte) (ty j off : Nat) : (s.setSlotBytes n b).rd ty j off = s.rd ty j off := rfl
@[simp] theorem State.setSlotBytes_fget (s : State) (n : Nat) (b : List Byte) (fl : Fld) (j y : Nat) : (s.setSlotBytes n b).fget fl j y = s.fget fl j y := rfl
@[simp] theorem State.setSlotBytes_fbit (s : State) (n : Nat) (b : List Byte) (fl : Fld) (j y : Nat) : (s.setSlotBytes n b).fbit fl j y = s.fbit fl j y := rfl
@[simp] theorem State.setSlotBytes_cget (s : State) (n : Nat) (b : List Byte) (ct : Ctr) (j y : Nat) : (s.setSlotBytes n b).cget ct j y = s.cget ct j y := rfl
@[simp] theorem State.setSlotBytes_stone (s : State) (n : Nat) (b : List Byte) (m : Nat) : (s.setSlotBytes n b).stone m = s.stone m := rfl

/-! ### upRas -/

@[simp] theorem State.upRas_fuse (s : State) (g : RasSt → RasSt) : (s.upRas g).fuse = s.fuse := rfl
@[simp] theorem State.upRas_regs (s : State) (g : RasSt → RasSt) : (s.upRas g).regs = s.regs := rfl
@[simp] theorem State.upRas_ctrs (s : State) (g : RasSt → RasSt) : (s.upRas g).ctrs = s.ctrs := rfl
@[simp] theorem State.upRas_latch (s : State) (g : RasSt → RasSt) : (s.upRas g).latch = s.latch := rfl
@[simp] theorem State.upRas_shadow (s : State) (g : RasSt → RasSt) : (s.upRas g).shadow = s.shadow := rfl
@[simp] theorem State.upRas_flog (s : State) (g : RasSt → RasSt) : (s.upRas g).flog = s.flog := rfl
@[simp] theorem State.upRas_fab (s : State) (g : RasSt → RasSt) : (s.upRas g).fab = s.fab := rfl
@[simp] theorem State.upRas_stones (s : State) (g : RasSt → RasSt) : (s.upRas g).stones = s.stones := rfl
@[simp] theorem State.upRas_mills (s : State) (g : RasSt → RasSt) : (s.upRas g).mills = s.mills := rfl
@[simp] theorem State.upRas_image (s : State) (g : RasSt → RasSt) : (s.upRas g).image = s.image := rfl
@[simp] theorem State.upRas_pond (s : State) (g : RasSt → RasSt) : (s.upRas g).pond = s.pond := rfl
@[simp] theorem State.upRas_pondPoison (s : State) (g : RasSt → RasSt) : (s.upRas g).pondPoison = s.pondPoison := rfl
@[simp] theorem State.upRas_qs (s : State) (g : RasSt → RasSt) : (s.upRas g).qs = s.qs := rfl
@[simp] theorem State.upRas_cls (s : State) (g : RasSt → RasSt) : (s.upRas g).cls = s.cls := rfl
@[simp] theorem State.upRas_streams (s : State) (g : RasSt → RasSt) : (s.upRas g).streams = s.streams := rfl
@[simp] theorem State.upRas_ipId (s : State) (g : RasSt → RasSt) : (s.upRas g).ipId = s.ipId := rfl
@[simp] theorem State.upRas_sch (s : State) (g : RasSt → RasSt) : (s.upRas g).sch = s.sch := rfl
@[simp] theorem State.upRas_ports (s : State) (g : RasSt → RasSt) : (s.upRas g).ports = s.ports := rfl
@[simp] theorem State.upRas_mg (s : State) (g : RasSt → RasSt) : (s.upRas g).mg = s.mg := rfl
@[simp] theorem State.upRas_tideNow (s : State) (g : RasSt → RasSt) : (s.upRas g).tideNow = s.tideNow := rfl
@[simp] theorem State.upRas_tide (s : State) (g : RasSt → RasSt) : (s.upRas g).tide = s.tide := rfl
@[simp] theorem State.upRas_mem (s : State) (g : RasSt → RasSt) : (s.upRas g).mem = s.mem := rfl
@[simp] theorem State.upRas_led (s : State) (g : RasSt → RasSt) : (s.upRas g).led = s.led := rfl
@[simp] theorem State.upRas_pol (s : State) (g : RasSt → RasSt) : (s.upRas g).pol = s.pol := rfl
@[simp] theorem State.upRas_meas (s : State) (g : RasSt → RasSt) : (s.upRas g).meas = s.meas := rfl
@[simp] theorem State.upRas_vk (s : State) (g : RasSt → RasSt) : (s.upRas g).vk = s.vk := rfl
@[simp] theorem State.upRas_press (s : State) (g : RasSt → RasSt) : (s.upRas g).press = s.press := rfl
@[simp] theorem State.upRas_pcie (s : State) (g : RasSt → RasSt) : (s.upRas g).pcie = s.pcie := rfl
@[simp] theorem State.upRas_power (s : State) (g : RasSt → RasSt) : (s.upRas g).power = s.power := rfl
@[simp] theorem State.upRas_i2c (s : State) (g : RasSt → RasSt) : (s.upRas g).i2c = s.i2c := rfl
@[simp] theorem State.upRas_trust (s : State) (g : RasSt → RasSt) : (s.upRas g).trust = s.trust := rfl
@[simp] theorem State.upRas_out (s : State) (g : RasSt → RasSt) : (s.upRas g).out = s.out := rfl
@[simp] theorem State.upRas_fresh (s : State) (g : RasSt → RasSt) : (s.upRas g).fresh = s.fresh := rfl
@[simp] theorem State.upRas_pending (s : State) (g : RasSt → RasSt) : (s.upRas g).pending = s.pending := rfl
@[simp] theorem State.upRas_rd (s : State) (g : RasSt → RasSt) (ty j off : Nat) : (s.upRas g).rd ty j off = s.rd ty j off := rfl
@[simp] theorem State.upRas_fget (s : State) (g : RasSt → RasSt) (fl : Fld) (j y : Nat) : (s.upRas g).fget fl j y = s.fget fl j y := rfl
@[simp] theorem State.upRas_fbit (s : State) (g : RasSt → RasSt) (fl : Fld) (j y : Nat) : (s.upRas g).fbit fl j y = s.fbit fl j y := rfl
@[simp] theorem State.upRas_cget (s : State) (g : RasSt → RasSt) (ct : Ctr) (j y : Nat) : (s.upRas g).cget ct j y = s.cget ct j y := rfl
@[simp] theorem State.upRas_stone (s : State) (g : RasSt → RasSt) (m : Nat) : (s.upRas g).stone m = s.stone m := rfl

/-! ### Values after an update of their own field -/

@[simp] theorem State.emit_out (s : State) (o : Out) : (s.emit o).out = s.out ++ [o] := rfl
@[simp] theorem State.emits_out (s : State) (l : List Out) : (s.emits l).out = s.out ++ l := rfl
@[simp] theorem State.takeFree_fresh (s : State) : s.takeFree.2.fresh = s.fresh + 1 := rfl
@[simp] theorem State.takeFree_val (s : State) : s.takeFree.1 = Config.freeValue s.fresh := rfl
@[simp] theorem State.clock_tideNow (s : State) (n : Nat) : (s.clock n).tideNow = max s.tideNow n := rfl
@[simp] theorem State.emits_nil (s : State) : s.emits [] = s := by simp [State.emits]
theorem State.emits_emits (s : State) (l m : List Out) : (s.emits l).emits m = s.emits (l ++ m) := by simp [State.emits]
theorem State.emit_eq_emits (s : State) (o : Out) : s.emit o = s.emits [o] := rfl

/-- A stone reads what was set. -/
@[simp] theorem State.stone_setStone_same (s : State) (n : Nat) (x : Stone) : (s.setStone n x).stone n = x := by
  simp [State.stone, State.setStone]

/-- Every other stone keeps its value. -/
theorem State.stone_setStone_ne (s : State) {n k : Nat} (x : Stone) (h : k ≠ n) : (s.setStone n x).stone k = s.stone k := by
  simp only [State.stone, State.setStone]
  exact Tab.get_set_ne _ _ h

@[simp] theorem State.stone_upStone_same (s : State) (n : Nat) (g : Stone → Stone) : (s.upStone n g).stone n = g (s.stone n) :=
  State.stone_setStone_same _ _ _

/-- A stream reads what was set. -/
@[simp] theorem State.strm_setStrm_same (s : State) (n : Nat) (x : Stream) : (s.setStrm n x).strm n = x := by
  simp [State.strm, State.setStrm]

@[simp] theorem State.strm_upStrm_same (s : State) (n : Nat) (g : Stream → Stream) : (s.upStrm n g).strm n = g (s.strm n) :=
  State.strm_setStrm_same _ _ _

theorem State.strm_setStrm_ne (s : State) {n k : Nat} (x : Stream) (h : k ≠ n) : (s.setStrm n x).strm k = s.strm k := by
  simp only [State.strm, State.setStrm]
  exact Tab.get_set_ne _ _ h

/-- A lock reads what was set. -/
@[simp] theorem State.lock_setLock_same (s : State) (h n : Nat) (x : LockSt) : (s.setLock h n x).lock h n = x := by
  simp [State.lock, State.setLock]

/-- A queue reads what was set. -/
@[simp] theorem State.queue_setQueue_same (s : State) (n : Nat) (x : Queue) : (s.setQueue n x).queue n = x := by
  simp [State.queue, State.setQueue]

theorem State.queue_setQueue_ne (s : State) {n k : Nat} (x : Queue) (h : k ≠ n) : (s.setQueue n x).queue k = s.queue k := by
  simp only [State.queue, State.setQueue]
  exact Tab.get_set_ne _ _ h

/-- A port reads what was set. -/
@[simp] theorem State.port_upPort_same (s : State) (n : Nat) (g : Port → Port) : (s.upPort n g).port n = g (s.port n) := by
  simp [State.port, State.upPort]

/-- A power domain reads what was set. -/
@[simp] theorem State.dom_setDom_same (s : State) (d v : Nat) : (s.setDom d v).dom d = v := by
  simp [State.dom, State.setDom, State.upPower]

/-! ### Interrupt messages and causes (R498, R499) -/

/-- A message is an output or nothing. -/
theorem State.msi_emits (s : State) (fn vec : Nat) : ∃ l, s.msi fn vec = s.emits l := by
  unfold State.msi
  split
  · exact ⟨[], by simp⟩
  · exact ⟨[_], rfl⟩

theorem State.pfBlockMsg_emits (s : State) (t : Nat) : ∃ l, s.pfBlockMsg t = s.emits l := by
  unfold State.pfBlockMsg
  split
  · exact State.msi_emits _ _ _
  · exact ⟨[], by simp⟩

/-- Folds of functions that only add outputs only add outputs. -/
theorem foldl_emits {β : Type} (g : State → β → State) (hg : ∀ s x, ∃ l, g s x = s.emits l) (xs : List β) :
    ∀ s : State, ∃ l, xs.foldl g s = s.emits l := by
  induction xs with
  | nil => intro s; exact ⟨[], by simp⟩
  | cons x xs ih =>
    intro s
    obtain ⟨l, hl⟩ := hg s x
    obtain ⟨m, hm⟩ := ih (s.emits l)
    exact ⟨l ++ m, by rw [List.foldl_cons, hl, hm, State.emits_emits]⟩

/-- The messages of R499 are outputs and nothing else. -/
theorem State.irqMessages_emits (b s : State) (t i : Nat) (again : Bool) : ∃ l, State.irqMessages b s t i again = s.emits l := by
  have h1 : ∃ l, (if s.typePend t && (again || !b.typePend t) then s.pfBlockMsg t else s) = s.emits l := by
    split
    · exact State.pfBlockMsg_emits _ _
    · exact ⟨[], by simp⟩
  obtain ⟨l, hl⟩ := h1
  obtain ⟨m, hm⟩ := foldl_emits (fun (st : State) p =>
      if p != 0 && s.inVfView p t i && s.vfPend p && (again || !b.vfPend p) then st.vfBlockMsg p else st) (by
    intro st p
    split
    · exact State.msi_emits _ _ _
    · exact ⟨[], by simp⟩) (List.range 16) (s.emits l)
  refine ⟨l ++ m, ?_⟩
  rw [← State.emits_emits, ← hm, ← hl]
  rfl

/-- Raising causes ORs the defined bits into BLK_ICAUSE and sends messages; nothing else changes. -/
theorem State.raiseBits_eq (s : State) (t i bits : Nat) :
    ∃ l, s.raiseBits t i bits = (s.wr t i 0x18 (s.rd t i 0x18 ||| (bits &&& causesAt t i))).emits l :=
  State.irqMessages_emits _ _ _ _ _

theorem State.raise_eq (s : State) (t i bit : Nat) :
    ∃ l, s.raise t i bit = (s.wr t i 0x18 (s.rd t i 0x18 ||| (2 ^ bit &&& causesAt t i))).emits l :=
  State.raiseBits_eq _ _ _ _

@[simp] theorem State.raiseBits_fuse (s : State) (t i bits : Nat) : (s.raiseBits t i bits).fuse = s.fuse := by
  obtain ⟨l, h⟩ := State.raiseBits_eq s t i bits
  rw [h]; rfl
@[simp] theorem State.raiseBits_ctrs (s : State) (t i bits : Nat) : (s.raiseBits t i bits).ctrs = s.ctrs := by
  obtain ⟨l, h⟩ := State.raiseBits_eq s t i bits
  rw [h]; rfl
@[simp] theorem State.raiseBits_latch (s : State) (t i bits : Nat) : (s.raiseBits t i bits).latch = s.latch := by
  obtain ⟨l, h⟩ := State.raiseBits_eq s t i bits
  rw [h]; rfl
@[simp] theorem State.raiseBits_shadow (s : State) (t i bits : Nat) : (s.raiseBits t i bits).shadow = s.shadow := by
  obtain ⟨l, h⟩ := State.raiseBits_eq s t i bits
  rw [h]; rfl
@[simp] theorem State.raiseBits_flog (s : State) (t i bits : Nat) : (s.raiseBits t i bits).flog = s.flog := by
  obtain ⟨l, h⟩ := State.raiseBits_eq s t i bits
  rw [h]; rfl
@[simp] theorem State.raiseBits_fab (s : State) (t i bits : Nat) : (s.raiseBits t i bits).fab = s.fab := by
  obtain ⟨l, h⟩ := State.raiseBits_eq s t i bits
  rw [h]; rfl
@[simp] theorem State.raiseBits_stones (s : State) (t i bits : Nat) : (s.raiseBits t i bits).stones = s.stones := by
  obtain ⟨l, h⟩ := State.raiseBits_eq s t i bits
  rw [h]; rfl
@[simp] theorem State.raiseBits_mills (s : State) (t i bits : Nat) : (s.raiseBits t i bits).mills = s.mills := by
  obtain ⟨l, h⟩ := State.raiseBits_eq s t i bits
  rw [h]; rfl
@[simp] theorem State.raiseBits_image (s : State) (t i bits : Nat) : (s.raiseBits t i bits).image = s.image := by
  obtain ⟨l, h⟩ := State.raiseBits_eq s t i bits
  rw [h]; rfl
@[simp] theorem State.raiseBits_pond (s : State) (t i bits : Nat) : (s.raiseBits t i bits).pond = s.pond := by
  obtain ⟨l, h⟩ := State.raiseBits_eq s t i bits
  rw [h]; rfl
@[simp] theorem State.raiseBits_pondPoison (s : State) (t i bits : Nat) : (s.raiseBits t i bits).pondPoison = s.pondPoison := by
  obtain ⟨l, h⟩ := State.raiseBits_eq s t i bits
  rw [h]; rfl
@[simp] theorem State.raiseBits_qs (s : State) (t i bits : Nat) : (s.raiseBits t i bits).qs = s.qs := by
  obtain ⟨l, h⟩ := State.raiseBits_eq s t i bits
  rw [h]; rfl
@[simp] theorem State.raiseBits_cls (s : State) (t i bits : Nat) : (s.raiseBits t i bits).cls = s.cls := by
  obtain ⟨l, h⟩ := State.raiseBits_eq s t i bits
  rw [h]; rfl
@[simp] theorem State.raiseBits_streams (s : State) (t i bits : Nat) : (s.raiseBits t i bits).streams = s.streams := by
  obtain ⟨l, h⟩ := State.raiseBits_eq s t i bits
  rw [h]; rfl
@[simp] theorem State.raiseBits_ipId (s : State) (t i bits : Nat) : (s.raiseBits t i bits).ipId = s.ipId := by
  obtain ⟨l, h⟩ := State.raiseBits_eq s t i bits
  rw [h]; rfl
@[simp] theorem State.raiseBits_sch (s : State) (t i bits : Nat) : (s.raiseBits t i bits).sch = s.sch := by
  obtain ⟨l, h⟩ := State.raiseBits_eq s t i bits
  rw [h]; rfl
@[simp] theorem State.raiseBits_ports (s : State) (t i bits : Nat) : (s.raiseBits t i bits).ports = s.ports := by
  obtain ⟨l, h⟩ := State.raiseBits_eq s t i bits
  rw [h]; rfl
@[simp] theorem State.raiseBits_mg (s : State) (t i bits : Nat) : (s.raiseBits t i bits).mg = s.mg := by
  obtain ⟨l, h⟩ := State.raiseBits_eq s t i bits
  rw [h]; rfl
@[simp] theorem State.raiseBits_tideNow (s : State) (t i bits : Nat) : (s.raiseBits t i bits).tideNow = s.tideNow := by
  obtain ⟨l, h⟩ := State.raiseBits_eq s t i bits
  rw [h]; rfl
@[simp] theorem State.raiseBits_tide (s : State) (t i bits : Nat) : (s.raiseBits t i bits).tide = s.tide := by
  obtain ⟨l, h⟩ := State.raiseBits_eq s t i bits
  rw [h]; rfl
@[simp] theorem State.raiseBits_mem (s : State) (t i bits : Nat) : (s.raiseBits t i bits).mem = s.mem := by
  obtain ⟨l, h⟩ := State.raiseBits_eq s t i bits
  rw [h]; rfl
@[simp] theorem State.raiseBits_led (s : State) (t i bits : Nat) : (s.raiseBits t i bits).led = s.led := by
  obtain ⟨l, h⟩ := State.raiseBits_eq s t i bits
  rw [h]; rfl
@[simp] theorem State.raiseBits_pol (s : State) (t i bits : Nat) : (s.raiseBits t i bits).pol = s.pol := by
  obtain ⟨l, h⟩ := State.raiseBits_eq s t i bits
  rw [h]; rfl
@[simp] theorem State.raiseBits_meas (s : State) (t i bits : Nat) : (s.raiseBits t i bits).meas = s.meas := by
  obtain ⟨l, h⟩ := State.raiseBits_eq s t i bits
  rw [h]; rfl
@[simp] theorem State.raiseBits_vk (s : State) (t i bits : Nat) : (s.raiseBits t i bits).vk = s.vk := by
  obtain ⟨l, h⟩ := State.raiseBits_eq s t i bits
  rw [h]; rfl
@[simp] theorem State.raiseBits_press (s : State) (t i bits : Nat) : (s.raiseBits t i bits).press = s.press := by
  obtain ⟨l, h⟩ := State.raiseBits_eq s t i bits
  rw [h]; rfl
@[simp] theorem State.raiseBits_pcie (s : State) (t i bits : Nat) : (s.raiseBits t i bits).pcie = s.pcie := by
  obtain ⟨l, h⟩ := State.raiseBits_eq s t i bits
  rw [h]; rfl
@[simp] theorem State.raiseBits_power (s : State) (t i bits : Nat) : (s.raiseBits t i bits).power = s.power := by
  obtain ⟨l, h⟩ := State.raiseBits_eq s t i bits
  rw [h]; rfl
@[simp] theorem State.raiseBits_i2c (s : State) (t i bits : Nat) : (s.raiseBits t i bits).i2c = s.i2c := by
  obtain ⟨l, h⟩ := State.raiseBits_eq s t i bits
  rw [h]; rfl
@[simp] theorem State.raiseBits_trust (s : State) (t i bits : Nat) : (s.raiseBits t i bits).trust = s.trust := by
  obtain ⟨l, h⟩ := State.raiseBits_eq s t i bits
  rw [h]; rfl
@[simp] theorem State.raiseBits_ras (s : State) (t i bits : Nat) : (s.raiseBits t i bits).ras = s.ras := by
  obtain ⟨l, h⟩ := State.raiseBits_eq s t i bits
  rw [h]; rfl
@[simp] theorem State.raiseBits_fresh (s : State) (t i bits : Nat) : (s.raiseBits t i bits).fresh = s.fresh := by
  obtain ⟨l, h⟩ := State.raiseBits_eq s t i bits
  rw [h]; rfl
@[simp] theorem State.raiseBits_pending (s : State) (t i bits : Nat) : (s.raiseBits t i bits).pending = s.pending := by
  obtain ⟨l, h⟩ := State.raiseBits_eq s t i bits
  rw [h]; rfl
@[simp] theorem State.raise_fuse (s : State) (t i bit : Nat) : (s.raise t i bit).fuse = s.fuse := by
  obtain ⟨l, h⟩ := State.raise_eq s t i bit
  rw [h]; rfl
@[simp] theorem State.raise_ctrs (s : State) (t i bit : Nat) : (s.raise t i bit).ctrs = s.ctrs := by
  obtain ⟨l, h⟩ := State.raise_eq s t i bit
  rw [h]; rfl
@[simp] theorem State.raise_latch (s : State) (t i bit : Nat) : (s.raise t i bit).latch = s.latch := by
  obtain ⟨l, h⟩ := State.raise_eq s t i bit
  rw [h]; rfl
@[simp] theorem State.raise_shadow (s : State) (t i bit : Nat) : (s.raise t i bit).shadow = s.shadow := by
  obtain ⟨l, h⟩ := State.raise_eq s t i bit
  rw [h]; rfl
@[simp] theorem State.raise_flog (s : State) (t i bit : Nat) : (s.raise t i bit).flog = s.flog := by
  obtain ⟨l, h⟩ := State.raise_eq s t i bit
  rw [h]; rfl
@[simp] theorem State.raise_fab (s : State) (t i bit : Nat) : (s.raise t i bit).fab = s.fab := by
  obtain ⟨l, h⟩ := State.raise_eq s t i bit
  rw [h]; rfl
@[simp] theorem State.raise_stones (s : State) (t i bit : Nat) : (s.raise t i bit).stones = s.stones := by
  obtain ⟨l, h⟩ := State.raise_eq s t i bit
  rw [h]; rfl
@[simp] theorem State.raise_mills (s : State) (t i bit : Nat) : (s.raise t i bit).mills = s.mills := by
  obtain ⟨l, h⟩ := State.raise_eq s t i bit
  rw [h]; rfl
@[simp] theorem State.raise_image (s : State) (t i bit : Nat) : (s.raise t i bit).image = s.image := by
  obtain ⟨l, h⟩ := State.raise_eq s t i bit
  rw [h]; rfl
@[simp] theorem State.raise_pond (s : State) (t i bit : Nat) : (s.raise t i bit).pond = s.pond := by
  obtain ⟨l, h⟩ := State.raise_eq s t i bit
  rw [h]; rfl
@[simp] theorem State.raise_pondPoison (s : State) (t i bit : Nat) : (s.raise t i bit).pondPoison = s.pondPoison := by
  obtain ⟨l, h⟩ := State.raise_eq s t i bit
  rw [h]; rfl
@[simp] theorem State.raise_qs (s : State) (t i bit : Nat) : (s.raise t i bit).qs = s.qs := by
  obtain ⟨l, h⟩ := State.raise_eq s t i bit
  rw [h]; rfl
@[simp] theorem State.raise_cls (s : State) (t i bit : Nat) : (s.raise t i bit).cls = s.cls := by
  obtain ⟨l, h⟩ := State.raise_eq s t i bit
  rw [h]; rfl
@[simp] theorem State.raise_streams (s : State) (t i bit : Nat) : (s.raise t i bit).streams = s.streams := by
  obtain ⟨l, h⟩ := State.raise_eq s t i bit
  rw [h]; rfl
@[simp] theorem State.raise_ipId (s : State) (t i bit : Nat) : (s.raise t i bit).ipId = s.ipId := by
  obtain ⟨l, h⟩ := State.raise_eq s t i bit
  rw [h]; rfl
@[simp] theorem State.raise_sch (s : State) (t i bit : Nat) : (s.raise t i bit).sch = s.sch := by
  obtain ⟨l, h⟩ := State.raise_eq s t i bit
  rw [h]; rfl
@[simp] theorem State.raise_ports (s : State) (t i bit : Nat) : (s.raise t i bit).ports = s.ports := by
  obtain ⟨l, h⟩ := State.raise_eq s t i bit
  rw [h]; rfl
@[simp] theorem State.raise_mg (s : State) (t i bit : Nat) : (s.raise t i bit).mg = s.mg := by
  obtain ⟨l, h⟩ := State.raise_eq s t i bit
  rw [h]; rfl
@[simp] theorem State.raise_tideNow (s : State) (t i bit : Nat) : (s.raise t i bit).tideNow = s.tideNow := by
  obtain ⟨l, h⟩ := State.raise_eq s t i bit
  rw [h]; rfl
@[simp] theorem State.raise_tide (s : State) (t i bit : Nat) : (s.raise t i bit).tide = s.tide := by
  obtain ⟨l, h⟩ := State.raise_eq s t i bit
  rw [h]; rfl
@[simp] theorem State.raise_mem (s : State) (t i bit : Nat) : (s.raise t i bit).mem = s.mem := by
  obtain ⟨l, h⟩ := State.raise_eq s t i bit
  rw [h]; rfl
@[simp] theorem State.raise_led (s : State) (t i bit : Nat) : (s.raise t i bit).led = s.led := by
  obtain ⟨l, h⟩ := State.raise_eq s t i bit
  rw [h]; rfl
@[simp] theorem State.raise_pol (s : State) (t i bit : Nat) : (s.raise t i bit).pol = s.pol := by
  obtain ⟨l, h⟩ := State.raise_eq s t i bit
  rw [h]; rfl
@[simp] theorem State.raise_meas (s : State) (t i bit : Nat) : (s.raise t i bit).meas = s.meas := by
  obtain ⟨l, h⟩ := State.raise_eq s t i bit
  rw [h]; rfl
@[simp] theorem State.raise_vk (s : State) (t i bit : Nat) : (s.raise t i bit).vk = s.vk := by
  obtain ⟨l, h⟩ := State.raise_eq s t i bit
  rw [h]; rfl
@[simp] theorem State.raise_press (s : State) (t i bit : Nat) : (s.raise t i bit).press = s.press := by
  obtain ⟨l, h⟩ := State.raise_eq s t i bit
  rw [h]; rfl
@[simp] theorem State.raise_pcie (s : State) (t i bit : Nat) : (s.raise t i bit).pcie = s.pcie := by
  obtain ⟨l, h⟩ := State.raise_eq s t i bit
  rw [h]; rfl
@[simp] theorem State.raise_power (s : State) (t i bit : Nat) : (s.raise t i bit).power = s.power := by
  obtain ⟨l, h⟩ := State.raise_eq s t i bit
  rw [h]; rfl
@[simp] theorem State.raise_i2c (s : State) (t i bit : Nat) : (s.raise t i bit).i2c = s.i2c := by
  obtain ⟨l, h⟩ := State.raise_eq s t i bit
  rw [h]; rfl
@[simp] theorem State.raise_trust (s : State) (t i bit : Nat) : (s.raise t i bit).trust = s.trust := by
  obtain ⟨l, h⟩ := State.raise_eq s t i bit
  rw [h]; rfl
@[simp] theorem State.raise_ras (s : State) (t i bit : Nat) : (s.raise t i bit).ras = s.ras := by
  obtain ⟨l, h⟩ := State.raise_eq s t i bit
  rw [h]; rfl
@[simp] theorem State.raise_fresh (s : State) (t i bit : Nat) : (s.raise t i bit).fresh = s.fresh := by
  obtain ⟨l, h⟩ := State.raise_eq s t i bit
  rw [h]; rfl
@[simp] theorem State.raise_pending (s : State) (t i bit : Nat) : (s.raise t i bit).pending = s.pending := by
  obtain ⟨l, h⟩ := State.raise_eq s t i bit
  rw [h]; rfl

/-- BLK_ICAUSE after a cause was raised (R498). -/
theorem State.rd_raise_same (s : State) (t i bit : Nat) :
    (s.raise t i bit).rd t i 0x18 = s.rd t i 0x18 ||| (2 ^ bit &&& causesAt t i) % 2 ^ 32 := by
  obtain ⟨l, h⟩ := State.raise_eq s t i bit
  rw [h, State.emits_rd, State.rd_wr_same]
  apply Nat.eq_of_testBit_eq
  intro k
  have hlt := State.rd_lt s t i 0x18
  simp only [Nat.testBit_mod_two_pow, Nat.testBit_or]
  by_cases hk : k < 32
  · simp [hk]
  · have : (s.rd t i 0x18).testBit k = false := Nat.testBit_lt_two_pow (lt_of_lt_of_le hlt (Nat.pow_le_pow_right (by omega) (by omega)))
    simp [hk, this]

/-- Raising a cause leaves every other register. -/
theorem State.rd_raise_ne (s : State) {t i bit t' i' o' : Nat} (h : regAddr t' i' o' ≠ regAddr t i 0x18) :
    (s.raise t i bit).rd t' i' o' = s.rd t' i' o' := by
  obtain ⟨l, e⟩ := State.raise_eq s t i bit
  rw [e, State.emits_rd, State.rd_wr_ne _ _ h]

/-- Raising a cause leaves the fields of every other register. -/
theorem State.fget_raise_ne (s : State) {t i bit : Nat} (g : Fld) (j x : Nat) (h : g.addr j x ≠ regAddr t i 0x18) :
    (s.raise t i bit).fget g j x = s.fget g j x := by
  simp only [State.fget]
  rw [State.rd_raise_ne _ h]

@[simp] theorem State.raise_cget (s : State) (t i bit : Nat) (c : Ctr) (j x : Nat) : (s.raise t i bit).cget c j x = s.cget c j x := by
  obtain ⟨l, e⟩ := State.raise_eq s t i bit
  rw [e]; rfl

@[simp] theorem State.raise_stone (s : State) (t i bit m : Nat) : (s.raise t i bit).stone m = s.stone m := by
  simp [State.stone]

/-- An outcome that is a next state. -/
theorem next_inj {a b : State} : (Host.Outcome.next a : Res) = .next b ↔ a = b := by
  constructor
  · intro h; injection h
  · intro h; rw [h]

end Sys2Proof.Machine
end

