-- ==== Sys2Proof/Laws/Frame.lean ====
section
/-!
SUPPORT. Which registers and 64-bit pairs a composition of the named operations leaves as they were: one lemma per operation, each adding
one address to a list.
-/

namespace Sys2Proof.Machine

theorem SameRegsBut.refl (s : State) (l : List Nat) : SameRegsBut s s l := fun _ _ => rfl

theorem SameRegsBut.trans {s t u : State} {l : List Nat} (h : SameRegsBut s t l) (k : SameRegsBut t u l) : SameRegsBut s u l :=
  fun a m => (k a m).trans (h a m)

theorem SameRegsBut.mono {s t : State} {l k : List Nat} (h : SameRegsBut s t l) (m : l ⊆ k) : SameRegsBut s t k :=
  fun a n => h a fun x => n (m x)

/-- An update that leaves the registers and the fuses. -/
theorem SameRegsBut.keep {s t u : State} {l : List Nat} (h : SameRegsBut s t l) (hr : u.regs = t.regs) (hf : u.fuse = t.fuse) :
    SameRegsBut s u l := by
  intro a m; rw [hr, hf]; exact h a m

theorem SameRegsBut.wr {s t : State} {l : List Nat} {ty i o : Nat} (v : Nat) (m : regAddr ty i o ∈ l) (h : SameRegsBut s t l) :
    SameRegsBut s (t.wr ty i o v) l := by
  intro a n
  rw [← h a n]
  exact Tab.get_set_ne _ _ (fun e => n (e ▸ m))

theorem SameRegsBut.fset {s t : State} {l : List Nat} (f : Fld) (i v idx : Nat) (m : fieldAt f i idx ∈ l) (h : SameRegsBut s t l) :
    SameRegsBut s (t.fset f i v idx) l := h.wr _ m

theorem SameRegsBut.finc {s t : State} {l : List Nat} (f : Fld) (i n idx : Nat) (m : fieldAt f i idx ∈ l) (h : SameRegsBut s t l) :
    SameRegsBut s (t.finc f i n idx) l := h.wr _ m

theorem SameRegsBut.fwrap {s t : State} {l : List Nat} (f : Fld) (i n idx : Nat) (m : fieldAt f i idx ∈ l) (h : SameRegsBut s t l) :
    SameRegsBut s (t.fwrap f i n idx) l := h.wr _ m

theorem SameRegsBut.hset {s t : State} {l : List Nat} (f : Fld) (ty i v : Nat) (m : regAddr ty i f.off ∈ l) (h : SameRegsBut s t l) :
    SameRegsBut s (t.hset f ty i v) l := h.wr _ m

theorem SameRegsBut.raise {s t : State} {l : List Nat} (ty i b : Nat) (m : causeAt ty i ∈ l) (h : SameRegsBut s t l) :
    SameRegsBut s (t.raise ty i b) l := by
  obtain ⟨k, e⟩ := State.raise_eq t ty i b
  rw [e]
  exact (h.wr (ty := ty) (i := i) (o := 0x18) _ m).keep rfl rfl

theorem SameRegsBut.logErr {s t : State} {l : List Nat} (ty i kind fn addr data : Nat) (m : ∀ a ∈ errLogAt ty i, a ∈ l)
    (h : SameRegsBut s t l) : SameRegsBut s (t.logErr ty i kind fn addr data) l := by
  unfold State.logErr
  have h0 := m (regAddr ty i 0x28) (by simp [errLogAt])
  have h1 := m (regAddr ty i 0x2C) (by simp [errLogAt])
  have h2 := m (regAddr ty i 0x30) (by simp [errLogAt])
  have h3 := m (regAddr ty i 0x34) (by simp [errLogAt])
  dsimp only
  split
  · exact h.wr _ h3
  · exact (((h.wr _ h0).wr _ h1).wr _ h2).wr _ h3

theorem SameCtrsBut.refl (s : State) (l : List Nat) : SameCtrsBut s s l := fun _ _ => rfl

theorem SameCtrsBut.trans {s t u : State} {l : List Nat} (h : SameCtrsBut s t l) (k : SameCtrsBut t u l) : SameCtrsBut s u l :=
  fun a m => (k a m).trans (h a m)

theorem SameCtrsBut.keep {s t u : State} {l : List Nat} (h : SameCtrsBut s t l) (hr : u.ctrs = t.ctrs) : SameCtrsBut s u l := by
  intro a m; rw [hr]; exact h a m

theorem SameCtrsBut.cset {s t : State} {l : List Nat} (c : Ctr) (i v idx : Nat) (m : regAddr c.t i (c.off + 2048 * idx) ∈ l)
    (h : SameCtrsBut s t l) : SameCtrsBut s (t.cset c i v idx) l := by
  intro a n
  rw [← h a n]
  exact Tab.get_set_ne _ _ (fun e => n (e ▸ m))

theorem SameCtrsBut.cinc {s t : State} {l : List Nat} (c : Ctr) (i k idx : Nat) (m : regAddr c.t i (c.off + 2048 * idx) ∈ l)
    (h : SameCtrsBut s t l) : SameCtrsBut s (t.cinc c i k idx) l := h.cset _ _ _ _ m

theorem bitAt_eq_testBit (v b : Nat) : bitAt v b = v.testBit b := by
  simp [bitAt, Nat.testBit, Nat.shiftRight_eq_div_pow, Nat.one_and_eq_mod_two]

/-- A cause that its page defines is set once it is raised. -/
theorem causeSet_raise (s : State) (t i b : Nat) (hb : b < 32) (hd : (causesAt t i).testBit b = true) : causeSet (s.raise t i b) t i b := by
  have e : (s.raise t i b).rd t i 0x18 = s.rd t i 0x18 ||| (2 ^ b &&& causesAt t i) % 2 ^ 32 := State.rd_raise_same s t i b
  unfold causeSet
  rw [e]
  rw [bitAt_eq_testBit, Nat.testBit_or, Nat.testBit_mod_two_pow, Nat.testBit_and, Nat.testBit_two_pow_self, hd]
  simp [hb]

/-- What a frame says of one field. -/
theorem SameRegsBut.fget {s t : State} {l : List Nat} (h : SameRegsBut s t l) (f : Fld) (i idx : Nat) (n : fieldAt f i idx ∉ l) :
    t.fget f i idx = s.fget f i idx := by
  simp only [State.fget, State.rd]
  have e := h _ n
  simp only [fieldAt] at e
  rw [e]

end Sys2Proof.Machine
end

