-- ==== Sys2Proof/Laws/Memory.lean ====
section
/-!
SUPPORT. Every operation over HBM and millpond keeps the canonical form, and the memories after reset have it.
-/

namespace Sys2Proof.Machine

/-- HBM and millpond in canonical form: addresses strictly rising, no byte listed that reads as an unlisted one does. -/
def MemoriesWf (s : State) : Prop := Tab.wf memDefault s.mem.hbm = true ∧ Tab.wf memDefault s.pond = true

theorem MemoriesWf.reset : MemoriesWf State.reset := ⟨rfl, rfl⟩

theorem MemoriesWf.congr {s t : State} (h : MemoriesWf s) (e : t.mem.hbm = s.mem.hbm) (p : t.pond = s.pond) : MemoriesWf t := by
  unfold MemoriesWf; rw [e, p]; exact h

theorem MemoriesWf.pondPut {s : State} (h : MemoriesWf s) (a : Nat) (l : List Byte) : MemoriesWf (s.pondPut a l).1 :=
  ⟨h.1, wf_codeWrite _ _ _ _ _ _ h.2⟩

theorem MemoriesWf.pondZero {s : State} (h : MemoriesWf s) (a n : Nat) : MemoriesWf (s.pondZero a n) := ⟨h.1, wf_memZero _ _ _ h.2⟩

theorem MemoriesWf.hbmPut {s : State} (h : MemoriesWf s) (a : Nat) (l : List Byte) : MemoriesWf (s.hbmPut a l).1 :=
  ⟨wf_codeWrite _ _ _ _ _ _ h.1, h.2⟩

theorem MemoriesWf.hbmZero {s : State} (h : MemoriesWf s) (a n : Nat) : MemoriesWf (s.hbmZero a n) := ⟨wf_memZero _ _ _ h.1, h.2⟩

end Sys2Proof.Machine
end

