-- ==== Sys2Proof/Laws/Tide.lean ====
section
/-!
SUPPORT. What each shared operation of Tide can change: Tide's own state, and registers of the TIDE page from a list.
-/

namespace Sys2Proof.Machine

/-- One state differs from another in Tide, the servo's registers, the outputs (interrupt messages) and the free values taken alone. -/
def TideOnly (s t : State) : Prop :=
  SameRegsBut s t servoRegs ∧ t = { s with tide := t.tide, regs := t.regs, out := t.out, fresh := t.fresh }

theorem TideOnly.refl (s : State) : TideOnly s s := ⟨SameRegsBut.refl _ _, rfl⟩

theorem TideOnly.trans {s t u : State} (h : TideOnly s t) (k : TideOnly t u) : TideOnly s u := by
  refine ⟨h.1.trans k.1, ?_⟩
  have h2 := h.2; have k2 := k.2
  rw [k2, h2]

theorem TideOnly.upTide {s t : State} (f : TideSt → TideSt) (h : TideOnly s t) : TideOnly s (t.upTide f) :=
  ⟨h.1.keep rfl rfl, by have h2 := h.2; unfold State.upTide; rw [h2]⟩

theorem TideOnly.fset {s t : State} (f : Fld) (v idx : Nat) (m : fieldAt f 0 idx ∈ servoRegs) (h : TideOnly s t) : TideOnly s (t.fset f 0 v idx) :=
  ⟨h.1.fset _ _ _ _ m, by have h2 := h.2; unfold State.fset State.wr; rw [h2]⟩

theorem TideOnly.raise {s t : State} (b : Nat) (h : TideOnly s t) : TideOnly s (t.raise T.tide 0 b) := by
  refine ⟨h.1.raise _ _ _ (by decide), ?_⟩
  obtain ⟨k, e⟩ := State.raise_eq t T.tide 0 b
  have h2 := h.2
  rw [e]; unfold State.emits State.wr; rw [h2]

theorem TideOnly.setAdj {s t : State} (a : Int) (h : TideOnly s t) : TideOnly s (t.setAdj a) := by
  unfold State.setAdj
  dsimp only
  split
  · exact ((h.upTide _).fset _ _ _ (by decide)).upTide _
  · exact (h.upTide _).fset _ _ _ (by decide)

theorem TideOnly.enterTide {s t : State} (n : Nat) (h : TideOnly s t) : TideOnly s (t.enterTide n) := by
  unfold State.enterTide
  dsimp only
  split
  · exact h
  · have h1 : TideOnly s (if t.tideState = 2 then t.upTide fun x => { x with hofreq := some t.meanAdj } else t) := by
      split
      · exact h.upTide _
      · exact h
    have h2 := (h1.fset F.TIDE_HO_TIME_SEC t.hoTime 0 (by decide)).fset F.TIDE_STAT_STATE n 0 (by decide)
    split
    · exact ((h2.upTide _).fset _ _ _ (by decide)).raise _
    · split
      · exact (((h2.upTide _).fset _ _ _ (by decide)).setAdj _).raise _
      · exact h2

theorem TideOnly.useSrc {s t : State} (u : Nat) (h : TideOnly s t) :
    TideOnly s (let s1 := if u = t.fget F.TIDE_STAT_SRC_USED 0 then t else (t.fset F.TIDE_STAT_SRC_USED 0 u).raise T.tide 0 I.TIDE_SRC_SWITCH
      if u = 0 ∧ (s1.tideState = 1 ∨ s1.tideState = 2) then s1.enterTide 3 else s1) := by
  have h1 : TideOnly s (if u = t.fget F.TIDE_STAT_SRC_USED 0 then t else (t.fset F.TIDE_STAT_SRC_USED 0 u).raise T.tide 0 I.TIDE_SRC_SWITCH) := by
    split
    · exact h
    · exact (h.fset _ _ _ (by decide)).raise _
  dsimp only
  generalize (if u = t.fget F.TIDE_STAT_SRC_USED 0 then t else (t.fset F.TIDE_STAT_SRC_USED 0 u).raise T.tide 0 I.TIDE_SRC_SWITCH) = w at h1 ⊢
  split
  · exact h1.enterTide _
  · exact h1

theorem TideOnly.updateSrc {s t : State} (h : TideOnly s t) : TideOnly s t.updateSrc := by
  unfold State.updateSrc
  exact h.useSrc _

theorem TideOnly.recordRefusal {s t : State} (x : Int) (h : TideOnly s t) : TideOnly s (t.recordRefusal x) :=
  (((h.fset _ _ _ (by decide)).fset _ _ _ (by decide)).fset _ _ _ (by decide)).raise _

theorem TideOnly.refuseSample {s t : State} (x : Int) (h : TideOnly s t) : TideOnly s (t.refuseSample x) := by
  unfold State.refuseSample
  dsimp only
  have h1 := ((h.recordRefusal x).fset F.TIDE_STEP_SEC_SEC (toBits 32 ((thetaNs x).tdiv 1000000000)) 0 (by decide)).fset F.TIDE_STEP_NS_NS
    (toBits 32 ((thetaNs x).tmod 1000000000)) 0 (by decide)
  split
  · exact h1.setAdj _
  · exact h1.enterTide _

theorem TideOnly.applySample {s t : State} (x : Int) (h : TideOnly s t) : TideOnly s (t.applySample x) := by
  unfold State.applySample
  extract_lets mx integ adj near n s1 st s2 s3
  have h1 : TideOnly s s1 := (h.upTide _).fset _ _ _ (by decide)
  clear_value s1
  have h2 : TideOnly s s2 := by
    simp only [s2]
    split
    · exact h1.enterTide _
    · exact h1
  clear_value s2
  have h3 : TideOnly s s3 := (h2.upTide _).setAdj _
  clear_value s3
  split
  · exact h3.enterTide _
  · exact h3

theorem TideOnly.servo {s t : State} (x : Int) (h : TideOnly s t) : TideOnly s (t.servo x) := by
  unfold State.servo
  dsimp only
  split
  · exact h
  · split
    · split
      · exact h.recordRefusal _
      · exact h
    · split
      · exact h.refuseSample _
      · exact h.applySample _

theorem TideOnly.sample {s t : State} (c : Nat) (x : Int) (h : TideOnly s t) : TideOnly s (t.sample c x) := by
  unfold State.sample
  split
  · exact h
  · dsimp only
    split
    · exact ((h.upTide _).updateSrc).servo _
    · exact (h.upTide _).updateSrc

end Sys2Proof.Machine
end

