-- ==== Sys2Proof/Tests/Slice0.lean ====
section
/-!
SUPPORT. The tests: an ill-formed command for each check of WellFormed.lean, syllable words written out from the encoding tables, single steps
with results worked from the rules, and for the statements with hypotheses a state and operands that meet them.
-/

namespace Sys2Proof.Tests

open Sys2Proof Sys2Proof.Machine

/-! ## What each check of WellFormed.lean refuses -/

def iss0 (slot : Nat) : Issue := ⟨0, 0, slot, true, 0⟩

def am0 : Amode := ⟨0, 0, 0, 0⟩

theorem test_wf_fnOk : Instr.wf (.readClear 17 0 4) = false := by decide
theorem test_wf_typOk : Instr.wf (.blkLock 0 64 0) = false := by decide
theorem test_wf_instOk : Instr.wf (.blkLock 0 0 128) = false := by decide
theorem test_wf_accessSizeOk : Instr.wf (.readClear 0 0 0) = false ∧ Instr.wf (.readClear 0 0 9) = false ∧ Instr.wf (.readClear 0 2 8) = false ∧ Instr.wf (.readClear 0 1 3) = true := by decide
theorem test_wf_sizedOk : Instr.wf (.registerWrite 0 0 1 256 false) = false := by decide
theorem test_wf_wordOk : Instr.wf (.avsModeSet 0 4294967296) = false := by decide
theorem test_wf_halfOk : Instr.wf (.waitStall ⟨2⟩) = false := by decide
theorem test_wf_quadOk : Instr.wf (.captureEdge 4 false 0) = false := by decide
theorem test_wf_rowOk : Instr.wf (.spareClaim 16) = false := by decide
theorem test_wf_millOk : Instr.wf (.evictNotice 80 0) = false := by decide
theorem test_wf_roleOk : Instr.wf (.channelPlacementDone 64) = false := by decide
theorem test_wf_stoneOk : Instr.wf (.interruptEntry 1280) = false := by decide
theorem test_wf_stoneInMillOk : Instr.wf (.stoneHalt 0 0 16) = false := by decide
theorem test_wf_routerPortOk : Instr.wf (.canalFlit 0 14 none) = false := by decide
theorem test_wf_lockOk : Instr.wf (.lockStopped 0 19) = false := by decide
theorem test_wf_portOk : Instr.wf (.linkUp 16) = false := by decide
theorem test_wf_prioOk : Instr.wf (.pfcPauseExpire 0 8 0) = false := by decide
theorem test_wf_noticeOk : Instr.wf (.rxConsWrite 0 9 0) = false := by decide
theorem test_wf_sliceOk : Instr.wf (.retireDone 32) = false := by decide
theorem test_wf_polderOk : Instr.wf (.zeroDone 16) = false := by decide
theorem test_wf_ringOk : Instr.wf (.nopCommand 0 16 0) = false := by decide
theorem test_wf_tagOk : Instr.wf (.nopCommand 0 0 65536) = false := by decide
theorem test_wf_streamOk : Instr.wf (.rtcpSend 262144 0) = false := by decide
theorem test_wf_domOk : Instr.wf (.domainOff 184) = false := by decide
theorem test_wf_bitsOk : Instr.wf (.doorbellMessage 0 0 0 256 0) = false := by decide
theorem test_wf_injectOk : Instr.wf (.canalFlit 0 0 (some (14, ⟨0, 0, ⟨0, 0, 0⟩, 0, .millhouse, 0⟩))) = false := by decide
theorem test_wf_quantaOk : Instr.wf (.pfcFrameReceive 0 0 [0] 0) = false ∧ Instr.wf (.pfcFrameReceive 0 0 [65536, 0, 0, 0, 0, 0, 0, 0] 0) = false := by decide
theorem test_wf_placeOk : Instr.wf (.stageStall (.mill 80) 0) = false ∧ Instr.wf (.stageStall (.router 0 14 0) 0) = false ∧ Instr.wf (.stageStall (.bank 32) 0) = false := by decide
theorem test_wf_issueOk : Instr.wf (.fence ⟨0, 0, 4, true, 0⟩) = false ∧ Instr.wf (.fence ⟨0, 0, 0, true, 3⟩) = false := by decide
theorem test_wf_dregOk : Instr.wf (.dbell (iss0 3) 32) = false := by decide
theorem test_wf_aregOk : Instr.wf (.amoAdd (iss0 0) 0 16) = false := by decide
theorem test_wf_accOk : Instr.wf (.accmov (iss0 2) 4 0) = false := by decide
theorem test_wf_pairOk : Instr.wf (.movc (iss0 0) false 8 0) = false := by decide
theorem test_wf_amodeOk : Instr.wf (.lea (iss0 0) ⟨0, 8, 0, 0⟩) = false ∧ Instr.wf (.lea (iss0 0) ⟨0, 0, 0, 2048⟩) = false := by decide
theorem test_wf_subOk : Instr.wf (.mac4 (iss0 2) 0 0 0 4 false false) = false := by decide
theorem test_wf_shiftOk : Instr.wf (.accsh (iss0 2) 0 64) = false := by decide
theorem test_wf_maskOk : Instr.wf (.accclr (iss0 2) 16) = false := by decide
theorem test_wf_condOk : Instr.wf (.br (iss0 3) 8 0 0) = false := by decide
theorem test_wf_immOk : Instr.wf (.movi (iss0 3) 0 65536) = false := by decide
theorem test_wf_dispOk : Instr.wf (.call (iss0 3) 262144) = false := by decide
theorem test_wf_countOk : Instr.wf (.loop (iss0 3) 0 true 1 1 1) = false := by decide
theorem test_wf_loopRegOk : Instr.wf (.loop (iss0 3) 0 false 1 1 1) = false := by decide
theorem test_wf_lenOk : Instr.wf (.loop (iss0 3) 0 false 0 1 0) = false ∧ Instr.wf (.loop (iss0 3) 0 false 0 1 129) = false := by decide

theorem test_wf_symsOk : Instr.wf (.hbmRead 0 0 0 ⟨[(88, 1)], none, none⟩) = false ∧ Instr.wf (.hbmRead 0 0 0 ⟨[(0, 256)], none, none⟩) = false ∧ Instr.wf (.hbmRead 0 0 0 ⟨[], none, some 4⟩) = false := by decide
theorem test_wf_flipsOk : Instr.wf (.pondAccess 0 0 none none ⟨⟨[72], none⟩, {}⟩) = false := by decide
theorem test_wf_dirtyOk : Instr.wf (.snoopAnswer 0 ⟨0, [⟨80, 0, 0, {}⟩]⟩) = false ∧ Instr.wf (.snoopAnswer 0 ⟨0, [⟨0, 0, 8, {}⟩]⟩) = false := by decide

/-! ## Syllable words, written bit by bit from R139 to R143 -/

theorem test_word_addi : decodeSyl 3 0b000010_00001_00010_0000000000000101 = .addi 1 2 5 := by decide
theorem test_word_ldD : decodeSyl 1 0b000100_00110_0011_100_111_00000001000 = .mem .ldD 6 ⟨3, 4, 7, 8⟩ := by decide
theorem test_word_amoMax : decodeSyl 0 0b001100_00010_0001_000_011_00000000000 = .amo .max 2 1 := by decide
theorem test_word_mul32 : decodeSyl 2 0b000100_10_00100_00110_00_1_1_0000000000 = .mac .mul32 2 4 6 0 true true := by decide
theorem test_word_accmov : decodeSyl 2 0b000111_01_10_0000000000000000000000 = .accmov 1 2 := by decide
theorem test_word_call : decodeSyl 3 0b001001_00000000_000000000000000011 = .call 3 := by decide
theorem test_word_reserved : decodeSyl 0 0b001110_10000_00001_0000000000000000 = .bad ∧ decodeSyl 3 0b001010_00000000000000000000000001 = .bad := by decide

/-! ## For the statements with hypotheses, a state and operands that meet them -/

/-- A booted chip in RUNNING, whose registers the PF reaches. -/
def sUp : State :=
  { (State.reset.fset F.TRUST_STAT_STATE 0 2) with
    trust := { State.reset.trust with boot := .done, perst := false }, power := { State.reset.power with standby := false } }

/-- Stone 0 runs context 0. -/
def sRun : State := sUp.setStone 0 { running := some 0 }

/-- Stone 0 runs its handler. -/
def sHandler : State := sUp.setStone 0 { handler := true }

theorem lone_of {s : State} {slot c : Nat} (h : s.canIssue 0 = true ∧ (s.stone 0).active = some c ∧ (s.stone 0).bundle = [] ∧ (s.stone 0).inflight = [] ∧ (s.stone 0).far = [] ∧
    (s.stone 0).ldepth = 0 ∧ (s.stone 0).stepping = false ∧ (s.stone 0).macPass = false ∧ ((s.stone 0).cx c).pc < s.karea 0) : Lone s (iss0 slot) slot c :=
  ⟨rfl, rfl, rfl, Nat.zero_lt_succ 15, h⟩

theorem lone_sRun (slot : Nat) : Lone sRun (iss0 slot) slot 0 := lone_of (by decide)

theorem lone_sHandler (slot : Nat) : Lone sHandler (iss0 slot) slot 3 := lone_of (by decide)

/-- The PF reaches the pages whose registers have rows of their own. -/
theorem witness_Reaches : ∀ e ∈ [(T.mill, 0), (T.hbmc, 31), (T.pond, 31), (T.miller, 1), (T.queue, 0), (T.mac, 15), (T.mgmac, 0), (T.sluice, 15), (T.tide, 0), (T.press, 0), (T.ledger, 0), (T.trust, 0),
    (T.i2cm, 1), (T.vorak, 0), (T.vane, 0), (T.ras, 0)], Reaches sUp 0 e.1 e.2 := by unfold Reaches; decide

/-- So does the Millhouse, and a VF its own VORAK page. -/
theorem witness_Reaches_others : Reaches sUp 16 T.ras 0 ∧ Reaches (sUp.clock 5) 0 T.tide 0 ∧ Reaches (sUp.fset F.TRUST_STAT_STATE 0 3) 0 T.trust 0 := by unfold Reaches; decide

theorem witness_StepRunsFront : (sUp.withFetchWord 0 0).pending = [] := by decide

theorem witness_BusAccess :
    sUp.gate 0 = .open' ∧ sUp.sees 0 T.mac 3 = true ∧ sUp.frozen T.mac 3 = false ∧ sUp.gate 16 = .open' ∧ sUp.sees 0 T.power 0 = true ∧
      isReg T.power 0 0x40 = true ∧ sUp.valueOk T.power 0 0x40 1 = true ∧ bitField 0x06000000 25 2 = 3 ∧ sUp.sees 0 27 0 = false ∧
      C.MILLER_MISS ∈ ctrsOf T.miller ∧ sUp.noRegs T.miller 0 0x60 = false := by decide

theorem witness_BusAccess_plain (st : State) : st.ownWrite 0 (regAddr T.power 0 0x40) T.power 0 0x40 1 true = none := rfl

theorem witness_HandshakesAndStalls :
    (sUp.stage (.mill 0) 0).ack = false ∧ ((sUp.setStage (.mill 0) 0 ⟨true, false, 40, []⟩).stage (.mill 0) 0).started = true ∧
      sUp.fget F.VANE_WD_STAGE (placeHalf (.mill 0)) ≤ 40 := by decide

/-- A flit of class 0 for half 0's DDR port, and a wait for its credit that has reached WAIT. -/
def flit0 : Flit := ⟨0, 0, ⟨0, 0, 0⟩, 0, .stone 0, 0⟩
def sWaits : State := { sUp with fab := { sUp.fab with waiters := [⟨0, .lane 0 0 flit0, .stone 0, sUp.fget F.VANE_WD_WAIT 0⟩] } }

theorem witness_HandshakesAndStalls_waits : sWaits.timedWaiters.length = 1 ∧ sWaits.fab.waiters.length = 1 ∧ sUp.timedWaiters = [] ∧ sUp.tickLost 0 = false ∧
    (∀ w ∈ sWaits.timedWaiters, w.half = 0 ∧ sWaits.fget F.VANE_WD_WAIT 0 ≤ w.ticks) ∧ sWaits.fbit F.CANAL_FAULT_VALID 0 = false := by decide

/-- Lock 0 of half 0 in a state, with a request in its clocked-side FIFO. -/
def word0 : LWord := ⟨.request, 3, .stone 0, none⟩
def sLock (st : LockState) : State := sUp.setLock 0 0 { st := st, rx := [word0] }

theorem witness_Locks_states : ((sLock .drain).lock 0 0).rx = [word0] ∧ ((sLock .stopped).lock 0 0).st = .stopped ∧ ((sLock .waking).lock 0 0).st = .waking ∧ ((sLock .flush).lock 0 0).st = .flush ∧
    ((sUp.setLock 0 0 { st := .run, tx := List.replicate 32 word0 }).lock 0 0).tx.length = 32 ∧ ((sUp.setLock 1 18 { st := .stopped, wake := true, wakeTicks := 500 }).lock 1 18).wake = true ∧
    10 * sUp.fget F.LOCK_WAKE_LIMIT_LIMIT 1 ≤ 500 := by decide

theorem witness_Locks : (sUp.lock 0 0).st = .held ∧ ((sUp.setLock 0 0 { st := .run }).lock 0 0).st = .run ∧ ((sUp.setLock 0 0 { st := .run }).lock 0 0).tx.length < 32 ∧ ((sUp.setLock 0 0 { st := .drain }).lock 0 0).st = .drain := by decide

theorem witness_CanalAndVanes :
    sUp.roundRobin 0 0 (Tab.get (fun _ => 31) sUp.fab.served 0) = none ∧ sUp.fbit F.CANAL_CTRL_ARB 0 = false ∧
      (sUp.lane 0 0 flit0.cls 0).length < sUp.laneCredit 0 flit0.cls 0 ∧ routePort 0 ⟨0, 0, 0⟩ ≠ 9 ∧ portLock 0 9 = none ∧ portLock 0 11 = some (0, 0) ∧ sUp.portUsed 0 0 0 < 64 ∧ sUp.fab.waiters = [] ∧
      sUp.member 0 = true ∧ sUp.member 4 = false := by decide

theorem witness_AluSyllables : Lone sRun (iss0 3) 3 0 := lone_sRun 3

theorem witness_MovesAndImmediates : Lone sRun (iss0 3) 3 0 ∧ Lone sRun (iss0 1) 1 0 ∧ circFault ((sRun.stone 0).cx 0) am0 = false ∧ am0.mode ≤ 4 :=
  ⟨lone_sRun 3, lone_sRun 1, by decide⟩

theorem witness_NearAccesses : Lone sRun (iss0 0) 0 0 ∧ circFault ((sRun.stone 0).cx 0) am0 = false ∧ effAddr ((sRun.stone 0).cx 0) am0 = 0 :=
  ⟨lone_sRun 0, by decide⟩

/-- Stone 0 runs context 0 with the address registers a0 = 0x180000 (the bin's kernel-free area) and a1 = 0x180002. -/
def sFar : State := sUp.setStone 0 { running := some 0, ctx := [(0, { a := [(0, 0x180000), (1, 0x180002)] })] }

theorem lone_sFar (slot : Nat) : Lone sFar (iss0 slot) slot 0 := lone_of (by decide)

theorem witness_FarAccesses : Lone sFar (iss0 0) 0 0 ∧ effAddr ((sFar.stone 0).cx 0) am0 = 0x180000 ∧ sFar.farFault 0 0x180000 8 true = none ∧
    circFault ((sFar.stone 0).cx 0) am0 = false := ⟨lone_sFar 0, by decide⟩

/-- Stone 0 has one far load outstanding. -/
def sFarLoad : State := sUp.setStone 0 { running := some 0, far := [⟨0, 1, 0x180000, .load false, 0⟩] }

theorem witness_FarAccesses_complete : (sFarLoad.stone 0).far[0]? = some ⟨0, 1, 0x180000, .load false, 0⟩ ∧ (sFarLoad.stone 0).held = false ∧
    sFarLoad.farPoison 0x180000 (.load false) = false ∧ (sFarLoad.mill 0).stopped = false := by decide

theorem witness_FarAccesses_bin : 0x100000 ≤ (0x180000 : Nat) ∧ (0x180000 : Nat) < 0x200000 ∧ sUp.farPoison 0x10000000 (.load false) = false := by decide

theorem witness_Products : Lone sRun (iss0 2) 2 0 := lone_sRun 2

theorem witness_AccumulatorMoves : Lone sRun (iss0 2) 2 0 := lone_sRun 2

theorem witness_ControlFlow : Lone sRun (iss0 3) 3 0 ∧ ((2 : Int) = ((5 : Int)).fdiv (2 ^ 1)) ∧ ({ ldepth := 1 } : Stone).ldepth = 0 + 1 := ⟨lone_sRun 3, by decide⟩

/-- Stone 0 runs its handler over the unit of context 0, stopped at the address of EPC. -/
def sNested : State := sUp.setStone 0 { running := some 0, handler := true, epc := 0x40 }

theorem witness_UnitEndsAndSpecialRegisters : Lone sRun (iss0 3) 3 0 ∧ (sRun.stone 0).running = some 0 ∧ (sRun.stone 0).staged = [] ∧ Lone sHandler (iss0 3) 3 3 ∧
    (sHandler.stone 0).running = none ∧ (sHandler.stone 0).staged = [] := ⟨lone_sRun 3, by decide, by decide, lone_sHandler 3, by decide, by decide⟩

theorem witness_UnitEnds_reti : Lone sNested (iss0 3) 3 3 ∧ (sNested.stone 0).running = some 0 ∧ (sNested.stone 0).epc ≠ 0xFFFFFFFF :=
  ⟨lone_of (by decide), by decide, by decide⟩

/-- Stone 0 has a recorded fault and a fault vector. -/
def sFault : State := sUp.setStone 0 { running := some 0, ctx := [(0, { fvec := 0x100 })], faults := [⟨3, 2, 0, false⟩] }

theorem witness_FaultsAndInterrupts : (sFault.stone 0).faults = [⟨3, 2, 0, false⟩] ∧ (sFault.stone 0).halted = false ∧ (sFault.mill 0).stopped = false ∧ (sFault.stone 0).inflight = [] ∧
    ((sFault.stone 0).cx 0).fvec ≠ 0 ∧ decodeSyl 0 0b001110_10000_00001_0000000000000000 = .bad := by decide

/-- A fault is pending on stone 0, which has nothing running and a fault vector of its last unit. -/
def sIdleFault : State := sUp.setStone 0 { faults := [⟨3, 2, 0, false⟩], lastFvec := 0x100 }

theorem witness_FaultsAndInterrupts_idle : (sIdleFault.stone 0).faults = ⟨3, 2, 0, false⟩ :: [] ∧ (sIdleFault.stone 0).running = none ∧ (sIdleFault.stone 0).handler = false ∧ (sIdleFault.stone 0).lastFvec ≠ 0 ∧
    (sIdleFault.stone 0).inflight = [] ∧ (sIdleFault.stone 0).bolterTook.Nodup := by decide

/-- A mark of value 5 waits at half 0. -/
def sMark : State := sUp.setMiller 0 { sUp.miller 0 with marks := [(5, 1)] }

theorem witness_TurnsAndSeals : (sMark.miller 0).marks = (5, 1) :: [] ∧ (sMark.miller 0).loaded = false ∧ sMark.fbit F.MILLER_STAT_MARK_LOSS 0 = false ∧ sUp.sch.classes = [] ∧
    sUp.sch.takeover = [] := by decide

/-- The tick locks run. -/
def sTicks : State := (sUp.setLock 0 18 { st := .run }).setLock 1 18 { st := .run }

theorem witness_TurnsAndSeals_ticks : sTicks.tickRuns 0 = true ∧ sTicks.tickRuns 1 = true ∧ sUp.tickRuns 0 = false ∧ sTicks.ownTurn 0 < sTicks.turn 0 + 1 ∧ (sUp.sch.early.find? fun e => e.1 == 0) = none := by decide

/-- A released unit of class 0 waits for stone 0. -/
def wu0 : WU := { cls := 0, stone := 0, wuid := 0, deadline := 9, defer := false }
def sWu (st : WuSt) : State := { sUp with sch := { sUp.sch with wus := [(7, { wu0 with st := st })] } }

theorem witness_WorkUnitsThroughTheHopper : ((sWu .released).sch.wus.map (·.1)).Nodup ∧ ((sWu .released).mill 0).stopped = false ∧
    (sWu (.fetching 0)).sch.wus.find? (fun e => e.2.stone == 0 && e.2.st == .fetching 0) = some (7, { wu0 with st := .fetching 0 }) ∧
    Tab.wf memDefault ((sWu .released).ctxOf 0) = true ∧ ((sWu (.inBin 0)).stoneOrder 0).head? = some (7, { wu0 with st := .inBin 0 }) ∧
    ((sRun.stone 0).cx 1).st = .free := by decide

theorem witness_WorkUnits_order : ((sWu .released).sch.classes.map (·.1)).Nodup ∧ ((sWu .released).fetchOrder 0).map (fun f => (f.id, f.wu.st, f.wu.bad)) = [(7, .released, false)] ∧
    (sWu .released).binSlots 0 = 3 ∧ ((sWu .released).stone 0).winFree 0 = true ∧ (sWu .released).deferIdle 0 = false ∧ sUp.deferIdle 0 = true ∧
    (sUp.fset F.MILLER_CTRL_DEFER_EN 0 1).fbit F.MILLER_CTRL_DEFER_EN 0 = true ∧ (sUp.stone 0).dbReady = false := by decide

theorem witness_AlignmentRule : Lone sFar (iss0 0) 0 0 ∧ ((sFar.stone 0).cx 0).ar 1 = 0x180002 ∧ (0x180002 % 4 ≠ 0) ∧
    effAddr ((sFar.stone 0).cx 0) ⟨1, 0, 0, 0⟩ = 0x180002 := ⟨lone_sFar 0, by decide⟩

theorem witness_ReserveWriteRule : (0x0A03 : Nat) / 256 % 256 = 10 ∧ (0x0303 : Nat) / 256 % 256 < 5 ∧ (0 : Nat) < 2 := by decide

theorem witness_ReserveWriteRule_fits (k : Nat) : sUp.stoneGrains (640 * 0 + k) ≤ 1400 - 14 * 10 - 44 := by
  have h : sUp.stoneGrains (640 * 0 + k) = 0 := rfl
  omega

/-- Stone 0 has one job on its mill's bolter. -/
def job0 : Job := { stone := 0, win := 0, desc := 0x100, nsamp := 1, ifmt := 0, inp := 0, entries := [⟨16, 0, 0, 0, 0, 0x200, 0x300⟩], beforeSwap := [] }
def sJob : State := sUp.setMill 0 { jobs := [job0] }

theorem witness_BolterJobs : (sJob.mill 0).stopped = false ∧ (sJob.mill 0).jobs = [job0] ∧ job0.stone = 0 % 16 ∧ (0 : Nat) + 0x4200 ≤ 2 ^ 16 := by decide

theorem witness_MillPageAccesses : 0 < sUp.fuse.mills ∧ sUp.debugUnlocked = false ∧ sUp.millBusy 0 = 0 ∧ sRun.millBusy 0 ≠ 0 ∧ sUp.windowRights 0 0 = true ∧ sUp.windowRights 1 0 = false ∧
    bitAt (sUp.rd T.mill 0 0x10) 31 = false ∧ sUp.roleHeld ((sUp.roleOfMill 0).getD 0) = false ∧ sUp.fget F.MILL_ROLE_EPOCH 0 = 0 := by decide

/-- A frame waits at the classifier of half 0. -/
def sFrame : State := sUp.setCls 0 { sUp.clsf 0 with waiting := [⟨0, [], 0, 0⟩] }

theorem witness_LookupAndRtcp : (sFrame.clsf 0).waiting.length = 1 ∧ (sUp.clsf 0).waiting = [] ∧ sUp.fbit F.SCRUB_CTRL_CMP_EN 0 = true ∧ matchOf 1 5004 [0x80#8, 0#8] = .rtp ∧
    (sFrame.fset F.CLS_CTRL_EN 0 1).fbit F.CLS_CTRL_EN 0 = true ∧ sUp.posBad 0 7 = false ∧ sUp.slot 0 7 = sUp.slot 1 7 ∧ sUp.tagAt 0 7 = sUp.tagAt 1 7 := by decide

/-- A polder of VLAN 9 that is ACTIVE takes the frame. -/
theorem witness_LookupAndRtcp_polder (s : State) (p : Nat) (h1 : s.vlanPolder 0 0 = some p) (h2 : s.fget F.DIKE_STAT_STATE p = 2) : s.framePolder 0 ⟨0, [], 1, 0⟩ = some p := by
  unfold State.framePolder
  simp [h1, h2]

/-- Port 0's lane runs and is locked, both directions are on and the link is up. -/
def sLink : State :=
  ((((((((sUp.fset F.SERDES_STAT_AN_DONE 0 1).fset F.SERDES_STAT_LT_DONE 0 1).fset F.SERDES_CTRL_EN 0 1).fset F.SERDES_STAT_BLOCK_LOCK 0 1).fset F.SERDES_STAT_AM_LOCK 0 1).fset F.SERDES_STAT_FEC_LOCK 0 1).fset F.MAC_CTRL_RX_EN 0 1).fset F.MAC_CTRL_TX_EN 0 1).fset
    F.MAC_STAT_LINK 0 1

theorem witness_LinkAndLanes : sLink.fbit F.SERDES_CTRL_EN 0 = true ∧ sLink.trafficOk 0 = true ∧ (∀ l ∈ sLink.lanesOf 0, sLink.fbit F.SERDES_CTRL_EN l = true ∧ sLink.fbit F.SERDES_STAT_BLOCK_LOCK l = true ∧
    sLink.fbit F.SERDES_STAT_AM_LOCK l = true ∧ sLink.fbit F.SERDES_STAT_FEC_LOCK l = true ∧ sLink.fbit F.SERDES_STAT_AN_DONE (sLink.ruleLane l) = true ∧ sLink.fbit F.SERDES_STAT_LT_DONE (sLink.ruleLane l) = true) ∧
    bitField 0x103 8 2 ≠ sUp.pmode 0 := by decide

theorem witness_ReceiveAndPause : sLink.fbit F.MAC_CTRL_RX_EN 0 = true ∧ sLink.linkUp 0 = true ∧ sLink.trafficOk 0 = true ∧ 60 ≤ (List.replicate 60 (0 : Byte)).length ∧
    60 + 4 ≤ sLink.fget F.MAC_MAXFRAME_MAX 0 ∧ beAt (List.replicate 60 (0 : Byte)) 12 2 ≠ 0x8808 ∧ (sLink.clsf 0).waiting.length < 16384 ∧ (sLink.port 0).pfc = none := by decide

/-- Port 0 sends item 5 of a tailrace queue in cut-through. -/
def sTx : State := sLink.upPort 0 fun y => { y with tx := some ⟨2048, 5, false, 0⟩ }

theorem witness_Transmission : sLink.fbit F.MAC_CTRL_TX_EN 0 = true ∧ (sLink.port 0).tx = none ∧ (sLink.port 0).pfcNow = false ∧ sLink.ras.stopping = false ∧ (sLink.port 0).retry = none ∧
    sLink.chooseTx 0 0 [7, 6, 5, 4, 3, 2, 1, 0] [] = (none, []) ∧ (sTx.port 0).tx = some ⟨2048, 5, false, 0⟩ ∧ sUp.linkUp 0 = false := by decide

theorem witness_SluiceLists : (0 : Nat) < 16 ∧ sUp.fbit F.SLUICE_CTRL_SWAP_PEND 0 = false ∧ sUp.fbit F.SLUICE_CTRL_MODE 0 = false ∧ sUp.fget F.SLUICE_GCL_SEL_BANK 0 = 0 ∧
    (sUp.fset F.SLUICE_GCL_SEL_BANK 0 1).fget F.SLUICE_GCL_SEL_BANK 0 ≠ sUp.gclActive 0 := by decide

theorem witness_ManagementMac : ((sUp.fset F.MG_CTRL_TX_EN 0 1).fset F.MG_TX_TAIL_TAIL 0 1).fbit F.MG_CTRL_TX_EN 0 = true ∧ sUp.fget F.MG_TX_HEAD_HEAD 0 ≠ 1 ∧ sUp.mg.backoff = none ∧ (sUp.fset F.MG_CTRL_IF 0 1).fget F.MG_CTRL_IF 0 ≠ 0 ∧ (1 : Nat) < 4096 := by decide

/-- A taken command of polder 0's ring 0 that is the only one. -/
def cmd (op handle : Nat) (a : List Nat) : VCmd := { polder := 0, ring := 0, tag := 0, opcode := op, flags := 0, zero := 0, handle := handle, addr := 0, len := 0, a := a, sqHead := 0, order := 0 }
def sCmd (op handle : Nat) (a : List Nat) : State := { sUp with vk := { sUp.vk with cmds := [cmd op handle a] } }

theorem witness_BulkFrames : Starts (sCmd 0x29 0 []) 0 0 0 0x29 false [m32, m32, 0x7F037F, 0x7FF, 0x1FF] (cmd 0x29 0 []) ∧ bitAt ((cmd 0x29 0 [0, 0, 0x100]).w 2) 8 = true := by
  unfold Starts; decide

theorem witness_TideTicksAndMarks : ¬ (sUp.fbit F.TIDE_STAT_STEP_PEND 0 = true ∧ sUp.tide.stepAt < sUp.tide.nextMark) := by decide

theorem witness_TideReferences : sUp.fget F.TIDE_CTRL_SRC 0 < 6 ∧ sUp.fget F.TIDE_CTRL_SRC2 0 < 6 ∧ sUp.fget F.TIDE_CTRL_SRC_TIMEOUT 0 ≠ 0 ∧ (1 : Nat) < 2 := by decide

theorem witness_TideSamples : sUp.fget F.TIDE_CTRL_SRC 0 ≠ 1 ∧ sUp.fget F.TIDE_CTRL_SRC2 0 ≠ 1 ∧ (sUp.fset F.TIDE_CTRL_SRC 0 1).fget F.TIDE_CTRL_SRC 0 = 1 ∧ (sUp.fset F.TIDE_CAP_EN 0 1).fbit F.TIDE_CAP_EN 0 0 = true ∧
    (sUp.fset F.TIDE_CTRL_SRC2 0 1).fget F.TIDE_CTRL_SRC2 0 = 1 ∧ ((sUp.fset F.TIDE_CTRL_SRC 0 2).upTide fun x => { x with alive := [(2, 0)] }).tide.alive = [(2, 0)] := by decide

theorem witness_TideStepsAndHoldover : sUp.fbit F.TIDE_STAT_STEP_PEND 0 = false ∧ (sUp.fset F.TIDE_STAT_STEP_PEND 0 1).fbit F.TIDE_STAT_STEP_PEND 0 = true ∧ (sUp.fset F.TIDE_STAT_STATE 0 3).tideState = 3 ∧
    (sUp.fset F.TIDE_HOLDOVER_BUDGET 0 9).fget F.TIDE_HOLDOVER_BUDGET 0 ≠ 0 := by decide

theorem witness_TidePulsesAndReads : (sUp.fset F.TIDE_PULSE_CTRL_EN 0 1).pulseRuns 0 0 = true ∧ (sUp.fset F.TIDE_PULSE_CTRL_EN 0 1).pulseDue 0 0 = true ∧ (sUp.pulse 0).active = false ∧ (sUp.pulse 0).off = none := by decide

theorem witness_MemoryAccess : hbmInSpace 64 = true ∧ (sUp.fset F.HBMC_CTRL_EN (sliceOf 64) 1).fbit F.HBMC_CTRL_EN (sliceOf 64) = true ∧ ((sUp.hbmPut 64 [1]).2 = true) ∧
    (sUp.fset F.SCRUB_CTRL_EN 0 1).fbit F.SCRUB_CTRL_EN 0 = true ∧ (sUp.fset F.SCRUB_RATE_MBPS 0 1).fget F.SCRUB_RATE_MBPS 0 ≠ 0 ∧ sUp.pondPoison.contains 0 = false ∧ Tab.get (fun _ => 0) sUp.mem.pondPos 1 + 1 < 2 ^ 22 ∧ sUp.sliceDenies 0 64 = false := by decide

/-- Mill 0 of polder 0 has window 0 at the first grains of half 0. -/
def sWin : State := ((sUp.fset F.DIKE_PWIN_VALID 0 1).fset F.DIKE_PWIN_FIRST 0 0).fset F.DIKE_PWIN_LAST 0 1

theorem witness_CoherenceAndRetirement : sWin.member 0 = true ∧ sWin.inWindow (sWin.fget F.MILL_ROLE_POLDER 0) (31 * 2 ^ 20 / 64 * 64) = true ∧ sWin.mem.coh.txns = [] ∧
    (sWin.setCached 0 3 .m).cached 0 3 ≠ .i ∧ ((sWin.setCached 0 3 .m).evictBuf 0).length < 8 ∧ (sWin.cacheSet 0 3).length < 8 ∧ sWin.dirEnt 3 = (⟨none, 0⟩ : DirEnt) ∧ (sWin.dirSet 3).length < 16 ∧ sWin.snoopMills 0 3 = [] := by decide

/-- A record of TYPE 2 waits to be written. -/
def rec0 : LReq := ⟨2, 0, [], .none⟩
def sLedger : State := { (sUp.fset F.LEDGER_STAT_STATE 0 1) with led := { sUp.led with reqs := [rec0] } }

theorem witness_LedgerRecords : sLedger.led.reqs = [rec0] ∧ sLedger.ledgerWaits rec0 = false ∧ sLedger.led.writing = none ∧ sLedger.fget F.LEDGER_STAT_STATE 0 = 1 ∧ sLedger.ledgerOver rec0 = false ∧
    sUp.cget C.LEDGER_SEQ 0 + 1 < 2 ^ 48 := by decide

theorem witness_PolderLifecycle : Starts (sCmd 0x40 0 [1]) 0 0 0 0x40 false [15] (cmd 0x40 0 [1]) ∧ (sCmd 0x40 0 [1]).polderTurn (cmd 0x40 0 [1]) = true := by unfold Starts; decide

theorem witness_PolderResources : Starts (sCmd 0x44 0 [1, 0, 4]) 0 0 0 0x44 false [15, m32, m32] (cmd 0x44 0 [1, 0, 4]) ∧ (sCmd 0x44 0 [1, 0, 4]).polderTurn (cmd 0x44 0 [1, 0, 4]) = true ∧
    ((sCmd 0x44 0 [1, 0, 4]).fset F.DIKE_STAT_STATE 1 1).notLive 1 = false ∧ sUp.revoking 1440 = false ∧
    (sUp.upPol fun x => { x with zero := [⟨1440, 1, true⟩] }).revoking 1440 = true ∧ wholeLines 60 70 = 68 := by unfold Starts; decide

theorem witness_PlainObjectCommands : Starts (sCmd 0 0 []) 0 0 0 0 false [] (cmd 0 0 []) ∧ Starts (sCmd 8 0 [1, 5]) 0 0 0 8 false [15, m32] (cmd 8 0 [1, 5]) := by unfold Starts; decide

/-- A handle of a stream of polder 0. -/
def hStream : Nat := 2 ^ 60 + 7

theorem witness_StreamAndObjectLife : Starts (sCmd 0x10 0 []) 0 0 0 0x10 false [] (cmd 0x10 0 []) ∧ Starts (sCmd 0x1B hStream []) 0 0 0 0x1B true [] (cmd 0x1B hStream []) ∧ hTyp hStream = 1 ∧ hPol hStream = 0 ∧
    hIdx hStream = 7 ∧ leAt (List.replicate 192 (0 : Byte)) 0 4 < 2 ^ 18 := by unfold Starts; decide

theorem witness_ChannelsAndBundles : Starts (sCmd 0x12 0 [2]) 0 0 0 0x12 false [3, m32, m32] (cmd 0x12 0 [2]) ∧ (cmd 0x12 0 [2]).pair 1 = 0 ∧ Starts (sCmd 0x14 (2 * 2 ^ 60) []) 0 0 0 0x14 true [] (cmd 0x14 (2 * 2 ^ 60) []) ∧
    hTyp (2 * 2 ^ 60) = 2 := by unfold Starts; decide

theorem witness_KernelsAndTypes : Starts (sCmd 0x20 0 []) 0 0 0 0x20 false [] (cmd 0x20 0 []) ∧ Starts (sCmd 0x21 (4 * 2 ^ 60) []) 0 0 0 0x21 true [] (cmd 0x21 (4 * 2 ^ 60) []) ∧ hTyp (4 * 2 ^ 60) = 4 ∧
    hGen (4 * 2 ^ 60) = sUp.gen 4 0 0 := by unfold Starts; decide

/-- Ring 0 of the PF holds a command that is not taken, an entry not signalled, and a receive ring that is on. -/
def sRing : State :=
  ((((((sUp.fset F.VORAK_CTRL_EN 0 1).fset F.RING_CFG_EN 0 1 0).fset F.SQ_TAIL_TAIL 0 1 0).fset F.VORAK_COAL_TIME 0 5).fset F.RX_CFG_EN 0 1 0).setRing 0 0 { unsig := 1 })

theorem witness_RingTaken : sRing.fbit F.VORAK_CTRL_EN 0 = true ∧ sRing.nextRing 0 = some 0 ∧ sRing.takeRoom 0 = true ∧ sRing.writing 0 = none ∧ sRing.tagHeld 0 0 7 = false ∧ knownOpcode 8 = true ∧
    knownOpcode 0x7F = false ∧ (sRing.ring 0 0).unsig ≠ 0 ∧ sRing.fget F.VORAK_COAL_TIME 0 ≠ 0 ∧ sRing.rxRoom 0 0 = true ∧ (sCmd 0 0 []).tagHeld 0 0 0 = true := by decide

theorem witness_CommandRings : sUp.fbit F.RX_CFG_EN 0 0 = false ∧ (sUp.fset F.VORAK_CTRL_EN 0 1).fbit F.VORAK_CTRL_EN 0 = true ∧ sUp.inFlight 0 < 256 ∧ sUp.inFlr 0 = false ∧ sUp.nextRing 0 = none := by decide

theorem witness_DeliveryAndWindow : (0 : Nat) < 16 ∧ (0 : Nat) < 8 ∧ sUp.rxRoom 0 0 = false ∧ sUp.fget F.QUEUE_SEL_QID 0 = 0 := by decide

/-- The Press is on and idle. -/
def sPress : State := sUp.fset F.PRESS_CTRL_EN 0 1

theorem witness_PressJobs : sPress.fbit F.PRESS_CTRL_EN 0 = true ∧ sPress.press.running = none ∧ sPress.press.mode = false ∧ sPress.press.timeUp = false ∧ sPress.mirrorChans 0 = [] := by decide

theorem witness_PowerDomains : (183 : Nat) < 184 ∧ sUp.dom 0 ≤ 3 := by decide

theorem witness_PinsAndResets : sUp.fget F.LEDGER_STAT_STATE 0 ≠ 1 ∧ (sUp.fset F.LEDGER_STAT_STATE 0 1).fget F.LEDGER_STAT_STATE 0 = 1 ∧ sUp.power.trip = false ∧ sUp.power.standby = false ∧ sUp.trust.boot ≠ .held := by decide

theorem witness_I2cMasters : sUp.hostSlot 0 = true ∧ (sUp.fset F.VANE_AVS_CTRL_MODE 0 1).hostSlot 0 = false ∧ sUp.fbit F.I2CM_XFER_GO 0 = false ∧ (sUp.i2cm 0).cur = none ∧ (sUp.i2cm 0).avsWaits = none ∧ (sUp.fset F.I2CM_CTRL_EN 0 1).fbit F.I2CM_CTRL_EN 0 = true ∧ bitField 0x010100 16 6 ≤ 32 := by decide

theorem witness_AdaptiveVoltage : 1400 ≤ bitField (1500 * 16) 4 12 ∧ bitField (1500 * 16) 4 12 ≤ 2600 ∧ sUp.fbit F.VANE_AVS_CTRL_MODE 0 = false ∧ sUp.i2cm 0 = {} ∧
    (sUp.fset F.VANE_AVS_CTRL_MODE 0 1).fbit F.VANE_AVS_CTRL_MODE 0 = true ∧ ({ sUp with fab := { sUp.fab with rail := 720 } } : State).fab.rail = 720 ∧
    ((sUp.upI2c 0 fun x => { x with cur := some (.voutCommand 720) }).i2cm 0).cur = some (.voutCommand 720) ∧ sUp.fbit F.I2CM_STAT_CLEARING 0 = false := by decide

theorem witness_Boot : State.reset.trust.boot = .held ∧ State.reset.power.standby = false ∧ (∀ b : BootStage, ({ sUp with trust := { sUp.trust with boot := b } } : State).trust.boot = b) ∧
    (sUp.fset F.TRUST_STAT_STATE 0 3).fget F.TRUST_STAT_STATE 0 = 3 := ⟨by decide, by decide, fun _ => rfl, by decide⟩

theorem witness_TrustCommands : Starts (sCmd 0x71 0 [1]) 0 0 0 0x71 false [1] (cmd 0x71 0 [1]) ∧ Starts (sCmd 0x76 0 []) 0 0 0 0x76 false [] (cmd 0x76 0 []) := by unfold Starts; decide

theorem witness_TrustReportsAndPorts : Starts (sCmd 0x78 0 []) 0 0 0 0x78 false [] (cmd 0x78 0 []) ∧ sUp.firmwareRuns = true ∧ sUp.pol.keyWaits = [] ∧ State.reset.firmwareRuns = false ∧ (sUp.fset F.SMBT_CTRL_EN 0 1).fbit F.SMBT_CTRL_EN 0 = true := by
  unfold Starts; decide

/-- Mill 0 has failed and the spare, mill 4, is claiming its role. -/
def sClaim (done : Bool) : State := { sUp with ras := { sUp.ras with claims := [⟨0, 0, 4, done⟩] } }

theorem witness_TakeOver : 0 < sUp.fuse.mills ∧ sUp.member 0 = true ∧ sUp.ras.claims = [] ∧ sUp.ras.given = [] ∧ sUp.changing 0 = false ∧ sUp.roleOfMill 0 = some 0 ∧ sUp.idleSpare (rowOf 0) = some 4 ∧
    (sClaim false).ras.claims.find? (fun c => !c.claimed && rowOf c.spare == 0) = some ⟨0, 0, 4, false⟩ ∧ (sClaim true).ras.claims.find? (fun c => c.claimed && rowOf c.spare == 0) = some ⟨0, 0, 4, true⟩ := by decide

theorem witness_RasPages : (79 : Nat) < 80 ∧ (15 : Nat) < 16 ∧ (∀ i, i < 0 → sUp.recordChan 0 (sub [] (1024 * i) 1024) = none) := ⟨by decide, by decide, fun _ h => absurd h (Nat.not_lt_zero _)⟩

theorem witness_PcieEvents : ({ sUp with trust := { sUp.trust with perst := true } } : State).trust.perst = true ∧ sUp.inFlr 3 = false ∧ (sUp.fset F.PCIE_FLR_IN_FLR 0 8).inFlr 3 = true := by decide

/-! ## Single steps, with results worked from the rules -/

/-- What a step of one waiting command leaves at a place of the state; none where it does not answer a next state. -/
def after (c : Instr) (s : State) (f : State → Nat) : Option Nat :=
  match step { s with pending := [c] } with
  | .next t => some (f t)
  | _ => none

/-- R143: ADDI d1, d0, 5 with d0 = 0. -/
theorem test_addi : after (.addi (iss0 3) 1 0 5) sRun (fun t => (((t.stone 0).cx 0).dr 1).toNat) = some 5 := by decide
/-- R143: ADDI sign-extends its immediate. -/
theorem test_addi_negative : after (.addi (iss0 3) 1 0 0xFFFF) sRun (fun t => (((t.stone 0).cx 0).dr 1).toNat) = some 0xFFFFFFFF := by decide
/-- R104: a bundle of 16 bytes. -/
theorem test_nop_pc : after (.nop (iss0 0) 0) sRun (fun t => ((t.stone 0).cx 0).pc) = some 16 := by decide
/-- R125: END leaves the stone with no running unit and one ended unit. -/
theorem test_end : after (.endU (iss0 3)) sRun (fun t => 2 * (t.stone 0).ended.length + b2n (t.stone 0).running.isSome) = some 2 := by decide
/-- R498: LOCK is bit 31 of BLK_CTRL. -/
theorem test_blkLock : after (.blkLock 0 T.power 0) sUp (fun t => t.rd T.power 0 0x10) = some 0x80000000 := by decide
/-- R493, R497, R500: reserved mode is KIND 0x1 in the DEVICE page. -/
theorem test_reserved_mode : after (.registerWrite 0 0x06000000 4 7 false) sUp (fun t => t.rd T.device 0 0x28) = some 0x80010000 := by decide
/-- R15, R500: a byte write is KIND 0x3 in the page addressed. -/
theorem test_narrow_write : after (.registerWrite 0 (regAddr T.power 0 0x41) 1 7 false) sUp (fun t => t.rd T.power 0 0x28) = some 0x80030000 := by decide
/-- The Miller of half 0 has counted 2³² + 2 misses. -/
def sMiss : State := sUp.cset C.MILLER_MISS 0 0x100000002
/-- R14: reading _LO latches bits 63:32 for the reader. -/
theorem test_pair_latch : after (.latchedPairRead 0 (regAddr T.miller 0 0x60)) sMiss (fun t => (Tab.get (fun _ => (0 : Word)) t.latch (latchKey 0 T.miller 0 0x64)).toNat) = some 1 := by decide
/-- R14: an RC pair is cleared. -/
theorem test_pair_clear : after (.latchedPairRead 0 (regAddr T.miller 0 0x60)) sMiss (fun t => t.cget C.MILLER_MISS 0) = some 0 := by decide
/-- R176: a reserve of 3 is out of range. -/
theorem test_reserve_refused : after (.reserveWrite 0 0 0x0301) sUp (fun t => b2n (bitAt (t.rd T.miller 0 0x18) I.MILLER_RESERVE_REFUSED)) = some 1 := by decide
/-- R503: NOP completes and leaves no command. -/
theorem test_nopCommand : after (.nopCommand 0 0 0) (sCmd 0 0 []) (fun t => t.vk.cmds.length) = some 0 := by decide
/-- R15: three bytes of a register are read with the effects of a full read. -/
theorem test_odd_read : after (.readClear 0 (regAddr T.mac 0 0xA0) 3) (sUp.fset F.RX_FCS_ERR_COUNT 0 9) (fun t => t.fget F.RX_FCS_ERR_COUNT 0) = some 0 := by decide
/-- R24: a write to the page of a mill in role 0x4 is logged in its ROW page with KIND 0x5. -/
theorem test_frozen_write : after (.stoneHalt 0 0 3) (sUp.fset F.MILL_ROLE_ROLE 0 4) (fun t => t.rd T.row 0 0x28) = some 0x80050000 := by decide
/-- R58: an accepted VOUT_COMMAND is where the rail stands. -/
theorem test_rail : after (.i2cTransactionDone 0 1 []) (sUp.upI2c 0 fun x => { x with cur := some (.voutCommand 0x2D5) }) (fun t => t.fab.rail) = some 0x2D5 := by decide
/-- The block idles on an empty queue (log entry 1). -/
theorem test_idle : step State.reset = .next State.reset := rfl

end Sys2Proof.Tests
end

section

/-!
PROOF. Register accesses (R11, R13 to R15, R24, R489, R494 to R500). First the bits of masks and fields, the layout of the fields of a register and the
words of an access; then what reads of pairs and counters, group reads, dropped writes and accepted writes do; last the statement on them.
-/

namespace Sys2Proof.Machine

/-! ## Bits of masks and of fields -/

/-- The bits of the mask of a field. -/
theorem testBit_fieldMask (lo w i : Nat) : ((2 ^ w - 1) * 2 ^ lo).testBit i = (decide (lo ≤ i) && decide (i < lo + w)) := by
  rw [Nat.testBit_mul_two_pow, Nat.testBit_two_pow_sub_one]
  by_cases h : lo ≤ i
  · simp only [h, decide_true, Bool.true_and, decide_eq_decide]
    omega
  · simp [h]

/-- A fold that ORs the masks of chosen fields has the bits of the start and those of the chosen fields. -/
theorem testBit_foldl_fieldMask (p : Fld → Prop) [DecidablePred p] (i : Nat) (l : List Fld) :
    ∀ m : Nat, (l.foldl (fun m f => if p f then m ||| ((2 ^ f.w - 1) * 2 ^ f.lo) else m) m).testBit i =
      (m.testBit i || l.any fun f => decide (p f) && (decide (f.lo ≤ i) && decide (i < f.lo + f.w))) := by
  induction l with
  | nil => simp
  | cons f l ih =>
    intro m
    rw [List.foldl_cons, ih, List.any_cons]
    by_cases h : p f
    · rw [if_pos h, Nat.testBit_or, testBit_fieldMask]
      simp [h, Bool.or_assoc]
    · simp [h]

/-- Two values agree in a field where they agree in its bits. -/
theorem bitField_congr {x y lo w : Nat} (h : ∀ i, lo ≤ i → i < lo + w → x.testBit i = y.testBit i) : bitField x lo w = bitField y lo w := by
  apply Nat.eq_of_testBit_eq
  intro i
  rw [testBit_bitField, testBit_bitField]
  by_cases hi : i < w
  · rw [h (lo + i) (by omega) (by omega)]
  · simp [hi]

/-- Two values that agree in a field agree in its bits. -/
theorem testBit_eq_of_bitField_eq {x y lo w i : Nat} (h : bitField x lo w = bitField y lo w) (h1 : lo ≤ i) (h2 : i < lo + w) :
    x.testBit i = y.testBit i := by
  have e := congrArg (fun n => n.testBit (i - lo)) h
  simp only [testBit_bitField, Nat.add_sub_cancel' h1] at e
  simpa [show i - lo < w by omega] using e

/-- The field that is a whole 32-bit word. -/
theorem bitField_word_self {v : Nat} (h : v < 2 ^ 32) : bitField v 0 32 = v := by
  rw [bitField, Nat.pow_zero, Nat.div_one, Nat.mod_eq_of_lt h]

/-- The bits outside a mask of 32 bits. -/
theorem testBit_xor_word (m i : Nat) (hi : i < 32) : (m ^^^ 0xFFFFFFFF).testBit i = !m.testBit i := by
  rw [show 0xFFFFFFFF = 2 ^ 32 - 1 from rfl, Nat.testBit_xor, Nat.testBit_two_pow_sub_one]
  simp [hi]

/-- A fold of ORs has the bits of the start and of every member. -/
theorem testBit_foldl_or {β : Type} (g : β → Nat) (i : Nat) (l : List β) :
    ∀ v : Nat, (l.foldl (fun v x => v ||| g x) v).testBit i = (v.testBit i || l.any fun x => (g x).testBit i) := by
  induction l with
  | nil => simp
  | cons x l ih =>
    intro v
    rw [List.foldl_cons, ih, Nat.testBit_or, List.any_cons, Bool.or_assoc]

/-! ## The fields of a register do not overlap (R11) -/

/-- Do two fields lie in different bits, or in registers that never coincide: their copies are apart, or interleave? -/
def Fld.apart (f g : Fld) : Bool :=
  decide (f.lo + f.w ≤ g.lo) || decide (g.lo + g.w ≤ f.lo) || decide (f.off + (f.n - 1) * f.stride < g.off) ||
    decide (g.off + (g.n - 1) * g.stride < f.off) || (f.stride == g.stride && f.off % f.stride != g.off % f.stride)

/-- Are the fields of a list each inside a 32-bit word, and pairwise apart? -/
def fieldsApart : List Fld → Bool
  | [] => true
  | f :: l => decide (f.lo + f.w ≤ 32) && l.all f.apart && fieldsApart l

theorem fieldsApart_fieldsOf (t : Nat) : fieldsApart (fieldsOf t) = true := by
  unfold fieldsOf
  split
  all_goals decide

theorem Fld.at_iff (f : Fld) (off : Nat) : f.at off = true ↔ f.off ≤ off ∧ (off - f.off) % f.stride = 0 ∧ (off - f.off) / f.stride < f.n := by
  simp [Fld.at, and_assoc]

/-- An offset that holds a copy of a field's register lies among the copies, in step with them. -/
theorem Fld.at_bounds {f : Fld} {off : Nat} (h : f.at off = true) :
    f.off ≤ off ∧ off ≤ f.off + (f.n - 1) * f.stride ∧ off % f.stride = f.off % f.stride := by
  obtain ⟨h1, h2, h3⟩ := (Fld.at_iff f off).1 h
  have e := Nat.div_add_mod (off - f.off) f.stride
  rw [h2, Nat.add_zero, Nat.mul_comm] at e
  have hk := Nat.mul_le_mul_right f.stride (show (off - f.off) / f.stride ≤ f.n - 1 by omega)
  have hoff : off = f.off + (off - f.off) / f.stride * f.stride := by omega
  refine ⟨h1, by omega, ?_⟩
  rw [hoff, Nat.add_mul_mod_self_right]

/-- Do two fields share no bit? -/
def Fld.Disjoint (f g : Fld) : Prop := f.lo + f.w ≤ g.lo ∨ g.lo + g.w ≤ f.lo

theorem Fld.Disjoint.symm {f g : Fld} (h : f.Disjoint g) : g.Disjoint f := Or.symm h

/-- Fields that are apart share no bit of a register. -/
theorem Fld.disjoint_of_apart {f g : Fld} {off : Nat} (h : f.apart g = true) (hf : f.at off = true) (hg : g.at off = true) :
    f.Disjoint g := by
  obtain ⟨f1, f2, f3⟩ := Fld.at_bounds hf
  obtain ⟨g1, g2, g3⟩ := Fld.at_bounds hg
  simp only [Fld.apart, Bool.or_eq_true, Bool.and_eq_true, decide_eq_true_eq, beq_iff_eq, bne_iff_ne] at h
  rcases h with (((h | h) | h) | h) | ⟨hs, hm⟩
  · exact .inl h
  · exact .inr h
  · omega
  · omega
  · rw [← hs] at g3
    exact absurd (f3.symm.trans g3) hm

theorem fieldsApart_iff (l : List Fld) :
    fieldsApart l = true ↔ (∀ f ∈ l, f.lo + f.w ≤ 32) ∧ l.Pairwise fun f g => f.apart g = true := by
  induction l with
  | nil => simp [fieldsApart]
  | cons f l ih =>
    simp only [fieldsApart, Bool.and_eq_true, decide_eq_true_eq, List.all_eq_true, ih, List.forall_mem_cons, List.pairwise_cons]
    tauto

/-- The fields of a register beyond the header are fields of its block type that have a copy there. -/
theorem fieldsAt_eq_filter (t inst : Nat) {off : Nat} (h : 0x40 ≤ off) :
    ∃ p : Fld → Bool, fieldsAt t inst off = (fieldsOf t).filter fun f => f.at off && p f := by
  unfold fieldsAt
  rw [if_neg (by omega)]
  split
  · exact ⟨fun _ => false, by simp⟩
  · exact ⟨fun f => !(f == F.SCRUB_CTRL_CMP_EN && inst != 0) && !(f == F.VORAK_CTRL_BLK_VEC && inst == 0), by simp only [Bool.and_assoc]⟩

theorem fieldsAt_le_word {t inst off : Nat} (h : 0x40 ≤ off) {f : Fld} (hf : f ∈ fieldsAt t inst off) : f.lo + f.w ≤ 32 := by
  obtain ⟨p, e⟩ := fieldsAt_eq_filter t inst h
  rw [e] at hf
  exact ((fieldsApart_iff _).1 (fieldsApart_fieldsOf t)).1 f (List.mem_of_mem_filter hf)

/-- The fields of a register lie in different bits. -/
theorem fieldsAt_disjoint (t inst : Nat) {off : Nat} (h : 0x40 ≤ off) :
    (fieldsAt t inst off).Pairwise Fld.Disjoint := by
  obtain ⟨p, e⟩ := fieldsAt_eq_filter t inst h
  rw [e, List.pairwise_filter]
  refine ((fieldsApart_iff _).1 (fieldsApart_fieldsOf t)).2.imp ?_
  intro f g hfg hf hg
  rw [Bool.and_eq_true] at hf hg
  exact Fld.disjoint_of_apart hfg hf.1 hg.1

/-- Two fields of a register that share a bit are one field. -/
theorem fieldsAt_eq_of_common_bit {t inst off : Nat} (h : 0x40 ≤ off) {f g : Fld} (hf : f ∈ fieldsAt t inst off) (hg : g ∈ fieldsAt t inst off)
    {i : Nat} (hfi : f.lo ≤ i ∧ i < f.lo + f.w) (hgi : g.lo ≤ i ∧ i < g.lo + g.w) : f = g := by
  by_contra hne
  have : Std.Symm Fld.Disjoint := ⟨fun _ _ => Fld.Disjoint.symm⟩
  rcases (fieldsAt_disjoint t inst h).forall hf hg hne with hd | hd <;> omega

/-! ## A write under the access types (R11) -/

/-- What a field holds after a write of v to a register that held `held`, where no lock keeps it (R11). -/
def Fld.taken (f : Fld) (held v : Nat) : Nat :=
  match f.acc with
  | .rw => bitField v f.lo f.w
  | .rwl => bitField v f.lo f.w
  | .w1c => bitField held f.lo f.w &&& ((2 ^ f.w - 1) ^^^ bitField v f.lo f.w)
  | .w1s => bitField held f.lo f.w ||| bitField v f.lo f.w
  | _ => bitField held f.lo f.w

theorem Fld.taken_lt (f : Fld) (held v : Nat) : f.taken held v < 2 ^ f.w := by
  have hh := bitField_lt held f.lo f.w
  have hv := bitField_lt v f.lo f.w
  unfold Fld.taken
  split
  · exact hv
  · exact hv
  · exact Nat.lt_of_le_of_lt Nat.and_le_left hh
  · exact Nat.or_lt_two_pow hh hv
  · exact hh

/-- The part of a write that concerns one field. -/
def writeField (held v w : Nat) (f : Fld) : Nat :=
  match f.acc with
  | .rw => setField w f.lo f.w (bitField v f.lo f.w)
  | .rwl => setField w f.lo f.w (bitField v f.lo f.w)
  | .w1c => setField w f.lo f.w (bitField held f.lo f.w &&& ((2 ^ f.w - 1) ^^^ bitField v f.lo f.w))
  | .w1s => setField w f.lo f.w (bitField held f.lo f.w ||| bitField v f.lo f.w)
  | _ => w

theorem State.plainWrite_eq (s : State) (t inst off v : Nat) :
    s.plainWrite t inst off v = s.wr t inst off ((fieldsAt t inst off).foldl (writeField (s.rd t inst off) v) (s.rd t inst off)) := rfl

/-- The field of a write holds what it takes. -/
theorem bitField_writeField_same {held v w : Nat} {f : Fld} (h : bitField w f.lo f.w = bitField held f.lo f.w) :
    bitField (writeField held v w f) f.lo f.w = f.taken held v := by
  have hlt := f.taken_lt held v
  unfold writeField
  unfold Fld.taken at hlt ⊢
  split <;> simp_all [bitField_setField_same, Nat.mod_eq_of_lt]

/-- A field in other bits keeps its value. -/
theorem bitField_writeField_disjoint {held v w : Nat} {f g : Fld} (h : f.Disjoint g) :
    bitField (writeField held v w g) f.lo f.w = bitField w f.lo f.w := by
  have key : ∀ x, bitField (setField w g.lo g.w x) f.lo f.w = bitField w f.lo f.w := by
    intro x
    rcases h with h | h
    · exact bitField_setField_below _ _ _ _ _ _ h
    · exact bitField_setField_above _ _ _ _ _ _ h
  unfold writeField
  split <;> simp only [key]

/-- A write of fields in other bits keeps a field. -/
theorem bitField_foldl_writeField_disjoint {held v : Nat} {f : Fld} (l : List Fld) :
    ∀ w : Nat, (∀ g ∈ l, f.Disjoint g) → bitField (l.foldl (writeField held v) w) f.lo f.w = bitField w f.lo f.w := by
  induction l with
  | nil => intro w _; rfl
  | cons g l ih =>
    intro w h
    rw [List.foldl_cons, ih _ fun x hx => h x (List.mem_cons_of_mem _ hx), bitField_writeField_disjoint (h g (List.mem_cons_self ..))]

/-- A write of fields in different bits gives each what it takes. -/
theorem bitField_foldl_writeField {held v : Nat} {f : Fld} (l : List Fld) :
    ∀ w : Nat, l.Pairwise Fld.Disjoint → f ∈ l → bitField w f.lo f.w = bitField held f.lo f.w →
      bitField (l.foldl (writeField held v) w) f.lo f.w = f.taken held v := by
  induction l with
  | nil => intro w _ hf; exact absurd hf (List.not_mem_nil)
  | cons g l ih =>
    intro w hp hf hw
    rw [List.pairwise_cons] at hp
    rw [List.foldl_cons]
    rcases List.mem_cons.1 hf with rfl | hf
    · rw [bitField_foldl_writeField_disjoint _ _ hp.1, bitField_writeField_same hw]
    · exact ih _ hp.2 hf ((bitField_writeField_disjoint (hp.1 f hf).symm).trans hw)

/-- A plain write gives each field of the register what its access type says. -/
theorem State.bitField_plainWrite (s : State) (t inst : Nat) {off : Nat} (v : Nat) (h : 0x40 ≤ off) {f : Fld} (hf : f ∈ fieldsAt t inst off) :
    bitField ((s.plainWrite t inst off v).rd t inst off) f.lo f.w = f.taken (s.rd t inst off) v := by
  rw [State.plainWrite_eq, State.rd_wr_same, bitField_word _ _ _ (fieldsAt_le_word h hf),
    bitField_foldl_writeField _ _ (fieldsAt_disjoint t inst h) hf rfl]

/-! ## The value that LOCK lets a write carry (R11) -/

/-- What a write carries: with LOCK set the RWL bits are those the register holds. -/
def writeUnderLock (t inst off held v : Nat) (locked : Bool) : Nat :=
  if locked then (v &&& (rwlMask t inst off ^^^ 0xFFFFFFFF)) ||| (held &&& rwlMask t inst off) else v

/-- The RWL bits of a register are the bits of its RWL fields. -/
theorem testBit_rwlMask (t inst off i : Nat) :
    (rwlMask t inst off).testBit i = true ↔ ∃ f ∈ fieldsAt t inst off, f.acc = .rwl ∧ f.lo ≤ i ∧ i < f.lo + f.w := by
  rw [rwlMask, testBit_foldl_fieldMask (fun f => f.acc = .rwl)]
  simp

/-- A field that is not RWL carries the value written. -/
theorem bitField_writeUnderLock_of_ne {t inst off held v : Nat} {locked : Bool} (h : 0x40 ≤ off) {f : Fld} (hf : f ∈ fieldsAt t inst off)
    (ha : f.acc ≠ .rwl) : bitField (writeUnderLock t inst off held v locked) f.lo f.w = bitField v f.lo f.w := by
  cases locked with
  | false => rfl
  | true =>
    refine bitField_congr fun i h1 h2 => ?_
    have hm : (rwlMask t inst off).testBit i = false := by
      rw [Bool.eq_false_iff, Ne, testBit_rwlMask]
      rintro ⟨g, hg, hga, hgi⟩
      exact ha (fieldsAt_eq_of_common_bit h hf hg ⟨h1, h2⟩ hgi ▸ hga)
    have hi : i < 32 := lt_of_lt_of_le h2 (fieldsAt_le_word h hf)
    simp [writeUnderLock, testBit_xor_word _ _ hi, hm]

/-- An RWL field carries what it holds while LOCK is set. -/
theorem bitField_writeUnderLock_rwl {t inst off held v : Nat} (h : 0x40 ≤ off) {f : Fld} (hf : f ∈ fieldsAt t inst off) (ha : f.acc = .rwl) :
    bitField (writeUnderLock t inst off held v true) f.lo f.w = bitField held f.lo f.w := by
  refine bitField_congr fun i h1 h2 => ?_
  have hm : (rwlMask t inst off).testBit i = true := (testBit_rwlMask ..).2 ⟨f, hf, ha, h1, h2⟩
  have hi : i < 32 := lt_of_lt_of_le h2 (fieldsAt_le_word h hf)
  simp [writeUnderLock, testBit_xor_word _ _ hi, hm]

/-- A write would change an RWL bit exactly where it would change an RWL field. -/
theorem and_rwlMask_ne_iff (t inst off held v : Nat) :
    v &&& rwlMask t inst off ≠ held &&& rwlMask t inst off ↔
      ∃ f ∈ fieldsAt t inst off, f.acc = .rwl ∧ bitField v f.lo f.w ≠ bitField held f.lo f.w := by
  constructor
  · intro h
    obtain ⟨i, hi⟩ := Nat.exists_testBit_ne_of_ne h
    rw [Nat.testBit_and, Nat.testBit_and] at hi
    have hm : (rwlMask t inst off).testBit i = true := by
      by_contra hm
      exact hi (by rw [Bool.not_eq_true] at hm; rw [hm, Bool.and_false, Bool.and_false])
    obtain ⟨f, hf, ha, h1, h2⟩ := (testBit_rwlMask ..).1 hm
    refine ⟨f, hf, ha, fun e => hi ?_⟩
    rw [testBit_eq_of_bitField_eq e h1 h2]
  · rintro ⟨f, hf, ha, hne⟩ e
    refine hne (bitField_congr fun i h1 h2 => ?_)
    have hm : (rwlMask t inst off).testBit i = true := (testBit_rwlMask ..).2 ⟨f, hf, ha, h1, h2⟩
    simpa [Nat.testBit_and, hm] using congrArg (fun n => n.testBit i) e

/-! ## The address of a register and the words of an access (R15, R493) -/

section
variable {t inst off : Nat}

/-- A unicast address decodes to the block type, page number and offset it was made of. -/
theorem regAddr_decode (ht : t < 64) (hi : inst < 128) (ho : off < 4096) :
    regAddr t inst off < 2 ^ 25 ∧ bitField (regAddr t inst off) 25 2 = 0 ∧ bitField (regAddr t inst off) 19 6 = t ∧
      bitField (regAddr t inst off) 12 7 = inst ∧ regAddr t inst off % 4096 = off := by
  unfold regAddr bitField
  omega

/-- A register at a multiple of four has a word address. -/
theorem regAddr_mod_four (h : off % 4 = 0) : regAddr t inst off % 4 = 0 := by
  unfold regAddr
  omega

theorem regAddr_add (k : Nat) : regAddr t inst off + k = regAddr t inst (off + k) := by
  unfold regAddr
  omega

/-- The reset value of a register is that of its page's table. -/
theorem regReset_regAddr (z : Fuse) (ht : t < 64) (hi : inst < 128) (ho : off < 4096) :
    regReset z (regAddr t inst off) =
      BitVec.ofNat 32 ((specialReset z t inst off).getD ((fieldsAt t inst off).foldl (fun acc f => acc + f.rst * 2 ^ f.lo) 0)) := by
  have e1 : regAddr t inst off / 524288 % 64 = t := by unfold regAddr; omega
  have e2 : regAddr t inst off / 4096 % 128 = inst := by unfold regAddr; omega
  have e3 : regAddr t inst off % 4096 = off := by unfold regAddr; omega
  unfold regReset
  dsimp only
  rw [e1, e2, e3]
  cases specialReset z t inst off <;> rfl

end

/-- An access inside one word touches that word. -/
theorem accessWords_within {a k size : Nat} (ha : a % 4 = 0) (h0 : 0 < size) (h4 : k + size ≤ 4) : accessWords (a + k) size = [(a, k, size)] := by
  have e1 : (a + k) % 4 = k := by omega
  have e2 : (k + size + 3) / 4 = 1 := by omega
  have e3 : (a + k) / 4 * 4 = a := by omega
  have e4 : min 4 (k + size) - k = size := by omega
  simp [accessWords, e1, e2, e3, e4, List.range_succ]

/-- An aligned access of 64 bits touches two words. -/
theorem accessWords_double {a : Nat} (ha : a % 4 = 0) : accessWords a 8 = [(a, 0, 4), (a + 4, 0, 4)] := by
  have e : a / 4 * 4 = a := by omega
  simp [accessWords, ha, e, List.range_succ]

namespace State

/-- A write inside one word is dropped where it is narrow, and else written. -/
theorem busWrite_within (s : State) (fn v : Nat) {a k size : Nat} (ha : a % 4 = 0) (h0 : 0 < size) (h4 : k + size ≤ 4) :
    s.busWrite fn (a + k) size v false =
      if size = 4 then s.write32 fn a (v % 2 ^ (8 * size) * 2 ^ (8 * k)) else s.dropWrite fn a 3 (v % 2 ^ (8 * size) * 2 ^ (8 * k)) := by
  simp [busWrite, accessWords_within ha h0 h4]

/-- A write of a word. -/
theorem busWrite_word (s : State) (fn : Nat) {a v : Nat} (ha : a % 4 = 0) (hv : v < 2 ^ 32) : s.busWrite fn a 4 v false = s.write32 fn a v := by
  have e := s.busWrite_within fn v (k := 0) (size := 4) ha (by omega) (by omega)
  rw [Nat.add_zero, if_pos rfl, Nat.mod_eq_of_lt hv, Nat.mul_zero, Nat.pow_zero, Nat.mul_one] at e
  exact e

/-- A poisoned write of a word is counted and reported, and dropped. -/
theorem busWrite_poisoned (s : State) (fn : Nat) {a v : Nat} (ha : a % 4 = 0) (hv : v < 2 ^ 32) :
    s.busWrite fn a 4 v true = ((s.finc F.PCIE_ERRCNT_POISONED 0).raise T.pcie 0 I.PCIE_POISONED).dropWrite fn a 7 v := by
  have e := accessWords_within (k := 0) (size := 4) ha (by omega) (by omega)
  rw [Nat.add_zero] at e
  have hv' : v / 2 ^ (8 * (a + 0 - a)) % 2 ^ (8 * 4) * 2 ^ (8 * 0) = v := by
    rw [Nat.add_zero, Nat.sub_self, Nat.mul_zero, Nat.pow_zero, Nat.div_one, Nat.mul_one, Nat.mod_eq_of_lt hv]
  simp only [busWrite, e, List.foldl_cons, List.foldl_nil, if_true, hv']

/-- A read inside one word returns the bytes addressed, with the effects of a read of the word. -/
theorem busRead_within (s : State) (fn : Nat) {a k size : Nat} (ha : a % 4 = 0) (h0 : 0 < size) (h4 : k + size ≤ 4) :
    s.busRead fn (a + k) size = ((s.read32 fn a).1, (s.read32 fn a).2 / 2 ^ (8 * k) % 2 ^ (8 * size)) := by
  simp [busRead, accessWords_within ha h0 h4]

/-- A read of a word. -/
theorem busRead_word (s : State) (fn : Nat) {a : Nat} (ha : a % 4 = 0) : s.busRead fn a 4 = ((s.read32 fn a).1, (s.read32 fn a).2 % 2 ^ 32) := by
  have e := s.busRead_within fn (k := 0) (size := 4) ha (by omega) (by omega)
  rwa [Nat.add_zero, Nat.mul_zero, Nat.pow_zero, Nat.div_one] at e

/-- A read of 64 bits reads the word and then the next one. -/
theorem busRead_double (s : State) (fn : Nat) {a : Nat} (ha : a % 4 = 0) :
    s.busRead fn a 8 = (((s.read32 fn a).1.read32 fn (a + 4)).1,
      (s.read32 fn a).2 % 2 ^ 32 + ((s.read32 fn a).1.read32 fn (a + 4)).2 % 2 ^ 32 * 2 ^ 32) := by
  simp [busRead, accessWords_double ha]

/-! ## Requests that are taken up (R489, R496) -/

theorem request_open {s : State} {fn : Nat} (h : s.gate fn = .open') (a size v : Nat) (p : Bool) :
    s.request fn a size v p = s.busWrite fn a size v p := by rw [request, h]

theorem readRequest_open {s : State} {fn : Nat} (h : s.gate fn = .open') (a size : Nat) :
    s.readRequest fn a size = (s.busRead fn a size).1.emit (.readData fn a (s.busRead fn a size).2) := by rw [readRequest, h]

/-- A request while the gate is silent changes nothing. -/
theorem requests_silent {s : State} {fn : Nat} (h : s.gate fn = .silent) (a size v : Nat) (p : Bool) :
    s.request fn a size v p = s ∧ s.readRequest fn a size = s := by
  rw [request, readRequest, h]
  exact ⟨rfl, rfl⟩

/-- A request that the gate refuses is an Unsupported Request. -/
theorem requests_unsupported {s : State} {fn : Nat} (h : s.gate fn = .unsupported) (a size v : Nat) (p : Bool) :
    s.request fn a size v p = s.unsupportedReq fn a ∧ s.readRequest fn a size = s.unsupportedReq fn a := by
  rw [request, readRequest, h]
  exact ⟨rfl, rfl⟩

/-- The role of a mill depends on its MILL_ROLE and the fuses. -/
theorem role_congr {s u : State} (hf : u.fuse = s.fuse) {m : Nat} (hm : u.rd T.mill m 0x48 = s.rd T.mill m 0x48) : u.role m = s.role m := by
  simp only [role, hf]
  exact if_congr Iff.rfl (congrArg (bitField · 0 4) hm) rfl

theorem frozen_congr {s u : State} (hf : u.fuse = s.fuse) (t : Nat) {m : Nat} (hm : u.rd T.mill m 0x48 = s.rd T.mill m 0x48) :
    u.frozen t m = s.frozen t m := by rw [frozen, frozen, role_congr hf hm]

/-- The view of a function depends on the roles, TRUST_STAT and the fuses (R495). -/
theorem sees_congr {s u : State} (hf : u.fuse = s.fuse) (hm : ∀ m, u.rd T.mill m 0x48 = s.rd T.mill m 0x48)
    (ht : u.rd T.trust 0 0x40 = s.rd T.trust 0 0x40) (fn t inst : Nat) : u.sees fn t inst = s.sees fn t inst := by
  have e1 : ∀ m, u.fget F.MILL_ROLE_POLDER m = s.fget F.MILL_ROLE_POLDER m := fun m => congrArg (bitField · 8 4) (hm m)
  have e2 : u.fget F.TRUST_STAT_STATE 0 = s.fget F.TRUST_STAT_STATE 0 := congrArg (bitField · 0 3) ht
  simp only [sees, inVfView, millInView, member, role_congr hf (hm _), e1, e2, hf]

end State

/-! ## Unicast accesses to a page in the view of a function (R493, R495) -/

section
variable {s : State} {fn a i : Nat}

/-- A unicast read of a page: that of the page's register. -/
theorem State.read32_of_reach (hr : s.reach fn a = .pages [i] true) (hd : bitField a 19 6 = T.device → fn = 0 ∨ fn = 16) :
    s.read32 fn a = s.pageRead fn a (bitField a 19 6) i (a % 4096) := by
  have hide : ¬(bitField a 19 6 = T.device ∧ fn ≠ 0 ∧ fn ≠ 16 ∧ a % 4096 ≠ 0x40) := fun ⟨h1, h2, h3, _⟩ => (hd h1).elim h2 h3
  simp only [State.read32, hr, decide_eq_false hide, Bool.false_eq_true, if_false]

/-- A unicast write to a page: that of the page's register. -/
theorem State.write32_of_reach (hr : s.reach fn a = .pages [i] true) (v : Nat) :
    s.write32 fn a v = s.reachWrite fn a (bitField a 19 6) i (a % 4096) v true := by
  simp only [State.write32, hr, List.foldl_cons, List.foldl_nil]

/-- A dropped unicast write is logged in the page, a frozen mill's in its ROW page, and nowhere where there is no register. -/
theorem State.dropWrite_of_reach (hr : s.reach fn a = .pages [i] true) (hd : bitField a 19 6 = T.device → fn = 0 ∨ fn = 16) (kind v : Nat) :
    s.dropWrite fn a kind v =
      if s.frozen (bitField a 19 6) i then s.logErr T.row (rowOf i) kind fn a v
      else if s.noRegs (bitField a 19 6) i (a % 4096) then s
      else (s.logErr (bitField a 19 6) i kind fn a v).afterDrop (bitField a 19 6) i (a % 4096) := by
  have hide : ¬(bitField a 19 6 = T.device ∧ fn ≠ 0 ∧ fn ≠ 16) := fun ⟨h1, h2, h3⟩ => (hd h1).elim h2 h3
  simp only [State.dropWrite, hr, if_neg hide]

end

section
variable {s : State} {fn t inst off : Nat}

theorem State.reach_page (ht : t < 64) (hi : inst < 128) (ho : off < 4096) (hs : s.sees fn t inst = true) :
    s.reach fn (regAddr t inst off) = .pages [inst] true := by
  obtain ⟨d1, d2, d3, d4, -⟩ := regAddr_decode ht hi ho
  generalize regAddr t inst off = a at d1 d2 d3 d4
  simp only [State.reach, d2, d3, d4, hs, if_true, if_neg (show ¬2 ^ 27 ≤ a by omega)]

/-- A unicast read of a page that the reader reaches. -/
theorem State.read32_page (h : Reaches s fn t inst) (ho : off < 4096) (hd : t = T.device → fn = 0 ∨ fn = 16) :
    s.read32 fn (regAddr t inst off) = s.pageRead fn (regAddr t inst off) t inst off := by
  obtain ⟨-, -, ht, hi, hs⟩ := h
  obtain ⟨-, -, d3, -, d5⟩ := regAddr_decode ht hi ho
  rw [State.read32_of_reach (State.reach_page ht hi ho hs) (by rw [d3]; exact hd), d3, d5]

/-- A unicast write to a page that the writer reaches. -/
theorem State.write32_page (h : Reaches s fn t inst) (ho : off < 4096) (v : Nat) :
    s.write32 fn (regAddr t inst off) v = s.reachWrite fn (regAddr t inst off) t inst off v true := by
  obtain ⟨-, -, ht, hi, hs⟩ := h
  obtain ⟨-, -, d3, -, d5⟩ := regAddr_decode ht hi ho
  rw [State.write32_of_reach (State.reach_page ht hi ho hs), d3, d5]

/-- A dropped unicast write to a page that the writer sees. -/
theorem State.dropWrite_page (ht : t < 64) (hi : inst < 128) (hs : s.sees fn t inst = true) (ho : off < 4096)
    (hd : t = T.device → fn = 0 ∨ fn = 16) (kind v : Nat) :
    s.dropWrite fn (regAddr t inst off) kind v =
      if s.frozen t inst then s.logErr T.row (rowOf inst) kind fn (regAddr t inst off) v
      else if s.noRegs t inst off then s
      else (s.logErr t inst kind fn (regAddr t inst off) v).afterDrop t inst off := by
  obtain ⟨-, -, d3, -, d5⟩ := regAddr_decode ht hi ho
  rw [State.dropWrite_of_reach (State.reach_page ht hi ho hs) (by rw [d3]; exact hd), d3, d5]

end

/-! ## What a register of a page reads (R11, R13, R16) -/

namespace State

/-- The registers that report what the block does not hold are stones' PCs and status registers of MGMAC, SERDES, I2CM and SMBT. -/
theorem openBits_eq_zero (s : State) {t inst off : Nat} (hm : t = T.mill → ¬(0x100 ≤ off ∧ off < 0x200))
    (hs : t ∈ [T.mgmac, T.serdes, T.i2cm, T.smbt] → off ∉ [0x44, 0x4C, 0x50, 0x54]) : s.openBits t inst off = 0 := by
  unfold openBits
  split
  · exact if_neg fun h => hm rfl ⟨h.1, h.2.1⟩
  iterate 7 exact absurd (by decide) (hs (by decide))
  rfl

/-- A register beyond the header that is a pair's reads the pair's low half, or the reader's latch. -/
theorem peekHeld_pair {s : State} {fn t inst off i : Nat} {c : Ctr} {hi : Bool} (ho : 0x40 ≤ off) (hn : s.noRegs t inst off = false)
    (hp : s.pairAt t off = some (c, i, hi)) :
    s.peekHeld fn t inst off = if hi then (Tab.get (fun _ => (0 : Word)) s.latch (latchKey fn t inst off)).toNat else s.cget c inst i % 2 ^ 32 := by
  unfold peekHeld
  rw [hn, if_neg Bool.false_ne_true]
  split
  iterate 5 omega
  rw [hp]

/-- A register beyond the header that is no pair's and shows no live state reads what it holds. -/
theorem peekHeld_plain {s : State} {fn t inst off : Nat} (ho : 0x40 ≤ off) (hn : s.noRegs t inst off = false) (hp : s.pairAt t off = none)
    (hl : s.live fn t inst off = none) : s.peekHeld fn t inst off = s.plain t inst off := by
  unfold peekHeld
  rw [hn, if_neg Bool.false_ne_true]
  split
  iterate 5 omega
  rw [hp, hl]
  rfl

theorem peek_of_openBits {s : State} {fn t inst off : Nat} (h : s.openBits t inst off = 0) : s.peek fn t inst off = s.peekHeld fn t inst off := by
  simp only [peek, h, if_true]

theorem pageValue_of_not_agg {s : State} {fn t inst off : Nat} (h : ¬((t = T.row ∨ t = T.half) ∧ aggRead off = true)) :
    s.pageValue fn t inst off = s.peek fn t inst off := by rw [pageValue, if_neg h]

end State

/-! ## Pairs (R14) -/

theorem ctrsOf_place : ∀ t < 64, ∀ c ∈ ctrsOf t, c.t = t ∧ 0x40 ≤ c.off ∧ c.off + 4 < 4096 ∧ c.off % 4 = 0 := by decide

/-- A pair is found at its low and at its high register. -/
theorem ctrsOf_find : ∀ t < 64, ∀ c ∈ ctrsOf t, (ctrsOf t).find? (fun e => e.off == c.off || e.off + 4 == c.off) = some c ∧
    (ctrsOf t).find? (fun e => e.off == c.off + 4 || e.off + 4 == c.off + 4) = some c := by decide

/-- No pair lies in the DEVICE page, among an aggregate's mirrored registers, or among those of free values. -/
theorem ctrsOf_apart : ∀ t < 64, ∀ c ∈ ctrsOf t, t ≠ T.device ∧ (t = T.row ∨ t = T.half → aggRead c.off = false ∧ aggRead (c.off + 4) = false) ∧
    (t = T.mill → ¬(0x100 ≤ c.off + 4 ∧ c.off + 4 < 0x200)) ∧ t ∉ [T.mgmac, T.serdes, T.i2cm, T.smbt] := by decide

/-- The copy of a page's pairs that its pair registers show: the SPILL pairs are those of the polder that SPILL_SEL names (R352). -/
def State.pairCopy (s : State) (t : Nat) : Nat := if t = T.queue then s.fget F.SPILL_SEL_POLDER 0 else 0

theorem noRegs_beyond_header (s : State) {t inst off off' : Nat} (h : 0x40 ≤ off) (h' : 0x40 ≤ off') : s.noRegs t inst off = s.noRegs t inst off' := by
  simp only [State.noRegs, decide_eq_true h, decide_eq_true h']

section
variable {s : State} {fn t inst : Nat} {c : Ctr}

theorem State.pairAt_low (ht : t < 64) (hc : c ∈ ctrsOf t) : s.pairAt t c.off = some (c, s.pairCopy t, false) := by
  rw [State.pairAt, (ctrsOf_find t ht c hc).1]
  simp [State.pairCopy]

theorem State.pairAt_high (ht : t < 64) (hc : c ∈ ctrsOf t) : s.pairAt t (c.off + 4) = some (c, s.pairCopy t, true) := by
  rw [State.pairAt, (ctrsOf_find t ht c hc).2]
  simp [State.pairCopy]

/-- A unicast read of a pair's low register is the pair's read. -/
theorem State.read32_pair_low (h : Reaches s fn t inst) (hc : c ∈ ctrsOf t) (hn : s.noRegs t inst c.off = false) :
    s.read32 fn (regAddr t inst c.off) = s.pairRead fn t inst c.off c (s.pairCopy t) (!s.frozen t inst) := by
  have ht := h.2.2.1
  obtain ⟨-, -, hoff, -⟩ := ctrsOf_place t ht c hc
  obtain ⟨hd, hagg, -, -⟩ := ctrsOf_apart t ht c hc
  have hna : ¬((t = T.row ∨ t = T.half) ∧ aggRead c.off = true) := fun ⟨h1, h2⟩ => by simp [(hagg h1).1] at h2
  rw [State.read32_page h (by omega) fun e => absurd e hd]
  simp [State.pageRead, hn, hna, State.pairAt_low ht hc]

/-- A unicast read of a pair's high register is the reader's latch, with no effect. -/
theorem State.read32_pair_high (h : Reaches s fn t inst) (hc : c ∈ ctrsOf t) (hn : s.noRegs t inst c.off = false) :
    s.read32 fn (regAddr t inst (c.off + 4)) = (s, (Tab.get (fun _ => (0 : Word)) s.latch (latchKey fn t inst (c.off + 4))).toNat) := by
  have ht := h.2.2.1
  obtain ⟨-, h40, hoff, -⟩ := ctrsOf_place t ht c hc
  obtain ⟨hd, hagg, hmill, hopen⟩ := ctrsOf_apart t ht c hc
  have hna : ¬((t = T.row ∨ t = T.half) ∧ aggRead (c.off + 4) = true) := fun ⟨h1, h2⟩ => by simp [(hagg h1).2] at h2
  have hn' : s.noRegs t inst (c.off + 4) = false := by rw [noRegs_beyond_header s (by omega) h40, hn]
  have hv : s.pageValue fn t inst (c.off + 4) = (Tab.get (fun _ => (0 : Word)) s.latch (latchKey fn t inst (c.off + 4))).toNat := by
    rw [State.pageValue_of_not_agg hna, State.peek_of_openBits (s.openBits_eq_zero hmill fun h => absurd h hopen),
      State.peekHeld_pair (by omega) hn' (State.pairAt_high ht hc), if_pos rfl]
  rw [State.read32_page h hoff fun e => absurd e hd]
  simp [State.pageRead, hn', hna, State.pairAt_high ht hc, hv]

end

/-- What a read of a pair's low register leaves: the reader's latch, and an RC pair cleared. -/
theorem State.pairRead_eq (s : State) (fn t inst off : Nat) (c : Ctr) (i : Nat) (clear : Bool) :
    s.pairRead fn t inst off c i clear =
      ({ s with
          latch := Tab.set (fun _ => (0 : Word)) s.latch (latchKey fn t inst (off + 4)) (BitVec.ofNat 32 (s.cget c inst i / 2 ^ 32)),
          ctrs := if c.rc && clear then (s.cset c inst 0 i).ctrs else s.ctrs }, s.cget c inst i % 2 ^ 32) := by
  unfold State.pairRead
  cases c.rc && clear <;> rfl

theorem State.cget_lt (s : State) (c : Ctr) (i idx : Nat) : s.cget c i idx < 2 ^ 64 :=
  (Tab.get (fun _ => (0 : BitVec 64)) s.ctrs (regAddr c.t i (c.off + 2048 * idx))).isLt

/-- The high half of a pair fits a latch. -/
theorem State.toNat_high_half (s : State) (c : Ctr) (i idx : Nat) : (BitVec.ofNat 32 (s.cget c i idx / 2 ^ 32)).toNat = s.cget c i idx / 2 ^ 32 := by
  have := s.cget_lt c i idx
  rw [BitVec.toNat_ofNat]
  omega

/-- The pairs after a read that clears, or does not. -/
theorem SameCtrsBut.pairRead (s : State) (fn t inst off : Nat) (c : Ctr) (i : Nat) (clear : Bool) :
    SameCtrsBut s (s.pairRead fn t inst off c i clear).1 [regAddr c.t inst (c.off + 2048 * i)] := by
  rw [State.pairRead_eq]
  cases c.rc && clear
  · exact SameCtrsBut.refl _ _
  · exact (SameCtrsBut.cset c inst 0 i (List.mem_singleton.2 rfl) (SameCtrsBut.refl s _)).keep rfl

theorem State.cget_pairRead (s : State) (fn t inst off : Nat) (c : Ctr) (i : Nat) (clear : Bool) :
    (s.pairRead fn t inst off c i clear).1.cget c inst i = if c.rc && clear then 0 else s.cget c inst i := by
  rw [State.pairRead_eq]
  cases c.rc && clear
  · rfl
  · exact s.cget_cset_same c inst 0 i

section
variable {s : State} {fn t inst i v a : Nat} {c : Ctr}

/-- The gate and the view are as before after a pair's read. -/
theorem Reaches.pairRead (h : Reaches s fn t inst) (fn' t' inst' off : Nat) (c : Ctr) (i : Nat) (clear : Bool) :
    Reaches (s.pairRead fn' t' inst' off c i clear).1 fn t inst := by
  rw [State.pairRead_eq]
  exact h

/-- A read of 32 bits of a pair's low register returns the low half and latches the high half for its reader alone; the high register then reads
the latch (R14). -/
theorem latchedPairRead_effect (h : Reaches s fn t inst) (hc : c ∈ ctrsOf t) (hn : s.noRegs t inst c.off = false) (hi : i = s.pairCopy t)
    (hv : v = s.cget c inst i) (ha : a = regAddr t inst c.off) :
    ∃ u, exec (.latchedPairRead fn a) s = .next u ∧ u.out = s.out ++ [.readData fn a (v % 2 ^ 32)] ∧
      (Tab.get (fun _ => (0 : Word)) u.latch (latchKey fn t inst (c.off + 4))).toNat = v / 2 ^ 32 ∧
      (∀ k, k ≠ latchKey fn t inst (c.off + 4) → Tab.get (fun _ => (0 : Word)) u.latch k = Tab.get (fun _ => (0 : Word)) s.latch k) ∧
      u.cget c inst i = (if c.rc && !s.frozen t inst then 0 else v) ∧ SameCtrsBut s u [regAddr t inst (c.off + 2048 * i)] ∧
      u = { s with latch := u.latch, ctrs := u.ctrs, out := u.out } ∧
      exec (.readClear fn (a + 4) 4) u = .next (u.emit (.readData fn (a + 4) (v / 2 ^ 32))) := by
  obtain ⟨hct, -, -, h4⟩ := ctrsOf_place t h.2.2.1 c hc
  have ha4 : a % 4 = 0 := ha ▸ regAddr_mod_four h4
  have hlo := s.toNat_high_half c inst i
  have hgate := h.2.1
  have hread := State.read32_pair_low h hc hn
  rw [← ha, ← hi] at hread
  have h' : Reaches ((s.pairRead fn t inst c.off c i (!s.frozen t inst)).1.emit (.readData fn a (v % 2 ^ 32))) fn t inst := h.pairRead ..
  refine ⟨(s.pairRead fn t inst c.off c i (!s.frozen t inst)).1.emit (.readData fn a (v % 2 ^ 32)), ?_, ?_, ?_, ?_, ?_, ?_, ?_, ?_⟩
  · show Host.Outcome.next (s.readRequest fn a 4) = _
    rw [State.readRequest_open hgate, State.busRead_word s fn ha4, hread, State.pairRead_eq, hv, Nat.mod_mod]
  · rw [State.pairRead_eq]; rfl
  · rw [State.pairRead_eq]
    simp only [State.emit_latch, Tab.get_set_same, hlo, hv]
  · intro k hk
    rw [State.pairRead_eq]
    exact Tab.get_set_ne _ _ hk
  · rw [hv]
    exact s.cget_pairRead fn t inst c.off c i _
  · rw [← hct]
    exact (SameCtrsBut.pairRead s fn c.t inst c.off c i _).keep rfl
  · rw [State.pairRead_eq]; rfl
  · have hhigh := State.read32_pair_high h' hc (by rw [← hn, State.pairRead_eq]; rfl)
    have hval : (Tab.get (fun _ => (0 : Word)) (s.pairRead fn t inst c.off c i (!s.frozen t inst)).1.latch (latchKey fn t inst (c.off + 4))).toNat =
        v / 2 ^ 32 := by
      rw [State.pairRead_eq]
      simp only [Tab.get_set_same, hlo, hv]
    have haddr : a + 4 = regAddr t inst (c.off + 4) := by rw [ha, regAddr_add]
    rw [State.emit_latch, hval, ← haddr] at hhigh
    show Host.Outcome.next (State.readRequest _ fn (a + 4) 4) = _
    have hlt : v / 2 ^ 32 < 2 ^ 32 := by have := s.cget_lt c inst i; omega
    rw [State.readRequest_open h'.2.1, State.busRead_word _ fn (by omega), hhigh, Nat.mod_eq_of_lt hlt]

/-- A read of 64 bits at a pair returns the whole pair (R14). -/
theorem readClear_pair_double (h : Reaches s fn t inst) (hc : c ∈ ctrsOf t) (hn : s.noRegs t inst c.off = false) (hi : i = s.pairCopy t)
    (hv : v = s.cget c inst i) (ha : a = regAddr t inst c.off) :
    ∃ u : State, exec (.readClear fn a 8) s = .next u ∧ u.out = s.out ++ [.readData fn a v] := by
  obtain ⟨-, -, -, h4⟩ := ctrsOf_place t h.2.2.1 c hc
  have ha4 : a % 4 = 0 := ha ▸ regAddr_mod_four h4
  have hread := State.read32_pair_low h hc hn
  rw [← ha, ← hi] at hread
  have hhigh := State.read32_pair_high (h.pairRead fn t inst c.off c i (!s.frozen t inst)) hc (by rw [← hn, State.pairRead_eq]; rfl)
  have haddr : a + 4 = regAddr t inst (c.off + 4) := by rw [ha, regAddr_add]
  rw [← haddr] at hhigh
  refine ⟨_, rfl, ?_⟩
  have hval : s.cget c inst i % 2 ^ 32 % 2 ^ 32 + s.cget c inst i / 2 ^ 32 % 2 ^ 32 * 2 ^ 32 = v := by
    have := s.cget_lt c inst i
    omega
  rw [State.readRequest_open h.2.1, State.busRead_double s fn ha4, hread, hhigh, State.pairRead_eq]
  simp only [State.emit_out, Tab.get_set_same, s.toNat_high_half c inst i, hval]

end

/-! ## Counters that fill a word and are cleared by a read (R11) -/

/-- Whole-word RC counters, one of each page that has them. -/
def wordCounters : List Fld := [F.RX_FCS_ERR_COUNT, F.SERDES_FEC_CORR_COUNT, F.SLUICE_DEFER_COUNT, F.MG_TX_FRAMES_COUNT, F.SCRUB_POISON_COUNT]

theorem wordCounters_place : ∀ f ∈ wordCounters, f.t < 64 ∧ 0x40 ≤ f.off ∧ f.off < 4096 ∧ f.off % 4 = 0 ∧
    f.t ∉ [T.device, T.mill, T.row, T.half, T.miller] := by decide

theorem wordCounters_shape : ∀ f ∈ wordCounters, f.lo = 0 ∧ f.w = 32 ∧ f.acc = .rc ∧ f.rst = 0 := by decide

/-- A register's fields are those of the type's page 0 or, alike, of every other page. -/
theorem fieldsAt_of_ne_zero (t : Nat) {inst : Nat} (off : Nat) (h : inst ≠ 0) : fieldsAt t inst off = fieldsAt t 1 off := by
  have h0 : (inst == 0) = false := by simp [h]
  have h1 : (inst != 0) = true := by simp [h]
  simp [fieldsAt, h, h0, h1]

/-- A whole-word counter is the one field of its register. -/
theorem fieldsAt_wordCounter {f : Fld} (hf : f ∈ wordCounters) (inst : Nat) : fieldsAt f.t inst f.off = [f] := by
  have key : ∀ f ∈ wordCounters, fieldsAt f.t 0 f.off = [f] ∧ fieldsAt f.t 1 f.off = [f] := by decide
  by_cases h : inst = 0
  · rw [h, (key f hf).1]
  · rw [fieldsAt_of_ne_zero _ _ h, (key f hf).2]

section
variable {s : State} {fn inst : Nat} {f : Fld}

/-- No pair, live value or window lies at a whole-word counter. -/
theorem State.pairAt_wordCounter (s : State) (hf : f ∈ wordCounters) : s.pairAt f.t f.off = none := by
  have key : ∀ f ∈ wordCounters, (ctrsOf f.t).find? (fun c => c.off == f.off || c.off + 4 == f.off) = none := by decide
  rw [State.pairAt, key f hf]

theorem State.live_wordCounter (s : State) (hf : f ∈ wordCounters) (fn inst : Nat) : s.live fn f.t inst f.off = none := by
  simp only [wordCounters, List.mem_cons, List.not_mem_nil, or_false] at hf
  rcases hf with rfl | rfl | rfl | rfl | rfl <;> rfl

theorem State.noRegs_wordCounter (s : State) (hf : f ∈ wordCounters) (inst : Nat) : s.noRegs f.t inst f.off = false := by
  have h : f.t ≠ T.miller := fun e => (wordCounters_place f hf).2.2.2.2 (by simp [e])
  simp [State.noRegs, h]

theorem not_agg_wordCounter (hf : f ∈ wordCounters) : ¬((f.t = T.row ∨ f.t = T.half) ∧ aggRead f.off = true) := by
  obtain ⟨-, -, -, -, hp⟩ := wordCounters_place f hf
  rintro ⟨h | h, -⟩ <;> exact hp (by simp [h])

/-- A read of a whole-word counter's register clears its RC fields. -/
theorem State.pageRead_wordCounter (s : State) (hf : f ∈ wordCounters) (fn a inst : Nat) :
    s.pageRead fn a f.t inst f.off =
      ((if s.openBits f.t inst f.off = 0 then s else s.takeFree.2).clearRc f.t inst f.off, s.peek fn f.t inst f.off) := by
  have hp := s.pairAt_wordCounter hf
  have hn := s.noRegs_wordCounter hf inst
  have hv := State.pageValue_of_not_agg (s := s) (fn := fn) (inst := inst) (not_agg_wordCounter hf)
  have hz : s.frozen f.t inst = false := by
    have h : f.t ≠ T.mill := fun e => (wordCounters_place f hf).2.2.2.2 (by simp [e])
    simp [State.frozen, h]
  unfold State.pageRead
  simp only [hn, not_agg_wordCounter hf, hp, hz, hv, Bool.false_eq_true, or_self, if_false]
  simp only [wordCounters, List.mem_cons, List.not_mem_nil, or_false] at hf
  rcases hf with rfl | rfl | rfl | rfl | rfl <;> rfl

/-- Clearing a whole-word counter sets it to zero. -/
theorem State.clearRc_wordCounter (s : State) (hf : f ∈ wordCounters) (hi : inst < 128) : s.clearRc f.t inst f.off = s.fset f inst 0 := by
  obtain ⟨ht, -, ho, -, -⟩ := wordCounters_place f hf
  obtain ⟨hlo, hw, hacc, hrst⟩ := wordCounters_shape f hf
  have hmask : rcMask f.t inst f.off = 0xFFFFFFFF := by
    rw [rcMask, fieldsAt_wordCounter hf]
    simp [hacc, hlo, hw]
  have hspecial : specialReset s.fuse f.t inst f.off = none := by
    simp only [wordCounters, List.mem_cons, List.not_mem_nil, or_false] at hf
    rcases hf with rfl | rfl | rfl | rfl | rfl <;> rfl
  have hreset : regReset s.fuse (regAddr f.t inst f.off) = 0 := by
    rw [regReset_regAddr _ ht hi ho, hspecial]
    simp [fieldsAt_wordCounter hf, hrst]
  have hset : setField (s.rd f.t inst f.off) f.lo f.w 0 = 0 := by
    have h := s.rd_lt f.t inst f.off
    rw [hlo, hw, setField, bitField_word_self h]
    omega
  simp only [State.clearRc, State.fset, hmask, hreset, Nat.zero_mul, Nat.add_zero, hset]
  rw [if_neg (by decide), Nat.xor_self, Nat.and_zero]
  rfl

theorem State.fget_wordCounter (s : State) (hf : f ∈ wordCounters) (inst : Nat) : s.fget f inst = s.rd f.t inst f.off := by
  obtain ⟨hlo, hw, -, -⟩ := wordCounters_shape f hf
  rw [State.fget, Nat.zero_mul, Nat.add_zero, hlo, hw, bitField_word_self (s.rd_lt ..)]

/-- A whole-word counter reads its count. -/
theorem State.peek_wordCounter (s : State) (hf : f ∈ wordCounters) (fn inst : Nat) (h : s.openBits f.t inst f.off = 0) :
    s.peek fn f.t inst f.off = s.fget f inst := by
  obtain ⟨hlo, hw, hacc, -⟩ := wordCounters_shape f hf
  have hmask : readMask f.t inst f.off = 2 ^ 32 - 1 := by
    rw [readMask, fieldsAt_wordCounter hf]
    simp [hacc, hlo, hw]
  rw [State.peek_of_openBits h, State.peekHeld_plain (wordCounters_place f hf).2.1 (s.noRegs_wordCounter hf inst) (s.pairAt_wordCounter hf)
    (s.live_wordCounter hf fn inst), State.plain, hmask, Nat.and_two_pow_sub_one_eq_mod, Nat.mod_eq_of_lt (s.rd_lt ..), s.fget_wordCounter hf]

/-- Only a running lane's counter of line errors reads a free value (log entry 335). -/
theorem State.openBits_wordCounter (s : State) (hf : f ∈ wordCounters) (inst : Nat)
    (hrun : f = F.SERDES_FEC_CORR_COUNT → s.fbit F.SERDES_CTRL_EN inst = false) : s.openBits f.t inst f.off = 0 := by
  by_cases h : f = F.SERDES_FEC_CORR_COUNT
  · have e : s.openBits T.serdes inst 0x4C = if s.fbit F.SERDES_CTRL_EN inst then 0xFFFFFFFF else 0 := rfl
    rw [h]
    exact e.trans (by rw [hrun h]; rfl)
  · have key : ∀ f ∈ wordCounters, f ≠ F.SERDES_FEC_CORR_COUNT → (f.t = T.mill → ¬(0x100 ≤ f.off ∧ f.off < 0x200)) ∧
        (f.t ∈ [T.mgmac, T.serdes, T.i2cm, T.smbt] → f.off ∉ [0x44, 0x4C, 0x50, 0x54]) := by decide
    exact s.openBits_eq_zero (key f hf h).1 (key f hf h).2

/-- A read of any bytes of a whole-word counter returns them and clears the counter (R11, R15). -/
theorem readClear_wordCounter {a k size : Nat} (hf : f ∈ wordCounters) (h : Reaches s fn f.t inst) (ha : a = regAddr f.t inst f.off) (h0 : 0 < size)
    (h4 : k + size ≤ 4) (hrun : f = F.SERDES_FEC_CORR_COUNT → s.fbit F.SERDES_CTRL_EN inst = false) :
    exec (.readClear fn (a + k) size) s = .next ((s.fset f inst 0).emit (.readData fn (a + k) (s.fget f inst / 2 ^ (8 * k) % 2 ^ (8 * size)))) := by
  obtain ⟨-, -, ho, h4', hp⟩ := wordCounters_place f hf
  have hopen := s.openBits_wordCounter hf inst hrun
  have hread : s.read32 fn a = (s.fset f inst 0, s.fget f inst) := by
    rw [ha, State.read32_page h ho fun e => absurd (by simp [e]) hp, s.pageRead_wordCounter hf, if_pos hopen, s.clearRc_wordCounter hf h.2.2.2.1,
      s.peek_wordCounter hf fn inst hopen]
  show Host.Outcome.next (s.readRequest fn (a + k) size) = _
  rw [State.readRequest_open h.2.1, s.busRead_within fn (ha ▸ regAddr_mod_four h4') h0 h4, hread]

/-- A read of the count of line errors of a running lane returns a free value and clears the counter (log entry 335). -/
theorem readClear_lineErrors {a lane : Nat} (h : Reaches s fn T.serdes lane) (ha : a = regAddr T.serdes lane F.SERDES_FEC_CORR_COUNT.off)
    (hrun : s.fbit F.SERDES_CTRL_EN lane = true) :
    ∃ (u : State) (v : Nat), exec (.readClear fn a 4) s = .next u ∧ v < 2 ^ 32 ∧ u.out = s.out ++ [.readData fn a v] ∧ u.fresh = s.fresh + 1 ∧
      u.fget F.SERDES_FEC_CORR_COUNT lane = 0 ∧ SameRegsBut s u [a] ∧ u = { s with regs := u.regs, out := u.out, fresh := u.fresh } := by
  have hf : F.SERDES_FEC_CORR_COUNT ∈ wordCounters := by decide
  have hopen : s.openBits T.serdes lane F.SERDES_FEC_CORR_COUNT.off = 0xFFFFFFFF := by
    have e : s.openBits T.serdes lane 0x4C = if s.fbit F.SERDES_CTRL_EN lane then 0xFFFFFFFF else 0 := rfl
    rw [hrun] at e
    exact e
  have hread : s.read32 fn a = (s.takeFree.2.fset F.SERDES_FEC_CORR_COUNT lane 0, s.peek fn T.serdes lane F.SERDES_FEC_CORR_COUNT.off) := by
    have e := s.pageRead_wordCounter hf fn a lane
    rw [if_neg (by rw [show s.openBits F.SERDES_FEC_CORR_COUNT.t lane F.SERDES_FEC_CORR_COUNT.off = 0xFFFFFFFF from hopen]; decide),
      State.clearRc_wordCounter _ hf h.2.2.2.1] at e
    rw [ha]
    exact (State.read32_page h (by decide) fun e => absurd e (by decide)).trans (ha ▸ e)
  refine ⟨_, s.peek fn T.serdes lane F.SERDES_FEC_CORR_COUNT.off % 2 ^ 32, rfl, Nat.mod_lt _ (by decide), ?_⟩
  have hbus : s.readRequest fn a 4 =
      (s.takeFree.2.fset F.SERDES_FEC_CORR_COUNT lane 0).emit (.readData fn a (s.peek fn T.serdes lane F.SERDES_FEC_CORR_COUNT.off % 2 ^ 32)) := by
    rw [State.readRequest_open h.2.1, s.busRead_word fn (ha ▸ regAddr_mod_four (by decide)), hread]
  rw [hbus]
  refine ⟨rfl, rfl, ?_, ?_, rfl⟩
  · rw [State.emit_fget, State.fget_fset_same _ _ _ _ _ (by decide), Nat.zero_mod]
  · exact ((SameRegsBut.refl s [a]).keep (u := s.takeFree.2) rfl rfl).fset F.SERDES_FEC_CORR_COUNT lane 0 0 (by rw [ha]; exact List.mem_singleton.2 rfl)
      |>.keep rfl rfl

end

/-! ## Group and broadcast reads (R13, R494) -/

section
variable {s : State} {fn t a : Nat}

/-- The members of a group or broadcast access: the pages in view, of the group that a group access names. -/
def State.accessMembers (s : State) (fn t a : Nat) : List Nat :=
  (List.range (instances t)).filter fun m => s.sees fn t m && (bitField a 25 2 != 1 || s.inGroup t m (bitField a 12 7))

theorem State.reach_members (ha : a < 2 ^ 27) (ht : t = bitField a 19 6) (hm : bitField a 25 2 = 1 ∨ bitField a 25 2 = 2) :
    s.reach fn a = .pages (s.accessMembers fn t a) false := by
  unfold State.reach State.accessMembers
  rw [if_neg (by omega), ← ht]
  rcases hm with hm | hm <;> simp [hm]

/-- A read of several pages is the OR of their registers and has no effect. -/
theorem State.read32_of_members {l : List Nat} (hr : s.reach fn a = .pages l false) (hd : bitField a 19 6 = T.device → fn = 0 ∨ fn = 16) :
    s.read32 fn a = (s, l.foldl (fun v m => v ||| s.pageValue fn (bitField a 19 6) m (a % 4096)) 0) := by
  have hide : ¬(bitField a 19 6 = T.device ∧ fn ≠ 0 ∧ fn ≠ 16 ∧ a % 4096 ≠ 0x40) := fun ⟨h1, h2, h3, _⟩ => (hd h1).elim h2 h3
  unfold State.read32
  rw [hr]
  simp only [decide_eq_false hide, Bool.false_eq_true, if_false]

/-- A group or broadcast read returns the OR of its members' registers and changes nothing but the answer (R13). -/
theorem readClear_members (hg : s.gate fn = .open') (ha : a < 2 ^ 27) (h4 : a % 4 = 0) (ht : t = bitField a 19 6)
    (hd : t = T.device → fn = 0 ∨ fn = 16) (hm : bitField a 25 2 = 1 ∨ bitField a 25 2 = 2) :
    ∃ x, exec (.readClear fn a 4) s = .next (s.emit (.readData fn a x)) ∧ x < 2 ^ 32 ∧
      ∀ b, b < 32 → (bitAt x b = true ↔ ∃ m, m < instances t ∧ s.sees fn t m = true ∧
        (bitField a 25 2 = 1 → s.inGroup t m (bitField a 12 7) = true) ∧ bitAt (s.pageValue fn t m (a % 4096)) b = true) := by
  have hread := State.read32_of_members (State.reach_members (s := s) (fn := fn) ha ht hm) (ht ▸ hd)
  rw [← ht] at hread
  refine ⟨(s.accessMembers fn t a).foldl (fun v m => v ||| s.pageValue fn t m (a % 4096)) 0 % 2 ^ 32, ?_, Nat.mod_lt _ (by decide), ?_⟩
  · show Host.Outcome.next (s.readRequest fn a 4) = _
    rw [State.readRequest_open hg, s.busRead_word fn h4, hread]
  · intro b hb
    simp only [bitAt_eq_testBit, Nat.testBit_mod_two_pow, hb, decide_true, Bool.true_and, testBit_foldl_or, Nat.zero_testBit, Bool.false_or,
      List.any_eq_true, State.accessMembers, List.mem_filter, List.mem_range, Bool.and_eq_true, Bool.or_eq_true, bne_iff_ne, ne_eq, ← imp_iff_not_or,
      and_assoc]

end

/-! ## Accesses that are dropped and logged (R15, R24, R489, R497) -/

section
variable {s : State} {fn t inst a v k size : Nat}

/-- An address by its page and its offset. -/
theorem eq_regAddr (h : a / 4096 = 128 * t + inst) : a = regAddr t inst (a % 4096) := by
  unfold regAddr
  omega

/-- A page without registers is no mill's, so it is not frozen. -/
theorem State.frozen_of_noRegs {off : Nat} (h : s.noRegs t inst off = true) : s.frozen t inst = false := by
  simp only [State.noRegs, Bool.and_eq_true, beq_iff_eq] at h
  obtain ⟨⟨⟨rfl, -⟩, -⟩, -⟩ := h
  rfl

/-- A write narrower than 32 bits is dropped and logged with KIND 3 in the page, a frozen mill's in its ROW page, and nowhere where there is no
register (R15). -/
theorem registerWrite_narrow (h : Reaches s fn t inst) (hd : t = T.device → fn = 0 ∨ fn = 16) (h4 : a % 4 = 0) (ha : a / 4096 = 128 * t + inst)
    (h0 : 0 < size) (hs : size < 4) (hk : k + size ≤ 4) :
    exec (.registerWrite fn (a + k) size v false) s = .next (
      if s.frozen t inst then s.logErr T.row (rowOf inst) 3 fn a (v % 2 ^ (8 * size) * 2 ^ (8 * k))
      else if s.noRegs t inst (a % 4096) then s
      else (s.logErr t inst 3 fn a (v % 2 ^ (8 * size) * 2 ^ (8 * k))).afterDrop t inst (a % 4096)) := by
  have hdrop := State.dropWrite_page (off := a % 4096) h.2.2.1 h.2.2.2.1 h.2.2.2.2 (Nat.mod_lt _ (by decide)) hd 3 (v % 2 ^ (8 * size) * 2 ^ (8 * k))
  rw [← eq_regAddr ha] at hdrop
  show Host.Outcome.next (s.request fn (a + k) size v false) = _
  rw [State.request_open h.2.1, s.busWrite_within fn v h4 h0 hk, if_neg (by omega), hdrop]

/-- The error count and the cause of a poisoned write leave the roles, TRUST_STAT and the fuses. -/
theorem State.rd_poisoned (s : State) {t inst off : Nat} (h : off % 4096 = 0x48 ∨ off % 4096 = 0x40) :
    ((s.finc F.PCIE_ERRCNT_POISONED 0).raise T.pcie 0 I.PCIE_POISONED).rd t inst off = s.rd t inst off := by
  rw [State.rd_raise_ne, State.finc, State.fset, State.rd_wr_ne]
  · simp only [regAddr, F.PCIE_ERRCNT_POISONED]
    omega
  · simp only [regAddr, T.pcie]
    omega

/-- A poisoned write is counted and reported, dropped, and logged in the page with KIND 7 (R489). -/
theorem registerWrite_poisoned (h : Reaches s fn t inst) (hd : t = T.device → fn = 0 ∨ fn = 16) (h4 : a % 4 = 0) (ha : a / 4096 = 128 * t + inst)
    (hv : v < 2 ^ 32) (hz : s.frozen t inst = false) (hn : s.noRegs t inst (a % 4096) = false) :
    exec (.registerWrite fn a 4 v true) s =
      .next ((((s.finc F.PCIE_ERRCNT_POISONED 0).raise T.pcie 0 I.PCIE_POISONED).logErr t inst 7 fn a v).afterDrop t inst (a % 4096)) := by
  have hf : ((s.finc F.PCIE_ERRCNT_POISONED 0).raise T.pcie 0 I.PCIE_POISONED).fuse = s.fuse := by rw [State.raise_fuse, State.finc_fuse]
  have hsees : ((s.finc F.PCIE_ERRCNT_POISONED 0).raise T.pcie 0 I.PCIE_POISONED).sees fn t inst = true := by
    rw [State.sees_congr hf (fun m => s.rd_poisoned (.inl rfl)) (s.rd_poisoned (.inr rfl)), h.2.2.2.2]
  have hdrop := State.dropWrite_page (off := a % 4096) h.2.2.1 h.2.2.2.1 hsees (Nat.mod_lt _ (by decide)) hd 7 v
  have hn' : ((s.finc F.PCIE_ERRCNT_POISONED 0).raise T.pcie 0 I.PCIE_POISONED).noRegs t inst (a % 4096) = false := by
    rw [← hn, State.noRegs, State.noRegs, hf]
  rw [← eq_regAddr ha, State.frozen_congr hf t (s.rd_poisoned (.inl rfl)), hz, hn'] at hdrop
  show Host.Outcome.next (s.request fn a 4 v true) = _
  rw [State.request_open h.2.1, s.busWrite_poisoned fn h4 hv, hdrop]
  rfl

/-- A word access to a reserved mode or to a page that is absent or out of view is logged in the DEVICE page; a read returns zero (R497). -/
theorem access_noReach (hg : s.gate fn = .open') (ha : a < 2 ^ 27) (h4 : a % 4 = 0) (hv : v < 2 ^ 32) {kind : Nat}
    (hk : (kind = 1 ∧ bitField a 25 2 = 3) ∨ (kind = 2 ∧ bitField a 25 2 = 0 ∧ s.sees fn (bitField a 19 6) (bitField a 12 7) = false)) :
    exec (.registerWrite fn a 4 v false) s = .next (s.logDevice kind fn a v) ∧
      exec (.readClear fn a 4) s = .next ((s.logDevice kind fn a 0).emit (.readData fn a 0)) := by
  have haccess : s.write32 fn a v = s.logDevice kind fn a v ∧ s.read32 fn a = (s.logDevice kind fn a 0, 0) := by
    rcases hk with ⟨rfl, hm⟩ | ⟨rfl, hm, hs⟩
    · have hr : s.reach fn a = .reserved := by
        unfold State.reach
        rw [if_neg (by omega)]
        simp only [hm]
      simp only [State.write32, State.read32, hr, State.noReach, and_self]
    · have hr : s.reach fn a = .absent := by
        unfold State.reach
        rw [if_neg (by omega)]
        simp only [hm, hs, Bool.false_eq_true, if_false]
      simp only [State.write32, State.read32, hr, State.noReach, and_self]
  constructor
  · show Host.Outcome.next (s.request fn a 4 v false) = _
    rw [State.request_open hg, s.busWrite_word fn h4 hv, haccess.1]
  · show Host.Outcome.next (s.readRequest fn a 4) = _
    rw [State.readRequest_open hg, s.busRead_word fn h4, haccess.2]
    rfl

/-! ## When a request is taken up (R489, R496, R553) -/

/-- In reset and in deep standby a request changes nothing. -/
theorem request_in_reset (h : s.trust.boot = .held ∨ s.power.standby = true) (fn a size d : Nat) (p : Bool) :
    exec (.registerWrite fn a size d p) s = .next s ∧ exec (.readClear fn a size) s = .next s := by
  have hg : s.gate fn = .silent := if_pos h
  obtain ⟨hw, hr⟩ := State.requests_silent hg a size d p
  exact ⟨congrArg _ hw, congrArg _ hr⟩

/-- Before boot step 7, from an absent function, in D3 and in a function-level reset a function's request is an Unsupported Request. -/
theorem request_refused (hb : s.trust.boot ≠ .held) (hp : s.power.standby = false) (hfn : fn < 16) (hperst : s.trust.perst = false)
    (h : (s.fget F.TRUST_STAT_STATE 0 ≠ 3 ∧ (s.trust.boot = .rom ∨ s.trust.boot = .firmware)) ∨ s.fnPresent fn = false ∨
      s.pcie.d3.contains fn = true ∨ s.inFlr fn = true) (a size d : Nat) (p : Bool) :
    exec (.registerWrite fn a size d p) s = .next (s.unsupportedReq fn a) ∧ exec (.readClear fn a size) s = .next (s.unsupportedReq fn a) := by
  have hg : s.gate fn = .unsupported := by
    unfold State.gate
    rw [if_neg (by simp [hb, hp]), if_neg (by omega), if_neg (by simp [hperst]), if_pos (by simpa using h)]
  obtain ⟨hw, hr⟩ := State.requests_unsupported hg a size d p
  exact ⟨congrArg _ hw, congrArg _ hr⟩

/-- From boot step 7 on a present function in D0 and in no function-level reset is served. -/
theorem gate_open_of_booted (hb : s.trust.boot ≠ .held) (hp : s.power.standby = false) (hfn : fn < 16) (hperst : s.trust.perst = false)
    (hboot : s.trust.boot = .memory ∨ s.trust.boot = .done) (hpres : s.fnPresent fn = true) (hd3 : s.pcie.d3.contains fn = false)
    (hflr : s.inFlr fn = false) : s.gate fn = .open' := by
  have hboot' : ¬(s.trust.boot = .rom ∨ s.trust.boot = .firmware) := by rcases hboot with e | e <;> simp [e]
  unfold State.gate
  rw [if_neg (by simp [hb, hp]), if_neg (by omega), if_neg (by simp [hperst]),
    if_neg (by rw [hpres, hd3, hflr]; simp [hboot'])]

/-- The Millhouse is served while its ROM or firmware runs. -/
theorem gate_millhouse (hb : s.trust.boot ≠ .held) (hp : s.power.standby = false) : s.gate 16 = .open' := by
  unfold State.gate
  rw [if_neg (by simp [hb, hp]), if_pos rfl]

end

/-! ## Writes that change registers and shadows alone -/

/-- The state with the roles' shadows replaced (R23). -/
def State.setShadow (s : State) (x : Tab Word) : State := { s with shadow := x }

@[simp] theorem State.setShadow_regs (s : State) (x : Tab Word) : (s.setShadow x).regs = s.regs := rfl
@[simp] theorem State.setShadow_fuse (s : State) (x : Tab Word) : (s.setShadow x).fuse = s.fuse := rfl
@[simp] theorem State.setShadow_ctrs (s : State) (x : Tab Word) : (s.setShadow x).ctrs = s.ctrs := rfl
@[simp] theorem State.setShadow_shadow (s : State) (x : Tab Word) : (s.setShadow x).shadow = x := rfl
@[simp] theorem State.setShadow_rd (s : State) (x : Tab Word) (t i o : Nat) : (s.setShadow x).rd t i o = s.rd t i o := rfl

theorem SameRegsBut.setShadow {s u : State} {l : List Nat} (x : Tab Word) (h : SameRegsBut s u l) : SameRegsBut s (u.setShadow x) l := h

/-- A state differs from another in its registers and its roles' shadows at most. -/
def RegsAndShadow (s u : State) : Prop := ∃ r x, u = { s with regs := r, shadow := x }

theorem RegsAndShadow.refl (s : State) : RegsAndShadow s s := ⟨s.regs, s.shadow, rfl⟩

theorem RegsAndShadow.wr {s u : State} (h : RegsAndShadow s u) (t i o v : Nat) : RegsAndShadow s (u.wr t i o v) := by
  obtain ⟨r, x, rfl⟩ := h
  exact ⟨_, x, rfl⟩

theorem RegsAndShadow.setShadow {s u : State} (h : RegsAndShadow s u) (y : Tab Word) : RegsAndShadow s (u.setShadow y) := by
  obtain ⟨r, x, rfl⟩ := h
  exact ⟨r, y, rfl⟩

theorem RegsAndShadow.logErr {s u : State} (h : RegsAndShadow s u) (t i kind fn addr data : Nat) :
    RegsAndShadow s (u.logErr t i kind fn addr data) := by
  unfold State.logErr
  dsimp only
  split
  · exact h.wr ..
  · exact (((h.wr ..).wr ..).wr ..).wr ..

theorem RegsAndShadow.eq {s u : State} (h : RegsAndShadow s u) : u = { s with regs := u.regs, shadow := u.shadow } := by
  obtain ⟨r, x, rfl⟩ := h
  rfl

/-! ## The error log of a page (R498, R500) -/

section
variable {s : State} {t inst : Nat}

theorem regAddr_ne_of_off {o o' : Nat} (h : o' ≠ o) : regAddr t inst o' ≠ regAddr t inst o := by
  unfold regAddr
  omega

/-- A write to one register of a page leaves the page's others. -/
theorem State.rd_wr_off_ne (s : State) {o o' : Nat} (v : Nat) (h : o' ≠ o) : (s.wr t inst o v).rd t inst o' = s.rd t inst o' :=
  s.rd_wr_ne v (regAddr_ne_of_off h)

/-- An error log leaves the page's registers but its own four. -/
theorem State.rd_logErr_ne (s : State) (kind fn addr data : Nat) {off : Nat} (h : off ∉ [0x28, 0x2C, 0x30, 0x34]) :
    (s.logErr t inst kind fn addr data).rd t inst off = s.rd t inst off := by
  simp only [List.mem_cons, List.not_mem_nil, or_false, not_or] at h
  obtain ⟨h0, h1, h2, h3⟩ := h
  unfold State.logErr
  dsimp only
  split
  · rw [State.rd_wr_off_ne _ _ h3]
  · rw [State.rd_wr_off_ne _ _ h3, State.rd_wr_off_ne _ _ h2, State.rd_wr_off_ne _ _ h1, State.rd_wr_off_ne _ _ h0]

/-- Every error counts, to the largest value of COUNT. -/
theorem State.rd_logErr_count (s : State) (t inst kind fn addr data : Nat) :
    (s.logErr t inst kind fn addr data).rd t inst 0x34 = min (s.rd t inst 0x34 % 65536 + 1) 0xFFFF := by
  unfold State.logErr
  dsimp only
  rw [State.rd_wr_same, Nat.mod_eq_of_lt (by omega)]
  split
  · rfl
  · simp only [State.rd_wr_off_ne _ _ (show 0x34 ≠ 0x30 by decide), State.rd_wr_off_ne _ _ (show 0x34 ≠ 0x2C by decide),
      State.rd_wr_off_ne _ _ (show 0x34 ≠ 0x28 by decide)]

/-- The first error since VALID was cleared is kept whole. -/
theorem State.rd_logErr_first (s : State) (t inst kind fn addr data : Nat) (h : bitAt (s.rd t inst 0x28) 31 = false) :
    (s.logErr t inst kind fn addr data).rd t inst 0x28 = 2 ^ 31 + kind % 16 * 65536 + fn % 256 * 256 ∧
      (s.logErr t inst kind fn addr data).rd t inst 0x2C = addr % 2 ^ 27 ∧ (s.logErr t inst kind fn addr data).rd t inst 0x30 = data % 2 ^ 32 := by
  unfold State.logErr
  rw [h, if_neg Bool.false_ne_true]
  dsimp only
  refine ⟨?_, ?_, ?_⟩
  · rw [State.rd_wr_off_ne _ _ (by decide), State.rd_wr_off_ne _ _ (by decide), State.rd_wr_off_ne _ _ (by decide), State.rd_wr_same]
    omega
  · rw [State.rd_wr_off_ne _ _ (by decide), State.rd_wr_off_ne _ _ (by decide), State.rd_wr_same]
    omega
  · rw [State.rd_wr_off_ne _ _ (by decide), State.rd_wr_same]

/-- VALID is set once an error is logged. -/
theorem State.rd_logErr_valid (s : State) (t inst kind fn addr data : Nat) :
    bitAt ((s.logErr t inst kind fn addr data).rd t inst 0x28) 31 = true := by
  cases h : bitAt (s.rd t inst 0x28) 31 with
  | false =>
    rw [(s.rd_logErr_first t inst kind fn addr data h).1, bitAt, beq_iff_eq]
    omega
  | true =>
    unfold State.logErr
    rw [h, if_pos rfl, State.rd_wr_off_ne _ _ (by decide), h]

/-! ## Causes (R498) -/

/-- BLK_ICAUSE after causes were raised: the defined ones of them are set. -/
theorem State.bitAt_rd_raiseBits (s : State) (t inst bits : Nat) {b : Nat} (hb : b < 32) :
    bitAt ((s.raiseBits t inst bits).rd t inst 0x18) b = (bitAt (s.rd t inst 0x18) b || (bitAt bits b && bitAt (causesAt t inst) b)) := by
  obtain ⟨l, e⟩ := State.raiseBits_eq s t inst bits
  rw [e, State.emits_rd, State.rd_wr_same]
  simp only [bitAt_eq_testBit, Nat.testBit_mod_two_pow, hb, decide_true, Bool.true_and, Nat.testBit_or, Nat.testBit_and]

theorem State.rd_raiseBits_ne (s : State) {t inst bits t' inst' off : Nat} (h : regAddr t' inst' off ≠ regAddr t inst 0x18) :
    (s.raiseBits t inst bits).rd t' inst' off = s.rd t' inst' off := by
  obtain ⟨l, e⟩ := State.raiseBits_eq s t inst bits
  rw [e, State.emits_rd, State.rd_wr_ne _ _ h]

theorem SameRegsBut.raiseBits {u : State} {l : List Nat} (bits : Nat) (m : causeAt t inst ∈ l) (h : SameRegsBut s u l) :
    SameRegsBut s (u.raiseBits t inst bits) l := by
  obtain ⟨k, e⟩ := State.raiseBits_eq u t inst bits
  rw [e]
  exact (h.wr (ty := t) (i := inst) (o := 0x18) _ m).keep rfl rfl

end

/-! ## Writes that a page takes (R11, R24, R486, R495) -/

/-- A page takes the writes of the PF and of the Millhouse: it is no frozen mill's, no DIKE page of an absent polder, and no VF's VORAK page
written by the PF. -/
structure TakesWrites (s : State) (fn t inst : Nat) : Prop where
  privileged : fn = 0 ∨ fn = 16
  notFrozen : s.frozen t inst = false
  dike : t = T.dike → s.polState inst ≠ 0
  vorak : t = T.vorak → fn = 16 ∨ inst = 0

/-- A write of the MILL page updates the shadow of its role and nothing else. -/
theorem State.keepShadow_eq (s : State) (m off : Nat) : ∃ x, s.keepShadow m off = s.setShadow x := by
  unfold State.keepShadow
  split
  · exact ⟨_, rfl⟩
  · exact ⟨s.shadow, rfl⟩

/-- What a write does to the registers of its page: the header's rules below 0x40, the register's own above. -/
def State.pageEffect (s : State) (fn a t inst off v : Nat) (uni : Bool) : State :=
  if off < 0x40 then s.headerWrite t inst off v else s.regWrite fn a t inst off v uni

section
variable {s : State} {fn t inst off v a : Nat}

/-- A write that a page takes has its effect, and in a MILL page updates the shadow. -/
theorem State.pageWrite_taken (hw : TakesWrites s fn t inst) (hn : s.noRegs t inst off = false) (hr : isReg t inst off = true) (a v : Nat) (uni : Bool) :
    ∃ x, s.pageWrite fn a t inst off v uni = (s.pageEffect fn a t inst off v uni).setShadow x ∧
      (t ≠ T.mill → x = (s.pageEffect fn a t inst off v uni).shadow) := by
  obtain ⟨hfn, hz, hdike, hvorak⟩ := hw
  have hd : ¬(t = T.dike ∧ (s.polState inst = 0 ∨ (fn ≠ 0 ∧ fn ≠ 16 ∧ off ≠ 0x18 ∧ off ≠ 0x1C))) := by
    rintro ⟨e, h | ⟨h0, h16, -⟩⟩
    · exact hdike e h
    · exact hfn.elim h0 h16
  have hv : ¬(t = T.vorak ∧ fn = 0 ∧ inst ≠ 0) := by
    rintro ⟨e, h0, hi⟩
    rcases hvorak e with h | h
    · omega
    · exact hi h
  have e : s.pageWrite fn a t inst off v uni =
      if t = T.mill then (s.pageEffect fn a t inst off v uni).keepShadow inst off else s.pageEffect fn a t inst off v uni := by
    unfold State.pageWrite State.pageEffect
    rw [if_neg (by simp [hz]), if_neg (by simp [hn, hr]), if_neg hd, if_neg hv]
  rw [e]
  by_cases hm : t = T.mill
  · obtain ⟨x, hx⟩ := (s.pageEffect fn a t inst off v uni).keepShadow_eq inst off
    exact ⟨x, by rw [if_pos hm, hx], fun h => absurd hm h⟩
  · exact ⟨(s.pageEffect fn a t inst off v uni).shadow, by rw [if_neg hm]; rfl, fun _ => rfl⟩

/-- A write of a word to a register that a page takes, other than an aggregate's mirror, has the register's effect, and in a MILL page updates the
shadow. -/
theorem State.request_taken (h : Reaches s fn t inst) (hw : TakesWrites s fn t inst) (ho : off < 4096) (h4 : off % 4 = 0) (hv : v < 2 ^ 32)
    (hn : s.noRegs t inst off = false) (hr : isReg t inst off = true) (hagg : t = T.row ∨ t = T.half → aggWrite off = false) :
    ∃ x, s.request fn (regAddr t inst off) 4 v false = (s.pageEffect fn (regAddr t inst off) t inst off v true).setShadow x ∧
      (t ≠ T.mill → x = (s.pageEffect fn (regAddr t inst off) t inst off v true).shadow) := by
  obtain ⟨x, hx, hs⟩ := State.pageWrite_taken hw hn hr (regAddr t inst off) v true
  refine ⟨x, ?_, hs⟩
  have ha : ¬((t = T.row ∨ t = T.half) ∧ aggWrite off = true) := fun ⟨h1, h2⟩ => by simp [hagg h1] at h2
  have hdev : ¬(t = T.device ∧ fn ≠ 0 ∧ fn ≠ 16) := fun ⟨_, h0, h16⟩ => hw.privileged.elim h0 h16
  rw [State.request_open h.2.1, State.busWrite_word _ _ (regAddr_mod_four h4) hv, State.write32_page h ho, State.reachWrite, if_neg ha, if_neg hdev, hx]

theorem State.noRegs_header (s : State) (t inst : Nat) {off : Nat} (h : off < 0x40) : s.noRegs t inst off = false := by
  simp [State.noRegs, h]

/-- BLK_LOCK sets LOCK (R498). -/
theorem blkLock_effect (h : Reaches s fn t inst) (hw : TakesWrites s fn t inst) :
    ∃ u, exec (.blkLock fn t inst) s = .next u ∧ u.rd t inst 0x10 = 2 ^ 31 ∧ SameRegsBut s u [regAddr t inst 0x10] ∧
      u = { s with regs := u.regs, shadow := u.shadow } ∧ (t ≠ T.mill → u.shadow = s.shadow) := by
  obtain ⟨x, hx, hs⟩ := State.request_taken (off := 0x10) (v := 2 ^ 31) h hw (by decide) (by decide) (by decide)
    (s.noRegs_header t inst (by decide)) rfl fun _ => rfl
  have he : s.pageEffect fn (regAddr t inst 0x10) t inst 0x10 (2 ^ 31) true = s.wr t inst 0x10 (2 ^ 31) := rfl
  rw [he] at hx hs
  refine ⟨(s.wr t inst 0x10 (2 ^ 31)).setShadow x, ?_, ?_, ?_, (((RegsAndShadow.refl s).wr ..).setShadow x).eq, fun e => (hs e).trans (s.wr_shadow ..)⟩
  · show Host.Outcome.next (s.request fn (regAddr t inst 0x10) 4 (2 ^ 31) false) = _
    rw [hx]
  · rw [State.setShadow_rd, State.rd_wr_same, Nat.mod_eq_of_lt (by decide)]
  · exact ((SameRegsBut.refl s _).wr (2 ^ 31) (List.mem_singleton.2 rfl)).setShadow x

/-- ERRLOG_CLR clears the four registers of the error log (R498). -/
theorem errlogClr_effect (h : Reaches s fn t inst) (hw : TakesWrites s fn t inst) :
    ∃ u, exec (.errlogClr fn t inst) s = .next u ∧ u.rd t inst 0x28 = 0 ∧ u.rd t inst 0x2C = 0 ∧ u.rd t inst 0x30 = 0 ∧ u.rd t inst 0x34 = 0 ∧
      SameRegsBut s u (errLogAt t inst) ∧ u = { s with regs := u.regs, shadow := u.shadow } ∧ (t ≠ T.mill → u.shadow = s.shadow) := by
  obtain ⟨x, hx, hs⟩ := State.request_taken (off := 0x10) (v := 1) h hw (by decide) (by decide) (by decide)
    (s.noRegs_header t inst (by decide)) rfl fun _ => rfl
  have he : s.pageEffect fn (regAddr t inst 0x10) t inst 0x10 1 true =
      (((s.wr t inst 0x28 0).wr t inst 0x2C 0).wr t inst 0x30 0).wr t inst 0x34 0 := rfl
  rw [he] at hx hs
  have h0 : SameRegsBut s s (errLogAt t inst) := SameRegsBut.refl s _
  refine ⟨((((s.wr t inst 0x28 0).wr t inst 0x2C 0).wr t inst 0x30 0).wr t inst 0x34 0).setShadow x, ?_, ?_, ?_, ?_, ?_, ?_,
    (((((RegsAndShadow.refl s).wr ..).wr ..).wr ..).wr ..).setShadow x |>.eq, fun e => ?_⟩
  · show Host.Outcome.next (s.request fn (regAddr t inst 0x10) 4 1 false) = _
    rw [hx]
  · rw [State.setShadow_rd, State.rd_wr_off_ne _ _ (by decide), State.rd_wr_off_ne _ _ (by decide), State.rd_wr_off_ne _ _ (by decide), State.rd_wr_same, Nat.zero_mod]
  · rw [State.setShadow_rd, State.rd_wr_off_ne _ _ (by decide), State.rd_wr_off_ne _ _ (by decide), State.rd_wr_same, Nat.zero_mod]
  · rw [State.setShadow_rd, State.rd_wr_off_ne _ _ (by decide), State.rd_wr_same, Nat.zero_mod]
  · rw [State.setShadow_rd, State.rd_wr_same, Nat.mod_eq_of_lt (by decide)]
  · exact ((((h0.wr 0 (by simp [errLogAt])).wr 0 (by simp [errLogAt])).wr 0 (by simp [errLogAt])).wr 0 (by simp [errLogAt])).setShadow x
  · rw [State.setShadow_shadow, hs e, State.wr_shadow, State.wr_shadow, State.wr_shadow, State.wr_shadow]

/-- BLK_IFORCE at a page of its own sets the defined causes (R498). -/
theorem blkIforce_effect (h : Reaches s fn t inst) (hw : TakesWrites s fn t inst) (hv : v < 2 ^ 32) (hrow : t ≠ T.row) (hhalf : t ≠ T.half) :
    ∃ u, exec (.blkIforce fn t inst v) s = .next u ∧
      (∀ b, b < 32 → bitAt (u.rd t inst 0x18) b = (bitAt (s.rd t inst 0x18) b || (bitAt v b && bitAt (causesAt t inst) b))) ∧
      SameRegsBut s u [causeAt t inst] ∧ u.ctrs = s.ctrs := by
  obtain ⟨x, hx, -⟩ := State.request_taken (off := 0x20) h hw (by decide) (by decide) hv (s.noRegs_header t inst (by decide)) rfl
    fun e => absurd e (not_or.2 ⟨hrow, hhalf⟩)
  have he : s.pageEffect fn (regAddr t inst 0x20) t inst 0x20 v true = s.raiseBits t inst v := rfl
  rw [he] at hx
  refine ⟨(s.raiseBits t inst v).setShadow x, ?_, fun b hb => s.bitAt_rd_raiseBits t inst v hb, ?_, s.raiseBits_ctrs t inst v⟩
  · show Host.Outcome.next (s.request fn (regAddr t inst 0x20) 4 v false) = _
    rw [hx]
  · exact ((SameRegsBut.refl s _).raiseBits v (List.mem_singleton.2 rfl)).setShadow x

/-- A member of an aggregate is not frozen (R22, R24). -/
theorem State.frozen_of_member {m : Nat} (h : s.member m = true) : s.frozen t m = false := by
  simp only [State.member, Bool.or_eq_true, beq_iff_eq] at h
  rcases h with h | h <;> simp [State.frozen, h]

theorem State.member_of_aggMembers {m : Nat} (h : m ∈ s.aggMembers t inst) : s.member m = true := by
  unfold State.aggMembers at h
  split at h <;> exact (List.mem_filter.1 h).2

/-- BLK_IFORCE written to the pages of mills in turn. -/
def State.iforceMills (s : State) (fn a v : Nat) (ms : List Nat) : State := ms.foldl (fun u m => u.pageWrite fn a T.mill m 0x20 v false) s

/-- A write of BLK_IFORCE to mills that are not frozen sets the defined causes of each and changes no other register. -/
theorem iforce_mills (hfn : fn = 0 ∨ fn = 16) (a v : Nat) (ms : List Nat) :
    ∀ s : State, (∀ m ∈ ms, s.frozen T.mill m = false) →
      (s.iforceMills fn a v ms).ctrs = s.ctrs ∧
        SameRegsBut s (s.iforceMills fn a v ms) (ms.map (causeAt T.mill)) ∧
        ∀ m b, b < 32 → bitAt ((s.iforceMills fn a v ms).rd T.mill m 0x18) b =
          (bitAt (s.rd T.mill m 0x18) b || (decide (m ∈ ms) && (bitAt v b && bitAt (causesAt T.mill m) b))) := by
  induction ms with
  | nil => intro s _; exact ⟨rfl, SameRegsBut.refl s _, by simp [State.iforceMills]⟩
  | cons k ms ih =>
    intro s hz
    have hw : TakesWrites s fn T.mill k := ⟨hfn, hz k (List.mem_cons_self ..), fun e => absurd e (by decide), fun e => absurd e (by decide)⟩
    obtain ⟨x, hx, -⟩ := State.pageWrite_taken (off := 0x20) hw (s.noRegs_header T.mill k (by decide)) rfl a v false
    have he : s.pageEffect fn a T.mill k 0x20 v false = s.raiseBits T.mill k v := rfl
    rw [he] at hx
    have hrole : ∀ m, (s.raiseBits T.mill k v).rd T.mill m 0x48 = s.rd T.mill m 0x48 := fun m =>
      s.rd_raiseBits_ne (by unfold regAddr; omega)
    obtain ⟨hc, hr, hb⟩ := ih ((s.raiseBits T.mill k v).setShadow x) fun m hm => by
      rw [← hz m (List.mem_cons_of_mem _ hm)]
      exact State.frozen_congr (s.raiseBits_fuse T.mill k v) T.mill (hrole m)
    rw [show s.iforceMills fn a v (k :: ms) = (s.pageWrite fn a T.mill k 0x20 v false).iforceMills fn a v ms from rfl, hx]
    refine ⟨hc.trans (s.raiseBits_ctrs T.mill k v), ?_, ?_⟩
    · have h1 : SameRegsBut s ((s.raiseBits T.mill k v).setShadow x) ((k :: ms).map (causeAt T.mill)) :=
        ((SameRegsBut.refl s _).raiseBits v (by simp)).setShadow x
      exact h1.trans (hr.mono (by simp))
    · intro m b hb32
      rw [hb m b hb32]
      by_cases hmk : m = k
      · subst hmk
        have e := s.bitAt_rd_raiseBits T.mill m v hb32
        rw [State.setShadow_rd, e]
        cases bitAt (s.rd T.mill m 0x18) b <;> simp
      · rw [State.setShadow_rd, s.rd_raiseBits_ne (by unfold regAddr; omega)]
        simp [hmk]

/-- BLK_IFORCE at an aggregate page sets the defined causes of its members (R22, R498). -/
theorem blkIforce_aggregate (h : Reaches s fn t inst) (hfn : fn = 0 ∨ fn = 16) (hv : v < 2 ^ 32) (ht : t = T.row ∨ t = T.half) :
    ∃ u, exec (.blkIforce fn t inst v) s = .next u ∧ u.ctrs = s.ctrs ∧ SameRegsBut s u ((s.aggMembers t inst).map (causeAt T.mill)) ∧
      ∀ m ∈ s.aggMembers t inst, s.frozen T.mill m = false → ∀ b, b < 32 →
        bitAt (u.rd T.mill m 0x18) b = (bitAt (s.rd T.mill m 0x18) b || (bitAt v b && bitAt (causesAt T.mill m) b)) := by
  obtain ⟨hc, hr, hb⟩ := iforce_mills hfn (regAddr t inst 0x20) v (s.aggMembers t inst) s fun m hm => State.frozen_of_member (State.member_of_aggMembers hm)
  refine ⟨s.iforceMills fn (regAddr t inst 0x20) v (s.aggMembers t inst), ?_, hc, hr,
    fun m hm _ b hb32 => by rw [hb m b hb32, decide_eq_true hm, Bool.true_and]⟩
  show Host.Outcome.next (s.request fn (regAddr t inst 0x20) 4 v false) = _
  rw [State.request_open h.2.1, State.busWrite_word _ _ (regAddr_mod_four (by decide)) hv, State.write32_page h (by decide), State.reachWrite,
    if_pos ⟨ht, by decide⟩]
  rfl

end

/-! ## A write of a register with no effect of its own (R11, R500) -/

/-- What a field holds after a write: with LOCK set an RWL field is kept. -/
def Fld.after (f : Fld) (held v : Nat) (locked : Bool) : Nat :=
  if f.acc = .rwl ∧ locked = true then bitField held f.lo f.w else f.taken held v

/-- A write that carries the value LOCK lets through gives each field what it holds after. -/
theorem Fld.taken_writeUnderLock {t inst off held v : Nat} {locked : Bool} (h : 0x40 ≤ off) {f : Fld} (hf : f ∈ fieldsAt t inst off) :
    f.taken held (writeUnderLock t inst off held v locked) = f.after held v locked := by
  by_cases ha : f.acc = .rwl
  · have ht : ∀ y, f.taken held y = bitField y f.lo f.w := fun y => by simp only [Fld.taken, ha]
    cases locked with
    | false => rw [Fld.after, if_neg (by simp), ht, ht, writeUnderLock, if_neg Bool.false_ne_true]
    | true => rw [Fld.after, if_pos ⟨ha, rfl⟩, ht, bitField_writeUnderLock_rwl h hf ha]
  · rw [Fld.after, if_neg fun e => ha e.1]
    simp only [Fld.taken, bitField_writeUnderLock_of_ne h hf ha]

/-- Would a write change an RWL field of a page under LOCK? -/
def State.lockBreaks (s : State) (t inst off v : Nat) : Bool :=
  bitAt (s.rd t inst 0x10) 31 && (v &&& rwlMask t inst off != s.rd t inst off &&& rwlMask t inst off)

/-- The state with a write that LOCK cuts logged with KIND 4. -/
def State.lockLogged (s : State) (fn a t inst off v : Nat) : State := if s.lockBreaks t inst off v then s.logErr t inst 4 fn a v else s

section
variable {s : State} {fn t inst off v a : Nat}

theorem State.lockBreaks_iff :
    s.lockBreaks t inst off v = true ↔ bitAt (s.rd t inst 0x10) 31 = true ∧
      ∃ f ∈ fieldsAt t inst off, f.acc = .rwl ∧ bitField v f.lo f.w ≠ bitField (s.rd t inst off) f.lo f.w := by
  rw [State.lockBreaks, Bool.and_eq_true, bne_iff_ne, and_rwlMask_ne_iff]

/-- A write that its register's rule allows and that has no effect of its own is logged where LOCK cuts it, and written under the access types. -/
theorem State.regWrite_plain {uni : Bool}
    (hok : s.valueOk t inst off (writeUnderLock t inst off (s.rd t inst off) v (bitAt (s.rd t inst 0x10) 31)) = true)
    (hown : ∀ st : State, st.ownWrite fn a t inst off (writeUnderLock t inst off (s.rd t inst off) v (bitAt (s.rd t inst 0x10) 31)) uni = none) :
    s.regWrite fn a t inst off v uni =
      (s.lockLogged fn a t inst off v).plainWrite t inst off (writeUnderLock t inst off (s.rd t inst off) v (bitAt (s.rd t inst 0x10) 31)) := by
  unfold writeUnderLock at hok hown ⊢
  unfold State.regWrite State.lockLogged State.lockBreaks
  dsimp only
  rw [hok, Bool.not_true, if_neg Bool.false_ne_true, hown]
  rfl

theorem State.rd_lockLogged {o : Nat} (ho : 0x40 ≤ o) : (s.lockLogged fn a t inst off v).rd t inst o = s.rd t inst o := by
  unfold State.lockLogged
  split
  · exact s.rd_logErr_ne _ _ _ _ (by simp only [List.mem_cons, List.not_mem_nil, or_false, not_or]; omega)
  · rfl

/-- A plain write leaves the page's other registers. -/
theorem State.rd_plainWrite_ne (s : State) (v : Nat) {o : Nat} (h : o ≠ off) : (s.plainWrite t inst off v).rd t inst o = s.rd t inst o := by
  rw [State.plainWrite_eq, State.rd_wr_off_ne _ _ h]

theorem SameRegsBut.plainWrite {u : State} {l : List Nat} (v : Nat) (m : regAddr t inst off ∈ l) (h : SameRegsBut s u l) :
    SameRegsBut s (u.plainWrite t inst off v) l := h.wr _ m

/-- A write that LOCK cuts is logged. -/
theorem State.lockLogged_of_breaks (h : bitAt (s.rd t inst 0x10) 31 = true ∧
    ∃ f ∈ fieldsAt t inst off, f.acc = .rwl ∧ bitField v f.lo f.w ≠ bitField (s.rd t inst off) f.lo f.w) :
    s.lockLogged fn a t inst off v = s.logErr t inst 4 fn a v := if_pos (State.lockBreaks_iff.2 h)

/-- A write that LOCK does not cut is not logged. -/
theorem State.lockLogged_of_keeps (h : bitAt (s.rd t inst 0x10) 31 = false ∨
    ∀ f ∈ fieldsAt t inst off, f.acc = .rwl → bitField v f.lo f.w = bitField (s.rd t inst off) f.lo f.w) :
    s.lockLogged fn a t inst off v = s := if_neg fun e => by
  obtain ⟨hl, f, hf, hacc, hne⟩ := State.lockBreaks_iff.1 e
  rcases h with h | h
  · exact Bool.false_ne_true (h.symm.trans hl)
  · exact hne (h f hf hacc)

theorem RegsAndShadow.lockLogged (s : State) (fn a t inst off v : Nat) : RegsAndShadow s (s.lockLogged fn a t inst off v) := by
  unfold State.lockLogged
  split
  · exact (RegsAndShadow.refl s).logErr ..
  · exact RegsAndShadow.refl s

theorem State.logErr_shadow (s : State) (t i kind fn addr data : Nat) : (s.logErr t i kind fn addr data).shadow = s.shadow := by
  unfold State.logErr
  dsimp only
  split
  · rw [State.wr_shadow]
  · rw [State.wr_shadow, State.wr_shadow, State.wr_shadow, State.wr_shadow]

theorem State.lockLogged_shadow (s : State) (fn a t inst off v : Nat) : (s.lockLogged fn a t inst off v).shadow = s.shadow := by
  unfold State.lockLogged
  split
  · exact s.logErr_shadow ..
  · rfl

/-- A write of the PF or the Millhouse to a register with no effect of its own changes its fields as their access types and LOCK say, is logged
with KIND 4 exactly where LOCK keeps a field it would change, and changes no other register (R11, R498, R500). -/
theorem registerWrite_plain {held : Nat} {locked : Bool} (h : Reaches s fn t inst) (hw : TakesWrites s fn t inst) (h40 : 0x40 ≤ off) (ho : off < 4096)
    (h4 : off % 4 = 0) (hr : isReg t inst off = true) (hn : s.noRegs t inst off = false) (hagg : t = T.row ∨ t = T.half → 0xC00 ≤ off)
    (hv : v < 2 ^ 32) (ha : a = regAddr t inst off) (hheld : held = s.rd t inst off) (hlocked : locked = bitAt (s.rd t inst 0x10) 31)
    (hok : s.valueOk t inst off (writeUnderLock t inst off held v locked) = true)
    (hown : ∀ st : State, st.ownWrite fn a t inst off (writeUnderLock t inst off held v locked) true = none) :
    ∃ u, exec (.registerWrite fn a 4 v false) s = .next u ∧
      (∀ f ∈ fieldsAt t inst off, bitField (u.rd t inst off) f.lo f.w = f.after held v locked) ∧
      ((locked = true ∧ ∃ f ∈ fieldsAt t inst off, f.acc = .rwl ∧ bitField v f.lo f.w ≠ bitField held f.lo f.w) →
        bitAt (u.rd t inst 0x28) 31 = true ∧ u.rd t inst 0x34 = min (s.rd t inst 0x34 % 65536 + 1) 0xFFFF ∧
          (bitAt (s.rd t inst 0x28) 31 = false → bitField (u.rd t inst 0x28) 16 4 = 4 ∧ u.rd t inst 0x2C = a ∧ u.rd t inst 0x30 = v) ∧
          SameRegsBut s u (a :: errLogAt t inst)) ∧
      ((locked = false ∨ ∀ f ∈ fieldsAt t inst off, f.acc = .rwl → bitField v f.lo f.w = bitField held f.lo f.w) → SameRegsBut s u [a]) ∧
      u = { s with regs := u.regs, shadow := u.shadow } ∧ (t ≠ T.mill → u.shadow = s.shadow) := by
  subst hheld hlocked
  have hagg' : t = T.row ∨ t = T.half → aggWrite off = false := fun e => by
    have := hagg e
    simp only [aggWrite, Bool.or_eq_false_iff, Bool.and_eq_false_iff, decide_eq_false_iff_not, beq_eq_false_iff_ne]
    omega
  obtain ⟨x, hx, hs⟩ := State.request_taken h hw ho h4 hv hn hr hagg'
  have he : s.pageEffect fn a t inst off v true =
      (s.lockLogged fn a t inst off v).plainWrite t inst off (writeUnderLock t inst off (s.rd t inst off) v (bitAt (s.rd t inst 0x10) 31)) := by
    rw [State.pageEffect, if_neg (by omega), State.regWrite_plain hok hown]
  have hlt : a < 2 ^ 25 := ha ▸ (regAddr_decode h.2.2.1 h.2.2.2.1 ho).1
  rw [← ha, he] at hx hs
  have hexec : exec (.registerWrite fn a 4 v false) s = .next (s.request fn a 4 v false) := rfl
  rw [hx] at hexec
  refine ⟨_, hexec, fun f hf => ?_, fun hb => ?_, fun hb => ?_, ?_, fun e => ?_⟩
  · rw [State.setShadow_rd, State.bitField_plainWrite _ _ _ _ h40 hf, State.rd_lockLogged h40, Fld.taken_writeUnderLock h40 hf]
  · have hlog := State.lockLogged_of_breaks (fn := fn) (a := a) hb
    have hrd : ∀ w o, o < 0x40 → (((s.lockLogged fn a t inst off v).plainWrite t inst off w).setShadow x).rd t inst o =
        (s.logErr t inst 4 fn a v).rd t inst o := fun w o ho' => by
      rw [State.setShadow_rd, State.rd_plainWrite_ne _ _ (by omega), hlog]
    rw [hrd _ 0x28 (by decide), hrd _ 0x2C (by decide), hrd _ 0x30 (by decide), hrd _ 0x34 (by decide)]
    refine ⟨s.rd_logErr_valid .., s.rd_logErr_count .., fun hvalid => ?_, ?_⟩
    · obtain ⟨e0, e1, e2⟩ := s.rd_logErr_first t inst 4 fn a v hvalid
      rw [e0, e1, e2]
      refine ⟨?_, Nat.mod_eq_of_lt (by omega), Nat.mod_eq_of_lt hv⟩
      unfold bitField
      omega
    · rw [hlog]
      exact (((SameRegsBut.refl s _).logErr t inst 4 fn a v fun b hb => List.mem_cons_of_mem _ hb).plainWrite _ (by simp [ha])).setShadow x
  · rw [State.lockLogged_of_keeps hb]
    exact ((SameRegsBut.refl s _).plainWrite _ (by simp [ha])).setShadow x
  · exact (((RegsAndShadow.lockLogged s fn a t inst off v).wr ..).setShadow x).eq
  · rw [State.setShadow_shadow, hs e, State.plainWrite_eq, State.wr_shadow, State.lockLogged_shadow]

end

/-! ## The statement on register accesses -/

/-- Settles O8: each clause is the lemma of its kind of access, over the pages that `Uni` says a function reaches. -/
theorem busAccess : Obligations.BusAccess := by
  intro s Uni hUni
  have hreach : ∀ {fn t inst}, Uni fn t inst → Reaches s fn t inst := fun h => (hUni _ _ _).1 h
  refine ⟨fun fn a size d p => ⟨fun h => request_in_reset h fn a size d p, fun hb hp hfn hperst => ⟨fun h => request_refused hb hp hfn hperst h a size d p,
    gate_open_of_booted hb hp hfn hperst⟩, gate_millhouse⟩, ?_, ?_, ?_, ?_, ?_, fun u t inst off => rfl, ?_, ?_⟩
  · intro fn t inst c i v a hu hc hn hi hv ha
    exact ⟨latchedPairRead_effect (hreach hu) hc hn hi hv ha, readClear_pair_double (hreach hu) hc hn hi hv ha⟩
  · intro fn f inst a k size hf hu ha h0 h4 hrun
    exact readClear_wordCounter hf (hreach hu) ha h0 h4 hrun
  · intro fn lane a hu ha hrun
    exact readClear_lineErrors (hreach hu) ha hrun
  · intro fn t a _ hg ha h4 ht hd hm
    exact readClear_members hg ha h4 ht hd hm
  · intro fn t inst a v k size hu hd h4 ha hv
    refine ⟨fun h0 hs hk => ?_, registerWrite_poisoned (hreach hu) hd h4 ha hv⟩
    have hnarrow := registerWrite_narrow (v := v) (hreach hu) hd h4 ha h0 hs hk
    refine ⟨fun hz => ?_, fun hn => ?_, fun hz hn => ?_⟩
    · rw [hnarrow, if_pos hz]
    · have hz : s.frozen t inst = false := State.frozen_of_noRegs hn
      rw [hnarrow, hz, hn, if_neg Bool.false_ne_true, if_pos rfl]
    · rw [hnarrow, hz, hn, if_neg Bool.false_ne_true, if_neg Bool.false_ne_true]
  · intro fn a v kind _ hg ha h4 hv hk
    exact access_noReach hg ha h4 hv hk
  · intro fn t inst hu hfn hz hdike hvorak
    have hw : TakesWrites s fn t inst := ⟨hfn, hz, hdike, hvorak⟩
    refine ⟨blkLock_effect (hreach hu) hw, errlogClr_effect (hreach hu) hw,
      fun v hv => ⟨fun hrow hhalf => blkIforce_effect (hreach hu) hw hv hrow hhalf, blkIforce_aggregate (hreach hu) hfn hv⟩, ?_⟩
    intro off a v held locked w h40 ho h4 hr hn hagg hv ha hheld hlocked hweq hok hown
    subst hweq
    obtain ⟨u, hexec, hfields, hbreaks, hkeeps, hframe, hshadow⟩ :=
      registerWrite_plain (hreach hu) hw h40 ho h4 hr hn hagg hv ha hheld hlocked hok hown
    refine ⟨u, hexec, fun f hf x h hx hh => ?_, hbreaks, hkeeps, hframe, hshadow⟩
    rw [hfields f hf, hx, hh]
    cases hacc : f.acc <;> simp [Fld.after, Fld.taken, hacc]

end Sys2Proof.Machine
end

section

/-!
PROOF. The windows of a stone (R153, R154): what a window read answers is a word, and what a stone holds as its PC need not be one.
-/

namespace Sys2Proof.Machine

/-- A window read that is taken up answers with 32 bits, whatever the register holds (R15). -/
theorem windowRead_answers_word {s : State} {fn m : Nat} (hm : m < 128) (hg : s.gate fn = .open') :
    ∃ (t : State) (v : Nat), v < 2 ^ 32 ∧ exec (.windowRead fn m) s = .next (t.emit (.readData fn (regAddr T.mill m 0x84) v)) := by
  have e : exec (.windowRead fn m) s = .next (s.readRequest fn (regAddr T.mill m 0x84) 4) := by
    show Host.Outcome.next (if m < 128 then _ else _) = _
    rw [if_pos hm]
    rfl
  rw [e, State.readRequest_open hg, State.busRead_word s fn (regAddr_mod_four (by decide))]
  exact ⟨_, _, Nat.mod_lt _ (by decide), rfl⟩

/-- Mill 0's window names the PC of a halted stone that holds 2³² there. -/
def sWidePc : State :=
  (Sys2Proof.Tests.sUp.setStone 0 { halted := true, ctx := [(0, { pc := 2 ^ 32 })] }).fset F.MILL_WIN_SEL_REG 0 0x50

/-- The PF has the window's rights in that state, and the window names the wide PC. -/
theorem sWidePc_window : Reaches sWidePc 0 T.mill 0 ∧ sWidePc.frozen T.mill 0 = false ∧ sWidePc.windowRights 0 0 = true ∧
    sWidePc.fget F.MILL_WIN_SEL_REG 0 = 0x50 ∧ (sWidePc.stone (16 * 0 + sWidePc.fget F.MILL_WIN_SEL_STONE 0)).halted = true ∧
    ((sWidePc.stone (16 * 0 + sWidePc.fget F.MILL_WIN_SEL_STONE 0)).cx (sWidePc.fget F.MILL_WIN_SEL_CTX 0)).pc = 2 ^ 32 := by
  unfold Reaches
  decide

/-- Refutes O26: a halted stone's PC is to be returned as the state holds it, in every state, and an access returns 32 bits (R15). The state holds a PC as
a natural number, so one of 2³² is returned as 0. -/
theorem not_millPageAccesses : ¬ Obligations.MillPageAccesses := by
  unfold Obligations.MillPageAccesses
  rintro ⟨-, -, -, hwindow, -⟩
  obtain ⟨hreach, hfrozen, hrights, hreg, hhalted, hpc⟩ := sWidePc_window
  have hread := ((hwindow sWidePc 0 0 _ _ _ hreach hfrozen rfl rfl rfl).2.1 hhalted hrights).2 hreg
  obtain ⟨t, v, hv, hword⟩ := windowRead_answers_word (m := 0) (by decide) hreach.2.1
  rw [hword, next_inj] at hread
  have hout := congrArg (fun u : State => u.out.getLast?) hread
  simp only [State.emit_out, List.getLast?_append, List.getLast?_singleton, Option.some_or, Option.some.injEq, Out.readData.injEq, true_and] at hout
  rw [hout, hpc] at hv
  exact absurd hv (by decide)

end Sys2Proof.Machine
end

section

/-!
PROOF. What registers, fields and causes hold after the operations of boot and of the RAS block: fields apart from the one set, causes that stay set,
and folds that keep a part of the state.
-/

namespace Sys2Proof.Machine

/-! ## Folds -/

/-- A fold of steps that keep a part of the state keeps it. -/
theorem foldl_keeps {β γ : Type} (p : State → γ) (g : State → β → State) (h : ∀ s x, p (g s x) = p s) (l : List β) :
    ∀ s : State, p (l.foldl g s) = p s := by
  induction l with
  | nil => intro s; rfl
  | cons x l ih => intro s; rw [List.foldl_cons, ih, h]

/-- A fold of steps each of which is related to its start by a preorder is. -/
theorem foldl_rel {β : Type} {R : State → State → Prop} (refl : ∀ s, R s s) (trans : ∀ {s t u}, R s t → R t u → R s u) {g : State → β → State}
    (l : List β) : (∀ s, ∀ x ∈ l, R s (g s x)) → ∀ s : State, R s (l.foldl g s) := by
  induction l with
  | nil => intro _ s; exact refl s
  | cons x l ih =>
    intro h s
    exact trans (h s x (List.mem_cons_self ..)) (ih (fun s y hy => h s y (List.mem_cons_of_mem _ hy)) _)

/-! ## Fields -/

/-- Do two copies of fields lie in different registers or in different bits? -/
def Fld.clear (f : Fld) (i x : Nat) (g : Fld) (j y : Nat) : Bool :=
  g.addr j y != f.addr i x || decide (f.lo + f.w ≤ g.lo) || decide (g.lo + g.w ≤ f.lo)

/-- Setting a field leaves a field that lies in another register or in other bits. -/
theorem State.fget_fset_clear (s : State) {f g : Fld} {i j v x y : Nat} (hg : g.lo + g.w ≤ 32) (h : f.clear i x g j y = true) :
    (s.fset f i v x).fget g j y = s.fget g j y := by
  by_cases ha : g.addr j y = f.addr i x
  · have hd : f.lo + f.w ≤ g.lo ∨ g.lo + g.w ≤ f.lo := by simpa [Fld.clear, ha] using h
    simp only [Fld.addr] at ha
    simp only [State.fget, State.fset, State.rd, State.wr, ha, Tab.get_set_same, BitVec.toNat_ofNat, bitField_word _ _ _ hg]
    rcases hd with hd | hd
    · exact bitField_setField_above _ _ _ _ _ _ hd
    · exact bitField_setField_below _ _ _ _ _ _ hd
  · exact s.fget_fset_ne f g i j v x y ha

/-- Counting in a field leaves a field that lies in another register or in other bits. -/
theorem State.fget_finc_clear (s : State) {f g : Fld} {i j n x y : Nat} (hg : g.lo + g.w ≤ 32) (h : f.clear i x g j y = true) :
    (s.finc f i n x).fget g j y = s.fget g j y := s.fget_fset_clear hg h

/-- What a frame says of one register. -/
theorem SameRegsBut.rd {s t : State} {l : List Nat} (h : SameRegsBut s t l) {ty i o : Nat} (n : regAddr ty i o ∉ l) : t.rd ty i o = s.rd ty i o :=
  congrArg BitVec.toNat (h _ n)

/-! ## Causes -/

/-- Raising a cause leaves every cause that is set. -/
theorem causeSet.raise {s : State} {t i b : Nat} (h : causeSet s t i b) (ty j k : Nat) : causeSet (s.raise ty j k) t i b := by
  unfold causeSet at h ⊢
  by_cases ha : regAddr t i 0x18 = regAddr ty j 0x18
  · have e : ∀ u : State, u.rd t i 0x18 = u.rd ty j 0x18 := fun u => by rw [State.rd, State.rd, ha]
    rw [e] at h ⊢
    rw [State.rd_raise_same, bitAt_eq_testBit, Nat.testBit_or, ← bitAt_eq_testBit, h, Bool.true_or]
  · rw [State.rd_raise_ne s ha, h]

/-- A cause stays set where its register keeps its value. -/
theorem causeSet.keep {s u : State} {t i b : Nat} (h : causeSet s t i b) (e : u.rd t i 0x18 = s.rd t i 0x18) : causeSet u t i b := by
  unfold causeSet at h ⊢
  rw [e, h]

/-- Logging an error changes registers alone. -/
theorem State.logErr_eq (s : State) (t i kind fn addr data : Nat) :
    s.logErr t i kind fn addr data = { s with regs := (s.logErr t i kind fn addr data).regs } := by
  unfold State.logErr
  dsimp only
  split <;> rfl

/-! ## Registers alone -/

/-- Two states agree in all but their registers. -/
def RegsOnly (s t : State) : Prop := t = { s with regs := t.regs }

theorem RegsOnly.refl (s : State) : RegsOnly s s := rfl

theorem RegsOnly.wr {s t : State} (h : RegsOnly s t) (ty i o v : Nat) : RegsOnly s (t.wr ty i o v) := by
  unfold RegsOnly at h ⊢
  rw [State.wr, h]

theorem RegsOnly.fset {s t : State} (h : RegsOnly s t) (f : Fld) (i v x : Nat) : RegsOnly s (t.fset f i v x) := h.wr ..

theorem RegsOnly.hset {s t : State} (h : RegsOnly s t) (f : Fld) (ty i v : Nat) : RegsOnly s (t.hset f ty i v) := h.wr ..

end Sys2Proof.Machine
end

section

/-!
PROOF. Boot (R297, R553 to R559, R562): the end of reset, the sources of firmware, RECOVERY, memory and mills, and the end of boot.
-/

namespace Sys2Proof.Machine

/-! ## Measurement -/

section
variable (s : State) (mr p typ : Nat) (v : List Byte)

@[simp] theorem State.extendMr_trust : (s.extendMr mr p typ v).trust = s.trust := rfl
@[simp] theorem State.extendMr_ras : (s.extendMr mr p typ v).ras = s.ras := rfl
@[simp] theorem State.extendMr_out : (s.extendMr mr p typ v).out = s.out := rfl
@[simp] theorem State.extendMr_rd (t i o : Nat) : (s.extendMr mr p typ v).rd t i o = s.rd t i o := rfl
@[simp] theorem State.extendMr_fget (f : Fld) (i x : Nat) : (s.extendMr mr p typ v).fget f i x = s.fget f i x := rfl

/-- A register that is extended holds the digest of its value with what extends it (R562). -/
theorem State.mrValue_extendMr_same : (s.extendMr mr p typ v).mrValue mr = sha384 (s.mrValue mr ++ v) := by
  simp [State.mrValue, State.extendMr]

/-- Every other register keeps its value. -/
theorem State.mrValue_extendMr_ne {k : Nat} (h : k ≠ mr) : (s.extendMr mr p typ v).mrValue k = s.mrValue k := by
  simp only [State.mrValue, State.extendMr]
  exact Tab.get_set_ne _ _ h

theorem State.mrValue_congr {s t : State} (h : t.meas = s.meas) (k : Nat) : t.mrValue k = s.mrValue k := by
  rw [State.mrValue, State.mrValue, h]

end

/-! ## The end of reset (R297, R553) -/

/-- The classifiers' key has 256 bits. -/
theorem hashKey_lt (a b c d : BitVec 64) : a.toNat + 2 ^ 64 * b.toNat + 2 ^ 128 * c.toNat + 2 ^ 192 * d.toNat < 2 ^ 256 := by
  have := a.isLt
  have := b.isLt
  have := c.isLt
  have := d.isLt
  omega

section
variable (s : State)

theorem State.drawHashKey_trust : s.drawHashKey.trust = { s.trust with hashKey := s.drawHashKey.trust.hashKey } := by
  simp [State.drawHashKey, State.upTrust]
theorem State.drawHashKey_regs : s.drawHashKey.regs = s.regs := by simp [State.drawHashKey]
theorem State.drawHashKey_meas : s.drawHashKey.meas = s.meas := by simp [State.drawHashKey]
theorem State.drawHashKey_out : s.drawHashKey.out = s.out := by simp [State.drawHashKey]

theorem State.drawHashKey_lt : s.drawHashKey.trust.hashKey < 2 ^ 256 := by
  simp only [State.drawHashKey, State.upTrust]
  exact hashKey_lt _ _ _ _

end

/-- The state in which the ROM runs, with itself measured into MR0. -/
def State.romStarted (s : State) : State := (s.upTrust fun t => { t with boot := .rom }).extendMr 0 0 0 s.romValue

section
variable {s : State}

theorem execSysRstNRelease_of_held (hp : s.power.standby = false) (hb : s.trust.boot = .held) (ok : Bool) :
    exec (.sysRstNRelease ok) s = .next (if ok then s.romStarted.drawHashKey.drawKey 0 else s.romStarted.fset F.TRUST_STAT_STATE 0 4) := by
  show execSysRstNRelease ok s = _
  unfold execSysRstNRelease
  simp [hp, hb, State.romStarted]

theorem execSysRstNRelease_of_running (hp : s.power.standby = false) (hb : s.trust.boot ≠ .held) (ok : Bool) :
    exec (.sysRstNRelease ok) s = .next s := by
  show execSysRstNRelease ok s = _
  unfold execSysRstNRelease
  simp [hp, hb]

/-- The end of reset, with a random source that works. -/
theorem sysRstNRelease_starts (hp : s.power.standby = false) (hb : s.trust.boot = .held) :
    ∃ t, exec (.sysRstNRelease true) s = .next t ∧ t.trust = { s.trust with boot := .rom, hashKey := t.trust.hashKey } ∧ t.trust.hashKey < 2 ^ 256 ∧
      t.mrValue 0 = sha384 (s.mrValue 0 ++ s.romValue) ∧ (∀ i, i ≠ 0 → t.mrValue i = s.mrValue i) ∧ t.regs = s.regs ∧ t.out = s.out := by
  have hk : ∀ u : State, (u.drawKey 0).trust = u.trust ∧ (u.drawKey 0).regs = u.regs ∧ (u.drawKey 0).meas = u.meas ∧ (u.drawKey 0).out = u.out :=
    fun u => ⟨rfl, rfl, rfl, rfl⟩
  obtain ⟨htrust, hregs, hmeas, hout⟩ := hk s.romStarted.drawHashKey
  have hrom : s.romStarted.trust = { s.trust with boot := .rom } := rfl
  have hm : ∀ i, (s.romStarted.drawHashKey.drawKey 0).mrValue i = s.romStarted.mrValue i := fun i =>
    State.mrValue_congr (hmeas.trans s.romStarted.drawHashKey_meas) i
  have hexec := execSysRstNRelease_of_held hp hb true
  rw [if_pos rfl] at hexec
  refine ⟨_, hexec, ?_, ?_, (hm 0).trans ?_, fun i hi => (hm i).trans ?_, hregs.trans s.romStarted.drawHashKey_regs,
    hout.trans s.romStarted.drawHashKey_out⟩
  · rw [htrust, s.romStarted.drawHashKey_trust, hrom]
  · rw [htrust]
    exact s.romStarted.drawHashKey_lt
  · exact State.mrValue_extendMr_same ..
  · exact State.mrValue_extendMr_ne _ _ _ _ _ hi

/-- The end of reset, with a random source that fails. -/
theorem sysRstNRelease_fails (hp : s.power.standby = false) (hb : s.trust.boot = .held) :
    ∃ t, exec (.sysRstNRelease false) s = .next t ∧ t.fget F.TRUST_STAT_STATE 0 = 4 ∧ SameRegsBut s t [fieldAt F.TRUST_STAT_STATE 0] :=
  ⟨s.romStarted.fset F.TRUST_STAT_STATE 0 4, execSysRstNRelease_of_held hp hb false, State.fget_fset_same _ _ _ _ _ (by decide),
    ((SameRegsBut.refl s _).keep (u := s.romStarted) rfl rfl).fset F.TRUST_STAT_STATE 0 4 0 (List.mem_singleton.2 rfl)⟩

end

/-! ## Firmware (R553, R555, R557, R562) -/

section
variable (s : State) (kind typ inst detail : Nat)

/-- A fault record is asked for after the records that wait. -/
theorem State.faultRecord_reqs : ∃ r : LReq, r.typ = 4 ∧ (s.faultRecord kind typ inst detail).led.reqs = s.led.reqs ++ [r] := ⟨_, rfl, rfl⟩

theorem State.faultRecord_reqs_length : (s.faultRecord kind typ inst detail).led.reqs.length = s.led.reqs.length + 1 := by
  obtain ⟨r, -, e⟩ := s.faultRecord_reqs kind typ inst detail
  rw [e, List.length_append, List.length_singleton]

@[simp] theorem State.faultRecord_trust : (s.faultRecord kind typ inst detail).trust = s.trust := rfl
@[simp] theorem State.faultRecord_meas : (s.faultRecord kind typ inst detail).meas = s.meas := rfl
@[simp] theorem State.faultRecord_rd (t i o : Nat) : (s.faultRecord kind typ inst detail).rd t i o = s.rd t i o := rfl

end

/-- The registers that a firmware image's start sets: TRUST_STAT, TRUST_SVN and TRUST_FWVER. -/
def State.firmwareRegs (s : State) (src min : Nat) (d : List Byte) : State :=
  ((((((s.fset F.TRUST_STAT_STATE 0 1).fset F.TRUST_STAT_SRC 0 src).fset F.TRUST_STAT_KEYSLOT 0 (leAt d 6 1)).fset F.TRUST_SVN_SVN 0 (leAt d 8 4)).fset
    F.TRUST_SVN_MIN 0 min).fset F.TRUST_FWVER_LO_VERSION 0 (leAt d 0x10 4)).fset F.TRUST_FWVER_HI_VERSION 0 (leAt d 0x14 4)

@[simp] theorem State.firmwareRegs_trust (s : State) (src min : Nat) (d : List Byte) : (s.firmwareRegs src min d).trust = s.trust := by
  unfold State.firmwareRegs
  iterate 7 rw [State.fset_trust]
@[simp] theorem State.firmwareRegs_meas (s : State) (src min : Nat) (d : List Byte) : (s.firmwareRegs src min d).meas = s.meas := by
  unfold State.firmwareRegs
  iterate 7 rw [State.fset_meas]
@[simp] theorem State.firmwareRegs_out (s : State) (src min : Nat) (d : List Byte) : (s.firmwareRegs src min d).out = s.out := by
  unfold State.firmwareRegs
  iterate 7 rw [State.fset_out]

/-- A reset by the watchdog is recorded. -/
def State.recordWatchdog (s : State) : State := if s.trust.watchdog then s.faultRecord 0x41 T.power 0 5 else s

@[simp] theorem State.recordWatchdog_trust (s : State) : s.recordWatchdog.trust = s.trust := by unfold State.recordWatchdog; split <;> rfl
@[simp] theorem State.recordWatchdog_meas (s : State) : s.recordWatchdog.meas = s.meas := by unfold State.recordWatchdog; split <;> rfl
@[simp] theorem State.recordWatchdog_out (s : State) : s.recordWatchdog.out = s.out := by unfold State.recordWatchdog; split <;> rfl
@[simp] theorem State.recordWatchdog_fget (s : State) (f : Fld) (i x : Nat) : s.recordWatchdog.fget f i x = s.fget f i x := by
  unfold State.recordWatchdog; split <;> rfl

section
variable (s : State) (src : Nat) (d : List Byte)

/-- The start of firmware: two measurements, the registers, the watchdog's record and the stage of boot. -/
theorem State.startFirmware_eq : ∃ v, s.startFirmware src d =
    ((((s.extendMr 1 0 1 (fwDigest d)).extendMr 2 0 2 v).firmwareRegs src s.effMin d).recordWatchdog.upTrust
      fun t => { t with boot := .firmware, digest := fwDigest d, watchdog := false }) := ⟨_, rfl⟩

/-- The fields after a start of firmware are those of the registers it sets. -/
theorem State.startFirmware_fget (f : Fld) (i x : Nat) :
    ∃ u : State, (∀ g j y, u.fget g j y = s.fget g j y) ∧ (s.startFirmware src d).fget f i x = (u.firmwareRegs src s.effMin d).fget f i x := by
  obtain ⟨v, e⟩ := s.startFirmware_eq src d
  exact ⟨(s.extendMr 1 0 1 (fwDigest d)).extendMr 2 0 2 v, fun g j y => by simp, by rw [e, State.upTrust_fget, State.recordWatchdog_fget]⟩

theorem State.startFirmware_trust :
    (s.startFirmware src d).trust = { s.trust with boot := .firmware, digest := fwDigest d, watchdog := false } := by
  obtain ⟨v, e⟩ := s.startFirmware_eq src d
  rw [e, State.upTrust]
  simp only [State.recordWatchdog_trust, State.firmwareRegs_trust, State.extendMr_trust]

theorem State.startFirmware_out : (s.startFirmware src d).out = s.out := by
  obtain ⟨v, e⟩ := s.startFirmware_eq src d
  rw [e, State.upTrust_out, State.recordWatchdog_out, State.firmwareRegs_out, State.extendMr_out, State.extendMr_out]

/-- An image's digest is measured into MR1. -/
theorem State.startFirmware_mr1 : (s.startFirmware src d).mrValue 1 = sha384 (s.mrValue 1 ++ fwDigest d) := by
  obtain ⟨v, e⟩ := s.startFirmware_eq src d
  have hm : (s.startFirmware src d).meas = ((s.extendMr 1 0 1 (fwDigest d)).extendMr 2 0 2 v).meas := by
    rw [e, State.upTrust_meas, State.recordWatchdog_meas, State.firmwareRegs_meas]
  rw [State.mrValue_congr hm, State.mrValue_extendMr_ne _ _ _ _ _ (by decide), State.mrValue_extendMr_same]

theorem State.startFirmware_state : (s.startFirmware src d).fget F.TRUST_STAT_STATE 0 = 1 := by
  obtain ⟨u, hu, e⟩ := s.startFirmware_fget src d _ 0 0
  rw [e, State.firmwareRegs]
  iterate 6 rw [State.fget_fset_clear _ (by decide) (by decide)]
  exact State.fget_fset_same _ _ _ _ _ (by decide)

theorem State.startFirmware_src (h : src < 16) : (s.startFirmware src d).fget F.TRUST_STAT_SRC 0 = src := by
  obtain ⟨u, hu, e⟩ := s.startFirmware_fget src d _ 0 0
  rw [e, State.firmwareRegs]
  iterate 5 rw [State.fget_fset_clear _ (by decide) (by decide)]
  exact (State.fget_fset_same _ _ _ _ _ (by decide)).trans (Nat.mod_eq_of_lt h)

theorem State.startFirmware_svn : (s.startFirmware src d).fget F.TRUST_SVN_SVN 0 = leAt d 8 4 % 65536 := by
  obtain ⟨u, hu, e⟩ := s.startFirmware_fget src d _ 0 0
  rw [e, State.firmwareRegs]
  iterate 3 rw [State.fget_fset_clear _ (by decide) (by decide)]
  exact State.fget_fset_same _ _ _ _ _ (by decide)

theorem State.startFirmware_result : (s.startFirmware src d).fget F.TRUST_RECOV_CTRL_RESULT 0 = s.fget F.TRUST_RECOV_CTRL_RESULT 0 := by
  obtain ⟨u, hu, e⟩ := s.startFirmware_fget src d _ 0 0
  rw [e, State.firmwareRegs]
  iterate 7 rw [State.fget_fset_clear _ (by decide) (by decide)]
  exact hu _ _ _

/-- A source whose image passes R557 boots. -/
theorem State.tryBoot_of_passes {l : List (Nat × Option (List Byte))} (h : s.fwCheck d = 0) : s.tryBoot ((src, some d) :: l) = s.startFirmware src d := by
  simp only [State.tryBoot, h, if_true, Option.getD_some]

/-- A source without an image raises and records a fallback. -/
theorem State.tryBoot_of_none (l : List (Nat × Option (List Byte))) :
    s.tryBoot ((src, none) :: l) = ((s.raise T.trust 0 I.TRUST_BOOT_FALLBACK).faultRecord 0x40 T.trust src 2).tryBoot l := by
  simp [State.tryBoot]

/-- The checks of R557 depend on the fuses and the Ledger. -/
theorem State.fwCheck_congr {t : State} (hf : t.fuse = s.fuse) (hl : t.led = s.led) : t.fwCheck d = s.fwCheck d := by
  have hk : ∀ slot ec ml, t.keyFused slot ec ml = s.keyFused slot ec ml := fun slot ec ml => by rw [State.keyFused, State.keyFused, hf]
  have hm : t.effMin = s.effMin := by
    simp only [State.effMin, State.minSvn, State.ledgerPayload, State.currentSlot, State.slotBytes, hf, hl]
  unfold State.fwCheck
  simp only [hk, hm]

end

section
variable {s : State}

theorem execBootFirmwareStart_of_waiting (x0 x1 : Option (List Byte)) (h : s.led.recovered = false) : exec (.bootFirmwareStart x0 x1) s = .next s := by
  show execBootFirmwareStart x0 x1 s = _
  unfold execBootFirmwareStart
  simp [h]

/-- The sources are tried once the Ledger has been recovered or has failed (R555). -/
theorem execBootFirmwareStart_of_ready (x0 x1 : Option (List Byte)) (hb : s.trust.boot = .rom) (hs : s.fget F.TRUST_STAT_STATE 0 = 0)
    (hr : s.led.recovered = true) :
    exec (.bootFirmwareStart x0 x1) s = .next (s.tryBoot
      [(s.bootActive % 2, if s.fget F.LEDGER_STAT_STATE 0 = 3 then none else some (s.slotImage (s.bootActive % 2))),
        (1 - s.bootActive % 2, if s.fget F.LEDGER_STAT_STATE 0 = 3 then none else some (s.slotImage (1 - s.bootActive % 2))), (2, x0), (3, x1)]) := by
  show execBootFirmwareStart x0 x1 s = _
  unfold execBootFirmwareStart
  simp [hb, hs, hr]

/-- Firmware starts from the active slot where its image passes. -/
theorem bootFirmwareStart_active (x0 x1 : Option (List Byte)) {a : Nat} (hb : s.trust.boot = .rom) (hs : s.fget F.TRUST_STAT_STATE 0 = 0)
    (hr : s.led.recovered = true) (hl : s.fget F.LEDGER_STAT_STATE 0 = 1) (ha : s.bootActive % 2 = a) (hc : s.fwCheck (s.slotImage a) = 0) :
    ∃ t, exec (.bootFirmwareStart x0 x1) s = .next t ∧ t.fget F.TRUST_STAT_STATE 0 = 1 ∧ t.fget F.TRUST_STAT_SRC 0 = a ∧ t.trust.boot = .firmware ∧
      t.trust.digest = fwDigest (s.slotImage a) ∧ t.fget F.TRUST_SVN_SVN 0 = leAt (s.slotImage a) 8 4 % 65536 ∧
      t.mrValue 1 = sha384 (s.mrValue 1 ++ fwDigest (s.slotImage a)) ∧ t.out = s.out := by
  have e := execBootFirmwareStart_of_ready x0 x1 hb hs hr
  rw [hl, ha, if_neg (by decide), State.tryBoot_of_passes _ _ _ hc] at e
  have ht := s.startFirmware_trust a (s.slotImage a)
  exact ⟨_, e, s.startFirmware_state _ _, s.startFirmware_src _ _ (by omega), by rw [ht], by rw [ht], s.startFirmware_svn _ _, s.startFirmware_mr1 _ _,
    s.startFirmware_out _ _⟩

/-- With no image at all four fallbacks are raised and recorded, and the device is in RECOVERY. -/
theorem bootFirmwareStart_recovery (hb : s.trust.boot = .rom) (hs : s.fget F.TRUST_STAT_STATE 0 = 0) (hr : s.led.recovered = true)
    (hl : s.fget F.LEDGER_STAT_STATE 0 = 3) :
    ∃ t, exec (.bootFirmwareStart none none) s = .next t ∧ t.fget F.TRUST_STAT_STATE 0 = 3 ∧ t.trust = s.trust ∧ causeSet t T.trust 0 I.TRUST_BOOT_FALLBACK ∧
      causeSet t T.trust 0 I.TRUST_RECOVERY ∧ t.led.reqs.length = s.led.reqs.length + 4 ∧ t.meas = s.meas := by
  have e := execBootFirmwareStart_of_ready none none hb hs hr
  rw [hl, if_pos rfl, if_pos rfl] at e
  iterate 4 rw [State.tryBoot_of_none] at e
  have hfall : ∀ (u : State) (src : Nat), causeSet ((u.raise T.trust 0 I.TRUST_BOOT_FALLBACK).faultRecord 0x40 T.trust src 2) T.trust 0 I.TRUST_BOOT_FALLBACK :=
    fun u src => causeSet_raise u T.trust 0 I.TRUST_BOOT_FALLBACK (by decide) (by decide)
  refine ⟨_, e, ?_, ?_, ?_, ?_, ?_, ?_⟩
  · rw [State.tryBoot, State.fget_raise_ne _ _ _ _ (by decide), State.fget_fset_same _ _ _ _ _ (by decide)]
    rfl
  · simp [State.tryBoot]
  · exact ((hfall _ 3).keep (State.rd_wr_off_ne _ _ (by decide))).raise T.trust 0 I.TRUST_RECOVERY
  · exact causeSet_raise _ T.trust 0 I.TRUST_RECOVERY (by decide) (by decide)
  · simp [State.tryBoot, State.faultRecord_reqs_length]
  · simp [State.tryBoot]

end

end Sys2Proof.Machine
end

section

/-!
PROOF. RECOVERY_GO, memory and mills at boot, and the end of boot (R20, R75, R448, R553, R554, R559, R562), and the statement on boot.
-/

namespace Sys2Proof.Machine

/-! ## RECOVERY_GO (R559, R582) -/

section
variable {s : State} {fn data : Nat} (img : Option (List Byte))

/-- Where the access does not reach the page it is answered as every access is. -/
theorem recoveryGo_unreached :
    (s.gate fn = .silent → exec (.recoveryGo fn data img) s = .next s) ∧
    (s.gate fn = .unsupported → exec (.recoveryGo fn data img) s = .next (s.unsupportedReq fn (regAddr T.trust 0 0x78))) ∧
    (s.gate fn = .open' → s.sees fn T.trust 0 = false → exec (.recoveryGo fn data img) s = .next (s.logDevice 2 fn (regAddr T.trust 0 0x78) data)) := by
  have e : exec (.recoveryGo fn data img) s = .next (s.guarded fn T.trust 0 0x78 data fun t => t.recoveryGo fn data img) := rfl
  rw [e, State.guarded]
  refine ⟨fun h => by rw [h], fun h => by rw [h], fun h hs => ?_⟩
  rw [h]
  simp only [hs, Bool.false_eq_true, if_false]

theorem execRecoveryGo_of_reaches (h : Reaches s fn T.trust 0) : exec (.recoveryGo fn data img) s = .next (s.recoveryGo fn data img) := by
  obtain ⟨-, hg, -, -, hs⟩ := h
  have e : exec (.recoveryGo fn data img) s = .next (s.guarded fn T.trust 0 0x78 data fun t => t.recoveryGo fn data img) := rfl
  rw [e, State.guarded, hg]
  simp only [hs, if_true]

/-- Outside RECOVERY the write is dropped and logged. -/
theorem recoveryGo_outside (h : Reaches s fn T.trust 0) (hs : s.fget F.TRUST_STAT_STATE 0 ≠ 3) :
    ∃ t, exec (.recoveryGo fn data img) s = .next t ∧ SameRegsBut s t (errLogAt T.trust 0) ∧ t = { s with regs := t.regs } := by
  have e := execRecoveryGo_of_reaches (data := data) img h
  rw [State.recoveryGo, if_pos hs] at e
  exact ⟨_, e, (SameRegsBut.refl s _).logErr _ _ _ _ _ _ fun _ h => h, State.logErr_eq ..⟩

/-- A read of host memory that fails reports RESULT 5, and the device stays in RECOVERY. -/
theorem recoveryGo_fails (h : Reaches s fn T.trust 0) (hs : s.fget F.TRUST_STAT_STATE 0 = 3) :
    ∃ t, exec (.recoveryGo fn data none) s = .next t ∧ t.fget F.TRUST_RECOV_CTRL_RESULT 0 = 5 ∧ t.fget F.TRUST_STAT_STATE 0 = 3 ∧
      SameRegsBut s t [fieldAt F.TRUST_RECOV_CTRL_RESULT 0] ∧ t = { s with regs := t.regs } := by
  have e := execRecoveryGo_of_reaches (data := data) none h
  rw [State.recoveryGo, if_neg (not_not.2 hs)] at e
  refine ⟨_, e, State.fget_fset_same _ _ _ _ _ (by decide), ?_, ?_, ((RegsOnly.refl s).fset ..).fset ..⟩
  · rw [State.fget_fset_clear _ (by decide) (by decide), State.fget_fset_clear _ (by decide) (by decide), hs]
  · exact ((SameRegsBut.refl s _).fset F.TRUST_RECOV_CTRL_LEN 0 _ 0 (by decide)).fset F.TRUST_RECOV_CTRL_RESULT 0 5 0 (by decide)

/-- An image that passes boots as source 4. -/
theorem recoveryGo_boots (h : Reaches s fn T.trust 0) (hs : s.fget F.TRUST_STAT_STATE 0 = 3) (img : List Byte) (hlen : data % 2 ^ 21 ≤ 1966080)
    (hc : s.fwCheck (img.take (data % 2 ^ 21)) = 0) (hl : s.fget F.LEDGER_STAT_STATE 0 ≠ 1) :
    ∃ t, exec (.recoveryGo fn data (some img)) s = .next t ∧ t.fget F.TRUST_RECOV_CTRL_RESULT 0 = 1 ∧ t.fget F.TRUST_STAT_STATE 0 = 1 ∧
      t.fget F.TRUST_STAT_SRC 0 = 4 ∧ t.trust.boot = .firmware ∧ t.trust.digest = fwDigest (img.take (data % 2 ^ 21)) := by
  have e := execRecoveryGo_of_reaches (data := data) (some img) h
  have hc' : (s.fset F.TRUST_RECOV_CTRL_LEN 0 (data % 2 ^ 21)).fwCheck (img.take (data % 2 ^ 21)) = 0 :=
    (State.fwCheck_congr s _ (State.fset_fuse ..) (State.fset_led ..)).trans hc
  have hl' : (s.fset F.TRUST_RECOV_CTRL_LEN 0 (data % 2 ^ 21)).fget F.LEDGER_STAT_STATE 0 ≠ 1 := by
    rwa [State.fget_fset_clear _ (by decide) (by decide)]
  rw [State.recoveryGo, if_neg (not_not.2 hs)] at e
  simp only [if_neg (Nat.not_lt.2 hlen), hc', if_neg hl', ne_eq, not_true_eq_false, if_false] at e
  have ht := ((s.fset F.TRUST_RECOV_CTRL_LEN 0 (data % 2 ^ 21)).fset F.TRUST_RECOV_CTRL_RESULT 0 1).startFirmware_trust 4 (img.take (data % 2 ^ 21))
  refine ⟨_, e, ?_, State.startFirmware_state _ _ _, State.startFirmware_src _ _ _ (by decide), by rw [ht], by rw [ht]⟩
  rw [State.startFirmware_result]
  exact State.fget_fset_same _ _ _ _ _ (by decide)

end

/-! ## Memory and mills (R20, R75, R448) -/

/-- Two states agree in all but registers and power domains. -/
def SameButRegsPower (s t : State) : Prop := t = { s with regs := t.regs, power := t.power }

theorem SameButRegsPower.refl (s : State) : SameButRegsPower s s := rfl

theorem SameButRegsPower.trans {s t u : State} (h : SameButRegsPower s t) (k : SameButRegsPower t u) : SameButRegsPower s u := by
  unfold SameButRegsPower at h k ⊢
  rw [k, h]

theorem SameButRegsPower.wr {s t : State} (h : SameButRegsPower s t) (ty i o v : Nat) : SameButRegsPower s (t.wr ty i o v) :=
  h.trans (u := t.wr ty i o v) rfl

theorem SameButRegsPower.fset {s t : State} (h : SameButRegsPower s t) (f : Fld) (i v x : Nat) : SameButRegsPower s (t.fset f i v x) := h.wr ..

theorem SameButRegsPower.setDom {s t : State} (h : SameButRegsPower s t) (d v : Nat) : SameButRegsPower s (t.setDom d v) :=
  h.trans (u := t.setDom d v) rfl

theorem SameButRegsPower.setHolder {s t : State} (h : SameButRegsPower s t) (q : Nat) (m : Option Nat) : SameButRegsPower s (t.setHolder q m) := h.wr ..

theorem SameButRegsPower.dikeMill {s t : State} (h : SameButRegsPower s t) (p m : Nat) (held : Bool) : SameButRegsPower s (t.dikeMill p m held) := by
  unfold State.dikeMill
  dsimp only
  split
  · exact h
  · exact (h.wr ..).fset ..

/-- Retiring a mill at boot changes registers and power domains alone. -/
theorem State.retireAtBoot_rel (s : State) (m : Nat) : SameButRegsPower s (s.retireAtBoot m) := by
  have h0 := SameButRegsPower.refl s
  unfold State.retireAtBoot
  split
  · exact h0
  · split
    · exact (h0.fset ..).setDom ..
    · have h1 := ((h0.fset F.MILL_ROLE_ROLE m 5 0).setDom m 0).dikeMill 0 m false
      have h2 : ∀ q : Option Nat, SameButRegsPower s (match q with
          | some k => (((s.fset F.MILL_ROLE_ROLE m 5).setDom m 0).dikeMill 0 m false).setHolder k (s.spareOf (rowOf m))
          | none => ((s.fset F.MILL_ROLE_ROLE m 5).setDom m 0).dikeMill 0 m false) := fun q => by
        cases q with
        | none => exact h1
        | some k => exact h1.setHolder ..
      dsimp only
      split
      · exact (((h2 _).fset ..).setDom ..).dikeMill ..
      · exact h2 _

/-- The release of a fabric reset changes the fabric alone. -/
theorem State.fabricRelease_eq (s : State) (h : Nat) : ∃ f, s.fabricRelease h = { s with fab := f } := by
  have key : ∀ (l : List Nat) (s : State),
      ∃ f, l.foldl (fun st n => if (st.lock h n).st = .held then st.setLock h n { st.lock h n with st := .run } else st) s = { s with fab := f } := by
    intro l
    induction l with
    | nil => intro s; exact ⟨s.fab, rfl⟩
    | cons n l ih =>
      intro s
      obtain ⟨f, hf⟩ := ih (if (s.lock h n).st = .held then s.setLock h n { s.lock h n with st := .run } else s)
      refine ⟨f, ?_⟩
      rw [List.foldl_cons, hf]
      split <;> rfl
  exact key _ s

/-- One lock let go of its hold. -/
theorem State.lock_release_one (s : State) {h n h' k : Nat} (hn : n < 32) (hk : k < 32) :
    ((if (s.lock h n).st = .held then s.setLock h n { s.lock h n with st := .run } else s).lock h' k).st =
      if h' = h ∧ k = n ∧ (s.lock h' k).st = .held then .run else (s.lock h' k).st := by
  by_cases hst : (s.lock h n).st = .held
  · rw [if_pos hst]
    by_cases he : h' = h ∧ k = n
    · obtain ⟨rfl, rfl⟩ := he
      rw [State.lock_setLock_same, if_pos ⟨rfl, rfl, hst⟩]
    · have hne : 32 * h' + k ≠ 32 * h + n := by omega
      rw [if_neg fun e => he ⟨e.1, e.2.1⟩, State.lock, State.setLock, Tab.get_set_ne _ _ hne, State.lock]
  · rw [if_neg hst, if_neg]
    rintro ⟨rfl, rfl, e⟩
    exact hst e

/-- The release of a die's fabric reset lets its held locks run (R75). -/
theorem State.lock_fabricRelease (s : State) (h : Nat) {h' k : Nat} (hk : k < 19) :
    ((s.fabricRelease h).lock h' k).st = if h' = h ∧ (s.lock h' k).st = .held then .run else (s.lock h' k).st := by
  have key : ∀ (l : List Nat), (∀ n ∈ l, n < 32) → ∀ s : State,
      ((l.foldl (fun st n => if (st.lock h n).st = .held then st.setLock h n { st.lock h n with st := .run } else st) s).lock h' k).st =
        if h' = h ∧ k ∈ l ∧ (s.lock h' k).st = .held then .run else (s.lock h' k).st := by
    intro l
    induction l with
    | nil => intro _ s; simp
    | cons n l ih =>
      intro hl s
      rw [List.foldl_cons, ih fun m hm => hl m (List.mem_cons_of_mem _ hm), s.lock_release_one (hl n (List.mem_cons_self ..)) (by omega)]
      by_cases hh : h' = h
      · by_cases hkn : k = n
        · subst hh hkn
          by_cases hst : (s.lock h' k).st = .held
          · simp [hst]
          · simp [hst]
        · simp [hh, hkn]
      · simp [hh]
  rw [State.fabricRelease, key _ (fun n hn => by have := List.mem_range.1 hn; omega)]
  simp [hk]

/-- Memory and mills at boot. -/
theorem hbmInitDone_effect {s : State} (hb : s.trust.boot = .firmware) :
    ∃ t, exec .hbmInitDone s = .next t ∧ t.trust = { s.trust with boot := .memory } ∧ t.mem.retired = s.ledgerRetired ∧
      (∀ h n, h < 2 → n < 19 → (t.lock h n).st = if (s.lock h n).st = .held then .run else (s.lock h n).st) ∧
      (((s.ledgerPayload 1 1).getD [] = [] ∧ s.ledgerRetired = []) → t.regs = s.regs ∧ t.power = s.power) := by
  have e : exec .hbmInitDone s = .next (((
      (((List.range 80).filter fun m => bitAt (leAt ((s.ledgerPayload 1 1).getD []) 0 10) m).foldl State.retireAtBoot
        (s.ledgerRetired.foldl (fun t k => t.finc F.HBMC_STAT_SPARES_USED (16 * (k / 2 ^ 23) + k % 16))
          (s.upMem fun m => { m with retired := s.ledgerRetired }))).fabricRelease 0).fabricRelease 1).upTrust fun t => { t with boot := .memory }) := by
    show execHbmInitDone s = _
    unfold execHbmInitDone
    rw [if_neg (not_not.2 hb)]
  generalize hu : s.ledgerRetired.foldl (fun t k => t.finc F.HBMC_STAT_SPARES_USED (16 * (k / 2 ^ 23) + k % 16))
    (s.upMem fun m => { m with retired := s.ledgerRetired }) = u at e
  have hmem : SameButRegsPower (s.upMem fun m => { m with retired := s.ledgerRetired }) u :=
    hu ▸ foldl_rel SameButRegsPower.refl SameButRegsPower.trans _ (fun t k _ => (SameButRegsPower.refl t).fset ..) _
  generalize hw : ((List.range 80).filter fun m => bitAt (leAt ((s.ledgerPayload 1 1).getD []) 0 10) m).foldl State.retireAtBoot u = w at e
  have hmills : SameButRegsPower (s.upMem fun m => { m with retired := s.ledgerRetired }) w :=
    hmem.trans (hw ▸ foldl_rel SameButRegsPower.refl SameButRegsPower.trans _ (fun t m _ => t.retireAtBoot_rel m) _)
  obtain ⟨f0, h0⟩ := w.fabricRelease_eq 0
  obtain ⟨f1, h1⟩ := (w.fabricRelease 0).fabricRelease_eq 1
  have htrust : ((w.fabricRelease 0).fabricRelease 1).trust = s.trust := by rw [h1, h0, hmills]; rfl
  have hret : ((w.fabricRelease 0).fabricRelease 1).mem.retired = s.ledgerRetired := by rw [h1, h0, hmills]; rfl
  have hlock : ∀ h n, w.lock h n = s.lock h n := fun h n => by rw [hmills]; rfl
  refine ⟨_, e, congrArg (fun t : TrustSt => { t with boot := .memory }) htrust, (congrArg Mem.retired (State.upTrust_mem ..)).trans hret, fun h n hh hn => ?_, fun ⟨hmap, hpages⟩ => ?_⟩
  · have hup : ∀ u : State, (u.upTrust fun t => { t with boot := .memory }).lock h n = u.lock h n := fun _ => rfl
    rw [hup, State.lock_fabricRelease _ _ hn, State.lock_fabricRelease _ _ hn, hlock]
    obtain rfl | rfl : h = 0 ∨ h = 1 := by omega
    · simp
    · simp
  · rw [hpages, List.foldl_nil] at hu
    have hnone : ((List.range 80).filter fun m => bitAt (leAt [] 0 10) m) = [] := by
      have h0 : leAt [] 0 10 = 0 := rfl
      simp [h0, bitAt]
    rw [hmap, hnone, List.foldl_nil] at hw
    constructor
    · rw [State.upTrust_regs, h1, h0, ← hw, ← hu]
      rfl
    · rw [State.upTrust_power, h1, h0, ← hw, ← hu]
      rfl

/-! ## The end of boot (R553, R554, R562) -/

/-- HBMC 0 to n - 1 are enabled and locked. -/
def State.enableHbmcs (s : State) (n : Nat) : State :=
  (List.range n).foldl (fun t i => (t.fset F.HBMC_CTRL_EN i 1).hset F.BLK_CTRL_LOCK T.hbmc i 1) s

/-- The engines of half h are enabled, and its page is locked. -/
def State.enableHalf (s : State) (h : Nat) : State := ((s.fset F.CLS_CTRL_EN h 1).fset F.STREAM_CTRL_EN h 1).hset F.BLK_CTRL_LOCK T.half h 1

/-- A page with BLK_CTRL.LOCK set reads it. -/
theorem State.hget_lock_hset_same (s : State) (t i : Nat) : (s.hset F.BLK_CTRL_LOCK t i 1).hget F.BLK_CTRL_LOCK t i = 1 := by
  rw [State.hget, State.hset, State.rd_wr_same, bitField_word _ _ _ (by decide), bitField_setField_same]
  rfl

theorem State.fget_hset_ne (s : State) {f g : Fld} {t i v j y : Nat} (h : g.addr j y ≠ regAddr t i f.off) : (s.hset f t i v).fget g j y = s.fget g j y :=
  s.fget_wr_ne g j _ y h

theorem State.hget_congr {s t : State} {f : Fld} {ty i : Nat} (h : t.rd ty i f.off = s.rd ty i f.off) : t.hget f ty i = s.hget f ty i := by
  rw [State.hget, State.hget, h]

/-- The registers that enabling HBMC 0 to n - 1 sets. -/
def hbmcAddrs (n : Nat) : List Nat := (List.range n).flatMap fun i => [fieldAt F.HBMC_CTRL_EN i, regAddr T.hbmc i 0x10]

theorem mem_hbmcAddrs {n a : Nat} : a ∈ hbmcAddrs n ↔ ∃ i < n, a = fieldAt F.HBMC_CTRL_EN i ∨ a = regAddr T.hbmc i 0x10 := by
  simp [hbmcAddrs]

/-- Enabling HBMC pages sets EN and LOCK of each and leaves the rest. -/
theorem State.enableHbmcs_effect (s : State) (n : Nat) :
    (∀ i, i < n → (s.enableHbmcs n).fget F.HBMC_CTRL_EN i = 1 ∧ (s.enableHbmcs n).hget F.BLK_CTRL_LOCK T.hbmc i = 1) ∧
      SameRegsBut s (s.enableHbmcs n) (hbmcAddrs n) ∧ RegsOnly s (s.enableHbmcs n) := by
  induction n with
  | zero => exact ⟨fun i hi => absurd hi (Nat.not_lt_zero i), SameRegsBut.refl s _, RegsOnly.refl s⟩
  | succ n ih =>
    obtain ⟨hon, hsame, honly⟩ := ih
    have e : s.enableHbmcs (n + 1) = ((s.enableHbmcs n).fset F.HBMC_CTRL_EN n 1).hset F.BLK_CTRL_LOCK T.hbmc n 1 := by
      rw [State.enableHbmcs, List.range_succ, List.foldl_append]
      rfl
    have hstep : SameRegsBut (s.enableHbmcs n) (s.enableHbmcs (n + 1)) [fieldAt F.HBMC_CTRL_EN n, regAddr T.hbmc n 0x10] :=
      e ▸ ((SameRegsBut.refl _ _).fset F.HBMC_CTRL_EN n 1 0 (by simp)).hset F.BLK_CTRL_LOCK T.hbmc n 1 (by simp [F.BLK_CTRL_LOCK])
    refine ⟨fun i hi => ?_, ?_, e ▸ (honly.fset ..).hset ..⟩
    · by_cases hin : i = n
      · subst hin
        rw [e]
        refine ⟨?_, State.hget_lock_hset_same ..⟩
        have hne : F.HBMC_CTRL_EN.addr i 0 ≠ regAddr T.hbmc i F.BLK_CTRL_LOCK.off := regAddr_ne_of_off (by decide)
        rw [State.fget_hset_ne _ hne]
        exact State.fget_fset_same _ _ _ _ _ (by decide)
      · obtain ⟨hen, hlock⟩ := hon i (by omega)
        have hne : fieldAt F.HBMC_CTRL_EN i ∉ [fieldAt F.HBMC_CTRL_EN n, regAddr T.hbmc n 0x10] ∧
            regAddr T.hbmc i 0x10 ∉ [fieldAt F.HBMC_CTRL_EN n, regAddr T.hbmc n 0x10] := by
          simp only [fieldAt, regAddr, F.HBMC_CTRL_EN, T.hbmc, List.mem_cons, List.not_mem_nil, or_false]
          omega
        exact ⟨(hstep.fget _ _ _ hne.1).trans hen, (State.hget_congr (hstep.rd hne.2)).trans hlock⟩
    · refine (hsame.mono fun a ha => ?_).trans (hstep.mono fun a ha => ?_)
      · obtain ⟨i, hi, h⟩ := mem_hbmcAddrs.1 ha
        exact mem_hbmcAddrs.2 ⟨i, by omega, h⟩
      · exact mem_hbmcAddrs.2 ⟨n, by omega, by simpa using ha⟩

/-- The registers of a half's engines and its lock. -/
def halfAddrs (h : Nat) : List Nat := [fieldAt F.CLS_CTRL_EN h, fieldAt F.STREAM_CTRL_EN h, regAddr T.half h 0x10]

/-- Enabling a half's engines sets EN of each and LOCK of the half, and leaves the rest. -/
theorem State.enableHalf_effect (s : State) {h : Nat} (hh : h < 2) :
    (s.enableHalf h).fget F.CLS_CTRL_EN h = 1 ∧ (s.enableHalf h).fget F.STREAM_CTRL_EN h = 1 ∧ (s.enableHalf h).hget F.BLK_CTRL_LOCK T.half h = 1 ∧
      SameRegsBut s (s.enableHalf h) (halfAddrs h) := by
  have hne : F.CLS_CTRL_EN.addr h 0 ≠ regAddr T.half h F.BLK_CTRL_LOCK.off ∧ F.STREAM_CTRL_EN.addr h 0 ≠ regAddr T.half h F.BLK_CTRL_LOCK.off ∧
      F.STREAM_CTRL_EN.clear h 0 F.CLS_CTRL_EN h 0 = true := by
    obtain rfl | rfl : h = 0 ∨ h = 1 := by omega
    · decide
    · decide
  obtain ⟨hcls, hstream, hclear⟩ := hne
  refine ⟨?_, ?_, State.hget_lock_hset_same .., ?_⟩
  · rw [State.enableHalf, State.fget_hset_ne _ hcls, State.fget_fset_clear _ (by decide) hclear]
    exact State.fget_fset_same _ _ _ _ _ (by decide)
  · rw [State.enableHalf, State.fget_hset_ne _ hstream]
    exact State.fget_fset_same _ _ _ _ _ (by decide)
  · exact (((SameRegsBut.refl s _).fset F.CLS_CTRL_EN h 1 0 (by simp [halfAddrs])).fset F.STREAM_CTRL_EN h 1 0 (by simp [halfAddrs])).hset F.BLK_CTRL_LOCK
      T.half h 1 (by simp [halfAddrs, F.BLK_CTRL_LOCK])

/-- The registers that the end of boot sets after the engines: those of polder 0 and TRUST. -/
def endBootAddrs : List Nat :=
  [fieldAt F.DIKE_STAT_STATE 0, causeAt T.dike 0, fieldAt F.TRUST_STAT_STATE 0, causeAt T.trust 0]

/-- The rest of the end of boot: measurement, polder 0, STATE and the cause. -/
def State.endBoot (s : State) (v : List Byte) : State :=
  ((((((s.extendMr 4 0 4 libDigest).extendMr 3 0 3 v).setPolState 0 2).fset F.TRUST_STAT_STATE 0 2).upTrust fun t => { t with boot := .done }).raise
    T.trust 0 I.TRUST_BOOT_DONE)

section
variable (s : State) (v : List Byte)

theorem State.endBoot_regs : SameRegsBut s (s.endBoot v) endBootAddrs := by
  have h0 : SameRegsBut s ((s.extendMr 4 0 4 libDigest).extendMr 3 0 3 v) endBootAddrs := (SameRegsBut.refl s _).keep rfl rfl
  have h1 := ((h0.fset F.DIKE_STAT_STATE 0 2 0 (by simp [endBootAddrs])).raise T.dike 0 I.DIKE_STATE_CHANGE (by simp [endBootAddrs])).fset
    F.TRUST_STAT_STATE 0 2 0 (by simp [endBootAddrs])
  exact (h1.keep (State.upTrust_regs ..) (State.upTrust_fuse ..)).raise T.trust 0 I.TRUST_BOOT_DONE (by simp [endBootAddrs])

theorem State.endBoot_trust : (s.endBoot v).trust = { s.trust with boot := .done } := by
  have h : ((((s.extendMr 4 0 4 libDigest).extendMr 3 0 3 v).setPolState 0 2).fset F.TRUST_STAT_STATE 0 2).trust = s.trust := by
    rw [State.fset_trust, State.setPolState, State.raise_trust, State.fset_trust, State.extendMr_trust, State.extendMr_trust]
  rw [State.endBoot, State.raise_trust, State.upTrust, h]

theorem State.endBoot_state : (s.endBoot v).fget F.TRUST_STAT_STATE 0 = 2 := by
  rw [State.endBoot, State.fget_raise_ne _ _ _ _ (by decide), State.upTrust_fget, State.fget_fset_same _ _ _ _ _ (by decide)]
  rfl

theorem State.endBoot_polState : (s.endBoot v).polState 0 = 2 := by
  rw [State.polState, State.endBoot, State.fget_raise_ne _ _ _ _ (by decide), State.upTrust_fget, State.fget_fset_clear _ (by decide) (by decide),
    State.setPolState, State.fget_raise_ne _ _ _ _ (by decide), State.fget_fset_same _ _ _ _ _ (by decide)]
  rfl

/-- The library is measured into MR4. -/
theorem State.endBoot_mr4 : (s.endBoot v).mrValue 4 = sha384 (s.mrValue 4 ++ libDigest) := by
  have hm : (s.endBoot v).meas = ((s.extendMr 4 0 4 libDigest).extendMr 3 0 3 v).meas := by
    rw [State.endBoot, State.raise_meas, State.upTrust_meas, State.fset_meas, State.setPolState, State.raise_meas, State.fset_meas]
  rw [State.mrValue_congr hm, State.mrValue_extendMr_ne _ _ _ _ _ (by decide), State.mrValue_extendMr_same]

end

/-- A role's Bolter image kept changes no register, no measurement and no stage of boot. -/
theorem State.keepImage_keeps (s : State) (m : Nat) :
    (s.keepImage m).regs = s.regs ∧ (s.keepImage m).fuse = s.fuse ∧ (s.keepImage m).meas = s.meas ∧ (s.keepImage m).trust = s.trust := by
  unfold State.keepImage
  split
  · exact ⟨rfl, rfl, rfl, rfl⟩
  · exact ⟨rfl, rfl, rfl, rfl⟩

/-- The Bolters of mills at the start of a role change no register, no measurement and no stage of boot. -/
theorem startBolters_keeps (ms : List Nat) (s : State) :
    (ms.foldl (fun t m => (t.setMill m (boltRoleStart (t.mill m))).keepImage m) s).regs = s.regs ∧
    (ms.foldl (fun t m => (t.setMill m (boltRoleStart (t.mill m))).keepImage m) s).fuse = s.fuse ∧
    (ms.foldl (fun t m => (t.setMill m (boltRoleStart (t.mill m))).keepImage m) s).meas = s.meas ∧
    (ms.foldl (fun t m => (t.setMill m (boltRoleStart (t.mill m))).keepImage m) s).trust = s.trust := by
  induction ms generalizing s with
  | nil => exact ⟨rfl, rfl, rfl, rfl⟩
  | cons m ms ih =>
    obtain ⟨h1, h2, h3, h4⟩ := ih ((s.setMill m (boltRoleStart (s.mill m))).keepImage m)
    obtain ⟨k1, k2, k3, k4⟩ := (s.setMill m (boltRoleStart (s.mill m))).keepImage_keeps m
    exact ⟨h1.trans k1, h2.trans k2, h3.trans k3, h4.trans k4⟩

/-- BOOT_DONE. -/
theorem bootDone_effect {s : State} (hb : s.trust.boot = .memory) :
    ∃ t, exec .bootDone s = .next t ∧ t.trust = { s.trust with boot := .done } ∧ t.fget F.TRUST_STAT_STATE 0 = 2 ∧ causeSet t T.trust 0 I.TRUST_BOOT_DONE ∧
      t.polState 0 = 2 ∧ (∀ i, i < 32 → t.fget F.HBMC_CTRL_EN i = 1 ∧ t.hget F.BLK_CTRL_LOCK T.hbmc i = 1) ∧
      (∀ h, h < 2 → t.fget F.CLS_CTRL_EN h = 1 ∧ t.fget F.STREAM_CTRL_EN h = 1 ∧ t.hget F.BLK_CTRL_LOCK T.half h = 1) ∧ t.fget F.PRESS_CTRL_EN 0 = 1 ∧
      t.mrValue 4 = sha384 (s.mrValue 4 ++ libDigest) ∧ (∀ i, i < 16 → t.hget F.BLK_CTRL_LOCK T.row i = s.hget F.BLK_CTRL_LOCK T.row i) := by
  obtain ⟨hon, hsame, honly⟩ := s.enableHbmcs_effect 32
  generalize hs1 : s.enableHbmcs 32 = s1 at hon hsame honly
  obtain ⟨hcls0, hstream0, hlock0, hsame0⟩ := s1.enableHalf_effect (h := 0) (by decide)
  obtain ⟨hcls1, hstream1, hlock1, hsame1⟩ := (s1.enableHalf 0).enableHalf_effect (h := 1) (by decide)
  have honly2 : RegsOnly s ((s1.enableHalf 0).enableHalf 1) := (((((honly.fset ..).fset ..).hset ..).fset ..).fset ..).hset ..
  generalize hs2 : (s1.enableHalf 0).enableHalf 1 = s2 at hcls1 hstream1 hlock1 hsame1 honly2
  obtain ⟨hregs3, hfuse3, hmeas3, htrust3⟩ := startBolters_keeps ((List.range s.fuse.mills).filter s2.member) (s2.fset F.PRESS_CTRL_EN 0 1)
  generalize hs3 : ((List.range s.fuse.mills).filter s2.member).foldl (fun t m => (t.setMill m (boltRoleStart (t.mill m))).keepImage m)
    (s2.fset F.PRESS_CTRL_EN 0 1) = s3 at hregs3 hfuse3 hmeas3 htrust3
  have e : exec .bootDone s = .next (s3.endBoot s3.lockedValue) := by
    subst hs3 hs2 hs1
    show execBootDone s = _
    unfold execBootDone
    rw [if_neg (not_not.2 hb)]
    rfl
  -- from the enabled engines on, only Press, polder 0 and TRUST change
  have hend : SameRegsBut s2 (s3.endBoot s3.lockedValue) (fieldAt F.PRESS_CTRL_EN 0 :: endBootAddrs) :=
    (((SameRegsBut.refl s2 _).fset F.PRESS_CTRL_EN 0 1 0 (by simp)).keep hregs3 hfuse3).trans ((s3.endBoot_regs _).mono (by simp))
  have hpress : s3.fget F.PRESS_CTRL_EN 0 = 1 := by
    have h3 : s3.fget F.PRESS_CTRL_EN 0 = (s2.fset F.PRESS_CTRL_EN 0 1).fget F.PRESS_CTRL_EN 0 := by
      simp only [State.fget, State.rd, hregs3, hfuse3]
    exact h3.trans (State.fget_fset_same _ _ _ _ _ (by decide))
  have hhalf1 : SameRegsBut (s1.enableHalf 0) (s3.endBoot s3.lockedValue) (halfAddrs 1 ++ fieldAt F.PRESS_CTRL_EN 0 :: endBootAddrs) :=
    (hsame1.mono (by simp)).trans (hend.mono (by simp))
  have hhalf : SameRegsBut s1 (s3.endBoot s3.lockedValue) (halfAddrs 0 ++ (halfAddrs 1 ++ fieldAt F.PRESS_CTRL_EN 0 :: endBootAddrs)) :=
    (hsame0.mono (by simp)).trans (hhalf1.mono (by simp))
  have hall : SameRegsBut s (s3.endBoot s3.lockedValue) (hbmcAddrs 32 ++ (halfAddrs 0 ++ (halfAddrs 1 ++ fieldAt F.PRESS_CTRL_EN 0 :: endBootAddrs))) :=
    (hsame.mono (by simp)).trans (hhalf.mono (by simp))
  have hmeas : s3.mrValue 4 = s.mrValue 4 := State.mrValue_congr (by rw [hmeas3, State.fset_meas, honly2]) 4
  have htrust : s3.trust = s.trust := by rw [htrust3, State.fset_trust, honly2]
  refine ⟨_, e, ?_, s3.endBoot_state _, causeSet_raise _ _ _ _ (by decide) (by decide), s3.endBoot_polState _, fun i hi => ?_, fun h hh => ?_, ?_, ?_, fun i hi => ?_⟩
  · rw [s3.endBoot_trust, htrust]
  · obtain ⟨hen, hlock⟩ := hon i hi
    have hne : ∀ i < 32, fieldAt F.HBMC_CTRL_EN i ∉ halfAddrs 0 ++ (halfAddrs 1 ++ fieldAt F.PRESS_CTRL_EN 0 :: endBootAddrs) ∧
        regAddr T.hbmc i 0x10 ∉ halfAddrs 0 ++ (halfAddrs 1 ++ fieldAt F.PRESS_CTRL_EN 0 :: endBootAddrs) := by decide
    exact ⟨(hhalf.fget _ _ _ (hne i hi).1).trans hen, (State.hget_congr (hhalf.rd (hne i hi).2)).trans hlock⟩
  · obtain rfl | rfl : h = 0 ∨ h = 1 := by omega
    · exact ⟨(hhalf1.fget _ _ _ (by decide)).trans hcls0, (hhalf1.fget _ _ _ (by decide)).trans hstream0,
        (State.hget_congr (hhalf1.rd (by decide))).trans hlock0⟩
    · exact ⟨(hend.fget _ _ _ (by decide)).trans hcls1, (hend.fget _ _ _ (by decide)).trans hstream1, (State.hget_congr (hend.rd (by decide))).trans hlock1⟩
  · exact ((s3.endBoot_regs s3.lockedValue).fget _ _ _ (by decide)).trans hpress
  · rw [s3.endBoot_mr4, hmeas]
  · have hne : ∀ i < 16, regAddr T.row i 0x10 ∉ hbmcAddrs 32 ++ (halfAddrs 0 ++ (halfAddrs 1 ++ fieldAt F.PRESS_CTRL_EN 0 :: endBootAddrs)) := by decide
    exact State.hget_congr (hall.rd (hne i hi))

/-! ## The statement on boot -/

/-- Settles O55: each clause is the lemma of its step of boot. -/
theorem boot : Obligations.Boot := by
  unfold Obligations.Boot
  refine ⟨fun s hp hb => ⟨sysRstNRelease_starts hp hb, sysRstNRelease_fails hp hb⟩, fun s ok hp hb => execSysRstNRelease_of_running hp hb ok,
    fun s x0 x1 a hb hs hr hl ha hc => bootFirmwareStart_active x0 x1 hb hs hr hl ha hc, fun s hb hs hr hl => bootFirmwareStart_recovery hb hs hr hl,
    fun s x0 x1 h => execBootFirmwareStart_of_waiting x0 x1 h, fun s fn data img => recoveryGo_unreached img,
    fun s fn data img h hs => recoveryGo_outside img h hs, fun s fn data h hs => ⟨recoveryGo_fails h hs, fun img hlen hc hl => recoveryGo_boots h hs img hlen hc hl⟩,
    fun s hb => hbmInitDone_effect hb, fun s hb => bootDone_effect hb⟩

end Sys2Proof.Machine
end

section

/-!
PROOF. What queues, streams, completions, classes and objects leave as it was: the fuses, the registers and the RAS block (R187, R188, R244, R334,
R339, R503, R512).
-/

namespace Sys2Proof.Machine

/-- The part of the state that work leaves: the fuses, the registers and the RAS block. -/
def State.base (s : State) : Fuse × Tab Word × RasSt := (s.fuse, s.regs, s.ras)

theorem State.ras_of_base {s t : State} (h : t.base = s.base) : t.ras = s.ras := congrArg (fun x => x.2.2) h

theorem State.rd_of_base {s t : State} (h : t.base = s.base) (ty i o : Nat) : t.rd ty i o = s.rd ty i o := by
  have hf : t.fuse = s.fuse := congrArg (fun x => x.1) h
  have hr : t.regs = s.regs := congrArg (fun x => x.2.1) h
  rw [State.rd, hf, hr, State.rd]

/-! ## Single updates -/

section
variable (s : State)

@[simp] theorem State.setQueue_base (id : Nat) (q : Queue) : (s.setQueue id q).base = s.base := rfl
@[simp] theorem State.upStrm_base (i : Nat) (g : Stream → Stream) : (s.upStrm i g).base = s.base := rfl
@[simp] theorem State.scnt_base (i k n : Nat) : (s.scnt i k n).base = s.base := rfl
@[simp] theorem State.jbFree_base (i : Nat) (f : JPkt → Bool) : (s.jbFree i f).base = s.base := rfl
@[simp] theorem State.upSch_base (g : Sched → Sched) : (s.upSch g).base = s.base := rfl
@[simp] theorem State.setChan_base (c : Nat) (x : Chan) : (s.setChan c x).base = s.base := rfl
@[simp] theorem State.setBundle_base (b : Nat) (x : Bundle) : (s.setBundle b x).base = s.base := rfl
@[simp] theorem State.setKlass_base (k : Nat) (x : Klass) : (s.setKlass k x).base = s.base := rfl
@[simp] theorem State.setCtx_base (k : Nat) (m : Tab Byte) : (s.setCtx k m).base = s.base := rfl
@[simp] theorem State.setLog_base (q : Nat) (l : List SealEntry) : (s.setLog q l).base = s.base := rfl
@[simp] theorem State.cinc_base (c : Ctr) (i n x : Nat) : (s.cinc c i n x).base = s.base := rfl
@[simp] theorem State.applySlot_base (y : SealSlot) : (s.applySlot y).base = s.base := rfl
@[simp] theorem State.unwant_base (id cls : Nat) : (s.unwant id cls).base = s.base := rfl
@[simp] theorem State.freePlaced_base (m : Nat) : (s.freePlaced m).base = s.base := rfl
@[simp] theorem State.commitSide_base (c side : Nat) (v : SideSeal) : (s.commitSide c side v).base = s.base := rfl

end

/-! ## Queues and completions -/

/-- Two states agree in all but queues, rings, 64-bit counters and outputs. -/
def QueuesAndRings (s t : State) : Prop := t = { s with qs := t.qs, vk := t.vk, ctrs := t.ctrs, out := t.out }

theorem QueuesAndRings.refl (s : State) : QueuesAndRings s s := rfl

theorem QueuesAndRings.trans {s t u : State} (h : QueuesAndRings s t) (k : QueuesAndRings t u) : QueuesAndRings s u := by
  unfold QueuesAndRings at h k ⊢
  rw [k, h]

theorem QueuesAndRings.base {s t : State} (h : QueuesAndRings s t) : t.base = s.base := by
  rw [h]
  rfl

theorem QueuesAndRings.mills {s t : State} (h : QueuesAndRings s t) : t.mills = s.mills := by rw [h]

theorem QueuesAndRings.sch {s t : State} (h : QueuesAndRings s t) : t.sch = s.sch := by rw [h]

section
variable (s : State)

theorem State.setQueue_rel (id : Nat) (q : Queue) : QueuesAndRings s (s.setQueue id q) := rfl
theorem State.setPoolUsed_rel (k v : Nat) : QueuesAndRings s (s.setPoolUsed k v) := rfl
theorem State.setRing_rel (p r : Nat) (x : RingSt) : QueuesAndRings s (s.setRing p r x) := rfl
theorem State.setCmds_rel (l : List VCmd) : QueuesAndRings s (s.setCmds l) := rfl
theorem State.emit_rel (o : Out) : QueuesAndRings s (s.emit o) := rfl
theorem State.cinc_rel (c : Ctr) (i n x : Nat) : QueuesAndRings s (s.cinc c i n x) := rfl
theorem State.freeIndex_rel (typ p idx turn : Nat) : QueuesAndRings s (s.freeIndex typ p idx turn) := rfl

theorem State.msi_rel (fn vec : Nat) : QueuesAndRings s (s.msi fn vec) := by
  unfold State.msi
  split <;> rfl

theorem State.qNotice_rel (id n : Nat) : QueuesAndRings s (s.qNotice id n) := by
  unfold State.qNotice
  split <;> rfl

theorem State.qTailGap_rel (id : Nat) : QueuesAndRings s (s.qTailGap id) := by
  unfold State.qTailGap
  dsimp only
  split
  · exact QueuesAndRings.trans (by rfl) (State.qNotice_rel ..)
  · rfl

theorem State.qReach_rel (id : Nat) : QueuesAndRings s (s.qReach id) := by
  unfold State.qReach
  dsimp only
  split
  · exact s.qTailGap_rel id
  · rfl

theorem State.freeCells_rel (id : Nat) (l : List QItem) : QueuesAndRings s (s.freeCells id l) :=
  foldl_rel QueuesAndRings.refl QueuesAndRings.trans l (fun t _ _ => t.setPoolUsed_rel ..) s

theorem State.qRemove_rel (id : Nat) (p : QItem → Bool) : QueuesAndRings s (s.qRemove id p) :=
  ((s.freeCells_rel ..).trans (State.setQueue_rel ..)).trans (State.qReach_rel ..)

/-- A queue whose item was dropped for want of room (R334). -/
theorem State.qDrop_rel (id p : Nat) (q : Queue) : QueuesAndRings s (((s.setQueue id q).spill C.SPILL_QFULL p).qReach id) :=
  ((s.setQueue_rel id q).trans (State.cinc_rel ..)).trans (State.qReach_rel ..)

theorem State.qPut_rel (id half : Nat) (it : QItem) (by' : Option Nat) : QueuesAndRings s (s.qPut id half it by') := by
  cases by' with
  | none => exact QueuesAndRings.trans (by rfl) (State.qNotice_rel ..)
  | some n => rfl

theorem State.qCommit_rel (id wu : Nat) : QueuesAndRings s (s.qCommit id wu) := by
  unfold State.qCommit
  dsimp only
  split
  · rfl
  · exact QueuesAndRings.trans (by rfl) (State.qNotice_rel ..)

theorem State.qCommitAll_rel (wu : Nat) : QueuesAndRings s (s.qCommitAll wu) := by
  refine foldl_rel QueuesAndRings.refl QueuesAndRings.trans _ (fun t e _ => ?_) s
  split
  · exact t.qCommit_rel ..
  · rfl

theorem State.ringMsg_rel (p r : Nat) : QueuesAndRings s (s.ringMsg p r) := by
  unfold State.ringMsg
  split <;> exact s.msi_rel ..

theorem State.passPacket_rel (p j tag : Nat) (data : List Byte) : QueuesAndRings s (s.passPacket p j tag data) :=
  (s.qPut_rel ..).trans (State.qRemove_rel ..)

theorem State.writeCompletion_rel (c : VCmd) (st r e pr d : Nat) : QueuesAndRings s (s.writeCompletion c st r e pr d) := by
  have h (bytes : Out) : QueuesAndRings s ((s.emit bytes).cinc C.VORAK_CMDS c.polder) := (s.emit_rel _).trans (State.cinc_rel ..)
  unfold State.writeCompletion
  dsimp only
  split
  · exact ((h _).trans (State.setRing_rel ..)).trans (State.ringMsg_rel ..)
  · exact (h _).trans (State.setRing_rel ..)

theorem State.complete_rel (c : VCmd) (st r e pr d : Nat) : QueuesAndRings s (s.complete c st r e pr d) := by
  have h (f : QItem → Bool) (data : List Byte) :
      QueuesAndRings s (((s.setCmds (s.vk.cmds.filter fun x => !(x.order == c.order))).qRemove (qPriv c.polder 0) f).passPacket c.polder 1 (cmdTag c) data) :=
    ((s.setCmds_rel _).trans (State.qRemove_rel ..)).trans (State.passPacket_rel ..)
  unfold State.complete
  dsimp only
  split
  · exact h ..
  · split
    · exact (h ..).trans (State.writeCompletion_rel ..)
    · exact (h ..).trans (State.writeCompletion_rel ..)

theorem State.completeOrder_rel (order st r pr d : Nat) : QueuesAndRings s (s.completeOrder order st r pr d) := by
  unfold State.completeOrder
  split
  · exact s.complete_rel ..
  · rfl

theorem State.drained_rel (h turn : Nat) : QueuesAndRings s (s.drained h turn) :=
  foldl_rel QueuesAndRings.refl QueuesAndRings.trans _ (fun t _ _ => t.complete_rel ..) s

@[simp] theorem State.freeIndex_base (typ p idx turn : Nat) : (s.freeIndex typ p idx turn).base = s.base := (s.freeIndex_rel ..).base
@[simp] theorem State.drained_base (h turn : Nat) : (s.drained h turn).base = s.base := (s.drained_rel ..).base

/-! ## Classes and mixers -/

theorem State.base_ite {c : Prop} [Decidable c] {a b s : State} (ha : a.base = s.base) (hb : b.base = s.base) : (if c then a else b).base = s.base := by
  split
  · exact ha
  · exact hb

/-- A fold of steps that may fail, each of which keeps a part of what it carries, keeps it. -/
theorem foldl_some_keeps {α β γ : Type} (p : α → γ) (g : Option α → β → Option α) (hn : ∀ x, g none x = none)
    (hs : ∀ a b x, g (some a) x = some b → p b = p a) (l : List β) : ∀ a b, l.foldl g (some a) = some b → p b = p a := by
  have none_stays : ∀ l : List β, l.foldl g none = none := fun l => by
    induction l with
    | nil => rfl
    | cons x l ih => rw [List.foldl_cons, hn, ih]
  induction l with
  | nil => intro a b h; cases h; rfl
  | cons x l ih =>
    intro a b h
    rw [List.foldl_cons] at h
    cases hg : g (some a) x with
    | none => rw [hg, none_stays] at h; cases h
    | some c => rw [hg] at h; exact (ih c b h).trans (hs a c x hg)

theorem State.placeImage_base {s t : State} {m off : Nat} {kern : Option Nat} (h : s.placeImage m kern = some (t, off)) : t.base = s.base := by
  unfold State.placeImage at h
  dsimp only at h
  split at h
  · cases h; rfl
  · split at h
    · cases h
    · cases h
      exact State.base_ite rfl rfl

@[simp] theorem State.dropClass_base (k : Nat) : (s.dropClass k).base = s.base :=
  (State.freePlaced_base ..).trans (foldl_keeps State.base _ (fun t _ => t.unwant_base ..) _ _)

@[simp] theorem State.recost_base (x : Bundle) (v : MixSpec) : (s.recost x v).base = s.base := by
  unfold State.recost
  split <;> rfl

/-- Adding classes, where it can be done, leaves the base. -/
theorem State.addClasses_base {s t : State} {l : List Klass} {keys : List Nat} (h : s.addClasses l = some (t, keys)) : t.base = s.base := by
  refine foldl_some_keeps (fun x => x.1.base) _ (fun _ => rfl) (fun a b k hk => ?_) _ _ _ h
  obtain ⟨u, ks⟩ := a
  dsimp only at hk
  split at hk
  · cases hk
  · next v off hv =>
    cases hk
    have hb : v.base = u.base := State.placeImage_base hv
    exact hb

@[simp] theorem State.remix_base (b : Nat) : (s.remix b).base = s.base := by
  unfold State.remix
  dsimp only
  generalize hs1 : ((s.bundle b).classes.filter fun k => !((mixSpecs (s.bundle b).members).any fun v => v.id == (s.klass k).pos)).foldl State.dropClass s = s1
  have h1 : s1.base = s.base := hs1 ▸ foldl_keeps State.base _ (fun t k => t.dropClass_base k) _ s
  generalize hs2 : (mixSpecs (s.bundle b).members).foldl (fun t v => t.recost (s.bundle b) v) s1 = s2
  have h2 : s2.base = s.base := (hs2 ▸ foldl_keeps State.base _ (fun t v => t.recost_base _ v) _ s1 : s2.base = s1.base).trans h1
  rw [State.setBundle_base]
  split
  · exact h2
  · next r hr => exact (State.addClasses_base hr).trans h2

@[simp] theorem State.unjoin_base (m : Owner) : (s.unjoin m).base = s.base := by
  unfold State.unjoin
  dsimp only
  cases m with
  | chan c =>
    dsimp only
    split
    · rw [State.setChan_base]
      exact State.base_ite rfl (State.remix_base ..)
    · rfl
  | bundle d =>
    dsimp only
    split
    · rw [State.setBundle_base]
      exact State.base_ite rfl (State.remix_base ..)
    · rfl

/-! ## Channels and bundles that end, and commits -/

@[simp] theorem State.chanIdle_base (c turn : Nat) : (s.chanIdle c turn).base = s.base := by
  unfold State.chanIdle
  dsimp only
  split
  · rfl
  · simp only [State.drained_base, State.freeIndex_base, State.setChan_base, State.upStrm_base, State.unjoin_base]
    exact foldl_keeps State.base _ (fun t k => t.dropClass_base k) _ s

@[simp] theorem State.bundleIdle_base (b turn : Nat) : (s.bundleIdle b turn).base = s.base := by
  unfold State.bundleIdle
  dsimp only
  split
  · rfl
  · simp only [State.drained_base, State.freeIndex_base, State.setBundle_base]
    rw [foldl_keeps State.base _ (fun t e => by split <;> rfl), State.unjoin_base]
    exact foldl_keeps State.base _ (fun t k => t.dropClass_base k) _ s

@[simp] theorem State.commitSides_base (e : SealEntry) : (s.commitSides e).base = s.base := by
  have side : ∀ (t : State) (c k : Nat) (o : Option SideSeal), (match o with | some v => t.commitSide c k v | none => t).base = t.base := by
    intro t c k o
    cases o with
    | none => rfl
    | some v => exact t.commitSide_base c k v
  unfold State.commitSides
  split
  · exact State.base_ite rfl rfl
  · rw [State.setChan_base]
    exact (side ..).trans (side ..)

@[simp] theorem State.commitPackets_base (i wu : Nat) : (s.commitPackets i wu).base = s.base := by
  unfold State.commitPackets
  dsimp only
  split
  · exact s.jbFree_base ..
  · exact (State.scnt_base ..).trans (s.jbFree_base ..)

@[simp] theorem State.commitEntry_base (e : SealEntry) : (s.commitEntry e).base = s.base := by
  unfold State.commitEntry
  dsimp only
  rw [State.commitSides_base, foldl_keeps State.base, foldl_keeps State.base, (s.qCommitAll_rel e.wu).base]
  · exact fun t r => t.commitPackets_base ..
  · exact fun t r => t.setQueue_base ..

@[simp] theorem State.releaseQueues_base (q : Nat) : (s.releaseQueues q).base = s.base := by
  unfold State.releaseQueues
  refine foldl_keeps State.base _ (fun t id => ?_) _ s
  dsimp only
  split
  · rfl
  · exact (t.qRemove_rel ..).base

@[simp] theorem State.commitRole_base (q upto : Nat) : (s.commitRole q upto).base = s.base := by
  unfold State.commitRole
  dsimp only
  rw [State.releaseQueues_base, State.setLog_base]
  exact foldl_keeps State.base _ (fun t e => t.commitEntry_base e) _ s

@[simp] theorem State.idleObjects_base (h turn : Nat) : (s.idleObjects h turn).base = s.base := by
  unfold State.idleObjects
  dsimp only
  rw [foldl_keeps State.base _ (fun t e => State.base_ite (t.bundleIdle_base ..) rfl)]
  exact foldl_keeps State.base _ (fun t e => State.base_ite (t.chanIdle_base ..) rfl) _ s

@[simp] theorem State.dropDone_base (h turn : Nat) : (s.dropDone h turn).base = s.base := by
  unfold State.dropDone
  dsimp only
  rw [foldl_keeps State.base, foldl_keeps State.base]
  · rfl
  · intro t e
    split
    · split
      · exact (State.dropClass_base ..).trans rfl
      · rfl
    · rfl
  · intro t e
    refine State.base_ite rfl ?_
    split
    · exact (State.dropClass_base ..).trans rfl
    · rfl

@[simp] theorem State.commitHeld_base (row : Nat) : (s.commitHeld row).base = s.base := by
  unfold State.commitHeld
  dsimp only
  rw [State.dropDone_base, State.idleObjects_base, foldl_keeps State.base]
  · rfl
  · exact fun t n => foldl_keeps State.base _ (fun u k => u.commitRole_base ..) _ t

@[simp] theorem State.rowDone_base (row : Nat) : (s.rowDone row).base = s.base := by
  unfold State.rowDone
  split
  · rfl
  · exact (State.upSch_base ..).trans (s.commitHeld_base row)

end

end Sys2Proof.Machine
end

section

/-!
PROOF. The end of a take-over, and the placement of lost roles (R482, R483, R589, R590, R592 to R594): what messages, notices and the work that moves
leave, and what TAKEOVER_COMPLETE and CHANNEL_PLACEMENT_DONE do.
-/

namespace Sys2Proof.Machine

/-! ## Messages and notices (R334, R482, R483, R505) -/

/-- What messages and notices leave: the RAS block, and every register but BLK_ICAUSE and the count of stale messages. -/
structure Told (s t : State) : Prop where
  ras : t.ras = s.ras
  rd : ∀ ty i o, regAddr ty i o % 4096 ≠ 0x18 → regAddr ty i o % 4096 ≠ 0x8C → t.rd ty i o = s.rd ty i o

theorem Told.of_base {s t : State} (h : t.base = s.base) : Told s t := ⟨State.ras_of_base h, fun _ _ _ _ _ => State.rd_of_base h ..⟩

theorem Told.refl (s : State) : Told s s := .of_base rfl

theorem Told.trans {s t u : State} (h : Told s t) (k : Told t u) : Told s u :=
  ⟨k.ras.trans h.ras, fun ty i o h1 h2 => (k.rd ty i o h1 h2).trans (h.rd ty i o h1 h2)⟩

theorem Told.raise (s : State) (ty i b : Nat) : Told s (s.raise ty i b) := by
  refine ⟨s.raise_ras .., fun ty' i' o' h _ => s.rd_raise_ne fun e => h ?_⟩
  rw [e]
  simp only [regAddr]
  omega

theorem Told.finc_stale (s : State) (p : Nat) : Told s (s.finc F.DIKE_COUNTS_STALE p) := by
  refine ⟨rfl, fun ty i o _ h => State.rd_wr_ne _ _ fun e => h ?_⟩
  rw [e]
  simp only [regAddr, F.DIKE_COUNTS_STALE]
  omega

/-- What messages leave of a field. -/
theorem Told.fget {s t : State} (h : Told s t) (f : Fld) (i x : Nat) (h1 : fieldAt f i x % 4096 ≠ 0x18) (h2 : fieldAt f i x % 4096 ≠ 0x8C) :
    t.fget f i x = s.fget f i x := by
  rw [State.fget, h.rd _ _ _ h1 h2, State.fget]

theorem State.qAppend_told (s : State) (id half : Nat) (it : QItem) (by' : Option Nat) : Told s (s.qAppend id half it by').1 := by
  unfold State.qAppend
  dsimp only
  split
  · dsimp only
    split
    · exact (Told.of_base (s.qDrop_rel ..).base).trans (.raise ..)
    · exact .of_base (s.qDrop_rel ..).base
  · exact .of_base (s.qPut_rel ..).base

theorem State.notice_told (s : State) (p code handle detail : Nat) : Told s (s.notice p code handle detail) := by
  unfold State.notice
  dsimp only
  split
  · exact s.qAppend_told ..
  · exact (s.qAppend_told ..).trans (.raise ..)

theorem State.staleMessage_told (s : State) (p : Nat) (order : Option Nat) : Told s (s.staleMessage p order) := by
  have h : Told s (((s.finc F.DIKE_COUNTS_STALE p).raise T.dike p I.DIKE_STALE).emit (.nack p)) :=
    ((Told.finc_stale s p).trans (.raise ..)).trans (.of_base rfl)
  unfold State.staleMessage
  cases order with
  | none => exact h
  | some o => exact h.trans (.of_base (State.completeOrder_rel ..).base)

theorem State.deliverHeld_told (s : State) (m : Nat) (h : HeldMsg) : Told s (s.deliverHeld m h) := by
  unfold State.deliverHeld
  split
  · unfold State.doorbellBits
    split
    · exact .refl s
    · exact .of_base rfl
  · next it _ =>
    have hq := s.qAppend_told (qHeadrace h.role) (halfOf m) it none
    dsimp only
    split
    · exact hq.trans (.of_base (State.completeOrder_rel ..).base)
    · exact hq

theorem State.releaseHeld_told (s : State) (role m : Nat) : Told s (s.releaseHeld role m) := by
  refine Told.trans (t := s.upPol fun x => { x with held := x.held.filter fun h => h.role != role }) (.of_base rfl)
    (foldl_rel Told.refl Told.trans _ (fun t h _ => ?_) _)
  split
  · exact t.deliverHeld_told m h
  · exact t.staleMessage_told ..

/-! ## Work that moves (R184, R189, R589) -/

@[simp] theorem State.applySlots_base (s : State) (q : Nat) : (s.applySlots q).base = s.base := by
  unfold State.applySlots
  rw [foldl_keeps State.base]
  · rfl
  · exact fun t e => t.applySlot_base e.2

@[simp] theorem State.copyImages_base (s : State) (old m : Nat) : (s.copyImages old m).base = s.base := by
  unfold State.copyImages
  dsimp only
  rw [foldl_keeps State.base]
  · rfl
  · intro t p
    split
    · rfl
    · split <;> rfl

@[simp] theorem State.adoptRole_base (s : State) (q old m : Nat) : (s.adoptRole q old m).base = s.base := by
  unfold State.adoptRole
  dsimp only
  rw [State.cinc_base, State.copyImages_base, State.applySlots_base, foldl_keeps State.base]
  · rfl
  · exact fun t id => t.setQueue_base ..

/-! ## The self-test that follows (R592) -/

theorem State.faultRecord_ras (s : State) (kind typ inst detail : Nat) : (s.faultRecord kind typ inst detail).ras = s.ras := rfl

/-- Retiring a mill leaves the RAS block. -/
theorem State.retireMill_ras (s : State) (m : Nat) : (s.retireMill m).ras = s.ras := by
  rw [State.retireMill, State.raise_ras, State.faultRecord_ras, State.ledgerAsk_ras, State.fset_ras]

/-- Retiring a mill writes its role and raises DIAG_DONE. -/
theorem State.retireMill_rd (s : State) (m : Nat) {ty i o : Nat} (h1 : regAddr ty i o ≠ fieldAt F.MILL_ROLE_ROLE m) (h2 : regAddr ty i o ≠ causeAt T.ras 0) :
    (s.retireMill m).rd ty i o = s.rd ty i o := by
  rw [State.retireMill, State.rd_raise_ne _ h2, State.faultRecord_rd, State.ledgerAsk_rd]
  exact State.rd_wr_ne _ _ h1

/-- Retiring a mill leaves every cause that is set. -/
theorem State.retireMill_causeSet {s : State} {t i b : Nat} (m : Nat) (h : causeSet s t i b) : causeSet (s.retireMill m) t i b := by
  have h1 : causeSet (s.fset F.MILL_ROLE_ROLE m 5) t i b := h.keep (State.rd_wr_ne _ _ (by simp only [regAddr, F.MILL_ROLE_ROLE]; omega))
  rw [State.retireMill]
  exact (h1.keep (by rw [State.faultRecord_rd, State.ledgerAsk_rd])).raise ..

theorem State.quarantineEnds_claims (s : State) (m : Nat) : (s.quarantineEnds m).ras.claims = s.ras.claims := by
  unfold State.quarantineEnds
  split
  · rfl
  · rw [State.retireMill_ras]

theorem State.quarantineEnds_lost (s : State) (m : Nat) : (s.quarantineEnds m).ras.lost = s.ras.lost := by
  unfold State.quarantineEnds
  split
  · rfl
  · rw [State.retireMill_ras]

theorem State.quarantineEnds_rd (s : State) (m : Nat) {ty i o : Nat} (h1 : regAddr ty i o ≠ fieldAt F.MILL_ROLE_ROLE m) (h2 : regAddr ty i o ≠ causeAt T.ras 0) :
    (s.quarantineEnds m).rd ty i o = s.rd ty i o := by
  unfold State.quarantineEnds
  split
  · rfl
  · exact s.retireMill_rd m h1 h2

theorem State.quarantineEnds_causeSet {s : State} {t i b : Nat} (m : Nat) (h : causeSet s t i b) : causeSet (s.quarantineEnds m) t i b := by
  unfold State.quarantineEnds
  split
  · exact h
  · exact State.retireMill_causeSet m h

theorem State.quarantineEnds_testing {s : State} (m : Nat) (h : s.fbit F.RAS_CTRL_DIAG_EN 0 = true) : m ∈ (s.quarantineEnds m).ras.testing := by
  rw [State.quarantineEnds, if_pos h]
  exact List.mem_append_right _ (List.mem_singleton_self m)

end Sys2Proof.Machine
end

section

/-!
PROOF. TAKEOVER_COMPLETE and CHANNEL_PLACEMENT_DONE (R589, R590, R593, R594), and the placement of a channel.
-/

namespace Sys2Proof.Machine

/-! ## TAKEOVER_COMPLETE (R589, R590) -/

/-- The claim of a spare ends, at the turn in which its take-over completed. -/
def State.claimMet (s : State) (m : Nat) : State :=
  s.upRas fun r => { r with claims := r.claims.filter fun d => d.spare != m, claimedAt := r.claimedAt ++ [(m, s.turn (halfOf m))] }

/-- Steps 6 and 8 of R589: the claim ends, the work moves, held messages and commits follow. -/
def State.roleMoved (s : State) (row : Nat) (x : Claim) : State :=
  (((s.claimMet x.spare).adoptRole x.role x.old x.spare).releaseHeld x.role x.spare).rowDone row

/-- The time of a take-over is counted and recorded (step 9 of R589). -/
def State.takeoverTimed (s : State) (t : Nat) : State :=
  ((s.finc F.RAS_COUNTS_TAKEOVER 0).fset F.RAS_TO_TIME_LAST 0 t).fset F.RAS_TO_TIME_MAX 0 (max t (s.fget F.RAS_TO_TIME_MAX 0))

/-- The take-over of a claim up to its report and measurement, before the self-test of the mill that was lost. -/
def State.tookOver (s : State) (row t : Nat) (x : Claim) : State :=
  let m := x.spare
  let p := s.fget F.MILL_ROLE_POLDER m
  let s2 := s.roleMoved row x
  let s4 := (s2.notice p 3 (s2.millHandle m) (x.old + m * 2 ^ 8 + s2.fget F.MILL_ROLE_EPOCH m * 2 ^ 16 + t * 2 ^ 32)).takeoverTimed t
  (s4.raise T.ras 0 I.RAS_TAKEOVER_DONE).measureRole m x.role p (s4.fget F.MILL_ROLE_EPOCH m)

theorem State.roleMoved_told (s : State) (row : Nat) (x : Claim) : Told (s.claimMet x.spare) (s.roleMoved row x) :=
  ((Told.of_base (State.adoptRole_base ..)).trans (State.releaseHeld_told ..)).trans (.of_base (State.rowDone_base ..))

theorem State.takeoverTimed_ras (s : State) (t : Nat) : (s.takeoverTimed t).ras = s.ras := by
  rw [State.takeoverTimed, State.fset_ras, State.fset_ras, State.finc_ras]

theorem State.takeoverTimed_last (s : State) {t : Nat} (h : t ≤ 0xFFFF) : (s.takeoverTimed t).fget F.RAS_TO_TIME_LAST 0 = t := by
  rw [State.takeoverTimed, State.fget_fset_clear _ (by decide) (by decide), State.fget_fset_same _ _ _ _ _ (by decide)]
  exact Nat.mod_eq_of_lt (Nat.lt_succ_of_le h)

theorem State.takeoverTimed_max (s : State) {t : Nat} (h : t ≤ 0xFFFF) :
    (s.takeoverTimed t).fget F.RAS_TO_TIME_MAX 0 = max t (s.fget F.RAS_TO_TIME_MAX 0) := by
  rw [State.takeoverTimed, State.fget_fset_same _ _ _ _ _ (by decide)]
  exact Nat.mod_eq_of_lt (max_lt (Nat.lt_succ_of_le h) (s.fget_lt F.RAS_TO_TIME_MAX 0 0))

theorem State.takeoverTimed_diag (s : State) (t : Nat) : (s.takeoverTimed t).fget F.RAS_CTRL_DIAG_EN 0 = s.fget F.RAS_CTRL_DIAG_EN 0 := by
  rw [State.takeoverTimed, State.fget_fset_clear _ (by decide) (by decide), State.fget_fset_clear _ (by decide) (by decide),
    State.fget_finc_clear _ (by decide) (by decide)]

/-- What a take-over leaves: the RAS block but for the claim, the time in RAS_TO_TIME, DIAG_EN, and TAKEOVER_DONE raised. -/
theorem State.tookOver_effect (s : State) (row : Nat) {t : Nat} (x : Claim) (h : t ≤ 0xFFFF) :
    (s.tookOver row t x).ras = (s.claimMet x.spare).ras ∧ (s.tookOver row t x).fget F.RAS_TO_TIME_LAST 0 = t ∧
    (s.tookOver row t x).fget F.RAS_TO_TIME_MAX 0 = max t (s.fget F.RAS_TO_TIME_MAX 0) ∧
    (s.tookOver row t x).fget F.RAS_CTRL_DIAG_EN 0 = s.fget F.RAS_CTRL_DIAG_EN 0 ∧ causeSet (s.tookOver row t x) T.ras 0 I.RAS_TAKEOVER_DONE := by
  unfold State.tookOver State.measureRole
  dsimp only
  generalize hu : (s.roleMoved row x).notice _ _ _ _ = u
  have told : Told (s.claimMet x.spare) u := hu ▸ (s.roleMoved_told row x).trans (State.notice_told ..)
  have same : ∀ f i j, (s.claimMet x.spare).fget f i j = s.fget f i j := fun _ _ _ => rfl
  refine ⟨?_, ?_, ?_, ?_, (causeSet_raise _ _ _ _ (by decide) (by decide)).keep (State.extendMr_rd ..)⟩
  · rw [State.extendMr_ras, State.raise_ras, State.takeoverTimed_ras, told.ras]
  · rw [State.extendMr_fget, State.fget_raise_ne _ _ _ _ (by decide), State.takeoverTimed_last _ h]
  · rw [State.extendMr_fget, State.fget_raise_ne _ _ _ _ (by decide), State.takeoverTimed_max _ h, told.fget _ _ _ (by decide) (by decide), same]
  · rw [State.extendMr_fget, State.fget_raise_ne _ _ _ _ (by decide), State.takeoverTimed_diag, told.fget _ _ _ (by decide) (by decide), same]

/-- TAKEOVER_COMPLETE without a claim does nothing. -/
theorem takeoverComplete_none {s : State} {row : Nat} (c : Nat) (hx : s.ras.claims.find? (fun x => x.claimed && rowOf x.spare == row) = none) :
    exec (.takeoverComplete row c) s = .next s := by
  show execTakeoverComplete row c s = _
  unfold execTakeoverComplete
  rw [hx]

/-- TAKEOVER_COMPLETE ends the take-over of its claim; the lost mill's self-test begins unless it waits for a placement. -/
theorem takeoverComplete_eq {s : State} {row c : Nat} {x : Claim} (hx : s.ras.claims.find? (fun x => x.claimed && rowOf x.spare == row) = some x) :
    exec (.takeoverComplete row c) s = .next (if (s.tookOver row (min c 0xFFFF) x).ras.lost.any fun l => l.mills.contains x.old
      then s.tookOver row (min c 0xFFFF) x else (s.tookOver row (min c 0xFFFF) x).quarantineEnds x.old) := by
  show execTakeoverComplete row c s = _
  unfold execTakeoverComplete
  rw [hx]
  rfl

/-- A field of the RAS page outside BLK_ICAUSE is left where a quarantine ends. -/
theorem State.quarantineEnds_fget (s : State) (m : Nat) (f : Fld) (h1 : fieldAt f 0 % 4096 ≠ 0x48) (h2 : fieldAt f 0 % 4096 ≠ 0x18) :
    (s.quarantineEnds m).fget f 0 = s.fget f 0 := by
  rw [State.fget, State.quarantineEnds_rd, State.fget]
  · intro e
    have e : fieldAt f 0 = _ := e
    rw [e] at h1
    refine h1 ?_
    simp only [fieldAt, regAddr, F.MILL_ROLE_ROLE]
    omega
  · intro e
    have e : fieldAt f 0 = _ := e
    rw [e] at h2
    refine h2 ?_
    simp only [causeAt, regAddr]
    omega

theorem takeoverComplete_effect {s : State} {row c : Nat} {x : Claim} (hx : s.ras.claims.find? (fun x => x.claimed && rowOf x.spare == row) = some x) :
    ∃ t, exec (.takeoverComplete row c) s = .next t ∧ (∀ d ∈ t.ras.claims, d.spare ≠ x.spare) ∧ t.ras.claims ⊆ s.ras.claims ∧ causeSet t T.ras 0 I.RAS_TAKEOVER_DONE ∧
      t.fget F.RAS_TO_TIME_LAST 0 = min c 0xFFFF ∧ t.fget F.RAS_TO_TIME_MAX 0 = max (min c 0xFFFF) (s.fget F.RAS_TO_TIME_MAX 0) ∧
      (s.fbit F.RAS_CTRL_DIAG_EN 0 = true → (∀ l ∈ s.ras.lost, x.old ∉ l.mills) → x.old ∈ t.ras.testing) := by
  have e := takeoverComplete_eq (c := c) hx
  obtain ⟨hras, hlast, hmax, hdiag, hcause⟩ := s.tookOver_effect row x (Nat.min_le_right c 0xFFFF)
  generalize s.tookOver row (min c 0xFFFF) x = u at *
  have hclaims : u.ras.claims = s.ras.claims.filter fun d => d.spare != x.spare := by rw [hras]; rfl
  have hgone : ∀ d ∈ u.ras.claims, d.spare ≠ x.spare := fun d hd => by
    rw [hclaims] at hd
    simpa using (List.mem_filter.1 hd).2
  have hsub : u.ras.claims ⊆ s.ras.claims := fun d hd => (List.mem_filter.1 (hclaims ▸ hd)).1
  have hlost : u.ras.lost = s.ras.lost := by rw [hras]; rfl
  by_cases hw : (u.ras.lost.any fun l => l.mills.contains x.old) = true
  · rw [if_pos hw] at e
    refine ⟨u, e, hgone, hsub, hcause, hlast, hmax, fun _ hn => ?_⟩
    obtain ⟨l, hl, hm⟩ := List.any_eq_true.1 hw
    exact absurd (List.contains_iff_mem.1 hm) (hn l (hlost ▸ hl))
  · rw [if_neg hw] at e
    refine ⟨_, e, ?_, ?_, State.quarantineEnds_causeSet _ hcause, ?_, ?_, fun hd _ => State.quarantineEnds_testing _ ?_⟩
    · rw [State.quarantineEnds_claims]; exact hgone
    · rw [State.quarantineEnds_claims]; exact hsub
    · rw [State.quarantineEnds_fget _ _ _ (by decide) (by decide), hlast]
    · rw [State.quarantineEnds_fget _ _ _ (by decide) (by decide), hmax]
    · rw [State.fbit, hdiag]; exact hd

/-! ## Placement (R594) -/

theorem State.moveKeys_base (s : State) (n : Nat) (l : List (Nat × Klass)) : (s.moveKeys n l).base = s.base := by
  refine foldl_keeps State.base _ (fun t e => ?_) _ s
  split
  · next u off hu => exact (State.setKlass_base ..).trans (State.placeImage_base hu)
  · rfl

theorem State.writeParams_base (s : State) (c : Nat) (b : List Byte) : (s.writeParams c b).base = s.base := by
  unfold State.writeParams
  dsimp only
  rw [foldl_keeps State.base]
  · rfl
  · exact fun t k => t.setCtx_base ..

@[simp] theorem State.chan_setChan_same (s : State) (c : Nat) (x : Chan) : (s.setChan c x).chan c = x := Tab.get_set_same ..

theorem State.writeParams_chan (s : State) (c : Nat) (b : List Byte) : (s.writeParams c b).chan c = { s.chan c with params := b } := by
  unfold State.writeParams
  dsimp only
  rw [foldl_keeps (fun t => t.chan c)]
  · exact State.chan_setChan_same ..
  · exact fun _ _ => rfl

theorem State.qAppend_sch (s : State) (id half : Nat) (it : QItem) (by' : Option Nat) : (s.qAppend id half it by').1.sch = s.sch := by
  unfold State.qAppend
  dsimp only
  split
  · dsimp only
    split
    · rw [State.raise_sch, (s.qDrop_rel ..).sch]
    · exact (s.qDrop_rel ..).sch
  · exact (s.qPut_rel ..).sch

theorem State.notice_sch (s : State) (p code handle detail : Nat) : (s.notice p code handle detail).sch = s.sch := by
  unfold State.notice
  dsimp only
  split
  · exact s.qAppend_sch ..
  · rw [State.raise_sch, s.qAppend_sch]

theorem State.chan_of_sch {s t : State} (h : t.sch = s.sch) (c : Nat) : t.chan c = s.chan c := by rw [State.chan, h, State.chan]

/-- A channel of a lost role that is placed on a stone: its entries move, it is on the stone, and a long tail has its context there. -/
def State.chanPlaced (s : State) (n c : Nat) : State :=
  let x := s.chan c
  let l := x.keys.map s.klass
  let mine := (s.fits n x.polder x.typ l).getD []
  let used := ((s.stoneChans n).filter fun y => y.typ == 2).map fun y => y.slot
  let slot := if x.typ = 2 then ((List.range 8).find? fun i => !used.contains i).getD 0xFF else x.slot
  let s1 := (s.moveKeys n (x.keys.zip mine)).setChan c { x with stone := n, slot := slot }
  if x.typ = 2 then s1.writeParams c (withMiller x.params slot (sub x.params 0x30 4)) else s1

theorem State.placeChan_some (s : State) {h turn c n : Nat}
    (hn : mostFree (s.openStones (s.chan c).polder h (s.chan c).typ ((s.chan c).keys.map s.klass)) = some n) :
    s.placeChan h turn c = ((s.chanPlaced n c).finc F.RAS_SHED_PLACED 0).notice (s.chan c).polder 4 (s.handleOf 2 (s.chan c).polder c) (1 + n * 2 ^ 16) := by
  unfold State.placeChan
  dsimp only
  rw [hn]
  rfl

theorem State.placeChan_none (s : State) {h turn c : Nat}
    (hn : mostFree (s.openStones (s.chan c).polder h (s.chan c).typ ((s.chan c).keys.map s.klass)) = none) :
    s.placeChan h turn c = (((s.setChan c { s.chan c with st := .draining }).chanIdle c turn).finc F.RAS_SHED_SHED 0).notice (s.chan c).polder 4
      (s.handleOf 2 (s.chan c).polder c) 0 := by
  unfold State.placeChan
  dsimp only
  rw [hn]

theorem State.chanPlaced_base (s : State) (n c : Nat) : (s.chanPlaced n c).base = s.base := by
  unfold State.chanPlaced
  dsimp only
  split
  · rw [State.writeParams_base, State.setChan_base, State.moveKeys_base]
  · rw [State.setChan_base, State.moveKeys_base]

theorem State.chanPlaced_stone (s : State) (n c : Nat) : ((s.chanPlaced n c).chan c).stone = n := by
  unfold State.chanPlaced
  dsimp only
  split
  · rw [State.writeParams_chan, State.chan_setChan_same]
  · rw [State.chan_setChan_same]

/-- A channel that is draining is not active once it may have become idle. -/
theorem State.chanIdle_not_active {s : State} {c : Nat} (turn : Nat) (h : (s.chan c).st = .draining) : ((s.chanIdle c turn).chan c).st ≠ .active := by
  unfold State.chanIdle
  dsimp only
  split
  · rw [h]
    decide
  · rw [State.chan_of_sch ((State.freeIndex_rel ..).trans (State.drained_rel ..)).sch, State.chan_setChan_same]
    decide

theorem State.placeChan_ras (s : State) (h turn c : Nat) : (s.placeChan h turn c).ras = s.ras := by
  cases hn : mostFree (s.openStones (s.chan c).polder h (s.chan c).typ ((s.chan c).keys.map s.klass)) with
  | none => rw [s.placeChan_none hn, (State.notice_told ..).ras, State.finc_ras, State.ras_of_base (State.chanIdle_base ..), State.setChan_ras]
  | some n => rw [s.placeChan_some hn, (State.notice_told ..).ras, State.finc_ras, State.ras_of_base (s.chanPlaced_base n c)]

/-- A channel of a lost role is placed on the stone with the most free grains, or shed, and counted (R594). -/
theorem placeChan_effect (s : State) (h turn c : Nat) {l : List Klass} (hl : l = (s.chan c).keys.map s.klass) :
    (∀ n, mostFree (s.openStones (s.chan c).polder h (s.chan c).typ l) = some n → ((s.placeChan h turn c).chan c).stone = n ∧
      (s.placeChan h turn c).fget F.RAS_SHED_PLACED 0 = min (s.fget F.RAS_SHED_PLACED 0 + 1) (2 ^ F.RAS_SHED_PLACED.w - 1)) ∧
    (mostFree (s.openStones (s.chan c).polder h (s.chan c).typ l) = none →
      (s.placeChan h turn c).fget F.RAS_SHED_SHED 0 = min (s.fget F.RAS_SHED_SHED 0 + 1) (2 ^ F.RAS_SHED_SHED.w - 1) ∧
      ((s.placeChan h turn c).chan c).st ≠ .active) := by
  subst hl
  have counts : ∀ (u : State) (f : Fld), u.base = s.base → u.fget f 0 = s.fget f 0 := fun u f hu => by rw [State.fget, State.rd_of_base hu, State.fget]
  have finc_chan : ∀ (u : State) (f : Fld), (u.finc f 0).chan c = u.chan c := fun _ _ => rfl
  refine ⟨fun n hn => ?_, fun hn => ?_⟩
  · rw [s.placeChan_some hn]
    constructor
    · rw [State.chan_of_sch (State.notice_sch ..), finc_chan, s.chanPlaced_stone n c]
    · rw [(State.notice_told ..).fget _ _ _ (by decide) (by decide), State.fget_finc_same _ _ _ _ _ (by decide), counts _ _ (s.chanPlaced_base n c)]
  · rw [s.placeChan_none hn]
    constructor
    · rw [(State.notice_told ..).fget _ _ _ (by decide) (by decide), State.fget_finc_same _ _ _ _ _ (by decide), counts _ _ ((State.chanIdle_base (s.setChan c { s.chan c with st := .draining }) c turn).trans (s.setChan_base ..))]
    · rw [State.chan_of_sch (State.notice_sch ..), finc_chan]
      exact State.chanIdle_not_active _ (by rw [State.chan_setChan_same])

/-! ## CHANNEL_PLACEMENT_DONE (R594) -/

theorem State.placeBundle_base (s : State) (h turn b : Nat) : (s.placeBundle h turn b).base = s.base := by
  unfold State.placeBundle
  dsimp only
  split
  · rw [State.setBundle_base, State.moveKeys_base]
  · rw [State.bundleIdle_base, State.setBundle_base]

/-- Where no role is lost under a number, or its row still waits for a mill, nothing is placed. -/
theorem channelPlacementDone_waits {s : State} {role : Nat} (h : s.ras.lost.find? (fun l => l.role == role) = none ∨
    (∃ c ∈ s.ras.claims, c.role / 4 = role / 4) ∨ ∃ g ∈ s.ras.given, g.role / 4 = role / 4) : exec (.channelPlacementDone role) s = .next s := by
  show execChannelPlacementDone role s = _
  unfold execChannelPlacementDone
  dsimp only
  cases hl : s.ras.lost.find? (fun l => l.role == role) with
  | none => rfl
  | some l =>
    dsimp only
    rw [if_pos]
    rw [hl] at h
    simpa using h

/-- A placement that ends takes its role out of the lost ones. -/
theorem channelPlacementDone_effect {s : State} {role : Nat} {l : LostRole} (hl : s.ras.lost.find? (fun l => l.role == role) = some l)
    (hc : ∀ c ∈ s.ras.claims, c.role / 4 ≠ role / 4) (hg : ∀ g ∈ s.ras.given, g.role / 4 ≠ role / 4) :
    ∃ t, exec (.channelPlacementDone role) s = .next t ∧ (∀ x ∈ t.ras.lost, x.role ≠ role) ∧ (∀ x ∈ s.ras.lost, x.role ≠ role → x ∈ t.ras.lost) := by
  have hfree : ¬ (s.ras.claims.any (fun c => c.role / 4 == role / 4) = true ∨ s.ras.given.any (fun g => g.role / 4 == role / 4) = true) := by
    simpa using ⟨hc, hg⟩
  have hlost : ∃ t, exec (.channelPlacementDone role) s = .next t ∧ t.ras.lost = s.ras.lost.filter fun x => x.role != role := by
    have e : exec (.channelPlacementDone role) s = execChannelPlacementDone role s := rfl
    unfold execChannelPlacementDone at e
    dsimp only at e
    rw [hl] at e
    dsimp only at e
    rw [if_neg hfree] at e
    refine ⟨_, e, ?_⟩
    rw [foldl_keeps (fun t => t.ras.lost) _ (fun t m => t.quarantineEnds_lost m), State.ras_of_base (State.rowDone_base ..)]
    generalize hu : List.foldl (fun t b => State.placeBundle t _ _ b) _ _ = u
    have hras : u.ras = s.ras := by
      rw [← hu, foldl_keeps State.ras _ (fun t b => State.ras_of_base (t.placeBundle_base ..)), foldl_keeps State.ras _ (fun t c => t.placeChan_ras ..),
        State.ras_of_base (s.commitHeld_base _)]
    exact congrArg (fun r : RasSt => r.lost.filter fun x => x.role != role) hras
  obtain ⟨t, e, ht⟩ := hlost
  refine ⟨t, e, fun x hx => ?_, fun x hx hr => ?_⟩
  · rw [ht] at hx
    simpa using (List.mem_filter.1 hx).2
  · rw [ht]
    exact List.mem_filter.2 ⟨hx, by simpa using hr⟩

end Sys2Proof.Machine
end

section

/-!
PROOF. The work of a role passes from one mill to another (R189, R217, step 6 of R589).
-/

namespace Sys2Proof.Machine

/-- The tables of classes, channels and work units. -/
def State.tables (s : State) : Tab Klass × Tab Chan × Tab WU := (s.sch.classes, s.sch.chans, s.sch.wus)

/-- A table with the values of some keys changed reads the changed value under such a key that it lists. -/
theorem Tab.get_map_key {α : Type} (d : Nat → α) (p : Nat → Bool) (g : α → α) (m : Tab α) {k : Nat} (hp : p k = true) (hk : ∃ e ∈ m, e.1 = k) :
    Tab.get d (m.map fun e => if p e.1 then (e.1, g e.2) else e) k = g (Tab.get d m k) := by
  induction m with
  | nil => obtain ⟨e, he, -⟩ := hk; cases he
  | cons e m ih =>
    by_cases h : e.1 = k
    · simp [Tab.get, h, hp]
    · have hm : ∃ e ∈ m, e.1 = k := by
        obtain ⟨x, hx, hxk⟩ := hk
        rcases List.mem_cons.1 hx with rfl | hx
        · exact absurd hxk h
        · exact ⟨x, hx, hxk⟩
      have ht := ih hm
      by_cases hpe : p e.1 = true <;> simp [Tab.get, h, hpe, ht]

/-- Under every other key it reads what it read. -/
theorem Tab.get_map_other {α : Type} (d : Nat → α) (p : Nat → Bool) (g : α → α) (m : Tab α) {k : Nat} (hp : p k = false) :
    Tab.get d (m.map fun e => if p e.1 then (e.1, g e.2) else e) k = Tab.get d m k := by
  induction m with
  | nil => rfl
  | cons e m ih =>
    by_cases h : e.1 = k
    · simp [Tab.get, h, hp]
    · by_cases hpe : p e.1 = true <;> simp [Tab.get, h, hpe, ih]

/-- The first entry of a number in a list in which the values of some numbers are changed. -/
theorem find?_map_key {α : Type} (p : Nat → Bool) (g : α → α) (l : List (Nat × α)) (n : Nat) :
    (((l.map fun e => if p e.1 then (e.1, g e.2) else e).find? fun e => e.1 == n).map (·.2)) =
      ((l.find? fun e => e.1 == n).map (·.2)).map fun w => if p n then g w else w := by
  have key : ((fun e : Nat × α => e.1 == n) ∘ fun e => if p e.1 then (e.1, g e.2) else e) = fun e => e.1 == n := by
    funext e
    by_cases hp : p e.1 = true <;> simp [hp]
  rw [List.find?_map, key]
  cases h : l.find? fun e => e.1 == n with
  | none => rfl
  | some e =>
    have he : e.1 = n := by simpa using List.find?_some h
    by_cases hp : p n = true <;> simp [he, hp]

theorem State.applySlots_tables (s : State) (q : Nat) : (s.applySlots q).tables = s.tables := by
  unfold State.applySlots
  rw [foldl_keeps State.tables]
  · rfl
  · exact fun _ _ => rfl

theorem State.copyImages_tables (s : State) (old m : Nat) : (s.copyImages old m).tables = s.tables := by
  unfold State.copyImages
  dsimp only
  rw [foldl_keeps State.tables]
  · rfl
  · intro t p
    split
    · rfl
    · split <;> rfl

/-- The numbers of the work units of a mill's classes. -/
def State.unitsOn (s : State) (m : Nat) : List Nat := (s.sch.wus.filter fun e => (s.keysOn m).contains e.2.cls).map fun e => e.1

/-- A class, and a channel, on the stone of the same local number of another mill (R189). -/
def Klass.moved (m : Nat) (k : Klass) : Klass := { k with stone := 16 * m + k.stone % 16 }
def Chan.moved (m : Nat) (x : Chan) : Chan := { x with stone := 16 * m + x.stone % 16 }

/-- A work unit that is released again on another mill (R189, R217). -/
def WU.again (m : Nat) (w : WU) : WU :=
  { w with stone := 16 * m + w.stone % 16, st := .released, taken := [], held := false, params := none, os := [] }

theorem State.adoptRole_tables (s : State) (q old m : Nat) : (s.adoptRole q old m).tables =
    (s.sch.classes.map fun e => if (s.keysOn old).contains e.1 then (e.1, e.2.moved m) else e,
     s.sch.chans.map fun e => if (s.chansOn old).contains e.1 then (e.1, e.2.moved m) else e,
     s.sch.wus.map fun e => if (s.unitsOn old).contains e.1 then (e.1, e.2.again m) else e) := by
  have hcinc : ∀ (t : State) (c : Ctr) (i n : Nat), (t.cinc c i n).tables = t.tables := fun _ _ _ _ => rfl
  unfold State.adoptRole
  dsimp only
  rw [hcinc, State.copyImages_tables, State.applySlots_tables, foldl_keeps State.tables]
  · rfl
  · exact fun _ _ => rfl

/-- A class that a mill carries is in its table. -/
theorem State.mem_keysOn {s : State} {m k : Nat} (h : k ∈ s.keysOn m) : ∃ e ∈ s.sch.classes, e.1 = k := by
  obtain ⟨e, he, hk⟩ := List.mem_map.1 h
  exact ⟨e, (List.mem_filter.1 he).1, hk⟩

/-- A channel that a mill carries is in its table. -/
theorem State.mem_chansOn {s : State} {m c : Nat} (h : c ∈ s.chansOn m) : ∃ e ∈ s.sch.chans, e.1 = c := by
  obtain ⟨e, he, hc⟩ := List.mem_map.1 h
  exact ⟨e, (List.mem_filter.1 he).1, hc⟩

theorem State.adoptRole_wu (s : State) (q old m n : Nat) :
    (s.adoptRole q old m).wu n = (s.wu n).map fun w => if (s.unitsOn old).contains n then w.again m else w := by
  have h : (s.adoptRole q old m).sch.wus = _ := congrArg (fun x => x.2.2) (s.adoptRole_tables q old m)
  rw [State.wu, h]
  exact find?_map_key (fun n => (s.unitsOn old).contains n) (WU.again m) _ n

/-- Is a work unit one of a mill's classes? -/
theorem State.mem_unitsOn {s : State} {m n : Nat} : n ∈ s.unitsOn m ↔ ∃ w, (n, w) ∈ s.sch.wus ∧ w.cls ∈ s.keysOn m := by
  simp [State.unitsOn]

/-- A role's work is adopted: classes, channels and unsealed work units move, and nothing else of them changes. -/
theorem adoptRole_effect (s : State) (q old m : Nat) : ∃ t, s.adoptRole q old m = t ∧
    (∀ k ∈ s.keysOn old, t.klass k = { s.klass k with stone := 16 * m + (s.klass k).stone % 16 }) ∧ (∀ k, k ∉ s.keysOn old → t.klass k = s.klass k) ∧
    (∀ c ∈ s.chansOn old, (t.chan c).stone = 16 * m + (s.chan c).stone % 16) ∧ (∀ c, c ∉ s.chansOn old → t.chan c = s.chan c) ∧
    (∀ n w, s.wu n = some w → w.cls ∈ s.keysOn old → t.wu n = some { w with stone := 16 * m + w.stone % 16, st := .released, taken := [], held := false, params := none, os := [] }) ∧
    (∀ n w, s.wu n = some w → w.cls ∉ s.keysOn old → (∀ e ∈ s.sch.wus, e.1 = n → e.2 = w) → t.wu n = some w) := by
  have hclasses : (s.adoptRole q old m).sch.classes = _ := congrArg (fun x => x.1) (s.adoptRole_tables q old m)
  have hchans : (s.adoptRole q old m).sch.chans = _ := congrArg (fun x => x.2.1) (s.adoptRole_tables q old m)
  refine ⟨_, rfl, fun k hk => ?_, fun k hk => ?_, fun c hc => ?_, fun c hc => ?_, fun n w hw hk => ?_, fun n w hw hk hone => ?_⟩
  · rw [State.klass, hclasses]
    exact Tab.get_map_key _ (fun k => (s.keysOn old).contains k) (Klass.moved m) _ (by simpa using hk) (State.mem_keysOn hk)
  · rw [State.klass, hclasses]
    exact Tab.get_map_other _ (fun k => (s.keysOn old).contains k) (Klass.moved m) _ (by simpa using hk)
  · rw [State.chan, hchans]
    exact congrArg Chan.stone (Tab.get_map_key _ (fun k => (s.chansOn old).contains k) (Chan.moved m) _ (by simpa using hc)
      (State.mem_chansOn hc))
  · rw [State.chan, hchans]
    exact Tab.get_map_other _ (fun k => (s.chansOn old).contains k) (Chan.moved m) _ (by simpa using hc)
  · have hn : n ∈ s.unitsOn old := by
      obtain ⟨e, he, rfl⟩ := Option.map_eq_some_iff.1 hw
      have h1 : e.1 = n := by simpa using List.find?_some he
      exact State.mem_unitsOn.2 ⟨e.2, h1 ▸ List.mem_of_find?_eq_some he, hk⟩
    rw [State.adoptRole_wu, hw, Option.map_some, if_pos (List.contains_iff_mem.2 hn), WU.again]
  · have hn : n ∉ s.unitsOn old := fun h => by
      obtain ⟨x, hx, hxk⟩ := State.mem_unitsOn.1 h
      exact hk (hone _ hx rfl ▸ hxk)
    rw [State.adoptRole_wu, hw, Option.map_some, if_neg (fun h => hn (List.contains_iff_mem.1 h))]

end Sys2Proof.Machine
end

section

/-!
PROOF. SPARE_CLAIM (R20, R23, R482, R589): a spare comes up with zeroed memories and takes the role of a faulted mill.
-/

namespace Sys2Proof.Machine

/-! ## Updates of registers alone -/

theorem RegsOnly.fuse {s t : State} (h : RegsOnly s t) : t.fuse = s.fuse := by rw [h]
theorem RegsOnly.sch {s t : State} (h : RegsOnly s t) : t.sch = s.sch := by rw [h]
theorem RegsOnly.ras {s t : State} (h : RegsOnly s t) : t.ras = s.ras := by rw [h]
theorem RegsOnly.stones {s t : State} (h : RegsOnly s t) : t.stones = s.stones := by rw [h]

theorem RegsOnly.trans {s t u : State} (h : RegsOnly s t) (k : RegsOnly t u) : RegsOnly s u := by
  unfold RegsOnly at h k ⊢
  rw [k, h]

/-! ## Counts of mills, and who holds a role (R20, R28, R471) -/

/-- Counting a mill in or out writes DIKE_MILLS and DIKE_STAT.MILLS alone. -/
theorem State.dikeMill_rd (s : State) (p m : Nat) (held : Bool) {ty i o : Nat} (h1 : regAddr ty i o ≠ regAddr T.dike p (0x90 + 4 * (m / 32)))
    (h2 : regAddr ty i o ≠ fieldAt F.DIKE_STAT_MILLS p) : (s.dikeMill p m held).rd ty i o = s.rd ty i o := by
  unfold State.dikeMill
  dsimp only
  split
  · rfl
  · exact (State.rd_wr_ne _ _ h2).trans (State.rd_wr_ne _ _ h1)

/-- Counting a mill in or out changes registers alone. -/
theorem State.dikeMill_rel (s : State) (p m : Nat) (held : Bool) : RegsOnly s (s.dikeMill p m held) := by
  unfold State.dikeMill
  dsimp only
  split
  · rfl
  · exact ((RegsOnly.refl s).wr ..).fset ..

/-- A role is held by the mill that is set to hold it, where that is one of its row. -/
theorem State.millOfRole_setHolder_some (s : State) {q m : Nat} (h : q / 4 = rowOf m) : (s.setHolder q (some m)).millOfRole q = some m := by
  have hw : (s.setHolder q (some m)).rd T.row (q / 4) 0xC08 / 2 ^ (4 * (q % 4)) % 16 = 8 + m % 5 := by
    show bitField ((s.wr ..).rd ..) (4 * (q % 4)) 4 = _
    rw [State.rd_wr_same, bitField_word _ _ _ (by omega), bitField_setField_same]
    show (8 + m % 5) % 2 ^ 4 = _
    omega
  have h5 : 5 * (q / 4) + (8 + m % 5) % 8 = m := by
    rw [rowOf] at h
    omega
  rw [State.millOfRole]
  simp only [hw]
  rw [if_pos (by omega), h5]

/-- A lost role is held by no mill. -/
theorem State.millOfRole_setHolder_none (s : State) (q : Nat) : (s.setHolder q none).millOfRole q = none := by
  have hw : (s.setHolder q none).rd T.row (q / 4) 0xC08 / 2 ^ (4 * (q % 4)) % 16 < 8 := by
    show bitField ((s.wr ..).rd ..) (4 * (q % 4)) 4 < 8
    rw [State.rd_wr_same, bitField_word _ _ _ (by omega), bitField_setField_same]
    have := bitField_lt (s.rd T.row (q / 4) 0xC08) (4 * (q % 4)) 3
    show bitField (s.rd T.row (q / 4) 0xC08) (4 * (q % 4)) 3 % 2 ^ 4 < 8
    omega
  exact if_neg (by omega)

/-- Who holds a role is what ROW_ROLES says. -/
theorem State.millOfRole_congr {s t : State} {q : Nat} (h : t.rd T.row (q / 4) 0xC08 = s.rd T.row (q / 4) 0xC08) : t.millOfRole q = s.millOfRole q := by
  rw [State.millOfRole, h, State.millOfRole]

/-! ## A mill that comes up (R23, R278, R570) -/

/-- The addresses that a mill that comes up, with a role's shadow and image, leaves: those outside its page, and its MILL_ROLE. -/
def KeptAt (m a : Nat) : Prop := a < regAddr T.mill m 0 ∨ regAddr T.mill (m + 1) 0 ≤ a ∨ a = regAddr T.mill m 0x48

/-- MILL_ROLE of every mill is left. -/
theorem keptAt_millRole (m k : Nat) : KeptAt m (regAddr T.mill k 0x48) := by
  simp only [KeptAt, regAddr, T.mill]
  omega

theorem State.freshMill_rd (s : State) {m ty i o : Nat} (h : KeptAt m (regAddr ty i o)) : (s.freshMill m).rd ty i o = s.rd ty i o := by
  unfold State.freshMill
  dsimp only
  by_cases he : regAddr ty i o = regAddr T.mill m 0x48
  · have e : ∀ u : State, u.rd ty i o = u.rd T.mill m 0x48 := fun u => by rw [State.rd, State.rd, he]
    rw [e, e, State.rd_wr_same, Nat.mod_eq_of_lt (s.rd_lt ..)]
  · rw [State.rd_wr_ne _ _ he, State.rd]
    show (Tab.get (regReset s.fuse) (Tab.clearRange s.regs _ _) _).toNat = _
    have hout : ¬ (regAddr T.mill m 0 ≤ regAddr ty i o ∧ regAddr ty i o < regAddr T.mill (m + 1) 0) := by
      rcases h with h | h | h
      · omega
      · omega
      · exact absurd h he
    rw [Tab.get_clearRange, if_neg hout, State.rd]

theorem State.freshMill_stone (s : State) (m n : Nat) : (s.freshMill m).stone n = if n / 16 = m then {} else s.stone n := by
  show Tab.get (fun _ => ({} : Stone)) (Tab.clearRange s.stones (16 * m) (16 * m + 16)) n = _
  rw [Tab.get_clearRange]
  have h : (16 * m ≤ n ∧ n < 16 * m + 16) ↔ n / 16 = m := by omega
  simp only [h]
  rfl

theorem State.freshMill_fuse (s : State) (m : Nat) : (s.freshMill m).fuse = s.fuse := rfl
theorem State.freshMill_sch (s : State) (m : Nat) : (s.freshMill m).sch = s.sch := rfl

/-- MILL_ROLE has no bit that a role's shadow keeps. -/
theorem shadowMask_role : shadowMask 0x48 = 0 := by decide

theorem State.loadShadow_rd (s : State) {q m ty i o : Nat} (h : KeptAt m (regAddr ty i o)) : (s.loadShadow q m).rd ty i o = s.rd ty i o := by
  have key : ∀ l : List Nat, (∀ x ∈ l, x < 4096 ∧ x ≠ 0x48) → ∀ u : State,
      (l.foldl (fun t x => t.wr T.mill m x ((t.rd T.mill m x &&& (shadowMask x ^^^ 0xFFFFFFFF)) ||| (Tab.get (shadowReset s.fuse) s.shadow (4096 * q + x)).toNat)) u).rd ty i o =
        u.rd ty i o := by
    intro l
    induction l with
    | nil => intro _ u; rfl
    | cons x l ih =>
      intro hl u
      obtain ⟨hx, hne⟩ := hl x (List.mem_cons_self ..)
      rw [List.foldl_cons, ih fun y hy => hl y (List.mem_cons_of_mem _ hy), State.rd_wr_ne]
      simp only [KeptAt, regAddr, T.mill] at h ⊢
      omega
  refine key _ (fun x hx => ?_) s
  obtain ⟨hr, hm⟩ := List.mem_filter.1 hx
  obtain ⟨k, hk, rfl⟩ := List.mem_map.1 hr
  have := List.mem_range.1 hk
  refine ⟨by omega, fun e => ?_⟩
  rw [e, shadowMask_role] at hm
  exact absurd hm (by decide)

theorem State.loadShadow_rel (s : State) (q m : Nat) : RegsOnly s (s.loadShadow q m) := by
  have key : ∀ (l : List Nat) (u : State), RegsOnly s u → RegsOnly s
      (l.foldl (fun t x => t.wr T.mill m x ((t.rd T.mill m x &&& (shadowMask x ^^^ 0xFFFFFFFF)) ||| (Tab.get (shadowReset s.fuse) s.shadow (4096 * q + x)).toNat)) u) := by
    intro l
    induction l with
    | nil => intro u h; exact h
    | cons x l ih => intro u h; exact ih _ (h.wr ..)
  exact key _ s rfl

/-! ## SPARE_CLAIM (R589) -/

/-- The registers of a spare's role: its role code 0x3, the epoch and polder it takes, and ROW_ROLES. -/
def State.roleWritten (s : State) (q m epoch p : Nat) : State :=
  (((s.fset F.MILL_ROLE_ROLE m 3).fset F.MILL_ROLE_EPOCH m epoch).fset F.MILL_ROLE_POLDER m p).setHolder q (some m)

/-- The epoch that follows the one of the mill that holds a role (R482). -/
def State.nextEpoch (s : State) (q : Nat) : Nat := ((match s.millOfRole q with | some h => s.fget F.MILL_ROLE_EPOCH h | none => 0) + 1) % 65536

/-- A mill that has a role's registers takes its shadow and image, and is counted in its polder. -/
def State.roleLoaded (s : State) (q m p : Nat) : State := ((s.loadShadow q m).loadImage q m).dikeMill p m true

/-- A spare with zeroed memories takes the role of a claim (steps 4 and 5 of R589). -/
def State.spareTakes (s : State) (c : Claim) : State :=
  let fresh := s.freshMill c.spare
  let p := s.fget F.MILL_ROLE_POLDER c.old
  (fresh.roleWritten c.role c.spare ((fresh.fset F.MILL_ROLE_ROLE c.spare 3).nextEpoch c.role) p).roleLoaded c.role c.spare p

theorem State.loadImage_rd (s : State) (q m ty i o : Nat) : (s.loadImage q m).rd ty i o = s.rd ty i o := rfl
theorem State.loadImage_fuse (s : State) (q m : Nat) : (s.loadImage q m).fuse = s.fuse := rfl
theorem State.loadImage_sch (s : State) (q m : Nat) : (s.loadImage q m).sch = s.sch := rfl
theorem State.loadImage_stones (s : State) (q m : Nat) : (s.loadImage q m).stones = s.stones := rfl

section
variable (s : State) (q m e p : Nat)

theorem State.roleWritten_rel : RegsOnly s (s.roleWritten q m e p) := ((((RegsOnly.refl s).fset ..).fset ..).fset ..).wr ..

theorem State.roleLoaded_fuse : (s.roleLoaded q m p).fuse = s.fuse := by
  rw [State.roleLoaded, (State.dikeMill_rel ..).fuse, State.loadImage_fuse, (State.loadShadow_rel ..).fuse]
theorem State.roleLoaded_sch : (s.roleLoaded q m p).sch = s.sch := by
  rw [State.roleLoaded, (State.dikeMill_rel ..).sch, State.loadImage_sch, (State.loadShadow_rel ..).sch]
theorem State.roleLoaded_stones : (s.roleLoaded q m p).stones = s.stones := by
  rw [State.roleLoaded, (State.dikeMill_rel ..).stones, State.loadImage_stones, (State.loadShadow_rel ..).stones]

/-- A role's shadow, image and count leave the registers outside DIKE and the mill's page, and MILL_ROLE. -/
theorem State.roleLoaded_rd {ty i o : Nat} (h : KeptAt m (regAddr ty i o)) (hd : regAddr ty i o < regAddr T.dike 0 0) :
    (s.roleLoaded q m p).rd ty i o = s.rd ty i o := by
  have hne : ∀ off, regAddr ty i o ≠ regAddr T.dike p off := fun off => by
    simp only [regAddr, T.dike] at hd ⊢
    omega
  rw [State.roleLoaded, State.dikeMill_rd _ _ _ _ (hne _) (hne _), State.loadImage_rd, State.loadShadow_rd _ h]

end

/-- The spare of a claim is marked as having claimed it. -/
def State.claimTaken (s : State) (m : Nat) : State :=
  s.upRas fun r => { r with claims := r.claims.map fun d => if d.spare = m then { d with claimed := true } else d }

section
variable (s : State) (m : Nat)

theorem State.claimTaken_role (k : Nat) : (s.claimTaken m).role k = s.role k := rfl
theorem State.claimTaken_fget (f : Fld) (i : Nat) : (s.claimTaken m).fget f i = s.fget f i := rfl
theorem State.claimTaken_millOfRole (q : Nat) : (s.claimTaken m).millOfRole q = s.millOfRole q := rfl
theorem State.claimTaken_stone (n : Nat) : (s.claimTaken m).stone n = s.stone n := rfl
theorem State.claimTaken_sch : (s.claimTaken m).sch = s.sch := rfl

/-- Every claim of the spare reads claimed. -/
theorem State.claimTaken_claimed {d : Claim} (h : d ∈ (s.claimTaken m).ras.claims) (hd : d.spare = m) : d.claimed = true := by
  obtain ⟨x, -, rfl⟩ := List.mem_map.1 h
  by_cases hx : x.spare = m
  · simp [hx]
  · rw [if_neg hx] at hd
    exact absurd hd hx

end

theorem spareClaim_eq {s : State} {row : Nat} {c : Claim} (hc : s.ras.claims.find? (fun c => !c.claimed && rowOf c.spare == row) = some c)
    (hd : s.dom c.spare = 3) (hr : s.role c.spare = 2) : exec (.spareClaim row) s = .next ((s.spareTakes c).claimTaken c.spare) := by
  show execSpareClaim row s = _
  unfold execSpareClaim
  rw [hc]
  dsimp only
  rw [if_neg (by simp [hd, hr])]
  rfl

/-- SPARE_CLAIM waits for its spare, and does nothing without a claim. -/
theorem spareClaim_waits {s : State} {row : Nat} {c : Claim} (hc : s.ras.claims.find? (fun c => !c.claimed && rowOf c.spare == row) = some c)
    (h : s.dom c.spare ≠ 3 ∨ s.role c.spare ≠ 2) : exec (.spareClaim row) s = .next s := by
  show execSpareClaim row s = _
  unfold execSpareClaim
  rw [hc]
  dsimp only
  rw [if_pos h]

theorem spareClaim_none {s : State} {row : Nat} (hc : s.ras.claims.find? (fun c => !c.claimed && rowOf c.spare == row) = none) :
    exec (.spareClaim row) s = .next s := by
  show execSpareClaim row s = _
  unfold execSpareClaim
  rw [hc]

/-- ROW_ROLES is no MILL_ROLE. -/
theorem millRole_ne_rowRoles (m r : Nat) : regAddr T.mill m 0x48 ≠ regAddr T.row r 0xC08 := by
  simp only [regAddr, T.mill, T.row]
  omega

/-- The MILL_ROLE of one mill is not that of another. -/
theorem millRole_ne {k m : Nat} (h : k ≠ m) : regAddr T.mill k 0x48 ≠ regAddr T.mill m 0x48 := by
  simp only [regAddr]
  omega

/-- Setting the holder of a role leaves the MILL_ROLE of every mill. -/
theorem State.setHolder_millRole (s : State) (q : Nat) (x : Option Nat) (m : Nat) : (s.setHolder q x).rd T.mill m 0x48 = s.rd T.mill m 0x48 :=
  State.rd_wr_ne _ _ (millRole_ne_rowRoles _ _)

section
variable (s : State) (q m : Nat) {e p : Nat}

theorem State.roleWritten_role : (s.roleWritten q m e p).fget F.MILL_ROLE_ROLE m = 3 := by
  have h : (s.roleWritten q m e p).fget F.MILL_ROLE_ROLE m = (((s.fset F.MILL_ROLE_ROLE m 3).fset F.MILL_ROLE_EPOCH m e).fset F.MILL_ROLE_POLDER m p).fget F.MILL_ROLE_ROLE m :=
    congrArg (fun v => bitField v 0 4) (State.setHolder_millRole ..)
  rw [h, State.fget_fset_disj _ F.MILL_ROLE_POLDER _ _ _ _ _ (by rfl) (by decide) (by decide), State.fget_fset_disj _ F.MILL_ROLE_EPOCH _ _ _ _ _ (by rfl) (by decide) (by decide),
    State.fget_fset_same _ _ _ _ _ (by decide)]
  rfl

theorem State.roleWritten_epoch (he : e < 65536) : (s.roleWritten q m e p).fget F.MILL_ROLE_EPOCH m = e := by
  have h : (s.roleWritten q m e p).fget F.MILL_ROLE_EPOCH m = (((s.fset F.MILL_ROLE_ROLE m 3).fset F.MILL_ROLE_EPOCH m e).fset F.MILL_ROLE_POLDER m p).fget F.MILL_ROLE_EPOCH m :=
    congrArg (fun v => bitField v 16 16) (State.setHolder_millRole ..)
  rw [h, State.fget_fset_disj _ F.MILL_ROLE_POLDER _ _ _ _ _ (by rfl) (by decide) (by decide), State.fget_fset_same _ _ _ _ _ (by decide)]
  exact Nat.mod_eq_of_lt he

theorem State.roleWritten_polder (hp : p < 16) : (s.roleWritten q m e p).fget F.MILL_ROLE_POLDER m = p := by
  have h : (s.roleWritten q m e p).fget F.MILL_ROLE_POLDER m = (((s.fset F.MILL_ROLE_ROLE m 3).fset F.MILL_ROLE_EPOCH m e).fset F.MILL_ROLE_POLDER m p).fget F.MILL_ROLE_POLDER m :=
    congrArg (fun v => bitField v 8 4) (State.setHolder_millRole ..)
  rw [h, State.fget_fset_same _ _ _ _ _ (by decide)]
  exact Nat.mod_eq_of_lt hp

/-- The MILL_ROLE of another mill is left. -/
theorem State.roleWritten_other {k : Nat} (hne : k ≠ m) : (s.roleWritten q m e p).rd T.mill k 0x48 = s.rd T.mill k 0x48 :=
  (State.setHolder_millRole ..).trans
    ((State.rd_wr_ne _ _ (millRole_ne hne)).trans ((State.rd_wr_ne _ _ (millRole_ne hne)).trans (State.rd_wr_ne _ _ (millRole_ne hne))))

end

/-- Writing the role code of a mill leaves the epoch of every mill. -/
theorem State.setRole_epoch (s : State) (m v h : Nat) : (s.fset F.MILL_ROLE_ROLE m v).fget F.MILL_ROLE_EPOCH h = s.fget F.MILL_ROLE_EPOCH h := by
  by_cases he : h = m
  · rw [he, State.fget_fset_disj _ F.MILL_ROLE_ROLE _ _ _ _ _ (by rfl) (by decide) (by decide)]
  · exact congrArg (fun v => bitField v 16 16) (State.rd_wr_ne _ _ (millRole_ne he))

/-- The epoch that a spare takes is the one after the epoch of the mill that held the role. -/
theorem State.nextEpoch_fresh (s : State) {q m : Nat} (hm : m < 80) : ((s.freshMill m).fset F.MILL_ROLE_ROLE m 3).nextEpoch q = s.nextEpoch q := by
  have hrow : ((s.freshMill m).fset F.MILL_ROLE_ROLE m 3).millOfRole q = s.millOfRole q := by
    refine State.millOfRole_congr ((State.rd_wr_ne _ _ (millRole_ne_rowRoles _ _).symm).trans (s.freshMill_rd ?_))
    simp only [KeptAt, regAddr, T.mill, T.row]
    omega
  have hep : ∀ h, ((s.freshMill m).fset F.MILL_ROLE_ROLE m 3).fget F.MILL_ROLE_EPOCH h = s.fget F.MILL_ROLE_EPOCH h := fun h => by
    rw [State.setRole_epoch]
    exact congrArg (fun v => bitField v 16 16) (s.freshMill_rd (keptAt_millRole m h))
  simp only [State.nextEpoch, hrow, hep]

/-- The registers of a spare that takes a role. -/
theorem State.spareTakes_rd (s : State) (c : Claim) {ty i o : Nat} (h : KeptAt c.spare (regAddr ty i o)) (hd : regAddr ty i o < regAddr T.dike 0 0) :
    (s.spareTakes c).rd ty i o = ((s.freshMill c.spare).roleWritten c.role c.spare (((s.freshMill c.spare).fset F.MILL_ROLE_ROLE c.spare 3).nextEpoch c.role)
      (s.fget F.MILL_ROLE_POLDER c.old)).rd ty i o := State.roleLoaded_rd _ _ _ _ h hd

theorem spareClaim_effect {s : State} {row : Nat} {c : Claim} (hc : s.ras.claims.find? (fun c => !c.claimed && rowOf c.spare == row) = some c)
    (hd : s.dom c.spare = 3) (hr : s.role c.spare = 2) (hm : c.spare < 80) (hrow : c.role / 4 = rowOf c.spare) :
    ∃ t, exec (.spareClaim row) s = .next t ∧ t.role c.spare = 3 ∧
      t.fget F.MILL_ROLE_POLDER c.spare = s.fget F.MILL_ROLE_POLDER c.old ∧ t.millOfRole c.role = some c.spare ∧
      t.fget F.MILL_ROLE_EPOCH c.spare = ((match s.millOfRole c.role with | some h => s.fget F.MILL_ROLE_EPOCH h | none => 0) + 1) % 65536 ∧
      (∀ k, k < 16 → t.stone (16 * c.spare + k) = {}) ∧ (∀ n, n / 16 ≠ c.spare → t.stone n = s.stone n) ∧ (∀ k, k < 80 → k ≠ c.spare → t.role k = s.role k) ∧ t.sch = s.sch ∧
      (∀ d ∈ t.ras.claims, d.spare = c.spare → d.claimed = true) := by
  have hmills : c.spare < s.fuse.mills := by
    by_contra h
    rw [State.role, if_neg h] at hr
    cases hr
  have hfuse : (s.spareTakes c).fuse = s.fuse := (State.roleLoaded_fuse ..).trans ((State.roleWritten_rel ..).fuse.trans (s.freshMill_fuse _))
  have hsch : (s.spareTakes c).sch = s.sch := (State.roleLoaded_sch ..).trans ((State.roleWritten_rel ..).sch.trans (s.freshMill_sch _))
  have hstone : ∀ n, (s.spareTakes c).stone n = if n / 16 = c.spare then {} else s.stone n := fun n => by
    rw [← State.freshMill_stone]
    exact congrArg (fun l => Tab.get (fun _ => ({} : Stone)) l n) ((State.roleLoaded_stones ..).trans (State.roleWritten_rel ..).stones)
  have hrole : ∀ k, k < 80 → (s.spareTakes c).rd T.mill k 0x48 = _ := fun k hk => s.spareTakes_rd c (keptAt_millRole ..) (by
    simp only [regAddr, T.mill, T.dike]
    omega)
  have hrow16 : c.role / 4 < 16 := by
    rw [hrow, rowOf]
    omega
  have hholder : (s.spareTakes c).millOfRole c.role = some c.spare := by
    rw [← State.millOfRole_setHolder_some _ hrow]
    refine State.millOfRole_congr (s.spareTakes_rd c ?_ ?_)
    · simp only [KeptAt, regAddr, T.mill, T.row]
      omega
    · simp only [regAddr, T.dike, T.row]
      omega
  have hcode : (s.spareTakes c).fget F.MILL_ROLE_ROLE c.spare = 3 := (congrArg (fun v => bitField v 0 4) (hrole _ hm)).trans (State.roleWritten_role ..)
  have hepoch : (s.spareTakes c).fget F.MILL_ROLE_EPOCH c.spare = s.nextEpoch c.role := by
    rw [← State.nextEpoch_fresh s hm]
    exact (congrArg (fun v => bitField v 16 16) (hrole _ hm)).trans (State.roleWritten_epoch _ _ _ (Nat.mod_lt _ (by decide)))
  have hpolder : (s.spareTakes c).fget F.MILL_ROLE_POLDER c.spare = s.fget F.MILL_ROLE_POLDER c.old :=
    (congrArg (fun v => bitField v 8 4) (hrole _ hm)).trans (State.roleWritten_polder _ _ _ (s.fget_lt ..))
  refine ⟨_, spareClaim_eq hc hd hr, ?_, ?_, ?_, ?_, fun k hk => ?_, fun n hn => ?_, fun k hk hne => ?_, ?_, fun d => State.claimTaken_claimed _ _⟩
  · rw [State.claimTaken_role, State.role, hfuse, if_pos hmills, hcode]
  · rw [State.claimTaken_fget, hpolder]
  · rw [State.claimTaken_millOfRole, hholder]
  · rw [State.claimTaken_fget, hepoch, State.nextEpoch]
  · rw [State.claimTaken_stone, hstone, if_pos (by omega)]
  · rw [State.claimTaken_stone, hstone, if_neg hn]
  · rw [State.claimTaken_role]
    exact State.role_congr hfuse ((hrole k hk).trans ((State.roleWritten_other _ _ _ hne).trans (s.freshMill_rd (keptAt_millRole ..))))
  · rw [State.claimTaken_sch, hsch]

end Sys2Proof.Machine
end

section

/-!
PROOF. The quarantine of a mill (R588, R589): the fault is recorded, the mill leaves service and its cache is drained.
-/

namespace Sys2Proof.Machine

/-! ## The drain of a cache (R430, R442) -/

/-- Two states agree in all but memories, poison of the millpond and outputs. -/
def MemOnly (s t : State) : Prop := t = { s with mem := t.mem, pondPoison := t.pondPoison, out := t.out }

theorem MemOnly.refl (s : State) : MemOnly s s := rfl

theorem MemOnly.trans {s t u : State} (h : MemOnly s t) (k : MemOnly t u) : MemOnly s u := by
  unfold MemOnly at h k ⊢
  rw [k, h]

section
variable (s : State)

theorem State.upCoh_memOnly (f : Coherence → Coherence) : MemOnly s (s.upCoh f) := rfl
theorem State.setDir_memOnly (ln : Nat) (e : DirEnt) : MemOnly s (s.setDir ln e) := rfl
theorem State.setCached_memOnly (m ln : Nat) (x : CacheSt) : MemOnly s (s.setCached m ln x) := rfl
theorem State.emit_memOnly (o : Out) : MemOnly s (s.emit o) := rfl
theorem State.poisonWords_memOnly (ln : Nat) : MemOnly s (s.poisonWords ln) := rfl

end

theorem State.dirGrant_rel (s : State) (t : CohTxn) : MemOnly s (s.dirGrant t) := by
  have h : ∀ f e x o, MemOnly s ((((s.upCoh f).setDir t.line e).setCached t.mill t.line x).emit o) := fun f e x o =>
    (((s.upCoh_memOnly f).trans (State.setDir_memOnly ..)).trans (State.setCached_memOnly ..)).trans (State.emit_memOnly ..)
  unfold State.dirGrant
  dsimp only
  split
  · exact h ..
  · exact h ..
  · exact h ..

theorem State.snoopDone_rel (s : State) (m : Nat) (t : CohTxn) : MemOnly s (s.snoopDone m t) := by
  unfold State.snoopDone
  dsimp only
  split
  · exact s.dirGrant_rel _
  · exact s.upCoh_memOnly _

theorem State.dropHolder_rel (s : State) (m ln : Nat) : MemOnly s (s.dropHolder m ln) := by
  unfold State.dropHolder
  dsimp only
  split
  · exact s.setDir_memOnly ..
  · split
    · exact s.setDir_memOnly ..
    · exact .refl s

/-- The drain of a mill's cache changes memories and outputs alone. -/
theorem State.drainCache_rel (s : State) (m : Nat) (bad : List Nat) : MemOnly s (s.drainCache m bad) := by
  have poison : ∀ (l : List Nat) (u : State), MemOnly u (l.foldl State.poisonWords u) :=
    fun l u => foldl_rel MemOnly.refl MemOnly.trans l (fun t ln _ => t.poisonWords_memOnly ln) u
  have drop : ∀ (l : List Nat) (u : State), MemOnly u (l.foldl (fun (t : State) ln => t.dropHolder m ln) u) :=
    fun l u => foldl_rel MemOnly.refl MemOnly.trans l (fun t ln _ => t.dropHolder_rel m ln) u
  have snoop : ∀ (l : List CohTxn) (u : State), MemOnly u (l.foldl (fun u t => u.snoopDone m t) u) :=
    fun l u => foldl_rel MemOnly.refl MemOnly.trans l (fun u t _ => u.snoopDone_rel m t) u
  unfold State.drainCache
  dsimp only
  exact ((((poison _ s).trans (State.upCoh_memOnly ..)).trans (drop ..)).trans (State.upCoh_memOnly ..)).trans (snoop ..)

/-! ## A fault is noted (R588, R607) -/

/-- The fault log, the cause, the record of the Ledger and the list of mills with an earlier record, at the quarantine of a mill. -/
def State.faultNoted (s : State) (kind m spare : Nat) : State :=
  let s1 := ((s.rasLog kind 0 T.mill m spare).raise T.ras 0 I.RAS_MILL_FAULT).faultRecord kind T.mill m spare
  if s.quarantinedBefore m then s1.upRas fun r => { r with again := r.again ++ [m] } else s1

/-- Two states agree in all but the fault log, registers, outputs, the Ledger and the RAS block's list of earlier records. -/
def NotedOnly (s t : State) : Prop :=
  t = { s with flog := t.flog, regs := t.regs, out := t.out, led := t.led, ras := { s.ras with again := t.ras.again } }

theorem NotedOnly.trans {s t u : State} (h : NotedOnly s t) (k : NotedOnly t u) : NotedOnly s u := by
  unfold NotedOnly at h k ⊢
  rw [k, h]

theorem State.wr_notedOnly (s : State) (ty i o v : Nat) : NotedOnly s (s.wr ty i o v) := rfl
theorem State.emits_notedOnly (s : State) (l : List Out) : NotedOnly s (s.emits l) := rfl

theorem State.rasLog_notedOnly (s : State) (kind cls typ inst detail : Nat) : NotedOnly s (s.rasLog kind cls typ inst detail) := by
  unfold State.rasLog
  split
  · rfl
  · exact s.wr_notedOnly ..

theorem State.raise_notedOnly (s : State) (ty i b : Nat) : NotedOnly s (s.raise ty i b) := by
  obtain ⟨l, e⟩ := s.raise_eq ty i b
  rw [e]
  exact (s.wr_notedOnly ..).trans (State.emits_notedOnly ..)

theorem State.again_notedOnly (s : State) (l : List Nat) : NotedOnly s (s.upRas fun r => { r with again := r.again ++ l }) := rfl

theorem State.faultRecord_notedOnly (s : State) (kind typ inst detail : Nat) : NotedOnly s (s.faultRecord kind typ inst detail) := rfl

/-- What a fault that is noted leaves, and what it records. -/
structure Noted (s t : State) : Prop where
  only : NotedOnly s t
  regs : SameRegsBut s t [fieldAt F.RAS_FLOG_CTRL_OVF 0, causeAt T.ras 0]
  reqs : ∃ r : LReq, t.led.reqs = s.led.reqs ++ [r] ∧ r.typ = 4
  cause : causeSet t T.ras 0 I.RAS_MILL_FAULT

theorem State.faultRecord_regs (s : State) (kind typ inst detail : Nat) : (s.faultRecord kind typ inst detail).regs = s.regs := rfl
theorem State.faultRecord_fuse (s : State) (kind typ inst detail : Nat) : (s.faultRecord kind typ inst detail).fuse = s.fuse := rfl

theorem State.rasLog_regs (s : State) (kind cls typ inst detail : Nat) : SameRegsBut s (s.rasLog kind cls typ inst detail) [fieldAt F.RAS_FLOG_CTRL_OVF 0, causeAt T.ras 0] := by
  unfold State.rasLog
  split
  · exact (SameRegsBut.refl s _).keep rfl rfl
  · exact (SameRegsBut.refl s _).finc _ _ _ _ (List.mem_cons_self ..)

theorem State.rasLog_led (s : State) (kind cls typ inst detail : Nat) : (s.rasLog kind cls typ inst detail).led = s.led := by
  unfold State.rasLog
  split
  · rfl
  · exact s.finc_led ..

theorem State.faultNoted_noted (s : State) (kind m spare : Nat) : Noted s (s.faultNoted kind m spare) := by
  have honly := s.rasLog_notedOnly kind 0 T.mill m spare
  have hregs := s.rasLog_regs kind 0 T.mill m spare
  have hled : (s.rasLog kind 0 T.mill m spare).led = s.led := s.rasLog_led ..
  generalize hv : s.rasLog kind 0 T.mill m spare = v at honly hregs hled
  have h1 : Noted s ((v.raise T.ras 0 I.RAS_MILL_FAULT).faultRecord kind T.mill m spare) := by
    refine ⟨(honly.trans (v.raise_notedOnly ..)).trans (State.faultRecord_notedOnly ..),
      (hregs.raise T.ras 0 _ (List.mem_cons_of_mem _ (List.mem_cons_self ..))).keep (State.faultRecord_regs ..) (State.faultRecord_fuse ..), ?_,
      (causeSet_raise v _ _ _ (by decide) (by decide)).keep (State.faultRecord_rd ..)⟩
    obtain ⟨r, hr, e⟩ := (v.raise T.ras 0 I.RAS_MILL_FAULT).faultRecord_reqs kind T.mill m spare
    exact ⟨r, by rw [e, State.raise_led, hled], hr⟩
  unfold State.faultNoted
  rw [hv]
  dsimp only
  split
  · obtain ⟨ho, hr, hq, hc⟩ := h1
    exact ⟨ho.trans (State.again_notedOnly ..), hr.keep (State.upRas_regs ..) (State.upRas_fuse ..), hq, hc.keep (State.upRas_rd ..)⟩
  · exact h1

end Sys2Proof.Machine
end

section

/-!
PROOF. MILL_FAULT (R588, R589, R593): quarantine, and the take-over by a spare or the loss of the role.
-/

namespace Sys2Proof.Machine

/-! ## Quarantine (R588) -/

/-- The registers that a mill's leaving service changes. -/
def quarantineAt (m p : Nat) : List Nat :=
  [regAddr T.mill m 0x400, fieldAt F.MILL_ROLE_ROLE m, regAddr T.dike p (0x90 + 4 * (m / 32)), fieldAt F.DIKE_STAT_MILLS p,
   fieldAt F.VANE_MILL_PACE_VALID (halfOf m) (m % 40)]

/-- Two states agree in all but registers, pace samples, mills, role changes, memories and outputs. -/
def LeftOnly (s t : State) : Prop :=
  t = { s with regs := t.regs, fab := t.fab, mills := t.mills, pol := t.pol, mem := t.mem, pondPoison := t.pondPoison, out := t.out }

theorem LeftOnly.trans {s t u : State} (h : LeftOnly s t) (k : LeftOnly t u) : LeftOnly s u := by
  unfold LeftOnly at h k ⊢
  rw [k, h]

theorem LeftOnly.fuse {s t : State} (h : LeftOnly s t) : t.fuse = s.fuse := by rw [h]
theorem LeftOnly.sch {s t : State} (h : LeftOnly s t) : t.sch = s.sch := by rw [h]
theorem LeftOnly.ras {s t : State} (h : LeftOnly s t) : t.ras = s.ras := by rw [h]
theorem LeftOnly.led {s t : State} (h : LeftOnly s t) : t.led = s.led := by rw [h]
theorem LeftOnly.stones {s t : State} (h : LeftOnly s t) : t.stones = s.stones := by rw [h]
theorem LeftOnly.streams {s t : State} (h : LeftOnly s t) : t.streams = s.streams := by rw [h]

theorem MemOnly.leftOnly {s t : State} (h : MemOnly s t) : LeftOnly s t := by
  unfold MemOnly at h
  rw [h]
  rfl

theorem RegsOnly.leftOnly {s t : State} (h : RegsOnly s t) : LeftOnly s t := by
  unfold RegsOnly at h
  rw [h]
  rfl

theorem RegsOnly.mills {s t : State} (h : RegsOnly s t) : t.mills = s.mills := by rw [h]
theorem MemOnly.mills {s t : State} (h : MemOnly s t) : t.mills = s.mills := by rw [h]
theorem MemOnly.regs {s t : State} (h : MemOnly s t) : t.regs = s.regs := by rw [h]
theorem MemOnly.fuse {s t : State} (h : MemOnly s t) : t.fuse = s.fuse := by rw [h]

section
variable (s : State)

theorem State.wr_leftOnly (ty i o v : Nat) : LeftOnly s (s.wr ty i o v) := rfl
theorem State.forgetPace_leftOnly (m : Nat) : LeftOnly s (s.forgetPace m) := rfl
theorem State.setMill_leftOnly (m : Nat) (x : MillSt) : LeftOnly s (s.setMill m x) := rfl
theorem State.upPol_leftOnly (g : Polders → Polders) : LeftOnly s (s.upPol g) := rfl

end

/-- What a mill that leaves service changes. -/
structure Left (s t : State) (m : Nat) : Prop where
  only : LeftOnly s t
  regs : ∃ p, p < 16 ∧ SameRegsBut s t (quarantineAt m p)
  role : t.rd T.mill m 0x48 = (s.fset F.MILL_ROLE_ROLE m 4).rd T.mill m 0x48
  stopped : (t.mill m).stopped = true
  mills : ∀ k, k ≠ m → t.mill k = s.mill k

theorem SameRegsBut.dikeMill {s t : State} {l : List Nat} (h : SameRegsBut s t l) {p m : Nat} (held : Bool) (h1 : regAddr T.dike p (0x90 + 4 * (m / 32)) ∈ l)
    (h2 : fieldAt F.DIKE_STAT_MILLS p ∈ l) : SameRegsBut s (t.dikeMill p m held) l := by
  unfold State.dikeMill
  dsimp only
  split
  · exact h
  · exact (h.wr _ h1).fset _ _ _ _ h2

theorem MemOnly.rd {s t : State} (h : MemOnly s t) (ty i o : Nat) : t.rd ty i o = s.rd ty i o := by rw [State.rd, h.regs, h.fuse, State.rd]

@[simp] theorem State.mill_setMill_same (s : State) (m : Nat) (x : MillSt) : (s.setMill m x).mill m = x := Tab.get_set_same ..

theorem State.mill_setMill_ne (s : State) {m k : Nat} (x : MillSt) (h : k ≠ m) : (s.setMill m x).mill k = s.mill k := Tab.get_set_ne _ _ h

theorem State.mill_congr {s t : State} (h : t.mills = s.mills) (k : Nat) : t.mill k = s.mill k := by rw [State.mill, h, State.mill]

/-- A mill's role code is set where its fills are kept and its pace samples are forgotten (R24, R54, R588). -/
def State.roleLeft (s : State) (m : Nat) : State :=
  ((s.wr T.mill m 0x400 (s.hopperStat m)).forgetPace m).fset F.MILL_ROLE_ROLE m 4

theorem State.roleLeft_leftOnly (s : State) (m : Nat) : LeftOnly s (s.roleLeft m) :=
  ((s.wr_leftOnly ..).trans (State.forgetPace_leftOnly ..)).trans (State.wr_leftOnly ..)

theorem State.roleLeft_mill (s : State) (m k : Nat) : (s.roleLeft m).mill k = s.mill k :=
  State.mill_congr ((State.fset_mills ..).trans ((State.forgetPace_mills ..).trans (State.wr_mills ..))) k

theorem State.roleLeft_regs (s : State) (m p : Nat) : SameRegsBut s (s.roleLeft m) (quarantineAt m p) :=
  (((SameRegsBut.refl s _).wr _ (by simp [quarantineAt])).keep (State.forgetPace_regs ..) (State.forgetPace_fuse ..)).fset _ _ _ _ (by simp [quarantineAt])

theorem State.roleLeft_role (s : State) (m : Nat) : (s.roleLeft m).rd T.mill m 0x48 = (s.fset F.MILL_ROLE_ROLE m 4).rd T.mill m 0x48 := by
  have h : ((s.wr T.mill m 0x400 (s.hopperStat m)).forgetPace m).rd T.mill m 0x48 = s.rd T.mill m 0x48 :=
    (State.forgetPace_rd ..).trans (s.rd_wr_ne _ (regAddr_ne_of_off (o := 0x400) (by decide)))
  have e : ∀ u : State, (u.fset F.MILL_ROLE_ROLE m 4).rd T.mill m 0x48 = setField (u.rd T.mill m 0x48) 0 4 4 % 2 ^ 32 := fun u => State.rd_wr_same ..
  rw [State.roleLeft, e, e, h]

/-- A mill out of service: its role is left, its stones stop, no polder counts it, and its cache is drained (R588, R589). -/
def State.leftService (s : State) (m : Nat) (bad : List Nat) : State :=
  ((s.quarantineMill m).drainCache m bad).fset F.VANE_MILL_PACE_VALID (halfOf m) 0 (m % 40)

theorem State.quarantineMill_left (s : State) {m : Nat} (hm : m < 80) : Left s (s.quarantineMill m) m := by
  have e : s.quarantineMill m = (((s.roleLeft m).setMill m { s.mill m with stopped := true }).dikeMill (s.fget F.MILL_ROLE_POLDER m) m false).upPol
      fun x => { x with changes := x.changes.filter fun c => c.mill != m } := rfl
  have hdike := ((s.roleLeft m).setMill m { s.mill m with stopped := true }).dikeMill_rel (s.fget F.MILL_ROLE_POLDER m) m false
  have hp : s.fget F.MILL_ROLE_POLDER m < 16 := s.fget_lt ..
  rw [e]
  refine ⟨?_, ⟨s.fget F.MILL_ROLE_POLDER m, hp, ?_⟩, ?_, ?_, fun k hk => ?_⟩
  · exact (((s.roleLeft_leftOnly m).trans (State.setMill_leftOnly ..)).trans hdike.leftOnly).trans (State.upPol_leftOnly ..)
  · exact ((((s.roleLeft_regs m _).keep (State.setMill_regs ..) (State.setMill_fuse ..)).dikeMill false (by simp [quarantineAt])
      (by simp [quarantineAt])).keep (State.upPol_regs ..) (State.upPol_fuse ..))
  · rw [State.upPol_rd, State.dikeMill_rd, State.setMill_rd, State.roleLeft_role]
    · simp only [regAddr, T.mill, T.dike]
      omega
    · simp only [regAddr, fieldAt, F.DIKE_STAT_MILLS, T.mill]
      omega
  · rw [State.mill_congr (State.upPol_mills ..), State.mill_congr hdike.mills, State.mill_setMill_same]
  · rw [State.mill_congr (State.upPol_mills ..), State.mill_congr hdike.mills, State.mill_setMill_ne _ _ hk, State.roleLeft_mill]

theorem State.leftService_left (s : State) {m : Nat} (hm : m < 80) (bad : List Nat) : Left s (s.leftService m bad) m := by
  obtain ⟨honly, ⟨p, hp, hregs⟩, hrole, hstop, hmills⟩ := s.quarantineMill_left hm
  have hdrain := (s.quarantineMill m).drainCache_rel m bad
  unfold State.leftService
  refine ⟨(honly.trans hdrain.leftOnly).trans (State.wr_leftOnly ..), ⟨p, hp, ?_⟩, ?_, ?_, fun k hk => ?_⟩
  · exact (hregs.keep hdrain.regs hdrain.fuse).fset _ _ _ _ (by simp [quarantineAt])
  · have hne : regAddr T.mill m 0x48 ≠ fieldAt F.VANE_MILL_PACE_VALID (halfOf m) (m % 40) := by
      simp only [regAddr, fieldAt, F.VANE_MILL_PACE_VALID, T.mill]
      omega
    exact (State.rd_wr_ne _ _ hne).trans ((hdrain.rd ..).trans hrole)
  · rw [State.mill_congr (State.fset_mills ..), State.mill_congr hdrain.mills, hstop]
  · rw [State.mill_congr (State.fset_mills ..), State.mill_congr hdrain.mills, hmills k hk]

end Sys2Proof.Machine
end

section

/-!
PROOF. MILL_FAULT (R588, R589, R593): quarantine as a whole, the call of a spare, and the loss of a role.
-/

namespace Sys2Proof.Machine

/-! ## Quarantine as a whole (R588, R589) -/

/-- What a quarantine records, changes and leaves. -/
structure Quarantined (s t : State) (m : Nat) : Prop where
  fuse : t.fuse = s.fuse
  sch : t.sch = { s.sch with takeover := t.sch.takeover }
  takeover : rowOf m ∈ t.sch.takeover
  lost : t.ras.lost = s.ras.lost
  reqs : ∃ r : LReq, t.led.reqs = s.led.reqs ++ [r] ∧ r.typ = 4
  stones : t.stones = s.stones
  streams : t.streams = s.streams
  cause : causeSet t T.ras 0 I.RAS_MILL_FAULT
  regs : ∃ p, p < 16 ∧ SameRegsBut s t ([fieldAt F.RAS_FLOG_CTRL_OVF 0, causeAt T.ras 0] ++ quarantineAt m p)
  word : t.rd T.mill m 0x48 = (s.fset F.MILL_ROLE_ROLE m 4).rd T.mill m 0x48
  stopped : (t.mill m).stopped = true
  mills : ∀ k, k ≠ m → t.mill k = s.mill k

/-- Claims and gifts of a quarantined mill end, and its row is in take-over. -/
def State.rowTaken (s : State) (m : Nat) : State :=
  (s.upRas fun r => { r with claims := r.claims.filter fun c => c.spare != m, given := r.given.filter fun g => g.mill != m,
                             claimedAt := r.claimedAt.filter fun e => e.1 != m }).upSch
    fun c => { c with takeover := if c.takeover.contains (rowOf m) then c.takeover else c.takeover ++ [rowOf m] }

section
variable (s : State) (m : Nat)

theorem State.rowTaken_fuse : (s.rowTaken m).fuse = s.fuse := rfl
theorem State.rowTaken_regs : (s.rowTaken m).regs = s.regs := rfl
theorem State.rowTaken_rd (ty i o : Nat) : (s.rowTaken m).rd ty i o = s.rd ty i o := rfl
theorem State.rowTaken_lost : (s.rowTaken m).ras.lost = s.ras.lost := rfl
theorem State.rowTaken_led : (s.rowTaken m).led = s.led := rfl
theorem State.rowTaken_stones : (s.rowTaken m).stones = s.stones := rfl
theorem State.rowTaken_streams : (s.rowTaken m).streams = s.streams := rfl
theorem State.rowTaken_mill (k : Nat) : (s.rowTaken m).mill k = s.mill k := rfl
theorem State.rowTaken_sch : (s.rowTaken m).sch = { s.sch with takeover := (s.rowTaken m).sch.takeover } := rfl

theorem State.rowTaken_mem : rowOf m ∈ (s.rowTaken m).sch.takeover := by
  show rowOf m ∈ if s.sch.takeover.contains (rowOf m) then s.sch.takeover else s.sch.takeover ++ [rowOf m]
  split
  · next h => exact List.contains_iff_mem.1 h
  · exact List.mem_append_right _ (List.mem_singleton_self _)

end

theorem State.quarantine_eq {s : State} {m : Nat} (kind : Nat) (bad : List Nat) (h : s.changing m = false) :
    s.quarantine m kind bad = ((s.faultNoted kind m ((s.idleSpare (rowOf m)).getD 0x7F)).leftService m bad).rowTaken m := by
  have hnone : s.pol.changes.find? (fun c => c.mill == m) = none := by
    rw [List.find?_eq_none]
    intro c hc hm
    have : s.changing m = true := List.any_eq_true.2 ⟨c, hc, hm⟩
    rw [h] at this
    cases this
  unfold State.quarantine
  dsimp only
  rw [hnone]
  rfl

theorem State.quarantine_effect {s : State} {m : Nat} (hm : m < 80) (kind : Nat) (bad : List Nat) (h : s.changing m = false) :
    Quarantined s (s.quarantine m kind bad) m := by
  rw [State.quarantine_eq kind bad h]
  have hnoted := s.faultNoted_noted kind m ((s.idleSpare (rowOf m)).getD 0x7F)
  generalize s.faultNoted kind m ((s.idleSpare (rowOf m)).getD 0x7F) = n at hnoted
  have hleft := n.leftService_left hm bad
  generalize n.leftService m bad = u at hleft
  obtain ⟨hn, hnregs, ⟨r, hr, hrtyp⟩, hcause⟩ := hnoted
  obtain ⟨hu, ⟨p, hp, huregs⟩, hword, hstop, hmills⟩ := hleft
  have nfuse : n.fuse = s.fuse := by rw [hn]
  have nsch : n.sch = s.sch := by rw [hn]
  have nlost : n.ras.lost = s.ras.lost := by rw [hn]
  have nmill : ∀ k, n.mill k = s.mill k := State.mill_congr (by rw [hn])
  have nstones : n.stones = s.stones := by rw [hn]
  have nstreams : n.streams = s.streams := by rw [hn]
  have nword : n.rd T.mill m 0x48 = s.rd T.mill m 0x48 := hnregs.rd (by
    simp [regAddr, fieldAt, causeAt, F.RAS_FLOG_CTRL_OVF, T.mill, T.ras]
    omega)
  have uras : u.rd T.ras 0 0x18 = n.rd T.ras 0 0x18 := huregs.rd (by
    simp [quarantineAt, regAddr, fieldAt, F.MILL_ROLE_ROLE, F.DIKE_STAT_MILLS, F.VANE_MILL_PACE_VALID, T.mill, T.ras, T.dike, halfOf]
    omega)
  have e : ∀ v : State, (v.fset F.MILL_ROLE_ROLE m 4).rd T.mill m 0x48 = setField (v.rd T.mill m 0x48) 0 4 4 % 2 ^ 32 := fun v => State.rd_wr_same ..
  exact {
    fuse := (u.rowTaken_fuse m).trans (hu.fuse.trans nfuse)
    sch := by rw [u.rowTaken_sch m, hu.sch, nsch]
    takeover := u.rowTaken_mem m
    lost := (u.rowTaken_lost m).trans ((congrArg RasSt.lost hu.ras).trans nlost)
    reqs := ⟨r, by rw [u.rowTaken_led m, hu.led, hr], hrtyp⟩
    stones := (u.rowTaken_stones m).trans (hu.stones.trans nstones)
    streams := (u.rowTaken_streams m).trans (hu.streams.trans nstreams)
    cause := (hcause.keep uras).keep (u.rowTaken_rd m ..)
    regs := ⟨p, hp, ((hnregs.mono (List.subset_append_left ..)).trans (huregs.mono (List.subset_append_right ..))).keep (u.rowTaken_regs m) (u.rowTaken_fuse m)⟩
    word := by rw [u.rowTaken_rd, hword, e, e, nword]
    stopped := (congrArg MillSt.stopped (u.rowTaken_mill m m)).trans hstop
    mills := fun k hk => (u.rowTaken_mill m k).trans ((hmills k hk).trans (nmill k)) }

/-- MILL_ROLE of other mills, DIKE_CTRL and ROW_ROLES are no registers that a quarantine changes. -/
theorem not_mem_quarantine {m p a : Nat} (hm : m < 80) (hne : a ≠ regAddr T.mill m 0x48) (ha : a % 4096 = 0x48 ∨ a % 4096 = 0x40 ∨ a % 4096 = 0xC08) :
    a ∉ [fieldAt F.RAS_FLOG_CTRL_OVF 0, causeAt T.ras 0] ++ quarantineAt m p := by
  simp only [quarantineAt, regAddr, fieldAt, causeAt, F.MILL_ROLE_ROLE, F.DIKE_STAT_MILLS, F.VANE_MILL_PACE_VALID, F.RAS_FLOG_CTRL_OVF, T.mill, T.ras, T.dike, halfOf,
    List.cons_append, List.nil_append, List.mem_cons, List.not_mem_nil, or_false] at hne ⊢
  omega

namespace Quarantined

section
variable {s t : State} {m : Nat} (h : Quarantined s t m)
include h

/-- The mill has role 0x4. -/
theorem role_same (hf : m < s.fuse.mills) : t.role m = 4 := by
  have hw : t.fget F.MILL_ROLE_ROLE m = (s.fset F.MILL_ROLE_ROLE m 4).fget F.MILL_ROLE_ROLE m := congrArg (fun v => bitField v 0 4) h.word
  rw [State.role, h.fuse, if_pos hf, hw, State.fget_fset_same _ _ _ _ _ (by decide)]
  rfl

/-- The polder in the MILL_ROLE of every mill is left. -/
theorem polder (hm : m < 80) (g : Nat) : t.fget F.MILL_ROLE_POLDER g = s.fget F.MILL_ROLE_POLDER g := by
  by_cases he : g = m
  · have hw : t.fget F.MILL_ROLE_POLDER m = (s.fset F.MILL_ROLE_ROLE m 4).fget F.MILL_ROLE_POLDER m := congrArg (fun v => bitField v 8 4) h.word
    rw [he, hw, State.fget_fset_disj _ F.MILL_ROLE_ROLE _ _ _ _ _ (by rfl) (by decide) (by decide)]
  · obtain ⟨p, -, hr⟩ := h.regs
    refine hr.fget _ _ _ (not_mem_quarantine hm (millRole_ne he) (.inl ?_))
    simp only [fieldAt, regAddr, F.MILL_ROLE_POLDER]
    omega

/-- The role of another mill is left. -/
theorem role_other (hm : m < 80) {k : Nat} (hne : k ≠ m) : t.role k = s.role k := by
  obtain ⟨p, -, hr⟩ := h.regs
  refine State.role_congr h.fuse (hr.rd (not_mem_quarantine hm (millRole_ne hne) (.inl ?_)))
  simp only [regAddr]
  omega

/-- The priorities of polders are left. -/
theorem prio (hm : m < 80) (j : Nat) : t.fget F.DIKE_CTRL_PRIO j = s.fget F.DIKE_CTRL_PRIO j := by
  obtain ⟨p, -, hr⟩ := h.regs
  refine hr.fget _ _ _ (not_mem_quarantine hm ?_ (.inr (.inl ?_)))
  · simp only [fieldAt, regAddr, F.DIKE_CTRL_PRIO]
    omega
  · simp only [fieldAt, regAddr, F.DIKE_CTRL_PRIO]
    omega

/-- The classes, channels and bundles that a mill carries are left. -/
theorem keysOn (k : Nat) : t.keysOn k = s.keysOn k := by rw [State.keysOn, State.lostKeys, h.lost, h.sch, State.keysOn, State.lostKeys]
theorem chansOn (k : Nat) : t.chansOn k = s.chansOn k := by rw [State.chansOn, State.lostChans, h.lost, h.sch, State.chansOn, State.lostChans]
theorem bunsOn (k : Nat) : t.bunsOn k = s.bunsOn k := by rw [State.bunsOn, State.lostBuns, h.lost, h.sch, State.bunsOn, State.lostBuns]

/-- Who holds a role is left. -/
theorem millOfRole (hm : m < 80) (k : Nat) : t.millOfRole k = s.millOfRole k := by
  obtain ⟨p, -, hr⟩ := h.regs
  refine State.millOfRole_congr (hr.rd (not_mem_quarantine hm (millRole_ne_rowRoles _ _).symm (.inr (.inr ?_))))
  simp only [regAddr]
  omega

end

end Quarantined

/-! ## The call of a spare (R571, R589) -/

/-- Two states agree in all but registers, power domains and outputs. -/
def PowerOnly (s t : State) : Prop := t = { s with regs := t.regs, power := t.power, out := t.out }

theorem PowerOnly.trans {s t u : State} (h : PowerOnly s t) (k : PowerOnly t u) : PowerOnly s u := by
  unfold PowerOnly at h k ⊢
  rw [k, h]

theorem State.setDom_powerOnly (s : State) (d v : Nat) : PowerOnly s (s.setDom d v) := rfl
theorem State.upPower_powerOnly (s : State) (g : PowerSt → PowerSt) : PowerOnly s (s.upPower g) := rfl
theorem State.finc_powerOnly (s : State) (f : Fld) : PowerOnly s (s.finc f 0) := rfl
theorem State.raise_powerOnly (s : State) (ty i b : Nat) : PowerOnly s (s.raise ty i b) := by
  obtain ⟨l, e⟩ := s.raise_eq ty i b
  rw [e]
  exact PowerOnly.trans (t := s.wr ty i 0x18 _) rfl rfl

/-- The registers that a wake changes. -/
def wakeAt : List Nat := [fieldAt F.POWER_RACE_CANCELLED 0, causeAt T.power 0]

theorem State.wakeDom_rel (s : State) (d : Nat) : PowerOnly s (s.wakeDom d) ∧ SameRegsBut s (s.wakeDom d) wakeAt := by
  have h0 : PowerOnly s s ∧ SameRegsBut s s wakeAt := ⟨rfl, .refl s _⟩
  have hdom : ∀ v, PowerOnly s (s.setDom d v) ∧ SameRegsBut s (s.setDom d v) wakeAt :=
    fun v => ⟨s.setDom_powerOnly .., (SameRegsBut.refl s _).keep (State.setDom_regs ..) (State.setDom_fuse ..)⟩
  have hup : ∀ g, PowerOnly s (s.upPower g) ∧ SameRegsBut s (s.upPower g) wakeAt :=
    fun g => ⟨s.upPower_powerOnly .., (SameRegsBut.refl s _).keep (State.upPower_regs ..) (State.upPower_fuse ..)⟩
  have hcount : ∀ {t : State} (f : Fld), fieldAt f 0 ∈ wakeAt → PowerOnly s t ∧ SameRegsBut s t wakeAt →
      PowerOnly s (t.finc f 0) ∧ SameRegsBut s (t.finc f 0) wakeAt :=
    fun f hf h => ⟨h.1.trans (State.finc_powerOnly ..), h.2.finc _ _ _ _ hf⟩
  unfold State.wakeDom
  split
  · exact hdom 1
  · split
    · exact hcount _ (by decide) (hup _)
    · exact h0
  · exact hcount _ (by decide) (hdom 3)
  · exact hcount _ (by decide) (hdom 3)
  · split
    · exact h0
    · obtain ⟨h1, h2⟩ := hcount F.POWER_RACE_QUEUED (by decide) (hup fun x => { x with queued := x.queued ++ [d] })
      exact ⟨h1.trans (State.raise_powerOnly ..), h2.raise _ _ _ (by decide)⟩
  · exact h0

/-- A claim on a spare is entered, and the spare is woken. -/
def State.spareCalled (s : State) (c : Claim) : State := (s.upRas fun r => { r with claims := r.claims ++ [c] }).wakeDom c.spare

theorem State.spareCalled_rel (s : State) (c : Claim) : PowerOnly (s.upRas fun r => { r with claims := r.claims ++ [c] }) (s.spareCalled c) := (State.wakeDom_rel ..).1

theorem State.spareCalled_rd (s : State) (c : Claim) {ty i o : Nat} (h : regAddr ty i o ∉ wakeAt) : (s.spareCalled c).rd ty i o = s.rd ty i o :=
  (State.wakeDom_rel ..).2.rd h

/-! ## The loss of a role (R593) -/

/-- The mills, and the rows in take-over. -/
def State.service (s : State) : Tab MillSt × List Nat := (s.mills, s.sch.takeover)

theorem State.mills_of_service {s t : State} (h : t.service = s.service) : t.mills = s.mills := (Prod.mk.inj h).1
theorem State.takeover_of_service {s t : State} (h : t.service = s.service) : t.sch.takeover = s.sch.takeover := (Prod.mk.inj h).2

theorem QueuesAndRings.service {s t : State} (h : QueuesAndRings s t) : t.service = s.service := by rw [State.service, h.mills, h.sch, State.service]

theorem State.freeUnit_service (s : State) (n cls : Nat) : (s.freeUnit n cls).service = s.service := by
  have e : ∀ t : State, (t.eraseWu n).service = t.service := fun _ => rfl
  rw [State.freeUnit, e, foldl_keeps State.service]
  exact fun _ _ => rfl

theorem State.freeUnit_base (s : State) (n cls : Nat) : (s.freeUnit n cls).base = s.base := by
  have e : ∀ t : State, (t.eraseWu n).base = t.base := fun _ => rfl
  rw [State.freeUnit, e, foldl_keeps State.base]
  exact fun t r => t.jbFree_base ..

theorem State.applySlots_service (s : State) (q : Nat) : (s.applySlots q).service = s.service := by
  unfold State.applySlots
  rw [foldl_keeps State.service]
  · rfl
  · exact fun _ _ => rfl

/-- The work of a role that is lost is freed, and its sealed write-backs are applied. -/
def State.workFreed (s : State) (q m : Nat) : State :=
  let s1 := (s.sch.wus.filter fun e => (s.keysOn m).contains e.2.cls).foldl (fun t e => t.freeUnit e.1 e.2.cls) s
  ((qHeadrace q :: (List.range 16).map (qStage q)).foldl (fun t id => t.qRemove id fun _ => true) s1).applySlots q

theorem State.workFreed_base (s : State) (q m : Nat) : (s.workFreed q m).base = s.base := by
  unfold State.workFreed
  dsimp only
  rw [State.applySlots_base, foldl_keeps State.base, foldl_keeps State.base]
  · exact fun t e => t.freeUnit_base ..
  · exact fun t id => (t.qRemove_rel ..).base

theorem State.workFreed_service (s : State) (q m : Nat) : (s.workFreed q m).service = s.service := by
  unfold State.workFreed
  dsimp only
  rw [State.applySlots_service, foldl_keeps State.service, foldl_keeps State.service]
  · exact fun t e => t.freeUnit_service ..
  · exact fun t id => (t.qRemove_rel ..).service

/-- What a role that is lost waits with (step 5 of R593). -/
def State.lostRole (s : State) (q m p : Nat) (tests : List Nat) : LostRole := ⟨q, p, s.keysOn m, s.chansOn m, s.bunsOn m, tests⟩

theorem State.loseRole_eq (s : State) (q m p : Nat) (tests : List Nat) : s.loseRole q m p tests =
    ((((s.workFreed q m).setHolder q none).upRas fun r => { r with lost := r.lost ++ [s.lostRole q m p tests] }).finc F.RAS_COUNTS_DEGRADED 0).raise T.ras 0 I.RAS_DEGRADED := rfl

/-- The loss of a role writes ROW_ROLES, RAS_COUNTS and RAS's causes. -/
theorem State.loseRole_rd (s : State) (q m p : Nat) (tests : List Nat) {ty i o : Nat} (h1 : regAddr ty i o ≠ regAddr T.row (q / 4) 0xC08)
    (h2 : regAddr ty i o ≠ fieldAt F.RAS_COUNTS_DEGRADED 0) (h3 : regAddr ty i o ≠ causeAt T.ras 0) : (s.loseRole q m p tests).rd ty i o = s.rd ty i o := by
  rw [State.loseRole_eq, State.rd_raise_ne _ h3]
  exact (State.rd_wr_ne _ _ h2).trans ((State.upRas_rd ..).trans ((State.rd_wr_ne _ _ h1).trans (State.rd_of_base (s.workFreed_base q m) ..)))

section
variable (s : State) (q m p : Nat) (tests : List Nat)

theorem State.loseRole_fuse : (s.loseRole q m p tests).fuse = s.fuse := by
  have hh : ∀ t : State, (t.setHolder q none).fuse = t.fuse := fun _ => rfl
  rw [State.loseRole_eq, State.raise_fuse, State.finc_fuse, State.upRas_fuse, hh]
  exact congrArg (fun x => x.1) (s.workFreed_base q m)

theorem State.loseRole_service : (s.loseRole q m p tests).service = s.service := by
  have hh : ∀ t : State, (t.setHolder q none).service = t.service := fun _ => rfl
  have hr : ∀ (t : State) f, (t.upRas f).service = t.service := fun _ _ => rfl
  have hf : ∀ t : State, (t.finc F.RAS_COUNTS_DEGRADED 0).service = t.service := fun t => by
    rw [State.service, State.finc_mills, State.finc_sch, State.service]
  rw [State.loseRole_eq, State.service, State.raise_mills, State.raise_sch]
  show State.service _ = _
  rw [hf, hr, hh, State.workFreed_service]

/-- The role is held by no mill. -/
theorem State.loseRole_millOfRole : (s.loseRole q m p tests).millOfRole q = none := by
  have hraise : regAddr T.row (q / 4) 0xC08 ≠ regAddr T.ras 0 0x18 := by
    simp only [regAddr, T.row, T.ras]
    omega
  have hcount : regAddr T.row (q / 4) 0xC08 ≠ fieldAt F.RAS_COUNTS_DEGRADED 0 := by
    simp only [regAddr, fieldAt, F.RAS_COUNTS_DEGRADED, T.row]
    omega
  have hfinc : ∀ t : State, (t.finc F.RAS_COUNTS_DEGRADED 0).rd T.row (q / 4) 0xC08 = t.rd T.row (q / 4) 0xC08 := fun t => t.rd_wr_ne _ hcount
  rw [← State.millOfRole_setHolder_none (s.workFreed q m) q, State.loseRole_eq]
  refine State.millOfRole_congr ?_
  rw [State.rd_raise_ne _ hraise, hfinc, State.upRas_rd]

theorem State.loseRole_millRole (k : Nat) : (s.loseRole q m p tests).rd T.mill k 0x48 = s.rd T.mill k 0x48 := by
  refine s.loseRole_rd q m p tests (millRole_ne_rowRoles _ _) ?_ ?_
  · simp only [regAddr, fieldAt, F.RAS_COUNTS_DEGRADED, T.mill]
    omega
  · simp only [regAddr, causeAt, T.mill, T.ras]
    omega

/-- The loss is raised, and every cause of the RAS page that is set stays set. -/
theorem State.loseRole_degraded : causeSet (s.loseRole q m p tests) T.ras 0 I.RAS_DEGRADED := by
  rw [State.loseRole_eq]
  exact causeSet_raise _ _ _ _ (by decide) (by decide)

theorem State.loseRole_lost : s.lostRole q m p tests ∈ (s.loseRole q m p tests).ras.lost := by
  rw [State.loseRole_eq, State.raise_ras, State.finc_ras]
  exact List.mem_append_right _ (List.mem_singleton_self _)

end

theorem State.loseRole_causeSet {s : State} (q m p : Nat) (tests : List Nat) {b : Nat} (h : causeSet s T.ras 0 b) : causeSet (s.loseRole q m p tests) T.ras 0 b := by
  have hrow : regAddr T.ras 0 0x18 ≠ regAddr T.row (q / 4) 0xC08 := by
    simp only [regAddr, T.row, T.ras]
    omega
  rw [State.loseRole_eq]
  refine (h.keep ?_).raise ..
  exact (State.rd_wr_ne _ _ (by decide)).trans ((State.upRas_rd ..).trans ((State.rd_wr_ne _ _ hrow).trans (State.rd_of_base (s.workFreed_base q m) ..)))

/-- No role is given up where no other role of the row has a polder of lower priority (step 4 of R593). -/
theorem State.givenUp_none {s : State} {q p : Nat}
    (h : ∀ k g, k / 4 = q / 4 → k ≠ q → s.millOfRole k = some g → s.fget F.DIKE_CTRL_PRIO p ≤ s.fget F.DIKE_CTRL_PRIO (s.fget F.MILL_ROLE_POLDER g)) :
    s.givenUp q p = none := by
  unfold State.givenUp
  dsimp only
  split
  · rfl
  · next a r hl =>
    obtain ⟨k, hk, hka⟩ := List.mem_filterMap.1 (hl ▸ List.mem_cons_self (a := a) (l := r))
    obtain ⟨i, hi, rfl⟩ := List.mem_map.1 hk
    have hi := List.mem_range.1 hi
    split at hka
    · next g hg =>
      split at hka
      · next hlow =>
        obtain ⟨hne, -, -, -, -, hlt⟩ := hlow
        have := h _ g (by omega) hne hg
        omega
      · cases hka
    · cases hka

/-! ## MILL_FAULT (R588, R593) -/

theorem isMillKind_iff (k : Nat) : isMillKind k = true ↔ (1 ≤ k ∧ k ≤ 5) ∨ (0x10 ≤ k ∧ k ≤ 0x15) := by simp [isMillKind]

/-- A fault of another kind, or of a mill that is neither in service nor called, does nothing. -/
theorem millFault_ignored {s : State} {m kind : Nat} (bad : List Nat)
    (h : (kind < 1 ∨ (5 < kind ∧ kind < 0x10) ∨ 0x15 < kind) ∨ (s.member m = false ∧ ∀ c ∈ s.ras.claims, c.spare ≠ m)) :
    exec (.millFault m kind bad) s = .next s := by
  show execMillFault m kind bad s = _
  unfold execMillFault
  refine if_pos ?_
  rcases h with hk | ⟨hm, hc⟩
  · left
    rw [isMillKind_iff]
    omega
  · right
    have hn : s.ras.claims.find? (fun c => c.spare == m) = none := by simpa using hc
    simp [hm, hn]

/-- A fault of a mill in service that no take-over concerns: quarantine, then the call of the idle spare or the search for a role to give up. -/
theorem millFault_eq {s : State} {m kind q : Nat} (bad : List Nat) (hk : (1 ≤ kind ∧ kind ≤ 5) ∨ (0x10 ≤ kind ∧ kind ≤ 0x15)) (hm : s.member m = true)
    (hc : ∀ c ∈ s.ras.claims, c.spare ≠ m) (hg : ∀ g ∈ s.ras.given, g.mill ≠ m) (hq : s.roleOfMill m = some q) :
    exec (.millFault m kind bad) s = match s.idleSpare (rowOf m) with
      | some sp => .next ((s.quarantine m kind bad).spareCalled ⟨q, m, sp, false⟩)
      | none => .next ((s.quarantine m kind bad).noSpare q m (s.fget F.MILL_ROLE_POLDER m) [m]) := by
  have hnc : s.ras.claims.find? (fun c => c.spare == m) = none := by simpa using hc
  have hng : s.ras.given.find? (fun g => g.mill == m) = none := by simpa using hg
  have hif : ¬ (¬ isMillKind kind = true ∨ ¬ (s.member m = true ∨ (none : Option Claim).isSome = true)) := by simp [(isMillKind_iff kind).2 hk, hm]
  show execMillFault m kind bad s = _
  unfold execMillFault
  dsimp only
  rw [hnc, hng, if_neg hif, hq]
  rfl

section
variable {s : State} {m kind q : Nat} (bad : List Nat) (hf : m < s.fuse.mills) (hm80 : m < 80) (hk : (1 ≤ kind ∧ kind ≤ 5) ∨ (0x10 ≤ kind ∧ kind ≤ 0x15))
  (hm : s.member m = true) (hc : ∀ c ∈ s.ras.claims, c.spare ≠ m) (hg : ∀ g ∈ s.ras.given, g.mill ≠ m) (hch : s.changing m = false) (hq : s.roleOfMill m = some q)
include hf hm80 hk hm hc hg hch hq

/-- With an idle spare in its row, the spare is called for the faulted mill's role. -/
theorem millFault_spare {sp : Nat} (hs : s.idleSpare (rowOf m) = some sp) :
    ∃ (t : State) (r : LReq), exec (.millFault m kind bad) s = .next t ∧ t.role m = 4 ∧ (t.mill m).stopped = true ∧ ⟨q, m, sp, false⟩ ∈ t.ras.claims ∧
      rowOf m ∈ t.sch.takeover ∧ causeSet t T.ras 0 I.RAS_MILL_FAULT ∧ t.sch = { s.sch with takeover := t.sch.takeover } ∧ t.led.reqs = s.led.reqs ++ [r] ∧ r.typ = 4 ∧
      (∀ k, k ≠ m → t.mill k = s.mill k ∧ (k < 80 → t.role k = s.role k)) ∧ t.stones = s.stones ∧ t.streams = s.streams := by
  have e := millFault_eq bad hk hm hc hg hq
  rw [hs] at e
  dsimp only at e
  have hu := State.quarantine_effect hm80 kind bad hch
  generalize s.quarantine m kind bad = u at e hu
  have ht := u.spareCalled_rel ⟨q, m, sp, false⟩
  have hrd : ∀ ty i o, regAddr ty i o ∉ wakeAt → (u.spareCalled ⟨q, m, sp, false⟩).rd ty i o = u.rd ty i o := fun _ _ _ => u.spareCalled_rd _
  generalize u.spareCalled ⟨q, m, sp, false⟩ = t at e ht hrd
  obtain ⟨r, hr, hrtyp⟩ := hu.reqs
  have tfuse : t.fuse = u.fuse := by rw [ht]; rfl
  have tsch : t.sch = u.sch := by rw [ht]; rfl
  have tclaims : t.ras.claims = u.ras.claims ++ [⟨q, m, sp, false⟩] := by rw [ht]; rfl
  have tled : t.led = u.led := by rw [ht]; rfl
  have tmill : ∀ k, t.mill k = u.mill k := State.mill_congr (by rw [ht]; rfl)
  have tstones : t.stones = u.stones := by rw [ht]; rfl
  have tstreams : t.streams = u.streams := by rw [ht]; rfl
  have trole : ∀ k, t.role k = u.role k := fun k => State.role_congr tfuse (hrd _ _ _ (by
    simp [wakeAt, regAddr, fieldAt, causeAt, F.POWER_RACE_CANCELLED, T.mill, T.power]
    omega))
  refine ⟨t, r, e, (trole m).trans (hu.role_same hf), (congrArg MillSt.stopped (tmill m)).trans hu.stopped, ?_, tsch ▸ hu.takeover,
    hu.cause.keep (hrd _ _ _ (by decide)), ?_, by rw [tled, hr], hrtyp,
    fun k hne => ⟨(tmill k).trans (hu.mills k hne), fun _ => (trole k).trans (hu.role_other hm80 hne)⟩, tstones.trans hu.stones, tstreams.trans hu.streams⟩
  · rw [tclaims]
    exact List.mem_append_right _ (List.mem_singleton_self _)
  · rw [tsch]
    exact hu.sch

/-- With no idle spare and no role of lower priority in its row, the faulted mill's role is lost with its classes, channels and bundles. -/
theorem millFault_lost (hs : s.idleSpare (rowOf m) = none)
    (hprio : ∀ k g, k / 4 = q / 4 → k ≠ q → s.millOfRole k = some g →
      s.fget F.DIKE_CTRL_PRIO (s.fget F.MILL_ROLE_POLDER m) ≤ s.fget F.DIKE_CTRL_PRIO (s.fget F.MILL_ROLE_POLDER g)) :
    ∃ t l, exec (.millFault m kind bad) s = .next t ∧ t.role m = 4 ∧ (t.mill m).stopped = true ∧ t.millOfRole q = none ∧ causeSet t T.ras 0 I.RAS_MILL_FAULT ∧ causeSet t T.ras 0 I.RAS_DEGRADED ∧
      l ∈ t.ras.lost ∧ l.role = q ∧ l.polder = s.fget F.MILL_ROLE_POLDER m ∧ l.chans = s.chansOn m ∧ l.buns = s.bunsOn m ∧ l.keys = s.keysOn m ∧ l.mills = [m] ∧ rowOf m ∈ t.sch.takeover := by
  have e := millFault_eq bad hk hm hc hg hq
  rw [hs] at e
  dsimp only at e
  have hu := State.quarantine_effect hm80 kind bad hch
  generalize s.quarantine m kind bad = u at e hu
  have hnone : u.givenUp q (s.fget F.MILL_ROLE_POLDER m) = none := State.givenUp_none fun k g hrow hne hkg => by
    rw [hu.prio hm80, hu.prio hm80, hu.polder hm80]
    exact hprio k g hrow hne (hu.millOfRole hm80 k ▸ hkg)
  rw [State.noSpare, hnone] at e
  dsimp only at e
  have hserv := u.loseRole_service q m (s.fget F.MILL_ROLE_POLDER m) [m]
  have hfuse := u.loseRole_fuse q m (s.fget F.MILL_ROLE_POLDER m) [m]
  have hword := u.loseRole_millRole q m (s.fget F.MILL_ROLE_POLDER m) [m] m
  have hholder := u.loseRole_millOfRole q m (s.fget F.MILL_ROLE_POLDER m) [m]
  have hcause := State.loseRole_causeSet q m (s.fget F.MILL_ROLE_POLDER m) [m] hu.cause
  have hdegraded := u.loseRole_degraded q m (s.fget F.MILL_ROLE_POLDER m) [m]
  have hlost := u.loseRole_lost q m (s.fget F.MILL_ROLE_POLDER m) [m]
  generalize u.loseRole q m (s.fget F.MILL_ROLE_POLDER m) [m] = t at e hserv hfuse hword hholder hcause hdegraded hlost
  have hmills : t.mills = u.mills := State.mills_of_service hserv
  have htake : t.sch.takeover = u.sch.takeover := State.takeover_of_service hserv
  rw [State.lostRole] at hlost
  exact ⟨t, _, e, (State.role_congr hfuse hword).trans (hu.role_same hf), (congrArg MillSt.stopped (State.mill_congr hmills m)).trans hu.stopped, hholder, hcause,
    hdegraded, hlost, rfl, rfl, hu.chansOn m, hu.bunsOn m, hu.keysOn m, rfl, htake ▸ hu.takeover⟩

end

end Sys2Proof.Machine
end

section

/-!
PROOF. The statement on take-over (R20, R189, R482, R588 to R590, R593, R594).
-/

namespace Sys2Proof.Machine

/-- Settles O58: quarantine, the claim of a spare, the move of a role's work and the placement of lost roles, each by the lemma on its command. -/
theorem takeOver : Obligations.TakeOver := by
  unfold Obligations.TakeOver
  exact ⟨fun s m kind bad h => millFault_ignored bad h,
    fun s m kind q bad hf hm hk hmem hc hg hch hq =>
      ⟨fun sp hs => millFault_spare bad hf hm hk hmem hc hg hch hq hs, fun hs hprio => millFault_lost bad hf hm hk hmem hc hg hch hq hs hprio⟩,
    fun s row c hc => ⟨fun h => spareClaim_waits hc h, fun hd hr hm hrow _ => spareClaim_effect hc hd hr hm hrow⟩,
    fun s row h => spareClaim_none h,
    adoptRole_effect,
    fun s row c h => takeoverComplete_none c h,
    fun s row c x hx _ _ _ => takeoverComplete_effect hx,
    fun s role h => channelPlacementDone_waits h,
    fun s role l hl hc hg => channelPlacementDone_effect hl hc hg,
    fun s h turn c l hl => placeChan_effect s h turn c hl⟩

end Sys2Proof.Machine
end

section

/-!
PROOF. The values after reset (R75, R151, R155, R193, R384, R414, R498, R549), and TICK and TIDE_TURN_MARK (R60 to R63, R70, R160, R161, R170, R396,
R397): a tick as one map over each table that counts it, and the instant of the next mark.
-/

namespace Sys2Proof.Machine

/-- Settles O2: each listed reset value is read from the field tables, and every table of the machine is empty at reset. -/
theorem resetValues : Obligations.ResetValues :=
  ⟨by decide +kernel, rfl, fun _ => rfl, rfl, rfl, rfl, fun _ => rfl, fun _ => rfl, fun _ => rfl, rfl, by decide⟩

/-! ## Ticks (R60, R61, R62, R63, R70, R95, R170) -/

/-- A table mapped key by key, where the map keeps each key's default, reads the mapped values. -/
theorem Tab.get_map_keyed {α : Type} {d : Nat → α} (g : Nat → α → α) (m : Tab α) (k : Nat) (hd : g k (d k) = d k) :
    Tab.get d (m.map fun e => (e.1, g e.1 e.2)) k = g k (Tab.get d m k) := by
  induction m with
  | nil => exact hd.symm
  | cons e m ih =>
    obtain ⟨a, v⟩ := e
    by_cases h : a = k
    · subst h; simp [Tab.get]
    · simpa [Tab.get, h] using ih

/-- The tick of a stage, a lock and a stone of a die whose tick lock runs, as `b` says. -/
def StageSt.tick (x : StageSt) (b : Bool) : StageSt := if x.started && b then { x with ticks := x.ticks + 1 } else x
def LockSt.tick (x : LockSt) (b : Bool) : LockSt := if x.wake && b then { x with wakeTicks := x.wakeTicks + 1 } else x

theorem Stone.tick_eq (x : Stone) :
    x.tick = { x with ticks := x.ticks + (if x.running.isSome ∧ ¬ x.halted then 1 else 0), far := x.far.map fun f => { f with wait := f.wait + 1 } } := by
  unfold Stone.tick
  by_cases h : x.running.isSome ∧ ¬ x.halted
  · simp [h]
  · rw [if_neg h, if_neg (by simpa using h)]
    rfl

/-- A tick that reaches a work unit counts at a prefetch that waits for memory, and nowhere else. -/
theorem WU.tick_eq (w : WU) (b : Bool) :
    (if b then w.tick else w) = { w with wait := match w.st, b with | .fetching _, true => w.wait + 1 | _, _ => w.wait } := by
  obtain ⟨cls, stone, wuid, deadline, defer, st⟩ := w
  cases b <;> cases st <;> rfl

theorem State.tickRuns_iff (s : State) (h : Nat) : s.tickRuns h = true ↔ (s.lock h 18).st = .run := by simp [State.tickRuns]

/-- TICK leaves TICK_LOSS of a die as it stands only while the tick does not reach it (R63). -/
theorem tickLost_of_tick {s t : State} (h0 : t.fab.tickLost0 = (s.fab.tickLost0 && !s.tickRuns 0)) (h1 : t.fab.tickLost1 = (s.fab.tickLost1 && !s.tickRuns 1))
    {h : Nat} (hh : h < 2) : t.tickLost h = true ↔ s.tickLost h = true ∧ s.tickRuns h = false := by
  obtain rfl | rfl : h = 0 ∨ h = 1 := by omega
  · simp [State.tickLost, h0]
  · simp [State.tickLost, h1]

/-! ## The next mark (R161) -/

/-- The multiple of a number nearest to another lies within half of it. -/
theorem nearest_multiple (a : Int) {m : Int} (hm : 0 < m) : a - m / 2 ≤ (a + m / 2).fdiv m * m ∧ (a + m / 2).fdiv m * m ≤ a + m / 2 := by
  have e := Int.emod_add_mul_ediv (a + m / 2) m
  rw [Int.fdiv_eq_ediv_of_nonneg _ hm.le, Int.mul_comm]
  have h0 := Int.emod_nonneg (a + m / 2) hm.ne'
  have h1 := Int.emod_lt_of_pos (a + m / 2) hm
  omega

/-- The next mark lies 999 to 1,001 µs after this one, and after a mark on a whole millisecond 1 ms. -/
theorem markAfter_bounds (n : Nat) : n + 999000 * unitNs ≤ (markAfter n).toNat ∧ (markAfter n).toNat ≤ n + 1001000 * unitNs ∧
    (n % (1000000 * unitNs) = 0 → (markAfter n).toNat = n + 1000000 * unitNs) := by
  have e := nearest_multiple (n + 1000000 * 65536) (m := 1000000 * 65536) (by norm_num)
  simp only [markAfter, show unitNs = 65536 from rfl, show Int.ofNat 65536 = 65536 from rfl]
  generalize Int.fdiv _ _ = q at e ⊢
  refine ⟨?_, ?_, fun h => ?_⟩ <;> split_ifs <;> omega

theorem State.miller_setMiller_same (s : State) (h : Nat) (x : Miller) : (s.setMiller h x).miller h = x := Tab.get_set_same ..

theorem State.miller_setMiller_ne (s : State) {h k : Nat} (x : Miller) (hk : k ≠ h) : (s.setMiller h x).miller k = s.miller k := Tab.get_set_ne _ _ hk

/-- Tide before a mark is sent to the Millers: the mark's time has come and the next one is set. -/
def State.markTaken (s : State) : State :=
  let load := s.fbit F.TIDE_STAT_TIME_VALID 0 && !s.tide.loaded
  (s.clock s.tide.nextMark).upTide fun x =>
    { x with turns := if load then s.tide.nextMark / (1000000 * unitNs) else s.tide.turns + 1, loaded := x.loaded || load,
             lastMark := Int.ofNat s.tide.nextMark, nextMark := (markAfter (Int.ofNat s.tide.nextMark)).toNat }

/-- A Miller with a mark of Tide's turn count on its way. -/
def State.marked (s : State) (h : Nat) : Miller := { s.miller h with marks := (s.miller h).marks ++ [(s.markTaken.tide.turns % 65536, s.tide.nextMark)] }

theorem State.emitMark_eq (s : State) : s.emitMark = (s.markTaken.setMiller 0 (s.marked 0)).setMiller 1 (s.marked 1) := by
  have e : (s.markTaken.setMiller 0 (s.marked 0)).miller 1 = s.miller 1 := State.miller_setMiller_ne _ _ (by decide)
  have e1 : s.marked 1 = { (s.markTaken.setMiller 0 (s.marked 0)).miller 1 with marks := ((s.markTaken.setMiller 0 (s.marked 0)).miller 1).marks ++ [(s.markTaken.tide.turns % 65536, s.tide.nextMark)] } := by
    rw [e]; rfl
  rw [e1]
  rfl

theorem State.miller_emitMark (s : State) {h : Nat} (hh : h < 2) : s.emitMark.miller h = s.marked h := by
  rw [State.emitMark_eq]
  obtain rfl | rfl : h = 0 ∨ h = 1 := by omega
  · rw [State.miller_setMiller_ne _ _ (by decide), State.miller_setMiller_same]
  · rw [State.miller_setMiller_same]

/-- Settles O34: TICK maps each table that counts ticks and leaves the rest; a mark moves Tide on, sets the next one and reaches both Millers. -/
theorem tideTicksAndMarks : Obligations.TideTicksAndMarks := by
  refine ⟨fun s => ⟨_, rfl, rfl, fun h hh => ⟨s.tickRuns_iff h, tickLost_of_tick rfl rfl hh⟩, ?_, ?_, ?_, ?_, ?_, ?_⟩, fun s hstep => ?_⟩
  · rintro n x rfl
    refine (Tab.get_map_keyed (fun k y => if s.tickRuns (k / 640) then y.tick else y) s.stones n ?_).trans ?_
    · exact ite_self _
    · rw [← Stone.tick_eq]
      rfl
  · exact List.map_congr_left fun e _ => congrArg (Prod.mk e.1) (WU.tick_eq ..)
  · exact List.map_congr_left fun e _ => congrArg (Prod.mk e.1) (WU.tick_eq ..)
  · exact List.map_congr_left fun w _ => by simp only [Bool.and_eq_true]
  · intro h n hh hn
    have e : (32 * h + n) / 32 = h := by omega
    refine (Tab.get_map_keyed (fun k x => LockSt.tick x (s.tickRuns (k / 32))) s.fab.locks (32 * h + n) rfl).trans ?_
    simp only [e, LockSt.tick, Bool.and_eq_true]
    rfl
  · rintro k x rfl
    refine (Tab.get_map_keyed (fun k x => StageSt.tick x (s.tickRuns (stageHalf k))) s.fab.stages k rfl).trans ?_
    simp only [StageSt.tick, Bool.and_eq_true]
  · have e : exec .tideTurnMark s = .next s.emitMark := by
      show Host.Outcome.next (if _ then s else s.emitMark) = _
      rw [if_neg hstep]
    have ht : s.emitMark.tide = s.markTaken.tide := by rw [State.emitMark_eq]; rfl
    have hnext : s.emitMark.tide.nextMark = (markAfter s.tide.nextMark).toNat := congrArg TideSt.nextMark ht
    have htide : s.emitMark.tide = { s.tide with turns := s.emitMark.tide.turns, loaded := s.emitMark.tide.loaded, lastMark := Int.ofNat s.tide.nextMark, nextMark := s.emitMark.tide.nextMark } := by
      rw [ht]; rfl
    obtain ⟨hlo, hhi, hwhole⟩ := hnext ▸ markAfter_bounds s.tide.nextMark
    refine ⟨_, e, by rw [State.emitMark_eq]; rfl, htide, (congrArg TideSt.turns ht).trans ?_, hlo, hhi, hwhole, fun h hh => ?_⟩
    · show (if (s.fbit F.TIDE_STAT_TIME_VALID 0 && !s.tide.loaded) = true then _ else _) = _
      simp only [Bool.and_eq_true, Bool.not_eq_true']
    · rw [State.miller_emitMark s hh, ht]
      rfl

end Sys2Proof.Machine
end

section

/-!
PROOF. Fabric detections (R64, R90, R126, R592): what a report to the RAS block leaves in CANAL_FAULT, in the mill and in the outputs.
-/

namespace Sys2Proof.Machine

/-- What CANAL_FAULT of a router holds after a detection: the first one until VALID is cleared (R90). -/
theorem State.canalFault_held (s : State) {row : Nat} (port : Nat) (vl : Option Nat) (kind : Nat) (h : s.fbit F.CANAL_FAULT_VALID row = true) :
    s.canalFault row port vl kind = s := if_pos h

/-- A detection of a named lane changes CANAL_FAULT alone. -/
theorem State.canalFault_lane (s : State) {row : Nat} (port v kind : Nat) (h : s.fbit F.CANAL_FAULT_VALID row = false) :
    s.canalFault row port (some v) kind = s.wr T.row row 0xC48 (2 ^ 31 + v % 32 * 65536 + port % 16 * 256 + kind % 16) :=
  if_neg (by rw [h]; decide)

/-- A detection of no single lane leaves VL open. -/
theorem State.canalFault_open (s : State) {row : Nat} (port kind : Nat) (h : s.fbit F.CANAL_FAULT_VALID row = false) :
    s.canalFault row port none kind =
      s.takeFree.2.wr T.row row 0xC48 (2 ^ 31 + s.takeFree.1.toNat % 32 * 65536 + port % 16 * 256 + kind % 16) :=
  if_neg (by rw [h]; decide)

theorem State.canalFault_only (s : State) (row port : Nat) (vl : Option Nat) (kind : Nat) :
    s.canalFault row port vl kind = { s with regs := (s.canalFault row port vl kind).regs, fresh := (s.canalFault row port vl kind).fresh } := by
  cases h : s.fbit F.CANAL_FAULT_VALID row
  · cases vl
    · rw [s.canalFault_open port kind h]; rfl
    · rw [s.canalFault_lane port _ kind h]; rfl
  · rw [s.canalFault_held port vl kind h]

theorem State.canalFault_regs (s : State) (row port : Nat) (vl : Option Nat) (kind : Nat) :
    SameRegsBut s (s.canalFault row port vl kind) [regAddr T.row row 0xC48] := by
  have m : regAddr T.row row 0xC48 ∈ [regAddr T.row row 0xC48] := List.mem_singleton.2 rfl
  cases h : s.fbit F.CANAL_FAULT_VALID row
  · cases vl
    · rw [s.canalFault_open port kind h]; exact ((SameRegsBut.refl s _).keep rfl rfl).wr _ m
    · rw [s.canalFault_lane port _ kind h]; exact (SameRegsBut.refl s _).wr _ m
  · rw [s.canalFault_held port vl kind h]; exact SameRegsBut.refl s _

/-- The word of a detection fits its register. -/
theorem State.rd_wr_fault (s : State) (row v port kind : Nat) :
    (s.wr T.row row 0xC48 (2 ^ 31 + v % 32 * 65536 + port % 16 * 256 + kind % 16)).rd T.row row 0xC48 = 2 ^ 31 + v % 32 * 65536 + port % 16 * 256 + kind % 16 := by
  rw [State.rd_wr_same]
  omega

/-- While VALID is clear CANAL_FAULT takes the kind, the port and, where the detection has one, the lane. -/
theorem State.rd_canalFault (s : State) {row : Nat} (port : Nat) (vl : Option Nat) (kind : Nat) (h : s.fbit F.CANAL_FAULT_VALID row = false) :
    ∃ v, v < 32 ∧ (s.canalFault row port vl kind).rd T.row row 0xC48 = 2 ^ 31 + v * 65536 + port % 16 * 256 + kind % 16 ∧ ∀ x ∈ vl, v = x % 32 := by
  cases vl with
  | none =>
    rw [s.canalFault_open port kind h, State.rd_wr_fault]
    exact ⟨_, Nat.mod_lt _ (by decide), rfl, fun x hx => (Option.not_mem_none _ hx).elim⟩
  | some v =>
    rw [s.canalFault_lane port v kind h, State.rd_wr_fault]
    refine ⟨_, Nat.mod_lt _ (by decide), rfl, fun x hx => ?_⟩
    rw [Option.mem_some_iff.1 hx]

/-! ## Reports at a lock -/

/-- The registers that a detection at a lock may change: CANAL_FAULT of the router at which it stands. -/
def lockFaultRegs (h n : Nat) : List Nat := match lockRouter h n with | some (r, _) => [regAddr T.row r 0xC48] | none => []

/-- The state of a detection at a lock before its report is sent. -/
def State.lockFault (s : State) (h n kind : Nat) (vl : Option Nat) : State :=
  match lockRouter h n with | some (r, q) => s.canalFault r q vl kind | none => s

theorem State.detect_lock (s : State) (kind h n : Nat) (vl : Option Nat) :
    s.detect kind (.lock h n) vl = (s.lockFault h n kind vl).emit (.detection kind (.lock h n)) := rfl

theorem State.lockFault_some (s : State) {h n r q : Nat} (kind : Nat) (vl : Option Nat) (e : lockRouter h n = some (r, q)) :
    s.lockFault h n kind vl = s.canalFault r q vl kind := by rw [State.lockFault, e]

theorem State.lockFault_none (s : State) {h n : Nat} (kind : Nat) (vl : Option Nat) (e : lockRouter h n = none) :
    s.lockFault h n kind vl = s := by rw [State.lockFault, e]

theorem State.lockFault_only (s : State) (h n kind : Nat) (vl : Option Nat) :
    s.lockFault h n kind vl = { s with regs := (s.lockFault h n kind vl).regs, fresh := (s.lockFault h n kind vl).fresh } := by
  cases e : lockRouter h n with
  | none => rw [s.lockFault_none kind vl e]
  | some p => rw [s.lockFault_some kind vl e]; exact s.canalFault_only ..

theorem State.lockFault_regs (s : State) (h n kind : Nat) (vl : Option Nat) : SameRegsBut s (s.lockFault h n kind vl) (lockFaultRegs h n) := by
  cases e : lockRouter h n with
  | none => rw [s.lockFault_none kind vl e]; exact SameRegsBut.refl s _
  | some p => rw [s.lockFault_some kind vl e, lockFaultRegs, e]; exact s.canalFault_regs p.1 p.2 vl kind

/-- A detection at a lock is reported, may be kept in CANAL_FAULT of the lock's router, and leaves the rest. -/
theorem State.detect_lock_effect (s : State) (kind h n : Nat) (vl : Option Nat) :
    (s.detect kind (.lock h n) vl).out = s.out ++ [.detection kind (.lock h n)] ∧ SameRegsBut s (s.detect kind (.lock h n) vl) (lockFaultRegs h n) ∧
      s.detect kind (.lock h n) vl = { s with regs := (s.detect kind (.lock h n) vl).regs, out := (s.detect kind (.lock h n) vl).out, fresh := (s.detect kind (.lock h n) vl).fresh } := by
  have only := s.lockFault_only h n kind vl
  refine ⟨?_, (s.lockFault_regs h n kind vl).keep rfl rfl, ?_⟩
  · rw [State.detect_lock, State.emit_out, only]
  · rw [State.detect_lock, State.emit, only]

end Sys2Proof.Machine
end

section

/-!
PROOF. The locks (R64, R69, R72 to R75, R95): first what one lock, the waits and the outputs come to under each small operation, then the commands, and the
statement on locks.
-/

namespace Sys2Proof.Machine

/-! ## One lock, the waits and the outputs -/

/-- The table of locks of one state reads as that of another but at lock n of half h. -/
def OtherLocks (s t : State) (h n : Nat) : Prop :=
  ∀ k, k ≠ 32 * h + n → Tab.get (fun _ => ({} : LockSt)) t.fab.locks k = Tab.get (fun _ => ({} : LockSt)) s.fab.locks k

theorem State.lock_congr {s t : State} (e : t.fab.locks = s.fab.locks) (h n : Nat) : t.lock h n = s.lock h n := by rw [State.lock, e]; rfl

theorem OtherLocks.setLock {s t : State} {h n : Nat} (e : OtherLocks s t h n) (x : LockSt) : OtherLocks s (t.setLock h n x) h n :=
  fun k hk => (Tab.get_set_ne _ _ hk).trans (e k hk)

theorem OtherLocks.keep {s t u : State} {h n : Nat} (e : OtherLocks s t h n) (hl : u.fab.locks = t.fab.locks) : OtherLocks s u h n :=
  fun k hk => by rw [hl]; exact e k hk

/-- From one state to another lock n of half h comes to x, the waits to ws, and os is sent; the rest stays. -/
def LockBecomes (s : State) (h n : Nat) (t : State) (x : LockSt) (ws : List Waiter) (os : List Out) : Prop :=
  t.lock h n = x ∧ OtherLocks s t h n ∧ t = { s with fab := { s.fab with locks := t.fab.locks, waiters := ws }, out := s.out ++ os }

section
variable {s t : State} {h n : Nat} {x : LockSt} {ws : List Waiter} {os : List Out}

theorem LockBecomes.refl (s : State) (h n : Nat) : LockBecomes s h n s (s.lock h n) s.fab.waiters [] :=
  ⟨rfl, fun _ _ => rfl, by rw [List.append_nil]⟩

theorem LockBecomes.setLock (b : LockBecomes s h n t x ws os) (y : LockSt) : LockBecomes s h n (t.setLock h n y) y ws os := by
  obtain ⟨-, ho, e⟩ := b
  exact ⟨State.lock_setLock_same .., ho.setLock y, by rw [State.setLock, e]⟩

theorem LockBecomes.emit (b : LockBecomes s h n t x ws os) (o : Out) : LockBecomes s h n (t.emit o) x ws (os ++ [o]) := by
  obtain ⟨hx, ho, e⟩ := b
  exact ⟨hx, ho, by rw [State.emit, e, List.append_assoc]⟩

theorem LockBecomes.beginWait (b : LockBecomes s h n t x ws os) (half : Nat) (on : WaitOn) (who : Requester) :
    LockBecomes s h n (t.beginWait half on who) x (ws ++ [⟨half, on, who, 0⟩]) os := by
  obtain ⟨hx, ho, e⟩ := b
  exact ⟨hx, ho, by rw [State.beginWait, e]⟩

theorem LockBecomes.lockHold (b : LockBecomes s h n t x ws os) (w : LWord) :
    LockBecomes s h n (t.lockHold h n w) { x with waiting := x.waiting ++ [w] } (ws ++ [⟨h, .lock h n w, w.who, 0⟩]) os := by
  have hx := b.1
  subst hx
  exact (b.setLock _).beginWait _ _ _

theorem LockBecomes.raiseWake (b : LockBecomes s h n t x ws os) :
    LockBecomes s h n (t.raiseWake h n) { x with st := if x.st = .stopped then .waking else x.st, wake := true, wakeTicks := if x.wake then x.wakeTicks else 0 }
      ws (os ++ [.lockWake h n]) := by
  have hx := b.1
  subst hx
  exact (b.setLock _).emit _

/-- No word enters a lock that does not run, or before which none waits. -/
theorem LockBecomes.lockRefill (b : LockBecomes s h n t x ws os) (hno : x.st ≠ .run ∨ x.waiting = []) : LockBecomes s h n (t.lockRefill h n) x ws os := by
  have hx := b.1
  subst hx
  unfold State.lockRefill
  dsimp only
  split
  next hrun =>
    have hw : (t.lock h n).waiting = [] := hno.resolve_left fun h => h hrun
    have e : (t.lock h n) = { t.lock h n with tx := (t.lock h n).tx ++ [], waiting := [] } := by rw [List.append_nil, ← hw]
    simp only [hw, List.take_nil, List.drop_nil, List.foldl_nil]
    rw [← e]
    exact b.setLock _
  next => exact b

end

/-! ## Waits that end -/

/-- Waits end: nothing but the waits and the list of Millhouse requests that have been retried changes. -/
def WaitsEnd (s t : State) : Prop :=
  t.fab.waiters.Sublist s.fab.waiters ∧ t = { s with ras := t.ras, fab := { s.fab with waiters := t.fab.waiters } }

theorem WaitsEnd.refl (s : State) : WaitsEnd s s := ⟨List.Sublist.refl _, rfl⟩

theorem WaitsEnd.trans {s t u : State} (h : WaitsEnd s t) (k : WaitsEnd t u) : WaitsEnd s u :=
  ⟨k.1.trans h.1, by rw [k.2, h.2]⟩

theorem State.endWait_waits (s : State) (w : Waiter) : WaitsEnd s (s.endWait w) := ⟨List.erase_sublist, rfl⟩

theorem State.endLockWait_waits (s : State) (h n : Nat) (w : LWord) : WaitsEnd s (s.endLockWait h n w) := by
  unfold State.endLockWait
  split
  · exact s.endWait_waits _
  · exact WaitsEnd.refl s

theorem foldl_endLockWait_waits (h n : Nat) (l : List LWord) (s : State) : WaitsEnd s (l.foldl (fun u w => u.endLockWait h n w) s) :=
  foldl_rel WaitsEnd.refl WaitsEnd.trans l (fun u w _ => u.endLockWait_waits h n w) s

theorem WaitsEnd.locks {s t : State} (h : WaitsEnd s t) : t.fab.locks = s.fab.locks := by rw [h.2]

theorem WaitsEnd.lock {s t : State} (h : WaitsEnd s t) (half n : Nat) : t.lock half n = s.lock half n := State.lock_congr h.locks half n

theorem WaitsEnd.out {s t : State} (h : WaitsEnd s t) : t.out = s.out := by rw [h.2]

/-- A running lock takes the words that wait before it in order, as many as its FIFO has room for. -/
theorem State.lockRefill_run (s : State) {h n : Nat} (hrun : (s.lock h n).st = .run) :
    (s.lockRefill h n).lock h n = { s.lock h n with tx := (s.lock h n).tx ++ (s.lock h n).waiting.take (32 - (s.lock h n).tx.length), waiting := (s.lock h n).waiting.drop (32 - (s.lock h n).tx.length) } ∧
      OtherLocks s (s.lockRefill h n) h n ∧ (s.lockRefill h n).fab.waiters.Sublist s.fab.waiters ∧
      s.lockRefill h n = { s with ras := (s.lockRefill h n).ras, fab := { s.fab with locks := (s.lockRefill h n).fab.locks, waiters := (s.lockRefill h n).fab.waiters } } := by
  unfold State.lockRefill
  simp only [if_pos hrun]
  generalize hy : ({ s.lock h n with tx := _, waiting := _ } : LockSt) = y
  have w := foldl_endLockWait_waits h n ((s.lock h n).waiting.take (32 - (s.lock h n).tx.length)) (s.setLock h n y)
  refine ⟨(w.lock h n).trans (State.lock_setLock_same ..), (OtherLocks.setLock (fun _ _ => rfl) y).keep w.locks, w.1, ?_⟩
  rw [w.2]
  rfl

theorem State.lockRefill_other (s : State) {h n : Nat} (hrun : (s.lock h n).st ≠ .run) : s.lockRefill h n = s := if_neg hrun

theorem State.lockRefill_out (s : State) (h n : Nat) : (s.lockRefill h n).out = s.out := by
  by_cases hrun : (s.lock h n).st = .run
  · rw [(s.lockRefill_run hrun).2.2.2]
  · rw [s.lockRefill_other hrun]

theorem State.lockRefill_otherLocks (s : State) (h n : Nat) : OtherLocks s (s.lockRefill h n) h n := by
  by_cases hrun : (s.lock h n).st = .run
  · exact (s.lockRefill_run hrun).2.1
  · rw [s.lockRefill_other hrun]; exact fun _ _ => rfl

/-- The lock after a word has left it towards the clocked side, before words that wait enter. -/
def LockSt.afterOut (l : LockSt) (w : LWord) (ws : List LWord) : LockSt :=
  { l with tx := ws, outstanding := if w.kind = .request then l.outstanding ++ [w.tag] else l.outstanding,
           inbound := if w.kind = .response then l.inbound.erase w.tag else l.inbound }

theorem State.lockOut_eq (s : State) (h n : Nat) (w : LWord) (ws : List LWord) :
    s.lockOut h n w ws = ((s.setLock h n ((s.lock h n).afterOut w ws)).emit (.lockDelivered h n true w.tag)).lockRefill h n := rfl

theorem State.lock_emit (s : State) (o : Out) (h n : Nat) : (s.emit o).lock h n = s.lock h n := rfl

theorem State.lock_lockOut_run (s : State) {h n : Nat} (w : LWord) (ws : List LWord) (hrun : (s.lock h n).st = .run) :
    (s.lockOut h n w ws).lock h n = { (s.lock h n).afterOut w ws with tx := ws ++ (s.lock h n).waiting.take (32 - ws.length), waiting := (s.lock h n).waiting.drop (32 - ws.length) } ∧
      (s.lockOut h n w ws).fab.waiters.Sublist s.fab.waiters := by
  have e : ((s.setLock h n ((s.lock h n).afterOut w ws)).emit (.lockDelivered h n true w.tag)).lock h n = (s.lock h n).afterOut w ws := State.lock_setLock_same ..
  have r := ((s.setLock h n ((s.lock h n).afterOut w ws)).emit (.lockDelivered h n true w.tag)).lockRefill_run (h := h) (n := n) (by rw [e]; exact hrun)
  rw [e] at r
  exact ⟨r.1, r.2.2.1⟩

theorem State.lockOut_out (s : State) (h n : Nat) (w : LWord) (ws : List LWord) : (s.lockOut h n w ws).out = s.out ++ [.lockDelivered h n true w.tag] := by
  rw [State.lockOut_eq, State.lockRefill_out]; rfl

theorem State.lockOut_otherLocks (s : State) (h n : Nat) (w : LWord) (ws : List LWord) : OtherLocks s (s.lockOut h n w ws) h n := by
  rw [State.lockOut_eq]
  exact fun k hk => (State.lockRefill_otherLocks _ h n k hk).trans (OtherLocks.setLock (fun _ _ => rfl) _ k hk)

theorem State.lockOut_becomes (s : State) {h n : Nat} (w : LWord) (ws : List LWord) (hno : (s.lock h n).st ≠ .run ∨ (s.lock h n).waiting = []) :
    LockBecomes s h n (s.lockOut h n w ws) ((s.lock h n).afterOut w ws) s.fab.waiters [.lockDelivered h n true w.tag] :=
  (((LockBecomes.refl s h n).setLock _).emit _).lockRefill hno

/-! ## Words towards the self-timed side -/

theorem State.offerFlit_locks (s : State) (r q : Nat) (f : Flit) : (s.offerFlit r q f).fab.locks = s.fab.locks := by
  unfold State.offerFlit
  split <;> rfl

/-- A flit offered with credit enters its lane. -/
theorem State.offerFlit_room (s : State) {r q : Nat} {f : Flit} (h : s.laneRoom r q f.cls f.polder = true) : s.offerFlit r q f = s.enterLane r q f := if_pos h

theorem State.offerFlit_out (s : State) (r q : Nat) (f : Flit) : (s.offerFlit r q f).out = s.out := by
  unfold State.offerFlit
  split <;> rfl

theorem State.lockArrive_none (s : State) (h n : Nat) {w : LWord} (hw : w.flit = none) : s.lockArrive h n w = s.emit (.lockDelivered h n false w.tag) := by
  rw [State.lockArrive, hw]

theorem State.lockArrive_some (s : State) {h n r q : Nat} {w : LWord} {f : Flit} (hw : w.flit = some f) (hr : lockRouter h n = some (r, q)) :
    s.lockArrive h n w = (s.emit (.lockDelivered h n false w.tag)).offerFlit r q f := by
  rw [State.lockArrive, hw, hr]

theorem State.lockArrive_locks (s : State) (h n : Nat) (w : LWord) : (s.lockArrive h n w).fab.locks = s.fab.locks := by
  unfold State.lockArrive
  dsimp only
  split
  · exact State.offerFlit_locks ..
  · rfl

theorem State.lockArrive_out (s : State) (h n : Nat) (w : LWord) : (s.lockArrive h n w).out = s.out ++ [.lockDelivered h n false w.tag] := by
  unfold State.lockArrive
  dsimp only
  split
  · exact State.offerFlit_out ..
  · rfl

theorem foldl_lockArrive_out (h n : Nat) (l : List LWord) :
    ∀ s : State, (l.foldl (fun u w => u.lockArrive h n w) s).out = s.out ++ l.map fun w => .lockDelivered h n false w.tag := by
  induction l with
  | nil => intro s; simp
  | cons w l ih => intro s; rw [List.foldl_cons, ih, State.lockArrive_out, List.map_cons, List.append_assoc]; rfl

/-- Words that carry no flit are delivered and nothing else. -/
theorem foldl_lockArrive_none (h n : Nat) (l : List LWord) (hl : ∀ w ∈ l, w.flit = none) :
    ∀ s : State, l.foldl (fun u w => u.lockArrive h n w) s = s.emits (l.map fun w => .lockDelivered h n false w.tag) := by
  induction l with
  | nil => intro s; exact s.emits_nil.symm
  | cons w l ih =>
    intro s
    rw [List.foldl_cons, ih (fun x hx => hl x (List.mem_cons_of_mem _ hx)), s.lockArrive_none h n (hl w (List.mem_cons_self ..)), State.emit_eq_emits, State.emits_emits]
    rfl

end Sys2Proof.Machine
end

section

/-!
PROOF. The commands of the locks (R64, R69, R72 to R74, R95, R449) and the statement on locks.
-/

namespace Sys2Proof.Machine

section
variable {s : State} {h n : Nat} {w : LWord}

/-! ## Words that arrive and leave (R69, R72 to R74) -/

theorem lockWordCross_good (hh : h < 2) (hn : n < 19) (op : LockOp) : exec (.lockWordCross h n op false) s = .next (lockCross h n op s) := by
  show (if h < 2 ∧ n < 19 then _ else _) = _
  rw [if_pos ⟨hh, hn⟩]
  rfl

theorem lockWordCross_bad (hh : h < 2) (hn : n < 19) (op : LockOp) : exec (.lockWordCross h n op true) s = .next (s.lockProtocol h n) := by
  show (if h < 2 ∧ n < 19 then _ else _) = _
  rw [if_pos ⟨hh, hn⟩]
  rfl

/-- A word that finds room enters the FIFO of a running lock. -/
theorem State.lockPush_run (hst : (s.lock h n).st = .run) (hroom : (s.lock h n).tx.length < 32) (hnone : (s.lock h n).waiting = []) :
    s.lockPush h n w = s.setLock h n { s.lock h n with tx := (s.lock h n).tx ++ [w] } := by
  simp [State.lockPush, hst, hroom, hnone]

/-- Without room it waits. -/
theorem State.lockPush_full (hst : (s.lock h n).st = .run) (hfull : 32 ≤ (s.lock h n).tx.length ∨ (s.lock h n).waiting ≠ []) :
    s.lockPush h n w = s.lockHold h n w := by
  have e : ¬ ((s.lock h n).tx.length < 32 ∧ (s.lock h n).waiting = []) := fun ⟨a, b⟩ => hfull.elim (fun c => by omega) fun c => c b
  simp [State.lockPush, hst, e]

/-- DRAIN still takes a response that finds room. -/
theorem State.lockPush_drain (hst : (s.lock h n).st = .drain) (hw : w.kind = .response) (hroom : (s.lock h n).tx.length < 32) :
    s.lockPush h n w = s.setLock h n { s.lock h n with tx := (s.lock h n).tx ++ [w] } := by
  simp [State.lockPush, hst, hw, hroom]

/-- A word that a lock does not take in DRAIN, STOPPED or WAKING waits and raises a wake. -/
theorem State.lockPush_wakes (hst : ((s.lock h n).st = .drain ∧ (w.kind ≠ .response ∨ 32 ≤ (s.lock h n).tx.length)) ∨ (s.lock h n).st = .stopped ∨ (s.lock h n).st = .waking) :
    s.lockPush h n w = (s.lockHold h n w).raiseWake h n := by
  rcases hst with ⟨hd, hno⟩ | hs | hs
  · have e : ¬ (w.kind = .response ∧ (s.lock h n).tx.length < 32) := fun ⟨a, b⟩ => hno.elim (fun c => c a) fun c => by omega
    simp only [State.lockPush, hd, if_neg e]
  · simp only [State.lockPush, hs]
  · simp only [State.lockPush, hs]

/-- A request that meets a flush gets an error response. -/
theorem State.lockPush_flush (hst : (s.lock h n).st = .flush ∨ (s.lock h n).st = .held) :
    s.lockPush h n w = if w.kind = .request then s.emit (.lockError h n w.tag) else s := by
  rcases hst with hs | hs <;> simp only [State.lockPush, hs]

theorem State.lockTakes_iff : s.lockTakes h n w = true ↔
    (s.lock h n).rx.length < 32 ∧ ((s.lock h n).st = .run ∨ ((s.lock h n).st = .drain ∧ w.kind = .response)) := by
  simp [State.lockTakes]

theorem State.lockTakes_false (hno : 32 ≤ (s.lock h n).rx.length ∨ ¬ ((s.lock h n).st = .run ∨ ((s.lock h n).st = .drain ∧ w.kind = .response))) :
    s.lockTakes h n w = false :=
  Bool.eq_false_iff.2 fun e => by
    obtain ⟨hroom, hst⟩ := State.lockTakes_iff.1 e
    exact hno.elim (fun c => by omega) fun c => c hst

theorem lockCross_popTx {ws : List LWord} (htx : (s.lock h n).tx = w :: ws) :
    lockCross h n .popTx s = if n = 16 then (if s.lockTakes (1 - h) 16 w then (s.lockOut h n w ws).lockIn (1 - h) 16 w else s) else s.lockOut h n w ws := by
  simp only [lockCross, htx]

theorem lockCross_popRx {ws : List LWord} (hrx : (s.lock h n).rx = w :: ws) :
    lockCross h n .popRx s = if s.lockMayArrive h n w then
      (s.setLock h n { s.lock h n with rx := ws, outstanding := if w.kind = .response then (s.lock h n).outstanding.erase w.tag else (s.lock h n).outstanding }).lockArrive h n w
    else s := by
  simp only [lockCross, hrx]

/-- A word of link lock 16 enters the other die's link lock, where that takes it (R66). -/
theorem lockCross_link {ws : List LWord} (hh : h < 2) (htx : (s.lock h 16).tx = w :: ws) (htakes : s.lockTakes (1 - h) 16 w = true) :
    ((lockCross h 16 .popTx s).lock (1 - h) 16).rx = (s.lock (1 - h) 16).rx ++ [w] ∧
      ((s.lock h 16).st ≠ .run ∨ (s.lock h 16).waiting = [] → ((lockCross h 16 .popTx s).lock h 16).tx = ws) ∧
      (lockCross h 16 .popTx s).out = s.out ++ [.lockDelivered h 16 true w.tag] := by
  have e : lockCross h 16 .popTx s = (s.lockOut h 16 w ws).lockIn (1 - h) 16 w := by
    rw [lockCross_popTx htx, if_pos rfl, if_pos htakes]
  have hother : (s.lockOut h 16 w ws).lock (1 - h) 16 = s.lock (1 - h) 16 := State.lockOut_otherLocks s h 16 w ws _ (by omega)
  have hown : ((s.lockOut h 16 w ws).lockIn (1 - h) 16 w).lock h 16 = (s.lockOut h 16 w ws).lock h 16 := Tab.get_set_ne _ _ (by omega)
  rw [e]
  refine ⟨?_, fun hno => ?_, State.lockOut_out ..⟩
  · rw [State.lockIn, State.lock_setLock_same, hother]
  · rw [hown, (s.lockOut_becomes w ws hno).1]; rfl

/-- A word that carries no flit is delivered towards the self-timed side. -/
theorem lockCross_popRx_none {ws : List LWord} (hrx : (s.lock h n).rx = w :: ws) (hw : w.flit = none) :
    LockBecomes s h n (lockCross h n .popRx s)
      { s.lock h n with rx := ws, outstanding := if w.kind = .response then (s.lock h n).outstanding.erase w.tag else (s.lock h n).outstanding } s.fab.waiters
      [.lockDelivered h n false w.tag] := by
  rw [lockCross_popRx hrx, if_pos (by rw [State.lockMayArrive, hw]), State.lockArrive_none _ _ _ hw]
  exact ((LockBecomes.refl s h n).setLock _).emit _

/-- A flit goes on at the lock's router where there is credit for it (R67), and else stays in the lock. -/
theorem lockCross_popRx_flit {ws : List LWord} {f : Flit} {r q : Nat} (hrx : (s.lock h n).rx = w :: ws) (hw : w.flit = some f) (hr : lockRouter h n = some (r, q)) :
    (s.laneRoom r q f.cls f.polder = true → ((lockCross h n .popRx s).lock h n).rx = ws ∧
      (lockCross h n .popRx s).lane r q f.cls f.polder = s.lane r q f.cls f.polder ++ [f] ∧ (lockCross h n .popRx s).out = s.out ++ [.lockDelivered h n false w.tag]) ∧
    (s.laneRoom r q f.cls f.polder = false → lockCross h n .popRx s = s) := by
  have hmay : s.lockMayArrive h n w = s.laneRoom r q f.cls f.polder := by rw [State.lockMayArrive, hw, hr]
  rw [lockCross_popRx hrx, hmay]
  refine ⟨fun hroom => ?_, fun hroom => by rw [hroom]; rfl⟩
  rw [if_pos hroom]
  generalize hy : ({ s.lock h n with rx := ws, outstanding := _ } : LockSt) = y
  refine ⟨?_, ?_, State.lockArrive_out ..⟩
  · rw [State.lock_congr (State.lockArrive_locks ..), State.lock_setLock_same, ← hy]
  · have hr' : ((s.setLock h n y).emit (.lockDelivered h n false w.tag)).laneRoom r q f.cls f.polder = true := hroom
    rw [State.lockArrive_some _ hw hr, State.offerFlit_room _ hr']
    exact Tab.get_set_same ..

/-! ## Detections at a lock (R64, R95) -/

/-- A bad pointer sets PERR, is counted and reported, and moves no word. -/
theorem lockProtocol_effect (hh : h < 2) (hn : n < 19) :
    (s.lockProtocol h n).fget F.LOCK_STAT_PERR h n = 1 ∧ (s.lockProtocol h n).out = s.out ++ [.detection 5 (.lock h n)] ∧
      SameRegsBut s (s.lockProtocol h n) ([fieldAt F.LOCK_STAT_PERR h n, fieldAt F.LOCK_ERRCNT_COUNT h] ++ lockFaultRegs h n) ∧
      s.lockProtocol h n = { s with regs := (s.lockProtocol h n).regs, out := (s.lockProtocol h n).out, fresh := (s.lockProtocol h n).fresh } := by
  unfold State.lockProtocol
  generalize hu : (s.fset F.LOCK_STAT_PERR h 1 n).finc F.LOCK_ERRCNT_COUNT h = u
  obtain ⟨hout, hregs, honly⟩ := u.detect_lock_effect 5 h n none
  have hperr : u.fget F.LOCK_STAT_PERR h n = 1 := by
    rw [← hu, State.finc, State.fget_fset_ne _ _ _ _ _ _ _ _ (by simp only [Fld.addr, regAddr, F.LOCK_STAT_PERR, F.LOCK_ERRCNT_COUNT]; omega),
      State.fget_fset_same _ _ _ _ _ (by decide)]
    rfl
  have hsame : SameRegsBut s u ([fieldAt F.LOCK_STAT_PERR h n, fieldAt F.LOCK_ERRCNT_COUNT h] ++ lockFaultRegs h n) := by
    rw [← hu]
    exact ((SameRegsBut.refl s _).fset _ _ _ _ (by simp)).finc _ _ _ _ (by simp)
  have honly0 : RegsOnly s u := hu ▸ ((RegsOnly.refl s).fset ..).wr ..
  refine ⟨?_, ?_, hsame.trans (hregs.mono (List.subset_append_right ..)), ?_⟩
  · rw [hregs.fget F.LOCK_STAT_PERR h n ?_, hperr]
    unfold lockFaultRegs
    split
    next r q hr =>
      have hr16 : r < 16 := by
        unfold lockRouter at hr
        split_ifs at hr <;> simp only [Option.some.injEq, Prod.mk.injEq] at hr <;> omega
      simp only [List.mem_singleton, fieldAt, regAddr, F.LOCK_STAT_PERR, T.row]
      omega
    next => exact List.not_mem_nil
  · rw [hout, honly0]
  · rw [honly, honly0]

/-! ## Resets of the clocked side (R74, R449) -/

/-- The lock's waits end, and it is HELD and empty, before the words it held are answered. -/
def State.lockEmptied (s : State) (h n : Nat) : State :=
  (((s.lock h n).waiting.foldl (fun u w => u.endLockWait h n w) s).setLock h n { st := .held }).emits
    ((((s.lock h n).tx ++ (s.lock h n).waiting).filter (·.kind == .request)).map fun w => Out.lockError h n w.tag)

theorem lockFlush_eq (hst : (s.lock h n).st ≠ .stopped) : lockFlush h n s = (s.lock h n).rx.foldl (fun u w => u.lockArrive h n w) (s.lockEmptied h n) :=
  if_neg hst

/-- A flush leaves the lock HELD, gives requests error responses and delivers the words towards the self-timed side. -/
theorem lockFlush_effect (hst : (s.lock h n).st ≠ .stopped) :
    (lockFlush h n s).lock h n = { st := .held } ∧ OtherLocks s (lockFlush h n s) h n ∧
      (lockFlush h n s).out = s.out ++ ((((s.lock h n).tx ++ (s.lock h n).waiting).filter (·.kind == .request)).map (fun w => Out.lockError h n w.tag) ++
        (s.lock h n).rx.map fun w => Out.lockDelivered h n false w.tag) ∧
      ((∀ w ∈ (s.lock h n).rx, w.flit = none) → lockFlush h n s = { s with
        ras := (lockFlush h n s).ras, out := (lockFlush h n s).out, fab := { s.fab with locks := (lockFlush h n s).fab.locks, waiters := (lockFlush h n s).fab.waiters } }) := by
  have w := foldl_endLockWait_waits h n (s.lock h n).waiting s
  have hlocks : (lockFlush h n s).fab.locks = (s.lockEmptied h n).fab.locks := by
    rw [lockFlush_eq hst]
    exact foldl_keeps (fun u => u.fab.locks) _ (fun u x => u.lockArrive_locks h n x) _ _
  refine ⟨?_, ?_, ?_, fun hnone => ?_⟩
  · exact (State.lock_congr hlocks h n).trans (State.lock_setLock_same ..)
  · exact OtherLocks.keep (t := s.lockEmptied h n) ((OtherLocks.setLock (fun _ _ => by rw [w.locks]) _).keep rfl) hlocks
  · rw [lockFlush_eq hst, foldl_lockArrive_out, State.lockEmptied, State.emits_out, State.setLock_out, w.out, List.append_assoc]
  · rw [lockFlush_eq hst, foldl_lockArrive_none h n _ hnone, State.lockEmptied, w.2]
    rfl

/-- A page of a type that has every cause on each of its instances defines the type's causes. -/
theorem causesAt_whole {t : Nat} (i : Nat) (hd : t ≠ T.dike) (hv : t ≠ T.vane) : causesAt t i = causeMask t := by
  rw [causesAt, if_neg (fun e => hd e.1), if_neg (fun e => hv e.1)]

theorem State.rasLog_fab (s : State) (kind cls typ inst detail : Nat) : (s.rasLog kind cls typ inst detail).fab = s.fab := by
  unfold State.rasLog
  split
  · rfl
  · exact s.finc_fab ..

/-- The record of a torn burst holds its line and is raised (R449). -/
theorem hbmTorn_effect (slice line req : Nat) :
    (s.hbmTorn slice line req).fget F.HBMC_TORN_ADDR_VALID slice = 1 ∧ (s.hbmTorn slice line req).fget F.HBMC_TORN_ADDR_LINE slice = line % 2 ^ F.HBMC_TORN_ADDR_LINE.w ∧
      causeSet (s.hbmTorn slice line req) T.hbmc slice I.HBMC_TORN ∧ (s.hbmTorn slice line req).fab = s.fab := by
  unfold State.hbmTorn
  dsimp only
  generalize hu : (s.fset F.HBMC_TORN_ADDR_LINE slice line).fset F.HBMC_TORN_ADDR_VALID slice 1 = u
  generalize hv : (u.fset F.HBMC_TORN_INFO_REQ slice req).finc F.HBMC_TORN_INFO_COUNT slice = v
  have hregs : SameRegsBut u ((v.rasLog 0x22 1 T.hbmc slice line).raise T.hbmc slice I.HBMC_TORN)
      [fieldAt F.HBMC_TORN_INFO_REQ slice, fieldAt F.RAS_FLOG_CTRL_OVF 0, causeAt T.ras 0, causeAt T.hbmc slice] := by
    have h0 : SameRegsBut u v [fieldAt F.HBMC_TORN_INFO_REQ slice, fieldAt F.RAS_FLOG_CTRL_OVF 0, causeAt T.ras 0, causeAt T.hbmc slice] :=
      hv ▸ ((SameRegsBut.refl u _).fset _ _ _ _ (by simp)).finc _ _ _ _ (by simp [fieldAt, F.HBMC_TORN_INFO_REQ, F.HBMC_TORN_INFO_COUNT])
    exact (h0.trans ((v.rasLog_regs 0x22 1 T.hbmc slice line).mono (by simp))).raise _ _ _ (by simp)
  have hapart : fieldAt F.HBMC_TORN_ADDR_LINE slice ∉ [fieldAt F.HBMC_TORN_INFO_REQ slice, fieldAt F.RAS_FLOG_CTRL_OVF 0, causeAt T.ras 0, causeAt T.hbmc slice] := by
    simp only [List.mem_cons, List.not_mem_nil, or_false, fieldAt, causeAt, regAddr, F.HBMC_TORN_ADDR_LINE, F.HBMC_TORN_INFO_REQ, F.RAS_FLOG_CTRL_OVF, T.ras, T.hbmc]
    omega
  have hfab : (v.rasLog 0x22 1 T.hbmc slice line).fab = s.fab := by
    rw [State.rasLog_fab, ← hv, ← hu, State.finc_fab, State.fset_fab, State.fset_fab, State.fset_fab]
  refine ⟨?_, ?_, causeSet_raise _ _ _ _ (by decide) (by rw [causesAt_whole _ (by decide) (by decide)]; decide), (State.raise_fab ..).trans hfab⟩
  · rw [hregs.fget F.HBMC_TORN_ADDR_VALID _ _ hapart, ← hu, State.fget_fset_same _ _ _ _ _ (by decide)]
    rfl
  · rw [hregs.fget F.HBMC_TORN_ADDR_LINE _ _ hapart, ← hu, State.fget_fset_disj _ F.HBMC_TORN_ADDR_VALID F.HBMC_TORN_ADDR_LINE _ _ _ _ rfl (by decide) (by decide),
      State.fget_fset_same _ _ _ _ _ (by decide)]

end

/-! ## Stopping, waking and the statement (R72 to R74, R95) -/

section
variable {s : State} {h n : Nat}

/-- A stop request that a word does not win takes a running lock to DRAIN, and raises a wake for words that wait. -/
theorem lockStopRequest_none (hst : (s.lock h n).st = .run) :
    exec (.lockStopRequest h n none) s = .next (if (s.lock h n).waiting.isEmpty then s.setLock h n { s.lock h n with st := .drain } else (s.setLock h n { s.lock h n with st := .drain }).raiseWake h n) :=
  if_pos hst

theorem lockStopRequest_some (hst : (s.lock h n).st = .run) (w : LWord) :
    exec (.lockStopRequest h n (some w)) s = .next ((s.lockPush h n w).emit (.stopRefused h n)) := if_pos hst

theorem lockStopRequest_drains (hst : (s.lock h n).st = .run) (hw : (s.lock h n).waiting ≠ []) :
    ∃ t, exec (.lockStopRequest h n none) s = .next t ∧
      LockBecomes s h n t { s.lock h n with st := .drain, wake := true, wakeTicks := if (s.lock h n).wake then (s.lock h n).wakeTicks else 0 } s.fab.waiters [.lockWake h n] := by
  have e : (s.lock h n).waiting.isEmpty = false := by simpa using hw
  refine ⟨_, (lockStopRequest_none hst).trans (congrArg _ (if_neg (by rw [e]; decide))), ?_⟩
  exact ((LockBecomes.refl s h n).setLock _).raiseWake

theorem lockRun_effect (hst : (s.lock h n).st = .drain ∨ (s.lock h n).st = .waking ∨ (s.lock h n).st = .stopped) :
    ∃ t, exec (.lockRun h n) s = .next t ∧
      t.lock h n = { s.lock h n with st := .run, wake := false, wakeTicks := 0, tx := (s.lock h n).tx ++ (s.lock h n).waiting.take (32 - (s.lock h n).tx.length), waiting := (s.lock h n).waiting.drop (32 - (s.lock h n).tx.length) } ∧
      OtherLocks s t h n ∧ t.fab.waiters.Sublist s.fab.waiters ∧ t = { s with ras := t.ras, fab := { s.fab with locks := t.fab.locks, waiters := t.fab.waiters } } := by
  generalize hu : s.setLock h n { s.lock h n with st := .run, wake := false, wakeTicks := 0 } = u
  have hl : u.lock h n = { s.lock h n with st := .run, wake := false, wakeTicks := 0 } := hu ▸ State.lock_setLock_same ..
  obtain ⟨hlock, hother, hwaits, honly⟩ := u.lockRefill_run (h := h) (n := n) (by rw [hl])
  refine ⟨_, (if_pos hst).trans (congrArg (fun v : State => (Host.Outcome.next (v.lockRefill h n) : Res)) hu), by rw [hlock, hl], ?_, ?_, ?_⟩
  · exact fun k hk => (hother k hk).trans (hu ▸ OtherLocks.setLock (fun _ _ => rfl) _ k hk)
  · exact hu ▸ hwaits
  · rw [honly, ← hu]
    rfl

theorem lockWakeTimeout_effect (hw : (s.lock h n).wake = true) (hst : (s.lock h n).st ≠ .run)
    (hlim : 10 * s.fget F.LOCK_WAKE_LIMIT_LIMIT h ≤ (s.lock h n).wakeTicks ∨ s.tickLost h = true) : exec (.lockWakeTimeout h n) s = .next (s.detect 4 (.lock h n)) :=
  if_pos (by simpa [hw, hst] using hlim)

theorem lockWakeTimeout_none (hno : (s.lock h n).wake = false ∨ (s.lock h n).st = .run ∨ ((s.lock h n).wakeTicks < 10 * s.fget F.LOCK_WAKE_LIMIT_LIMIT h ∧ s.tickLost h = false)) :
    exec (.lockWakeTimeout h n) s = .next s := by
  refine if_neg ?_
  rcases hno with hw | hst | ⟨hlt, hlost⟩
  · simp [hw]
  · simp [hst]
  · simp [hlost, hlt]

theorem clockedSideReset_torn (hst : (s.lock h n).st ≠ .stopped) (hn : n < 16) (line req : Nat) :
    exec (.clockedSideReset h n (some (line, req))) s = .next ((lockFlush h n s).hbmTorn (16 * h + n) line req) := if_pos ⟨hn, hst⟩

/-- A word at the front of a lock's FIFO leaves it towards the clocked side; words that wait take the room. -/
theorem popTx_effect {w : LWord} {ws : List LWord} (hh : h < 2) (hn : n < 19) (htx : (s.lock h n).tx = w :: ws) (h16 : n ≠ 16) :
    ∃ t, exec (.lockWordCross h n .popTx false) s = .next t ∧ t.out = s.out ++ [.lockDelivered h n true w.tag] ∧
      ((s.lock h n).st ≠ .run ∨ (s.lock h n).waiting = [] → LockBecomes s h n t ((s.lock h n).afterOut w ws) s.fab.waiters [.lockDelivered h n true w.tag]) ∧
      ((s.lock h n).st = .run → (t.lock h n).tx = ws ++ (s.lock h n).waiting.take (32 - ws.length) ∧ (t.lock h n).waiting = (s.lock h n).waiting.drop (32 - ws.length) ∧
        t.fab.waiters.Sublist s.fab.waiters) := by
  refine ⟨_, (lockWordCross_good hh hn _).trans (congrArg Host.Outcome.next ((lockCross_popTx htx).trans (if_neg h16))), s.lockOut_out .., s.lockOut_becomes w ws, fun hrun => ?_⟩
  obtain ⟨e, hwaits⟩ := s.lock_lockOut_run w ws hrun
  exact ⟨by rw [e], by rw [e], hwaits⟩

end

/-- Settles O10: each command of a lock by the lemma on it. -/
theorem locks : Obligations.Locks := by
  rintro s h n hh hn l Now rfl hnow
  have now : ∀ {t x ws os}, LockBecomes s h n t x ws os → Now t x ws os := fun b => (hnow _ _ _ _).2 b
  have cross := fun op => lockWordCross_good (s := s) hh hn op
  refine ⟨fun w => ⟨fun h1 h2 h3 => (cross _).trans (congrArg _ (State.lockPush_run h1 h2 h3)),
      fun h1 h2 => ⟨_, (cross _).trans (congrArg _ (State.lockPush_full h1 h2)), now ((LockBecomes.refl s h n).lockHold w)⟩,
      fun h1 h2 h3 => (cross _).trans (congrArg _ (State.lockPush_drain h1 h2 h3)),
      fun h1 => ⟨_, (cross _).trans (congrArg _ (State.lockPush_wakes h1)), now ((LockBecomes.refl s h n).lockHold w).raiseWake⟩,
      fun h1 => (cross _).trans (congrArg _ (State.lockPush_flush h1)),
      fun h1 => (if_pos (by tauto)).trans (cross (.pushTx w)).symm, fun h1 => if_neg ?_⟩,
    fun w => ⟨fun h1 => (cross _).trans (congrArg _ (if_pos (State.lockTakes_iff.2 h1))),
      fun h1 => (cross _).trans (congrArg _ (if_neg (by rw [State.lockTakes_false h1]; decide))),
      fun ws htx h16 => ?_, ?_, fun ws hrx => ⟨fun hw => ⟨_, cross _, now (lockCross_popRx_none hrx hw)⟩, fun f r q hw hr => ?_⟩⟩,
    fun op => ⟨_, lockWordCross_bad hh hn op, lockProtocol_effect hh hn⟩, fun hst => ⟨fun hw => ?_, fun hw => ?_, fun w hroom hnone => ?_⟩,
    fun hst w => if_neg hst, fun h1 h2 h3 h4 h5 => if_pos ⟨h1, h2, h3, h4, h5⟩, fun hno => if_neg (by tauto), lockRun_effect, fun hno => if_neg ?_,
    fun h1 h2 h3 => ⟨_, lockWakeTimeout_effect h1 h2 h3, State.detect_lock_effect ..⟩, lockWakeTimeout_none, fun hst => congrArg _ (if_pos hst),
    fun hst => ⟨_, rfl, lockFlush_effect hst⟩, fun hst h16 line req => ⟨_, clockedSideReset_torn hst h16 line req, ?_⟩, fun hst => if_pos hst, fun hst => if_neg hst⟩
  · rcases h1 with h1 | h1 | h1 <;> simp [h1]
  · obtain ⟨t, he, hout, hb, hrun⟩ := popTx_effect hh hn htx h16
    exact ⟨t, he, hout, fun hno => now (hb hno), hrun⟩
  · rintro ws m htx rfl rfl
    refine ⟨fun htakes => ?_, fun hno => (cross _).trans (congrArg _ ?_)⟩
    · obtain ⟨hrx, htx', hout⟩ := lockCross_link hh htx (State.lockTakes_iff.2 htakes)
      exact ⟨_, cross _, hrx, htx', hout⟩
    · rw [lockCross_popTx htx, if_pos rfl, State.lockTakes_false hno]
      rfl
  · obtain ⟨hroom, hfull⟩ := lockCross_popRx_flit hrx hw hr
    exact ⟨fun h1 => ⟨_, cross _, hroom h1⟩, fun h1 => (cross _).trans (congrArg _ (hfull h1))⟩
  · exact (lockStopRequest_none hst).trans (congrArg _ (if_pos (by rw [hw]; rfl)))
  · obtain ⟨t, he, hb⟩ := lockStopRequest_drains hst hw
    exact ⟨t, he, now hb⟩
  · rw [lockStopRequest_some hst, State.lockPush_run hst hroom hnone]
  · rcases hno with h1 | h1 | h1 <;> simp [h1]
  · obtain ⟨hlock, -, -, -⟩ := lockFlush_effect hst
    obtain ⟨hvalid, hline, hcause, hfab⟩ := hbmTorn_effect (s := lockFlush h n s) (16 * h + n) line req
    exact ⟨(State.lock_congr (congrArg Fabric.locks hfab) h n).trans hlock, hvalid, hline, hcause⟩

end Sys2Proof.Machine
end

section

/-!
PROOF. The canal (R65 to R68, R73, R91): which lanes are ready, what a transfer at an output port does, and how a flit wakes a lock behind its port.
-/

namespace Sys2Proof.Machine

/-! ## Lanes and credit (R67) -/

theorem State.lane_congr {s t : State} (e : t.fab.lanes = s.fab.lanes) (r q c p : Nat) : t.lane r q c p = s.lane r q c p := by rw [State.lane, e]; rfl

/-- What a lane holds after a flit has entered one. -/
theorem State.lane_enterLane (s : State) (r q : Nat) (f : Flit) (r' q' c p : Nat) :
    (s.enterLane r q f).lane r' q' c p = if laneKey r' q' c p = laneKey r q f.cls f.polder then s.lane r' q' c p ++ [f] else s.lane r' q' c p := by
  have e : (s.enterLane r q f).lane r' q' c p = if laneKey r' q' c p = laneKey r q f.cls f.polder then s.lane r q f.cls f.polder ++ [f] else s.lane r' q' c p :=
    Tab.get_set ..
  rw [e]
  split
  next hk => rw [State.lane, State.lane, hk]
  next => rfl

theorem State.lane_length_enterLane (s : State) (r q : Nat) (f : Flit) (r' q' c p : Nat) :
    (s.lane r' q' c p).length ≤ ((s.enterLane r q f).lane r' q' c p).length := by
  rw [State.lane_enterLane]
  split <;> simp

theorem foldl_add_le {f g : Nat → Nat} (h : ∀ x, f x ≤ g x) (l : List Nat) :
    ∀ {a b : Nat}, a ≤ b → l.foldl (fun a x => a + f x) a ≤ l.foldl (fun a x => a + g x) b := by
  induction l with
  | nil => exact id
  | cons x l ih => exact fun hab => ih (Nat.add_le_add hab (h x))

/-- A flit that enters a lane makes no room anywhere. -/
theorem State.laneRoom_of_enterLane (s : State) {r q : Nat} {f : Flit} {r' q' c p : Nat} (h : (s.enterLane r q f).laneRoom r' q' c p = true) :
    s.laneRoom r' q' c p = true := by
  simp only [State.laneRoom, Bool.and_eq_true, decide_eq_true_eq] at h ⊢
  obtain ⟨hlane, hport⟩ := h
  exact ⟨(s.lane_length_enterLane r q f r' q' c p).trans_lt hlane,
    (foldl_add_le (fun x => s.lane_length_enterLane r q f r' q' c x) _ (Nat.le_refl 0)).trans_lt hport⟩

/-! ## Which lanes are ready (R68) -/

theorem State.peerRoom_of_enterLane (s : State) {r q : Nat} {f : Flit} {r' port c p : Nat} (h : (s.enterLane r q f).peerRoom r' port c p = true) :
    s.peerRoom r' port c p = true := by
  unfold State.peerRoom at h ⊢
  split at h
  · exact s.laneRoom_of_enterLane h
  · exact h
  · rfl

theorem State.laneHead_eq_none_iff (s : State) (r port c p : Nat) :
    s.laneHead r port c p = none ↔ ∀ q < 14, ∀ f l, s.lane r q c p = f :: l → routePort r f.dst ≠ port := by
  rw [State.laneHead, List.findSome?_eq_none_iff]
  refine ⟨fun h q hq f l e hroute => ?_, fun h q hq => ?_⟩
  · have := h q (List.mem_range.2 hq)
    simp [e, hroute] at this
  · split
    next f l e => exact if_neg (h q (List.mem_range.1 hq) f l e)
    next => rfl

/-- A flit that enters behind others, or that does not go to the port, puts none at the front of a lane for that port. -/
theorem State.laneHead_enterLane_none (s : State) {r q : Nat} {f : Flit} {port c p : Nat} (hf : s.lane r q f.cls f.polder ≠ [] ∨ routePort r f.dst ≠ port)
    (h : s.laneHead r port c p = none) : (s.enterLane r q f).laneHead r port c p = none := by
  rw [State.laneHead_eq_none_iff] at h ⊢
  intro q' hq g l e
  rw [State.lane_enterLane] at e
  split at e
  next hk =>
    cases hl : s.lane r q' c p with
    | nil =>
      have hempty : s.lane r q f.cls f.polder = [] := by rw [← hl, State.lane, State.lane, hk]
      have hg : f = g := by simpa [hl] using congrArg List.head? e
      exact hg ▸ hf.resolve_left (fun hne => hne hempty)
    | cons g' l' =>
      have hg : g' = g := by simpa [hl] using congrArg List.head? e
      exact hg ▸ h q' hq g' l' hl
  next => exact h q' hq g l e

theorem State.laneReady_eq_none_iff (s : State) (r port v : Nat) :
    s.laneReady r port v = none ↔ (s.peerRoom r port (v % 2) (v / 2) = true → s.laneHead r port (v % 2) (v / 2) = none) := by
  unfold State.laneReady
  split
  next hp => exact ⟨fun h _ => h, fun h => h hp⟩
  next hp => exact ⟨fun _ h => absurd h hp, fun _ => rfl⟩

theorem State.laneReady_some (s : State) {r port v : Nat} {e : Nat × Flit} (h : s.laneReady r port v = some e) : s.peerRoom r port (v % 2) (v / 2) = true := by
  unfold State.laneReady at h
  split at h
  · assumption
  · cases h

/-- No lane is served where none is ready, whichever was served last. -/
theorem State.roundRobin_eq_none_iff (s : State) (r port last : Nat) : s.roundRobin r port last = none ↔ ∀ v < 32, s.laneReady r port v = none := by
  rw [State.roundRobin, List.findSome?_eq_none_iff]
  simp only [List.mem_range, Option.map_eq_none_iff]
  refine ⟨fun h v hv => ?_, fun h i _ => h _ (Nat.mod_lt _ (by decide))⟩
  have e := h ((v + 32 - (last + 1) % 32) % 32) (Nat.mod_lt _ (by decide))
  rwa [show (last + 1 + (v + 32 - (last + 1) % 32) % 32) % 32 = v by omega] at e

/-- The lane that is served is ready. -/
theorem State.laneReady_of_roundRobin (s : State) {r port last v q : Nat} {f : Flit} (h : s.roundRobin r port last = some (v, q, f)) :
    s.laneReady r port v = some (q, f) := by
  obtain ⟨i, -, e⟩ := List.exists_of_findSome?_eq_some h
  obtain ⟨x, hx, hv⟩ := Option.map_eq_some_iff.1 e
  simp only [Prod.mk.injEq] at hv
  obtain ⟨rfl, rfl, rfl⟩ := hv
  exact hx

theorem State.roundRobin_enterLane_none (s : State) {r q : Nat} {f : Flit} {port last : Nat} (hf : s.lane r q f.cls f.polder ≠ [] ∨ routePort r f.dst ≠ port)
    (h : s.roundRobin r port last = none) : (s.enterLane r q f).roundRobin r port last = none := by
  rw [State.roundRobin_eq_none_iff] at h ⊢
  intro v hv
  rw [State.laneReady_eq_none_iff]
  exact fun hroom => s.laneHead_enterLane_none hf ((s.laneReady_eq_none_iff r port v).1 (h v hv) (s.peerRoom_of_enterLane hroom))

/-! ## A transfer at an output port (R66 to R68, R91) -/

theorem portLock_of_peer {r port : Nat} {e : Nat × Nat} (h : portPeer r port = some e) : portLock r port = none := by
  cases hl : portLock r port with
  | none => rfl
  | some x =>
    unfold portPeer at h
    split at h <;> simp [portLock] at hl h

theorem State.wakePort_none (s : State) {r port : Nat} (h : portLock r port = none) : s.wakePort r port = s := by rw [State.wakePort, h]

theorem canalFlit_eq (s : State) (r port : Nat) : exec (.canalFlit r port none) s = .next ((s.wakePort r port).serveport r port) := rfl

theorem State.serveport_none (s : State) {r port : Nat} (ha : s.fbit F.CANAL_CTRL_ARB r = false)
    (h : s.roundRobin r port (Tab.get (fun _ => 31) s.fab.served (16 * r + port)) = none) : s.serveport r port = s := by
  simp only [State.serveport, ha, h]
  rfl

/-- The state with the lane that an output port serves noted. -/
def State.setServed (s : State) (r port v : Nat) : State := { s with fab := { s.fab with served := Tab.set (fun _ => 31) s.fab.served (16 * r + port) v } }

/-- The state with the position of an output port among its slots noted. -/
def State.setSlotAt (s : State) (r port v : Nat) : State := { s with fab := { s.fab with slot := Tab.set (fun _ => 0) s.fab.slot (16 * r + port) v } }

theorem State.serveport_robin (s : State) {r port v q : Nat} {f : Flit} (ha : s.fbit F.CANAL_CTRL_ARB r = false)
    (h : s.roundRobin r port (Tab.get (fun _ => 31) s.fab.served (16 * r + port)) = some (v, q, f)) :
    s.serveport r port = (s.setServed r port v).forward r port q f := by
  simp only [State.serveport, ha, h]
  rfl

theorem State.serveport_slot (s : State) {r port v q : Nat} {f : Flit} (ha : s.fbit F.CANAL_CTRL_ARB r = true)
    (hv : Tab.get (fun _ => 0) s.fab.slot (16 * r + port) = v) (h : s.laneReady r port v = some (q, f)) :
    s.serveport r port = (s.setSlotAt r port ((v + 1) % 32)).forward r port q f := by
  simp only [State.serveport, ha, hv, h]
  rfl

/-- Where no request waits for credit at an input port, credit there changes nothing. -/
theorem State.serveWaits_none (s : State) {r q : Nat} (h : ∀ w ∈ s.fab.waiters, ∀ g, w.on ≠ .lane r q g) : s.serveWaits r q = s := by
  unfold State.serveWaits
  refine (foldl_rel (R := fun a b => a = b) (fun _ => rfl) Eq.trans s.fab.waiters (fun u w hw => ?_) s).symm
  split
  next r' q' f e => exact (if_neg fun hc => h w hw f (by rw [e, hc.1, hc.2.1])).symm
  next => rfl

/-- A flit has left the front of its lane and is counted. -/
def State.leaveLane (s : State) (r q : Nat) (f : Flit) : State :=
  (s.setLane r q f.cls f.polder (s.lane r q f.cls f.polder).tail).cinc C.CANAL_FLITS r

theorem State.lane_leaveLane (s : State) {r q : Nat} {f : Flit} {l : List Flit} (h : s.lane r q f.cls f.polder = f :: l) :
    (s.leaveLane r q f).lane r q f.cls f.polder = l := by
  have e : (s.leaveLane r q f).lane r q f.cls f.polder = (s.lane r q f.cls f.polder).tail := Tab.get_set_same ..
  rw [e, h]
  rfl

theorem State.lane_leaveLane_ne (s : State) {r q : Nat} {f : Flit} {k : Nat} (hk : k ≠ laneKey r q f.cls f.polder) :
    Tab.get (fun _ => ([] : List Flit)) (s.leaveLane r q f).fab.lanes k = Tab.get (fun _ => []) s.fab.lanes k := Tab.get_set_ne _ _ hk

theorem State.cget_leaveLane (s : State) (r q : Nat) (f : Flit) : (s.leaveLane r q f).cget C.CANAL_FLITS r = (s.cget C.CANAL_FLITS r + 1) % 2 ^ 64 :=
  State.cget_cinc_same (s.setLane r q f.cls f.polder (s.lane r q f.cls f.polder).tail) C.CANAL_FLITS r 1 0

theorem State.forward_out (s : State) {r port q : Nat} {f : Flit} (hp : portPeer r port = none) (hl : portLock r port = none)
    (hw : ∀ w ∈ s.fab.waiters, ∀ g, w.on ≠ .lane r q g) : s.forward r port q f = (s.leaveLane r q f).emit (.flitOut r port f) := by
  simp only [State.forward, hp, hl]
  exact State.serveWaits_none _ hw

theorem State.forward_peer (s : State) {r port q r' q' : Nat} {f : Flit} (hp : portPeer r port = some (r', q'))
    (hw : ∀ w ∈ s.fab.waiters, ∀ g, w.on ≠ .lane r q g) : s.forward r port q f = (s.leaveLane r q f).enterLane r' q' f := by
  simp only [State.forward, hp]
  exact State.serveWaits_none _ hw

/-- A flit enters the lock behind its port, where nothing waits. -/
theorem State.forward_lock (s : State) {r port q h n : Nat} {f : Flit} (hp : portPeer r port = none) (hl : portLock r port = some (h, n)) (hw : s.fab.waiters = [])
    (hst : (s.lock h n).st = .run) (hroom : (s.lock h n).tx.length < 32) (hnone : (s.lock h n).waiting = []) :
    s.forward r port q f = (s.leaveLane r q f).setLock h n { s.lock h n with tx := (s.lock h n).tx ++ [flitWord f] } := by
  have hend : (s.leaveLane r q f).endLockWait h n (flitWord f) = s.leaveLane r q f := by
    have e : (s.leaveLane r q f).fab.waiters = [] := hw
    simp only [State.endLockWait, e, List.find?_nil]
  have hpush : (s.leaveLane r q f).lockPush h n (flitWord f) = (s.leaveLane r q f).setLock h n { s.lock h n with tx := (s.lock h n).tx ++ [flitWord f] } :=
    State.lockPush_run (s := s.leaveLane r q f) hst hroom hnone
  have e : s.forward r port q f = (((s.leaveLane r q f).endLockWait h n (flitWord f)).lockPush h n (flitWord f)).serveWaits r q := by
    simp only [State.forward, hp, hl]
    rfl
  rw [e, hend, hpush]
  exact State.serveWaits_none _ fun w hw' => absurd (hw ▸ hw' : w ∈ []) List.not_mem_nil

/-! ## The lock behind a port (R73) -/

/-- One lane's turn in the wake of the lock behind a port. -/
def State.wakeLane (u : State) (r port h n v : Nat) : State :=
  let l := u.lock h n
  if (l.st = .drain ∧ v % 2 = 0) ∨ l.st = .stopped ∨ l.st = .waking then
    match u.laneHead r port (v % 2) (v / 2) with
    | some (_, f) => if u.fab.waiters.any fun w => w.on == .lock h n (flitWord f) then u else (u.beginWait h (.lock h n (flitWord f)) f.who).raiseWake h n
    | none => u
  else u

theorem State.wakePort_some (s : State) {r port h n : Nat} (e : portLock r port = some (h, n)) :
    s.wakePort r port = (List.range 32).foldl (fun u v => u.wakeLane r port h n v) s := by
  rw [State.wakePort, e]
  rfl

/-- A running lock is not woken. -/
theorem State.wakePort_run (s : State) {r port h n : Nat} (e : portLock r port = some (h, n)) (hst : (s.lock h n).st = .run) : s.wakePort r port = s := by
  rw [s.wakePort_some e]
  refine foldl_rel (R := fun a b => (a.lock h n).st = .run → b = a) (fun _ _ => rfl) (fun hab hbc ha => (hbc (hab ha ▸ ha)).trans (hab ha)) _ (fun u v _ hu => ?_) s hst
  exact if_neg (by simp [hu])

/-- A lock that was stopped as flits at a port find it: the lanes stand as they did, and once a flit waits the lock is being woken. -/
structure PortWakes (s : State) (h n : Nat) (u : State) : Prop where
  lanes : u.fab.lanes = s.fab.lanes
  regs : u.regs = s.regs ∧ u.fuse = s.fuse
  idle : (u.lock h n).st = .stopped ∨ (u.lock h n).st = .waking
  woken : u.fab.waiters ≠ [] → (u.lock h n).st = .waking ∧ (u.lock h n).wake = true ∧ Out.lockWake h n ∈ u.out

theorem State.laneHead_congr {s u : State} (e : u.fab.lanes = s.fab.lanes) (r port c p : Nat) : u.laneHead r port c p = s.laneHead r port c p := by
  simp only [State.laneHead, State.lane, e]

theorem PortWakes.beginWait {s u : State} {h n : Nat} (k : PortWakes s h n u) (on : WaitOn) (who : Requester) :
    PortWakes s h n ((u.beginWait h on who).raiseWake h n) := by
  have hl : ((u.beginWait h on who).raiseWake h n).lock h n =
      { u.lock h n with st := if (u.lock h n).st = .stopped then .waking else (u.lock h n).st, wake := true, wakeTicks := if (u.lock h n).wake then (u.lock h n).wakeTicks else 0 } :=
    State.lock_setLock_same ..
  have hst : (((u.beginWait h on who).raiseWake h n).lock h n).st = .waking := by
    rw [hl]
    rcases k.idle with e | e <;> simp [e]
  exact ⟨k.lanes, k.regs, .inr hst, fun _ => ⟨hst, by rw [hl], List.mem_append_right _ (List.mem_singleton.2 rfl)⟩⟩

/-- A lane's turn keeps what is so of the lock, drops no waiting request, and leaves the flit at the lane's front waiting. -/
theorem PortWakes.wakeLane {s u : State} {h n : Nat} (k : PortWakes s h n u) (r port v : Nat) :
    PortWakes s h n (u.wakeLane r port h n v) ∧ u.fab.waiters ⊆ (u.wakeLane r port h n v).fab.waiters ∧
      ∀ q f, s.laneHead r port (v % 2) (v / 2) = some (q, f) → ∃ w ∈ (u.wakeLane r port h n v).fab.waiters, w.on = .lock h n (flitWord f) := by
  have hhead := State.laneHead_congr k.lanes r port (v % 2) (v / 2)
  have hcond : ((u.lock h n).st = .drain ∧ v % 2 = 0) ∨ (u.lock h n).st = .stopped ∨ (u.lock h n).st = .waking := .inr k.idle
  unfold State.wakeLane
  simp only [if_pos hcond, hhead]
  split
  next q f e =>
    have hfound : ∀ {t : State}, (∃ w ∈ t.fab.waiters, w.on = .lock h n (flitWord f)) →
        ∀ q' f', s.laneHead r port (v % 2) (v / 2) = some (q', f') → ∃ w ∈ t.fab.waiters, w.on = .lock h n (flitWord f') := by
      rintro t ht q' f' e'
      obtain ⟨rfl, rfl⟩ : q = q' ∧ f = f' := by simpa [e] using e'
      exact ht
    split
    next hany =>
      obtain ⟨w, hw, hon⟩ := List.any_eq_true.1 hany
      exact ⟨k, fun _ hw => hw, hfound ⟨w, hw, beq_iff_eq.1 hon⟩⟩
    next => exact ⟨k.beginWait _ _, List.subset_append_left .., hfound ⟨_, List.mem_append_right _ (List.mem_singleton.2 rfl), rfl⟩⟩
  next e => exact ⟨k, fun _ hw => hw, fun q' f' e' => by rw [e] at e'; cases e'⟩

theorem PortWakes.foldl {s : State} {h n : Nat} (r port : Nat) (l : List Nat) :
    ∀ {u : State}, PortWakes s h n u → PortWakes s h n (l.foldl (fun u v => u.wakeLane r port h n v) u) ∧
      u.fab.waiters ⊆ (l.foldl (fun u v => u.wakeLane r port h n v) u).fab.waiters ∧
      ∀ v ∈ l, ∀ q f, s.laneHead r port (v % 2) (v / 2) = some (q, f) → ∃ w ∈ (l.foldl (fun u v => u.wakeLane r port h n v) u).fab.waiters, w.on = .lock h n (flitWord f) := by
  induction l with
  | nil => exact fun k => ⟨k, fun _ hw => hw, fun _ hv => absurd hv List.not_mem_nil⟩
  | cons v l ih =>
    intro u k
    obtain ⟨hk, hsub, hv⟩ := k.wakeLane r port v
    obtain ⟨hk', hsub', hl⟩ := ih hk
    refine ⟨hk', fun _ hw => hsub' (hsub hw), fun x hx q f e => ?_⟩
    rcases List.mem_cons.1 hx with rfl | hx
    · obtain ⟨w, hw, hon⟩ := hv q f e
      exact ⟨w, hsub' hw, hon⟩
    · exact hl x hx q f e

/-- Where the lock behind a port does not run, drain, flush or hold, no lane is ready. -/
theorem State.roundRobin_waking (s : State) {r port h n : Nat} (last : Nat) (hp : portPeer r port = none) (hl : portLock r port = some (h, n))
    (hst : (s.lock h n).st = .waking) : s.roundRobin r port last = none := by
  rw [State.roundRobin_eq_none_iff]
  intro v _
  rw [State.laneReady_eq_none_iff]
  intro hroom
  simp [State.peerRoom, hp, hl, hst] at hroom

/-! ## The parts of the statement on CANAL_FLIT -/

section
variable {s : State} {r port q : Nat} {f : Flit} {l : List Flit}

/-- A flit that is offered with credit is appended to its lane. -/
theorem canalFlit_enters (hlock : portLock r port = none) (hrr : s.roundRobin r port (Tab.get (fun _ => 31) s.fab.served (16 * r + port)) = none)
    (ha : s.fbit F.CANAL_CTRL_ARB r = false) (hroom : s.laneRoom r q f.cls f.polder = true) (hf : s.lane r q f.cls f.polder ≠ [] ∨ routePort r f.dst ≠ port) :
    exec (.canalFlit r port (some (q, f))) s = .next (s.setLane r q f.cls f.polder (s.lane r q f.cls f.polder ++ [f])) := by
  show Host.Outcome.next (((s.offerFlit r q f).wakePort r port).serveport r port) = _
  rw [State.offerFlit_room s hroom, State.wakePort_none _ hlock, State.serveport_none _ (by exact ha) (s.roundRobin_enterLane_none hf hrr)]
  rfl

/-- Without credit its requester waits. -/
theorem canalFlit_waits (hlock : portLock r port = none) (hrr : s.roundRobin r port (Tab.get (fun _ => 31) s.fab.served (16 * r + port)) = none)
    (ha : s.fbit F.CANAL_CTRL_ARB r = false) (hroom : s.laneRoom r q f.cls f.polder = false) :
    exec (.canalFlit r port (some (q, f))) s = .next (s.beginWait (r / 8) (.lane r q f) f.who) := by
  show Host.Outcome.next (((s.offerFlit r q f).wakePort r port).serveport r port) = _
  rw [State.offerFlit, if_neg (by rw [hroom]; decide), State.wakePort_none _ hlock, State.serveport_none _ (by exact ha) (by exact hrr)]

/-- By round robin the flit served leaves its lane and the device, is counted, and the lane is noted as served last. -/
theorem canalFlit_out {v : Nat} (ha : s.fbit F.CANAL_CTRL_ARB r = false) (hrr : s.roundRobin r port (Tab.get (fun _ => 31) s.fab.served (16 * r + port)) = some (v, q, f))
    (hp : portPeer r port = none) (hl : portLock r port = none) (hw : ∀ w ∈ s.fab.waiters, ∀ g, w.on ≠ .lane r q g) :
    exec (.canalFlit r port none) s = .next (((s.setServed r port v).leaveLane r q f).emit (.flitOut r port f)) := by
  rw [canalFlit_eq, State.wakePort_none _ hl, State.serveport_robin _ ha hrr]
  exact congrArg _ ((s.setServed r port v).forward_out hp hl hw)

/-- By fixed slots the flit whose slot it is goes on to the next router's lane. -/
theorem canalFlit_slot {v r' q' : Nat} (ha : s.fbit F.CANAL_CTRL_ARB r = true) (hv : Tab.get (fun _ => 0) s.fab.slot (16 * r + port) = v)
    (hready : s.laneReady r port v = some (q, f)) (hp : portPeer r port = some (r', q')) (hw : ∀ w ∈ s.fab.waiters, ∀ g, w.on ≠ .lane r q g) :
    exec (.canalFlit r port none) s = .next (((s.setSlotAt r port ((v + 1) % 32)).leaveLane r q f).enterLane r' q' f) := by
  rw [canalFlit_eq, State.wakePort_none _ (portLock_of_peer hp), State.serveport_slot _ ha hv hready]
  exact congrArg _ ((s.setSlotAt r port ((v + 1) % 32)).forward_peer hp hw)

/-- A flit enters the running lock behind its port. -/
theorem canalFlit_lock {v h n : Nat} (ha : s.fbit F.CANAL_CTRL_ARB r = false) (hrr : s.roundRobin r port (Tab.get (fun _ => 31) s.fab.served (16 * r + port)) = some (v, q, f))
    (hp : portPeer r port = none) (hl : portLock r port = some (h, n)) (hw : s.fab.waiters = []) (hst : (s.lock h n).st = .run) :
    exec (.canalFlit r port none) s =
      .next (((s.setServed r port v).leaveLane r q f).setLock h n { s.lock h n with tx := (s.lock h n).tx ++ [flitWord f] }) := by
  have hroom := s.laneReady_some (s.laneReady_of_roundRobin hrr)
  simp only [State.peerRoom, hp, hl, hst, Bool.and_eq_true, decide_eq_true_eq, List.isEmpty_iff] at hroom
  obtain ⟨htx, hnone⟩ := hroom
  rw [canalFlit_eq, State.wakePort_run _ hl hst, State.serveport_robin _ ha hrr]
  exact congrArg _ ((s.setServed r port v).forward_lock hp hl hw hst htx hnone)

/-- A flit that finds a stopped lock behind its port waits and wakes it. -/
theorem canalFlit_wakes {h n : Nat} (ha : s.fbit F.CANAL_CTRL_ARB r = false) (hp : portPeer r port = none) (hl : portLock r port = some (h, n)) (hw : s.fab.waiters = [])
    (hst : (s.lock h n).st = .stopped) (hc : f.cls < 2) (hq : f.polder < 16) (hhead : s.laneHead r port f.cls f.polder = some (q, f)) :
    ∃ t, exec (.canalFlit r port none) s = .next t ∧ (t.lock h n).st = .waking ∧ (t.lock h n).wake = true ∧ Out.lockWake h n ∈ t.out ∧
      (∃ w ∈ t.fab.waiters, w.on = .lock h n (flitWord f)) ∧ t.fab.lanes = s.fab.lanes := by
  have k0 : PortWakes s h n s := ⟨rfl, ⟨rfl, rfl⟩, .inl hst, fun hne => absurd hw hne⟩
  obtain ⟨k, -, hall⟩ := k0.foldl r port (List.range 32)
  rw [← s.wakePort_some hl] at k hall
  obtain ⟨w, hmem, hon⟩ := hall (2 * f.polder + f.cls) (List.mem_range.2 (by omega)) q f (by rw [show (2 * f.polder + f.cls) % 2 = f.cls by omega, show (2 * f.polder + f.cls) / 2 = f.polder by omega, hhead])
  obtain ⟨hwaking, hwake, hout⟩ := k.woken (List.ne_nil_of_mem hmem)
  have ha' : (s.wakePort r port).fbit F.CANAL_CTRL_ARB r = false := by
    rw [← ha]
    simp only [State.fbit, State.fget, State.rd, k.regs.1, k.regs.2]
  refine ⟨_, (canalFlit_eq s r port).trans (congrArg _ (State.serveport_none _ ha' (State.roundRobin_waking _ _ hp hl hwaking))), hwaking, hwake, hout, ⟨w, hmem, hon⟩, k.lanes⟩

end

end Sys2Proof.Machine
end

section

/-!
PROOF. The vanes and the tick (R50, R52, R53, R59, R63): samples of a mill's pace, TICK_LOSS and the daily record; and the statement on the canal and the vanes.
-/

namespace Sys2Proof.Machine

/-! ## Causes raised under a condition -/

/-- Raises a cause where a condition holds. -/
def State.raiseIf (s : State) (c : Prop) [Decidable c] (t i b : Nat) : State := if c then s.raise t i b else s

section
variable {s u : State} {l : List Nat} (c : Prop) [Decidable c] (t i b : Nat)

theorem State.raise_only (s : State) (t i b : Nat) : s.raise t i b = { s with regs := (s.raise t i b).regs, out := (s.raise t i b).out } := by
  obtain ⟨l, e⟩ := s.raise_eq t i b
  rw [e]
  rfl

/-- Two states agree in all but their registers and outputs. -/
def RegsAndOut (s t : State) : Prop := t = { s with regs := t.regs, out := t.out }

theorem RegsAndOut.refl (s : State) : RegsAndOut s s := rfl

theorem RegsAndOut.trans {s t u : State} (h : RegsAndOut s t) (k : RegsAndOut t u) : RegsAndOut s u := by
  unfold RegsAndOut at h k ⊢
  rw [k, h]

theorem RegsAndOut.raise (h : RegsAndOut s u) : RegsAndOut s (u.raise t i b) := h.trans (u.raise_only t i b)

theorem RegsAndOut.raiseIf (h : RegsAndOut s u) : RegsAndOut s (u.raiseIf c t i b) := by
  unfold State.raiseIf
  split
  · exact h.raise t i b
  · exact h

theorem SameRegsBut.raiseIf (m : causeAt t i ∈ l) (h : SameRegsBut s u l) : SameRegsBut s (u.raiseIf c t i b) l := by
  unfold State.raiseIf
  split
  · exact h.raise t i b m
  · exact h

theorem causeSet.raiseIf {j k ty : Nat} (h : causeSet s ty j k) : causeSet (s.raiseIf c t i b) ty j k := by
  unfold State.raiseIf
  split
  · exact h.raise t i b
  · exact h

end

/-- The causes of a vane page other than those of adaptive voltage exist on both halves (R77). -/
theorem causesAt_vane {b : Nat} (h : b ∈ [I.VANE_PACE_LOW, I.VANE_PACE_FLOOR, I.VANE_PACE_DROP, I.VANE_TICK_LOSS]) (i : Nat) : (causesAt T.vane i).testBit b = true := by
  have e : causesAt T.vane i = 0x27 ∨ causesAt T.vane i = causeMask T.vane := by
    unfold causesAt
    rw [if_neg (fun e => absurd e.1 (by decide))]
    split
    · exact .inl rfl
    · exact .inr rfl
  simp only [List.mem_cons, List.not_mem_nil, or_false] at h
  rcases e with e | e <;> rw [e] <;> rcases h with rfl | rfl | rfl | rfl <;> decide

theorem causeSet_raiseIf_vane (s : State) {c : Prop} [Decidable c] (hc : c) (i : Nat) {b : Nat} (h : b ∈ [I.VANE_PACE_LOW, I.VANE_PACE_FLOOR, I.VANE_PACE_DROP, I.VANE_TICK_LOSS]) :
    causeSet (s.raiseIf c T.vane i b) T.vane i b := by
  have hb : b < 32 := by
    simp only [List.mem_cons, List.not_mem_nil, or_false] at h
    rcases h with rfl | rfl | rfl | rfl <;> decide
  rw [State.raiseIf, if_pos hc]
  exact causeSet_raise _ _ _ _ hb (causesAt_vane h i)

/-! ## A sample (R50, R52, R53) -/

/-- Setting a run of keys to one value. -/
theorem Tab.get_foldl_set {α : Type} [DecidableEq α] {d : Nat → α} (x : α) (a n : Nat) (u : Tab α) (j : Nat) :
    Tab.get d ((List.range n).foldl (fun u k => Tab.set d u (a + k) x) u) j = if a ≤ j ∧ j < a + n then x else Tab.get d u j := by
  induction n with
  | zero => rw [if_neg (by omega)]; rfl
  | succ n ih =>
    rw [List.range_succ, List.foldl_append, List.foldl_cons, List.foldl_nil, Tab.get_set, ih]
    by_cases hlast : j = a + n
    · rw [if_pos hlast, if_pos (by omega)]
    · rw [if_neg hlast]
      exact if_congr (by omega) rfl rfl

/-- The lowest sample of a mill's turn noted. -/
def State.setTurnMin (s : State) (m : Nat) (x : Option Nat) : State := { s with fab := { s.fab with turnMin := Tab.set (fun _ => none) s.fab.turnMin m x } }

theorem State.setTurnMin_fget (s : State) (m : Nat) (x : Option Nat) (f : Fld) (i j : Nat) : (s.setTurnMin m x).fget f i j = s.fget f i j := rfl
theorem State.setTurnMin_regs (s : State) (m : Nat) (x : Option Nat) : (s.setTurnMin m x).regs = s.regs := rfl
theorem State.setTurnMin_fuse (s : State) (m : Nat) (x : Option Nat) : (s.setTurnMin m x).fuse = s.fuse := rfl
theorem State.setTurnMin_sch (s : State) (m : Nat) (x : Option Nat) : (s.setTurnMin m x).sch = s.sch := rfl
theorem State.setTurnMin_only (s : State) (m : Nat) (x : Option Nat) : s.setTurnMin m x = { s with fab := { s.fab with turnMin := (s.setTurnMin m x).fab.turnMin } } := rfl

theorem State.get_turnMin (s : State) (m : Nat) (x : Option Nat) : Tab.get (fun _ => none) (s.setTurnMin m x).fab.turnMin m = x := Tab.get_set_same ..

/-- The lowest sample of the running turn with one more. -/
def State.lowestWith (s : State) (m v : Nat) : Nat := match Tab.get (fun _ => (none : Option Nat)) s.fab.turnMin m with | some w => min w v | none => v

/-- The reading as a register holds it, and the lowest of the turn. -/
def State.paceRead (s : State) (m v : Nat) : State := (s.fset F.VANE_MILL_PACE_NOW (halfOf m) v (m % 40)).setTurnMin m (some (s.lowestWith m v))

theorem State.paceRead_sch (s : State) (m v : Nat) : (s.paceRead m v).sch = s.sch := by rw [State.paceRead, State.setTurnMin_sch, State.fset_sch]

/-- The accounts of a mill's stones withdrawn (R52). -/
def withdrawn (u : Tab Nat) (m : Nat) : Tab Nat := (List.range 16).foldl (fun u k => Tab.set (fun _ => 0) u (16 * m + k) 0) u

theorem get_withdrawn (u : Tab Nat) (m j : Nat) : Tab.get (fun _ => 0) (withdrawn u m) j = if 16 * m ≤ j ∧ j < 16 * m + 16 then 0 else Tab.get (fun _ => 0) u j :=
  Tab.get_foldl_set ..

/-- The accounts after a sample: withdrawn where the reading has fallen below the pace used for the turn (R52). -/
def State.accountsAfter (s : State) (m v : Nat) : Tab Nat := if v < Tab.get (fun _ => 0) s.fab.paceUsed m then withdrawn s.sch.accounts m else s.sch.accounts

theorem State.get_accountsAfter (s : State) (m v j : Nat) : Tab.get (fun _ => 0) (s.accountsAfter m v) j =
    if v < Tab.get (fun _ => 0) s.fab.paceUsed m ∧ 16 * m ≤ j ∧ j < 16 * m + 16 then 0 else Tab.get (fun _ => 0) s.sch.accounts j := by
  unfold State.accountsAfter
  split
  next h => rw [get_withdrawn]; simp [h]
  next h => simp [h]

/-- The state before the causes of a sample are raised. -/
def State.paceTaken (s : State) (m v : Nat) : State := (s.paceRead m v).upSch fun c => { c with accounts := s.accountsAfter m v }

/-- A state with the causes of a sample of another raised. -/
def State.paceRaised (s t : State) (m v : Nat) : State :=
  ((t.raiseIf (v < Tab.get (fun _ => 0) s.fab.paceUsed m) T.vane (halfOf m) I.VANE_PACE_DROP).raiseIf (v < s.fget F.VANE_THRESH_LOW (halfOf m)) T.vane (halfOf m) I.VANE_PACE_LOW).raiseIf
    (v < 1400) T.vane (halfOf m) I.VANE_PACE_FLOOR

theorem State.paceDrop_eq (s : State) (m : Nat) : s.paceDrop m =
    (s.upSch fun c => { c with accounts := withdrawn s.sch.accounts m }).raise T.vane (halfOf m) I.VANE_PACE_DROP := rfl

/-- What is withdrawn on PACE_DROP is withdrawn before the cause is raised. -/
theorem State.paceTaken_raised (s : State) (m v : Nat) :
    (s.paceTaken m v).raiseIf (v < Tab.get (fun _ => 0) s.fab.paceUsed m) T.vane (halfOf m) I.VANE_PACE_DROP =
      if v < Tab.get (fun _ => 0) s.fab.paceUsed m then (s.paceRead m v).paceDrop m else s.paceRead m v := by
  rw [State.paceTaken, State.accountsAfter, ← s.paceRead_sch m v]
  generalize s.paceRead m v = t
  unfold State.raiseIf
  split
  · exact (t.paceDrop_eq m).symm
  · rfl

theorem State.vaneReading_eq (s : State) (m : Nat) (l : List Nat) : s.vaneReading m l = s.paceRaised (s.paceTaken m (paceSat (lowest l))) m (paceSat (lowest l)) := by
  rw [State.paceRaised, State.paceTaken_raised]
  unfold State.vaneReading State.raiseIf State.paceRead State.setTurnMin State.lowestWith
  rfl

section
variable (s : State) (m v : Nat)

theorem State.paceTaken_sch : (s.paceTaken m v).sch = { s.sch with accounts := s.accountsAfter m v } := by
  rw [State.paceTaken, State.upSch, s.paceRead_sch]

theorem State.paceTaken_fab : (s.paceTaken m v).fab = { s.fab with turnMin := Tab.set (fun _ => none) s.fab.turnMin m (some (s.lowestWith m v)) } := by
  rw [State.paceTaken, State.upSch_fab, State.paceRead, State.setTurnMin, State.fset_fab]

theorem State.paceTaken_only : s.paceTaken m v = { s with regs := (s.paceTaken m v).regs, sch := (s.paceTaken m v).sch, fab := (s.paceTaken m v).fab } := by
  rw [State.paceTaken, State.paceRead, State.setTurnMin, State.upSch, State.fset, State.wr]

theorem State.paceTaken_fget : (s.paceTaken m v).fget F.VANE_MILL_PACE_NOW (halfOf m) (m % 40) = v % 2 ^ 12 := by
  rw [State.paceTaken, State.upSch_fget, State.paceRead, State.setTurnMin_fget, State.fget_fset_same _ _ _ _ _ (by decide)]
  rfl

theorem State.paceTaken_regs : SameRegsBut s (s.paceTaken m v) [fieldAt F.VANE_MILL_PACE_NOW (halfOf m) (m % 40), causeAt T.vane (halfOf m)] :=
  (((SameRegsBut.refl s _).fset _ _ _ _ (List.mem_cons_self ..)).keep (State.setTurnMin_regs ..) (State.setTurnMin_fuse ..)).keep (State.upSch_regs ..) (State.upSch_fuse ..)

end

/-- The causes that a sample raises change BLK_ICAUSE and send messages. -/
theorem State.paceRaised_frame (s t : State) (m v : Nat) : SameRegsBut t (s.paceRaised t m v) [causeAt T.vane (halfOf m)] ∧
    s.paceRaised t m v = { t with regs := (s.paceRaised t m v).regs, out := (s.paceRaised t m v).out } := by
  have hm : causeAt T.vane (halfOf m) ∈ [causeAt T.vane (halfOf m)] := List.mem_singleton.2 rfl
  refine ⟨(((SameRegsBut.refl t _).raiseIf _ _ _ _ hm).raiseIf _ _ _ _ hm).raiseIf _ _ _ _ hm, ?_⟩
  exact (RegsAndOut.refl t).raiseIf .. |>.raiseIf .. |>.raiseIf ..

theorem paceSat_lowest (a b c d : Nat) : paceSat (lowest [a, b, c, d]) = min (min (min (min a b) c) d) 0xFFF := rfl

/-- A sample of a mill that is no member is passed over, one of a member read. -/
theorem vaneSample_one (s : State) (h m : Nat) (l : List Nat) :
    exec (.vaneSample h [(m, l)]) s = .next (if (halfOf m == h && s.member m) = true then s.vaneReading m l else s) := by
  show Host.Outcome.next ((List.filter _ _).foldl _ s) = _
  rw [List.filter_singleton, Bool.cond_eq_ite]
  split <;> rfl

/-- What one sample of a member mill leaves (R50, R52, R53). -/
theorem vaneReading_effect (s : State) (m : Nat) (l : List Nat) {v : Nat} (hv : paceSat (lowest l) = v) (hv12 : v < 2 ^ 12) :
    (s.vaneReading m l).fget F.VANE_MILL_PACE_NOW (m / 40) (m % 40) = v ∧
      (v < s.fget F.VANE_THRESH_LOW (m / 40) → causeSet (s.vaneReading m l) T.vane (m / 40) I.VANE_PACE_LOW) ∧
      (v < 1400 → causeSet (s.vaneReading m l) T.vane (m / 40) I.VANE_PACE_FLOOR) ∧
      (v < Tab.get (fun _ => 0) s.fab.paceUsed m →
        causeSet (s.vaneReading m l) T.vane (m / 40) I.VANE_PACE_DROP ∧ ∀ k, k < 16 → Tab.get (fun _ => 0) (s.vaneReading m l).sch.accounts (16 * m + k) = 0) ∧
      (Tab.get (fun _ => 0) s.fab.paceUsed m ≤ v → (s.vaneReading m l).sch = s.sch) ∧
      Tab.get (fun _ => none) (s.vaneReading m l).fab.turnMin m =
        some (match Tab.get (fun _ => (none : Option Nat)) s.fab.turnMin m with | some w => min w v | none => v) ∧
      (∀ k, k < 16 * m ∨ 16 * m + 16 ≤ k → Tab.get (fun _ => 0) (s.vaneReading m l).sch.accounts k = Tab.get (fun _ => 0) s.sch.accounts k) ∧
      SameRegsBut s (s.vaneReading m l) [fieldAt F.VANE_MILL_PACE_NOW (m / 40) (m % 40), causeAt T.vane (m / 40)] ∧
      s.vaneReading m l = { s with
        regs := (s.vaneReading m l).regs, out := (s.vaneReading m l).out, sch := { s.sch with accounts := (s.vaneReading m l).sch.accounts },
        fab := { s.fab with turnMin := (s.vaneReading m l).fab.turnMin } } := by
  obtain ⟨hregs, hraised⟩ := s.paceRaised_frame (s.paceTaken m v) m v
  have hsch : (s.paceRaised (s.paceTaken m v) m v).sch = { s.sch with accounts := s.accountsAfter m v } := by rw [hraised, s.paceTaken_sch]
  have hfab : (s.paceRaised (s.paceTaken m v) m v).fab = { s.fab with turnMin := Tab.set (fun _ => none) s.fab.turnMin m (some (s.lowestWith m v)) } := by
    rw [hraised, s.paceTaken_fab]
  rw [s.vaneReading_eq m l, hv, hsch, hfab]
  refine ⟨?_, fun h => ?_, fun h => causeSet_raiseIf_vane _ h _ (by decide), fun h => ⟨?_, fun k hk => ?_⟩, fun h => ?_, ?_, fun k hk => ?_, ?_, ?_⟩
  · rw [hregs.fget F.VANE_MILL_PACE_NOW _ _ ?_]
    · exact (s.paceTaken_fget m v).trans (Nat.mod_eq_of_lt hv12)
    · simp only [List.mem_singleton, fieldAt, causeAt, regAddr, F.VANE_MILL_PACE_NOW, T.vane, halfOf]
      omega
  · exact (causeSet_raiseIf_vane _ h _ (by decide)).raiseIf _ _ _ _
  · exact ((causeSet_raiseIf_vane _ h _ (by decide)).raiseIf _ _ _ _).raiseIf _ _ _ _
  · rw [s.get_accountsAfter, if_pos ⟨h, by omega, by omega⟩]
  · rw [State.accountsAfter, if_neg (Nat.not_lt.2 h)]
  · exact Tab.get_set_same s.fab.turnMin m (some (s.lowestWith m v))
  · rw [s.get_accountsAfter, if_neg (by omega)]
  · exact (s.paceTaken_regs m v).trans (hregs.mono (by simp [halfOf]))
  · rw [hraised, s.paceTaken_only, s.paceTaken_sch, s.paceTaken_fab]

/-! ## The loss of the tick and the daily record (R59, R63) -/

/-- The elements of a list of pairs laid end to end. -/
theorem getD_flatMap_pair {α β : Type} (a b : α → β) (d : β) (l : List α) {i : Nat} (h : i < l.length) :
    (l.flatMap fun x => [a x, b x]).getD (2 * i) d = a l[i] ∧ (l.flatMap fun x => [a x, b x]).getD (2 * i + 1) d = b l[i] := by
  induction l generalizing i with
  | nil => cases h
  | cons x l ih =>
    cases i with
    | zero => exact ⟨rfl, rfl⟩
    | succ i => exact ih (Nat.lt_of_succ_lt_succ h)

/-- The payload of the daily record: two bytes a mill. -/
def State.pacePayload (s : State) : List Byte := (List.range 80).flatMap fun m => leBytes 2 ((Tab.get (fun _ => (none : Option Nat)) s.fab.dayMin m).getD 0)

theorem State.pacePayload_length (s : State) : s.pacePayload.length = 160 := by
  simp [State.pacePayload, List.length_flatMap, leBytes_length]

theorem State.memRead_pacePayload (s : State) {m : Nat} (hm : m < 80) :
    memRead (memPut [] 0 s.pacePayload) (2 * m) 2 = (Tab.get (fun _ => (none : Option Nat)) s.fab.dayMin m).getD 0 % 65536 := by
  have hlen := s.pacePayload_length
  obtain ⟨e0, e1⟩ := getD_flatMap_pair (fun m => BitVec.ofNat 8 ((Tab.get (fun _ => (none : Option Nat)) s.fab.dayMin m).getD 0))
    (fun m => BitVec.ofNat 8 ((Tab.get (fun _ => (none : Option Nat)) s.fab.dayMin m).getD 0 / 256)) (0 : Byte) (List.range 80) (i := m) (by simpa using hm)
  rw [List.getElem_range] at e0 e1
  have b0 : memByte (memPut [] 0 s.pacePayload) (2 * m) = BitVec.ofNat 8 ((Tab.get (fun _ => (none : Option Nat)) s.fab.dayMin m).getD 0) := by
    rw [memByte_memPut, if_pos (by omega)]
    exact e0
  have b1 : memByte (memPut [] 0 s.pacePayload) (2 * m + 1) = BitVec.ofNat 8 ((Tab.get (fun _ => (none : Option Nat)) s.fab.dayMin m).getD 0 / 256) := by
    rw [memByte_memPut, if_pos (by omega)]
    exact e1
  rw [memRead, memBytes, memBytes, memBytes, b0, b1]
  exact ofLeBytes_leBytes 2 _

/-- The daily record is asked of the Ledger, and a new day begins (R59). -/
theorem paceLogRecord_eq (s : State) : exec .paceLogRecord s =
    .next { s with fab := { s.fab with dayMin := [] }, led := { s.led with reqs := s.led.reqs ++ [⟨5, 0, s.pacePayload, .none⟩] } } := by
  unfold State.pacePayload
  rfl

/-- The tick of a half lost. -/
def State.loseTick (s : State) (h : Nat) : State := { s with fab := if h = 0 then { s.fab with tickLost0 := true } else { s.fab with tickLost1 := true } }

theorem State.loseTick_effect (s : State) {h : Nat} (hh : h < 2) : (s.loseTick h).tickLost h = true ∧ (s.loseTick h).tickLost (1 - h) = s.tickLost (1 - h) ∧
    s.loseTick h = { s with fab := { s.fab with tickLost0 := (s.loseTick h).fab.tickLost0, tickLost1 := (s.loseTick h).fab.tickLost1 } } := by
  obtain rfl | rfl : h = 0 ∨ h = 1 := by omega
  · exact ⟨rfl, rfl, rfl⟩
  · exact ⟨rfl, rfl, rfl⟩

/-- TICK_LOSS flags the half alone and is raised (R63). -/
theorem tickLoss_effect (s : State) {h : Nat} (hh : h < 2) : ∃ t, exec (.tickLoss h) s = .next t ∧ t.tickLost h = true ∧ t.tickLost (1 - h) = s.tickLost (1 - h) ∧
    causeSet t T.vane h I.VANE_TICK_LOSS ∧ SameRegsBut s t [causeAt T.vane h] ∧
    t = { s with regs := t.regs, out := t.out, fab := { s.fab with tickLost0 := t.fab.tickLost0, tickLost1 := t.fab.tickLost1 } } := by
  have e : exec (.tickLoss h) s = .next ((s.loseTick h).raise T.vane h I.VANE_TICK_LOSS) := if_neg (by omega)
  have hfab : ((s.loseTick h).raise T.vane h I.VANE_TICK_LOSS).fab = (s.loseTick h).fab := State.raise_fab ..
  obtain ⟨hown, hother, honly⟩ := s.loseTick_effect hh
  have hlost : ∀ k, ((s.loseTick h).raise T.vane h I.VANE_TICK_LOSS).tickLost k = (s.loseTick h).tickLost k := fun k => by rw [State.tickLost, hfab]; rfl
  refine ⟨_, e, (hlost h).trans hown, (hlost (1 - h)).trans hother, causeSet_raise _ _ _ _ (by decide) (causesAt_vane (by decide) h),
    SameRegsBut.raise _ _ _ (List.mem_singleton.2 rfl) ((SameRegsBut.refl s _).keep rfl rfl), ?_⟩
  rw [hfab]
  exact ((s.loseTick h).raise_only T.vane h I.VANE_TICK_LOSS).trans (by rw [honly])

/-- Settles O11: a flit that enters, the transfers at an output port, and the commands of the vanes, each by the lemma on it. -/
theorem canalAndVanes : Obligations.CanalAndVanes := by
  refine ⟨fun s r q f port hlock hrr ha => ⟨fun hlane hport hf => canalFlit_enters hlock hrr ha ?_ hf, fun hno => canalFlit_waits hlock hrr ha ?_⟩,
    fun s r port v q f l ha hrr hlane hp hl hw => ⟨_, canalFlit_out ha hrr hp hl hw, State.lane_leaveLane (s.setServed r port v) hlane, rfl, (s.setServed r port v).cget_leaveLane r q f,
      Tab.get_set_same s.fab.served (16 * r + port) v, fun k hk => State.lane_leaveLane_ne (s.setServed r port v) hk, ?_⟩,
    fun s r port v q r' q' f l ha hv32 hv hready hlane hp hk hw => ⟨_, canalFlit_slot ha hv hready hp hw, ?_, ?_, Tab.get_set_same s.fab.slot (16 * r + port) ((v + 1) % 32), ?_, ?_⟩,
    fun s r port v q h n f l ha hl hp hw hlane => ⟨fun hst hrr => ⟨_, canalFlit_lock ha hrr hp hl hw hst, State.lane_leaveLane (s.setServed r port v) hlane, ?_, rfl⟩,
      fun hst hc hq hhead => canalFlit_wakes ha hp hl hw hst hc hq hhead⟩,
    fun s h hh => tickLoss_effect s hh, fun s m a b c d hm hmem v hv => ⟨_, ?_, vaneReading_effect s m [a, b, c, d] (hv ▸ paceSat_lowest a b c d) ?_⟩,
    fun s m l h hmem => ?_, fun s => ⟨_, s.pacePayload, paceLogRecord_eq s, s.pacePayload_length, fun m hm => s.memRead_pacePayload hm, rfl⟩⟩
  · simpa [State.laneRoom] using ⟨hlane, hport⟩
  · simp only [State.laneRoom, Bool.and_eq_false_iff, decide_eq_false_iff_not, not_lt]
    exact hno
  · unfold State.setServed State.leaveLane State.setLane State.cinc State.cset State.emit
    rfl
  · rw [State.lane_enterLane, if_neg (Ne.symm hk)]
    exact State.lane_leaveLane _ hlane
  · rw [State.lane_enterLane, if_pos rfl]
    exact congrArg (· ++ [f]) (State.lane_leaveLane_ne (s.setSlotAt r port ((v + 1) % 32)) hk)
  · unfold State.enterLane State.setLane State.leaveLane State.setSlotAt State.setLane State.cinc State.cset
    rfl
  · unfold State.enterLane State.setLane State.leaveLane State.setSlotAt State.setLane State.cinc State.cset
    rfl
  · rw [State.lock_setLock_same]
  · rw [vaneSample_one, if_pos (by rw [hmem]; simp [halfOf])]
  · rw [hv]
    omega
  · rw [vaneSample_one, if_neg (by rw [hmem]; simp)]

end Sys2Proof.Machine
end

section

/-!
PROOF. Adaptive voltage (R55 to R58, R577): what a master does when nothing of its own waits, a write of VANE_AVS_CTRL, the setting of a turn, and the
statement on adaptive voltage.
-/

namespace Sys2Proof.Machine

/-! ## The masters -/

section
variable {s u : State} {k : Nat}

@[simp] theorem State.i2cm_upI2c (s : State) (k : Nat) (f : I2cSt → I2cSt) : (s.upI2c k f).i2cm k = f (s.i2cm k) := Tab.get_set_same ..

theorem State.i2cm_congr (e : u.i2c = s.i2c) (k : Nat) : u.i2cm k = s.i2cm k := by rw [State.i2cm, e]; rfl

/-- Two states agree in all but their registers, outputs and masters. -/
def OnBus (s t : State) : Prop := t = { s with regs := t.regs, out := t.out, i2c := t.i2c }

theorem OnBus.refl (s : State) : OnBus s s := rfl

theorem OnBus.trans {s t u : State} (h : OnBus s t) (k : OnBus t u) : OnBus s u := by
  unfold OnBus at h k ⊢
  rw [k, h]

theorem RegsAndOut.onBus (h : RegsAndOut s u) : OnBus s u := by
  unfold RegsAndOut at h
  rw [h]
  rfl

theorem RegsOnly.onBus (h : RegsOnly s u) : OnBus s u := by
  unfold RegsOnly at h
  rw [h]
  rfl

theorem OnBus.fset (h : OnBus s u) (f : Fld) (i v x : Nat) : OnBus s (u.fset f i v x) := h.trans rfl
theorem OnBus.upI2c (h : OnBus s u) (k : Nat) (f : I2cSt → I2cSt) : OnBus s (u.upI2c k f) := h.trans rfl
theorem OnBus.fab (h : OnBus s u) : u.fab = s.fab := by rw [h]
theorem OnBus.fresh (h : OnBus s u) : u.fresh = s.fresh := by rw [h]

theorem SameRegsBut.upI2c {l : List Nat} (h : SameRegsBut s u l) (k : Nat) (f : I2cSt → I2cSt) : SameRegsBut s (u.upI2c k f) l := h

@[simp] theorem State.i2cm_fset (s : State) (f : Fld) (inst v i k : Nat) : (s.fset f inst v i).i2cm k = s.i2cm k := rfl

@[simp] theorem State.i2cm_emit (s : State) (o : Out) (k : Nat) : (s.emit o).i2cm k = s.i2cm k := rfl

/-- While a transaction is in progress no other starts. -/
theorem State.i2cNext_busy (h : (s.i2cm k).cur ≠ none) : s.i2cNext k = s := by
  obtain ⟨w, e⟩ := Option.ne_none_iff_exists'.1 h
  simp only [State.i2cNext, State.i2cStart, e]

/-- Where nothing waits nothing starts. -/
theorem State.i2cNext_idle (h : (s.i2cm k).cur = none) (ha : (s.i2cm k).avsWaits = none) (hg : (s.i2cm k).goWaits = false) : s.i2cNext k = s := by
  simp only [State.i2cNext, State.i2cStart, h, ha, hg, Bool.false_and, Bool.false_eq_true, if_false]

/-- The read of VOUT_MODE that waits has started (R577). -/
def State.voutModeBegun (s : State) : State :=
  ((s.upI2c 0 fun y => { y with cur := some .voutMode, tries := 0, again := false, avsWaits := none }).fset F.I2CM_STAT_BUSY 0 1)

theorem State.voutModeBegun_cur (s : State) : (s.voutModeBegun.i2cm 0).cur = some .voutMode := by rw [State.voutModeBegun, State.i2cm_fset, State.i2cm_upI2c]

theorem State.voutModeBegun_busy (s : State) : s.voutModeBegun.fget F.I2CM_STAT_BUSY 0 = 1 := by
  rw [State.voutModeBegun, State.fget_fset_same _ _ _ _ _ (by decide)]
  rfl

theorem State.voutModeBegun_out (s : State) : s.voutModeBegun.out = s.out := by rw [State.voutModeBegun, State.fset_out, State.upI2c_out]

/-- On a free bus the read of VOUT_MODE that waits goes out, without PAGE and PEC as one byte read after its command. -/
theorem State.i2cNext_voutMode (hc : (s.i2cm 0).cur = none) (ha : (s.i2cm 0).avsWaits = some .voutMode) (hclear : s.fbit F.I2CM_STAT_CLEARING 0 = false)
    (hstuck : s.fbit F.I2CM_STAT_BUS_STUCK 0 = false) (hpage : s.fbit F.I2CM_AVS_PAGE_EN 0 = false) (hpec : s.fbit F.I2CM_CTRL_PEC 0 = false) :
    s.i2cNext 0 = s.voutModeBegun.emit (.i2cAttempt 0 2 (s.fget F.I2CM_AVS_ADDR 0) [0x20] 1) := by
  have hregs : SameRegsBut s s.voutModeBegun [fieldAt F.I2CM_STAT_BUSY 0] := ((SameRegsBut.refl s _).keep rfl rfl).fset _ _ _ _ (List.mem_singleton.2 rfl)
  have hpage' : s.voutModeBegun.fbit F.I2CM_AVS_PAGE_EN 0 = false := by
    rw [← hpage]
    exact congrArg (· == 1) (hregs.fget F.I2CM_AVS_PAGE_EN 0 0 (by decide))
  have hpec' : s.voutModeBegun.fbit F.I2CM_CTRL_PEC 0 = false := by
    rw [← hpec]
    exact congrArg (· == 1) (hregs.fget F.I2CM_CTRL_PEC 0 0 (by decide))
  have haddr : s.voutModeBegun.fget F.I2CM_AVS_ADDR 0 = s.fget F.I2CM_AVS_ADDR 0 := hregs.fget F.I2CM_AVS_ADDR 0 0 (by decide)
  have e : s.i2cNext 0 = s.voutModeBegun.i2cAttempt 0 := by
    simp only [State.i2cNext, State.i2cStart, hc, ha, hclear, Bool.false_eq_true, if_false]
    rw [if_neg]
    · rfl
    · exact Bool.eq_false_iff.1 hstuck
  rw [e, State.i2cAttempt]
  simp only [s.voutModeBegun_cur, hpec', State.avsPage, hpage', haddr, Bool.false_eq_true, if_false]
  rfl

end

/-! ## The setting v (R56) -/

section
variable {s u : State}

theorem State.avsV_congr (hi : u.i2c = s.i2c) (hr : u.fab.rail = s.fab.rail) : u.avsV = s.avsV := by
  simp only [State.avsV, State.i2cm, hi, hr]

theorem State.avsV_of_waits {mv : Nat} (h : (s.i2cm 0).avsWaits = some (.voutCommand mv)) : s.avsV = mv := by
  simp only [State.avsV, h]

/-- Where a setting is known PACE mode starts from it. -/
theorem State.avsFirst_known (h : s.avsV ≠ 0) : s.avsFirst = s := if_pos h

/-- Where none is known it starts from a voltage of the rail from VMIN to VMAX. -/
theorem State.avsFirst_none (h : s.avsV = 0) (hlim : s.fget F.VANE_AVS_VLIM_VMIN 0 ≤ s.fget F.VANE_AVS_VLIM_VMAX 0) :
    ∃ r, s.fget F.VANE_AVS_VLIM_VMIN 0 ≤ r ∧ r ≤ s.fget F.VANE_AVS_VLIM_VMAX 0 ∧ s.avsFirst = { s with fresh := s.fresh + 1, fab := { s.fab with rail := r } } := by
  refine ⟨_, Nat.le_add_right _ (s.takeFree.1.toNat % (s.fget F.VANE_AVS_VLIM_VMAX 0 + 1 - s.fget F.VANE_AVS_VLIM_VMIN 0)), ?_, if_neg (not_not.2 h)⟩
  have := Nat.mod_lt s.takeFree.1.toNat (show 0 < s.fget F.VANE_AVS_VLIM_VMAX 0 + 1 - s.fget F.VANE_AVS_VLIM_VMIN 0 by omega)
  omega

/-- Two states agree in all but the rail's voltage and the free values taken. -/
def RailOnly (s t : State) : Prop := t = { s with fresh := t.fresh, fab := { s.fab with rail := t.fab.rail } }

theorem RailOnly.i2c {s t : State} (h : RailOnly s t) : t.i2c = s.i2c := by rw [h]
theorem RailOnly.out {s t : State} (h : RailOnly s t) : t.out = s.out := by rw [h]
theorem RailOnly.sameRegs {s t : State} (h : RailOnly s t) (l : List Nat) : SameRegsBut s t l := by
  rw [h]
  exact SameRegsBut.refl s l

theorem State.avsFirst_only (s : State) : RailOnly s s.avsFirst := by
  unfold State.avsFirst
  split <;> rfl

theorem State.avsCheck_eq (s : State) : s.avsCheck = s.raiseIf (s.atVmax = true) T.vane 0 I.VANE_AVS_LIMIT := rfl

theorem State.atVmax_false (h : s.avsV ≠ s.fget F.VANE_AVS_VLIM_VMAX 0) : s.atVmax = false := by simp [State.atVmax, h]

theorem State.avsCheck_none (h : s.atVmax = false) : s.avsCheck = s := if_neg (by rw [h]; decide)

theorem State.avsCheck_out (s : State) : ∃ l, s.avsCheck.out = s.out ++ l ∧ (s.atVmax = false → l = []) := by
  cases h : s.atVmax
  · exact ⟨[], by rw [State.avsCheck_none h, List.append_nil], fun _ => rfl⟩
  · obtain ⟨l, e⟩ := s.raise_eq T.vane 0 I.VANE_AVS_LIMIT
    exact ⟨l, by rw [State.avsCheck, if_pos h, e]; rfl, fun h' => by cases h'⟩

end

/-! ## A write of VANE_AVS_CTRL (R55, R57, R577) -/

/-- The page of adaptive voltage is in the view of the PF and the Millhouse alone. -/
theorem Reaches.privileged_vane {s : State} {fn : Nat} (h : Reaches s fn T.vane 0) : fn = 0 ∨ fn = 16 := by
  obtain ⟨-, -, -, -, hs⟩ := h
  simpa [State.sees, State.inVfView, T.vane, T.device, T.mill, T.dike, T.vorak, T.trust, T.power] using (Bool.and_eq_true_iff.1 (Bool.and_eq_true_iff.1 hs).1).2

/-- Of the data of a word write only its 32 bits count. -/
theorem State.busWrite_mod (s : State) (fn v : Nat) {a : Nat} (ha : a % 4 = 0) : s.busWrite fn a 4 v false = s.busWrite fn a 4 (v % 2 ^ 32) false := by
  have e := fun x => s.busWrite_within fn x (k := 0) ha (by decide : 0 < 4) (by decide)
  simp only [Nat.add_zero] at e
  rw [e, e, Nat.mod_mod]

/-- A write of a register with a rule of its own, without RWL fields and with a value in range, is judged by that rule. -/
theorem State.regWrite_own {s u : State} {fn a t inst off v : Nat} {uni : Bool} (hv : v < 2 ^ 32) (hm : rwlMask t inst off = 0) (hok : s.valueOk t inst off v = true)
    (hown : s.ownWrite fn a t inst off v uni = some u) : s.regWrite fn a t inst off v uni = u := by
  have hw : v &&& 0xFFFFFFFF = v := by
    rw [show 0xFFFFFFFF = 2 ^ 32 - 1 from rfl, Nat.and_two_pow_sub_one_eq_mod, Nat.mod_eq_of_lt hv]
  simp only [State.regWrite, hm, Nat.and_zero, Nat.zero_xor, Nat.or_zero, hw, ite_self, bne_self_eq_false, Bool.and_false, Bool.false_eq_true, if_false, hok, hown,
    Bool.not_true, Option.getD_some]

/-- A write of VANE_AVS_CTRL that reaches its page is judged by the register's own rule. -/
theorem avsCtrl_request {s : State} {fn : Nat} (h : Reaches s fn T.vane 0) (v : Nat) :
    s.request fn (regAddr T.vane 0 0x60) 4 v false = s.avsCtrlWrite fn (v % 2 ^ 32) := by
  have hw : TakesWrites s fn T.vane 0 := ⟨h.privileged_vane, rfl, fun e => absurd e (by decide), fun e => absurd e (by decide)⟩
  have hv : v % 2 ^ 32 < 2 ^ 32 := Nat.mod_lt v (by decide)
  obtain ⟨x, hx, hs⟩ := State.request_taken (off := 0x60) h hw (by decide) (by decide) hv (by simp [State.noRegs, T.vane, T.miller]) (by decide)
    (fun e => absurd e (by decide))
  rw [State.request_open h.2.1, State.busWrite_mod _ _ _ (by decide), ← State.request_open h.2.1, hx, hs (by decide), State.pageEffect, if_neg (by decide),
    State.regWrite_own hv (by decide) rfl rfl]
  rfl

/-- AVS_MODE_SET writes MODE = 1 and the other fields of its data. -/
theorem avsModeSet_word (data : Nat) : bitField (setField data 0 1 1 % 2 ^ 32) 4 12 = bitField data 4 12 ∧
    bitField (setField data 0 1 1 % 2 ^ 32) 16 8 = bitField data 16 8 ∧ bitField (setField data 0 1 1 % 2 ^ 32) 0 1 = 1 := by
  rw [bitField_word _ 4 12 (by decide), bitField_word _ 16 8 (by decide), bitField_word _ 0 1 (by decide), bitField_setField_same,
    bitField_setField_above _ _ _ _ _ _ (by decide), bitField_setField_above _ _ _ _ _ _ (by decide)]
  exact ⟨rfl, rfl, rfl⟩

/-- The state with the fields of VANE_AVS_CTRL written. -/
def State.avsFields (s : State) (v : Nat) : State :=
  ((s.fset F.VANE_AVS_CTRL_HYST 0 (bitField v 16 8)).fset F.VANE_AVS_CTRL_TARGET 0 (bitField v 4 12)).fset F.VANE_AVS_CTRL_MODE 0 v

/-- PACE mode begins: AVS_FAULT is clear and VOUT_MODE waits to be read. -/
def State.avsBegun (s : State) : State := (s.avsCheck.fset F.VANE_AVS_STAT_AVS_FAULT 0 0).upI2c 0 fun x => { x with ready := false, avsWaits := some .voutMode }

/-- A VOUT_COMMAND between two attempts ends. -/
def State.avsEnded (s : State) : State :=
  ((s.upI2c 0 fun y => { y with avsWaits := none }).upI2c 0 fun y => { y with cur := none, tries := 0, again := false }).fset F.I2CM_STAT_BUSY 0 0

section
variable {s : State} {fn v : Nat}

theorem State.avsCtrlWrite_refused (h : bitField v 4 12 < 1400 ∨ 2600 < bitField v 4 12) :
    s.avsCtrlWrite fn v = s.logErr T.vane 0 5 fn (regAddr T.vane 0 0x60) v := if_pos h

theorem State.avsCtrlWrite_begin (h1 : 1400 ≤ bitField v 4 12) (h2 : bitField v 4 12 ≤ 2600) (hv : bitField v 0 1 = 1) (hm : s.fbit F.VANE_AVS_CTRL_MODE 0 = false) :
    s.avsCtrlWrite fn v = (s.avsFields v).avsFirst.avsBegun.i2cNext 0 := by
  have hb : bitAt v 0 = true := beq_iff_eq.2 hv
  simp only [State.avsCtrlWrite, hb, hm]
  rw [if_neg (by omega)]
  rfl

theorem State.avsCtrlWrite_stop (h1 : 1400 ≤ bitField v 4 12) (h2 : bitField v 4 12 ≤ 2600) (hv : bitAt v 0 = false) :
    s.avsCtrlWrite fn v = (s.avsFields v).avsStop := by
  simp only [State.avsCtrlWrite, hv]
  rw [if_neg (by omega)]
  rfl

/-! ### The fields -/

theorem State.avsFields_regs (s : State) (v : Nat) : SameRegsBut s (s.avsFields v) [fieldAt F.VANE_AVS_CTRL_MODE 0] :=
  (((SameRegsBut.refl s _).fset F.VANE_AVS_CTRL_HYST 0 _ 0 (by decide)).fset F.VANE_AVS_CTRL_TARGET 0 _ 0 (by decide)).fset F.VANE_AVS_CTRL_MODE 0 v 0 (by decide)

theorem State.avsFields_only (s : State) (v : Nat) : RegsOnly s (s.avsFields v) := (((RegsOnly.refl s).fset ..).fset ..).fset ..

theorem State.avsFields_i2cm (s : State) (v k : Nat) : (s.avsFields v).i2cm k = s.i2cm k := by
  rw [State.avsFields, State.i2cm_fset, State.i2cm_fset, State.i2cm_fset]

theorem State.avsFields_mode (s : State) (v : Nat) : (s.avsFields v).fget F.VANE_AVS_CTRL_MODE 0 = v % 2 := by
  rw [State.avsFields, State.fget_fset_same _ _ _ _ _ (by decide)]
  rfl

theorem State.avsFields_target (s : State) (v : Nat) : (s.avsFields v).fget F.VANE_AVS_CTRL_TARGET 0 = bitField v 4 12 := by
  rw [State.avsFields, State.fget_fset_clear _ (by decide) (by decide), State.fget_fset_same _ _ _ _ _ (by decide)]
  exact Nat.mod_eq_of_lt (bitField_lt ..)

theorem State.avsFields_hyst (s : State) (v : Nat) : (s.avsFields v).fget F.VANE_AVS_CTRL_HYST 0 = bitField v 16 8 := by
  rw [State.avsFields, State.fget_fset_clear _ (by decide) (by decide), State.fget_fset_clear _ (by decide) (by decide), State.fget_fset_same _ _ _ _ _ (by decide)]
  exact Nat.mod_eq_of_lt (bitField_lt ..)

theorem State.avsFields_avsV (s : State) (v : Nat) : (s.avsFields v).avsV = s.avsV := by
  have e := s.avsFields_only v
  unfold RegsOnly at e
  exact State.avsV_congr (by rw [e]) (by rw [e])

theorem State.avsFields_fget (s : State) (v : Nat) (f : Fld) (i : Nat) (h : fieldAt f i ∉ [fieldAt F.VANE_AVS_CTRL_MODE 0]) : (s.avsFields v).fget f i = s.fget f i :=
  (s.avsFields_regs v).fget f i 0 h

/-! ### The beginning of PACE mode -/

theorem State.avsCheck_only (s : State) : RegsAndOut s s.avsCheck := (RegsAndOut.refl s).raiseIf ..

theorem State.avsCheck_i2cm (s : State) (k : Nat) : s.avsCheck.i2cm k = s.i2cm k := by
  apply State.i2cm_congr
  rw [s.avsCheck_only]

theorem State.avsBegun_regs (s : State) : SameRegsBut s s.avsBegun [fieldAt F.VANE_AVS_STAT_AVS_FAULT 0, causeAt T.vane 0] := by
  have h : SameRegsBut s s.avsCheck [fieldAt F.VANE_AVS_STAT_AVS_FAULT 0, causeAt T.vane 0] := (SameRegsBut.refl s _).raiseIf _ T.vane 0 I.VANE_AVS_LIMIT (by decide)
  exact (h.fset F.VANE_AVS_STAT_AVS_FAULT 0 0 0 (by decide)).upI2c _ _

theorem State.avsBegun_fault (s : State) : s.avsBegun.fget F.VANE_AVS_STAT_AVS_FAULT 0 = 0 := by
  rw [State.avsBegun, State.upI2c_fget, State.fget_fset_same _ _ _ _ _ (by decide)]
  rfl

theorem State.avsBegun_i2cm (s : State) : s.avsBegun.i2cm 0 = { s.i2cm 0 with ready := false, avsWaits := some .voutMode } := by
  rw [State.avsBegun, State.i2cm_upI2c, State.i2cm_fset, State.avsCheck_i2cm]

theorem State.avsBegun_only (s : State) : OnBus s s.avsBegun := (s.avsCheck_only.onBus.fset ..).upI2c ..

theorem State.avsBegun_out (s : State) : s.avsBegun.out = s.avsCheck.out := by
  rw [State.avsBegun, State.upI2c_out, State.fset_out]

theorem State.avsBegun_quiet (h : s.atVmax = false) : s.avsBegun.rd T.vane 0 0x18 = s.rd T.vane 0 0x18 ∧ s.avsBegun.out = s.out := by
  have hr : SameRegsBut s s.avsBegun [fieldAt F.VANE_AVS_STAT_AVS_FAULT 0] := by
    have e : SameRegsBut s s.avsCheck [fieldAt F.VANE_AVS_STAT_AVS_FAULT 0] := by
      rw [State.avsCheck_none h]
      exact SameRegsBut.refl s _
    exact (e.fset F.VANE_AVS_STAT_AVS_FAULT 0 0 0 (by decide)).upI2c _ _
  have hn : regAddr T.vane 0 0x18 ∉ [fieldAt F.VANE_AVS_STAT_AVS_FAULT 0] := by decide
  exact ⟨hr.rd hn, by rw [State.avsBegun_out, State.avsCheck_none h]⟩

theorem State.avsBegun_busy (h : (s.i2cm 0).cur ≠ none) : s.avsBegun.i2cNext 0 = s.avsBegun := State.i2cNext_busy (by rw [State.avsBegun_i2cm]; exact h)

/-! ### The end of a VOUT_COMMAND -/

theorem State.avsEnded_i2cm (s : State) : s.avsEnded.i2cm 0 = { s.i2cm 0 with avsWaits := none, cur := none, tries := 0, again := false } := by
  rw [State.avsEnded, State.i2cm_fset, State.i2cm_upI2c, State.i2cm_upI2c]

theorem State.avsEnded_regs (s : State) : SameRegsBut s s.avsEnded [fieldAt F.I2CM_STAT_BUSY 0] :=
  (((SameRegsBut.refl s _).upI2c _ _).upI2c _ _).fset F.I2CM_STAT_BUSY 0 0 0 (by decide)

theorem State.avsEnded_only (s : State) : OnBus s s.avsEnded := (((OnBus.refl s).upI2c ..).upI2c ..).fset ..

theorem State.avsEnded_out (s : State) : s.avsEnded.out = s.out := by rw [State.avsEnded, State.fset_out, State.upI2c_out, State.upI2c_out]

theorem State.avsEnded_busy (s : State) : s.avsEnded.fget F.I2CM_STAT_BUSY 0 = 0 := by
  rw [State.avsEnded, State.fget_fset_same _ _ _ _ _ (by decide)]
  rfl

theorem State.avsStop_again {w : Nat} (hc : (s.i2cm 0).cur = some (.voutCommand w)) (ha : (s.i2cm 0).again = true) (hg : (s.i2cm 0).goWaits = false) :
    s.avsStop = s.avsEnded := by
  have hx : (s.i2cm 0).again = true ∧ (s.i2cm 0).cur ≠ some .host := ⟨ha, by rw [hc]; exact fun e => by cases e⟩
  have e : s.avsStop = s.avsEnded.i2cNext 0 := if_pos hx
  rw [e]
  apply State.i2cNext_idle <;> rw [State.avsEnded_i2cm]
  exact hg

end

end Sys2Proof.Machine
end

section

/-!
PROOF. The clauses of the statement on adaptive voltage (R55 to R58, R577).
-/

namespace Sys2Proof.Machine

/-! ## AVS_MODE_SET and a write of MODE = 0 (R55, R57, R577) -/

section
variable {s : State} {fn data : Nat}

theorem exec_avsModeSet (h : Reaches s fn T.vane 0) (data : Nat) :
    exec (.avsModeSet fn data) s = .next (s.avsCtrlWrite fn (setField data 0 1 1 % 2 ^ 32)) :=
  congrArg Host.Outcome.next (avsCtrl_request h (setField data 0 1 1))

/-- A TARGET outside 1,400 to 2,600 is logged and nothing else is written (R57). -/
theorem avsModeSet_refused (h : Reaches s fn T.vane 0) (hr : bitField data 4 12 < 1400 ∨ 2600 < bitField data 4 12) :
    ∃ t, exec (.avsModeSet fn data) s = .next t ∧ SameRegsBut s t (errLogAt T.vane 0) ∧ t = { s with regs := t.regs } := by
  obtain ⟨htg, -, -⟩ := avsModeSet_word data
  refine ⟨_, exec_avsModeSet h data, ?_⟩
  rw [State.avsCtrlWrite_refused (by rwa [htg])]
  exact ⟨(SameRegsBut.refl s _).logErr _ _ _ _ _ _ fun _ m => m, State.logErr_eq ..⟩

/-- MODE is set, and VOUT_MODE waits for the bus, which is busy (R577). -/
theorem exec_avsModeSet_busy (h : Reaches s fn T.vane 0) (h1 : 1400 ≤ bitField data 4 12) (h2 : bitField data 4 12 ≤ 2600)
    (hm : s.fbit F.VANE_AVS_CTRL_MODE 0 = false) (hc : (s.i2cm 0).cur ≠ none) :
    exec (.avsModeSet fn data) s = .next (s.avsFields (setField data 0 1 1 % 2 ^ 32)).avsFirst.avsBegun := by
  obtain ⟨htg, -, hb⟩ := avsModeSet_word data
  rw [exec_avsModeSet h, State.avsCtrlWrite_begin (by rwa [htg]) (by rwa [htg]) hb hm, State.avsBegun_busy]
  rwa [State.i2cm_congr (State.avsFirst_only _).i2c, State.avsFields_i2cm]

theorem State.fbit_of_fget {u : State} {f : Fld} {i n : Nat} (h : u.fget f i = n) : u.fbit f i = (n == 1) := by rw [State.fbit, h]

theorem State.avsFields_modeSet (s : State) (data : Nat) : (s.avsFields (setField data 0 1 1 % 2 ^ 32)).fbit F.VANE_AVS_CTRL_MODE 0 = true := by
  obtain ⟨-, -, hb⟩ := avsModeSet_word data
  have e : setField data 0 1 1 % 2 ^ 32 % 2 = 1 := by
    rw [bitField, Nat.pow_zero, Nat.div_one] at hb
    exact hb
  rw [State.fbit_of_fget (State.avsFields_mode ..), e]
  rfl

theorem OnBus.of_rail {a b t : State} (h : OnBus b t) (hf : RegsOnly s a) (hr : RailOnly a b) :
    t = { s with regs := t.regs, out := t.out, i2c := t.i2c, fab := t.fab, fresh := t.fresh } := by
  unfold OnBus at h
  unfold RailOnly at hr
  unfold RegsOnly at hf
  rw [h, hr, hf]

/-- Where no setting is known PACE mode starts from a voltage of the rail between its limits (log entry 204). -/
theorem avsModeSet_first (h : Reaches s fn T.vane 0) (h1 : 1400 ≤ bitField data 4 12) (h2 : bitField data 4 12 ≤ 2600)
    (hm : s.fbit F.VANE_AVS_CTRL_MODE 0 = false) (hc : (s.i2cm 0).cur ≠ none) (hv : s.avsV = 0)
    (hlim : s.fget F.VANE_AVS_VLIM_VMIN 0 ≤ s.fget F.VANE_AVS_VLIM_VMAX 0) :
    ∃ t, exec (.avsModeSet fn data) s = .next t ∧ t.fbit F.VANE_AVS_CTRL_MODE 0 = true ∧
      s.fget F.VANE_AVS_VLIM_VMIN 0 ≤ t.fab.rail ∧ t.fab.rail ≤ s.fget F.VANE_AVS_VLIM_VMAX 0 ∧
      t = { s with regs := t.regs, out := t.out, i2c := t.i2c, fab := t.fab, fresh := s.fresh + 1 } := by
  refine ⟨_, exec_avsModeSet_busy h h1 h2 hm hc, ?_⟩
  generalize hw : setField data 0 1 1 % 2 ^ 32 = w
  obtain ⟨r, hlo, hhi, hr⟩ := (s.avsFields w).avsFirst_none (by rw [State.avsFields_avsV, hv])
    (by rwa [State.avsFields_fget _ _ _ _ (by decide), State.avsFields_fget _ _ _ _ (by decide)])
  rw [State.avsFields_fget _ _ _ _ (by decide)] at hlo hhi
  have hb := State.avsBegun_only (s.avsFields w).avsFirst
  refine ⟨?_, ?_, ?_, ?_⟩
  · have e := (State.avsBegun_regs (s.avsFields w).avsFirst).fget F.VANE_AVS_CTRL_MODE 0 0 (by decide)
    rw [((State.avsFirst_only _).sameRegs []).fget F.VANE_AVS_CTRL_MODE 0 0 List.not_mem_nil] at e
    rw [State.fbit_of_fget e, ← hw]
    exact s.avsFields_modeSet data
  · rwa [hb.fab, hr]
  · rwa [hb.fab, hr]
  · have e := hb.of_rail (s.avsFields_only w) (State.avsFirst_only _)
    rwa [hb.fresh, show (s.avsFields w).avsFirst.fresh = s.fresh + 1 by rw [hr, s.avsFields_only w]] at e

/-- From a known setting the fields are written, AVS_FAULT is clear and VOUT_MODE waits; AVS_LIMIT is raised at VMAX alone (R56, R577). -/
theorem avsModeSet_known (h : Reaches s fn T.vane 0) (h1 : 1400 ≤ bitField data 4 12) (h2 : bitField data 4 12 ≤ 2600)
    (hm : s.fbit F.VANE_AVS_CTRL_MODE 0 = false) (hc : (s.i2cm 0).cur ≠ none) (hv : s.avsV ≠ 0) :
    ∃ t, exec (.avsModeSet fn data) s = .next t ∧ t.fbit F.VANE_AVS_CTRL_MODE 0 = true ∧ t.fget F.VANE_AVS_CTRL_TARGET 0 = bitField data 4 12 ∧
      t.fget F.VANE_AVS_CTRL_HYST 0 = bitField data 16 8 ∧ t.fget F.VANE_AVS_STAT_AVS_FAULT 0 = 0 ∧
      (t.i2cm 0) = { s.i2cm 0 with ready := false, avsWaits := some .voutMode } ∧
      SameRegsBut s t [fieldAt F.VANE_AVS_CTRL_MODE 0, fieldAt F.VANE_AVS_STAT_AVS_FAULT 0, causeAt T.vane 0] ∧
      (s.avsV ≠ s.fget F.VANE_AVS_VLIM_VMAX 0 → t.rd T.vane 0 0x18 = s.rd T.vane 0 0x18 ∧ t.out = s.out) ∧
      t = { s with regs := t.regs, out := t.out, i2c := t.i2c } := by
  obtain ⟨htg, hhy, -⟩ := avsModeSet_word data
  refine ⟨_, exec_avsModeSet_busy h h1 h2 hm hc, ?_⟩
  rw [State.avsFirst_known (by rwa [State.avsFields_avsV])]
  have hmode := s.avsFields_modeSet data
  revert htg hhy hmode
  generalize setField data 0 1 1 % 2 ^ 32 = w
  intro htg hhy hmode
  have hb := State.avsBegun_regs (s.avsFields w)
  refine ⟨?_, ?_, ?_, State.avsBegun_fault _, ?_, ?_, fun hmax => ?_, ?_⟩
  · rwa [State.fbit, hb.fget F.VANE_AVS_CTRL_MODE 0 0 (by decide)]
  · rw [hb.fget F.VANE_AVS_CTRL_TARGET 0 0 (by decide), State.avsFields_target, htg]
  · rw [hb.fget F.VANE_AVS_CTRL_HYST 0 0 (by decide), State.avsFields_hyst, hhy]
  · rw [State.avsBegun_i2cm, State.avsFields_i2cm]
  · exact ((s.avsFields_regs w).mono (by decide)).trans (hb.mono (by decide))
  · have hat : (s.avsFields w).atVmax = false := State.atVmax_false (by rwa [State.avsFields_avsV, State.avsFields_fget _ _ _ _ (by decide)])
    obtain ⟨hcause, hout⟩ := State.avsBegun_quiet hat
    exact ⟨hcause.trans ((s.avsFields_regs w).rd (o := 0x18) (by decide)), hout.trans (by rw [s.avsFields_only w])⟩
  · exact (s.avsFields_only w).onBus.trans (State.avsBegun_only _)

/-- On a free bus the read of VOUT_MODE goes out at once (R577). -/
theorem avsModeSet_free (h : Reaches s fn T.vane 0) (h1 : 1400 ≤ bitField data 4 12) (h2 : bitField data 4 12 ≤ 2600)
    (hm : s.fbit F.VANE_AVS_CTRL_MODE 0 = false) (hc : s.i2cm 0 = {})
    (hclear : s.fbit F.I2CM_STAT_CLEARING 0 = false) (hstuck : s.fbit F.I2CM_STAT_BUS_STUCK 0 = false) (hpage : s.fbit F.I2CM_AVS_PAGE_EN 0 = false)
    (hpec : s.fbit F.I2CM_CTRL_PEC 0 = false) :
    ∃ t l, exec (.avsModeSet fn data) s = .next t ∧ (t.i2cm 0).cur = some .voutMode ∧ t.fbit F.I2CM_STAT_BUSY 0 = true ∧
      t.out = s.out ++ l ++ [.i2cAttempt 0 2 (s.fget F.I2CM_AVS_ADDR 0) [0x20] 1] ∧ (s.fab.rail ≠ 0 → s.fab.rail ≠ s.fget F.VANE_AVS_VLIM_VMAX 0 → l = []) := by
  obtain ⟨htg, -, hbit⟩ := avsModeSet_word data
  have hexec := exec_avsModeSet h data
  rw [State.avsCtrlWrite_begin (by rwa [htg]) (by rwa [htg]) hbit hm] at hexec
  revert hexec
  generalize setField data 0 1 1 % 2 ^ 32 = w
  intro hexec
  have hf := s.avsFields_regs w
  have hr := State.avsFirst_only (s.avsFields w)
  have hb := State.avsBegun_regs (s.avsFields w).avsFirst
  have hi := State.avsBegun_i2cm (s.avsFields w).avsFirst
  rw [State.i2cm_congr hr.i2c, State.avsFields_i2cm, hc] at hi
  have hregs : ∀ f : Fld, fieldAt f 0 ∉ [fieldAt F.VANE_AVS_CTRL_MODE 0, fieldAt F.VANE_AVS_STAT_AVS_FAULT 0, causeAt T.vane 0] →
      (s.avsFields w).avsFirst.avsBegun.fget f 0 = s.fget f 0 :=
    fun f => (((hf.mono (by decide)).trans (hr.sameRegs _)).trans (hb.mono (by decide))).fget f 0 0
  obtain ⟨l, hl, hnone⟩ := State.avsCheck_out (s.avsFields w).avsFirst
  rw [State.i2cNext_voutMode (by rw [hi]) (by rw [hi]) (by rwa [State.fbit, hregs _ (by decide)]) (by rwa [State.fbit, hregs _ (by decide)])
    (by rwa [State.fbit, hregs _ (by decide)]) (by rwa [State.fbit, hregs _ (by decide)]), hregs _ (by decide)] at hexec
  refine ⟨_, l, hexec, ?_, ?_, ?_, fun h0 hmax => hnone ?_⟩
  · rw [State.i2cm_emit, State.voutModeBegun_cur]
  · rw [State.fbit, State.emit_fget, State.voutModeBegun_busy]
    rfl
  · rw [State.emit_out, State.voutModeBegun_out, State.avsBegun_out, hl, hr.out, s.avsFields_only w]
  · have hV : s.avsV = s.fab.rail := by rw [State.avsV, hc]
    rw [State.avsFirst_known (by rwa [State.avsFields_avsV, hV])]
    exact State.atVmax_false (by rwa [State.avsFields_avsV, State.avsFields_fget _ _ _ _ (by decide), hV])

/-- A write of MODE = 0 ends a VOUT_COMMAND between two attempts (R55). -/
theorem avsModeClear_ends {w : Nat} (h : Reaches s fn T.vane 0) (hd : data < 2 ^ 32) (hb : bitAt data 0 = false) (h1 : 1400 ≤ bitField data 4 12)
    (h2 : bitField data 4 12 ≤ 2600) (hc : (s.i2cm 0).cur = some (.voutCommand w)) (ha : (s.i2cm 0).again = true) (hg : (s.i2cm 0).goWaits = false) :
    ∃ t, exec (.registerWrite fn (regAddr T.vane 0 0x60) 4 data false) s = .next t ∧ t.fbit F.VANE_AVS_CTRL_MODE 0 = false ∧ (t.i2cm 0).cur = none ∧
      (t.i2cm 0).avsWaits = none ∧ t.fbit F.I2CM_STAT_BUSY 0 = false ∧ exec (.i2cRetry 0) t = .next t ∧ t.out = s.out ∧ t.fab = s.fab := by
  have hexec : exec (.registerWrite fn (regAddr T.vane 0 0x60) 4 data false) s = .next (s.avsFields data).avsEnded := by
    refine (congrArg Host.Outcome.next (avsCtrl_request h data)).trans ?_
    rw [Nat.mod_eq_of_lt hd, State.avsCtrlWrite_stop h1 h2 hb, State.avsStop_again] <;> rwa [State.avsFields_i2cm]
  have hi := State.avsEnded_i2cm (s.avsFields data)
  have hmod : data % 2 = 0 := by
    simp only [bitAt, Nat.pow_zero, Nat.div_one, beq_eq_false_iff_ne] at hb
    omega
  refine ⟨_, hexec, ?_, by rw [hi], by rw [hi], ?_, ?_, ?_, ?_⟩
  · rw [State.fbit, (State.avsEnded_regs _).fget F.VANE_AVS_CTRL_MODE 0 0 (by decide), State.avsFields_mode, hmod]
    rfl
  · rw [State.fbit, State.avsEnded_busy]
    rfl
  · refine if_pos (.inr (.inl ?_))
    rw [hi]
    exact Bool.false_ne_true
  · rw [State.avsEnded_out, s.avsFields_only data]
  · rw [(State.avsEnded_only _).fab, s.avsFields_only data]

end

/-! ## AVS_UPDATE (R56) -/

/-- The setting of a turn: 5 mV up to at most VMAX, 5 mV down to at least VMIN, or as it was. -/
def avsSetting (v lo hi tg hyst : Nat) : Option Nat → Nat
  | none => v
  | some p => if p < tg then min (v + 5) hi else if tg + hyst ≤ p then max (v - 5) lo else v

theorem avsSetting_lt {v lo hi tg hyst n : Nat} {p : Option Nat} (hv : v < n) (hlo : lo < n) (hhi : hi < n) : avsSetting v lo hi tg hyst p < n := by
  unfold avsSetting
  split
  · exact hv
  · split_ifs <;> omega

/-- The setting held in VCMD and waiting for the bus. -/
def State.avsMoved (s : State) (w : Nat) : State := ((s.fset F.VANE_AVS_STAT_VCMD 0 w).upI2c 0 fun x => { x with avsWaits := some (.voutCommand w) })

section
variable {s : State} {w : Nat}

theorem State.avsMoved_regs (s : State) (w : Nat) : SameRegsBut s (s.avsMoved w) [fieldAt F.VANE_AVS_STAT_VCMD 0] :=
  ((SameRegsBut.refl s _).fset F.VANE_AVS_STAT_VCMD 0 w 0 (by decide)).upI2c _ _

theorem State.avsMoved_only (s : State) (w : Nat) : OnBus s (s.avsMoved w) := ((OnBus.refl s).fset ..).upI2c ..

theorem State.avsMoved_i2cm (s : State) (w : Nat) : (s.avsMoved w).i2cm 0 = { s.i2cm 0 with avsWaits := some (.voutCommand w) } := by
  rw [State.avsMoved, State.i2cm_upI2c, State.i2cm_fset]

theorem State.avsMoved_vcmd (s : State) (w : Nat) : (s.avsMoved w).fget F.VANE_AVS_STAT_VCMD 0 = w % 1024 := by
  rw [State.avsMoved, State.upI2c_fget, State.fget_fset_same _ _ _ _ _ (by decide)]
  rfl

theorem SameRegsBut.avsPace {u : State} {l : List Nat} (h : SameRegsBut s u l)
    (n : ∀ f ∈ [F.VANE_HALF_MIN_VALID, F.VANE_HALF_MIN_PACE], ∀ i ∈ [0, 1], fieldAt f i ∉ l) : u.avsPace = s.avsPace := by
  have hvalid : ∀ i ∈ [0, 1], u.fbit F.VANE_HALF_MIN_VALID i = s.fbit F.VANE_HALF_MIN_VALID i :=
    fun i m => congrArg (· == 1) (h.fget F.VANE_HALF_MIN_VALID i 0 (n _ (List.mem_cons_self ..) i m))
  have hpace : ∀ i ∈ [0, 1], u.fget F.VANE_HALF_MIN_PACE i = s.fget F.VANE_HALF_MIN_PACE i := fun i m => h.fget _ i 0 (n _ (by decide) i m)
  have e : ([0, 1].filter fun i => u.fbit F.VANE_HALF_MIN_VALID i).map (fun i => u.fget F.VANE_HALF_MIN_PACE i) =
      ([0, 1].filter fun i => s.fbit F.VANE_HALF_MIN_VALID i).map fun i => s.fget F.VANE_HALF_MIN_PACE i := by
    rw [List.filter_congr hvalid]
    exact List.map_congr_left fun i m => hpace i (List.mem_of_mem_filter m)
  unfold State.avsPace
  rw [e]

/-- AVS_UPDATE in PACE mode, while the bus is busy: the setting moves, AVS_LIMIT follows and the command waits. -/
theorem exec_avsUpdate (hm : s.fbit F.VANE_AVS_CTRL_MODE 0 = true) (hr : (s.i2cm 0).ready = true) (hc : (s.i2cm 0).cur ≠ none)
    (hw : w = avsSetting s.avsV (s.fget F.VANE_AVS_VLIM_VMIN 0) (s.fget F.VANE_AVS_VLIM_VMAX 0) (s.fget F.VANE_AVS_CTRL_TARGET 0) (s.fget F.VANE_AVS_CTRL_HYST 0) s.avsPace) :
    exec .avsUpdate s = .next (s.avsMoved w).avsCheck := by
  have e : exec .avsUpdate s = .next ((s.avsMoved w).avsCheck.i2cNext 0) := by
    refine (if_neg (by simp [hm, hr])).trans ?_
    rw [hw]
    cases s.avsPace <;> rfl
  rw [e, State.i2cNext_busy]
  rw [State.avsCheck_i2cm, State.avsMoved_i2cm]
  exact hc

end

/-! ## AT_VMAX and AT_VMIN as VANE_AVS_STAT reads (R56) -/

theorem avsStat_bits (x : Nat) (a b : Bool) : bitAt ((x &&& 0x403FF) + b2n a * 2 ^ 17 + b2n b * 2 ^ 16) 16 = b ∧
    bitAt ((x &&& 0x403FF) + b2n a * 2 ^ 17 + b2n b * 2 ^ 16) 17 = a := by
  have h : (x &&& 0x403FF) / 2 ^ 16 % 2 ^ 2 = 0 := by
    rw [Nat.and_div_two_pow, Nat.and_mod_two_pow]
    exact Nat.and_zero _
  generalize (x &&& 0x403FF) = y at h
  cases a <;> cases b <;> simp [bitAt, b2n] <;> omega

/-- VANE_AVS_STAT reads AT_VMAX and AT_VMIN live. -/
theorem State.avsStat_flags (s : State) :
    bitAt (s.pageValue 0 T.vane 0 0x68) 16 = s.atVmax ∧ bitAt (s.pageValue 0 T.vane 0 0x68) 17 = s.atVmin := by
  have e : s.pageValue 0 T.vane 0 0x68 = (s.plain T.vane 0 0x68 &&& 0x403FF) + b2n s.atVmin * 2 ^ 17 + b2n s.atVmax * 2 ^ 16 := by
    rw [State.pageValue_of_not_agg (by decide), State.peek_of_openBits rfl]
    rfl
  rw [e]
  exact avsStat_bits ..

section
variable {s u : State} {l : List Nat} {w p : Nat}

/-- AT_VMAX at setting w, in a state whose limits, target and readings are those of s. -/
theorem SameRegsBut.atVmax_eq (hm : s.fbit F.VANE_AVS_CTRL_MODE 0 = true) (h : SameRegsBut s u [fieldAt F.VANE_AVS_STAT_VCMD 0, causeAt T.vane 0]) (hu : u.avsV = w)
    (hp : s.avsPace = some p) : u.atVmax = decide (w = s.fget F.VANE_AVS_VLIM_VMAX 0 ∧ p < s.fget F.VANE_AVS_CTRL_TARGET 0) := by
  have hmode : u.fbit F.VANE_AVS_CTRL_MODE 0 = true := by rwa [State.fbit, h.fget F.VANE_AVS_CTRL_MODE 0 0 (by decide)]
  rw [State.atVmax, hmode, hu, h.avsPace (by decide), hp, h.fget F.VANE_AVS_VLIM_VMAX 0 0 (by decide), h.fget F.VANE_AVS_CTRL_TARGET 0 0 (by decide), Bool.true_and,
    Bool.decide_and]
  rfl

theorem SameRegsBut.atVmin_eq (hm : s.fbit F.VANE_AVS_CTRL_MODE 0 = true) (h : SameRegsBut s u [fieldAt F.VANE_AVS_STAT_VCMD 0, causeAt T.vane 0]) (hu : u.avsV = w) :
    u.atVmin = decide (w = s.fget F.VANE_AVS_VLIM_VMIN 0) := by
  have hmode : u.fbit F.VANE_AVS_CTRL_MODE 0 = true := by rwa [State.fbit, h.fget F.VANE_AVS_CTRL_MODE 0 0 (by decide)]
  rw [State.atVmin, hmode, hu, h.fget F.VANE_AVS_VLIM_VMIN 0 0 (by decide), Bool.true_and]
  rfl

end

/-- AVS_UPDATE moves the setting by at most 5 mV within VMIN and VMAX, and its flags follow (R56). -/
theorem avsUpdate_moves {s : State} {v : Nat} (hm : s.fbit F.VANE_AVS_CTRL_MODE 0 = true) (hr : (s.i2cm 0).ready = true) (hc : (s.i2cm 0).cur ≠ none)
    (hv : s.avsV = v) (hlt : v < 1024) :
    ∃ t w, exec .avsUpdate s = .next t ∧
      (let lo := s.fget F.VANE_AVS_VLIM_VMIN 0
       let hi := s.fget F.VANE_AVS_VLIM_VMAX 0
       let tg := s.fget F.VANE_AVS_CTRL_TARGET 0
       (∀ p, s.avsPace = some p →
         (p < tg → w = min (v + 5) hi) ∧ (tg + s.fget F.VANE_AVS_CTRL_HYST 0 ≤ p → w = max (v - 5) lo) ∧ (tg ≤ p → p < tg + s.fget F.VANE_AVS_CTRL_HYST 0 → w = v) ∧
         (bitAt (t.pageValue 0 T.vane 0 0x68) 16 = decide (w = hi ∧ p < tg)) ∧ (w = hi → p < tg → causeSet t T.vane 0 I.VANE_AVS_LIMIT)) ∧
       (s.avsPace = none → w = v) ∧ bitAt (t.pageValue 0 T.vane 0 0x68) 17 = decide (w = lo)) ∧
      t.fget F.VANE_AVS_STAT_VCMD 0 = w ∧ t.fab = s.fab ∧ (t.i2cm 0) = { s.i2cm 0 with avsWaits := some (.voutCommand w) } ∧
      SameRegsBut s t [fieldAt F.VANE_AVS_STAT_VCMD 0, causeAt T.vane 0] ∧ t = { s with regs := t.regs, out := t.out, i2c := t.i2c } := by
  obtain ⟨w, hw⟩ : ∃ w, w = avsSetting s.avsV (s.fget F.VANE_AVS_VLIM_VMIN 0) (s.fget F.VANE_AVS_VLIM_VMAX 0) (s.fget F.VANE_AVS_CTRL_TARGET 0)
    (s.fget F.VANE_AVS_CTRL_HYST 0) s.avsPace := ⟨_, rfl⟩
  have hexec := exec_avsUpdate hm hr hc hw
  rw [hv] at hw
  have hw1024 : w < 1024 := hw ▸ avsSetting_lt hlt (s.fget_lt ..) (s.fget_lt ..)
  have hmoved : SameRegsBut s (s.avsMoved w) [fieldAt F.VANE_AVS_STAT_VCMD 0, causeAt T.vane 0] := (s.avsMoved_regs w).mono (by decide)
  have hchk : SameRegsBut (s.avsMoved w) (s.avsMoved w).avsCheck [causeAt T.vane 0] := (SameRegsBut.refl _ _).raiseIf _ T.vane 0 I.VANE_AVS_LIMIT (by decide)
  have honly : OnBus s (s.avsMoved w).avsCheck := (s.avsMoved_only w).trans (s.avsMoved w).avsCheck_only.onBus
  have hi : (s.avsMoved w).avsCheck.i2cm 0 = { s.i2cm 0 with avsWaits := some (.voutCommand w) } := by rw [State.avsCheck_i2cm, State.avsMoved_i2cm]
  have hregs : SameRegsBut s (s.avsMoved w).avsCheck [fieldAt F.VANE_AVS_STAT_VCMD 0, causeAt T.vane 0] :=
    hmoved.trans (hchk.mono (by decide))
  have hmax := fun p => SameRegsBut.atVmax_eq (p := p) hm hregs (State.avsV_of_waits (by rw [hi]))
  have hmax' := fun p => SameRegsBut.atVmax_eq (p := p) hm hmoved (State.avsV_of_waits (by rw [State.avsMoved_i2cm]))
  have hmin : (s.avsMoved w).avsCheck.atVmin = decide (w = s.fget F.VANE_AVS_VLIM_VMIN 0) := hregs.atVmin_eq hm (State.avsV_of_waits (by rw [hi]))
  obtain ⟨hflag16, hflag17⟩ := (s.avsMoved w).avsCheck.avsStat_flags
  refine ⟨_, w, hexec, ⟨fun p hp => ?_, fun hp => ?_, hflag17.trans hmin⟩, ?_, honly.fab, hi, hregs, honly⟩
  · rw [hp] at hw
    simp only [avsSetting] at hw
    refine ⟨fun h => ?_, fun h => ?_, fun h1 h2 => ?_, hflag16.trans (hmax p hp), fun h1 h2 => ?_⟩
    · rw [hw, if_pos h]
    · rw [hw, if_neg (by omega), if_pos h]
    · rw [hw, if_neg (by omega), if_neg (by omega)]
    · have hat : (s.avsMoved w).atVmax = true := (hmax' p hp).trans (decide_eq_true ⟨h1, h2⟩)
      rw [State.avsCheck, if_pos hat]
      exact causeSet_raise _ _ _ _ (by decide) (by decide)
  · rw [hw, hp]
    rfl
  · rw [hchk.fget F.VANE_AVS_STAT_VCMD 0 0 (by decide), State.avsMoved_vcmd, Nat.mod_eq_of_lt hw1024]

/-! ## The end of a VOUT_COMMAND (R58) -/

/-- The VRM has accepted a voltage. -/
def State.setRail (s : State) (w : Nat) : State := { s with fab := { s.fab with rail := w } }

theorem State.setRail_i2cm (s : State) (w k : Nat) : (s.setRail w).i2cm k = s.i2cm k := rfl
theorem State.setRail_fget (s : State) (w : Nat) (f : Fld) (i j : Nat) : (s.setRail w).fget f i j = s.fget f i j := rfl
theorem SameRegsBut.setRail {s u : State} {l : List Nat} (h : SameRegsBut s u l) (w : Nat) : SameRegsBut s (u.setRail w) l := h

/-- A transaction of adaptive voltage has ended. -/
def State.avsDone (s : State) : State :=
  ((s.upI2c 0 fun y => { y with tries := y.tries + 1 }).upI2c 0 fun y => { y with cur := none, tries := 0, again := false, slot := some s.turn }).fset F.I2CM_STAT_BUSY 0 0

section
variable {s : State} {w : Nat}

theorem State.avsDone_i2cm (s : State) : s.avsDone.i2cm 0 = { s.i2cm 0 with cur := none, tries := 0, again := false, slot := some s.turn } := by
  rw [State.avsDone, State.i2cm_fset, State.i2cm_upI2c, State.i2cm_upI2c]

theorem State.avsDone_busy (s : State) : s.avsDone.fget F.I2CM_STAT_BUSY 0 = 0 := by
  rw [State.avsDone, State.fget_fset_same _ _ _ _ _ (by decide)]
  rfl

theorem State.avsDone_regs (s : State) : SameRegsBut s s.avsDone [fieldAt F.I2CM_STAT_BUSY 0] :=
  (((SameRegsBut.refl s _).upI2c _ _).upI2c _ _).fset F.I2CM_STAT_BUSY 0 0 0 (by decide)

theorem State.avsDone_only (s : State) : OnBus s s.avsDone := (((OnBus.refl s).upI2c ..).upI2c ..).fset ..

theorem State.avsDone_out (s : State) : s.avsDone.out = s.out := by rw [State.avsDone, State.fset_out, State.upI2c_out, State.upI2c_out]

/-- An accepted VOUT_COMMAND leaves the bus free and the rail at its voltage (R58). -/
theorem i2cTransactionDone_voutCommand {rx : List Byte} (hc : (s.i2cm 0).cur = some (.voutCommand w)) (ha : (s.i2cm 0).again = false)
    (hg : (s.i2cm 0).goWaits = false) (hw : (s.i2cm 0).avsWaits = none) (hclear : s.fbit F.I2CM_STAT_CLEARING 0 = false) :
    ∃ t, exec (.i2cTransactionDone 0 1 rx) s = .next t ∧ t.fab = { s.fab with rail := w } ∧ (t.i2cm 0).cur = none ∧
      t.fbit F.I2CM_STAT_BUSY 0 = false ∧ SameRegsBut s t [fieldAt F.I2CM_STAT_BUSY 0] ∧ t = { s with regs := t.regs, fab := t.fab, i2c := t.i2c } := by
  have hpec : s.i2cPecBase 0 = (0, []) := by simp only [State.i2cPecBase, hc]
  have hdone : exec (.i2cTransactionDone 0 1 rx) s = .next (s.i2cAttemptEnd 0 1 []) := by
    refine (if_neg (by simp [hclear])).trans ?_
    rw [hpec]
    rfl
  have hend : (s.upI2c 0 fun y => { y with tries := y.tries + 1 }).i2cEnd 0 1 [] = s.avsDone.setRail w := by
    simp only [State.i2cEnd, State.i2cm_upI2c, hc]
    rfl
  have hattempt : s.i2cAttemptEnd 0 1 [] = (s.avsDone.setRail w).i2cNext 0 := by
    rw [← hend, State.i2cAttemptEnd]
    rw [if_neg (by simp [hc, ha])]
    rfl
  have hidle : (s.avsDone.setRail w).i2cNext 0 = s.avsDone.setRail w := by
    apply State.i2cNext_idle <;> rw [State.setRail_i2cm, State.avsDone_i2cm]
    · exact hw
    · exact hg
  rw [hattempt, hidle] at hdone
  have ho := s.avsDone_only
  refine ⟨_, hdone, ?_, ?_, ?_, s.avsDone_regs.setRail w, ?_⟩
  · rw [State.setRail, ho.fab]
  · rw [State.setRail_i2cm, State.avsDone_i2cm]
  · rw [State.fbit, State.setRail_fget, State.avsDone_busy]
    rfl
  · unfold OnBus at ho
    rw [s.avsDone_out] at ho
    rw [ho]
    rfl

end

/-! ## The statement on adaptive voltage -/

/-- Settles O54: a write of MODE, the setting of a turn and the end of its command. -/
theorem adaptiveVoltage : Obligations.AdaptiveVoltage := by
  refine ⟨fun s fn data => rfl, fun s fn data h hr => avsModeSet_refused h hr, fun s fn data h h1 h2 hm hc => ⟨avsModeSet_first h h1 h2 hm hc, avsModeSet_known h h1 h2 hm hc⟩,
    fun s fn data w h hd hb h1 h2 hc ha hg => avsModeClear_ends h hd hb h1 h2 hc ha hg, fun s fn data h h1 h2 hm hc => avsModeSet_free h h1 h2 hm hc,
    fun s v hm hr hc hv hlt => avsUpdate_moves hm hr hc hv hlt, fun s w rx hc ha hg hw hclear => i2cTransactionDone_voutCommand hc ha hg hw hclear,
    fun s hm => if_pos (.inl (by rw [hm]; exact Bool.false_ne_true)), by decide⟩

end Sys2Proof.Machine
end

section

/-!
PROOF. Handshakes and the watchdogs of their stages (R46, R47, R61, R63, R64, R90, R126, R592).
-/

namespace Sys2Proof.Machine

/-! ## What a detection leaves (R64, R90, R126, R592) -/

/-- From s to t a detection of kind k at a place is reported: a mill stops, unless it is quarantined, and CANAL_FAULT keeps the first that a router or a lock at
one of its ports saw. -/
def Detected (s t : State) (k : Nat) (pl : Place) : Prop :=
  (∀ m, pl = .mill m → s.role m = 4 → t.out = s.out ∧ t.mills = s.mills ∧ t.regs = s.regs) ∧
    ((∀ m, pl = .mill m → s.role m ≠ 4) → t.out = s.out ++ [.detection k pl]) ∧
    (∀ m, pl = .mill m → s.role m ≠ 4 → (t.mill m).stopped = true ∧ t.regs = s.regs ∧ ∀ n, n ≠ m → t.mill n = s.mill n) ∧ ((∀ m, pl ≠ .mill m) → t.mills = s.mills) ∧
    (∀ r q, (∃ vl, pl = .router r q vl) ∨ (∃ h n, pl = .lock h n ∧ lockRouter h n = some (r, q)) →
      SameRegsBut s t [regAddr T.row r 0xC48] ∧ (s.fbit F.CANAL_FAULT_VALID r = true → t.regs = s.regs) ∧
      (s.fbit F.CANAL_FAULT_VALID r = false → ∃ v, v < 32 ∧ t.rd T.row r 0xC48 = 2 ^ 31 + v * 65536 + q % 16 * 256 + k % 16 ∧ ∀ vl, pl = .router r q vl → v = vl % 32)) ∧
    ((∀ h n, pl ≠ .lock h n) → t.fresh = s.fresh) ∧
    ((∀ r q vl, pl ≠ .router r q vl) → (∀ h n, pl = .lock h n → lockRouter h n = none) → t.regs = s.regs)

section
variable (s : State) (k : Nat)

/-- A detection changes registers, mills, outputs and the free values taken, at most. -/
theorem State.detect_only (pl : Place) (vl : Option Nat) :
    s.detect k pl vl = { s with regs := (s.detect k pl vl).regs, out := (s.detect k pl vl).out, mills := (s.detect k pl vl).mills, fresh := (s.detect k pl vl).fresh } := by
  cases pl with
  | mill m =>
    unfold State.detect
    dsimp only
    split <;> rfl
  | router r q v =>
    have e : s.detect k (.router r q v) vl = (s.canalFault r q (some v) k).emit (.detection k (.router r q v)) := rfl
    rw [e, State.canalFault_only]
    rfl
  | lock h n =>
    have e := (s.detect_lock_effect k h n vl).2.2
    rw [e]
  | bank b => rfl
  | link h => rfl

theorem State.stopMill_eq (s : State) (m : Nat) : s.stopMill m = s.setMill m { s.mill m with stopped := true } := rfl
theorem State.emit_mill (s : State) (o : Out) (m : Nat) : (s.emit o).mill m = s.mill m := rfl

theorem State.detect_mill (m : Nat) : Detected s (s.detect k (.mill m)) k (.mill m) := by
  have hrouter : ∀ r q, ¬((∃ vl, Place.mill m = .router r q vl) ∨ (∃ h n, Place.mill m = .lock h n ∧ lockRouter h n = some (r, q))) := by
    rintro r q (⟨_, h⟩ | ⟨_, _, h, _⟩) <;> cases h
  by_cases hr : s.role m = 4
  · have e : s.detect k (.mill m) = s := if_pos hr
    rw [e]
    exact ⟨fun _ _ _ => ⟨rfl, rfl, rfl⟩, fun h => absurd hr (h m rfl), fun m' h h' => absurd (by cases h; exact hr) h', fun _ => rfl, fun r q h => absurd h (hrouter r q),
      fun _ => rfl, fun _ _ => rfl⟩
  · have e : s.detect k (.mill m) = (s.stopMill m).emit (.detection k (.mill m)) := if_neg hr
    rw [e]
    refine ⟨fun m' h h' => absurd (by cases h; exact h') hr, fun _ => rfl, fun m' h _ => ?_, fun h => absurd rfl (h m), fun r q h => absurd h (hrouter r q), fun _ => rfl, fun _ _ => rfl⟩
    cases h
    refine ⟨?_, rfl, fun n hn => ?_⟩
    · rw [State.emit_mill, State.stopMill_eq, State.mill_setMill_same]
    · rw [State.emit_mill, State.stopMill_eq, State.mill_setMill_ne _ _ hn]

/-- A report that stops no mill and keeps CANAL_FAULT as a router's port has it. -/
theorem Detected.of_canalFault {pl : Place} {r q : Nat} {vl : Option Nat} (hmill : ∀ m, pl ≠ .mill m)
    (hat : ∀ r' q', (∃ v, pl = .router r' q' v) ∨ (∃ h n, pl = .lock h n ∧ lockRouter h n = some (r', q')) ↔ r' = r ∧ q' = q)
    (hlane : ∀ v, pl = .router r q v → vl = some v) (hlock : (∀ h n, pl ≠ .lock h n) → vl ≠ none) :
    Detected s ((s.canalFault r q vl k).emit (.detection k pl)) k pl := by
  have honly := s.canalFault_only r q vl k
  refine ⟨fun m h => absurd h (hmill m), fun _ => ?_, fun m h => absurd h (hmill m), fun _ => ?_, fun r' q' h => ?_, fun h => ?_, fun h1 h2 => ?_⟩
  · rw [State.emit_out, honly]
  · rw [State.emit_mills, honly]
  · obtain ⟨rfl, rfl⟩ := (hat r' q').1 h
    refine ⟨(s.canalFault_regs r' q' vl k).keep rfl rfl, fun hv => ?_, fun hv => ?_⟩
    · rw [State.emit_regs, s.canalFault_held q' vl k hv]
    · obtain ⟨v, hlt, hrd, hvl⟩ := s.rd_canalFault q' vl k hv
      exact ⟨v, hlt, hrd, fun x hx => hvl x (hlane x hx)⟩
  · obtain ⟨v, hv⟩ := Option.ne_none_iff_exists'.1 (hlock h)
    rw [State.emit_fresh, hv]
    cases hvalid : s.fbit F.CANAL_FAULT_VALID r
    · rw [s.canalFault_lane q v k hvalid]
      rfl
    · rw [s.canalFault_held q (some v) k hvalid]
  · rcases (hat r q).2 ⟨rfl, rfl⟩ with ⟨v, hv⟩ | ⟨h, n, hp, hl⟩
    · exact absurd hv (h1 r q v)
    · exact absurd hl (by rw [h2 h n hp]; exact fun e => by cases e)

/-- A report from a place that has no router. -/
theorem Detected.of_emit {pl : Place} (hmill : ∀ m, pl ≠ .mill m) (hrouter : ∀ r q v, pl ≠ .router r q v) (hlock : ∀ h n, pl = .lock h n → lockRouter h n = none) :
    Detected s (s.emit (.detection k pl)) k pl := by
  refine ⟨fun m h => absurd h (hmill m), fun _ => rfl, fun m h => absurd h (hmill m), fun _ => rfl, fun r q h => ?_, fun _ => rfl, fun _ _ => rfl⟩
  rcases h with ⟨v, hv⟩ | ⟨h, n, hp, hl⟩
  · exact absurd hv (hrouter r q v)
  · rw [hlock h n hp] at hl
    cases hl

/-- A detection is reported as its place says. -/
theorem State.detect_detected (pl : Place) : Detected s (s.detect k pl) k pl := by
  cases pl with
  | mill m => exact s.detect_mill k m
  | router r q v =>
    exact Detected.of_canalFault s k (fun _ e => by cases e) (fun r' q' => ⟨by rintro (⟨_, e⟩ | ⟨_, _, e, _⟩) <;> cases e; exact ⟨rfl, rfl⟩, by rintro ⟨rfl, rfl⟩; exact .inl ⟨v, rfl⟩⟩)
      (fun x e => by cases e; rfl) fun _ e => by cases e
  | lock h n =>
    rw [State.detect_lock]
    cases e : lockRouter h n with
    | none =>
      rw [s.lockFault_none k none e]
      exact Detected.of_emit s k (fun _ e => by cases e) (fun _ _ _ e => by cases e) fun h' n' e' => by cases e'; exact e
    | some p =>
      rw [s.lockFault_some k none e]
      refine Detected.of_canalFault s k (fun _ e => by cases e) (fun r' q' => ⟨?_, ?_⟩) (fun x e => by cases e) fun h' => absurd rfl (h' h n)
      · rintro (⟨_, e'⟩ | ⟨_, _, e', hl⟩) <;> cases e'
        rw [e] at hl
        cases hl
        exact ⟨rfl, rfl⟩
      · rintro ⟨rfl, rfl⟩
        exact .inr ⟨h, n, rfl, e⟩
  | bank b => exact Detected.of_emit s k (fun _ e => by cases e) (fun _ _ _ e => by cases e) fun _ _ e => by cases e
  | link h => exact Detected.of_emit s k (fun _ e => by cases e) (fun _ _ _ e => by cases e) fun _ _ e => by cases e

end

/-! ## Handshakes (R46, R47) -/

section
variable {s : State} {pl : Place} {n : Nat} {rails : List Rail} {c : Bool}

theorem State.stage_setStage_same (s : State) (pl : Place) (n : Nat) (x : StageSt) : (s.setStage pl n x).stage pl n = x := Tab.get_set_same ..

theorem State.stage_setStage_ne (s : State) {pl p : Place} {n k : Nat} (x : StageSt) (h : stageKey p k ≠ stageKey pl n) : (s.setStage pl n x).stage p k = s.stage p k :=
  Tab.get_set_ne _ _ h

/-- A detection leaves the stages. -/
theorem State.stage_detect (s : State) (k : Nat) (pl p : Place) (n : Nat) : (s.detect k pl).stage p n = s.stage p n := by
  rw [s.detect_only k pl none]
  rfl

/-- A report of a state whose stages alone differ is a report of the state itself. -/
theorem Detected.of_setStage {t : State} {x : StageSt} {k : Nat} {p : Place} (h : Detected (s.setStage pl n x) t k p) : Detected s t k p := h

/-- With the acknowledge low and every bit valid the word is captured. -/
theorem handshake_captures (ha : (s.stage pl n).ack = false) (hr : ∀ r ∈ rails, r.t ≠ r.f) :
    handshake pl n rails c s = s.setStage pl n (if c then { started := false, ack := false, ticks := 0, word := rails.map (·.t) }
      else { started := true, ack := true, ticks := (s.stage pl n).ticks, word := rails.map (·.t) }) := by
  have hboth : rails.any (fun r => r.t && r.f) = false := List.any_eq_false.2 fun r hm => by have := hr r hm; revert this; cases r.t <;> cases r.f <;> decide
  have hnone : rails.any (fun r => !r.t && !r.f) = false := List.any_eq_false.2 fun r hm => by have := hr r hm; revert this; cases r.t <;> cases r.f <;> decide
  simp only [handshake, ha, hboth, hnone, Bool.false_eq_true, if_false]
  cases c <;> rfl

/-- A bit that stays at spacer leaves the handshake started. -/
theorem handshake_waits (ha : (s.stage pl n).ack = false) (hr : ∀ r ∈ rails, ¬(r.t = true ∧ r.f = true)) (hs : ∃ r ∈ rails, r.t = false ∧ r.f = false) :
    handshake pl n rails c s = s.setStage pl n { s.stage pl n with started := true } := by
  have hboth : rails.any (fun r => r.t && r.f) = false := List.any_eq_false.2 fun r hm e => hr r hm (Bool.and_eq_true_iff.1 e)
  have hnone : rails.any (fun r => !r.t && !r.f) = true := by
    obtain ⟨r, hm, ht, hf⟩ := hs
    exact List.any_eq_true.2 ⟨r, hm, by rw [ht, hf]; rfl⟩
  simp only [handshake, ha, hboth, hnone, Bool.false_eq_true, if_false, if_true]

/-- An acknowledge still high, or an invalid code, is reported, and nothing is captured. -/
theorem handshake_invalid (h : (s.stage pl n).ack = true ∨ ∃ r ∈ rails, r.t = true ∧ r.f = true) :
    ∃ t, exec (.handshakeTransfer pl n rails c) s = .next t ∧ (t.stage pl n).word = (s.stage pl n).word ∧ (t.stage pl n).ack = (s.stage pl n).ack ∧ Detected s t 1 pl ∧
      (∀ p k, stageKey p k ≠ stageKey pl n → t.stage p k = s.stage p k) ∧
      t = { s with regs := t.regs, out := t.out, mills := t.mills, fresh := t.fresh, fab := { s.fab with stages := t.fab.stages } } := by
  refine ⟨_, rfl, ?_⟩
  by_cases ha : (s.stage pl n).ack = true
  · have e : handshake pl n rails c s = s.detect 1 pl := if_pos ha
    rw [e]
    refine ⟨by rw [State.stage_detect], by rw [State.stage_detect], s.detect_detected 1 pl, fun p k _ => s.stage_detect 1 pl p k, ?_⟩
    rw [s.detect_only 1 pl none]
  · have hboth : rails.any (fun r => r.t && r.f) = true := by
      obtain ⟨r, hm, ht, hf⟩ := h.resolve_left ha
      exact List.any_eq_true.2 ⟨r, hm, by rw [ht, hf]; rfl⟩
    have e : handshake pl n rails c s = (s.setStage pl n { s.stage pl n with started := true }).detect 1 pl := by
      unfold handshake
      dsimp only
      rw [if_neg ha, if_pos hboth]
    rw [e]
    generalize hx : ({ s.stage pl n with started := true } : StageSt) = x
    refine ⟨?_, ?_, Detected.of_setStage (State.detect_detected _ 1 pl), fun p k hk => ?_, ?_⟩
    · rw [State.stage_detect, State.stage_setStage_same, ← hx]
    · rw [State.stage_detect, State.stage_setStage_same, ← hx]
    · rw [State.stage_detect, State.stage_setStage_ne _ _ hk]
    · rw [State.detect_only (s.setStage pl n x) 1 pl none]
      rfl

/-! ## The watchdog of a stage (R61, R63) -/

theorem stageStall_reports (hs : (s.stage pl n).started = true) (hw : s.fget F.VANE_WD_STAGE (placeHalf pl) ≤ (s.stage pl n).ticks ∨ s.tickLost (placeHalf pl) = true) :
    ∃ t, exec (.stageStall pl n) s = .next t ∧ Detected s t 2 pl ∧ t = { s with regs := t.regs, out := t.out, mills := t.mills, fresh := t.fresh } :=
  ⟨s.detect 2 pl, if_pos (by simpa [hs] using hw), s.detect_detected 2 pl, s.detect_only 2 pl none⟩

theorem stageStall_quiet (h : (s.stage pl n).started = false ∨ ((s.stage pl n).ticks < s.fget F.VANE_WD_STAGE (placeHalf pl) ∧ s.tickLost (placeHalf pl) = false)) :
    exec (.stageStall pl n) s = .next s := by
  refine if_neg ?_
  rcases h with hs | ⟨hw, hl⟩
  · simp [hs]
  · simp [hl, hw]

end

end Sys2Proof.Machine
end

section

/-!
PROOF. What the operations that end an aborted request leave (R185, R190, R503 to R508, R596, R598): the outputs so far, the count and the cause of aborted waits and
CANAL_FAULT stay, whatever a stone, a hopper, Vorak or the Millhouse makes of the error response.
-/

namespace Sys2Proof.Machine

/-! ## Outputs are added -/

/-- Outputs are only added. -/
def Sends (s t : State) : Prop := ∃ l, t.out = s.out ++ l

theorem Sends.of_eq {s t : State} (h : t.out = s.out) : Sends s t := ⟨[], by rw [h, List.append_nil]⟩

theorem Sends.trans {s t u : State} (h : Sends s t) (k : Sends t u) : Sends s u := by
  obtain ⟨l, hl⟩ := h
  obtain ⟨m, hm⟩ := k
  exact ⟨l ++ m, by rw [hm, hl, List.append_assoc]⟩

theorem State.raise_sends (s : State) (t i b : Nat) : Sends s (s.raise t i b) := by
  obtain ⟨l, e⟩ := s.raise_eq t i b
  exact ⟨l, by rw [e]; rfl⟩

/-- Two states agree in all but queues and outputs, and outputs are only added. -/
def OnQueues (s t : State) : Prop := Sends s t ∧ t = { s with qs := t.qs, out := t.out }

theorem OnQueues.refl (s : State) : OnQueues s s := ⟨Sends.of_eq rfl, rfl⟩

theorem OnQueues.trans {s t u : State} (h : OnQueues s t) (k : OnQueues t u) : OnQueues s u := ⟨h.1.trans k.1, by rw [k.2, h.2]⟩

theorem OnQueues.vk {s t : State} (h : OnQueues s t) : t.vk = s.vk := by rw [h.2]
theorem OnQueues.regs {s t : State} (h : OnQueues s t) : t.regs = s.regs := by rw [h.2]
theorem OnQueues.fuse {s t : State} (h : OnQueues s t) : t.fuse = s.fuse := by rw [h.2]

section
variable (s : State)

theorem State.setQueue_onQueues (id : Nat) (q : Queue) : OnQueues s (s.setQueue id q) := ⟨Sends.of_eq rfl, rfl⟩
theorem State.setPoolUsed_onQueues (k v : Nat) : OnQueues s (s.setPoolUsed k v) := ⟨Sends.of_eq rfl, rfl⟩
theorem State.nextItem_onQueues : OnQueues s s.nextItem.1 := ⟨Sends.of_eq rfl, rfl⟩
theorem State.nextSeen_onQueues : OnQueues s s.nextSeen.1 := ⟨Sends.of_eq rfl, rfl⟩

theorem State.qNotice_onQueues (id n : Nat) : OnQueues s (s.qNotice id n) := by
  unfold State.qNotice
  split
  · exact ⟨⟨_, rfl⟩, rfl⟩
  · exact OnQueues.refl s

theorem State.qTailGap_onQueues (id : Nat) : OnQueues s (s.qTailGap id) := by
  unfold State.qTailGap
  dsimp only
  split
  · exact ((s.nextItem_onQueues.trans (State.nextSeen_onQueues _)).trans (State.setQueue_onQueues ..)).trans (State.qNotice_onQueues ..)
  · exact OnQueues.refl s

theorem State.qReach_onQueues (id : Nat) : OnQueues s (s.qReach id) := by
  unfold State.qReach
  dsimp only
  split
  · exact s.qTailGap_onQueues id
  · exact OnQueues.refl s

theorem State.freeCells_onQueues (id : Nat) (l : List QItem) : OnQueues s (s.freeCells id l) :=
  foldl_rel OnQueues.refl OnQueues.trans l (fun t _ _ => t.setPoolUsed_onQueues ..) s

theorem State.qRemove_onQueues (id : Nat) (p : QItem → Bool) : OnQueues s (s.qRemove id p) :=
  ((s.freeCells_onQueues ..).trans (State.setQueue_onQueues ..)).trans (State.qReach_onQueues ..)

theorem State.qPut_onQueues (id half : Nat) (it : QItem) : OnQueues s (s.qPut id half it none) :=
  (((((s.nextItem_onQueues.trans (State.nextItem_onQueues _)).trans (State.nextSeen_onQueues _)).trans (State.setQueue_onQueues ..)).trans
    (State.setPoolUsed_onQueues ..)).trans (State.qNotice_onQueues ..))

theorem State.passPacket_onQueues (p j tag : Nat) (data : List Byte) : OnQueues s (s.passPacket p j tag data) :=
  (s.qPut_onQueues ..).trans (State.qRemove_onQueues ..)

/-! ## Completions (R503, R508, R519) -/

theorem State.ringMsg_sends (p r : Nat) : Sends s (s.ringMsg p r) := by
  have h : ∀ fn vec, Sends s (s.msi fn vec) := fun fn vec => by
    obtain ⟨l, e⟩ := s.msi_emits fn vec
    exact ⟨l, by rw [e]; rfl⟩
  unfold State.ringMsg
  split <;> exact h ..

theorem State.ringMsg_vk (p r : Nat) : (s.ringMsg p r).vk = s.vk := by
  have h : ∀ fn vec, (s.msi fn vec).vk = s.vk := fun fn vec => by
    obtain ⟨l, e⟩ := s.msi_emits fn vec
    rw [e]
    rfl
  unfold State.ringMsg
  split <;> exact h ..

theorem State.setRing_cmds (p r : Nat) (x : RingSt) : (s.setRing p r x).vk.cmds = s.vk.cmds := rfl

theorem completionBytes_length (c : VCmd) (phase : Bool) (st r e pr d : Nat) : (completionBytes c phase st r e pr d).length = 32 := by
  simp [completionBytes, leBytes_length]

theorem completionBytes_head (c : VCmd) (phase : Bool) (st r e pr d : Nat) : (completionBytes c phase st r e pr d).take 3 = leBytes 2 c.tag ++ leBytes 1 st := by
  simp only [completionBytes, List.append_assoc]
  rw [← List.append_assoc, List.take_left' (by simp [leBytes_length])]

/-- Where the next completion of a ring is written. -/
def State.cqAddr (s : State) (p r : Nat) : Nat := s.fget F.CQ_BASE_HI_BASE p r * 2 ^ 32 + s.fget F.CQ_BASE_LO_BASE p r * 2 ^ 12 + 32 * (s.ring p r).cqTail

/-- A completion is written to memory, and no command in execution changes. -/
theorem State.writeCompletion_writes (c : VCmd) (st r e pr d : Nat) :
    (s.writeCompletion c st r e pr d).vk.cmds = s.vk.cmds ∧ ∃ l addr phase, (s.writeCompletion c st r e pr d).out = s.out ++ l ∧
      Out.dmaWrite c.polder addr (completionBytes c phase st r e pr d) ∈ l := by
  unfold State.writeCompletion
  dsimp only
  split
  · rw [State.ringMsg_vk]
    refine ⟨rfl, ?_⟩
    generalize hu : State.setRing _ _ _ _ = u
    have hout : u.out = s.out ++ [.dmaWrite c.polder (s.cqAddr c.polder c.ring) (completionBytes c (s.ring c.polder c.ring).phase st r e pr d)] := by rw [← hu]; rfl
    obtain ⟨l, hl⟩ := u.ringMsg_sends c.polder c.ring
    exact ⟨_ :: l, s.cqAddr c.polder c.ring, (s.ring c.polder c.ring).phase, by rw [hl, hout, List.append_assoc]; rfl, List.mem_cons_self ..⟩
  · exact ⟨rfl, [_], s.cqAddr c.polder c.ring, (s.ring c.polder c.ring).phase, rfl, List.mem_singleton.2 rfl⟩

/-- The state of a completion before its entry is written. -/
def State.leaving (s : State) (c : VCmd) (data : List Byte) : State :=
  ((s.setCmds (s.vk.cmds.filter fun x => !(x.order == c.order))).qRemove (qPriv c.polder 0) fun i => i.tag == cmdTag c && i.done && !i.gap).passPacket c.polder 1 (cmdTag c) data

theorem State.leaving_onQueues (c : VCmd) (data : List Byte) :
    OnQueues (s.setCmds (s.vk.cmds.filter fun x => !(x.order == c.order))) (s.leaving c data) :=
  (State.qRemove_onQueues ..).trans (State.passPacket_onQueues ..)

theorem State.leaving_cmds (c : VCmd) (data : List Byte) : (s.leaving c data).vk.cmds = s.vk.cmds.filter fun x => !(x.order == c.order) := by
  rw [(s.leaving_onQueues c data).vk]
  rfl

theorem State.leaving_sends (c : VCmd) (data : List Byte) : Sends s (s.leaving c data) := (s.leaving_onQueues c data).1

end

/-- A command that is the only one of its order completes with its status, or ABORTED where it was aborted. -/
theorem State.complete_completedWith {s : State} {c : VCmd} {p ring tag st : Nat} (hst : st ≠ 8) (hf : s.findCmd p ring tag = some c)
    (hone : ∀ x ∈ s.vk.cmds, x.order = c.order → x = c) : CompletedWith s (s.complete c st) c st := by
  have hmem : c ∈ s.vk.cmds := List.mem_of_find?_eq_some hf
  have hx : (s.vk.cmds.find? fun y => y.order == c.order).getD c = c := by
    cases e : s.vk.cmds.find? fun y => y.order == c.order with
    | none => rfl
    | some y => exact hone y (List.mem_of_find?_eq_some e) (beq_iff_eq.1 (List.find?_some (p := fun y : VCmd => y.order == c.order) e))
  have hab : (c.aborted && st != 8) = c.aborted := by rw [bne_iff_ne.2 hst, Bool.and_true]
  obtain ⟨l0, hl0⟩ := s.leaving_sends c (completionBytes c false st 0 0 0 0)
  have hgone : ∀ x ∈ (s.leaving c (completionBytes c false st 0 0 0 0)).vk.cmds, x.order ≠ c.order := by
    rw [State.leaving_cmds]
    intro x hxm e
    have := (List.mem_filter.1 hxm).2
    simp [e] at this
  have hwrite : ∀ st' r e pr, let t := (s.leaving c (completionBytes c false st 0 0 0 0)).writeCompletion c st' r e pr 0
      (∀ x ∈ t.vk.cmds, x.order ≠ c.order) ∧ ∃ l addr bytes, t.out = s.out ++ l ∧ Out.dmaWrite c.polder addr bytes ∈ l ∧ bytes.length = 32 ∧
        bytes.take 3 = leBytes 2 c.tag ++ leBytes 1 st' := by
    intro st' r e pr
    obtain ⟨hcmds, l, addr, phase, hout, hin⟩ := (s.leaving c (completionBytes c false st 0 0 0 0)).writeCompletion_writes c st' r e pr 0
    refine ⟨by rw [hcmds]; exact hgone, l0 ++ l, addr, _, ?_, List.mem_append_right _ hin, completionBytes_length .., completionBytes_head ..⟩
    rw [hout, hl0, List.append_assoc]
  unfold State.complete
  dsimp only
  rw [hx, hab]
  change CompletedWith s (if c.silent = true then s.leaving c (completionBytes c false st 0 0 0 0) else _) c st
  cases hs : c.silent
  · rw [if_neg Bool.false_ne_true]
    cases ha : c.aborted
    · rw [if_neg Bool.false_ne_true]
      obtain ⟨hcmds, l, addr, bytes, ho, hm, hlen, htake⟩ := hwrite st 0 0 0
      exact ⟨hcmds, fun _ => ⟨l, addr, bytes, ho, hm, hlen, by rw [htake, ha]; rfl⟩⟩
    · rw [if_pos rfl]
      obtain ⟨hcmds, l, addr, bytes, ho, hm, hlen, htake⟩ := hwrite 8 _ _ _
      exact ⟨hcmds, fun _ => ⟨l, addr, bytes, ho, hm, hlen, by rw [htake, ha]; rfl⟩⟩
  · rw [if_pos rfl]
    exact ⟨hgone, fun h => by rw [hs] at h; cases h⟩

end Sys2Proof.Machine
end

section

/-!
PROOF. WAIT_STALL (R62, R63, R90, R596): which wait is aborted, what its request's error response does, and the statement on handshakes and stalls.
-/

namespace Sys2Proof.Machine

/-! ## Which wait is aborted (R596) -/

/-- A wait began no earlier than another, and at equal times its unit is not the higher. -/
def NoEarlier (a b : Waiter) : Prop := a.ticks ≤ b.ticks ∧ (a.ticks = b.ticks → unitNo a.who ≤ unitNo b.who)

theorem NoEarlier.refl (a : Waiter) : NoEarlier a a := ⟨le_rfl, fun _ => le_rfl⟩

theorem NoEarlier.trans {a b c : Waiter} (h : NoEarlier a b) (k : NoEarlier b c) : NoEarlier a c := by
  obtain ⟨h1, h2⟩ := h
  obtain ⟨k1, k2⟩ := k
  exact ⟨h1.trans k1, fun e => (h2 (by omega)).trans (k2 (by omega))⟩

theorem laterWaiter_mem (a b : Waiter) : laterWaiter a b = a ∨ laterWaiter a b = b := by
  unfold laterWaiter
  split_ifs <;> simp

theorem laterWaiter_noEarlier (a b : Waiter) : NoEarlier (laterWaiter a b) a ∧ NoEarlier (laterWaiter a b) b := by
  unfold laterWaiter NoEarlier
  split_ifs <;> omega

theorem foldl_laterWaiter (l : List Waiter) : ∀ a, l.foldl laterWaiter a ∈ a :: l ∧ ∀ v ∈ a :: l, NoEarlier (l.foldl laterWaiter a) v := by
  induction l with
  | nil => exact fun a => ⟨List.mem_cons_self .., fun v hv => by rw [List.mem_singleton.1 hv]; exact NoEarlier.refl a⟩
  | cons b l ih =>
    intro a
    obtain ⟨hmem, hle⟩ := ih (laterWaiter a b)
    obtain ⟨ha, hb⟩ := laterWaiter_noEarlier a b
    have hfirst := hle _ (List.mem_cons_self ..)
    refine ⟨?_, fun v hv => ?_⟩
    · rcases List.mem_cons.1 hmem with e | hm
      · rw [List.foldl_cons, e]
        rcases laterWaiter_mem a b with e' | e' <;> rw [e'] <;> simp
      · exact List.mem_cons_of_mem _ (List.mem_cons_of_mem _ hm)
    · rcases List.mem_cons.1 hv with rfl | hv
      · exact hfirst.trans ha
      · rcases List.mem_cons.1 hv with rfl | hv
        · exact hfirst.trans hb
        · exact hle v (List.mem_cons_of_mem _ hv)

/-- Has a wait counted half of its watchdog, or lost its tick? -/
def State.halfCounted (s : State) (w : Waiter) : Prop := s.fget F.VANE_WD_WAIT w.half ≤ 2 * w.ticks ∨ s.tickLost w.half = true

/-- Of the waits that have counted half of their watchdog the one that began last is chosen. -/
theorem State.abortChoice_some {s : State} {l : List Waiter} {w0 : Waiter} (hm : w0 ∈ l) (h0 : s.halfCounted w0) :
    ∃ w, s.abortChoice l = some w ∧ w ∈ l ∧ s.halfCounted w ∧ ∀ v ∈ l, s.halfCounted v → NoEarlier w v := by
  have hfilter : ∀ v, v ∈ l.filter (fun w => decide (s.fget F.VANE_WD_WAIT w.half ≤ 2 * w.ticks) || s.tickLost w.half) ↔ v ∈ l ∧ s.halfCounted v := by
    intro v
    simp [State.halfCounted]
  cases hc : l.filter fun w => decide (s.fget F.VANE_WD_WAIT w.half ≤ 2 * w.ticks) || s.tickLost w.half with
  | nil =>
    have h := (hfilter w0).2 ⟨hm, h0⟩
    rw [hc] at h
    exact absurd h List.not_mem_nil
  | cons a c =>
    rw [hc] at hfilter
    obtain ⟨hin, hle⟩ := foldl_laterWaiter c a
    obtain ⟨hl, hh⟩ := (hfilter _).1 hin
    exact ⟨_, by rw [State.abortChoice, hc], hl, hh, fun v hv hhv => hle v ((hfilter v).2 ⟨hv, hhv⟩)⟩

/-! ## What stays of an abort's records -/

/-- Outputs are only added, and the count of aborted waits, its cause and every CANAL_FAULT stay. -/
structure StaysNoted (s t : State) : Prop where
  sends : Sends s t
  count : t.fget F.RAS_COUNTS_WAIT_ABORT 0 = s.fget F.RAS_COUNTS_WAIT_ABORT 0
  cause : causeSet s T.ras 0 I.RAS_WAIT_ABORT → causeSet t T.ras 0 I.RAS_WAIT_ABORT
  fault : ∀ r, t.rd T.row r 0xC48 = s.rd T.row r 0xC48

theorem regAddr_mod (t i o : Nat) : regAddr t i o % 4096 = o % 4096 := by
  unfold regAddr
  omega

/-- Registers at different places of a page are different, whatever the pages. -/
theorem regAddr_ne_of_mod {t i o t' i' o' : Nat} (h : o % 4096 ≠ o' % 4096) : regAddr t i o ≠ regAddr t' i' o' := fun e =>
  h (by rw [← regAddr_mod t i o, e, regAddr_mod])

section
variable {s t u : State}

theorem StaysNoted.trans (h : StaysNoted s t) (k : StaysNoted t u) : StaysNoted s u :=
  ⟨h.sends.trans k.sends, k.count.trans h.count, fun c => k.cause (h.cause c), fun r => (k.fault r).trans (h.fault r)⟩

theorem StaysNoted.of_regs (hr : t.regs = s.regs) (hf : t.fuse = s.fuse) (ho : Sends s t) : StaysNoted s t := by
  have hrd : ∀ ty i o, t.rd ty i o = s.rd ty i o := fun ty i o => by rw [State.rd, hr, hf, State.rd]
  exact ⟨ho, by rw [State.fget, hrd, State.fget], fun c => c.keep (hrd ..), fun r => hrd ..⟩

theorem StaysNoted.refl (s : State) : StaysNoted s s := .of_regs rfl rfl (Sends.of_eq rfl)

theorem StaysNoted.ite {c : Prop} [Decidable c] (ht : StaysNoted s t) (hu : StaysNoted s u) : StaysNoted s (if c then t else u) := by
  split
  · exact ht
  · exact hu

theorem OnQueues.staysNoted (h : OnQueues s t) : StaysNoted s t := .of_regs h.regs h.fuse h.1

theorem StaysNoted.wr {o : Nat} (ty i v : Nat) (h : o % 4096 ∉ [0x18, 0x5C, 0xC48]) : StaysNoted s (s.wr ty i o v) := by
  simp only [List.mem_cons, List.not_mem_nil, or_false, not_or] at h
  obtain ⟨h1, h2, h3⟩ := h
  refine ⟨Sends.of_eq rfl, State.fget_wr_ne s _ _ _ _ ?_, fun c => c.keep (State.rd_wr_ne s _ ?_), fun r => State.rd_wr_ne s _ ?_⟩ <;>
    exact regAddr_ne_of_mod (Ne.symm (by assumption))

theorem StaysNoted.fset (f : Fld) (i v : Nat) (h : (f.off + 0 * f.stride) % 4096 ∉ [0x18, 0x5C, 0xC48]) : StaysNoted s (s.fset f i v) := .wr _ _ _ h

theorem StaysNoted.raise (ty i b : Nat) : StaysNoted s (s.raise ty i b) :=
  ⟨s.raise_sends ty i b, s.fget_raise_ne _ _ _ (regAddr_ne_of_mod (by decide)), fun c => c.raise ty i b, fun r => s.rd_raise_ne (regAddr_ne_of_mod (by decide))⟩

end

/-! ## The error response at a stone (R130, R138) -/

/-- Two states agree in all but stones and the free values taken. -/
def StonesAndFresh (s t : State) : Prop := t = { s with stones := t.stones, fresh := t.fresh }

theorem StonesAndFresh.refl (s : State) : StonesAndFresh s s := rfl

theorem StonesAndFresh.trans {s t u : State} (h : StonesAndFresh s t) (k : StonesAndFresh t u) : StonesAndFresh s u := by
  unfold StonesAndFresh at h k ⊢
  rw [k, h]

theorem State.upStone_only (s : State) (n : Nat) (f : Stone → Stone) : StonesAndFresh s (s.upStone n f) := rfl

theorem StonesAndFresh.fab {s t : State} (h : StonesAndFresh s t) : t.fab = s.fab := by rw [h]

theorem StonesAndFresh.staysNoted {s t : State} (h : StonesAndFresh s t) : StaysNoted s t := .of_regs (by rw [h]) (by rw [h]) (Sends.of_eq (by rw [h]))

theorem State.farFree_only (s : State) (n : Nat) (f : FarAcc) : StonesAndFresh s (s.farFree n f) := by
  unfold State.farFree
  exact foldl_rel StonesAndFresh.refl StonesAndFresh.trans (farDest f) (fun t _ _ => StonesAndFresh.trans (t := t.takeFree.2) rfl (State.upStone_only ..)) s

theorem State.farFail_only (s : State) (n : Nat) (f : FarAcc) : StonesAndFresh s (s.farFail n f) := (s.farFree_only n f).trans (State.upStone_only ..)

theorem State.stone_upStone (s : State) (n : Nat) (g : Stone → Stone) : (s.upStone n g).stone n = g (s.stone n) := Tab.get_set_same ..

/-- A far access that fails leaves a fault raised as its stone stands, in a handler or outside. -/
theorem State.farFail_faults (s : State) (n : Nat) (f : FarAcc) :
    ∃ l, ((s.farFail n f).stone n).faults = l ++ [⟨7, f.ea, 0, ((s.farFail n f).stone n).handler⟩] := by
  rw [State.farFail, State.stone_upStone]
  exact ⟨_, rfl⟩

/-- Freeing the contexts that have drained leaves the faults and the handler. -/
theorem Stone.freeDrained_faults (x : Stone) : x.freeDrained.faults = x.faults ∧ x.freeDrained.handler = x.handler := by
  suffices h : ∀ (l : List Nat) (y : Stone), y.faults = x.faults ∧ y.handler = x.handler →
      (l.foldl (fun y c => if (y.cx c).st = .draining ∧ !y.farOf c ∧ y.running ≠ some c then y.setCx c { y.cx c with st := .free } else y) y).faults = x.faults ∧
      (l.foldl (fun y c => if (y.cx c).st = .draining ∧ !y.farOf c ∧ y.running ≠ some c then y.setCx c { y.cx c with st := .free } else y) y).handler = x.handler from
    h (List.range 3) x ⟨rfl, rfl⟩
  intro l
  induction l with
  | nil => exact fun y h => h
  | cons c l ih =>
    intro y h
    rw [List.foldl_cons]
    apply ih
    split
    · exact h
    · exact h

/-- A far access that fails leaves a fault that may be taken, so no bundle issues. -/
theorem State.farDone_fails (s : State) (n k : Nat) (f : FarAcc) (up : WordUpset) : StonesAndFresh s (s.farDone n k f up true) := by
  generalize hs1 : (s.upStone n fun x => { x with far := x.far.eraseIdx k }) = s1
  have hfault : (((s1.farFail n f).upStone n Stone.freeDrained).stone n).nextFault ≠ none := by
    rw [State.stone_upStone]
    obtain ⟨hf, hh⟩ := ((s1.farFail n f).stone n).freeDrained_faults
    obtain ⟨l, hl⟩ := s1.farFail_faults n f
    rw [Stone.nextFault, hf, hh, hl]
    intro e
    have := List.find?_eq_none.1 e _ (List.mem_append_right _ (List.mem_singleton.2 rfl))
    revert this
    cases ((s1.farFail n f).stone n).handler <;> simp
  have e : s.farDone n k f up true = (s1.farFail n f).upStone n Stone.freeDrained := by
    obtain ⟨x, hx⟩ := Option.ne_none_iff_exists'.1 hfault
    unfold State.farDone
    dsimp only
    rw [hs1, if_pos rfl, if_neg]
    rw [hx]
    simp
  rw [e]
  exact ((hs1 ▸ s.upStone_only ..).trans (s1.farFail_only n f)).trans (State.upStone_only ..)

/-! ## The error response at the hopper (R185, R190) -/

section
variable (s : State)

theorem State.upSch_staysNoted (f : Sched → Sched) : StaysNoted s (s.upSch f) := .of_regs rfl rfl (Sends.of_eq rfl)

theorem State.emits_staysNoted (l : List Out) : StaysNoted s (s.emits l) := .of_regs rfl rfl ⟨l, rfl⟩

theorem State.emit_staysNoted (o : Out) : StaysNoted s (s.emit o) := s.emits_staysNoted [o]

theorem State.cinc_staysNoted (c : Ctr) (i n x : Nat) : StaysNoted s (s.cinc c i n x) := .of_regs rfl rfl (Sends.of_eq rfl)

theorem State.setFetch_staysNoted (f : Fetch) (w : WU) : StaysNoted s (s.setFetch f w) := by
  unfold State.setFetch
  split
  · exact s.upSch_staysNoted _
  · exact s.upSch_staysNoted _

theorem State.hopperErr_staysNoted (m cls kind : Nat) : StaysNoted s (s.hopperErr m cls kind) :=
  ((StaysNoted.fset _ _ _ (by decide)).trans (StaysNoted.fset _ _ _ (by decide))).trans (StaysNoted.fset _ _ _ (by decide))

theorem State.qTake_staysNoted (id wu : Nat) (ids : List Nat) : StaysNoted s (s.qTake id wu ids) := (s.setQueue_onQueues ..).staysNoted

theorem State.takeInputs_staysNoted (n wu : Nat) (w : WU) : StaysNoted s (s.takeInputs n wu w).1 :=
  (foldl_rel StaysNoted.refl StaysNoted.trans _ (fun t id _ => (t.qTailGap_onQueues id).staysNoted) s).trans
    (foldl_rel StaysNoted.refl StaysNoted.trans _ (fun t _ _ => t.qTake_staysNoted ..) _)

theorem State.sealUnit_staysNoted (n wu : Nat) (w : WU) (status slot : Option Nat) (f : SealEntry → SealEntry) : StaysNoted s (s.sealUnit n wu w status slot f) := by
  have hfail : ∀ (u : State) (h c v : Nat), StaysNoted u (((((u.finc F.MILLER_FAILED_FAILED h).fset F.MILLER_LASTFAIL_VALID h 1).fset F.MILLER_LASTFAIL_CLASS h c).fset
      F.MILLER_LASTFAIL_STATUS h v).raise T.miller h I.MILLER_WU_FAILED) := fun u h c v =>
    ((((StaysNoted.fset _ _ _ (by decide)).trans (.fset _ _ _ (by decide))).trans (.fset _ _ _ (by decide))).trans (.fset _ _ _ (by decide))).trans (.raise ..)
  have hon : ∀ l, StaysNoted s ((s.setLog (s.roleOfStone n) l).eraseWu wu) := fun l => (s.upSch_staysNoted _).trans (State.upSch_staysNoted ..)
  have hlate : ∀ l, StaysNoted s ((((s.setLog (s.roleOfStone n) l).eraseWu wu).cinc C.MILLER_MISS (n / 640)).raise T.miller (n / 640) I.MILLER_DEADLINE_MISS) :=
    fun l => ((hon l).trans (State.cinc_staysNoted ..)).trans (.raise ..)
  unfold State.sealUnit
  cases status with
  | none => exact StaysNoted.ite (hlate _) (hon _)
  | some v => exact (StaysNoted.ite (hlate _) (hon _)).trans (hfail ..)

theorem State.qAppend_staysNoted (id half : Nat) (it : QItem) : StaysNoted s (s.qAppend id half it none).1 := by
  unfold State.qAppend
  dsimp only
  split
  · have h : ∀ q p, StaysNoted s (((s.setQueue id q).spill C.SPILL_QFULL p).qReach id) := fun q p =>
      ((s.setQueue_onQueues id q).staysNoted.trans (State.cinc_staysNoted ..)).trans (State.qReach_onQueues ..).staysNoted
    dsimp only
    split
    · exact (h ..).trans (.raise ..)
    · exact h ..
  · exact (s.qPut_onQueues ..).staysNoted

theorem State.notice_staysNoted (p code handle detail : Nat) : StaysNoted s (s.notice p code handle detail) := by
  unfold State.notice
  dsimp only
  split
  · exact s.qAppend_staysNoted ..
  · exact (s.qAppend_staysNoted ..).trans (.raise ..)

theorem State.fetchPoisoned_staysNoted (n : Nat) (f : Fetch) : StaysNoted s (s.fetchPoisoned n f) := by
  unfold State.fetchPoisoned
  split
  · exact s.setFetch_staysNoted ..
  · exact (((s.hopperErr_staysNoted ..).trans (State.takeInputs_staysNoted ..)).trans (State.sealUnit_staysNoted ..)).trans (State.notice_staysNoted ..)

/-! ## The error response at Vorak (R503, R508) -/

theorem State.complete_staysNoted (c : VCmd) (st : Nat) : StaysNoted s (s.complete c st) := by
  have hwrite : ∀ (u : State) st r e pr d, Sends s u → Sends s (u.writeCompletion c st r e pr d) := fun u st r e pr d h => by
    obtain ⟨l, _, _, hl, _⟩ := (u.writeCompletion_writes c st r e pr d).2
    exact h.trans ⟨l, hl⟩
  have hrel := s.complete_rel c st 0 0 0 0
  refine .of_regs (by rw [hrel]) (by rw [hrel]) ?_
  have hleave := s.leaving_sends c (completionBytes c false st 0 0 0 0)
  unfold State.complete
  dsimp only
  split
  · exact hleave
  · split
    · exact hwrite _ _ _ _ _ _ hleave
    · exact hwrite _ _ _ _ _ _ hleave

/-! ## The error response at the Millhouse (R596, R598) -/

theorem State.upRas_staysNoted (f : RasSt → RasSt) : StaysNoted s (s.upRas f) := .of_regs rfl rfl (Sends.of_eq rfl)

theorem State.offerFlit_staysNoted (r q : Nat) (f : Flit) : StaysNoted s (s.offerFlit r q f) := by
  have h : s.offerFlit r q f = { s with fab := (s.offerFlit r q f).fab } := by
    unfold State.offerFlit
    split <;> rfl
  exact .of_regs (by rw [h]) (by rw [h]) (Sends.of_eq (by rw [h]))

theorem State.lockPush_staysNoted (h n : Nat) (w : LWord) : StaysNoted s (s.lockPush h n w) := by
  have hlock : ∀ (u : State) x, StaysNoted u (u.setLock h n x) := fun _ _ => .of_regs rfl rfl (Sends.of_eq rfl)
  have hwait : ∀ (u : State) on who, StaysNoted u (u.beginWait h on who) := fun _ _ _ => .of_regs rfl rfl (Sends.of_eq rfl)
  have hhold : StaysNoted s (s.lockHold h n w) := (hlock s _).trans (hwait ..)
  have hwake : ∀ u : State, StaysNoted u (u.raiseWake h n) := fun u => (hlock u _).trans (State.emit_staysNoted ..)
  unfold State.lockPush
  dsimp only
  split
  · exact .ite (hlock ..) hhold
  · exact .ite (hlock ..) (hhold.trans (hwake _))
  · exact .ite (s.emit_staysNoted _) (.refl s)
  · exact .ite (s.emit_staysNoted _) (.refl s)
  · exact hhold.trans (hwake _)

theorem State.rasLog_out (kind cls typ inst detail : Nat) : (s.rasLog kind cls typ inst detail).out = s.out := by
  unfold State.rasLog
  split
  · rfl
  · rw [State.finc_out]

theorem State.rasLog_staysNoted (kind cls typ inst detail : Nat) : StaysNoted s (s.rasLog kind cls typ inst detail) := by
  unfold State.rasLog
  split
  · exact .of_regs rfl rfl (Sends.of_eq rfl)
  · exact .fset _ _ _ (by decide)

/-- The count of device faults stands beside that of aborted waits. -/
theorem State.finc_device_staysNoted : StaysNoted s (s.finc F.RAS_COUNTS_DEVICE 0) :=
  ⟨Sends.of_eq rfl, s.fget_finc_clear (by decide) (by decide), fun c => c.keep (s.rd_wr_ne _ (regAddr_ne_of_mod (by decide))),
    fun _ => s.rd_wr_ne _ (regAddr_ne_of_mod (by decide))⟩

theorem State.failStop_staysNoted : StaysNoted s s.failStop := by
  unfold State.failStop
  dsimp only
  split
  · exact (StaysNoted.fset F.RAS_STAT_FAIL_STOPPED 0 1 (by decide)).trans (State.emits_staysNoted ..)
  · exact .refl s

/-- The state of a device fault before fail-stop (R598). -/
def State.deviceNoted (s : State) (kind typ inst detail : Nat) : State :=
  ((((s.rasLog kind 2 typ inst detail).finc F.RAS_COUNTS_DEVICE 0).fset F.RAS_STAT_DEVICE_FAULT 0 1).raise T.ras 0 I.RAS_DEVICE_FAULT).faultRecord kind typ inst detail

theorem State.deviceFault_eq (kind typ inst detail : Nat) : s.deviceFault kind typ inst detail =
    if s.fbit F.RAS_CTRL_FAIL_STOP 0 then ((s.deviceNoted kind typ inst detail).upRas fun r => { r with stopping := true }).failStop else s.deviceNoted kind typ inst detail := rfl

theorem State.faultRecord_staysNoted (kind typ inst detail : Nat) : StaysNoted s (s.faultRecord kind typ inst detail) :=
  .of_regs (s.faultRecord_regs ..) (s.faultRecord_fuse ..) (Sends.of_eq rfl)

theorem State.deviceFault_staysNoted (kind typ inst detail : Nat) : StaysNoted s (s.deviceFault kind typ inst detail) := by
  have h : StaysNoted s (s.deviceNoted kind typ inst detail) :=
    ((((s.rasLog_staysNoted ..).trans (State.finc_device_staysNoted _)).trans (.fset F.RAS_STAT_DEVICE_FAULT 0 1 (by decide))).trans (.raise ..)).trans
      (State.faultRecord_staysNoted ..)
  rw [State.deviceFault_eq]
  exact .ite ((h.trans (State.upRas_staysNoted ..)).trans (State.failStop_staysNoted _)) h

/-- Fail-stop leaves DEVICE_FAULT. -/
theorem State.failStop_deviceFault : s.failStop.fget F.RAS_STAT_DEVICE_FAULT 0 = s.fget F.RAS_STAT_DEVICE_FAULT 0 := by
  unfold State.failStop
  dsimp only
  split
  · rw [State.emits_fget, State.fget_fset_clear _ (by decide) (by decide)]
  · rfl

/-- A device fault reads in RAS_STAT (R598). -/
theorem State.deviceFault_stat (kind typ inst detail : Nat) : (s.deviceFault kind typ inst detail).fget F.RAS_STAT_DEVICE_FAULT 0 = 1 := by
  have h : (s.deviceNoted kind typ inst detail).fget F.RAS_STAT_DEVICE_FAULT 0 = 1 := by
    unfold State.deviceNoted
    rw [State.fget, State.faultRecord_rd, ← State.fget, State.fget_raise_ne _ _ _ _ (by decide), State.fget_fset_same _ _ _ _ _ (by decide)]
    decide
  rw [State.deviceFault_eq]
  split
  · rw [State.failStop_deviceFault, State.upRas_fget]
    exact h
  · exact h

theorem State.millhouseAborted_staysNoted (w : Waiter) (again : Bool) : StaysNoted s (s.millhouseAborted w again) := by
  unfold State.millhouseAborted
  dsimp only
  split
  · exact s.deviceFault_staysNoted ..
  · split
    · exact (s.upRas_staysNoted _).trans (State.offerFlit_staysNoted ..)
    · exact (s.upRas_staysNoted _).trans (State.lockPush_staysNoted ..)
    · exact s.upRas_staysNoted _

/-- Whatever the requester makes of the error response, the abort's records stay (R596). -/
theorem State.abortResult_staysNoted (w : Waiter) (again : Bool) : StaysNoted s (s.abortResult w again) := by
  unfold State.abortResult
  split
  · split
    · exact (s.farDone_fails ..).staysNoted
    · exact .refl s
  · split
    · exact s.fetchPoisoned_staysNoted ..
    · exact .refl s
  · split
    · exact s.complete_staysNoted ..
    · exact .refl s
  · exact s.millhouseAborted_staysNoted ..
  · exact .refl s

/-! ## The wait that ends -/

/-- Two states agree in all but the fabric and the RAS block's own state. -/
def FabAndRas (s t : State) : Prop := t = { s with fab := t.fab, ras := t.ras }

theorem FabAndRas.refl (s : State) : FabAndRas s s := rfl

theorem FabAndRas.trans {s t u : State} (h : FabAndRas s t) (k : FabAndRas t u) : FabAndRas s u := by
  unfold FabAndRas at h k ⊢
  rw [k, h]

theorem State.serveWaits_only (r q : Nat) : FabAndRas s (s.serveWaits r q) := by
  unfold State.serveWaits
  refine foldl_rel FabAndRas.refl FabAndRas.trans _ (fun u w _ => ?_) s
  split
  · split
    · exact FabAndRas.trans (t := u.enterLane r q _) rfl rfl
    · exact FabAndRas.refl u
  · exact FabAndRas.refl u

theorem State.dropWait_only (w : Waiter) : FabAndRas s (s.dropWait w) := by
  have hend : FabAndRas s (s.endWait w) := rfl
  unfold State.dropWait
  dsimp only
  split
  · split
    · exact hend.trans rfl
    · split
      · split
        · split
          · exact (hend.trans (t := s.endWait w) (u := State.setLane ..) rfl).trans (State.serveWaits_only ..)
          · exact hend
        · exact hend
      · exact hend
  · exact hend

/-- A wait that is on no lock only ends. -/
theorem State.dropWait_unlocked {w : Waiter} (h : ∀ hh k x, w.on ≠ .lock hh k x) : s.dropWait w = s.endWait w := by
  unfold State.dropWait
  dsimp only
  split
  next hh k x e => exact absurd e (h hh k x)
  next => rfl

end

end Sys2Proof.Machine
end

section

/-!
PROOF. An aborted wait (R64, R90, R596) and the statement on handshakes and stalls.
-/

namespace Sys2Proof.Machine

/-! ## The detection of a stalled wait (R64, R90) -/

/-- The state after the detection of a stalled wait. -/
def State.waitDetected (s : State) (w : Waiter) : State := match waitPlace w with | some p => s.detect 3 p (waitLane w) | none => s

/-- Two states agree in all but registers, outputs and the free values taken. -/
def Reported (s t : State) : Prop := t = { s with regs := t.regs, out := t.out, fresh := t.fresh }

section
variable (s : State) {w : Waiter} {r q h n : Nat} {f : Flit} {x : LWord}

theorem State.waitDetected_lane (e : w.on = .lane r q f) :
    s.waitDetected w = (s.canalFault r q (some (flitVl f)) 3).emit (.detection 3 (.router r q (flitVl f))) := by
  unfold State.waitDetected waitPlace waitLane
  rw [e]
  rfl

theorem State.waitDetected_lock (e : w.on = .lock h n x) :
    s.waitDetected w = (s.lockFault h n 3 (x.flit.map flitVl)).emit (.detection 3 (.lock h n)) := by
  unfold State.waitDetected waitPlace waitLane
  rw [e]
  rfl

theorem State.waitDetected_resource {k tag : Nat} (e : w.on = .resource k tag) : s.waitDetected w = s := by
  unfold State.waitDetected waitPlace waitLane
  rw [e]

variable (w)

/-- The detection is sent and may be kept in CANAL_FAULT of its own router; nothing else changes. -/
theorem State.waitDetected_effect : Reported s (s.waitDetected w) ∧ SameRegsBut s (s.waitDetected w) [regAddr T.row (waitBlock w).2 0xC48] ∧
    ∃ l, (s.waitDetected w).out = s.out ++ l ∧ ∀ p, waitPlace w = some p → .detection 3 p ∈ l := by
  cases e : w.on with
  | lane r q f =>
    have hb : (waitBlock w).2 = r := by rw [waitBlock, e]
    have honly := s.canalFault_only r q (some (flitVl f)) 3
    rw [s.waitDetected_lane e, hb]
    refine ⟨?_, (s.canalFault_regs r q (some (flitVl f)) 3).keep rfl rfl, [.detection 3 (.router r q (flitVl f))], ?_, fun p hp => ?_⟩
    · rw [Reported, State.emit, honly]
    · rw [State.emit_out, honly]
    · rw [waitPlace, e] at hp
      cases hp
      exact List.mem_singleton.2 rfl
  | lock h n x =>
    obtain ⟨hout, hregs, honly⟩ := s.detect_lock_effect 3 h n (x.flit.map flitVl)
    have hsub : lockFaultRegs h n ⊆ [regAddr T.row (waitBlock w).2 0xC48] := by
      unfold lockFaultRegs waitBlock
      rw [e]
      dsimp only
      cases lockRouter h n with
      | none => exact List.nil_subset _
      | some p => exact List.Subset.refl _
    rw [State.detect_lock, ← s.waitDetected_lock e] at hout hregs honly
    refine ⟨honly, hregs.mono hsub, [.detection 3 (.lock h n)], hout, fun p hp => ?_⟩
    rw [waitPlace, e] at hp
    cases hp
    exact List.mem_singleton.2 rfl
  | resource k tag =>
    rw [s.waitDetected_resource e]
    refine ⟨rfl, SameRegsBut.refl s _, [], (List.append_nil _).symm, fun p hp => ?_⟩
    rw [waitPlace, e] at hp
    cases hp

variable {w}

/-- CANAL_FAULT of a free router keeps the lane of a flit that has stalled. -/
theorem State.rd_canalFault_flit (hv : s.fbit F.CANAL_FAULT_VALID r = false) :
    (s.canalFault r q (some (flitVl f)) 3).rd T.row r 0xC48 = 2 ^ 31 + (2 * f.polder + f.cls) % 32 * 65536 + q % 16 * 256 + 3 := by
  rw [s.canalFault_lane q _ 3 hv, State.rd_wr_fault]
  rfl

theorem State.rd_waitDetected_lane (e : w.on = .lane r q f) (hv : s.fbit F.CANAL_FAULT_VALID r = false) :
    (s.waitDetected w).rd T.row r 0xC48 = 2 ^ 31 + (2 * f.polder + f.cls) % 32 * 65536 + q % 16 * 256 + 3 := by
  rw [s.waitDetected_lane e, State.emit_rd, s.rd_canalFault_flit hv]

theorem State.rd_waitDetected_lock (e : w.on = .lock h n x) (hx : x.flit = some f) (hr : lockRouter h n = some (r, q)) (hv : s.fbit F.CANAL_FAULT_VALID r = false) :
    (s.waitDetected w).rd T.row r 0xC48 = 2 ^ 31 + (2 * f.polder + f.cls) % 32 * 65536 + q % 16 * 256 + 3 := by
  rw [s.waitDetected_lock e, State.emit_rd, s.lockFault_some 3 _ hr, hx, Option.map_some, s.rd_canalFault_flit hv]

/-- Without a lock the lane of a detection is known, and no free value is taken. -/
theorem State.waitDetected_fresh (hno : ∀ hh k x, w.on ≠ .lock hh k x) : (s.waitDetected w).fresh = s.fresh := by
  cases e : w.on with
  | lane r q f =>
    rw [s.waitDetected_lane e, State.emit_fresh]
    cases hv : s.fbit F.CANAL_FAULT_VALID r
    · rw [s.canalFault_lane q _ 3 hv]
      rfl
    · rw [s.canalFault_held q _ 3 hv]
  | lock h n x => exact absurd e (hno h n x)
  | resource k tag => rw [s.waitDetected_resource e]

end

/-! ## The records of an abort (R596) -/

/-- The state of an abort as its error response goes out. -/
def State.abortSent (s : State) (w : Waiter) : State := (s.dropWait w).emit (.errorResponse w.who (waitTag w))

/-- The state of an abort once it is recorded, logged and counted, before its requester has the error response. -/
def State.abortNoted (s : State) (w : Waiter) : State :=
  ((((s.abortSent w).waitDetected w).rasLog 3 3 (waitBlock w).1 (waitBlock w).2 (waitTag w)).finc F.RAS_COUNTS_WAIT_ABORT 0).raise T.ras 0 I.RAS_WAIT_ABORT

theorem State.abortWait_eq (s : State) (w : Waiter) : s.abortWait w = (s.abortNoted w).abortResult w (s.ras.retried.contains (waitTag w)) := rfl

/-- Two states agree in all but registers, outputs, the free values taken and the fault log. -/
def Logged (s t : State) : Prop := t = { s with regs := t.regs, out := t.out, fresh := t.fresh, flog := t.flog }

theorem Logged.trans {s t u : State} (h : Logged s t) (k : Logged t u) : Logged s u := by
  unfold Logged at h k ⊢
  rw [k, h]

theorem Reported.logged {s t : State} (h : Reported s t) : Logged s t := by
  unfold Reported at h
  rw [h]
  rfl

section
variable (s : State) (w : Waiter)

theorem State.emit_logged (o : Out) : Logged s (s.emit o) := rfl

theorem State.finc_logged (f : Fld) (i n x : Nat) : Logged s (s.finc f i n x) := rfl

theorem State.raise_logged (t i b : Nat) : Logged s (s.raise t i b) := by
  rw [s.raise_only t i b]
  rfl

theorem State.rasLog_logged (kind cls typ inst detail : Nat) : Logged s (s.rasLog kind cls typ inst detail) := by
  unfold State.rasLog
  split
  · rfl
  · exact s.finc_logged ..

theorem State.abortNoted_logged : Logged (s.dropWait w) (s.abortNoted w) :=
  (((((s.dropWait w).emit_logged _).trans ((s.abortSent w).waitDetected_effect w).1.logged).trans (State.rasLog_logged ..)).trans (State.finc_logged ..)).trans (State.raise_logged ..)

theorem State.dropWait_regs : (s.dropWait w).regs = s.regs := by rw [s.dropWait_only w]
theorem State.dropWait_fuse : (s.dropWait w).fuse = s.fuse := by rw [s.dropWait_only w]
theorem State.dropWait_out : (s.dropWait w).out = s.out := by rw [s.dropWait_only w]
theorem State.dropWait_vk : (s.dropWait w).vk = s.vk := by rw [s.dropWait_only w]
theorem State.dropWait_flog : (s.dropWait w).flog = s.flog := by rw [s.dropWait_only w]
theorem State.dropWait_fresh : (s.dropWait w).fresh = s.fresh := by rw [s.dropWait_only w]

theorem State.abortSent_out : (s.abortSent w).out = s.out ++ [.errorResponse w.who (waitTag w)] := by
  rw [State.abortSent, State.emit_out, State.dropWait_out]

theorem State.abortSent_regs (l : List Nat) : SameRegsBut s (s.abortSent w) l := (SameRegsBut.refl s l).keep (s.dropWait_regs w) (s.dropWait_fuse w)

theorem State.abortNoted_fab : (s.abortNoted w).fab = (s.dropWait w).fab := by rw [s.abortNoted_logged w]
theorem State.abortNoted_vk : (s.abortNoted w).vk = s.vk := by rw [s.abortNoted_logged w, State.dropWait_vk]

/-- The outputs of an abort: the error response, then its detection and the message of its cause. -/
theorem State.abortNoted_out : ∃ l, (s.abortNoted w).out = s.out ++ .errorResponse w.who (waitTag w) :: l ∧ ∀ p, waitPlace w = some p → .detection 3 p ∈ l := by
  obtain ⟨l, hl, hp⟩ := ((s.abortSent w).waitDetected_effect w).2.2
  obtain ⟨m, hm⟩ := State.raise_sends ((((s.abortSent w).waitDetected w).rasLog 3 3 (waitBlock w).1 (waitBlock w).2 (waitTag w)).finc F.RAS_COUNTS_WAIT_ABORT 0) T.ras 0 I.RAS_WAIT_ABORT
  refine ⟨l ++ m, ?_, fun p h => List.mem_append_left _ (hp p h)⟩
  rw [State.abortNoted, hm, State.finc_out, State.rasLog_out, hl, State.abortSent_out, List.append_assoc, List.append_assoc]
  rfl

/-- The abort is counted in RAS_COUNTS. -/
theorem State.abortNoted_count : (s.abortNoted w).fget F.RAS_COUNTS_WAIT_ABORT 0 = min (s.fget F.RAS_COUNTS_WAIT_ABORT 0 + 1) (2 ^ F.RAS_COUNTS_WAIT_ABORT.w - 1) := by
  have hd := ((s.abortSent w).waitDetected_effect w).2.1.fget F.RAS_COUNTS_WAIT_ABORT 0 0 (fun h => regAddr_ne_of_mod (by decide) (List.mem_singleton.1 h))
  rw [State.abortNoted, (StaysNoted.raise ..).count, State.fget_finc_same _ _ _ _ _ (by decide), (State.rasLog_staysNoted ..).count, hd,
    (s.abortSent_regs w []).fget F.RAS_COUNTS_WAIT_ABORT 0 0 List.not_mem_nil]

theorem State.abortNoted_cause : causeSet (s.abortNoted w) T.ras 0 I.RAS_WAIT_ABORT := causeSet_raise _ _ _ _ (by decide) (by decide)

/-- The records of an abort leave CANAL_FAULT as its detection did. -/
theorem State.abortNoted_fault (r : Nat) : (s.abortNoted w).rd T.row r 0xC48 = ((s.abortSent w).waitDetected w).rd T.row r 0xC48 := by
  rw [State.abortNoted, (StaysNoted.raise ..).fault, State.finc, State.fset, State.rd_wr_ne _ _ (regAddr_ne_of_mod (by decide)), (State.rasLog_staysNoted ..).fault]

theorem State.abortSent_valid (r : Nat) : (s.abortSent w).fbit F.CANAL_FAULT_VALID r = s.fbit F.CANAL_FAULT_VALID r := by
  rw [State.fbit, (s.abortSent_regs w []).fget F.CANAL_FAULT_VALID r 0 List.not_mem_nil, State.fbit]

theorem State.abortNoted_regs :
    SameRegsBut s (s.abortNoted w) [regAddr T.row (waitBlock w).2 0xC48, fieldAt F.RAS_COUNTS_WAIT_ABORT 0, fieldAt F.RAS_FLOG_CTRL_OVF 0, causeAt T.ras 0] := by
  have hd := (s.abortSent_regs w _).trans (((s.abortSent w).waitDetected_effect w).2.1.mono
    (k := [regAddr T.row (waitBlock w).2 0xC48, fieldAt F.RAS_COUNTS_WAIT_ABORT 0, fieldAt F.RAS_FLOG_CTRL_OVF 0, causeAt T.ras 0]) (by simp))
  have hl := hd.trans ((State.rasLog_regs _ 3 3 (waitBlock w).1 (waitBlock w).2 (waitTag w)).mono (by simp))
  exact (hl.finc F.RAS_COUNTS_WAIT_ABORT 0 1 0 (by simp)).raise T.ras 0 I.RAS_WAIT_ABORT (by simp)

/-- An abort is logged while the fault log has room. -/
theorem State.abortNoted_flog (h : s.flog.length < 16) : (s.abortNoted w).flog.length = s.flog.length + 1 := by
  have hd : ((s.abortSent w).waitDetected w).flog = s.flog := by
    rw [((s.abortSent w).waitDetected_effect w).1, State.abortSent, State.emit_flog, State.dropWait_flog]
  rw [State.abortNoted, State.raise_flog, State.finc_flog, State.rasLog, hd, if_pos h]
  exact List.length_append ..

theorem State.abortNoted_fresh (hno : ∀ hh k x, w.on ≠ .lock hh k x) : (s.abortNoted w).fresh = s.fresh := by
  have hlog : ∀ (u : State) kind cls typ inst detail, (u.rasLog kind cls typ inst detail).fresh = u.fresh := fun u _ _ _ _ _ => by
    unfold State.rasLog
    split
    · rfl
    · rw [State.finc_fresh]
  rw [State.abortNoted, State.raise_fresh, State.finc_fresh, hlog, State.waitDetected_fresh _ hno, State.abortSent, State.emit_fresh, State.dropWait_fresh]

end

/-! ## WAIT_STALL (R62, R63, R596) -/

section
variable {s : State} {w : Waiter} {h : Nat}

/-- What a stone makes of the error response leaves the fabric (R130). -/
theorem State.abortResult_stone (u : State) {n : Nat} (hw : w.who = .stone n) (again : Bool) : (u.abortResult w again).fab = u.fab := by
  unfold State.abortResult
  rw [hw]
  dsimp only
  split
  · exact (u.farDone_fails ..).fab
  · rfl

theorem State.abortResult_unit (u : State) {n : Nat} (hw : w.who = .unit n) (again : Bool) : u.abortResult w again = u := by
  unfold State.abortResult
  rw [hw]

theorem State.abortResult_vorak (u : State) {p ring tag : Nat} {c : VCmd} (hw : w.who = .vorak p ring tag) (hf : u.findCmd p ring tag = some c) (again : Bool) :
    u.abortResult w again = u.complete c 0xA := by
  unfold State.abortResult
  rw [hw]
  dsimp only
  rw [hf]

theorem State.abortResult_millhouse (u : State) (hw : w.who = .millhouse) : (u.abortResult w true).fget F.RAS_STAT_DEVICE_FAULT 0 = 1 := by
  have e : u.millhouseAborted w true = u.deviceFault 3 (waitBlock w).1 (waitBlock w).2 (waitTag w) := if_pos rfl
  unfold State.abortResult
  rw [hw]
  dsimp only
  rw [e, State.deviceFault_stat]

/-- A command whose request is aborted completes FAULTED (R596). -/
theorem abortWait_vorak {p ring tag : Nat} {c : VCmd} (hw : w.who = .vorak p ring tag) (hf : s.findCmd p ring tag = some c)
    (hone : ∀ x ∈ s.vk.cmds, x.order = c.order → x = c) : CompletedWith s (s.abortWait w) c 0xA := by
  have hvk := s.abortNoted_vk w
  have hf' : (s.abortNoted w).findCmd p ring tag = some c := by rw [← hf, State.findCmd, hvk, State.findCmd]
  obtain ⟨hcmds, hout⟩ := State.complete_completedWith (st := 0xA) (by decide) hf' (by rw [hvk]; exact hone)
  obtain ⟨l, hl, -⟩ := s.abortNoted_out w
  rw [State.abortWait_eq, State.abortResult_vorak _ hw hf']
  refine ⟨hcmds, fun hs => ?_⟩
  obtain ⟨m, addr, bytes, hm, hin, hlen, htake⟩ := hout hs
  exact ⟨.errorResponse w.who (waitTag w) :: l ++ m, addr, bytes, by rw [hm, hl, List.append_assoc], List.mem_append_right _ hin, hlen, htake⟩

/-- For a unit of no named effect nothing else changes. -/
theorem abortWait_unit {n : Nat} (hw : w.who = .unit n) (hno : ∀ hh k x, w.on ≠ .lock hh k x) :
    (s.abortWait w).fab = { s.fab with waiters := s.fab.waiters.erase w } ∧ (s.flog.length < 16 → (s.abortWait w).flog.length = s.flog.length + 1) ∧
      SameRegsBut s (s.abortWait w) [regAddr T.row (waitBlock w).2 0xC48, fieldAt F.RAS_COUNTS_WAIT_ABORT 0, fieldAt F.RAS_FLOG_CTRL_OVF 0, causeAt T.ras 0] ∧
      s.abortWait w = { s with regs := (s.abortWait w).regs, out := (s.abortWait w).out, fab := (s.abortWait w).fab, flog := (s.abortWait w).flog } := by
  rw [State.abortWait_eq, State.abortResult_unit _ hw]
  have hdrop : s.dropWait w = { s with fab := { s.fab with waiters := s.fab.waiters.erase w } } := by
    rw [s.dropWait_unlocked hno, State.endWait, hw]
    rfl
  have hfab : (s.abortNoted w).fab = { s.fab with waiters := s.fab.waiters.erase w } := by rw [s.abortNoted_fab w, hdrop]
  refine ⟨hfab, s.abortNoted_flog w, s.abortNoted_regs w, ?_⟩
  have hlog := s.abortNoted_logged w
  unfold Logged at hlog
  rw [s.abortNoted_fresh w hno, hdrop] at hlog
  rw [hfab]
  exact hlog

theorem abortWait_stone {n : Nat} (hw : w.who = .stone n) (hno : ∀ hh k x, w.on ≠ .lock hh k x) :
    (s.abortWait w).fab = { s.fab with waiters := s.fab.waiters.erase w } := by
  rw [State.abortWait_eq, State.abortResult_stone _ hw, State.abortNoted_fab, s.dropWait_unlocked hno, State.endWait]

/-- The records of an abort, whatever its requester makes of the error response. -/
theorem abortWait_noted (s : State) (w : Waiter) : ∃ o, (s.abortWait w).out = s.out ++ .errorResponse w.who (waitTag w) :: o ∧
    (∀ p, waitPlace w = some p → .detection 3 p ∈ o) ∧
    (s.abortWait w).fget F.RAS_COUNTS_WAIT_ABORT 0 = min (s.fget F.RAS_COUNTS_WAIT_ABORT 0 + 1) (2 ^ F.RAS_COUNTS_WAIT_ABORT.w - 1) ∧
    causeSet (s.abortWait w) T.ras 0 I.RAS_WAIT_ABORT ∧ ∀ r, (s.abortWait w).rd T.row r 0xC48 = ((s.abortSent w).waitDetected w).rd T.row r 0xC48 := by
  obtain ⟨l, hl, hp⟩ := s.abortNoted_out w
  obtain ⟨⟨m, hm⟩, hcount, hcause, hfault⟩ := (s.abortNoted w).abortResult_staysNoted w (s.ras.retried.contains (waitTag w))
  rw [← State.abortWait_eq] at hm hcount hcause hfault
  exact ⟨l ++ m, by rw [hm, hl, List.append_assoc]; rfl, fun p h => List.mem_append_left _ (hp p h), by rw [hcount, State.abortNoted_count],
    hcause (s.abortNoted_cause w), fun r => by rw [hfault, State.abortNoted_fault]⟩

/-- Does the watchdog of a wait fire: it has counted VANE_WD.WAIT ticks, or its die has lost the tick? -/
def State.waitFires (s : State) (h : Nat) (w : Waiter) : Bool := w.half == h && (decide (s.fget F.VANE_WD_WAIT h ≤ w.ticks) || s.tickLost h)

theorem waitStall_quiet (hq : ∀ w ∈ s.timedWaiters, w.half = h → w.ticks < s.fget F.VANE_WD_WAIT h) (hl : s.tickLost h = false) :
    exec (.waitStall ⟨h⟩) s = .next s := by
  have e : s.timedWaiters.any (s.waitFires h) = false := List.any_eq_false.2 fun w hm => by
    by_cases hh : w.half = h
    · simp [State.waitFires, hl, hq w hm hh]
    · simp [State.waitFires, hh]
  exact if_neg (Bool.eq_false_iff.1 e)

/-- Where a watchdog fires, a wait that has counted half of its own and that no other such wait began after is aborted. -/
theorem waitStall_aborts {w0 : Waiter} (hm : w0 ∈ s.timedWaiters) (hh : w0.half = h) (hf : s.fget F.VANE_WD_WAIT h ≤ w0.ticks ∨ s.tickLost h = true) :
    ∃ w, exec (.waitStall ⟨h⟩) s = .next (s.abortWait w) ∧ w ∈ s.timedWaiters ∧ s.halfCounted w ∧ ∀ v ∈ s.timedWaiters, s.halfCounted v → NoEarlier w v := by
  have hhalf : s.halfCounted w0 := by
    unfold State.halfCounted
    rw [hh]
    exact hf.imp (fun hle => by omega) id
  obtain ⟨w, hc, hin, hw, hle⟩ := State.abortChoice_some hm hhalf
  have e : s.timedWaiters.any (s.waitFires h) = true := List.any_eq_true.2 ⟨w0, hm, by simpa [State.waitFires, hh] using hf⟩
  refine ⟨w, ?_, hin, hw, hle⟩
  have hexec : exec (.waitStall ⟨h⟩) s = match s.abortChoice s.timedWaiters with | some w => .next (s.abortWait w) | none => .next s := if_pos e
  rw [hexec, hc]

end

/-! ## The statement on handshakes and stalls -/

/-- Settles O9: handshakes and stages by their detections, and an aborted wait by its records and by what its requester makes of the error response. -/
theorem handshakesAndStalls : Obligations.HandshakesAndStalls := by
  intro s Det hDet
  have hdet : ∀ {t k pl}, Detected s t k pl → Det t k pl := fun h => (hDet _ _ _).2 h
  refine ⟨fun pl n rails ha hr => ⟨congrArg _ (handshake_captures ha hr), congrArg _ (handshake_captures ha hr)⟩, fun pl n rails c h => ?_,
    fun pl n rails c ha hr hs => congrArg _ (handshake_waits ha hr hs), fun pl n => ⟨fun hs hw => ?_, stageStall_quiet⟩, ?_⟩
  · obtain ⟨t, he, hword, hack, hd, hrest⟩ := handshake_invalid h
    exact ⟨t, he, hword, hack, hdet hd, hrest⟩
  · obtain ⟨t, he, hd, honly⟩ := stageStall_reports hs hw
    exact ⟨t, he, hdet hd, honly⟩
  · rintro h l rfl
    refine ⟨waitStall_quiet, fun w0 hm hh hf => ?_⟩
    obtain ⟨w, he, hin, hw, hle⟩ := waitStall_aborts hm hh hf
    obtain ⟨o, hout, hdetected, hcount, hcause, hfault⟩ := abortWait_noted s w
    refine ⟨_, w, o, he, hin, hw, hle, hout, hcount, hcause, fun r q f e hv => ⟨hdetected _ (by rw [waitPlace, e]; rfl), ?_⟩,
      fun hh k x r q f e hx hr hv => ⟨hdetected _ (by rw [waitPlace, e]), ?_⟩, fun n hw hno => abortWait_stone hw hno, fun n hw hno => abortWait_unit hw hno,
      fun p ring tag c hw hf hone => abortWait_vorak hw hf hone, fun hw hagain => ?_⟩
    · rw [hfault, State.rd_waitDetected_lane _ e (by rw [State.abortSent_valid, hv])]
    · rw [hfault, State.rd_waitDetected_lock _ e hx hr (by rw [State.abortSent_valid, hv])]
    · rw [State.abortWait_eq, hagain]
      exact State.abortResult_millhouse _ hw

end Sys2Proof.Machine
end
